-- ==== Sys2Proof/Word.lean ====
section
/-! DEFINITION. The word types of the machine (00 R4; 01 R9, R22). -/

namespace Sys2Proof

/-- A byte of memory. -/
abbrev Byte := BitVec 8

/-- A 64-bit word. -/
abbrev Word := BitVec 64

/-- The bits of a general register (01 R9). -/
abbrev Quad := BitVec 128

end Sys2Proof
end

