-- ==== Sys2Proof/Config.lean ====
section
/-! DEFINITION. What is fixed for one machine: the figures of 00 R2 and 11 R218 to R226, the layout of
the model's one physical address space, and the free values, which the spec leaves open and which no
proof can see (they have no body). -/

namespace Sys2Proof.Config

/-- LP-DDR-5X of the package, 1.5 TiB (11 R225). -/
abbrev ddrSize : Nat := 0x18000000000

/-- Where shared memory stands in the model's physical space (log 5). -/
abbrev sharedBase : Nat := 0x20000000000

/-- Shared memory: six dies, each at its die offset of 32 bits (11 R226). -/
abbrev sharedSize : Nat := 0x600000000

/-- Shared memory of one die, 3 GiB (11 R226). -/
abbrev sharedDie : Nat := 0xC0000000

/-- Where the local memories stand in the model's physical space (log 5). -/
abbrev localBase : Nat := 0x30000000000

/-- The mesh window, 4 GiB (11 R218). -/
abbrev meshSize : Nat := 0x100000000

/-- The shared window, 32 GiB (11 R218). -/
abbrev windowSize : Nat := 0x800000000

/-- Local memory of an S-core, 128 KiB (11 R224). -/
abbrev localS : Nat := 0x20000

/-- Local memory of a G-core, 256 KiB (11 R224). -/
abbrev localG : Nat := 0x40000

/-- Entries of a posted-store journal (12 R250). -/
abbrev journalSize : Nat := 64

/-- Messages a receive queue holds (11 R243). -/
abbrev queueSize : Nat := 16

/-- A value the spec leaves open, one for each count of the free-value counter (log 4). -/
opaque freeWord : Nat → Word

/-- A byte of a package's memory as another reads it: what it holds is not in the model (log 16). -/
opaque farByte : Nat → Nat → Byte

/-- Whether a line of another package reads as poisoned (log 16). -/
opaque farPoison : Nat → Nat → Bool

/-- The REASON, if any, with which another package refuses a write of a line (log 16). -/
opaque farRefusal : Nat → Nat → Option (BitVec 4)

/-- What a replica of the batching table in another package answers to a list or a COMMIT, by a number of the operation and of the
replica: whether it accepts, or none if it does not answer (log 44). -/
opaque farReplica : Nat → Nat → Option Bool

/-- SHA-256 of the ROM (26 R493; log 19). -/
opaque romDigest : BitVec 256

/-- What is measured of the firmware extensions in module flash, and whether they verify (26 R493; log 19). -/
opaque flashDigest : BitVec 256

/-- Whether an extension is present and verifies against the vendor key (26 R493; log 19). -/
opaque flashVerified : Bool

/-- The hash of the owner public keys in module flash (26 R493; log 19). -/
opaque ownerDigest : BitVec 256

/-- How many owner keys are enrolled (26 R493; log 19). -/
opaque ownerKeys : Nat

/-- Whether a signature section holds a signature of an object's digest by an owner key (26 R499; log 19). -/
opaque ownerSigned : BitVec 256 → List Byte → Bool

/-- The time configuration word that IDENTIFY replies (26 R489; log 19). -/
opaque timeConfig : Word

/-- The modulus of the device identity key, as a number of 3,072 bits (26 R489; log 19). -/
opaque identityModulus : BitVec 3072

/-- The signature of a report by the device identity key, with the salt of a count of free values (26 R494; log 19). -/
opaque signature : List Byte → Nat → BitVec 3072

/-- Machine code that the loader forms from a list of relay words (26 R503; log 20). -/
opaque relayCode : List Word → List Byte

end Sys2Proof.Config
end

