-- ==== Sys2Proof/Syntax.lean ====
section
/-! DEFINITION. The instruction set as data: one constructor of `Instr` for each row of
spec/opcode_table.json: the encoded rows with fields, those without, then the events. Rows 0 to 269 are the encoded instructions (04 R79 to R101): a register field
is its 6-bit code, a one-bit field a Bool, an immediate its raw field. Rows 270 to 369 have no bits:
they are what the machine's other agents do (a home, an engine, the scheduler, the resident handler,
the firmware, the host), and their arguments say which object moves. -/

namespace Sys2Proof

/-- A fabric flit as it is received (22 R429): the header fields and the lines it carries. -/
structure Flit where
  seq : Nat
  dpkg : BitVec 8
  spkg : BitVec 8
  dcoord : BitVec 13
  scoord : BitVec 13
  kind : BitVec 6
  addr : BitVec 56
  bmask : BitVec 64
  opf : BitVec 272
  lines : List Byte
  /-- The CRC-32C over the flit with this field as 0. -/
  lcrc : BitVec 32
  deriving DecidableEq, Repr

/-- What a launch-control flit says (22 R444). -/
inductive LaunchWord where
  | acknowledge
  | go
  | abort
  deriving DecidableEq, Repr

/-- A launch-control flit (22 R429 KIND 9, R444): its word, the GROUP and slot time of the launch and
the package that sent it; with GO, the packages that receive it. -/
structure LaunchFlit where
  word : LaunchWord
  group : Nat
  slot : Nat
  spkg : BitVec 8
  map : BitVec 256
  deriving DecidableEq, Repr

/-- One constructor per row of spec/opcode_table.json, the encoded ones with fields first. -/
inductive Instr where
  /-- ADD (R104): Writes the 64-bit wrapping sum A + B to d as DATA. -/
  | add (b : BitVec 6) (a : BitVec 6) (n : Bool) (d : BitVec 6) (u : Bool)
  /-- SUB (R104): Writes the 64-bit wrapping difference A − B to d. -/
  | sub (b : BitVec 6) (a : BitVec 6) (n : Bool) (d : BitVec 6) (u : Bool)
  /-- MUL (R104): Writes the low 64 bits of A × B to d. -/
  | mul (b : BitVec 6) (a : BitVec 6) (n : Bool) (d : BitVec 6) (u : Bool)
  /-- MULH_I (R104): Writes the high 64 bits of the signed 128-bit product to d. -/
  | mulhI (b : BitVec 6) (a : BitVec 6) (n : Bool) (d : BitVec 6) (u : Bool)
  /-- MULH_N (R104): Writes the high 64 bits of the natural 128-bit product to d. -/
  | mulhN (b : BitVec 6) (a : BitVec 6) (n : Bool) (d : BitVec 6) (u : Bool)
  /-- DIV_I (R104): Long signed division truncating toward zero, readable after 20 clk. -/
  | divI (b : BitVec 6) (a : BitVec 6) (d : BitVec 6) (u : Bool)
  /-- DIV_N (R104): Long natural division, all ones on a zero divisor. -/
  | divN (b : BitVec 6) (a : BitVec 6) (d : BitVec 6) (u : Bool)
  /-- REM_I (R104): Long signed remainder with the sign of the dividend. -/
  | remI (b : BitVec 6) (a : BitVec 6) (d : BitVec 6) (u : Bool)
  /-- REM_N (R104): Long natural remainder, the dividend on a zero divisor. -/
  | remN (b : BitVec 6) (a : BitVec 6) (d : BitVec 6) (u : Bool)
  /-- AND (R104): Writes A AND B to d. -/
  | and (b : BitVec 6) (a : BitVec 6) (n : Bool) (d : BitVec 6) (u : Bool)
  /-- OR (R104): Writes A OR B to d. -/
  | or (b : BitVec 6) (a : BitVec 6) (n : Bool) (d : BitVec 6) (u : Bool)
  /-- XOR (R104): Writes A XOR B to d. -/
  | xor (b : BitVec 6) (a : BitVec 6) (n : Bool) (d : BitVec 6) (u : Bool)
  /-- ANDN (R104): Writes A AND NOT B to d. -/
  | andn (b : BitVec 6) (a : BitVec 6) (n : Bool) (d : BitVec 6) (u : Bool)
  /-- SHL (R104): Shifts A left by B[5:0]. -/
  | shl (b : BitVec 6) (a : BitVec 6) (n : Bool) (d : BitVec 6) (u : Bool)
  /-- SHR (R104): Shifts A right by B[5:0] with zeros in. -/
  | shr (b : BitVec 6) (a : BitVec 6) (n : Bool) (d : BitVec 6) (u : Bool)
  /-- SAR (R104): Shifts A right arithmetically by B[5:0]. -/
  | sar (b : BitVec 6) (a : BitVec 6) (n : Bool) (d : BitVec 6) (u : Bool)
  /-- ROL (R104): Rotates A left by B[5:0]. -/
  | rol (b : BitVec 6) (a : BitVec 6) (n : Bool) (d : BitVec 6) (u : Bool)
  /-- ROR (R104): Rotates A right by B[5:0]. -/
  | ror (b : BitVec 6) (a : BitVec 6) (n : Bool) (d : BitVec 6) (u : Bool)
  /-- CLZ (R104): Counts leading zero bits of A. -/
  | clz (a : BitVec 6) (n : Bool) (d : BitVec 6) (u : Bool)
  /-- CTZ (R104): Counts trailing zero bits of A. -/
  | ctz (a : BitVec 6) (n : Bool) (d : BitVec 6) (u : Bool)
  /-- POPC (R104): Counts one bits of A. -/
  | popc (a : BitVec 6) (n : Bool) (d : BitVec 6) (u : Bool)
  /-- MIN_I (R104): Writes the signed minimum of A and B. -/
  | minI (b : BitVec 6) (a : BitVec 6) (n : Bool) (d : BitVec 6) (u : Bool)
  /-- MAX_I (R104): Writes the signed maximum of A and B. -/
  | maxI (b : BitVec 6) (a : BitVec 6) (n : Bool) (d : BitVec 6) (u : Bool)
  /-- MIN_N (R104): Writes the natural minimum of A and B. -/
  | minN (b : BitVec 6) (a : BitVec 6) (n : Bool) (d : BitVec 6) (u : Bool)
  /-- MAX_N (R104): Writes the natural maximum of A and B. -/
  | maxN (b : BitVec 6) (a : BitVec 6) (n : Bool) (d : BitVec 6) (u : Bool)
  /-- SEQ (R104): Writes 1 if A = B, else 0. -/
  | seq (b : BitVec 6) (a : BitVec 6) (n : Bool) (d : BitVec 6) (u : Bool)
  /-- SNE (R104): Writes 1 if A ≠ B, else 0. -/
  | sne (b : BitVec 6) (a : BitVec 6) (n : Bool) (d : BitVec 6) (u : Bool)
  /-- SLT_I (R104): Writes 1 if A < B signed, else 0. -/
  | sltI (b : BitVec 6) (a : BitVec 6) (n : Bool) (d : BitVec 6) (u : Bool)
  /-- SLT_N (R104): Writes 1 if A < B natural, else 0. -/
  | sltN (b : BitVec 6) (a : BitVec 6) (n : Bool) (d : BitVec 6) (u : Bool)
  /-- SEL (R104): Writes A if D ≠ 0, else B, as DATA. -/
  | sel (b : BitVec 6) (a : BitVec 6) (n : Bool) (d : BitVec 6) (u : Bool)
  /-- SEXT (R105): Sign-extends the low 8, 16 or 32 bits of A by a literal width code. -/
  | sext (w : BitVec 6) (a : BitVec 6) (n : Bool) (d : BitVec 6) (u : Bool)
  /-- ZEXT (R105): Zero-extends the low 8, 16 or 32 bits of A by a literal width code. -/
  | zext (w : BitVec 6) (a : BitVec 6) (n : Bool) (d : BitVec 6) (u : Bool)
  /-- BFX (R105): Extracts the bit field of A given by position and width in B. -/
  | bfx (b : BitVec 6) (a : BitVec 6) (n : Bool) (d : BitVec 6) (u : Bool)
  /-- BFI (R105): Writes D with a bit field replaced from A. -/
  | bfi (b : BitVec 6) (a : BitVec 6) (n : Bool) (d : BitVec 6) (u : Bool)
  /-- MOV (R105): Copies all 128 bits and the tag of a, SYM and poison included. -/
  | mov (a : BitVec 6) (n : Bool) (d : BitVec 6) (u : Bool)
  /-- RNG (R106): Writes Mix(key A, counter B), the counter-based random bijection. -/
  | rng (b : BitVec 6) (a : BitVec 6) (n : Bool) (d : BitVec 6) (u : Bool)
  /-- CBASE (R109): Writes the base index of the capability fields of a. -/
  | cbase (a : BitVec 6) (n : Bool) (d : BitVec 6) (u : Bool)
  /-- CTOP (R109): Writes the top index of a. -/
  | ctop (a : BitVec 6) (n : Bool) (d : BitVec 6) (u : Bool)
  /-- CLEN (R109): Writes L·2^E of a. -/
  | clen (a : BitVec 6) (n : Bool) (d : BitVec 6) (u : Bool)
  /-- CPERM (R109): Writes the permission bits of a. -/
  | cperm (a : BitVec 6) (n : Bool) (d : BitVec 6) (u : Bool)
  /-- CWALK (R109): Writes the walk descriptor of a. -/
  | cwalk (a : BitVec 6) (n : Bool) (d : BitVec 6) (u : Bool)
  /-- CTAG (R109): Writes 1 if a is CAP, else 0. -/
  | ctag (a : BitVec 6) (n : Bool) (d : BitVec 6) (u : Bool)
  /-- CBOUND (R111): Sets bounds of length B around the cursor, or gives DATA if not representable within the source bounds. -/
  | cbound (b : BitVec 6) (a : BitVec 6) (n : Bool) (d : BitVec 6) (u : Bool)
  /-- CAND (R110): Clears permissions of a not set in B[7:0]. -/
  | cand (b : BitVec 6) (a : BitVec 6) (n : Bool) (d : BitVec 6) (u : Bool)
  /-- CWSET (R112): Sets the walk descriptor, giving CAP only for a capability covering the whole mesh window. -/
  | cwset (b : BitVec 6) (a : BitVec 6) (n : Bool) (d : BitVec 6) (u : Bool)
  /-- CSET (R110): Moves the cursor of a to address B. -/
  | cset (b : BitVec 6) (a : BitVec 6) (n : Bool) (d : BitVec 6) (u : Bool)
  /-- CINC (R110): Adds the signed B to the cursor index of a. -/
  | cinc (b : BitVec 6) (a : BitVec 6) (n : Bool) (d : BitVec 6) (u : Bool)
  /-- CDIFF (R113): Writes the signed index distance between a and b. -/
  | cdiff (b : BitVec 6) (a : BitVec 6) (n : Bool) (d : BitVec 6) (u : Bool)
  /-- CCLR (R110): Writes the 128 bits of a as DATA. -/
  | cclr (a : BitVec 6) (n : Bool) (d : BitVec 6) (u : Bool)
  /-- CWITHIN (R113): Writes 1 if a B-byte access at the cursor would pass bounds. -/
  | cwithin (b : BitVec 6) (a : BitVec 6) (n : Bool) (d : BitVec 6) (u : Bool)
  /-- CCOORD (R109): Writes the core coordinates of the cursor in the mesh window, or all ones. -/
  | ccoord (a : BitVec 6) (n : Bool) (d : BitVec 6) (u : Bool)
  /-- JR (R121): Jumps to the code capability in a after tag, permission and alignment checks. -/
  | jr (a : BitVec 6) (u : Bool)
  /-- CALLR (R121): Jumps to the capability in a and writes the return capability to k55. -/
  | callr (a : BitVec 6) (u : Bool)
  /-- RET (R122): Jumps to the capability in a; to an exit capability it ends the strand or lane. -/
  | ret (a : BitVec 6) (u : Bool)
  /-- SYM_WAIT (R124): Blocks while a is a live symbol, traps if poisoned. -/
  | symWait (a : BitVec 6) (u : Bool)
  /-- SYM_TEST (R124): Writes 0, 1 or 2 for not SYM, live symbol or poisoned. -/
  | symTest (a : BitVec 6) (d : BitVec 6) (u : Bool)
  /-- XPUT (R125): Writes bits [63:0] of a into an operand-extension register. -/
  | xput (a : BitVec 6) (xi : BitVec 6)
  /-- XGET (R125): Writes an operand-extension register to d as DATA. -/
  | xget (xi : BitVec 6) (d : BitVec 6)
  /-- FADD (R128): Floating add rounded once in RM. -/
  | fadd (b : BitVec 6) (a : BitVec 6) (n : Bool) (d : BitVec 6) (t : BitVec 2) (u : Bool)
  /-- FSUB (R128): Floating subtract rounded once. -/
  | fsub (b : BitVec 6) (a : BitVec 6) (n : Bool) (d : BitVec 6) (t : BitVec 2) (u : Bool)
  /-- FMUL (R128): Floating multiply rounded once. -/
  | fmul (b : BitVec 6) (a : BitVec 6) (n : Bool) (d : BitVec 6) (t : BitVec 2) (u : Bool)
  /-- FMA (R128): Fused d + a × b with one rounding. -/
  | fma (b : BitVec 6) (a : BitVec 6) (n : Bool) (d : BitVec 6) (t : BitVec 2) (u : Bool)
  /-- FMS (R128): Fused d − a × b with one rounding. -/
  | fms (b : BitVec 6) (a : BitVec 6) (n : Bool) (d : BitVec 6) (t : BitVec 2) (u : Bool)
  /-- FNMA (R128): Fused −(d + a × b) with one rounding. -/
  | fnma (b : BitVec 6) (a : BitVec 6) (n : Bool) (d : BitVec 6) (t : BitVec 2) (u : Bool)
  /-- FDIV (R129): Long correctly rounded division. -/
  | fdiv (b : BitVec 6) (a : BitVec 6) (d : BitVec 6) (t : BitVec 2) (u : Bool)
  /-- FSQRT (R129): Long correctly rounded square root. -/
  | fsqrt (a : BitVec 6) (d : BitVec 6) (t : BitVec 2) (u : Bool)
  /-- FEXP2 (R129): Long correctly rounded 2^a in FP32. -/
  | fexp2 (a : BitVec 6) (d : BitVec 6) (u : Bool)
  /-- FLOG2 (R129): Long correctly rounded log2 a in FP32. -/
  | flog2 (a : BitVec 6) (d : BitVec 6) (u : Bool)
  /-- FMIN (R130): IEEE minimum of a and b. -/
  | fmin (b : BitVec 6) (a : BitVec 6) (n : Bool) (d : BitVec 6) (t : BitVec 2) (u : Bool)
  /-- FMAX (R130): IEEE maximum of a and b. -/
  | fmax (b : BitVec 6) (a : BitVec 6) (n : Bool) (d : BitVec 6) (t : BitVec 2) (u : Bool)
  /-- FABS (R131): Clears the sign bit of a. -/
  | fabs (a : BitVec 6) (n : Bool) (d : BitVec 6) (t : BitVec 2) (u : Bool)
  /-- FNEG (R131): Inverts the sign bit of a. -/
  | fneg (a : BitVec 6) (n : Bool) (d : BitVec 6) (t : BitVec 2) (u : Bool)
  /-- FSGN (R131): Gives a's magnitude with b's sign. -/
  | fsgn (b : BitVec 6) (a : BitVec 6) (n : Bool) (d : BitVec 6) (t : BitVec 2) (u : Bool)
  /-- FCEQ (R132): Writes 1 when a = b. -/
  | fceq (b : BitVec 6) (a : BitVec 6) (n : Bool) (d : BitVec 6) (t : BitVec 2) (u : Bool)
  /-- FCLT (R132): Writes 1 when a < b. -/
  | fclt (b : BitVec 6) (a : BitVec 6) (n : Bool) (d : BitVec 6) (t : BitVec 2) (u : Bool)
  /-- FCLE (R132): Writes 1 when a ≤ b. -/
  | fcle (b : BitVec 6) (a : BitVec 6) (n : Bool) (d : BitVec 6) (t : BitVec 2) (u : Bool)
  /-- FCUN (R132): Writes 1 when either operand is a NaN. -/
  | fcun (b : BitVec 6) (a : BitVec 6) (n : Bool) (d : BitVec 6) (t : BitVec 2) (u : Bool)
  /-- FCLASS (R133): Writes a one-hot class mask of a. -/
  | fclass (a : BitVec 6) (n : Bool) (d : BitVec 6) (t : BitVec 2) (u : Bool)
  /-- FROUND (R134): Rounds a to an integral value in its own format. -/
  | fround (a : BitVec 6) (n : Bool) (d : BitVec 6) (t : BitVec 2) (u : Bool)
  /-- FCVT_FF (R136): Converts between floating formats. -/
  | fcvtFf (sc : BitVec 2) (a : BitVec 6) (n : Bool) (d : BitVec 6) (t : BitVec 2) (u : Bool)
  /-- FCVT_FI (R137): Converts a float to an integer type with saturation in a chosen mode. -/
  | fcvtFi (rr : BitVec 3) (imm : BitVec 3) (a : BitVec 6) (n : Bool) (d : BitVec 6) (t : BitVec 2) (u : Bool)
  /-- FCVT_IF (R138): Converts an integer type to a float. -/
  | fcvtIf (imm : BitVec 3) (a : BitVec 6) (n : Bool) (d : BitVec 6) (t : BitVec 2) (u : Bool)
  /-- FMT_SET (R324): Writes the format register, checked for reserved values. -/
  | fmtSet (a : BitVec 6)
  /-- FMT_GET (R324): Reads the format register into d. -/
  | fmtGet (d : BitVec 6) (u : Bool)
  /-- QMAX (R325): Folds an FP32 element into a max/min key contribution. -/
  | qmax (b : BitVec 6) (a : BitVec 6) (d : BitVec 6) (u : Bool)
  /-- QSCALE (R326): Derives a packed scale and zero point from a key contribution. -/
  | qscale (a : BitVec 6) (d : BitVec 6) (u : Bool)
  /-- QUANT (R326): Quantises an FP32 value with a packed scale word. -/
  | quant (b : BitVec 6) (a : BitVec 6) (d : BitVec 6) (u : Bool)
  /-- DEQUANT (R326): Dequantises a code to FP32 with a packed scale word. -/
  | dequant (b : BitVec 6) (a : BitVec 6) (d : BitVec 6) (u : Bool)
  /-- SALIENT (R327): Keeps the two most salient of four weights with their 2:4 nibble. -/
  | salient (b : BitVec 6) (a : BitVec 6) (d : BitVec 6) (u : Bool)
  /-- LANE_ID (R188): Writes each active lane its lane number. -/
  | laneId (d : BitVec 6)
  /-- LANE_GET (R189): Shuffles a from lane B[4:0]. -/
  | laneGet (b : BitVec 6) (a : BitVec 6) (d : BitVec 6)
  /-- LANE_RISE (R189): Shuffles a from lane i − B[4:0]. -/
  | laneRise (b : BitVec 6) (a : BitVec 6) (d : BitVec 6)
  /-- LANE_FALL (R189): Shuffles a from lane i + B[4:0]. -/
  | laneFall (b : BitVec 6) (a : BitVec 6) (d : BitVec 6)
  /-- LANE_FLIP (R189): Shuffles a from lane i XOR B[4:0]. -/
  | laneFlip (b : BitVec 6) (a : BitVec 6) (d : BitVec 6)
  /-- LANE_ANY (R190): Vote: 1 if any active lane has A ≠ 0. -/
  | laneAny (a : BitVec 6) (d : BitVec 6)
  /-- LANE_ALL (R190): Vote: 1 if every active lane has A ≠ 0. -/
  | laneAll (a : BitVec 6) (d : BitVec 6)
  /-- LANE_BITS (R190): Vote: mask of active lanes with A ≠ 0. -/
  | laneBits (a : BitVec 6) (d : BitVec 6)
  /-- RED_ADD_I (R191): Integer sum over present lanes by the fixed tree. -/
  | redAddI (a : BitVec 6) (d : BitVec 6)
  /-- RED_ADD_F32 (R191): FP32 sum over present lanes by the fixed tree. -/
  | redAddF32 (a : BitVec 6) (d : BitVec 6)
  /-- RED_MAX_F32 (R191): FP32 maximum over present lanes. -/
  | redMaxF32 (a : BitVec 6) (d : BitVec 6)
  /-- RED_MIN_F32 (R191): FP32 minimum over present lanes. -/
  | redMinF32 (a : BitVec 6) (d : BitVec 6)
  /-- SCAN_ADD_I (R192): Inclusive integer prefix sum across lanes. -/
  | scanAddI (a : BitVec 6) (d : BitVec 6)
  /-- INTERSECT (R193): Matches two sentinel-terminated lane lists. -/
  | intersect (b : BitVec 6) (a : BitVec 6) (d : BitVec 6)
  /-- M_AND (R196): Mask register AND. -/
  | mAnd (b : BitVec 6) (a : BitVec 6) (d : BitVec 6)
  /-- M_OR (R196): Mask register OR. -/
  | mOr (b : BitVec 6) (a : BitVec 6) (d : BitVec 6)
  /-- M_NOT (R196): Mask register NOT. -/
  | mNot (a : BitVec 6) (d : BitVec 6)
  /-- M_MOV (R196): Copies one mask register to another. -/
  | mMov (a : BitVec 6) (d : BitVec 6)
  /-- M_MOV_FROM_K (R196): Writes a mask register from the lowest active lane's k register. -/
  | mMovFromK (a : BitVec 6) (d : BitVec 6)
  /-- M_MOV_TO_K (R196): Writes a mask register into a k register of every active lane. -/
  | mMovToK (a : BitVec 6) (d : BitVec 6)
  /-- M_MOV_ACTIVE (R196): Writes the active lane mask into a mask register. -/
  | mMovActive (d : BitVec 6)
  /-- GCALL (R197): Checks and parks the strand in the Mooring under its key, or stalls. -/
  | gcall (b : BitVec 6) (a : BitVec 6)
  /-- GRET (R198): Returns k1–km of each active callee lane to its caller and ends the lane. -/
  | gret (a : BitVec 6)
  /-- GFLUSH (R199): Makes a Mooring key a launch trigger in its clk. -/
  | gflush (a : BitVec 6)
  /-- SEM_P (R200): Takes a unit of a core semaphore or sleeps. -/
  | semP (sc : BitVec 6)
  /-- SEM_V (R200): Adds a unit to a semaphore or hands it to the oldest sleeper. -/
  | semV (sc : BitVec 6)
  /-- SREG_RD (R201): Reads a shared register as it stood at the end of the previous clk. -/
  | sregRd (sc : BitVec 6) (d : BitVec 6)
  /-- SREG_WR (R201): Writes a shared register at the end of its clk. -/
  | sregWr (sc : BitVec 6) (a : BitVec 6)
  /-- BAR_MAX (R205): Arrives at a Topmark barrier with a contribution and waits for the combined maximum. -/
  | barMax (b : BitVec 6) (a : BitVec 6) (d : BitVec 6)
  /-- RING_ARRIVE (R207): Inverts the phase of a stage-ring stage. -/
  | ringArrive (rr : BitVec 2) (sc : BitVec 3)
  /-- RING_WAIT (R207): Passes or sleeps until a stage holds the awaited phase. -/
  | ringWait (p : Bool) (rr : BitVec 2) (sc : BitVec 3)
  /-- WAIT (R210): Arms on a local-memory range and sleeps until another agent writes it or the limit passes. -/
  | wait (b : BitVec 6) (a : BitVec 6) (d : BitVec 6)
  /-- LD_FE (R263): Reads a FULL word and leaves it EMPTY, waiting while EMPTY. -/
  | ldFe (a : BitVec 6) (d : BitVec 6) (u : Bool)
  /-- LD_FF (R263): Reads a FULL word and leaves it FULL, waiting while EMPTY. -/
  | ldFf (a : BitVec 6) (d : BitVec 6) (u : Bool)
  /-- ST_EF (R263): Writes an EMPTY word and makes it FULL, waiting while FULL. -/
  | stEf (b : BitVec 6) (a : BitVec 6) (u : Bool)
  /-- ST_FF (R263): Writes a word and makes it FULL. -/
  | stFf (b : BitVec 6) (a : BitVec 6) (u : Bool)
  /-- FE_SET (R263): Sets a word's full/empty state. -/
  | feSet (sc : BitVec 6) (a : BitVec 6) (u : Bool)
  /-- AMO_ADD (R266): Atomic add at the home, returning the old word. -/
  | amoAdd (b : BitVec 6) (a : BitVec 6) (d : BitVec 6) (w : Bool) (u : Bool)
  /-- AMO_MIN_I (R266): Atomic signed minimum. -/
  | amoMinI (b : BitVec 6) (a : BitVec 6) (d : BitVec 6) (w : Bool) (u : Bool)
  /-- AMO_MAX_I (R266): Atomic signed maximum. -/
  | amoMaxI (b : BitVec 6) (a : BitVec 6) (d : BitVec 6) (w : Bool) (u : Bool)
  /-- AMO_MIN_N (R266): Atomic natural minimum. -/
  | amoMinN (b : BitVec 6) (a : BitVec 6) (d : BitVec 6) (w : Bool) (u : Bool)
  /-- AMO_MAX_N (R266): Atomic natural maximum. -/
  | amoMaxN (b : BitVec 6) (a : BitVec 6) (d : BitVec 6) (w : Bool) (u : Bool)
  /-- AMO_AND (R266): Atomic AND. -/
  | amoAnd (b : BitVec 6) (a : BitVec 6) (d : BitVec 6) (w : Bool) (u : Bool)
  /-- AMO_OR (R266): Atomic OR. -/
  | amoOr (b : BitVec 6) (a : BitVec 6) (d : BitVec 6) (w : Bool) (u : Bool)
  /-- AMO_XOR (R266): Atomic XOR. -/
  | amoXor (b : BitVec 6) (a : BitVec 6) (d : BitVec 6) (w : Bool) (u : Bool)
  /-- AMO_SWAP (R266): Atomic swap. -/
  | amoSwap (b : BitVec 6) (a : BitVec 6) (d : BitVec 6) (w : Bool) (u : Bool)
  /-- AMO_CAS (R266): Atomic compare-and-swap with the expected value in d. -/
  | amoCas (b : BitVec 6) (a : BitVec 6) (d : BitVec 6) (w : Bool) (u : Bool)
  /-- AMO_FADD_F32 (R268): Atomic FP32 add at the home, rounded RNE. -/
  | amoFaddF32 (b : BitVec 6) (a : BitVec 6) (d : BitVec 6) (u : Bool)
  /-- AMO_FADD_BF16 (R268): Atomic BF16 add at the home. -/
  | amoFaddBf16 (b : BitVec 6) (a : BitVec 6) (d : BitVec 6) (u : Bool)
  /-- BANK_ADD_F32 (R270): Adds 16 FP32 elements into a bank line. -/
  | bankAddF32 (b : BitVec 6) (a : BitVec 6)
  /-- BANK_ADD_BF16 (R270): Adds 32 BF16 elements into a bank line. -/
  | bankAddBf16 (b : BitVec 6) (a : BitVec 6)
  /-- BANK_MAX_F32 (R270): Elementwise FP32 maximum into a bank line. -/
  | bankMaxF32 (b : BitVec 6) (a : BitVec 6)
  /-- BANK_AXPY_F32 (R270): Adds α × V into a bank line with one rounding. -/
  | bankAxpyF32 (b : BitVec 6) (a : BitVec 6)
  /-- BANK_SUM_F32 (R270): Returns the tree sum of a bank line's 16 FP32 elements. -/
  | bankSumF32 (a : BitVec 6) (d : BitVec 6)
  /-- FENCE (R252): Waits until earlier operations are performed and acknowledged for the given scope. -/
  | fence (sc : BitVec 6)
  /-- LD_SC (R273): SC load: package fence then performed on the Foghorn schedule. -/
  | ldSc (a : BitVec 6) (d : BitVec 6) (u : Bool)
  /-- ST_SC (R273): SC store: package fence then performed on the Foghorn schedule. -/
  | stSc (b : BitVec 6) (a : BitVec 6) (u : Bool)
  /-- AG_BIND (R274): Binds a stream register to an address generator from x0–x3. -/
  | agBind (b : BitVec 6) (kk : BitVec 6)
  /-- AG_UNBIND (R275): Ends a stream binding. -/
  | agUnbind (kk : BitVec 6)
  /-- AG_POS (R275): Reads a stream's consumed or appended count. -/
  | agPos (kk : BitVec 6) (d : BitVec 6)
  /-- AG_DRAIN (R275): Waits until every append of a stream is performed. -/
  | agDrain (kk : BitVec 6)
  /-- SEND (R277): Sends a tagged 128-bit message to a crew and waits for acceptance or spill. -/
  | send (b : BitVec 6) (a : BitVec 6) (u : Bool)
  /-- SEND_R (R278): Sends a message to be deposited into a named register of the destination. -/
  | sendR (b : BitVec 6) (a : BitVec 6) (u : Bool)
  /-- RECV (R279): Takes a matching queued message or binds d to a pending receive. -/
  | recv (a : BitVec 6) (d : BitVec 6) (u : Bool)
  /-- POLL (R280): Counts queued messages with a tag. -/
  | poll (a : BitVec 6) (d : BitVec 6) (u : Bool)
  /-- CC_CLEAN (R281): Writes a modified LP-DDR-5X line back to its channel. -/
  | ccClean (a : BitVec 6) (u : Bool)
  /-- CC_INVAL (R281): Writes back and removes a line from every cache. -/
  | ccInval (a : BitVec 6) (u : Bool)
  /-- CC_ZERO (R281): Writes 64 zero bytes at the home, clearing tags and poison. -/
  | ccZero (a : BitVec 6) (u : Bool)
  /-- PF (R281): Prefetches an LP-DDR-5X line into the cluster cache. -/
  | pf (a : BitVec 6) (u : Bool)
  /-- MMA (R328): Checks and queues a single-core tile product on the array. -/
  | mma (t : BitVec 6)
  /-- MMA_PAIR (R285): Queues a paired product spanning G-cores 2 and 3. -/
  | mmaPair (t : BitVec 6)
  /-- MMA_PACK (R328): Queues a 2:4 sparse single-core product. -/
  | mmaPack (t : BitVec 6)
  /-- MMA_WAIT (R330): Sleeps until earlier array instructions writing a tile are performed. -/
  | mmaWait (t : BitVec 6)
  /-- ACC_ZERO (R331): Zeroes a tile and its POISON bit in array order. -/
  | accZero (t : BitVec 6)
  /-- ACC_LD (R331): Loads a tile from memory in array order. -/
  | accLd (b : BitVec 6) (t : BitVec 6)
  /-- ACC_ST (R331): Stores a tile to memory with owned lines. -/
  | accSt (b : BitVec 6) (t : BitVec 6)
  /-- ACC_OUT (R332): Converts and writes a tile under the x6 descriptor. -/
  | accOut (b : BitVec 6) (t : BitVec 6)
  /-- MSK_LD (R333): Loads a mask parameter block from a 272-byte image. -/
  | mskLd (b : BitVec 6) (mb : BitVec 6)
  /-- CPY_WAIT (R335): Sleeps until the issuer's earlier copies with a tag are done. -/
  | cpyWait (a : BitVec 6)
  /-- PFK_LD (R336): Loads a prefetch kernel into the unit. -/
  | pfkLd (b : BitVec 6) (a : BitVec 6)
  /-- PFK_ARM (R337): Arms the prefetch unit on a pop stream. -/
  | pfkArm (b : BitVec 6) (a : BitVec 6)
  /-- EVQ_RD (R340): Consumes one completion record from the event queue. -/
  | evqRd (d : BitVec 6)
  /-- EVQ_WAIT (R341): Arms at the event queue header and sleeps until a record is present. -/
  | evqWait (d : BitVec 6)
  /-- SPAWN (R343): Reads and checks a task record and starts its tender walk. -/
  | spawn (a : BitVec 6) (d : BitVec 6)
  /-- TASK_DEC (R345): Releases and sends a decrement to a dependency counter, waiting for the answer. -/
  | taskDec (a : BitVec 6)
  /-- TASK_CTR (R344): Writes a dependency counter and its creator word. -/
  | taskCtr (a : BitVec 6)
  /-- RS_OPEN (R356): Opens a state-store slot on the issuer's die. -/
  | rsOpen (b : BitVec 6) (a : BitVec 6) (d : BitVec 6)
  /-- RS_RD (R358): Moves frame pages into local memory. -/
  | rsRd (b : BitVec 6) (a : BitVec 6)
  /-- RS_WR (R358): Moves local memory pages into the frame with copy-on-write. -/
  | rsWr (b : BitVec 6) (a : BitVec 6)
  /-- RS_SNAP (R360): Records a Daymark of the frame at a position. -/
  | rsSnap (b : BitVec 6) (a : BitVec 6)
  /-- RS_ROLL (R360): Rolls the frame back to a Daymark. -/
  | rsRoll (b : BitVec 6) (a : BitVec 6)
  /-- RS_FORK (R357): Opens a new slot sharing a Daymark's pages. -/
  | rsFork (b : BitVec 6) (a : BitVec 6) (d : BitVec 6)
  /-- RS_DROP (R361): Closes a slot and advances its generation. -/
  | rsDrop (a : BitVec 6)
  /-- RS_POS (R362): Reads the newest and oldest Daymark positions. -/
  | rsPos (a : BitVec 6) (d : BitVec 6)
  /-- BT_PREP (R450): Sends a staged batching-table update to every replica. -/
  | btPrep (b : BitVec 6) (a : BitVec 6) (d : BitVec 6)
  /-- BT_COMMIT (R452): Sends COMMIT for a staged update to every replica. -/
  | btCommit (a : BitVec 6) (d : BitVec 6)
  /-- MIGRATE (R454): Moves the strand to another S-core of the package. -/
  | migrate (a : BitVec 6) (d : BitVec 6)
  /-- PT_TRUNC (R458): Truncates a KV page table to a position. -/
  | ptTrunc (b : BitVec 6) (a : BitVec 6) (d : BitVec 6)
  /-- TRAP (R392): Takes a software trap with a 12-bit code. -/
  | trap (lo : BitVec 6) (hi : BitVec 6)
  /-- SR_RD (R394): Reads a special register. -/
  | srRd (sc : BitVec 6) (d : BitVec 6)
  /-- SR_WR (R395): Writes a special register under its own rule. -/
  | srWr (sc : BitVec 6) (a : BitVec 6)
  /-- CREW_PEEK (R397): Reads state of a crew member by selector. -/
  | crewPeek (a : BitVec 6) (d : BitVec 6)
  /-- CREW_POKE (R398): Writes state of a stopped crew member. -/
  | crewPoke (b : BitVec 6) (a : BitVec 6)
  /-- CREW_RESUME (R399): Resumes, stops or steps a crew member. -/
  | crewResume (b : BitVec 6) (a : BitVec 6)
  /-- CREW_KILL (R400): Kills a crew. -/
  | crewKill (a : BitVec 6)
  /-- TLB_INVAL (R401): Fences and removes matching translations within reach. -/
  | tlbInval (b : BitVec 6) (a : BitVec 6)
  /-- ADDI (R107): Adds a signed immediate. -/
  | addi (imm : BitVec 10) (a : BitVec 6) (n : Bool) (d : BitVec 6) (u : Bool)
  /-- ANDI (R107): ANDs a sign-extended immediate. -/
  | andi (imm : BitVec 10) (a : BitVec 6) (n : Bool) (d : BitVec 6) (u : Bool)
  /-- ORI (R107): ORs a sign-extended immediate. -/
  | ori (imm : BitVec 10) (a : BitVec 6) (n : Bool) (d : BitVec 6) (u : Bool)
  /-- XORI (R107): XORs a sign-extended immediate. -/
  | xori (imm : BitVec 10) (a : BitVec 6) (n : Bool) (d : BitVec 6) (u : Bool)
  /-- SHLI (R107): Shifts left by an immediate amount. -/
  | shli (sc : BitVec 6) (a : BitVec 6) (n : Bool) (d : BitVec 6) (u : Bool)
  /-- SHRI (R107): Shifts right logically by an immediate amount. -/
  | shri (sc : BitVec 6) (a : BitVec 6) (n : Bool) (d : BitVec 6) (u : Bool)
  /-- SARI (R107): Shifts right arithmetically by an immediate amount. -/
  | sari (sc : BitVec 6) (a : BitVec 6) (n : Bool) (d : BitVec 6) (u : Bool)
  /-- SLTI_I (R107): Signed compare with an immediate. -/
  | sltiI (imm : BitVec 10) (a : BitVec 6) (n : Bool) (d : BitVec 6) (u : Bool)
  /-- SLTI_N (R107): Natural compare with a sign-extended immediate. -/
  | sltiN (imm : BitVec 10) (a : BitVec 6) (n : Bool) (d : BitVec 6) (u : Bool)
  /-- MULI (R107): Multiplies by a signed immediate. -/
  | muli (imm : BitVec 10) (a : BitVec 6) (n : Bool) (d : BitVec 6) (u : Bool)
  /-- LDI (R107): Loads a signed immediate. -/
  | ldi (imm : BitVec 10) (n : Bool) (d : BitVec 6) (u : Bool)
  /-- B_EQ (R119): Branches when A = D. -/
  | bEq (imm : BitVec 10) (a : BitVec 6) (d : BitVec 6) (u : Bool)
  /-- B_NE (R119): Branches when A ≠ D. -/
  | bNe (imm : BitVec 10) (a : BitVec 6) (d : BitVec 6) (u : Bool)
  /-- B_LT (R119): Branches when A < D signed. -/
  | bLt (imm : BitVec 10) (a : BitVec 6) (d : BitVec 6) (u : Bool)
  /-- B_GE (R119): Branches when A ≥ D signed. -/
  | bGe (imm : BitVec 10) (a : BitVec 6) (d : BitVec 6) (u : Bool)
  /-- B_LTN (R119): Branches when A < D natural. -/
  | bLtn (imm : BitVec 10) (a : BitVec 6) (d : BitVec 6) (u : Bool)
  /-- B_GEN (R119): Branches when A ≥ D natural. -/
  | bGen (imm : BitVec 10) (a : BitVec 6) (d : BitVec 6) (u : Bool)
  /-- CINCI (R110): Adds a signed immediate to the cursor index. -/
  | cinci (imm : BitVec 10) (a : BitVec 6) (n : Bool) (d : BitVec 6) (u : Bool)
  /-- SPLIT (R194): Pushes a JOIN entry opening a divergent region. -/
  | split (imm : BitVec 10)
  /-- BAR (R204): Arrives at a plain barrier and waits for its release. -/
  | bar (imm : BitVec 4) (sc : BitVec 3)
  /-- BAR_ARRIVE (R204): Records arrival at a plain barrier and continues. -/
  | barArrive (imm : BitVec 4) (sc : BitVec 3)
  /-- BAR_WAIT (R204): Sleeps until the generation of the outstanding arrival releases. -/
  | barWait (imm : BitVec 4) (sc : BitVec 3)
  /-- LD_I8 (R114): Loads a sign-extended byte. -/
  | ldI8 (imm : BitVec 11) (p : Bool) (a : BitVec 6) (d : BitVec 6) (u : Bool)
  /-- LD_N8 (R114): Loads a zero-extended byte. -/
  | ldN8 (imm : BitVec 11) (p : Bool) (a : BitVec 6) (d : BitVec 6) (u : Bool)
  /-- LD_I16 (R114): Loads a sign-extended halfword. -/
  | ldI16 (imm : BitVec 11) (p : Bool) (a : BitVec 6) (d : BitVec 6) (u : Bool)
  /-- LD_N16 (R114): Loads a zero-extended halfword. -/
  | ldN16 (imm : BitVec 11) (p : Bool) (a : BitVec 6) (d : BitVec 6) (u : Bool)
  /-- LD_I32 (R114): Loads a sign-extended word. -/
  | ldI32 (imm : BitVec 11) (p : Bool) (a : BitVec 6) (d : BitVec 6) (u : Bool)
  /-- LD_N32 (R114): Loads a zero-extended word. -/
  | ldN32 (imm : BitVec 11) (p : Bool) (a : BitVec 6) (d : BitVec 6) (u : Bool)
  /-- LD_64 (R114): Loads a doubleword. -/
  | ld64 (imm : BitVec 11) (p : Bool) (a : BitVec 6) (d : BitVec 6) (u : Bool)
  /-- LD_128 (R114): Loads 16 bytes as DATA. -/
  | ld128 (imm : BitVec 11) (p : Bool) (a : BitVec 6) (d : BitVec 6) (u : Bool)
  /-- ST_8 (R114): Stores a byte. -/
  | st8 (imm : BitVec 11) (p : Bool) (a : BitVec 6) (d : BitVec 6) (u : Bool)
  /-- ST_16 (R114): Stores a halfword. -/
  | st16 (imm : BitVec 11) (p : Bool) (a : BitVec 6) (d : BitVec 6) (u : Bool)
  /-- ST_32 (R114): Stores a word. -/
  | st32 (imm : BitVec 11) (p : Bool) (a : BitVec 6) (d : BitVec 6) (u : Bool)
  /-- ST_64 (R114): Stores a doubleword. -/
  | st64 (imm : BitVec 11) (p : Bool) (a : BitVec 6) (d : BitVec 6) (u : Bool)
  /-- ST_128 (R114): Stores 16 bytes and clears the tag bit. -/
  | st128 (imm : BitVec 11) (p : Bool) (a : BitVec 6) (d : BitVec 6) (u : Bool)
  /-- LD_CAP (R115): Loads 16 bytes as CAP when the granule tag is set and the base carries LC. -/
  | ldCap (imm : BitVec 11) (p : Bool) (a : BitVec 6) (d : BitVec 6) (u : Bool)
  /-- ST_CAP (R116): Stores 16 bytes, setting the tag bit for a CAP. -/
  | stCap (imm : BitVec 11) (p : Bool) (a : BitVec 6) (d : BitVec 6) (u : Bool)
  /-- J (R120): Jumps PC-relative. -/
  | j (imm : BitVec 25)
  /-- CALL (R120): Writes the return capability to k55 and jumps PC-relative. -/
  | call (imm : BitVec 25)
  /-- XSET (R93): Sets an operand-extension register to a sign-extended 22-bit immediate. -/
  | xset (imm : BitVec 22) (xi : BitVec 3)
  /-- XCAT (R93): Shifts an operand-extension register left 22 and ORs in an immediate. -/
  | xcat (imm : BitVec 22) (xi : BitVec 3)
  /-- COMPACT_MOV (R101): Compact mov. -/
  | compactMov (q : BitVec 5) (p : BitVec 5)
  /-- COMPACT_ADD (R101): Compact add p := p + q. -/
  | compactAdd (q : BitVec 5) (p : BitVec 5)
  /-- COMPACT_SUB (R101): Compact sub. -/
  | compactSub (q : BitVec 5) (p : BitVec 5)
  /-- COMPACT_AND (R101): Compact and. -/
  | compactAnd (q : BitVec 5) (p : BitVec 5)
  /-- COMPACT_OR (R101): Compact or. -/
  | compactOr (q : BitVec 5) (p : BitVec 5)
  /-- COMPACT_XOR (R101): Compact xor. -/
  | compactXor (q : BitVec 5) (p : BitVec 5)
  /-- COMPACT_ADDI (R101): Compact addi with a 5-bit signed immediate. -/
  | compactAddi (imm : BitVec 5) (p : BitVec 5)
  /-- COMPACT_SHLI (R101): Compact shli. -/
  | compactShli (sc : BitVec 5) (p : BitVec 5)
  /-- COMPACT_SHRI (R101): Compact shri. -/
  | compactShri (sc : BitVec 5) (p : BitVec 5)
  /-- COMPACT_SARI (R101): Compact sari. -/
  | compactSari (sc : BitVec 5) (p : BitVec 5)
  /-- COMPACT_LDI (R101): Compact ldi. -/
  | compactLdi (imm : BitVec 5) (p : BitVec 5)
  /-- COMPACT_LD_64 (R101): Compact ld.64 through kq. -/
  | compactLd64 (q : BitVec 5) (p : BitVec 5)
  /-- COMPACT_ST_64 (R101): Compact st.64 through kq. -/
  | compactSt64 (q : BitVec 5) (p : BitVec 5)
  /-- COMPACT_LD_I32 (R101): Compact ld.i32 through kq. -/
  | compactLdI32 (q : BitVec 5) (p : BitVec 5)
  /-- COMPACT_ST_32 (R101): Compact st.32 through kq. -/
  | compactSt32 (q : BitVec 5) (p : BitVec 5)
  /-- COMPACT_CINCI (R101): Compact cinci by 8q bytes. -/
  | compactCinci (q : BitVec 5) (p : BitVec 5)
  /-- B_Z (R101): Compact branch when kp is zero. -/
  | bZ (off : BitVec 5) (p : BitVec 5)
  /-- B_NZ (R101): Compact branch when kp is non-zero. -/
  | bNz (off : BitVec 5) (p : BitVec 5)
  /-- J_S (R101): Compact short jump. -/
  | jS (lo : BitVec 5) (hi : BitVec 5)
  /-- COMPACT_SYM_WAIT (R101): Compact sym.wait. -/
  | compactSymWait (p : BitVec 5)
  /-- COMPACT_FADD_F32 (R101): Compact fadd.f32. -/
  | compactFaddF32 (q : BitVec 5) (p : BitVec 5)
  /-- COMPACT_FMUL_F32 (R101): Compact fmul.f32. -/
  | compactFmulF32 (q : BitVec 5) (p : BitVec 5)
  /-- COMPACT_JR (R101): Compact jr. -/
  | compactJr (p : BitVec 5)
  /-- JOIN (R161): Acts on the innermost reconvergence entry: runs a pending path or waits and merges. -/
  | join
  /-- REGANG (R164): Waits until the gang's parts stop, then merges groups at the same PC and token. -/
  | regang
  /-- STEP (R209): Marks a step boundary with a self fence at which the scheduler may act. -/
  | step
  /-- CPY (R334): Checks and queues a copy on the quad's copy engine. -/
  | cpy
  /-- COLL (R338): Contributes to a collective operation of the die's collective engine. -/
  | coll
  /-- ENG_FENCE (R342): Waits for earlier memory and engine operations of the group. -/
  | engFence
  /-- RETT (R368): Returns from a trap, restoring privilege and handling DONE and held refusals. -/
  | rett
  /-- BRK (R402): Takes a debug trap with SRC 1. -/
  | brk
  /-- HALT (R409): Ends a switch step, ends the group at T, or sleeps the resident context at S. -/
  | halt
  /-- NOP (R101): Compact no operation. -/
  | nop
  /-- COMPACT_RET (R101): Compact ret through k55. -/
  | compactRet
  /-- ASYNC_EVENT_ENTRY (R34): A pending pre-emption or system event is taken at a boundary with IE = 1 by the resident handler. -/
  | asyncEventEntry (gid : Nat)
  /-- REGISTER_MISS_SLOT_ARRIVAL (R386): The saved slot line arrives and the register takes its value, tag or poison. -/
  | registerMissSlotArrival (gid : Nat) (lane : Nat) (reg : Nat)
  /-- SYMBOL_ARRIVAL (R70): A late value arrives and its holders begin to resolve. -/
  | symbolArrival (gid : Nat) (pool : Nat) (id : Nat)
  /-- LOCAL_LOAD_COMPLETION (R118): A local load writes its destination at its fixed latency and releases its reserved id. -/
  | localLoadCompletion (gid : Nat)
  /-- LONG_INSTRUCTION_COMPLETION (R85): A long instruction writes its result and flags in issue order. -/
  | longInstructionCompletion (gid : Nat)
  /-- MESSAGE_DEPOSIT (R278): A send.r message at the queue head is deposited into its target register at the start of a clk. -/
  | messageDeposit (core : Nat)
  /-- AUTOMATIC_DECREMENT (R318): Once the completed task's stores are acknowledged, SUCC0 and SUCC1 are decremented. -/
  | automaticDecrement (task : Nat)
  /-- PATH_SWITCH (R163): On an instruction-cache miss the group switches to a pending path. -/
  | pathSwitch (gid : Nat)
  /-- WATCHDOG_EXPIRY (R377): sr.wdog reaches 0 and the longest-waiting member takes cause 0x30. -/
  | watchdogExpiry (crew : Nat)
  /-- MOORING_TIME_LIMIT (R174): The first caller's sr.mtime expires and the entry launches. -/
  | mooringTimeLimit (quad : Nat) (entry : Nat)
  /-- MOORING_PLACEMENT (R177): The formed gang is placed on G-core 2, 3 or by the tender walk. -/
  | mooringPlacement (quad : Nat) (entry : Nat)
  /-- MOORING_LOADING_END (R175): The last argument register is written and the entry becomes FREE. -/
  | mooringLoadingEnd (quad : Nat) (entry : Nat)
  /-- GANG_RETURN_DELIVERY (R180): A callee's results reach its caller, which resumes with sr.gstat set. -/
  | gangReturnDelivery (idx : Nat)
  /-- WAIT_WAKE (R210): A write by another agent to the armed range wakes the group with 1. -/
  | waitWake (gid : Nat)
  /-- WAIT_TIME_LIMIT (R210): sr.felim passes without a write and wait returns 0. -/
  | waitTimeLimit (gid : Nat)
  /-- FE_QUEUE_PERFORM (R241): After a change of the word the home performs the oldest queued operation that can proceed. -/
  | feQueuePerform (word : Nat)
  /-- FE_WAIT_DEADLINE (R242): A queued full/empty operation passes its deadline, is dropped and traps 0x14. -/
  | feWaitDeadline (gid : Nat)
  /-- MESSAGE_ARRIVAL (R279): A message reaches the receive queue and matches the oldest pending recv or is queued. -/
  | messageArrival (idx : Nat)
  /-- MESSAGE_SPILL (R243): A message refused for 64 clk is written to the spill area. -/
  | messageSpill (idx : Nat)
  /-- SPILL_MOVE_BACK (R244): When the queue has room the oldest spilled record moves back into it. -/
  | spillMoveBack (crew : Nat)
  /-- HOME_ACCESS (R246): A load, store or atomic request is performed at its home in source order. -/
  | homeAccess (idx : Nat)
  /-- POSTED_ACKNOWLEDGEMENT (R250): A home's acknowledgement frees the posted-store journal entry. -/
  | postedAcknowledgement (core : Nat) (entry : Nat)
  /-- REFUSAL_ARRIVAL (R375): A refusal of a posted operation reaches the core and is delivered by the group's state. -/
  | refusalArrival (core : Nat) (entry : Nat)
  /-- REMOTE_REFUSAL_TRAP (R251): A refused posted entry traps asynchronously with cause 0x18 at a boundary. -/
  | remoteRefusalTrap (gid : Nat)
  /-- PAGE_WALK_COMPLETION (R233): A page walk completes and the waiting access issues with its translation. -/
  | pageWalkCompletion (gid : Nat)
  /-- SC_WINDOW_PERFORM (R257): The SC operations of a Foghorn window are performed at their homes in SC order. -/
  | scWindowPerform
  /-- STREAM_RUN_AHEAD_FETCH (R239): An address generator fetches index lines ahead of the consumed count. -/
  | streamRunAheadFetch (gid : Nat) (reg : Nat)
  /-- ENGINE_LINE_WRITE (R255): An engine writes an owned line, releasing it and any thread access waiting on it. -/
  | engineLineWrite (op : Nat) (line : Nat)
  /-- MMA_START (R284): A queued array operation starts when the array frees. -/
  | mmaStart (core : Nat)
  /-- MMA_RETIRE (R297): An array operation retires and its completion record is held. -/
  | mmaRetire (core : Nat)
  /-- ACC_FORM_PERFORM (R331): An accumulator form or mask load is performed in array order. -/
  | accFormPerform (core : Nat)
  /-- SELF_TEST_START (R299): The sequencer starts a 20-clk self-test between operations. -/
  | selfTestStart (core : Nat)
  /-- SELF_TEST_END (R300): The test releases held records, fencing failing sub-arrays on a mismatch. -/
  | selfTestEnd (core : Nat) (mismatch : BitVec 4)
  /-- COPY_START (R304): The copy engine starts the next queued copy. -/
  | copyStart (quad : Nat)
  /-- COPY_COMPLETION (R307): A copy finishes its last line and writes its completion record. -/
  | copyCompletion (quad : Nat)
  /-- EVENT_RECORD_DROP (R315): A record held 65,536 clk for a full queue is dropped and DROP rises. -/
  | eventRecordDrop (idx : Nat)
  /-- PREFETCH_KERNEL_RUN (R309): The prefetch unit runs its kernel once per element of a fetched index line. -/
  | prefetchKernelRun (core : Nat)
  /-- COLLECTIVE_COMPLETION (R313): Every contribution has arrived and each participant's result is placed. -/
  | collectiveCompletion (idx : Nat)
  /-- COLLECTIVE_TIME_LIMIT (R313): The time limit passes and the partial combination is delivered with STATUS 0x06. -/
  | collectiveTimeLimit (idx : Nat)
  /-- COUNTER_DECREMENT (R317): The bank ALU applies a decrement to a dependency counter. -/
  | counterDecrement (idx : Nat)
  /-- TENDER_WALK_START (R321): A task record starts its walk at its source quad. -/
  | tenderWalkStart (idx : Nat)
  /-- TENDER_WALK_OFFER (R145): A record reaches a quad, which takes crews from it, then moves on or queues. -/
  | tenderWalkOffer (idx : Nat)
  /-- READY_QUEUE_OFFER (R319): A core frees capacity and the quad offers its queued records in service order. -/
  | readyQueueOffer (quad : Nat)
  /-- PASSED_OVER_LIMIT (R319): An entry passed over for 4,096 clk blocks later entries from placement. -/
  | passedOverLimit (quad : Nat) (entry : Nat)
  /-- STATE_STORE_REQUEST (R352): A request reaches the state-store unit and is performed in the slot's order. -/
  | stateStoreRequest (die : Nat) (idx : Nat)
  /-- STATE_STORE_ANSWER (R354): The unit's answer reaches the waiting group. -/
  | stateStoreAnswer (gid : Nat)
  /-- STATE_STORE_TRANSFER_COMPLETION (R359): A transfer's last page is moved and its record written. -/
  | stateStoreTransferCompletion (die : Nat) (slot : Nat)
  /-- PREEMPTION (R378): A system event asks the resident handler to stop and save crews. -/
  | preemption (crew : Nat)
  /-- CREW_DRAIN (R379): Once all members stopped, results, loads, engines, posted entries and messages drain. -/
  | crewDrain (crew : Nat)
  /-- SWITCH_STEP_ENTRY (R384): The lowest member enters level T with cause 0x33 to copy local memory. -/
  | switchStepEntry (crew : Nat)
  /-- CREW_RESTORE (R385): A saved crew is checked, reloaded and resumed on a core. -/
  | crewRestore (crew : Nat) (core : Nat)
  /-- PC_SAMPLE (R407): Every PERIOD clk a member emits a sample record to the Lamp port. -/
  | pcSample (gid : Nat)
  /-- DIE_OUT_OF_SERVICE (R427): Firmware takes a die out of service and routes change. -/
  | dieOutOfService (die : Nat)
  /-- FLIT_RECEIVE (R430): A fabric flit is received, checked and delivered in SEQ order; `damage` is what bits flipped on the link add
  to its check (log 21). -/
  | flitReceive (port : Nat) (flit : Flit) (damage : BitVec 32)
  /-- PTP_MESSAGE (R434): A PTP message updates the time base's offset and state. -/
  | ptpMessage (offset : Int)
  /-- LOCK_ACQUIRED (R434): Offset below 1 µs for 16 s moves the time base to LOCKED. -/
  | lockAcquired
  /-- HOLDOVER_ENTRY (R434): No reference message for 8 s enters HOLDOVER. -/
  | holdoverEntry
  /-- LIGHT_SLOT_DUE (R436): A Light List slot falls due and launches or takes its overrun rule. -/
  | lightSlotDue (entry : Nat)
  /-- DIE_MEMBERSHIP_CHANGE (R441): When all members reach step, dies are added or withdrawn. -/
  | dieMembershipChange (task : Nat) (add : BitVec 6) (drop : BitVec 6)
  /-- DIE_SHARE_ACKNOWLEDGE (R443): A die acknowledges its placed or queued share. -/
  | dieShareAcknowledge (task : Nat) (die : Nat)
  /-- LAUNCH_ACK_DEADLINE (R443): 8,192 clk after launch the launch continues or aborts by acknowledged dies. -/
  | launchAckDeadline (task : Nat)
  /-- LAUNCH_CONTROL_FLIT (R444): An acknowledgement, GO or ABORT flit of a multi-package launch arrives. -/
  | launchControlFlit (flit : LaunchFlit)
  /-- COORD_ACK_DEADLINE (R444): 65,536 clk after the slot the coordinator sends GO or ABORT. -/
  | coordAckDeadline (entry : Nat)
  /-- GO_TIMEOUT (R444): A member without GO within 131,072 clk aborts. -/
  | goTimeout (entry : Nat)
  /-- REPLICA_STAGE (R451): A replica receiving a bt.prep list stages it or refuses. -/
  | replicaStage (die : Nat)
  /-- REPLICA_DISCARD (R451): A replica receiving DISCARD returns to IDLE. -/
  | replicaDiscard (die : Nat)
  /-- REPLICA_COMMIT_APPLY (R448): A replica applies its staged update, header last, and answers. -/
  | replicaCommitApply (die : Nat)
  /-- BT_PREP_ANSWER (R451): bt.prep answers when all replicas answered or TLIM passes. -/
  | btPrepAnswer (gid : Nat)
  /-- BT_COMMIT_ANSWER (R452): bt.commit answers when all replicas answered or the limit passes. -/
  | btCommitAnswer (gid : Nat)
  /-- MIGRATE_RESERVE (R454): A migrate request reaches the destination core and reserves a context or fails. -/
  | migrateReserve (gid : Nat)
  /-- IDENTIFY (R489): Replies with the part's identity and configuration. -/
  | identify (fn : Nat) (params : List Byte) (tag : BitVec 32)
  /-- LOAD_OBJECT (R499): Copies in, checks, maps and measures an Abaver code object. -/
  | loadObject (fn : Nat) (params : List Byte) (tag : BitVec 32)
  /-- CREATE_CONTEXT (R488): Creates a context with ASID, windows and crew-area pool. -/
  | createContext (fn : Nat) (params : List Byte) (tag : BitVec 32)
  /-- DESTROY_CONTEXT (R488): Kills a context's tasks and frees its keys, pages and ASID. -/
  | destroyContext (fn : Nat) (params : List Byte) (tag : BitVec 32)
  /-- MAP (R490): Writes page table entries for a context. -/
  | map (fn : Nat) (params : List Byte) (tag : BitVec 32)
  /-- UNMAP (R490): Clears entries, invalidates translations and frees pages. -/
  | unmap (fn : Nat) (params : List Byte) (tag : BitVec 32)
  /-- SET_KEY_INSTALL (R492): Installs an XTS key at the lowest free index. -/
  | setKeyInstall (fn : Nat) (params : List Byte) (tag : BitVec 32)
  /-- SET_KEY_REMOVE (R492): Removes a key after cleaning its cached lines. -/
  | setKeyRemove (fn : Nat) (params : List Byte) (tag : BitVec 32)
  /-- SET_LIGHT (R487): Writes or disarms a Light List entry. -/
  | setLight (fn : Nat) (params : List Byte) (tag : BitVec 32)
  /-- LAUNCH (R491): Forms ENTRY and ARG capabilities and starts a task record's tender walk. -/
  | launch (fn : Nat) (params : List Byte) (tag : BitVec 32)
  /-- LAUNCH_REPLY (R491): The LAUNCH replies once every die's walk has ended or acknowledged. -/
  | launchReply (task : Nat)
  /-- READ_EVENTS (R488): Returns and removes records from the function's event list. -/
  | readEvents (fn : Nat) (params : List Byte) (tag : BitVec 32)
  /-- ATTEST (R494): Returns a signed report of measurements and nonce. -/
  | attest (fn : Nat) (params : List Byte) (tag : BitVec 32)
  /-- SET_POWER (R495): Sets the package power cap. -/
  | setPower (fn : Nat) (params : List Byte) (tag : BitVec 32)
  /-- RESET_FUNCTION (R485): Resets a PCI Express function, ending its contexts and keys. -/
  | resetFunction (fn : Nat) (params : List Byte) (tag : BitVec 32)
  /-- FUNCTION_LEVEL_RESET (R478): A PCIe function-level reset acts as RESET_FUNCTION of that function. -/
  | functionLevelReset (fn : Nat)
  /-- HOST_BAR2_READ (R480): A host read through BAR2 is performed under the window context. -/
  | hostBar2Read (fn : Nat) (off : Nat) (size : Nat)
  /-- HOST_BAR2_WRITE (R480): A host posted write through BAR2 is performed under the window context. -/
  | hostBar2Write (fn : Nat) (off : Nat) (data : List Byte)
  /-- HOST_REGISTER_WRITE (R479): A host write to a BAR0 register without a row of its own, such as window or Lamp control. -/
  | hostRegisterWrite (fn : Nat) (off : Nat) (value : Word)
  /-- POWER_ON (R493): The ROM trains memory, measures and verifies firmware and trains the link. -/
  | powerOn
  /-- POWER_CONTROL_TICK (R495): Every 1 ms firmware sets the issue duty from draw, cap and temperature. -/
  | powerControlTick (draw : Nat) (hot : Bool)
  /-- LAMP_FRAME (R496): Buffered records are sent as a 64-byte Lamp frame. -/
  | lampFrame (die : Nat)
  /-- LAMP_TIME_RECORD (R497): Every 2^20 clk each die emits a time record. -/
  | lampTimeRecord (die : Nat)
  /-- EVQ_WAIT_TIME_LIMIT (R341): sr.felim clk pass from issue with the event queue still empty and evq.wait writes DATA 0 without a trap. -/
  | evqWaitTimeLimit (gid : Nat)
  /-- STALE_REPLICA_RESTORE (R452): Firmware restores a STALE batching replica by copying a current one, bringing it out of STALE. -/
  | staleReplicaRestore (die : Nat) (src : Nat)
  /-- INSTRUCTION_CACHE_LINE_ARRIVAL (R163): The line missed by the instruction cache arrives and the group waiting for it becomes ready again. -/
  | instructionCacheLineArrival (gid : Nat)
  /-- RESERVED_ENCODING (R94): An unassigned opcode, a reserved 16-bit op5 or another reserved encoding is fetched and takes an encoding trap, cause 0x01. -/
  | reservedEncoding (word : BitVec 32) (len : Nat)
  /-- TASK_DEC_BANK_ANSWER (R345): The bank's answer to a task.dec reaches the waiting group, which continues or takes cause 0x1E, 0x09, 0x12 or 0x18. -/
  | taskDecBankAnswer (gid : Nat)
  /-- UNKNOWN_COMMAND_CODE (R486): A mailbox submission with an unknown command code, or a wrong parameter-byte count, is answered with status 0x0001. -/
  | unknownCommandCode (fn : Nat) (code : BitVec 16) (params : List Byte) (tag : BitVec 32)
  /-- SR_IOV_ENABLE (R478): The host enables virtual functions 1 to 15 through the physical function's SR-IOV capability. -/
  | srIovEnable (vfs : Nat)
  deriving DecidableEq, Repr

end Sys2Proof
end

