-- ==== Sys2Proof/WellFormed.lean ====
section
/-! DEFINITION. Which instructions are well formed: the limits that 04 R81, R82, R84 and each
instruction's own description put on the fields, beyond the zero fields that the encoding itself fixes.
A word whose fields break one of them is a reserved encoding (04 R94). -/

namespace Sys2Proof

/-- A register code of a compact form (04 R101): k0 to k31. -/
abbrev kc (p : BitVec 5) : BitVec 6 := p.setWidth 6

/-- The limits on the fields of an instruction: a written register names no latch, a short form with
N = 1 that does not read d has d = 0, and every literal lies in its range. -/
def Instr.wf : Instr → Bool
  | .add _ _ n d _ => (if n then d == 0 else decide (d.toNat < 56))
  | .sub _ _ n d _ => (if n then d == 0 else decide (d.toNat < 56))
  | .mul _ _ n d _ => (if n then d == 0 else decide (d.toNat < 56))
  | .mulhI _ _ n d _ => (if n then d == 0 else decide (d.toNat < 56))
  | .mulhN _ _ n d _ => (if n then d == 0 else decide (d.toNat < 56))
  | .divI _ _ d _ => decide (d.toNat < 56)
  | .divN _ _ d _ => decide (d.toNat < 56)
  | .remI _ _ d _ => decide (d.toNat < 56)
  | .remN _ _ d _ => decide (d.toNat < 56)
  | .and _ _ n d _ => (if n then d == 0 else decide (d.toNat < 56))
  | .or _ _ n d _ => (if n then d == 0 else decide (d.toNat < 56))
  | .xor _ _ n d _ => (if n then d == 0 else decide (d.toNat < 56))
  | .andn _ _ n d _ => (if n then d == 0 else decide (d.toNat < 56))
  | .shl _ _ n d _ => (if n then d == 0 else decide (d.toNat < 56))
  | .shr _ _ n d _ => (if n then d == 0 else decide (d.toNat < 56))
  | .sar _ _ n d _ => (if n then d == 0 else decide (d.toNat < 56))
  | .rol _ _ n d _ => (if n then d == 0 else decide (d.toNat < 56))
  | .ror _ _ n d _ => (if n then d == 0 else decide (d.toNat < 56))
  | .clz _ n d _ => (if n then d == 0 else decide (d.toNat < 56))
  | .ctz _ n d _ => (if n then d == 0 else decide (d.toNat < 56))
  | .popc _ n d _ => (if n then d == 0 else decide (d.toNat < 56))
  | .minI _ _ n d _ => (if n then d == 0 else decide (d.toNat < 56))
  | .maxI _ _ n d _ => (if n then d == 0 else decide (d.toNat < 56))
  | .minN _ _ n d _ => (if n then d == 0 else decide (d.toNat < 56))
  | .maxN _ _ n d _ => (if n then d == 0 else decide (d.toNat < 56))
  | .seq _ _ n d _ => (if n then d == 0 else decide (d.toNat < 56))
  | .sne _ _ n d _ => (if n then d == 0 else decide (d.toNat < 56))
  | .sltI _ _ n d _ => (if n then d == 0 else decide (d.toNat < 56))
  | .sltN _ _ n d _ => (if n then d == 0 else decide (d.toNat < 56))
  | .sel _ _ n d _ => (n || decide (d.toNat < 56))
  | .sext w _ n d _ => (if n then d == 0 else decide (d.toNat < 56)) && decide (w.toNat ≤ 2)
  | .zext w _ n d _ => (if n then d == 0 else decide (d.toNat < 56)) && decide (w.toNat ≤ 2)
  | .bfx _ _ n d _ => (if n then d == 0 else decide (d.toNat < 56))
  | .bfi _ _ n d _ => (n || decide (d.toNat < 56))
  | .mov _ n d _ => (if n then d == 0 else decide (d.toNat < 56))
  | .rng _ _ n d _ => (if n then d == 0 else decide (d.toNat < 56))
  | .cbase _ n d _ => (if n then d == 0 else decide (d.toNat < 56))
  | .ctop _ n d _ => (if n then d == 0 else decide (d.toNat < 56))
  | .clen _ n d _ => (if n then d == 0 else decide (d.toNat < 56))
  | .cperm _ n d _ => (if n then d == 0 else decide (d.toNat < 56))
  | .cwalk _ n d _ => (if n then d == 0 else decide (d.toNat < 56))
  | .ctag _ n d _ => (if n then d == 0 else decide (d.toNat < 56))
  | .cbound _ _ n d _ => (if n then d == 0 else decide (d.toNat < 56))
  | .cand _ _ n d _ => (if n then d == 0 else decide (d.toNat < 56))
  | .cwset _ _ n d _ => (if n then d == 0 else decide (d.toNat < 56))
  | .cset _ _ n d _ => (if n then d == 0 else decide (d.toNat < 56))
  | .cinc _ _ n d _ => (if n then d == 0 else decide (d.toNat < 56))
  | .cdiff _ _ n d _ => (if n then d == 0 else decide (d.toNat < 56))
  | .cclr _ n d _ => (if n then d == 0 else decide (d.toNat < 56))
  | .cwithin _ _ n d _ => (if n then d == 0 else decide (d.toNat < 56))
  | .ccoord _ n d _ => (if n then d == 0 else decide (d.toNat < 56))
  | .jr _ _ => true
  | .callr _ _ => true
  | .ret _ _ => true
  | .symWait _ _ => true
  | .symTest _ d _ => decide (d.toNat < 56)
  | .xput _ xi => decide (xi.toNat < 8)
  | .xget xi d => decide (d.toNat < 56) && decide (xi.toNat < 8)
  | .fadd _ _ n d _ _ => (if n then d == 0 else decide (d.toNat < 56))
  | .fsub _ _ n d _ _ => (if n then d == 0 else decide (d.toNat < 56))
  | .fmul _ _ n d _ _ => (if n then d == 0 else decide (d.toNat < 56))
  | .fma _ _ n d _ _ => (n || decide (d.toNat < 56))
  | .fms _ _ n d _ _ => (n || decide (d.toNat < 56))
  | .fnma _ _ n d _ _ => (n || decide (d.toNat < 56))
  | .fdiv _ _ d _ _ => decide (d.toNat < 56)
  | .fsqrt _ d _ _ => decide (d.toNat < 56)
  | .fexp2 _ d _ => decide (d.toNat < 56)
  | .flog2 _ d _ => decide (d.toNat < 56)
  | .fmin _ _ n d _ _ => (if n then d == 0 else decide (d.toNat < 56))
  | .fmax _ _ n d _ _ => (if n then d == 0 else decide (d.toNat < 56))
  | .fabs _ n d _ _ => (if n then d == 0 else decide (d.toNat < 56))
  | .fneg _ n d _ _ => (if n then d == 0 else decide (d.toNat < 56))
  | .fsgn _ _ n d _ _ => (if n then d == 0 else decide (d.toNat < 56))
  | .fceq _ _ n d _ _ => (if n then d == 0 else decide (d.toNat < 56))
  | .fclt _ _ n d _ _ => (if n then d == 0 else decide (d.toNat < 56))
  | .fcle _ _ n d _ _ => (if n then d == 0 else decide (d.toNat < 56))
  | .fcun _ _ n d _ _ => (if n then d == 0 else decide (d.toNat < 56))
  | .fclass _ n d _ _ => (if n then d == 0 else decide (d.toNat < 56))
  | .fround _ n d _ _ => (if n then d == 0 else decide (d.toNat < 56))
  | .fcvtFf sc _ n d t _ => (if n then d == 0 else decide (d.toNat < 56)) && decide (sc ≠ t)
  | .fcvtFi rr _ _ n d _ _ => (if n then d == 0 else decide (d.toNat < 56)) && decide (rr.toNat ≤ 4)
  | .fcvtIf _ _ n d _ _ => (if n then d == 0 else decide (d.toNat < 56))
  | .fmtSet _ => true
  | .fmtGet d _ => decide (d.toNat < 56)
  | .qmax _ _ d _ => decide (d.toNat < 56)
  | .qscale _ d _ => decide (d.toNat < 56)
  | .quant _ _ d _ => decide (d.toNat < 56)
  | .dequant _ _ d _ => decide (d.toNat < 56)
  | .salient _ _ d _ => decide (d.toNat < 56)
  | .laneId d => decide (d.toNat < 56)
  | .laneGet _ _ d => decide (d.toNat < 56)
  | .laneRise _ _ d => decide (d.toNat < 56)
  | .laneFall _ _ d => decide (d.toNat < 56)
  | .laneFlip _ _ d => decide (d.toNat < 56)
  | .laneAny _ d => decide (d.toNat < 56)
  | .laneAll _ d => decide (d.toNat < 56)
  | .laneBits _ d => decide (d.toNat < 56)
  | .redAddI _ d => decide (d.toNat < 56)
  | .redAddF32 _ d => decide (d.toNat < 56)
  | .redMaxF32 _ d => decide (d.toNat < 56)
  | .redMinF32 _ d => decide (d.toNat < 56)
  | .scanAddI _ d => decide (d.toNat < 56)
  | .intersect _ _ d => decide (d.toNat < 56)
  | .join => true
  | .regang => true
  | .mAnd b a d => b.toNat < 8 && a.toNat < 8 && d.toNat < 8
  | .mOr b a d => b.toNat < 8 && a.toNat < 8 && d.toNat < 8
  | .mNot a d => a.toNat < 8 && d.toNat < 8
  | .mMov a d => a.toNat < 8 && d.toNat < 8
  | .mMovFromK a d => a.toNat < 8 && d.toNat < 8
  | .mMovToK a d => a.toNat < 8 && d.toNat < 8
  | .mMovActive d => decide (d.toNat < 8)
  | .gcall _ _ => true
  | .gret _ => true
  | .gflush _ => true
  | .semP sc => decide (sc.toNat < 16)
  | .semV sc => decide (sc.toNat < 16)
  | .sregRd sc d => decide (d.toNat < 56) && decide (sc.toNat < 8)
  | .sregWr sc _ => decide (sc.toNat < 8)
  | .barMax _ _ d => decide (d.toNat < 56)
  | .ringArrive _ _ => true
  | .ringWait _ _ _ => true
  | .step => true
  | .wait _ _ d => decide (d.toNat < 56)
  | .ldFe _ d _ => decide (d.toNat < 56)
  | .ldFf _ d _ => decide (d.toNat < 56)
  | .stEf _ _ _ => true
  | .stFf _ _ _ => true
  | .feSet sc _ _ => decide (sc.toNat < 2)
  | .amoAdd _ _ d _ _ => decide (d.toNat < 56)
  | .amoMinI _ _ d _ _ => decide (d.toNat < 56)
  | .amoMaxI _ _ d _ _ => decide (d.toNat < 56)
  | .amoMinN _ _ d _ _ => decide (d.toNat < 56)
  | .amoMaxN _ _ d _ _ => decide (d.toNat < 56)
  | .amoAnd _ _ d _ _ => decide (d.toNat < 56)
  | .amoOr _ _ d _ _ => decide (d.toNat < 56)
  | .amoXor _ _ d _ _ => decide (d.toNat < 56)
  | .amoSwap _ _ d _ _ => decide (d.toNat < 56)
  | .amoCas _ _ d _ _ => decide (d.toNat < 56)
  | .amoFaddF32 _ _ d _ => decide (d.toNat < 56)
  | .amoFaddBf16 _ _ d _ => decide (d.toNat < 56)
  | .bankAddF32 _ _ => true
  | .bankAddBf16 _ _ => true
  | .bankMaxF32 _ _ => true
  | .bankAxpyF32 _ _ => true
  | .bankSumF32 _ d => decide (d.toNat < 56)
  | .fence sc => (sc.toNat ≤ 4 || sc.toNat == 7)
  | .ldSc _ d _ => decide (d.toNat < 56)
  | .stSc _ _ _ => true
  | .agBind _ kk => 48 ≤ kk.toNat && kk.toNat ≤ 55
  | .agUnbind kk => 48 ≤ kk.toNat && kk.toNat ≤ 55
  | .agPos kk d => decide (d.toNat < 56) && 48 ≤ kk.toNat && kk.toNat ≤ 55
  | .agDrain kk => 48 ≤ kk.toNat && kk.toNat ≤ 55
  | .send _ _ _ => true
  | .sendR _ _ _ => true
  | .recv _ d _ => decide (d.toNat < 56)
  | .poll _ d _ => decide (d.toNat < 56)
  | .ccClean _ _ => true
  | .ccInval _ _ => true
  | .ccZero _ _ => true
  | .pf _ _ => true
  | .mma t => decide (t.toNat < 16)
  | .mmaPair t => decide (t.toNat < 16)
  | .mmaPack t => decide (t.toNat < 16)
  | .mmaWait t => decide (t.toNat ≤ 16)
  | .accZero t => decide (t.toNat < 16)
  | .accLd _ t => decide (t.toNat < 16)
  | .accSt _ t => decide (t.toNat < 16)
  | .accOut _ t => decide (t.toNat < 16)
  | .mskLd _ mb => decide (mb.toNat < 4)
  | .cpy => true
  | .cpyWait _ => true
  | .pfkLd _ _ => true
  | .pfkArm _ _ => true
  | .coll => true
  | .evqRd d => decide (d.toNat < 56)
  | .evqWait d => decide (d.toNat < 56)
  | .engFence => true
  | .spawn _ d => decide (d.toNat < 56)
  | .taskDec _ => true
  | .taskCtr _ => true
  | .rsOpen _ _ d => decide (d.toNat < 56)
  | .rsRd _ _ => true
  | .rsWr _ _ => true
  | .rsSnap _ _ => true
  | .rsRoll _ _ => true
  | .rsFork _ _ d => decide (d.toNat < 56)
  | .rsDrop _ => true
  | .rsPos _ d => decide (d.toNat < 56)
  | .btPrep _ _ d => decide (d.toNat < 56)
  | .btCommit _ d => decide (d.toNat < 56)
  | .migrate _ d => decide (d.toNat < 56)
  | .ptTrunc _ _ d => decide (d.toNat < 56)
  | .trap _ _ => true
  | .rett => true
  | .srRd sc d => decide (d.toNat < 56) && decide (sc.toNat < 36)
  | .srWr sc _ => decide (sc.toNat < 36)
  | .crewPeek _ d => decide (d.toNat < 56)
  | .crewPoke _ _ => true
  | .crewResume _ _ => true
  | .crewKill _ => true
  | .tlbInval _ _ => true
  | .brk => true
  | .halt => true
  | .addi _ _ n d _ => (if n then d == 0 else decide (d.toNat < 56))
  | .andi _ _ n d _ => (if n then d == 0 else decide (d.toNat < 56))
  | .ori _ _ n d _ => (if n then d == 0 else decide (d.toNat < 56))
  | .xori _ _ n d _ => (if n then d == 0 else decide (d.toNat < 56))
  | .shli _ _ n d _ => (if n then d == 0 else decide (d.toNat < 56))
  | .shri _ _ n d _ => (if n then d == 0 else decide (d.toNat < 56))
  | .sari _ _ n d _ => (if n then d == 0 else decide (d.toNat < 56))
  | .sltiI _ _ n d _ => (if n then d == 0 else decide (d.toNat < 56))
  | .sltiN _ _ n d _ => (if n then d == 0 else decide (d.toNat < 56))
  | .muli _ _ n d _ => (if n then d == 0 else decide (d.toNat < 56))
  | .ldi _ n d _ => (if n then d == 0 else decide (d.toNat < 56))
  | .bEq _ _ _ _ => true
  | .bNe _ _ _ _ => true
  | .bLt _ _ _ _ => true
  | .bGe _ _ _ _ => true
  | .bLtn _ _ _ _ => true
  | .bGen _ _ _ _ => true
  | .cinci _ _ n d _ => (if n then d == 0 else decide (d.toNat < 56))
  | .split _ => true
  | .bar _ sc => decide (sc.toNat ≤ 4)
  | .barArrive _ sc => decide (sc.toNat ≤ 4)
  | .barWait _ sc => decide (sc.toNat ≤ 4)
  | .ldI8 _ p a d _ => decide (d.toNat < 56) && !(p && (decide (56 ≤ a.toNat) || a == d))
  | .ldN8 _ p a d _ => decide (d.toNat < 56) && !(p && (decide (56 ≤ a.toNat) || a == d))
  | .ldI16 _ p a d _ => decide (d.toNat < 56) && !(p && (decide (56 ≤ a.toNat) || a == d))
  | .ldN16 _ p a d _ => decide (d.toNat < 56) && !(p && (decide (56 ≤ a.toNat) || a == d))
  | .ldI32 _ p a d _ => decide (d.toNat < 56) && !(p && (decide (56 ≤ a.toNat) || a == d))
  | .ldN32 _ p a d _ => decide (d.toNat < 56) && !(p && (decide (56 ≤ a.toNat) || a == d))
  | .ld64 _ p a d _ => decide (d.toNat < 56) && !(p && (decide (56 ≤ a.toNat) || a == d))
  | .ld128 _ p a d _ => decide (d.toNat < 56) && !(p && (decide (56 ≤ a.toNat) || a == d))
  | .st8 _ p a _ _ => !(p && decide (56 ≤ a.toNat))
  | .st16 _ p a _ _ => !(p && decide (56 ≤ a.toNat))
  | .st32 _ p a _ _ => !(p && decide (56 ≤ a.toNat))
  | .st64 _ p a _ _ => !(p && decide (56 ≤ a.toNat))
  | .st128 _ p a _ _ => !(p && decide (56 ≤ a.toNat))
  | .ldCap _ p a d _ => decide (d.toNat < 56) && !(p && (decide (56 ≤ a.toNat) || a == d))
  | .stCap _ p a _ _ => !(p && decide (56 ≤ a.toNat))
  | .j _ => true
  | .call _ => true
  | .xset _ _ => true
  | .xcat _ _ => true
  | .nop => true
  | .compactMov _ _ => true
  | .compactAdd _ _ => true
  | .compactSub _ _ => true
  | .compactAnd _ _ => true
  | .compactOr _ _ => true
  | .compactXor _ _ => true
  | .compactAddi _ _ => true
  | .compactShli _ _ => true
  | .compactShri _ _ => true
  | .compactSari _ _ => true
  | .compactLdi _ _ => true
  | .compactLd64 _ _ => true
  | .compactSt64 _ _ => true
  | .compactLdI32 _ _ => true
  | .compactSt32 _ _ => true
  | .compactCinci _ _ => true
  | .bZ off _ => decide (off ≠ 0)
  | .bNz off _ => decide (off ≠ 0)
  | .jS _ _ => true
  | .compactRet => true
  | .compactSymWait _ => true
  | .compactFaddF32 _ _ => true
  | .compactFmulF32 _ _ => true
  | .compactJr _ => true
  | .asyncEventEntry _ => true
  | .registerMissSlotArrival _ _ _ => true
  | .symbolArrival _ _ _ => true
  | .localLoadCompletion _ => true
  | .longInstructionCompletion _ => true
  | .messageDeposit _ => true
  | .automaticDecrement _ => true
  | .pathSwitch _ => true
  | .watchdogExpiry _ => true
  | .mooringTimeLimit _ _ => true
  | .mooringPlacement _ _ => true
  | .mooringLoadingEnd _ _ => true
  | .gangReturnDelivery _ => true
  | .waitWake _ => true
  | .waitTimeLimit _ => true
  | .feQueuePerform _ => true
  | .feWaitDeadline _ => true
  | .messageArrival _ => true
  | .messageSpill _ => true
  | .spillMoveBack _ => true
  | .homeAccess _ => true
  | .postedAcknowledgement _ _ => true
  | .refusalArrival _ _ => true
  | .remoteRefusalTrap _ => true
  | .pageWalkCompletion _ => true
  | .scWindowPerform => true
  | .streamRunAheadFetch _ _ => true
  | .engineLineWrite _ _ => true
  | .mmaStart _ => true
  | .mmaRetire _ => true
  | .accFormPerform _ => true
  | .selfTestStart _ => true
  | .selfTestEnd _ _ => true
  | .copyStart _ => true
  | .copyCompletion _ => true
  | .eventRecordDrop _ => true
  | .prefetchKernelRun _ => true
  | .collectiveCompletion _ => true
  | .collectiveTimeLimit _ => true
  | .counterDecrement _ => true
  | .tenderWalkStart _ => true
  | .tenderWalkOffer _ => true
  | .readyQueueOffer _ => true
  | .passedOverLimit _ _ => true
  | .stateStoreRequest _ _ => true
  | .stateStoreAnswer _ => true
  | .stateStoreTransferCompletion _ _ => true
  | .preemption _ => true
  | .crewDrain _ => true
  | .switchStepEntry _ => true
  | .crewRestore _ _ => true
  | .pcSample _ => true
  | .dieOutOfService _ => true
  | .flitReceive _ _ _ => true
  | .ptpMessage _ => true
  | .lockAcquired => true
  | .holdoverEntry => true
  | .lightSlotDue _ => true
  | .dieMembershipChange _ _ _ => true
  | .dieShareAcknowledge _ _ => true
  | .launchAckDeadline _ => true
  | .launchControlFlit _ => true
  | .coordAckDeadline _ => true
  | .goTimeout _ => true
  | .replicaStage _ => true
  | .replicaDiscard _ => true
  | .replicaCommitApply _ => true
  | .btPrepAnswer _ => true
  | .btCommitAnswer _ => true
  | .migrateReserve _ => true
  | .identify _ _ _ => true
  | .loadObject _ _ _ => true
  | .createContext _ _ _ => true
  | .destroyContext _ _ _ => true
  | .map _ _ _ => true
  | .unmap _ _ _ => true
  | .setKeyInstall _ _ _ => true
  | .setKeyRemove _ _ _ => true
  | .setLight _ _ _ => true
  | .launch _ _ _ => true
  | .launchReply _ => true
  | .readEvents _ _ _ => true
  | .attest _ _ _ => true
  | .setPower _ _ _ => true
  | .resetFunction _ _ _ => true
  | .functionLevelReset _ => true
  | .hostBar2Read _ _ _ => true
  | .hostBar2Write _ _ _ => true
  | .hostRegisterWrite _ _ _ => true
  | .powerOn => true
  | .powerControlTick _ _ => true
  | .lampFrame _ => true
  | .lampTimeRecord _ => true
  | .evqWaitTimeLimit _ => true
  | .staleReplicaRestore _ _ => true
  | .instructionCacheLineArrival _ => true
  | .reservedEncoding _ _ => true
  | .taskDecBankAnswer _ => true
  | .unknownCommandCode _ _ _ _ => true
  | .srIovEnable _ => true

end Sys2Proof
end

