-- ==== Sys2Proof/Decode.lean ====
section
/-! DEFINITION. The decoder of the instruction stream (04 R79 to R101) and, after it, the encoder.
A word is a natural number with bit 0 the least significant bit of the first halfword. The decoder
finds the row of the word's format and opcode, checks the fields the row fixes at zero, takes the
operand fields, and refuses what `Instr.wf` refuses. Anything else is a reserved encoding (04 R94).
The word noncomputable stands where Lean's code generator cannot build a constructor with fields past
its 244th; Lean's kernel evaluates every definition here. -/

namespace Sys2Proof

/-- Why the decoder gives no instruction. -/
inductive DecodeError where
  /-- Fewer bytes than the instruction's length. -/
  | short
  /-- A reserved or malformed encoding of the given length in bytes (04 R94): its word. -/
  | reserved (word : Nat) (len : Nat)
  deriving DecidableEq, Repr

/-- A field of `n` bits from bit `lo` of a word. -/
def fld (w lo n : Nat) : BitVec n := BitVec.ofNat n (w / 2 ^ lo)

/-- A one-bit field. -/
def bit (w lo : Nat) : Bool := w / 2 ^ lo % 2 == 1

/-- A field that must be 0 (04 R82). -/
def zero (w lo n : Nat) : Bool := w / 2 ^ lo % 2 ^ n == 0

/-- An instruction, if the fixed fields allow it. -/
def chk (c : Bool) (i : Instr) : Option Instr := if c then some i else none

/-- A table row: the opcode within the format, and how the rest of the word is read. -/
abbrev Row := Nat × (Nat → Option Instr)

/-- The row of an opcode. -/
def findRow (op : Nat) : List Row → Option (Nat → Option Instr)
  | [] => none
  | (k, f) :: t => if op = k then some f else findRow op t

/-- ADD (R104). -/
def rowAdd (w : Nat) : Option Instr := chk true (.add (fld w 26 6) (fld w 20 6) (bit w 19) (fld w 13 6) (bit w 1))
/-- SUB (R104). -/
def rowSub (w : Nat) : Option Instr := chk true (.sub (fld w 26 6) (fld w 20 6) (bit w 19) (fld w 13 6) (bit w 1))
/-- MUL (R104). -/
def rowMul (w : Nat) : Option Instr := chk true (.mul (fld w 26 6) (fld w 20 6) (bit w 19) (fld w 13 6) (bit w 1))
/-- MULH_I (R104). -/
def rowMulhI (w : Nat) : Option Instr := chk true (.mulhI (fld w 26 6) (fld w 20 6) (bit w 19) (fld w 13 6) (bit w 1))
/-- MULH_N (R104). -/
def rowMulhN (w : Nat) : Option Instr := chk true (.mulhN (fld w 26 6) (fld w 20 6) (bit w 19) (fld w 13 6) (bit w 1))
/-- DIV_I (R104). -/
def rowDivI (w : Nat) : Option Instr := chk (zero w 19 1) (.divI (fld w 26 6) (fld w 20 6) (fld w 13 6) (bit w 1))
/-- DIV_N (R104). -/
def rowDivN (w : Nat) : Option Instr := chk (zero w 19 1) (.divN (fld w 26 6) (fld w 20 6) (fld w 13 6) (bit w 1))
/-- REM_I (R104). -/
def rowRemI (w : Nat) : Option Instr := chk (zero w 19 1) (.remI (fld w 26 6) (fld w 20 6) (fld w 13 6) (bit w 1))
/-- REM_N (R104). -/
def rowRemN (w : Nat) : Option Instr := chk (zero w 19 1) (.remN (fld w 26 6) (fld w 20 6) (fld w 13 6) (bit w 1))
/-- AND (R104). -/
def rowAnd (w : Nat) : Option Instr := chk true (.and (fld w 26 6) (fld w 20 6) (bit w 19) (fld w 13 6) (bit w 1))
/-- OR (R104). -/
def rowOr (w : Nat) : Option Instr := chk true (.or (fld w 26 6) (fld w 20 6) (bit w 19) (fld w 13 6) (bit w 1))
/-- XOR (R104). -/
def rowXor (w : Nat) : Option Instr := chk true (.xor (fld w 26 6) (fld w 20 6) (bit w 19) (fld w 13 6) (bit w 1))
/-- ANDN (R104). -/
def rowAndn (w : Nat) : Option Instr := chk true (.andn (fld w 26 6) (fld w 20 6) (bit w 19) (fld w 13 6) (bit w 1))
/-- SHL (R104). -/
def rowShl (w : Nat) : Option Instr := chk true (.shl (fld w 26 6) (fld w 20 6) (bit w 19) (fld w 13 6) (bit w 1))
/-- SHR (R104). -/
def rowShr (w : Nat) : Option Instr := chk true (.shr (fld w 26 6) (fld w 20 6) (bit w 19) (fld w 13 6) (bit w 1))
/-- SAR (R104). -/
def rowSar (w : Nat) : Option Instr := chk true (.sar (fld w 26 6) (fld w 20 6) (bit w 19) (fld w 13 6) (bit w 1))
/-- ROL (R104). -/
def rowRol (w : Nat) : Option Instr := chk true (.rol (fld w 26 6) (fld w 20 6) (bit w 19) (fld w 13 6) (bit w 1))
/-- ROR (R104). -/
def rowRor (w : Nat) : Option Instr := chk true (.ror (fld w 26 6) (fld w 20 6) (bit w 19) (fld w 13 6) (bit w 1))
/-- CLZ (R104). -/
def rowClz (w : Nat) : Option Instr := chk (zero w 26 6) (.clz (fld w 20 6) (bit w 19) (fld w 13 6) (bit w 1))
/-- CTZ (R104). -/
def rowCtz (w : Nat) : Option Instr := chk (zero w 26 6) (.ctz (fld w 20 6) (bit w 19) (fld w 13 6) (bit w 1))
/-- POPC (R104). -/
def rowPopc (w : Nat) : Option Instr := chk (zero w 26 6) (.popc (fld w 20 6) (bit w 19) (fld w 13 6) (bit w 1))
/-- MIN_I (R104). -/
def rowMinI (w : Nat) : Option Instr := chk true (.minI (fld w 26 6) (fld w 20 6) (bit w 19) (fld w 13 6) (bit w 1))
/-- MAX_I (R104). -/
def rowMaxI (w : Nat) : Option Instr := chk true (.maxI (fld w 26 6) (fld w 20 6) (bit w 19) (fld w 13 6) (bit w 1))
/-- MIN_N (R104). -/
def rowMinN (w : Nat) : Option Instr := chk true (.minN (fld w 26 6) (fld w 20 6) (bit w 19) (fld w 13 6) (bit w 1))
/-- MAX_N (R104). -/
def rowMaxN (w : Nat) : Option Instr := chk true (.maxN (fld w 26 6) (fld w 20 6) (bit w 19) (fld w 13 6) (bit w 1))
/-- SEQ (R104). -/
def rowSeq (w : Nat) : Option Instr := chk true (.seq (fld w 26 6) (fld w 20 6) (bit w 19) (fld w 13 6) (bit w 1))
/-- SNE (R104). -/
def rowSne (w : Nat) : Option Instr := chk true (.sne (fld w 26 6) (fld w 20 6) (bit w 19) (fld w 13 6) (bit w 1))
/-- SLT_I (R104). -/
def rowSltI (w : Nat) : Option Instr := chk true (.sltI (fld w 26 6) (fld w 20 6) (bit w 19) (fld w 13 6) (bit w 1))
/-- SLT_N (R104). -/
def rowSltN (w : Nat) : Option Instr := chk true (.sltN (fld w 26 6) (fld w 20 6) (bit w 19) (fld w 13 6) (bit w 1))
/-- SEL (R104). -/
def rowSel (w : Nat) : Option Instr := chk true (.sel (fld w 26 6) (fld w 20 6) (bit w 19) (fld w 13 6) (bit w 1))
/-- SEXT (R105). -/
def rowSext (w : Nat) : Option Instr := chk true (.sext (fld w 26 6) (fld w 20 6) (bit w 19) (fld w 13 6) (bit w 1))
/-- ZEXT (R105). -/
def rowZext (w : Nat) : Option Instr := chk true (.zext (fld w 26 6) (fld w 20 6) (bit w 19) (fld w 13 6) (bit w 1))
/-- BFX (R105). -/
def rowBfx (w : Nat) : Option Instr := chk true (.bfx (fld w 26 6) (fld w 20 6) (bit w 19) (fld w 13 6) (bit w 1))
/-- BFI (R105). -/
def rowBfi (w : Nat) : Option Instr := chk true (.bfi (fld w 26 6) (fld w 20 6) (bit w 19) (fld w 13 6) (bit w 1))
/-- MOV (R105). -/
def rowMov (w : Nat) : Option Instr := chk (zero w 26 6) (.mov (fld w 20 6) (bit w 19) (fld w 13 6) (bit w 1))
/-- RNG (R106). -/
def rowRng (w : Nat) : Option Instr := chk true (.rng (fld w 26 6) (fld w 20 6) (bit w 19) (fld w 13 6) (bit w 1))
/-- CBASE (R109). -/
def rowCbase (w : Nat) : Option Instr := chk (zero w 26 6) (.cbase (fld w 20 6) (bit w 19) (fld w 13 6) (bit w 1))
/-- CTOP (R109). -/
def rowCtop (w : Nat) : Option Instr := chk (zero w 26 6) (.ctop (fld w 20 6) (bit w 19) (fld w 13 6) (bit w 1))
/-- CLEN (R109). -/
def rowClen (w : Nat) : Option Instr := chk (zero w 26 6) (.clen (fld w 20 6) (bit w 19) (fld w 13 6) (bit w 1))
/-- CPERM (R109). -/
def rowCperm (w : Nat) : Option Instr := chk (zero w 26 6) (.cperm (fld w 20 6) (bit w 19) (fld w 13 6) (bit w 1))
/-- CWALK (R109). -/
def rowCwalk (w : Nat) : Option Instr := chk (zero w 26 6) (.cwalk (fld w 20 6) (bit w 19) (fld w 13 6) (bit w 1))
/-- CTAG (R109). -/
def rowCtag (w : Nat) : Option Instr := chk (zero w 26 6) (.ctag (fld w 20 6) (bit w 19) (fld w 13 6) (bit w 1))
/-- CBOUND (R111). -/
def rowCbound (w : Nat) : Option Instr := chk true (.cbound (fld w 26 6) (fld w 20 6) (bit w 19) (fld w 13 6) (bit w 1))
/-- CAND (R110). -/
def rowCand (w : Nat) : Option Instr := chk true (.cand (fld w 26 6) (fld w 20 6) (bit w 19) (fld w 13 6) (bit w 1))
/-- CWSET (R112). -/
def rowCwset (w : Nat) : Option Instr := chk true (.cwset (fld w 26 6) (fld w 20 6) (bit w 19) (fld w 13 6) (bit w 1))
/-- CSET (R110). -/
def rowCset (w : Nat) : Option Instr := chk true (.cset (fld w 26 6) (fld w 20 6) (bit w 19) (fld w 13 6) (bit w 1))
/-- CINC (R110). -/
def rowCinc (w : Nat) : Option Instr := chk true (.cinc (fld w 26 6) (fld w 20 6) (bit w 19) (fld w 13 6) (bit w 1))
/-- CDIFF (R113). -/
def rowCdiff (w : Nat) : Option Instr := chk true (.cdiff (fld w 26 6) (fld w 20 6) (bit w 19) (fld w 13 6) (bit w 1))
/-- CCLR (R110). -/
def rowCclr (w : Nat) : Option Instr := chk (zero w 26 6) (.cclr (fld w 20 6) (bit w 19) (fld w 13 6) (bit w 1))
/-- CWITHIN (R113). -/
def rowCwithin (w : Nat) : Option Instr := chk true (.cwithin (fld w 26 6) (fld w 20 6) (bit w 19) (fld w 13 6) (bit w 1))
/-- CCOORD (R109). -/
def rowCcoord (w : Nat) : Option Instr := chk (zero w 26 6) (.ccoord (fld w 20 6) (bit w 19) (fld w 13 6) (bit w 1))
/-- JR (R121). -/
def rowJr (w : Nat) : Option Instr := chk (zero w 13 7 && zero w 26 6) (.jr (fld w 20 6) (bit w 1))
/-- CALLR (R121). -/
def rowCallr (w : Nat) : Option Instr := chk (zero w 13 7 && zero w 26 6) (.callr (fld w 20 6) (bit w 1))
/-- RET (R122). -/
def rowRet (w : Nat) : Option Instr := chk (zero w 13 7 && zero w 26 6) (.ret (fld w 20 6) (bit w 1))
/-- SYM_WAIT (R124). -/
def rowSymWait (w : Nat) : Option Instr := chk (zero w 13 7 && zero w 26 6) (.symWait (fld w 20 6) (bit w 1))
/-- SYM_TEST (R124). -/
def rowSymTest (w : Nat) : Option Instr := chk (zero w 19 1 && zero w 26 6) (.symTest (fld w 20 6) (fld w 13 6) (bit w 1))
/-- XPUT (R125). -/
def rowXput (w : Nat) : Option Instr := chk (zero w 1 1 && zero w 19 1 && zero w 26 6) (.xput (fld w 20 6) (fld w 13 6))
/-- XGET (R125). -/
def rowXget (w : Nat) : Option Instr := chk (zero w 1 1 && zero w 19 1 && zero w 26 6) (.xget (fld w 20 6) (fld w 13 6))
/-- FADD (R128). -/
def rowFadd (w : Nat) : Option Instr := chk true (.fadd (fld w 26 6) (fld w 20 6) (bit w 19) (fld w 13 6) (fld w 4 2) (bit w 1))
/-- FSUB (R128). -/
def rowFsub (w : Nat) : Option Instr := chk true (.fsub (fld w 26 6) (fld w 20 6) (bit w 19) (fld w 13 6) (fld w 4 2) (bit w 1))
/-- FMUL (R128). -/
def rowFmul (w : Nat) : Option Instr := chk true (.fmul (fld w 26 6) (fld w 20 6) (bit w 19) (fld w 13 6) (fld w 4 2) (bit w 1))
/-- FMA (R128). -/
def rowFma (w : Nat) : Option Instr := chk true (.fma (fld w 26 6) (fld w 20 6) (bit w 19) (fld w 13 6) (fld w 4 2) (bit w 1))
/-- FMS (R128). -/
def rowFms (w : Nat) : Option Instr := chk true (.fms (fld w 26 6) (fld w 20 6) (bit w 19) (fld w 13 6) (fld w 4 2) (bit w 1))
/-- FNMA (R128). -/
def rowFnma (w : Nat) : Option Instr := chk true (.fnma (fld w 26 6) (fld w 20 6) (bit w 19) (fld w 13 6) (fld w 4 2) (bit w 1))
/-- FDIV (R129). -/
def rowFdiv (w : Nat) : Option Instr := chk (zero w 19 1) (.fdiv (fld w 26 6) (fld w 20 6) (fld w 13 6) (fld w 4 2) (bit w 1))
/-- FSQRT (R129). -/
def rowFsqrt (w : Nat) : Option Instr := chk (zero w 19 1 && zero w 26 6) (.fsqrt (fld w 20 6) (fld w 13 6) (fld w 4 2) (bit w 1))
/-- FEXP2 (R129). -/
def rowFexp2 (w : Nat) : Option Instr := chk (zero w 19 1 && zero w 26 6) (.fexp2 (fld w 20 6) (fld w 13 6) (bit w 1))
/-- FLOG2 (R129). -/
def rowFlog2 (w : Nat) : Option Instr := chk (zero w 19 1 && zero w 26 6) (.flog2 (fld w 20 6) (fld w 13 6) (bit w 1))
/-- FMIN (R130). -/
def rowFmin (w : Nat) : Option Instr := chk true (.fmin (fld w 26 6) (fld w 20 6) (bit w 19) (fld w 13 6) (fld w 4 2) (bit w 1))
/-- FMAX (R130). -/
def rowFmax (w : Nat) : Option Instr := chk true (.fmax (fld w 26 6) (fld w 20 6) (bit w 19) (fld w 13 6) (fld w 4 2) (bit w 1))
/-- FABS (R131). -/
def rowFabs (w : Nat) : Option Instr := chk (zero w 26 6) (.fabs (fld w 20 6) (bit w 19) (fld w 13 6) (fld w 4 2) (bit w 1))
/-- FNEG (R131). -/
def rowFneg (w : Nat) : Option Instr := chk (zero w 26 6) (.fneg (fld w 20 6) (bit w 19) (fld w 13 6) (fld w 4 2) (bit w 1))
/-- FSGN (R131). -/
def rowFsgn (w : Nat) : Option Instr := chk true (.fsgn (fld w 26 6) (fld w 20 6) (bit w 19) (fld w 13 6) (fld w 4 2) (bit w 1))
/-- FCEQ (R132). -/
def rowFceq (w : Nat) : Option Instr := chk true (.fceq (fld w 26 6) (fld w 20 6) (bit w 19) (fld w 13 6) (fld w 4 2) (bit w 1))
/-- FCLT (R132). -/
def rowFclt (w : Nat) : Option Instr := chk true (.fclt (fld w 26 6) (fld w 20 6) (bit w 19) (fld w 13 6) (fld w 4 2) (bit w 1))
/-- FCLE (R132). -/
def rowFcle (w : Nat) : Option Instr := chk true (.fcle (fld w 26 6) (fld w 20 6) (bit w 19) (fld w 13 6) (fld w 4 2) (bit w 1))
/-- FCUN (R132). -/
def rowFcun (w : Nat) : Option Instr := chk true (.fcun (fld w 26 6) (fld w 20 6) (bit w 19) (fld w 13 6) (fld w 4 2) (bit w 1))
/-- FCLASS (R133). -/
def rowFclass (w : Nat) : Option Instr := chk (zero w 26 6) (.fclass (fld w 20 6) (bit w 19) (fld w 13 6) (fld w 4 2) (bit w 1))
/-- FROUND (R134). -/
def rowFround (w : Nat) : Option Instr := chk (zero w 26 6) (.fround (fld w 20 6) (bit w 19) (fld w 13 6) (fld w 4 2) (bit w 1))
/-- FCVT_FF (R136). -/
def rowFcvtFf (w : Nat) : Option Instr := chk (zero w 28 4) (.fcvtFf (fld w 26 2) (fld w 20 6) (bit w 19) (fld w 13 6) (fld w 4 2) (bit w 1))
/-- FCVT_FI (R137). -/
def rowFcvtFi (w : Nat) : Option Instr := chk true (.fcvtFi (fld w 29 3) (fld w 26 3) (fld w 20 6) (bit w 19) (fld w 13 6) (fld w 4 2) (bit w 1))
/-- FCVT_IF (R138). -/
def rowFcvtIf (w : Nat) : Option Instr := chk (zero w 29 3) (.fcvtIf (fld w 26 3) (fld w 20 6) (bit w 19) (fld w 13 6) (fld w 4 2) (bit w 1))
/-- FMT_SET (R324). -/
def rowFmtSet (w : Nat) : Option Instr := chk (zero w 1 1 && zero w 13 7 && zero w 26 6) (.fmtSet (fld w 20 6))
/-- FMT_GET (R324). -/
def rowFmtGet (w : Nat) : Option Instr := chk (zero w 19 13) (.fmtGet (fld w 13 6) (bit w 1))
/-- QMAX (R325). -/
def rowQmax (w : Nat) : Option Instr := chk (zero w 19 1) (.qmax (fld w 26 6) (fld w 20 6) (fld w 13 6) (bit w 1))
/-- QSCALE (R326). -/
def rowQscale (w : Nat) : Option Instr := chk (zero w 19 1 && zero w 26 6) (.qscale (fld w 20 6) (fld w 13 6) (bit w 1))
/-- QUANT (R326). -/
def rowQuant (w : Nat) : Option Instr := chk (zero w 19 1) (.quant (fld w 26 6) (fld w 20 6) (fld w 13 6) (bit w 1))
/-- DEQUANT (R326). -/
def rowDequant (w : Nat) : Option Instr := chk (zero w 19 1) (.dequant (fld w 26 6) (fld w 20 6) (fld w 13 6) (bit w 1))
/-- SALIENT (R327). -/
def rowSalient (w : Nat) : Option Instr := chk (zero w 19 1) (.salient (fld w 26 6) (fld w 20 6) (fld w 13 6) (bit w 1))
/-- LANE_ID (R188). -/
def rowLaneId (w : Nat) : Option Instr := chk (zero w 1 1 && zero w 19 13) (.laneId (fld w 13 6))
/-- LANE_GET (R189). -/
def rowLaneGet (w : Nat) : Option Instr := chk (zero w 1 1 && zero w 19 1) (.laneGet (fld w 26 6) (fld w 20 6) (fld w 13 6))
/-- LANE_RISE (R189). -/
def rowLaneRise (w : Nat) : Option Instr := chk (zero w 1 1 && zero w 19 1) (.laneRise (fld w 26 6) (fld w 20 6) (fld w 13 6))
/-- LANE_FALL (R189). -/
def rowLaneFall (w : Nat) : Option Instr := chk (zero w 1 1 && zero w 19 1) (.laneFall (fld w 26 6) (fld w 20 6) (fld w 13 6))
/-- LANE_FLIP (R189). -/
def rowLaneFlip (w : Nat) : Option Instr := chk (zero w 1 1 && zero w 19 1) (.laneFlip (fld w 26 6) (fld w 20 6) (fld w 13 6))
/-- LANE_ANY (R190). -/
def rowLaneAny (w : Nat) : Option Instr := chk (zero w 1 1 && zero w 19 1 && zero w 26 6) (.laneAny (fld w 20 6) (fld w 13 6))
/-- LANE_ALL (R190). -/
def rowLaneAll (w : Nat) : Option Instr := chk (zero w 1 1 && zero w 19 1 && zero w 26 6) (.laneAll (fld w 20 6) (fld w 13 6))
/-- LANE_BITS (R190). -/
def rowLaneBits (w : Nat) : Option Instr := chk (zero w 1 1 && zero w 19 1 && zero w 26 6) (.laneBits (fld w 20 6) (fld w 13 6))
/-- RED_ADD_I (R191). -/
def rowRedAddI (w : Nat) : Option Instr := chk (zero w 1 1 && zero w 19 1 && zero w 26 6) (.redAddI (fld w 20 6) (fld w 13 6))
/-- RED_ADD_F32 (R191). -/
def rowRedAddF32 (w : Nat) : Option Instr := chk (zero w 1 1 && zero w 19 1 && zero w 26 6) (.redAddF32 (fld w 20 6) (fld w 13 6))
/-- RED_MAX_F32 (R191). -/
def rowRedMaxF32 (w : Nat) : Option Instr := chk (zero w 1 1 && zero w 19 1 && zero w 26 6) (.redMaxF32 (fld w 20 6) (fld w 13 6))
/-- RED_MIN_F32 (R191). -/
def rowRedMinF32 (w : Nat) : Option Instr := chk (zero w 1 1 && zero w 19 1 && zero w 26 6) (.redMinF32 (fld w 20 6) (fld w 13 6))
/-- SCAN_ADD_I (R192). -/
def rowScanAddI (w : Nat) : Option Instr := chk (zero w 1 1 && zero w 19 1 && zero w 26 6) (.scanAddI (fld w 20 6) (fld w 13 6))
/-- INTERSECT (R193). -/
def rowIntersect (w : Nat) : Option Instr := chk (zero w 1 1 && zero w 19 1) (.intersect (fld w 26 6) (fld w 20 6) (fld w 13 6))
/-- JOIN (R161). -/
def rowJoin (w : Nat) : Option Instr := chk (zero w 1 1 && zero w 13 19) (.join)
/-- REGANG (R164). -/
def rowRegang (w : Nat) : Option Instr := chk (zero w 1 1 && zero w 13 19) (.regang)
/-- M_AND (R196). -/
def rowMAnd (w : Nat) : Option Instr := chk (zero w 1 1 && zero w 19 1) (.mAnd (fld w 26 6) (fld w 20 6) (fld w 13 6))
/-- M_OR (R196). -/
def rowMOr (w : Nat) : Option Instr := chk (zero w 1 1 && zero w 19 1) (.mOr (fld w 26 6) (fld w 20 6) (fld w 13 6))
/-- M_NOT (R196). -/
def rowMNot (w : Nat) : Option Instr := chk (zero w 1 1 && zero w 19 1 && zero w 26 6) (.mNot (fld w 20 6) (fld w 13 6))
/-- M_MOV, M_MOV_FROM_K, M_MOV_TO_K, M_MOV_ACTIVE (R196). -/
def rowMMov (w : Nat) : Option Instr := chk (zero w 1 1 && zero w 19 1 && zero w 26 6) (.mMov (fld w 20 6) (fld w 13 6)) <|> chk (zero w 1 1 && zero w 19 1 && fld w 26 6 == 1) (.mMovFromK (fld w 20 6) (fld w 13 6)) <|> chk (zero w 1 1 && zero w 19 1 && fld w 26 6 == 2) (.mMovToK (fld w 20 6) (fld w 13 6)) <|> chk (zero w 1 1 && fld w 19 13 == 384) (.mMovActive (fld w 13 6))
/-- GCALL (R197). -/
def rowGcall (w : Nat) : Option Instr := chk (zero w 1 1 && zero w 13 7) (.gcall (fld w 26 6) (fld w 20 6))
/-- GRET (R198). -/
def rowGret (w : Nat) : Option Instr := chk (zero w 1 1 && zero w 13 7 && zero w 26 6) (.gret (fld w 20 6))
/-- GFLUSH (R199). -/
def rowGflush (w : Nat) : Option Instr := chk (zero w 1 1 && zero w 13 7 && zero w 26 6) (.gflush (fld w 20 6))
/-- SEM_P (R200). -/
def rowSemP (w : Nat) : Option Instr := chk (zero w 1 1 && zero w 13 7 && zero w 26 6) (.semP (fld w 20 6))
/-- SEM_V (R200). -/
def rowSemV (w : Nat) : Option Instr := chk (zero w 1 1 && zero w 13 7 && zero w 26 6) (.semV (fld w 20 6))
/-- SREG_RD (R201). -/
def rowSregRd (w : Nat) : Option Instr := chk (zero w 1 1 && zero w 19 1 && zero w 26 6) (.sregRd (fld w 20 6) (fld w 13 6))
/-- SREG_WR (R201). -/
def rowSregWr (w : Nat) : Option Instr := chk (zero w 1 1 && zero w 13 7) (.sregWr (fld w 26 6) (fld w 20 6))
/-- BAR_MAX (R205). -/
def rowBarMax (w : Nat) : Option Instr := chk (zero w 1 1 && zero w 19 1) (.barMax (fld w 26 6) (fld w 20 6) (fld w 13 6))
/-- RING_ARRIVE (R207). -/
def rowRingArrive (w : Nat) : Option Instr := chk (zero w 1 1 && zero w 13 7 && zero w 25 7) (.ringArrive (fld w 23 2) (fld w 20 3))
/-- RING_WAIT (R207). -/
def rowRingWait (w : Nat) : Option Instr := chk (zero w 1 1 && zero w 13 7 && zero w 26 6) (.ringWait (bit w 25) (fld w 23 2) (fld w 20 3))
/-- STEP (R209). -/
def rowStep (w : Nat) : Option Instr := chk (zero w 1 1 && zero w 13 19) (.step)
/-- WAIT (R210). -/
def rowWait (w : Nat) : Option Instr := chk (zero w 1 1 && zero w 19 1) (.wait (fld w 26 6) (fld w 20 6) (fld w 13 6))
/-- LD_FE (R263). -/
def rowLdFe (w : Nat) : Option Instr := chk (zero w 19 1 && zero w 26 6) (.ldFe (fld w 20 6) (fld w 13 6) (bit w 1))
/-- LD_FF (R263). -/
def rowLdFf (w : Nat) : Option Instr := chk (zero w 19 1 && zero w 26 6) (.ldFf (fld w 20 6) (fld w 13 6) (bit w 1))
/-- ST_EF (R263). -/
def rowStEf (w : Nat) : Option Instr := chk (zero w 13 7) (.stEf (fld w 26 6) (fld w 20 6) (bit w 1))
/-- ST_FF (R263). -/
def rowStFf (w : Nat) : Option Instr := chk (zero w 13 7) (.stFf (fld w 26 6) (fld w 20 6) (bit w 1))
/-- FE_SET (R263). -/
def rowFeSet (w : Nat) : Option Instr := chk (zero w 13 7) (.feSet (fld w 26 6) (fld w 20 6) (bit w 1))
/-- AMO_ADD (R266). -/
def rowAmoAdd (w : Nat) : Option Instr := chk (zero w 19 1) (.amoAdd (fld w 26 6) (fld w 20 6) (fld w 13 6) (bit w 4) (bit w 1))
/-- AMO_MIN_I (R266). -/
def rowAmoMinI (w : Nat) : Option Instr := chk (zero w 19 1) (.amoMinI (fld w 26 6) (fld w 20 6) (fld w 13 6) (bit w 4) (bit w 1))
/-- AMO_MAX_I (R266). -/
def rowAmoMaxI (w : Nat) : Option Instr := chk (zero w 19 1) (.amoMaxI (fld w 26 6) (fld w 20 6) (fld w 13 6) (bit w 4) (bit w 1))
/-- AMO_MIN_N (R266). -/
def rowAmoMinN (w : Nat) : Option Instr := chk (zero w 19 1) (.amoMinN (fld w 26 6) (fld w 20 6) (fld w 13 6) (bit w 4) (bit w 1))
/-- AMO_MAX_N (R266). -/
def rowAmoMaxN (w : Nat) : Option Instr := chk (zero w 19 1) (.amoMaxN (fld w 26 6) (fld w 20 6) (fld w 13 6) (bit w 4) (bit w 1))
/-- AMO_AND (R266). -/
def rowAmoAnd (w : Nat) : Option Instr := chk (zero w 19 1) (.amoAnd (fld w 26 6) (fld w 20 6) (fld w 13 6) (bit w 4) (bit w 1))
/-- AMO_OR (R266). -/
def rowAmoOr (w : Nat) : Option Instr := chk (zero w 19 1) (.amoOr (fld w 26 6) (fld w 20 6) (fld w 13 6) (bit w 4) (bit w 1))
/-- AMO_XOR (R266). -/
def rowAmoXor (w : Nat) : Option Instr := chk (zero w 19 1) (.amoXor (fld w 26 6) (fld w 20 6) (fld w 13 6) (bit w 4) (bit w 1))
/-- AMO_SWAP (R266). -/
def rowAmoSwap (w : Nat) : Option Instr := chk (zero w 19 1) (.amoSwap (fld w 26 6) (fld w 20 6) (fld w 13 6) (bit w 4) (bit w 1))
/-- AMO_CAS (R266). -/
def rowAmoCas (w : Nat) : Option Instr := chk (zero w 19 1) (.amoCas (fld w 26 6) (fld w 20 6) (fld w 13 6) (bit w 4) (bit w 1))
/-- AMO_FADD_F32 (R268). -/
def rowAmoFaddF32 (w : Nat) : Option Instr := chk (zero w 19 1) (.amoFaddF32 (fld w 26 6) (fld w 20 6) (fld w 13 6) (bit w 1))
/-- AMO_FADD_BF16 (R268). -/
def rowAmoFaddBf16 (w : Nat) : Option Instr := chk (zero w 19 1) (.amoFaddBf16 (fld w 26 6) (fld w 20 6) (fld w 13 6) (bit w 1))
/-- BANK_ADD_F32 (R270). -/
def rowBankAddF32 (w : Nat) : Option Instr := chk (zero w 1 1 && zero w 13 7) (.bankAddF32 (fld w 26 6) (fld w 20 6))
/-- BANK_ADD_BF16 (R270). -/
def rowBankAddBf16 (w : Nat) : Option Instr := chk (zero w 1 1 && zero w 13 7) (.bankAddBf16 (fld w 26 6) (fld w 20 6))
/-- BANK_MAX_F32 (R270). -/
def rowBankMaxF32 (w : Nat) : Option Instr := chk (zero w 1 1 && zero w 13 7) (.bankMaxF32 (fld w 26 6) (fld w 20 6))
/-- BANK_AXPY_F32 (R270). -/
def rowBankAxpyF32 (w : Nat) : Option Instr := chk (zero w 1 1 && zero w 13 7) (.bankAxpyF32 (fld w 26 6) (fld w 20 6))
/-- BANK_SUM_F32 (R270). -/
def rowBankSumF32 (w : Nat) : Option Instr := chk (zero w 1 1 && zero w 19 1 && zero w 26 6) (.bankSumF32 (fld w 20 6) (fld w 13 6))
/-- FENCE (R252). -/
def rowFence (w : Nat) : Option Instr := chk (zero w 1 1 && zero w 13 7 && zero w 26 6) (.fence (fld w 20 6))
/-- LD_SC (R273). -/
def rowLdSc (w : Nat) : Option Instr := chk (zero w 19 1 && zero w 26 6) (.ldSc (fld w 20 6) (fld w 13 6) (bit w 1))
/-- ST_SC (R273). -/
def rowStSc (w : Nat) : Option Instr := chk (zero w 13 7) (.stSc (fld w 26 6) (fld w 20 6) (bit w 1))
/-- AG_BIND (R274). -/
def rowAgBind (w : Nat) : Option Instr := chk (zero w 1 1 && zero w 13 7) (.agBind (fld w 26 6) (fld w 20 6))
/-- AG_UNBIND (R275). -/
def rowAgUnbind (w : Nat) : Option Instr := chk (zero w 1 1 && zero w 13 7 && zero w 26 6) (.agUnbind (fld w 20 6))
/-- AG_POS (R275). -/
def rowAgPos (w : Nat) : Option Instr := chk (zero w 1 1 && zero w 19 1 && zero w 26 6) (.agPos (fld w 20 6) (fld w 13 6))
/-- AG_DRAIN (R275). -/
def rowAgDrain (w : Nat) : Option Instr := chk (zero w 1 1 && zero w 13 7 && zero w 26 6) (.agDrain (fld w 20 6))
/-- SEND (R277). -/
def rowSend (w : Nat) : Option Instr := chk (zero w 13 7) (.send (fld w 26 6) (fld w 20 6) (bit w 1))
/-- SEND_R (R278). -/
def rowSendR (w : Nat) : Option Instr := chk (zero w 13 7) (.sendR (fld w 26 6) (fld w 20 6) (bit w 1))
/-- RECV (R279). -/
def rowRecv (w : Nat) : Option Instr := chk (zero w 19 1 && zero w 26 6) (.recv (fld w 20 6) (fld w 13 6) (bit w 1))
/-- POLL (R280). -/
def rowPoll (w : Nat) : Option Instr := chk (zero w 19 1 && zero w 26 6) (.poll (fld w 20 6) (fld w 13 6) (bit w 1))
/-- CC_CLEAN (R281). -/
def rowCcClean (w : Nat) : Option Instr := chk (zero w 13 7 && zero w 26 6) (.ccClean (fld w 20 6) (bit w 1))
/-- CC_INVAL (R281). -/
def rowCcInval (w : Nat) : Option Instr := chk (zero w 13 7 && zero w 26 6) (.ccInval (fld w 20 6) (bit w 1))
/-- CC_ZERO (R281). -/
def rowCcZero (w : Nat) : Option Instr := chk (zero w 13 7 && zero w 26 6) (.ccZero (fld w 20 6) (bit w 1))
/-- PF (R281). -/
def rowPf (w : Nat) : Option Instr := chk (zero w 13 7 && zero w 26 6) (.pf (fld w 20 6) (bit w 1))
/-- MMA (R328). -/
def rowMma (w : Nat) : Option Instr := chk (zero w 1 1 && zero w 13 7 && zero w 26 6) (.mma (fld w 20 6))
/-- MMA_PAIR (R285). -/
def rowMmaPair (w : Nat) : Option Instr := chk (zero w 1 1 && zero w 13 7 && zero w 26 6) (.mmaPair (fld w 20 6))
/-- MMA_PACK (R328). -/
def rowMmaPack (w : Nat) : Option Instr := chk (zero w 1 1 && zero w 13 7 && zero w 26 6) (.mmaPack (fld w 20 6))
/-- MMA_WAIT (R330). -/
def rowMmaWait (w : Nat) : Option Instr := chk (zero w 1 1 && zero w 13 7 && zero w 26 6) (.mmaWait (fld w 20 6))
/-- ACC_ZERO (R331). -/
def rowAccZero (w : Nat) : Option Instr := chk (zero w 1 1 && zero w 13 7 && zero w 26 6) (.accZero (fld w 20 6))
/-- ACC_LD (R331). -/
def rowAccLd (w : Nat) : Option Instr := chk (zero w 1 1 && zero w 13 7) (.accLd (fld w 26 6) (fld w 20 6))
/-- ACC_ST (R331). -/
def rowAccSt (w : Nat) : Option Instr := chk (zero w 1 1 && zero w 13 7) (.accSt (fld w 26 6) (fld w 20 6))
/-- ACC_OUT (R332). -/
def rowAccOut (w : Nat) : Option Instr := chk (zero w 1 1 && zero w 13 7) (.accOut (fld w 26 6) (fld w 20 6))
/-- MSK_LD (R333). -/
def rowMskLd (w : Nat) : Option Instr := chk (zero w 1 1 && zero w 13 7) (.mskLd (fld w 26 6) (fld w 20 6))
/-- CPY (R334). -/
def rowCpy (w : Nat) : Option Instr := chk (zero w 1 1 && zero w 13 19) (.cpy)
/-- CPY_WAIT (R335). -/
def rowCpyWait (w : Nat) : Option Instr := chk (zero w 1 1 && zero w 13 7 && zero w 26 6) (.cpyWait (fld w 20 6))
/-- PFK_LD (R336). -/
def rowPfkLd (w : Nat) : Option Instr := chk (zero w 1 1 && zero w 13 7) (.pfkLd (fld w 26 6) (fld w 20 6))
/-- PFK_ARM (R337). -/
def rowPfkArm (w : Nat) : Option Instr := chk (zero w 1 1 && zero w 13 7) (.pfkArm (fld w 26 6) (fld w 20 6))
/-- COLL (R338). -/
def rowColl (w : Nat) : Option Instr := chk (zero w 1 1 && zero w 13 19) (.coll)
/-- EVQ_RD (R340). -/
def rowEvqRd (w : Nat) : Option Instr := chk (zero w 1 1 && zero w 19 13) (.evqRd (fld w 13 6))
/-- EVQ_WAIT (R341). -/
def rowEvqWait (w : Nat) : Option Instr := chk (zero w 1 1 && zero w 19 13) (.evqWait (fld w 13 6))
/-- ENG_FENCE (R342). -/
def rowEngFence (w : Nat) : Option Instr := chk (zero w 1 1 && zero w 13 19) (.engFence)
/-- SPAWN (R343). -/
def rowSpawn (w : Nat) : Option Instr := chk (zero w 1 1 && zero w 19 1 && zero w 26 6) (.spawn (fld w 20 6) (fld w 13 6))
/-- TASK_DEC (R345). -/
def rowTaskDec (w : Nat) : Option Instr := chk (zero w 1 1 && zero w 13 7 && zero w 26 6) (.taskDec (fld w 20 6))
/-- TASK_CTR (R344). -/
def rowTaskCtr (w : Nat) : Option Instr := chk (zero w 1 1 && zero w 13 7 && zero w 26 6) (.taskCtr (fld w 20 6))
/-- RS_OPEN (R356). -/
def rowRsOpen (w : Nat) : Option Instr := chk (zero w 1 1 && zero w 19 1) (.rsOpen (fld w 26 6) (fld w 20 6) (fld w 13 6))
/-- RS_RD (R358). -/
def rowRsRd (w : Nat) : Option Instr := chk (zero w 1 1 && zero w 13 7) (.rsRd (fld w 26 6) (fld w 20 6))
/-- RS_WR (R358). -/
def rowRsWr (w : Nat) : Option Instr := chk (zero w 1 1 && zero w 13 7) (.rsWr (fld w 26 6) (fld w 20 6))
/-- RS_SNAP (R360). -/
def rowRsSnap (w : Nat) : Option Instr := chk (zero w 1 1 && zero w 13 7) (.rsSnap (fld w 26 6) (fld w 20 6))
/-- RS_ROLL (R360). -/
def rowRsRoll (w : Nat) : Option Instr := chk (zero w 1 1 && zero w 13 7) (.rsRoll (fld w 26 6) (fld w 20 6))
/-- RS_FORK (R357). -/
def rowRsFork (w : Nat) : Option Instr := chk (zero w 1 1 && zero w 19 1) (.rsFork (fld w 26 6) (fld w 20 6) (fld w 13 6))
/-- RS_DROP (R361). -/
def rowRsDrop (w : Nat) : Option Instr := chk (zero w 1 1 && zero w 13 7 && zero w 26 6) (.rsDrop (fld w 20 6))
/-- RS_POS (R362). -/
def rowRsPos (w : Nat) : Option Instr := chk (zero w 1 1 && zero w 19 1 && zero w 26 6) (.rsPos (fld w 20 6) (fld w 13 6))
/-- BT_PREP (R450). -/
def rowBtPrep (w : Nat) : Option Instr := chk (zero w 1 1 && zero w 19 1) (.btPrep (fld w 26 6) (fld w 20 6) (fld w 13 6))
/-- BT_COMMIT (R452). -/
def rowBtCommit (w : Nat) : Option Instr := chk (zero w 1 1 && zero w 19 1 && zero w 26 6) (.btCommit (fld w 20 6) (fld w 13 6))
/-- MIGRATE (R454). -/
def rowMigrate (w : Nat) : Option Instr := chk (zero w 1 1 && zero w 19 1 && zero w 26 6) (.migrate (fld w 20 6) (fld w 13 6))
/-- PT_TRUNC (R458). -/
def rowPtTrunc (w : Nat) : Option Instr := chk (zero w 1 1 && zero w 19 1) (.ptTrunc (fld w 26 6) (fld w 20 6) (fld w 13 6))
/-- TRAP (R392). -/
def rowTrap (w : Nat) : Option Instr := chk (zero w 1 1 && zero w 13 7) (.trap (fld w 26 6) (fld w 20 6))
/-- RETT (R368). -/
def rowRett (w : Nat) : Option Instr := chk (zero w 1 1 && zero w 13 19) (.rett)
/-- SR_RD (R394). -/
def rowSrRd (w : Nat) : Option Instr := chk (zero w 1 1 && zero w 19 7) (.srRd (fld w 26 6) (fld w 13 6))
/-- SR_WR (R395). -/
def rowSrWr (w : Nat) : Option Instr := chk (zero w 1 1 && zero w 13 7) (.srWr (fld w 26 6) (fld w 20 6))
/-- CREW_PEEK (R397). -/
def rowCrewPeek (w : Nat) : Option Instr := chk (zero w 1 1 && zero w 19 1 && zero w 26 6) (.crewPeek (fld w 20 6) (fld w 13 6))
/-- CREW_POKE (R398). -/
def rowCrewPoke (w : Nat) : Option Instr := chk (zero w 1 1 && zero w 13 7) (.crewPoke (fld w 26 6) (fld w 20 6))
/-- CREW_RESUME (R399). -/
def rowCrewResume (w : Nat) : Option Instr := chk (zero w 1 1 && zero w 13 7) (.crewResume (fld w 26 6) (fld w 20 6))
/-- CREW_KILL (R400). -/
def rowCrewKill (w : Nat) : Option Instr := chk (zero w 1 1 && zero w 13 7 && zero w 26 6) (.crewKill (fld w 20 6))
/-- TLB_INVAL (R401). -/
def rowTlbInval (w : Nat) : Option Instr := chk (zero w 1 1 && zero w 13 7) (.tlbInval (fld w 26 6) (fld w 20 6))
/-- BRK (R402). -/
def rowBrk (w : Nat) : Option Instr := chk (zero w 1 1 && zero w 13 19) (.brk)
/-- HALT (R409). -/
def rowHalt (w : Nat) : Option Instr := chk (zero w 1 1 && zero w 13 19) (.halt)
/-- ADDI (R107). -/
def rowAddi (w : Nat) : Option Instr := chk true (.addi (fld w 22 10) (fld w 16 6) (bit w 15) (fld w 9 6) (bit w 1))
/-- ANDI (R107). -/
def rowAndi (w : Nat) : Option Instr := chk true (.andi (fld w 22 10) (fld w 16 6) (bit w 15) (fld w 9 6) (bit w 1))
/-- ORI (R107). -/
def rowOri (w : Nat) : Option Instr := chk true (.ori (fld w 22 10) (fld w 16 6) (bit w 15) (fld w 9 6) (bit w 1))
/-- XORI (R107). -/
def rowXori (w : Nat) : Option Instr := chk true (.xori (fld w 22 10) (fld w 16 6) (bit w 15) (fld w 9 6) (bit w 1))
/-- SHLI (R107). -/
def rowShli (w : Nat) : Option Instr := chk (zero w 28 4) (.shli (fld w 22 6) (fld w 16 6) (bit w 15) (fld w 9 6) (bit w 1))
/-- SHRI (R107). -/
def rowShri (w : Nat) : Option Instr := chk (zero w 28 4) (.shri (fld w 22 6) (fld w 16 6) (bit w 15) (fld w 9 6) (bit w 1))
/-- SARI (R107). -/
def rowSari (w : Nat) : Option Instr := chk (zero w 28 4) (.sari (fld w 22 6) (fld w 16 6) (bit w 15) (fld w 9 6) (bit w 1))
/-- SLTI_I (R107). -/
def rowSltiI (w : Nat) : Option Instr := chk true (.sltiI (fld w 22 10) (fld w 16 6) (bit w 15) (fld w 9 6) (bit w 1))
/-- SLTI_N (R107). -/
def rowSltiN (w : Nat) : Option Instr := chk true (.sltiN (fld w 22 10) (fld w 16 6) (bit w 15) (fld w 9 6) (bit w 1))
/-- MULI (R107). -/
def rowMuli (w : Nat) : Option Instr := chk true (.muli (fld w 22 10) (fld w 16 6) (bit w 15) (fld w 9 6) (bit w 1))
/-- LDI (R107). -/
def rowLdi (w : Nat) : Option Instr := chk (zero w 16 6) (.ldi (fld w 22 10) (bit w 15) (fld w 9 6) (bit w 1))
/-- B_EQ (R119). -/
def rowBEq (w : Nat) : Option Instr := chk (zero w 15 1) (.bEq (fld w 22 10) (fld w 16 6) (fld w 9 6) (bit w 1))
/-- B_NE (R119). -/
def rowBNe (w : Nat) : Option Instr := chk (zero w 15 1) (.bNe (fld w 22 10) (fld w 16 6) (fld w 9 6) (bit w 1))
/-- B_LT (R119). -/
def rowBLt (w : Nat) : Option Instr := chk (zero w 15 1) (.bLt (fld w 22 10) (fld w 16 6) (fld w 9 6) (bit w 1))
/-- B_GE (R119). -/
def rowBGe (w : Nat) : Option Instr := chk (zero w 15 1) (.bGe (fld w 22 10) (fld w 16 6) (fld w 9 6) (bit w 1))
/-- B_LTN (R119). -/
def rowBLtn (w : Nat) : Option Instr := chk (zero w 15 1) (.bLtn (fld w 22 10) (fld w 16 6) (fld w 9 6) (bit w 1))
/-- B_GEN (R119). -/
def rowBGen (w : Nat) : Option Instr := chk (zero w 15 1) (.bGen (fld w 22 10) (fld w 16 6) (fld w 9 6) (bit w 1))
/-- CINCI (R110). -/
def rowCinci (w : Nat) : Option Instr := chk true (.cinci (fld w 22 10) (fld w 16 6) (bit w 15) (fld w 9 6) (bit w 1))
/-- SPLIT (R194). -/
def rowSplit (w : Nat) : Option Instr := chk (zero w 1 1 && zero w 9 13) (.split (fld w 22 10))
/-- BAR (R204). -/
def rowBar (w : Nat) : Option Instr := chk (zero w 1 1 && zero w 9 13 && zero w 29 3) (.bar (fld w 25 4) (fld w 22 3))
/-- BAR_ARRIVE (R204). -/
def rowBarArrive (w : Nat) : Option Instr := chk (zero w 1 1 && zero w 9 13 && zero w 29 3) (.barArrive (fld w 25 4) (fld w 22 3))
/-- BAR_WAIT (R204). -/
def rowBarWait (w : Nat) : Option Instr := chk (zero w 1 1 && zero w 9 13 && zero w 29 3) (.barWait (fld w 25 4) (fld w 22 3))
/-- LD_I8 (R114). -/
def rowLdI8 (w : Nat) : Option Instr := chk true (.ldI8 (fld w 21 11) (bit w 20) (fld w 14 6) (fld w 8 6) (bit w 1))
/-- LD_N8 (R114). -/
def rowLdN8 (w : Nat) : Option Instr := chk true (.ldN8 (fld w 21 11) (bit w 20) (fld w 14 6) (fld w 8 6) (bit w 1))
/-- LD_I16 (R114). -/
def rowLdI16 (w : Nat) : Option Instr := chk true (.ldI16 (fld w 21 11) (bit w 20) (fld w 14 6) (fld w 8 6) (bit w 1))
/-- LD_N16 (R114). -/
def rowLdN16 (w : Nat) : Option Instr := chk true (.ldN16 (fld w 21 11) (bit w 20) (fld w 14 6) (fld w 8 6) (bit w 1))
/-- LD_I32 (R114). -/
def rowLdI32 (w : Nat) : Option Instr := chk true (.ldI32 (fld w 21 11) (bit w 20) (fld w 14 6) (fld w 8 6) (bit w 1))
/-- LD_N32 (R114). -/
def rowLdN32 (w : Nat) : Option Instr := chk true (.ldN32 (fld w 21 11) (bit w 20) (fld w 14 6) (fld w 8 6) (bit w 1))
/-- LD_64 (R114). -/
def rowLd64 (w : Nat) : Option Instr := chk true (.ld64 (fld w 21 11) (bit w 20) (fld w 14 6) (fld w 8 6) (bit w 1))
/-- LD_128 (R114). -/
def rowLd128 (w : Nat) : Option Instr := chk true (.ld128 (fld w 21 11) (bit w 20) (fld w 14 6) (fld w 8 6) (bit w 1))
/-- ST_8 (R114). -/
def rowSt8 (w : Nat) : Option Instr := chk true (.st8 (fld w 21 11) (bit w 20) (fld w 14 6) (fld w 8 6) (bit w 1))
/-- ST_16 (R114). -/
def rowSt16 (w : Nat) : Option Instr := chk true (.st16 (fld w 21 11) (bit w 20) (fld w 14 6) (fld w 8 6) (bit w 1))
/-- ST_32 (R114). -/
def rowSt32 (w : Nat) : Option Instr := chk true (.st32 (fld w 21 11) (bit w 20) (fld w 14 6) (fld w 8 6) (bit w 1))
/-- ST_64 (R114). -/
def rowSt64 (w : Nat) : Option Instr := chk true (.st64 (fld w 21 11) (bit w 20) (fld w 14 6) (fld w 8 6) (bit w 1))
/-- ST_128 (R114). -/
def rowSt128 (w : Nat) : Option Instr := chk true (.st128 (fld w 21 11) (bit w 20) (fld w 14 6) (fld w 8 6) (bit w 1))
/-- LD_CAP (R115). -/
def rowLdCap (w : Nat) : Option Instr := chk true (.ldCap (fld w 21 11) (bit w 20) (fld w 14 6) (fld w 8 6) (bit w 1))
/-- ST_CAP (R116). -/
def rowStCap (w : Nat) : Option Instr := chk true (.stCap (fld w 21 11) (bit w 20) (fld w 14 6) (fld w 8 6) (bit w 1))
/-- J (R120). -/
def rowJ (w : Nat) : Option Instr := chk (zero w 1 1) (.j (fld w 7 25))
/-- CALL (R120). -/
def rowCall (w : Nat) : Option Instr := chk (zero w 1 1) (.call (fld w 7 25))
/-- XSET (R93). -/
def rowXset (w : Nat) : Option Instr := chk (zero w 1 1) (.xset (fld w 10 22) (fld w 7 3))
/-- XCAT (R93). -/
def rowXcat (w : Nat) : Option Instr := chk (zero w 1 1) (.xcat (fld w 10 22) (fld w 7 3))
/-- NOP (R101). -/
def rowNop (w : Nat) : Option Instr := chk (zero w 6 10) (.nop)
/-- COMPACT_MOV (R101). -/
def rowCompactMov (w : Nat) : Option Instr := chk true (.compactMov (fld w 11 5) (fld w 6 5))
/-- COMPACT_ADD (R101). -/
def rowCompactAdd (w : Nat) : Option Instr := chk true (.compactAdd (fld w 11 5) (fld w 6 5))
/-- COMPACT_SUB (R101). -/
def rowCompactSub (w : Nat) : Option Instr := chk true (.compactSub (fld w 11 5) (fld w 6 5))
/-- COMPACT_AND (R101). -/
def rowCompactAnd (w : Nat) : Option Instr := chk true (.compactAnd (fld w 11 5) (fld w 6 5))
/-- COMPACT_OR (R101). -/
def rowCompactOr (w : Nat) : Option Instr := chk true (.compactOr (fld w 11 5) (fld w 6 5))
/-- COMPACT_XOR (R101). -/
def rowCompactXor (w : Nat) : Option Instr := chk true (.compactXor (fld w 11 5) (fld w 6 5))
/-- COMPACT_ADDI (R101). -/
def rowCompactAddi (w : Nat) : Option Instr := chk true (.compactAddi (fld w 11 5) (fld w 6 5))
/-- COMPACT_SHLI (R101). -/
def rowCompactShli (w : Nat) : Option Instr := chk true (.compactShli (fld w 11 5) (fld w 6 5))
/-- COMPACT_SHRI (R101). -/
noncomputable def rowCompactShri (w : Nat) : Option Instr := chk true (.compactShri (fld w 11 5) (fld w 6 5))
/-- COMPACT_SARI (R101). -/
noncomputable def rowCompactSari (w : Nat) : Option Instr := chk true (.compactSari (fld w 11 5) (fld w 6 5))
/-- COMPACT_LDI (R101). -/
noncomputable def rowCompactLdi (w : Nat) : Option Instr := chk true (.compactLdi (fld w 11 5) (fld w 6 5))
/-- COMPACT_LD_64 (R101). -/
noncomputable def rowCompactLd64 (w : Nat) : Option Instr := chk true (.compactLd64 (fld w 11 5) (fld w 6 5))
/-- COMPACT_ST_64 (R101). -/
noncomputable def rowCompactSt64 (w : Nat) : Option Instr := chk true (.compactSt64 (fld w 11 5) (fld w 6 5))
/-- COMPACT_LD_I32 (R101). -/
noncomputable def rowCompactLdI32 (w : Nat) : Option Instr := chk true (.compactLdI32 (fld w 11 5) (fld w 6 5))
/-- COMPACT_ST_32 (R101). -/
noncomputable def rowCompactSt32 (w : Nat) : Option Instr := chk true (.compactSt32 (fld w 11 5) (fld w 6 5))
/-- COMPACT_CINCI (R101). -/
noncomputable def rowCompactCinci (w : Nat) : Option Instr := chk true (.compactCinci (fld w 11 5) (fld w 6 5))
/-- B_Z (R101). -/
noncomputable def rowBZ (w : Nat) : Option Instr := chk true (.bZ (fld w 11 5) (fld w 6 5))
/-- B_NZ (R101). -/
noncomputable def rowBNz (w : Nat) : Option Instr := chk true (.bNz (fld w 11 5) (fld w 6 5))
/-- J_S (R101). -/
noncomputable def rowJS (w : Nat) : Option Instr := chk true (.jS (fld w 11 5) (fld w 6 5))
/-- COMPACT_RET (R101). -/
def rowCompactRet (w : Nat) : Option Instr := chk (zero w 6 10) (.compactRet)
/-- COMPACT_SYM_WAIT (R101). -/
noncomputable def rowCompactSymWait (w : Nat) : Option Instr := chk (zero w 11 5) (.compactSymWait (fld w 6 5))
/-- COMPACT_FADD_F32 (R101). -/
noncomputable def rowCompactFaddF32 (w : Nat) : Option Instr := chk true (.compactFaddF32 (fld w 11 5) (fld w 6 5))
/-- COMPACT_FMUL_F32 (R101). -/
noncomputable def rowCompactFmulF32 (w : Nat) : Option Instr := chk true (.compactFmulF32 (fld w 11 5) (fld w 6 5))
/-- COMPACT_JR (R101). -/
noncomputable def rowCompactJr (w : Nat) : Option Instr := chk (zero w 11 5) (.compactJr (fld w 6 5))

/-- The R-format rows by op9 (04 R95, R96). -/
def rRows0 : List Row :=
  [(0x0, rowAdd), (0x1, rowSub), (0x2, rowMul),
   (0x3, rowMulhI), (0x4, rowMulhN), (0x5, rowDivI),
   (0x6, rowDivN), (0x7, rowRemI), (0x8, rowRemN),
   (0x9, rowAnd), (0xA, rowOr), (0xB, rowXor),
   (0xC, rowAndn), (0xD, rowShl), (0xE, rowShr),
   (0xF, rowSar), (0x10, rowRol), (0x11, rowRor),
   (0x12, rowClz), (0x13, rowCtz), (0x14, rowPopc),
   (0x15, rowMinI), (0x16, rowMaxI), (0x17, rowMinN),
   (0x18, rowMaxN), (0x19, rowSeq), (0x1A, rowSne),
   (0x1B, rowSltI), (0x1C, rowSltN), (0x1D, rowSel),
   (0x1E, rowSext), (0x1F, rowZext), (0x20, rowBfx),
   (0x21, rowBfi), (0x22, rowMov), (0x23, rowRng),
   (0x40, rowCbase), (0x41, rowCtop), (0x42, rowClen),
   (0x43, rowCperm)]

/-- The R-format rows by op9 (04 R95, R96). -/
def rRows1 : List Row :=
  [(0x44, rowCwalk), (0x45, rowCtag), (0x46, rowCbound),
   (0x47, rowCand), (0x48, rowCwset), (0x49, rowCset),
   (0x4A, rowCinc), (0x4B, rowCdiff), (0x4C, rowCclr),
   (0x4D, rowCwithin), (0x4E, rowCcoord), (0x60, rowJr),
   (0x61, rowCallr), (0x62, rowRet), (0x63, rowSymWait),
   (0x64, rowSymTest), (0x65, rowXput), (0x66, rowXget),
   (0x80, rowFadd), (0x81, rowFadd), (0x82, rowFadd),
   (0x83, rowFadd), (0x84, rowFsub), (0x85, rowFsub),
   (0x86, rowFsub), (0x87, rowFsub), (0x88, rowFmul),
   (0x89, rowFmul), (0x8A, rowFmul), (0x8B, rowFmul),
   (0x8C, rowFma), (0x8D, rowFma), (0x8E, rowFma),
   (0x8F, rowFma), (0x90, rowFms), (0x91, rowFms),
   (0x92, rowFms), (0x93, rowFms), (0x94, rowFnma),
   (0x95, rowFnma)]

/-- The R-format rows by op9 (04 R95, R96). -/
def rRows2 : List Row :=
  [(0x96, rowFnma), (0x97, rowFnma), (0x98, rowFdiv),
   (0x99, rowFdiv), (0x9A, rowFdiv), (0x9B, rowFdiv),
   (0x9C, rowFsqrt), (0x9D, rowFsqrt), (0x9E, rowFsqrt),
   (0x9F, rowFsqrt), (0xA1, rowFexp2), (0xA5, rowFlog2),
   (0xA8, rowFmin), (0xA9, rowFmin), (0xAA, rowFmin),
   (0xAB, rowFmin), (0xAC, rowFmax), (0xAD, rowFmax),
   (0xAE, rowFmax), (0xAF, rowFmax), (0xB0, rowFabs),
   (0xB1, rowFabs), (0xB2, rowFabs), (0xB3, rowFabs),
   (0xB4, rowFneg), (0xB5, rowFneg), (0xB6, rowFneg),
   (0xB7, rowFneg), (0xB8, rowFsgn), (0xB9, rowFsgn),
   (0xBA, rowFsgn), (0xBB, rowFsgn), (0xBC, rowFceq),
   (0xBD, rowFceq), (0xBE, rowFceq), (0xBF, rowFceq),
   (0xC0, rowFclt), (0xC1, rowFclt), (0xC2, rowFclt),
   (0xC3, rowFclt)]

/-- The R-format rows by op9 (04 R95, R96). -/
def rRows3 : List Row :=
  [(0xC4, rowFcle), (0xC5, rowFcle), (0xC6, rowFcle),
   (0xC7, rowFcle), (0xC8, rowFcun), (0xC9, rowFcun),
   (0xCA, rowFcun), (0xCB, rowFcun), (0xCC, rowFclass),
   (0xCD, rowFclass), (0xCE, rowFclass), (0xCF, rowFclass),
   (0xD0, rowFround), (0xD1, rowFround), (0xD2, rowFround),
   (0xD3, rowFround), (0xD4, rowFcvtFf), (0xD5, rowFcvtFf),
   (0xD6, rowFcvtFf), (0xD7, rowFcvtFf), (0xD8, rowFcvtFi),
   (0xD9, rowFcvtFi), (0xDA, rowFcvtFi), (0xDB, rowFcvtFi),
   (0xDC, rowFcvtIf), (0xDD, rowFcvtIf), (0xDE, rowFcvtIf),
   (0xDF, rowFcvtIf), (0xE0, rowFmtSet), (0xE1, rowFmtGet),
   (0xE2, rowQmax), (0xE3, rowQscale), (0xE4, rowQuant),
   (0xE5, rowDequant), (0xE6, rowSalient), (0x100, rowLaneId),
   (0x101, rowLaneGet), (0x102, rowLaneRise), (0x103, rowLaneFall),
   (0x104, rowLaneFlip)]

/-- The R-format rows by op9 (04 R95, R96). -/
def rRows4 : List Row :=
  [(0x105, rowLaneAny), (0x106, rowLaneAll), (0x107, rowLaneBits),
   (0x108, rowRedAddI), (0x109, rowRedAddF32), (0x10A, rowRedMaxF32),
   (0x10B, rowRedMinF32), (0x10C, rowScanAddI), (0x10D, rowIntersect),
   (0x10F, rowJoin), (0x110, rowRegang), (0x111, rowMAnd),
   (0x112, rowMOr), (0x113, rowMNot), (0x114, rowMMov),
   (0x115, rowGcall), (0x116, rowGret), (0x117, rowGflush),
   (0x140, rowSemP), (0x141, rowSemV), (0x142, rowSregRd),
   (0x143, rowSregWr), (0x144, rowBarMax), (0x145, rowRingArrive),
   (0x146, rowRingWait), (0x147, rowStep), (0x148, rowWait),
   (0x160, rowLdFe), (0x161, rowLdFf), (0x162, rowStEf),
   (0x163, rowStFf), (0x164, rowFeSet), (0x168, rowAmoAdd),
   (0x169, rowAmoAdd), (0x16A, rowAmoMinI), (0x16B, rowAmoMinI),
   (0x16C, rowAmoMaxI), (0x16D, rowAmoMaxI), (0x16E, rowAmoMinN),
   (0x16F, rowAmoMinN)]

/-- The R-format rows by op9 (04 R95, R96). -/
def rRows5 : List Row :=
  [(0x170, rowAmoMaxN), (0x171, rowAmoMaxN), (0x172, rowAmoAnd),
   (0x173, rowAmoAnd), (0x174, rowAmoOr), (0x175, rowAmoOr),
   (0x176, rowAmoXor), (0x177, rowAmoXor), (0x178, rowAmoSwap),
   (0x179, rowAmoSwap), (0x17A, rowAmoCas), (0x17B, rowAmoCas),
   (0x17C, rowAmoFaddF32), (0x17D, rowAmoFaddBf16), (0x180, rowBankAddF32),
   (0x181, rowBankAddBf16), (0x182, rowBankMaxF32), (0x183, rowBankAxpyF32),
   (0x184, rowBankSumF32), (0x188, rowFence), (0x189, rowLdSc),
   (0x18A, rowStSc), (0x190, rowAgBind), (0x191, rowAgUnbind),
   (0x192, rowAgPos), (0x193, rowAgDrain), (0x198, rowSend),
   (0x199, rowSendR), (0x19A, rowRecv), (0x19B, rowPoll),
   (0x19C, rowCcClean), (0x19D, rowCcInval), (0x19E, rowCcZero),
   (0x19F, rowPf), (0x1A0, rowMma), (0x1A1, rowMmaPair),
   (0x1A2, rowMmaPack), (0x1A3, rowMmaWait), (0x1A4, rowAccZero),
   (0x1A5, rowAccLd)]

/-- The R-format rows by op9 (04 R95, R96). -/
def rRows6 : List Row :=
  [(0x1A6, rowAccSt), (0x1A7, rowAccOut), (0x1A8, rowMskLd),
   (0x1B0, rowCpy), (0x1B1, rowCpyWait), (0x1B2, rowPfkLd),
   (0x1B3, rowPfkArm), (0x1B4, rowColl), (0x1B8, rowEvqRd),
   (0x1B9, rowEvqWait), (0x1BA, rowEngFence), (0x1C0, rowSpawn),
   (0x1C1, rowTaskDec), (0x1C2, rowTaskCtr), (0x1E0, rowRsOpen),
   (0x1E1, rowRsRd), (0x1E2, rowRsWr), (0x1E3, rowRsSnap),
   (0x1E4, rowRsRoll), (0x1E5, rowRsFork), (0x1E6, rowRsDrop),
   (0x1E7, rowRsPos), (0x1E8, rowBtPrep), (0x1E9, rowBtCommit),
   (0x1EA, rowMigrate), (0x1EB, rowPtTrunc), (0x1F0, rowTrap),
   (0x1F1, rowRett), (0x1F2, rowSrRd), (0x1F3, rowSrWr),
   (0x1F4, rowCrewPeek), (0x1F5, rowCrewPoke), (0x1F6, rowCrewResume),
   (0x1F7, rowCrewKill), (0x1F8, rowTlbInval), (0x1F9, rowBrk),
   (0x1FA, rowHalt)]

/-- The R-format rows by op9 (04 R95, R96). -/
def rRows : List Row := rRows0 ++ rRows1 ++ rRows2 ++ rRows3 ++ rRows4 ++ rRows5 ++ rRows6

/-- The I-format rows by op5 (04 R98). -/
def iRows : List Row :=
  [(0x0, rowAddi), (0x1, rowAndi), (0x2, rowOri),
   (0x3, rowXori), (0x4, rowShli), (0x5, rowShri),
   (0x6, rowSari), (0x7, rowSltiI), (0x8, rowSltiN),
   (0x9, rowMuli), (0xA, rowLdi), (0xB, rowBEq),
   (0xC, rowBNe), (0xD, rowBLt), (0xE, rowBGe),
   (0xF, rowBLtn), (0x10, rowBGen), (0x11, rowCinci),
   (0x12, rowSplit), (0x13, rowBar), (0x14, rowBarArrive),
   (0x15, rowBarWait)]

/-- The M-format rows by op4 (04 R99). -/
def mRows : List Row :=
  [(0x0, rowLdI8), (0x1, rowLdN8), (0x2, rowLdI16),
   (0x3, rowLdN16), (0x4, rowLdI32), (0x5, rowLdN32),
   (0x6, rowLd64), (0x7, rowLd128), (0x8, rowSt8),
   (0x9, rowSt16), (0xA, rowSt32), (0xB, rowSt64),
   (0xC, rowSt128), (0xD, rowLdCap), (0xE, rowStCap)]

/-- The J-format rows by op3 (04 R100). -/
def jRows : List Row :=
  [(0x0, rowJ), (0x1, rowCall), (0x2, rowXset),
   (0x3, rowXcat)]

/-- The compact rows by op5 (04 R101). -/
noncomputable def cRows : List Row :=
  [(0x0, rowNop), (0x1, rowCompactMov), (0x2, rowCompactAdd),
   (0x3, rowCompactSub), (0x4, rowCompactAnd), (0x5, rowCompactOr),
   (0x6, rowCompactXor), (0x7, rowCompactAddi), (0x8, rowCompactShli),
   (0x9, rowCompactShri), (0xA, rowCompactSari), (0xB, rowCompactLdi),
   (0xC, rowCompactLd64), (0xD, rowCompactSt64), (0xE, rowCompactLdI32),
   (0xF, rowCompactSt32), (0x10, rowCompactCinci), (0x11, rowBZ),
   (0x12, rowBNz), (0x13, rowJS), (0x14, rowCompactRet),
   (0x15, rowCompactSymWait), (0x16, rowCompactFaddF32), (0x17, rowCompactFmulF32),
   (0x18, rowCompactJr)]

/-- The instruction of a 32-bit word (04 R80): bits [3:2] give the format. -/
def decode32 (w : Nat) : Option Instr :=
  let row := match w / 4 % 4 with
    | 0 => findRow (w / 16 % 512) rRows
    | 1 => findRow (w / 16 % 32) iRows
    | 2 => findRow (w / 16 % 16) mRows
    | _ => findRow (w / 16 % 8) jRows
  (row.bind fun f => f w).filter Instr.wf

/-- The instruction of a 16-bit word (04 R101). -/
noncomputable def decode16 (w : Nat) : Option Instr :=
  ((findRow (w / 2 % 32) cRows).bind fun f => f w).filter Instr.wf

/-- The length in bytes that bit 0 of the first halfword gives (04 R79). -/
def lengthOf (h : Nat) : Nat := if h % 2 = 1 then 4 else 2

/-- The instruction at the head of a byte stream and the bytes after it, or why there is none.
Halfwords are little-endian (04 R79). -/
noncomputable def decode : List Byte → Except DecodeError (Instr × List Byte)
  | b0 :: b1 :: rest =>
    let h := b0.toNat + 256 * b1.toNat
    if h % 2 = 1 then
      match rest with
      | b2 :: b3 :: rest' =>
        let w := h + 65536 * b2.toNat + 16777216 * b3.toNat
        match decode32 w with
        | some i => .ok (i, rest')
        | none => .error (.reserved w 4)
      | _ => .error .short
    else
      match decode16 h with
      | some i => .ok (i, rest)
      | none => .error (.reserved h 2)
  | _ => .error .short

/-- The first `n` bytes of a natural number, least significant first. -/
def natBytes : Nat → Nat → List Byte
  | 0, _ => []
  | n + 1, w => BitVec.ofNat 8 w :: natBytes n (w / 256)

/-- The host's probe: the instruction this decoder reads from a word numbered as the opcode table
numbers it. -/
noncomputable def decodeTableWord (nbits w : Nat) : Option Instr :=
  match decode (natBytes (nbits / 8) w) with
  | .ok (i, _) => some i
  | .error _ => none

/-- The word of an instruction, from the same tables (04 R80 to R101). An event has none. -/
def Instr.word : Instr → Nat
  | .add b a n d u => 1 + 67108864 * b.toNat + 1048576 * a.toNat + 524288 * n.toNat + 8192 * d.toNat + 2 * u.toNat
  | .sub b a n d u => 17 + 67108864 * b.toNat + 1048576 * a.toNat + 524288 * n.toNat + 8192 * d.toNat + 2 * u.toNat
  | .mul b a n d u => 33 + 67108864 * b.toNat + 1048576 * a.toNat + 524288 * n.toNat + 8192 * d.toNat + 2 * u.toNat
  | .mulhI b a n d u => 49 + 67108864 * b.toNat + 1048576 * a.toNat + 524288 * n.toNat + 8192 * d.toNat + 2 * u.toNat
  | .mulhN b a n d u => 65 + 67108864 * b.toNat + 1048576 * a.toNat + 524288 * n.toNat + 8192 * d.toNat + 2 * u.toNat
  | .divI b a d u => 81 + 67108864 * b.toNat + 1048576 * a.toNat + 8192 * d.toNat + 2 * u.toNat
  | .divN b a d u => 97 + 67108864 * b.toNat + 1048576 * a.toNat + 8192 * d.toNat + 2 * u.toNat
  | .remI b a d u => 113 + 67108864 * b.toNat + 1048576 * a.toNat + 8192 * d.toNat + 2 * u.toNat
  | .remN b a d u => 129 + 67108864 * b.toNat + 1048576 * a.toNat + 8192 * d.toNat + 2 * u.toNat
  | .and b a n d u => 145 + 67108864 * b.toNat + 1048576 * a.toNat + 524288 * n.toNat + 8192 * d.toNat + 2 * u.toNat
  | .or b a n d u => 161 + 67108864 * b.toNat + 1048576 * a.toNat + 524288 * n.toNat + 8192 * d.toNat + 2 * u.toNat
  | .xor b a n d u => 177 + 67108864 * b.toNat + 1048576 * a.toNat + 524288 * n.toNat + 8192 * d.toNat + 2 * u.toNat
  | .andn b a n d u => 193 + 67108864 * b.toNat + 1048576 * a.toNat + 524288 * n.toNat + 8192 * d.toNat + 2 * u.toNat
  | .shl b a n d u => 209 + 67108864 * b.toNat + 1048576 * a.toNat + 524288 * n.toNat + 8192 * d.toNat + 2 * u.toNat
  | .shr b a n d u => 225 + 67108864 * b.toNat + 1048576 * a.toNat + 524288 * n.toNat + 8192 * d.toNat + 2 * u.toNat
  | .sar b a n d u => 241 + 67108864 * b.toNat + 1048576 * a.toNat + 524288 * n.toNat + 8192 * d.toNat + 2 * u.toNat
  | .rol b a n d u => 257 + 67108864 * b.toNat + 1048576 * a.toNat + 524288 * n.toNat + 8192 * d.toNat + 2 * u.toNat
  | .ror b a n d u => 273 + 67108864 * b.toNat + 1048576 * a.toNat + 524288 * n.toNat + 8192 * d.toNat + 2 * u.toNat
  | .clz a n d u => 289 + 1048576 * a.toNat + 524288 * n.toNat + 8192 * d.toNat + 2 * u.toNat
  | .ctz a n d u => 305 + 1048576 * a.toNat + 524288 * n.toNat + 8192 * d.toNat + 2 * u.toNat
  | .popc a n d u => 321 + 1048576 * a.toNat + 524288 * n.toNat + 8192 * d.toNat + 2 * u.toNat
  | .minI b a n d u => 337 + 67108864 * b.toNat + 1048576 * a.toNat + 524288 * n.toNat + 8192 * d.toNat + 2 * u.toNat
  | .maxI b a n d u => 353 + 67108864 * b.toNat + 1048576 * a.toNat + 524288 * n.toNat + 8192 * d.toNat + 2 * u.toNat
  | .minN b a n d u => 369 + 67108864 * b.toNat + 1048576 * a.toNat + 524288 * n.toNat + 8192 * d.toNat + 2 * u.toNat
  | .maxN b a n d u => 385 + 67108864 * b.toNat + 1048576 * a.toNat + 524288 * n.toNat + 8192 * d.toNat + 2 * u.toNat
  | .seq b a n d u => 401 + 67108864 * b.toNat + 1048576 * a.toNat + 524288 * n.toNat + 8192 * d.toNat + 2 * u.toNat
  | .sne b a n d u => 417 + 67108864 * b.toNat + 1048576 * a.toNat + 524288 * n.toNat + 8192 * d.toNat + 2 * u.toNat
  | .sltI b a n d u => 433 + 67108864 * b.toNat + 1048576 * a.toNat + 524288 * n.toNat + 8192 * d.toNat + 2 * u.toNat
  | .sltN b a n d u => 449 + 67108864 * b.toNat + 1048576 * a.toNat + 524288 * n.toNat + 8192 * d.toNat + 2 * u.toNat
  | .sel b a n d u => 465 + 67108864 * b.toNat + 1048576 * a.toNat + 524288 * n.toNat + 8192 * d.toNat + 2 * u.toNat
  | .sext w a n d u => 481 + 67108864 * w.toNat + 1048576 * a.toNat + 524288 * n.toNat + 8192 * d.toNat + 2 * u.toNat
  | .zext w a n d u => 497 + 67108864 * w.toNat + 1048576 * a.toNat + 524288 * n.toNat + 8192 * d.toNat + 2 * u.toNat
  | .bfx b a n d u => 513 + 67108864 * b.toNat + 1048576 * a.toNat + 524288 * n.toNat + 8192 * d.toNat + 2 * u.toNat
  | .bfi b a n d u => 529 + 67108864 * b.toNat + 1048576 * a.toNat + 524288 * n.toNat + 8192 * d.toNat + 2 * u.toNat
  | .mov a n d u => 545 + 1048576 * a.toNat + 524288 * n.toNat + 8192 * d.toNat + 2 * u.toNat
  | .rng b a n d u => 561 + 67108864 * b.toNat + 1048576 * a.toNat + 524288 * n.toNat + 8192 * d.toNat + 2 * u.toNat
  | .cbase a n d u => 1025 + 1048576 * a.toNat + 524288 * n.toNat + 8192 * d.toNat + 2 * u.toNat
  | .ctop a n d u => 1041 + 1048576 * a.toNat + 524288 * n.toNat + 8192 * d.toNat + 2 * u.toNat
  | .clen a n d u => 1057 + 1048576 * a.toNat + 524288 * n.toNat + 8192 * d.toNat + 2 * u.toNat
  | .cperm a n d u => 1073 + 1048576 * a.toNat + 524288 * n.toNat + 8192 * d.toNat + 2 * u.toNat
  | .cwalk a n d u => 1089 + 1048576 * a.toNat + 524288 * n.toNat + 8192 * d.toNat + 2 * u.toNat
  | .ctag a n d u => 1105 + 1048576 * a.toNat + 524288 * n.toNat + 8192 * d.toNat + 2 * u.toNat
  | .cbound b a n d u => 1121 + 67108864 * b.toNat + 1048576 * a.toNat + 524288 * n.toNat + 8192 * d.toNat + 2 * u.toNat
  | .cand b a n d u => 1137 + 67108864 * b.toNat + 1048576 * a.toNat + 524288 * n.toNat + 8192 * d.toNat + 2 * u.toNat
  | .cwset b a n d u => 1153 + 67108864 * b.toNat + 1048576 * a.toNat + 524288 * n.toNat + 8192 * d.toNat + 2 * u.toNat
  | .cset b a n d u => 1169 + 67108864 * b.toNat + 1048576 * a.toNat + 524288 * n.toNat + 8192 * d.toNat + 2 * u.toNat
  | .cinc b a n d u => 1185 + 67108864 * b.toNat + 1048576 * a.toNat + 524288 * n.toNat + 8192 * d.toNat + 2 * u.toNat
  | .cdiff b a n d u => 1201 + 67108864 * b.toNat + 1048576 * a.toNat + 524288 * n.toNat + 8192 * d.toNat + 2 * u.toNat
  | .cclr a n d u => 1217 + 1048576 * a.toNat + 524288 * n.toNat + 8192 * d.toNat + 2 * u.toNat
  | .cwithin b a n d u => 1233 + 67108864 * b.toNat + 1048576 * a.toNat + 524288 * n.toNat + 8192 * d.toNat + 2 * u.toNat
  | .ccoord a n d u => 1249 + 1048576 * a.toNat + 524288 * n.toNat + 8192 * d.toNat + 2 * u.toNat
  | .jr a u => 1537 + 1048576 * a.toNat + 2 * u.toNat
  | .callr a u => 1553 + 1048576 * a.toNat + 2 * u.toNat
  | .ret a u => 1569 + 1048576 * a.toNat + 2 * u.toNat
  | .symWait a u => 1585 + 1048576 * a.toNat + 2 * u.toNat
  | .symTest a d u => 1601 + 1048576 * a.toNat + 8192 * d.toNat + 2 * u.toNat
  | .xput a xi => 1617 + 1048576 * a.toNat + 8192 * xi.toNat
  | .xget xi d => 1633 + 1048576 * xi.toNat + 8192 * d.toNat
  | .fadd b a n d t u => 2049 + 67108864 * b.toNat + 1048576 * a.toNat + 524288 * n.toNat + 8192 * d.toNat + 16 * t.toNat + 2 * u.toNat
  | .fsub b a n d t u => 2113 + 67108864 * b.toNat + 1048576 * a.toNat + 524288 * n.toNat + 8192 * d.toNat + 16 * t.toNat + 2 * u.toNat
  | .fmul b a n d t u => 2177 + 67108864 * b.toNat + 1048576 * a.toNat + 524288 * n.toNat + 8192 * d.toNat + 16 * t.toNat + 2 * u.toNat
  | .fma b a n d t u => 2241 + 67108864 * b.toNat + 1048576 * a.toNat + 524288 * n.toNat + 8192 * d.toNat + 16 * t.toNat + 2 * u.toNat
  | .fms b a n d t u => 2305 + 67108864 * b.toNat + 1048576 * a.toNat + 524288 * n.toNat + 8192 * d.toNat + 16 * t.toNat + 2 * u.toNat
  | .fnma b a n d t u => 2369 + 67108864 * b.toNat + 1048576 * a.toNat + 524288 * n.toNat + 8192 * d.toNat + 16 * t.toNat + 2 * u.toNat
  | .fdiv b a d t u => 2433 + 67108864 * b.toNat + 1048576 * a.toNat + 8192 * d.toNat + 16 * t.toNat + 2 * u.toNat
  | .fsqrt a d t u => 2497 + 1048576 * a.toNat + 8192 * d.toNat + 16 * t.toNat + 2 * u.toNat
  | .fexp2 a d u => 2577 + 1048576 * a.toNat + 8192 * d.toNat + 2 * u.toNat
  | .flog2 a d u => 2641 + 1048576 * a.toNat + 8192 * d.toNat + 2 * u.toNat
  | .fmin b a n d t u => 2689 + 67108864 * b.toNat + 1048576 * a.toNat + 524288 * n.toNat + 8192 * d.toNat + 16 * t.toNat + 2 * u.toNat
  | .fmax b a n d t u => 2753 + 67108864 * b.toNat + 1048576 * a.toNat + 524288 * n.toNat + 8192 * d.toNat + 16 * t.toNat + 2 * u.toNat
  | .fabs a n d t u => 2817 + 1048576 * a.toNat + 524288 * n.toNat + 8192 * d.toNat + 16 * t.toNat + 2 * u.toNat
  | .fneg a n d t u => 2881 + 1048576 * a.toNat + 524288 * n.toNat + 8192 * d.toNat + 16 * t.toNat + 2 * u.toNat
  | .fsgn b a n d t u => 2945 + 67108864 * b.toNat + 1048576 * a.toNat + 524288 * n.toNat + 8192 * d.toNat + 16 * t.toNat + 2 * u.toNat
  | .fceq b a n d t u => 3009 + 67108864 * b.toNat + 1048576 * a.toNat + 524288 * n.toNat + 8192 * d.toNat + 16 * t.toNat + 2 * u.toNat
  | .fclt b a n d t u => 3073 + 67108864 * b.toNat + 1048576 * a.toNat + 524288 * n.toNat + 8192 * d.toNat + 16 * t.toNat + 2 * u.toNat
  | .fcle b a n d t u => 3137 + 67108864 * b.toNat + 1048576 * a.toNat + 524288 * n.toNat + 8192 * d.toNat + 16 * t.toNat + 2 * u.toNat
  | .fcun b a n d t u => 3201 + 67108864 * b.toNat + 1048576 * a.toNat + 524288 * n.toNat + 8192 * d.toNat + 16 * t.toNat + 2 * u.toNat
  | .fclass a n d t u => 3265 + 1048576 * a.toNat + 524288 * n.toNat + 8192 * d.toNat + 16 * t.toNat + 2 * u.toNat
  | .fround a n d t u => 3329 + 1048576 * a.toNat + 524288 * n.toNat + 8192 * d.toNat + 16 * t.toNat + 2 * u.toNat
  | .fcvtFf sc a n d t u => 3393 + 67108864 * sc.toNat + 1048576 * a.toNat + 524288 * n.toNat + 8192 * d.toNat + 16 * t.toNat + 2 * u.toNat
  | .fcvtFi rr imm a n d t u => 3457 + 536870912 * rr.toNat + 67108864 * imm.toNat + 1048576 * a.toNat + 524288 * n.toNat + 8192 * d.toNat + 16 * t.toNat + 2 * u.toNat
  | .fcvtIf imm a n d t u => 3521 + 67108864 * imm.toNat + 1048576 * a.toNat + 524288 * n.toNat + 8192 * d.toNat + 16 * t.toNat + 2 * u.toNat
  | .fmtSet a => 3585 + 1048576 * a.toNat
  | .fmtGet d u => 3601 + 8192 * d.toNat + 2 * u.toNat
  | .qmax b a d u => 3617 + 67108864 * b.toNat + 1048576 * a.toNat + 8192 * d.toNat + 2 * u.toNat
  | .qscale a d u => 3633 + 1048576 * a.toNat + 8192 * d.toNat + 2 * u.toNat
  | .quant b a d u => 3649 + 67108864 * b.toNat + 1048576 * a.toNat + 8192 * d.toNat + 2 * u.toNat
  | .dequant b a d u => 3665 + 67108864 * b.toNat + 1048576 * a.toNat + 8192 * d.toNat + 2 * u.toNat
  | .salient b a d u => 3681 + 67108864 * b.toNat + 1048576 * a.toNat + 8192 * d.toNat + 2 * u.toNat
  | .laneId d => 4097 + 8192 * d.toNat
  | .laneGet b a d => 4113 + 67108864 * b.toNat + 1048576 * a.toNat + 8192 * d.toNat
  | .laneRise b a d => 4129 + 67108864 * b.toNat + 1048576 * a.toNat + 8192 * d.toNat
  | .laneFall b a d => 4145 + 67108864 * b.toNat + 1048576 * a.toNat + 8192 * d.toNat
  | .laneFlip b a d => 4161 + 67108864 * b.toNat + 1048576 * a.toNat + 8192 * d.toNat
  | .laneAny a d => 4177 + 1048576 * a.toNat + 8192 * d.toNat
  | .laneAll a d => 4193 + 1048576 * a.toNat + 8192 * d.toNat
  | .laneBits a d => 4209 + 1048576 * a.toNat + 8192 * d.toNat
  | .redAddI a d => 4225 + 1048576 * a.toNat + 8192 * d.toNat
  | .redAddF32 a d => 4241 + 1048576 * a.toNat + 8192 * d.toNat
  | .redMaxF32 a d => 4257 + 1048576 * a.toNat + 8192 * d.toNat
  | .redMinF32 a d => 4273 + 1048576 * a.toNat + 8192 * d.toNat
  | .scanAddI a d => 4289 + 1048576 * a.toNat + 8192 * d.toNat
  | .intersect b a d => 4305 + 67108864 * b.toNat + 1048576 * a.toNat + 8192 * d.toNat
  | .join => 4337
  | .regang => 4353
  | .mAnd b a d => 4369 + 67108864 * b.toNat + 1048576 * a.toNat + 8192 * d.toNat
  | .mOr b a d => 4385 + 67108864 * b.toNat + 1048576 * a.toNat + 8192 * d.toNat
  | .mNot a d => 4401 + 1048576 * a.toNat + 8192 * d.toNat
  | .mMov a d => 4417 + 1048576 * a.toNat + 8192 * d.toNat
  | .mMovFromK a d => 67113281 + 1048576 * a.toNat + 8192 * d.toNat
  | .mMovToK a d => 134222145 + 1048576 * a.toNat + 8192 * d.toNat
  | .mMovActive d => 201331009 + 8192 * d.toNat
  | .gcall b a => 4433 + 67108864 * b.toNat + 1048576 * a.toNat
  | .gret a => 4449 + 1048576 * a.toNat
  | .gflush a => 4465 + 1048576 * a.toNat
  | .semP sc => 5121 + 1048576 * sc.toNat
  | .semV sc => 5137 + 1048576 * sc.toNat
  | .sregRd sc d => 5153 + 1048576 * sc.toNat + 8192 * d.toNat
  | .sregWr sc a => 5169 + 67108864 * sc.toNat + 1048576 * a.toNat
  | .barMax b a d => 5185 + 67108864 * b.toNat + 1048576 * a.toNat + 8192 * d.toNat
  | .ringArrive rr sc => 5201 + 8388608 * rr.toNat + 1048576 * sc.toNat
  | .ringWait p rr sc => 5217 + 33554432 * p.toNat + 8388608 * rr.toNat + 1048576 * sc.toNat
  | .step => 5233
  | .wait b a d => 5249 + 67108864 * b.toNat + 1048576 * a.toNat + 8192 * d.toNat
  | .ldFe a d u => 5633 + 1048576 * a.toNat + 8192 * d.toNat + 2 * u.toNat
  | .ldFf a d u => 5649 + 1048576 * a.toNat + 8192 * d.toNat + 2 * u.toNat
  | .stEf b a u => 5665 + 67108864 * b.toNat + 1048576 * a.toNat + 2 * u.toNat
  | .stFf b a u => 5681 + 67108864 * b.toNat + 1048576 * a.toNat + 2 * u.toNat
  | .feSet sc a u => 5697 + 67108864 * sc.toNat + 1048576 * a.toNat + 2 * u.toNat
  | .amoAdd b a d w u => 5761 + 67108864 * b.toNat + 1048576 * a.toNat + 8192 * d.toNat + 16 * w.toNat + 2 * u.toNat
  | .amoMinI b a d w u => 5793 + 67108864 * b.toNat + 1048576 * a.toNat + 8192 * d.toNat + 16 * w.toNat + 2 * u.toNat
  | .amoMaxI b a d w u => 5825 + 67108864 * b.toNat + 1048576 * a.toNat + 8192 * d.toNat + 16 * w.toNat + 2 * u.toNat
  | .amoMinN b a d w u => 5857 + 67108864 * b.toNat + 1048576 * a.toNat + 8192 * d.toNat + 16 * w.toNat + 2 * u.toNat
  | .amoMaxN b a d w u => 5889 + 67108864 * b.toNat + 1048576 * a.toNat + 8192 * d.toNat + 16 * w.toNat + 2 * u.toNat
  | .amoAnd b a d w u => 5921 + 67108864 * b.toNat + 1048576 * a.toNat + 8192 * d.toNat + 16 * w.toNat + 2 * u.toNat
  | .amoOr b a d w u => 5953 + 67108864 * b.toNat + 1048576 * a.toNat + 8192 * d.toNat + 16 * w.toNat + 2 * u.toNat
  | .amoXor b a d w u => 5985 + 67108864 * b.toNat + 1048576 * a.toNat + 8192 * d.toNat + 16 * w.toNat + 2 * u.toNat
  | .amoSwap b a d w u => 6017 + 67108864 * b.toNat + 1048576 * a.toNat + 8192 * d.toNat + 16 * w.toNat + 2 * u.toNat
  | .amoCas b a d w u => 6049 + 67108864 * b.toNat + 1048576 * a.toNat + 8192 * d.toNat + 16 * w.toNat + 2 * u.toNat
  | .amoFaddF32 b a d u => 6081 + 67108864 * b.toNat + 1048576 * a.toNat + 8192 * d.toNat + 2 * u.toNat
  | .amoFaddBf16 b a d u => 6097 + 67108864 * b.toNat + 1048576 * a.toNat + 8192 * d.toNat + 2 * u.toNat
  | .bankAddF32 b a => 6145 + 67108864 * b.toNat + 1048576 * a.toNat
  | .bankAddBf16 b a => 6161 + 67108864 * b.toNat + 1048576 * a.toNat
  | .bankMaxF32 b a => 6177 + 67108864 * b.toNat + 1048576 * a.toNat
  | .bankAxpyF32 b a => 6193 + 67108864 * b.toNat + 1048576 * a.toNat
  | .bankSumF32 a d => 6209 + 1048576 * a.toNat + 8192 * d.toNat
  | .fence sc => 6273 + 1048576 * sc.toNat
  | .ldSc a d u => 6289 + 1048576 * a.toNat + 8192 * d.toNat + 2 * u.toNat
  | .stSc b a u => 6305 + 67108864 * b.toNat + 1048576 * a.toNat + 2 * u.toNat
  | .agBind b kk => 6401 + 67108864 * b.toNat + 1048576 * kk.toNat
  | .agUnbind kk => 6417 + 1048576 * kk.toNat
  | .agPos kk d => 6433 + 1048576 * kk.toNat + 8192 * d.toNat
  | .agDrain kk => 6449 + 1048576 * kk.toNat
  | .send b a u => 6529 + 67108864 * b.toNat + 1048576 * a.toNat + 2 * u.toNat
  | .sendR b a u => 6545 + 67108864 * b.toNat + 1048576 * a.toNat + 2 * u.toNat
  | .recv a d u => 6561 + 1048576 * a.toNat + 8192 * d.toNat + 2 * u.toNat
  | .poll a d u => 6577 + 1048576 * a.toNat + 8192 * d.toNat + 2 * u.toNat
  | .ccClean a u => 6593 + 1048576 * a.toNat + 2 * u.toNat
  | .ccInval a u => 6609 + 1048576 * a.toNat + 2 * u.toNat
  | .ccZero a u => 6625 + 1048576 * a.toNat + 2 * u.toNat
  | .pf a u => 6641 + 1048576 * a.toNat + 2 * u.toNat
  | .mma t => 6657 + 1048576 * t.toNat
  | .mmaPair t => 6673 + 1048576 * t.toNat
  | .mmaPack t => 6689 + 1048576 * t.toNat
  | .mmaWait t => 6705 + 1048576 * t.toNat
  | .accZero t => 6721 + 1048576 * t.toNat
  | .accLd b t => 6737 + 67108864 * b.toNat + 1048576 * t.toNat
  | .accSt b t => 6753 + 67108864 * b.toNat + 1048576 * t.toNat
  | .accOut b t => 6769 + 67108864 * b.toNat + 1048576 * t.toNat
  | .mskLd b mb => 6785 + 67108864 * b.toNat + 1048576 * mb.toNat
  | .cpy => 6913
  | .cpyWait a => 6929 + 1048576 * a.toNat
  | .pfkLd b a => 6945 + 67108864 * b.toNat + 1048576 * a.toNat
  | .pfkArm b a => 6961 + 67108864 * b.toNat + 1048576 * a.toNat
  | .coll => 6977
  | .evqRd d => 7041 + 8192 * d.toNat
  | .evqWait d => 7057 + 8192 * d.toNat
  | .engFence => 7073
  | .spawn a d => 7169 + 1048576 * a.toNat + 8192 * d.toNat
  | .taskDec a => 7185 + 1048576 * a.toNat
  | .taskCtr a => 7201 + 1048576 * a.toNat
  | .rsOpen b a d => 7681 + 67108864 * b.toNat + 1048576 * a.toNat + 8192 * d.toNat
  | .rsRd b a => 7697 + 67108864 * b.toNat + 1048576 * a.toNat
  | .rsWr b a => 7713 + 67108864 * b.toNat + 1048576 * a.toNat
  | .rsSnap b a => 7729 + 67108864 * b.toNat + 1048576 * a.toNat
  | .rsRoll b a => 7745 + 67108864 * b.toNat + 1048576 * a.toNat
  | .rsFork b a d => 7761 + 67108864 * b.toNat + 1048576 * a.toNat + 8192 * d.toNat
  | .rsDrop a => 7777 + 1048576 * a.toNat
  | .rsPos a d => 7793 + 1048576 * a.toNat + 8192 * d.toNat
  | .btPrep b a d => 7809 + 67108864 * b.toNat + 1048576 * a.toNat + 8192 * d.toNat
  | .btCommit a d => 7825 + 1048576 * a.toNat + 8192 * d.toNat
  | .migrate a d => 7841 + 1048576 * a.toNat + 8192 * d.toNat
  | .ptTrunc b a d => 7857 + 67108864 * b.toNat + 1048576 * a.toNat + 8192 * d.toNat
  | .trap lo hi => 7937 + 67108864 * lo.toNat + 1048576 * hi.toNat
  | .rett => 7953
  | .srRd sc d => 7969 + 67108864 * sc.toNat + 8192 * d.toNat
  | .srWr sc a => 7985 + 67108864 * sc.toNat + 1048576 * a.toNat
  | .crewPeek a d => 8001 + 1048576 * a.toNat + 8192 * d.toNat
  | .crewPoke b a => 8017 + 67108864 * b.toNat + 1048576 * a.toNat
  | .crewResume b a => 8033 + 67108864 * b.toNat + 1048576 * a.toNat
  | .crewKill a => 8049 + 1048576 * a.toNat
  | .tlbInval b a => 8065 + 67108864 * b.toNat + 1048576 * a.toNat
  | .brk => 8081
  | .halt => 8097
  | .addi imm a n d u => 5 + 4194304 * imm.toNat + 65536 * a.toNat + 32768 * n.toNat + 512 * d.toNat + 2 * u.toNat
  | .andi imm a n d u => 21 + 4194304 * imm.toNat + 65536 * a.toNat + 32768 * n.toNat + 512 * d.toNat + 2 * u.toNat
  | .ori imm a n d u => 37 + 4194304 * imm.toNat + 65536 * a.toNat + 32768 * n.toNat + 512 * d.toNat + 2 * u.toNat
  | .xori imm a n d u => 53 + 4194304 * imm.toNat + 65536 * a.toNat + 32768 * n.toNat + 512 * d.toNat + 2 * u.toNat
  | .shli sc a n d u => 69 + 4194304 * sc.toNat + 65536 * a.toNat + 32768 * n.toNat + 512 * d.toNat + 2 * u.toNat
  | .shri sc a n d u => 85 + 4194304 * sc.toNat + 65536 * a.toNat + 32768 * n.toNat + 512 * d.toNat + 2 * u.toNat
  | .sari sc a n d u => 101 + 4194304 * sc.toNat + 65536 * a.toNat + 32768 * n.toNat + 512 * d.toNat + 2 * u.toNat
  | .sltiI imm a n d u => 117 + 4194304 * imm.toNat + 65536 * a.toNat + 32768 * n.toNat + 512 * d.toNat + 2 * u.toNat
  | .sltiN imm a n d u => 133 + 4194304 * imm.toNat + 65536 * a.toNat + 32768 * n.toNat + 512 * d.toNat + 2 * u.toNat
  | .muli imm a n d u => 149 + 4194304 * imm.toNat + 65536 * a.toNat + 32768 * n.toNat + 512 * d.toNat + 2 * u.toNat
  | .ldi imm n d u => 165 + 4194304 * imm.toNat + 32768 * n.toNat + 512 * d.toNat + 2 * u.toNat
  | .bEq imm a d u => 181 + 4194304 * imm.toNat + 65536 * a.toNat + 512 * d.toNat + 2 * u.toNat
  | .bNe imm a d u => 197 + 4194304 * imm.toNat + 65536 * a.toNat + 512 * d.toNat + 2 * u.toNat
  | .bLt imm a d u => 213 + 4194304 * imm.toNat + 65536 * a.toNat + 512 * d.toNat + 2 * u.toNat
  | .bGe imm a d u => 229 + 4194304 * imm.toNat + 65536 * a.toNat + 512 * d.toNat + 2 * u.toNat
  | .bLtn imm a d u => 245 + 4194304 * imm.toNat + 65536 * a.toNat + 512 * d.toNat + 2 * u.toNat
  | .bGen imm a d u => 261 + 4194304 * imm.toNat + 65536 * a.toNat + 512 * d.toNat + 2 * u.toNat
  | .cinci imm a n d u => 277 + 4194304 * imm.toNat + 65536 * a.toNat + 32768 * n.toNat + 512 * d.toNat + 2 * u.toNat
  | .split imm => 293 + 4194304 * imm.toNat
  | .bar imm sc => 309 + 33554432 * imm.toNat + 4194304 * sc.toNat
  | .barArrive imm sc => 325 + 33554432 * imm.toNat + 4194304 * sc.toNat
  | .barWait imm sc => 341 + 33554432 * imm.toNat + 4194304 * sc.toNat
  | .ldI8 imm p a d u => 9 + 2097152 * imm.toNat + 1048576 * p.toNat + 16384 * a.toNat + 256 * d.toNat + 2 * u.toNat
  | .ldN8 imm p a d u => 25 + 2097152 * imm.toNat + 1048576 * p.toNat + 16384 * a.toNat + 256 * d.toNat + 2 * u.toNat
  | .ldI16 imm p a d u => 41 + 2097152 * imm.toNat + 1048576 * p.toNat + 16384 * a.toNat + 256 * d.toNat + 2 * u.toNat
  | .ldN16 imm p a d u => 57 + 2097152 * imm.toNat + 1048576 * p.toNat + 16384 * a.toNat + 256 * d.toNat + 2 * u.toNat
  | .ldI32 imm p a d u => 73 + 2097152 * imm.toNat + 1048576 * p.toNat + 16384 * a.toNat + 256 * d.toNat + 2 * u.toNat
  | .ldN32 imm p a d u => 89 + 2097152 * imm.toNat + 1048576 * p.toNat + 16384 * a.toNat + 256 * d.toNat + 2 * u.toNat
  | .ld64 imm p a d u => 105 + 2097152 * imm.toNat + 1048576 * p.toNat + 16384 * a.toNat + 256 * d.toNat + 2 * u.toNat
  | .ld128 imm p a d u => 121 + 2097152 * imm.toNat + 1048576 * p.toNat + 16384 * a.toNat + 256 * d.toNat + 2 * u.toNat
  | .st8 imm p a d u => 137 + 2097152 * imm.toNat + 1048576 * p.toNat + 16384 * a.toNat + 256 * d.toNat + 2 * u.toNat
  | .st16 imm p a d u => 153 + 2097152 * imm.toNat + 1048576 * p.toNat + 16384 * a.toNat + 256 * d.toNat + 2 * u.toNat
  | .st32 imm p a d u => 169 + 2097152 * imm.toNat + 1048576 * p.toNat + 16384 * a.toNat + 256 * d.toNat + 2 * u.toNat
  | .st64 imm p a d u => 185 + 2097152 * imm.toNat + 1048576 * p.toNat + 16384 * a.toNat + 256 * d.toNat + 2 * u.toNat
  | .st128 imm p a d u => 201 + 2097152 * imm.toNat + 1048576 * p.toNat + 16384 * a.toNat + 256 * d.toNat + 2 * u.toNat
  | .ldCap imm p a d u => 217 + 2097152 * imm.toNat + 1048576 * p.toNat + 16384 * a.toNat + 256 * d.toNat + 2 * u.toNat
  | .stCap imm p a d u => 233 + 2097152 * imm.toNat + 1048576 * p.toNat + 16384 * a.toNat + 256 * d.toNat + 2 * u.toNat
  | .j imm => 13 + 128 * imm.toNat
  | .call imm => 29 + 128 * imm.toNat
  | .xset imm xi => 45 + 1024 * imm.toNat + 128 * xi.toNat
  | .xcat imm xi => 61 + 1024 * imm.toNat + 128 * xi.toNat
  | .nop => 0
  | .compactMov q p => 2 + 2048 * q.toNat + 64 * p.toNat
  | .compactAdd q p => 4 + 2048 * q.toNat + 64 * p.toNat
  | .compactSub q p => 6 + 2048 * q.toNat + 64 * p.toNat
  | .compactAnd q p => 8 + 2048 * q.toNat + 64 * p.toNat
  | .compactOr q p => 10 + 2048 * q.toNat + 64 * p.toNat
  | .compactXor q p => 12 + 2048 * q.toNat + 64 * p.toNat
  | .compactAddi imm p => 14 + 2048 * imm.toNat + 64 * p.toNat
  | .compactShli sc p => 16 + 2048 * sc.toNat + 64 * p.toNat
  | .compactShri sc p => 18 + 2048 * sc.toNat + 64 * p.toNat
  | .compactSari sc p => 20 + 2048 * sc.toNat + 64 * p.toNat
  | .compactLdi imm p => 22 + 2048 * imm.toNat + 64 * p.toNat
  | .compactLd64 q p => 24 + 2048 * q.toNat + 64 * p.toNat
  | .compactSt64 q p => 26 + 2048 * q.toNat + 64 * p.toNat
  | .compactLdI32 q p => 28 + 2048 * q.toNat + 64 * p.toNat
  | .compactSt32 q p => 30 + 2048 * q.toNat + 64 * p.toNat
  | .compactCinci q p => 32 + 2048 * q.toNat + 64 * p.toNat
  | .bZ off p => 34 + 2048 * off.toNat + 64 * p.toNat
  | .bNz off p => 36 + 2048 * off.toNat + 64 * p.toNat
  | .jS lo hi => 38 + 2048 * lo.toNat + 64 * hi.toNat
  | .compactRet => 40
  | .compactSymWait p => 42 + 64 * p.toNat
  | .compactFaddF32 q p => 44 + 2048 * q.toNat + 64 * p.toNat
  | .compactFmulF32 q p => 46 + 2048 * q.toNat + 64 * p.toNat
  | .compactJr p => 48 + 64 * p.toNat
  | .asyncEventEntry _ => 0
  | .registerMissSlotArrival _ _ _ => 0
  | .symbolArrival _ _ _ => 0
  | .localLoadCompletion _ => 0
  | .longInstructionCompletion _ => 0
  | .messageDeposit _ => 0
  | .automaticDecrement _ => 0
  | .pathSwitch _ => 0
  | .watchdogExpiry _ => 0
  | .mooringTimeLimit _ _ => 0
  | .mooringPlacement _ _ => 0
  | .mooringLoadingEnd _ _ => 0
  | .gangReturnDelivery _ => 0
  | .waitWake _ => 0
  | .waitTimeLimit _ => 0
  | .feQueuePerform _ => 0
  | .feWaitDeadline _ => 0
  | .messageArrival _ => 0
  | .messageSpill _ => 0
  | .spillMoveBack _ => 0
  | .homeAccess _ => 0
  | .postedAcknowledgement _ _ => 0
  | .refusalArrival _ _ => 0
  | .remoteRefusalTrap _ => 0
  | .pageWalkCompletion _ => 0
  | .scWindowPerform => 0
  | .streamRunAheadFetch _ _ => 0
  | .engineLineWrite _ _ => 0
  | .mmaStart _ => 0
  | .mmaRetire _ => 0
  | .accFormPerform _ => 0
  | .selfTestStart _ => 0
  | .selfTestEnd _ _ => 0
  | .copyStart _ => 0
  | .copyCompletion _ => 0
  | .eventRecordDrop _ => 0
  | .prefetchKernelRun _ => 0
  | .collectiveCompletion _ => 0
  | .collectiveTimeLimit _ => 0
  | .counterDecrement _ => 0
  | .tenderWalkStart _ => 0
  | .tenderWalkOffer _ => 0
  | .readyQueueOffer _ => 0
  | .passedOverLimit _ _ => 0
  | .stateStoreRequest _ _ => 0
  | .stateStoreAnswer _ => 0
  | .stateStoreTransferCompletion _ _ => 0
  | .preemption _ => 0
  | .crewDrain _ => 0
  | .switchStepEntry _ => 0
  | .crewRestore _ _ => 0
  | .pcSample _ => 0
  | .dieOutOfService _ => 0
  | .flitReceive _ _ _ => 0
  | .ptpMessage _ => 0
  | .lockAcquired => 0
  | .holdoverEntry => 0
  | .lightSlotDue _ => 0
  | .dieMembershipChange _ _ _ => 0
  | .dieShareAcknowledge _ _ => 0
  | .launchAckDeadline _ => 0
  | .launchControlFlit _ => 0
  | .coordAckDeadline _ => 0
  | .goTimeout _ => 0
  | .replicaStage _ => 0
  | .replicaDiscard _ => 0
  | .replicaCommitApply _ => 0
  | .btPrepAnswer _ => 0
  | .btCommitAnswer _ => 0
  | .migrateReserve _ => 0
  | .identify _ _ _ => 0
  | .loadObject _ _ _ => 0
  | .createContext _ _ _ => 0
  | .destroyContext _ _ _ => 0
  | .map _ _ _ => 0
  | .unmap _ _ _ => 0
  | .setKeyInstall _ _ _ => 0
  | .setKeyRemove _ _ _ => 0
  | .setLight _ _ _ => 0
  | .launch _ _ _ => 0
  | .launchReply _ => 0
  | .readEvents _ _ _ => 0
  | .attest _ _ _ => 0
  | .setPower _ _ _ => 0
  | .resetFunction _ _ _ => 0
  | .functionLevelReset _ => 0
  | .hostBar2Read _ _ _ => 0
  | .hostBar2Write _ _ _ => 0
  | .hostRegisterWrite _ _ _ => 0
  | .powerOn => 0
  | .powerControlTick _ _ => 0
  | .lampFrame _ => 0
  | .lampTimeRecord _ => 0
  | .evqWaitTimeLimit _ => 0
  | .staleReplicaRestore _ _ => 0
  | .instructionCacheLineArrival _ => 0
  | .reservedEncoding _ _ => 0
  | .taskDecBankAnswer _ => 0
  | .unknownCommandCode _ _ _ _ => 0
  | .srIovEnable _ => 0

/-- The length of an instruction in bytes: 4, 2 for a compact form (04 R79), 0 for an event. -/
def Instr.len : Instr → Nat
  | .add _ _ _ _ _ => 4
  | .sub _ _ _ _ _ => 4
  | .mul _ _ _ _ _ => 4
  | .mulhI _ _ _ _ _ => 4
  | .mulhN _ _ _ _ _ => 4
  | .divI _ _ _ _ => 4
  | .divN _ _ _ _ => 4
  | .remI _ _ _ _ => 4
  | .remN _ _ _ _ => 4
  | .and _ _ _ _ _ => 4
  | .or _ _ _ _ _ => 4
  | .xor _ _ _ _ _ => 4
  | .andn _ _ _ _ _ => 4
  | .shl _ _ _ _ _ => 4
  | .shr _ _ _ _ _ => 4
  | .sar _ _ _ _ _ => 4
  | .rol _ _ _ _ _ => 4
  | .ror _ _ _ _ _ => 4
  | .clz _ _ _ _ => 4
  | .ctz _ _ _ _ => 4
  | .popc _ _ _ _ => 4
  | .minI _ _ _ _ _ => 4
  | .maxI _ _ _ _ _ => 4
  | .minN _ _ _ _ _ => 4
  | .maxN _ _ _ _ _ => 4
  | .seq _ _ _ _ _ => 4
  | .sne _ _ _ _ _ => 4
  | .sltI _ _ _ _ _ => 4
  | .sltN _ _ _ _ _ => 4
  | .sel _ _ _ _ _ => 4
  | .sext _ _ _ _ _ => 4
  | .zext _ _ _ _ _ => 4
  | .bfx _ _ _ _ _ => 4
  | .bfi _ _ _ _ _ => 4
  | .mov _ _ _ _ => 4
  | .rng _ _ _ _ _ => 4
  | .cbase _ _ _ _ => 4
  | .ctop _ _ _ _ => 4
  | .clen _ _ _ _ => 4
  | .cperm _ _ _ _ => 4
  | .cwalk _ _ _ _ => 4
  | .ctag _ _ _ _ => 4
  | .cbound _ _ _ _ _ => 4
  | .cand _ _ _ _ _ => 4
  | .cwset _ _ _ _ _ => 4
  | .cset _ _ _ _ _ => 4
  | .cinc _ _ _ _ _ => 4
  | .cdiff _ _ _ _ _ => 4
  | .cclr _ _ _ _ => 4
  | .cwithin _ _ _ _ _ => 4
  | .ccoord _ _ _ _ => 4
  | .jr _ _ => 4
  | .callr _ _ => 4
  | .ret _ _ => 4
  | .symWait _ _ => 4
  | .symTest _ _ _ => 4
  | .xput _ _ => 4
  | .xget _ _ => 4
  | .fadd _ _ _ _ _ _ => 4
  | .fsub _ _ _ _ _ _ => 4
  | .fmul _ _ _ _ _ _ => 4
  | .fma _ _ _ _ _ _ => 4
  | .fms _ _ _ _ _ _ => 4
  | .fnma _ _ _ _ _ _ => 4
  | .fdiv _ _ _ _ _ => 4
  | .fsqrt _ _ _ _ => 4
  | .fexp2 _ _ _ => 4
  | .flog2 _ _ _ => 4
  | .fmin _ _ _ _ _ _ => 4
  | .fmax _ _ _ _ _ _ => 4
  | .fabs _ _ _ _ _ => 4
  | .fneg _ _ _ _ _ => 4
  | .fsgn _ _ _ _ _ _ => 4
  | .fceq _ _ _ _ _ _ => 4
  | .fclt _ _ _ _ _ _ => 4
  | .fcle _ _ _ _ _ _ => 4
  | .fcun _ _ _ _ _ _ => 4
  | .fclass _ _ _ _ _ => 4
  | .fround _ _ _ _ _ => 4
  | .fcvtFf _ _ _ _ _ _ => 4
  | .fcvtFi _ _ _ _ _ _ _ => 4
  | .fcvtIf _ _ _ _ _ _ => 4
  | .fmtSet _ => 4
  | .fmtGet _ _ => 4
  | .qmax _ _ _ _ => 4
  | .qscale _ _ _ => 4
  | .quant _ _ _ _ => 4
  | .dequant _ _ _ _ => 4
  | .salient _ _ _ _ => 4
  | .laneId _ => 4
  | .laneGet _ _ _ => 4
  | .laneRise _ _ _ => 4
  | .laneFall _ _ _ => 4
  | .laneFlip _ _ _ => 4
  | .laneAny _ _ => 4
  | .laneAll _ _ => 4
  | .laneBits _ _ => 4
  | .redAddI _ _ => 4
  | .redAddF32 _ _ => 4
  | .redMaxF32 _ _ => 4
  | .redMinF32 _ _ => 4
  | .scanAddI _ _ => 4
  | .intersect _ _ _ => 4
  | .join => 4
  | .regang => 4
  | .mAnd _ _ _ => 4
  | .mOr _ _ _ => 4
  | .mNot _ _ => 4
  | .mMov _ _ => 4
  | .mMovFromK _ _ => 4
  | .mMovToK _ _ => 4
  | .mMovActive _ => 4
  | .gcall _ _ => 4
  | .gret _ => 4
  | .gflush _ => 4
  | .semP _ => 4
  | .semV _ => 4
  | .sregRd _ _ => 4
  | .sregWr _ _ => 4
  | .barMax _ _ _ => 4
  | .ringArrive _ _ => 4
  | .ringWait _ _ _ => 4
  | .step => 4
  | .wait _ _ _ => 4
  | .ldFe _ _ _ => 4
  | .ldFf _ _ _ => 4
  | .stEf _ _ _ => 4
  | .stFf _ _ _ => 4
  | .feSet _ _ _ => 4
  | .amoAdd _ _ _ _ _ => 4
  | .amoMinI _ _ _ _ _ => 4
  | .amoMaxI _ _ _ _ _ => 4
  | .amoMinN _ _ _ _ _ => 4
  | .amoMaxN _ _ _ _ _ => 4
  | .amoAnd _ _ _ _ _ => 4
  | .amoOr _ _ _ _ _ => 4
  | .amoXor _ _ _ _ _ => 4
  | .amoSwap _ _ _ _ _ => 4
  | .amoCas _ _ _ _ _ => 4
  | .amoFaddF32 _ _ _ _ => 4
  | .amoFaddBf16 _ _ _ _ => 4
  | .bankAddF32 _ _ => 4
  | .bankAddBf16 _ _ => 4
  | .bankMaxF32 _ _ => 4
  | .bankAxpyF32 _ _ => 4
  | .bankSumF32 _ _ => 4
  | .fence _ => 4
  | .ldSc _ _ _ => 4
  | .stSc _ _ _ => 4
  | .agBind _ _ => 4
  | .agUnbind _ => 4
  | .agPos _ _ => 4
  | .agDrain _ => 4
  | .send _ _ _ => 4
  | .sendR _ _ _ => 4
  | .recv _ _ _ => 4
  | .poll _ _ _ => 4
  | .ccClean _ _ => 4
  | .ccInval _ _ => 4
  | .ccZero _ _ => 4
  | .pf _ _ => 4
  | .mma _ => 4
  | .mmaPair _ => 4
  | .mmaPack _ => 4
  | .mmaWait _ => 4
  | .accZero _ => 4
  | .accLd _ _ => 4
  | .accSt _ _ => 4
  | .accOut _ _ => 4
  | .mskLd _ _ => 4
  | .cpy => 4
  | .cpyWait _ => 4
  | .pfkLd _ _ => 4
  | .pfkArm _ _ => 4
  | .coll => 4
  | .evqRd _ => 4
  | .evqWait _ => 4
  | .engFence => 4
  | .spawn _ _ => 4
  | .taskDec _ => 4
  | .taskCtr _ => 4
  | .rsOpen _ _ _ => 4
  | .rsRd _ _ => 4
  | .rsWr _ _ => 4
  | .rsSnap _ _ => 4
  | .rsRoll _ _ => 4
  | .rsFork _ _ _ => 4
  | .rsDrop _ => 4
  | .rsPos _ _ => 4
  | .btPrep _ _ _ => 4
  | .btCommit _ _ => 4
  | .migrate _ _ => 4
  | .ptTrunc _ _ _ => 4
  | .trap _ _ => 4
  | .rett => 4
  | .srRd _ _ => 4
  | .srWr _ _ => 4
  | .crewPeek _ _ => 4
  | .crewPoke _ _ => 4
  | .crewResume _ _ => 4
  | .crewKill _ => 4
  | .tlbInval _ _ => 4
  | .brk => 4
  | .halt => 4
  | .addi _ _ _ _ _ => 4
  | .andi _ _ _ _ _ => 4
  | .ori _ _ _ _ _ => 4
  | .xori _ _ _ _ _ => 4
  | .shli _ _ _ _ _ => 4
  | .shri _ _ _ _ _ => 4
  | .sari _ _ _ _ _ => 4
  | .sltiI _ _ _ _ _ => 4
  | .sltiN _ _ _ _ _ => 4
  | .muli _ _ _ _ _ => 4
  | .ldi _ _ _ _ => 4
  | .bEq _ _ _ _ => 4
  | .bNe _ _ _ _ => 4
  | .bLt _ _ _ _ => 4
  | .bGe _ _ _ _ => 4
  | .bLtn _ _ _ _ => 4
  | .bGen _ _ _ _ => 4
  | .cinci _ _ _ _ _ => 4
  | .split _ => 4
  | .bar _ _ => 4
  | .barArrive _ _ => 4
  | .barWait _ _ => 4
  | .ldI8 _ _ _ _ _ => 4
  | .ldN8 _ _ _ _ _ => 4
  | .ldI16 _ _ _ _ _ => 4
  | .ldN16 _ _ _ _ _ => 4
  | .ldI32 _ _ _ _ _ => 4
  | .ldN32 _ _ _ _ _ => 4
  | .ld64 _ _ _ _ _ => 4
  | .ld128 _ _ _ _ _ => 4
  | .st8 _ _ _ _ _ => 4
  | .st16 _ _ _ _ _ => 4
  | .st32 _ _ _ _ _ => 4
  | .st64 _ _ _ _ _ => 4
  | .st128 _ _ _ _ _ => 4
  | .ldCap _ _ _ _ _ => 4
  | .stCap _ _ _ _ _ => 4
  | .j _ => 4
  | .call _ => 4
  | .xset _ _ => 4
  | .xcat _ _ => 4
  | .nop => 2
  | .compactMov _ _ => 2
  | .compactAdd _ _ => 2
  | .compactSub _ _ => 2
  | .compactAnd _ _ => 2
  | .compactOr _ _ => 2
  | .compactXor _ _ => 2
  | .compactAddi _ _ => 2
  | .compactShli _ _ => 2
  | .compactShri _ _ => 2
  | .compactSari _ _ => 2
  | .compactLdi _ _ => 2
  | .compactLd64 _ _ => 2
  | .compactSt64 _ _ => 2
  | .compactLdI32 _ _ => 2
  | .compactSt32 _ _ => 2
  | .compactCinci _ _ => 2
  | .bZ _ _ => 2
  | .bNz _ _ => 2
  | .jS _ _ => 2
  | .compactRet => 2
  | .compactSymWait _ => 2
  | .compactFaddF32 _ _ => 2
  | .compactFmulF32 _ _ => 2
  | .compactJr _ => 2
  | .asyncEventEntry _ => 0
  | .registerMissSlotArrival _ _ _ => 0
  | .symbolArrival _ _ _ => 0
  | .localLoadCompletion _ => 0
  | .longInstructionCompletion _ => 0
  | .messageDeposit _ => 0
  | .automaticDecrement _ => 0
  | .pathSwitch _ => 0
  | .watchdogExpiry _ => 0
  | .mooringTimeLimit _ _ => 0
  | .mooringPlacement _ _ => 0
  | .mooringLoadingEnd _ _ => 0
  | .gangReturnDelivery _ => 0
  | .waitWake _ => 0
  | .waitTimeLimit _ => 0
  | .feQueuePerform _ => 0
  | .feWaitDeadline _ => 0
  | .messageArrival _ => 0
  | .messageSpill _ => 0
  | .spillMoveBack _ => 0
  | .homeAccess _ => 0
  | .postedAcknowledgement _ _ => 0
  | .refusalArrival _ _ => 0
  | .remoteRefusalTrap _ => 0
  | .pageWalkCompletion _ => 0
  | .scWindowPerform => 0
  | .streamRunAheadFetch _ _ => 0
  | .engineLineWrite _ _ => 0
  | .mmaStart _ => 0
  | .mmaRetire _ => 0
  | .accFormPerform _ => 0
  | .selfTestStart _ => 0
  | .selfTestEnd _ _ => 0
  | .copyStart _ => 0
  | .copyCompletion _ => 0
  | .eventRecordDrop _ => 0
  | .prefetchKernelRun _ => 0
  | .collectiveCompletion _ => 0
  | .collectiveTimeLimit _ => 0
  | .counterDecrement _ => 0
  | .tenderWalkStart _ => 0
  | .tenderWalkOffer _ => 0
  | .readyQueueOffer _ => 0
  | .passedOverLimit _ _ => 0
  | .stateStoreRequest _ _ => 0
  | .stateStoreAnswer _ => 0
  | .stateStoreTransferCompletion _ _ => 0
  | .preemption _ => 0
  | .crewDrain _ => 0
  | .switchStepEntry _ => 0
  | .crewRestore _ _ => 0
  | .pcSample _ => 0
  | .dieOutOfService _ => 0
  | .flitReceive _ _ _ => 0
  | .ptpMessage _ => 0
  | .lockAcquired => 0
  | .holdoverEntry => 0
  | .lightSlotDue _ => 0
  | .dieMembershipChange _ _ _ => 0
  | .dieShareAcknowledge _ _ => 0
  | .launchAckDeadline _ => 0
  | .launchControlFlit _ => 0
  | .coordAckDeadline _ => 0
  | .goTimeout _ => 0
  | .replicaStage _ => 0
  | .replicaDiscard _ => 0
  | .replicaCommitApply _ => 0
  | .btPrepAnswer _ => 0
  | .btCommitAnswer _ => 0
  | .migrateReserve _ => 0
  | .identify _ _ _ => 0
  | .loadObject _ _ _ => 0
  | .createContext _ _ _ => 0
  | .destroyContext _ _ _ => 0
  | .map _ _ _ => 0
  | .unmap _ _ _ => 0
  | .setKeyInstall _ _ _ => 0
  | .setKeyRemove _ _ _ => 0
  | .setLight _ _ _ => 0
  | .launch _ _ _ => 0
  | .launchReply _ => 0
  | .readEvents _ _ _ => 0
  | .attest _ _ _ => 0
  | .setPower _ _ _ => 0
  | .resetFunction _ _ _ => 0
  | .functionLevelReset _ => 0
  | .hostBar2Read _ _ _ => 0
  | .hostBar2Write _ _ _ => 0
  | .hostRegisterWrite _ _ _ => 0
  | .powerOn => 0
  | .powerControlTick _ _ => 0
  | .lampFrame _ => 0
  | .lampTimeRecord _ => 0
  | .evqWaitTimeLimit _ => 0
  | .staleReplicaRestore _ _ => 0
  | .instructionCacheLineArrival _ => 0
  | .reservedEncoding _ _ => 0
  | .taskDecBankAnswer _ => 0
  | .unknownCommandCode _ _ _ _ => 0
  | .srIovEnable _ => 0

/-- The bytes of an instruction, first halfword first. -/
def encode (i : Instr) : List Byte := natBytes i.len i.word

end Sys2Proof
end

