-- ==== Sys2Proof/Machine/State.lean ====
section
/-! DEFINITION. The state of the package as plain data: the issuing group and the other groups, memory,
the cores, quads and dies with their units, the crews and tasks, what is in flight, and what the host
and the firmware hold. One step moves one agent. -/

namespace Sys2Proof.Machine

/-- Why a step ends with a fault. No rule of the spec stops the machine without a trap, so none is
raised; kept because a closed type of reasons is part of the interface (safe). -/
inductive Fault where
  /-- Raised by no meaning: every trap of the spec is a next state (safe). -/
  | none
  deriving DecidableEq, Repr

/-- Why a step refuses an instruction. -/
inductive Refusal where
  /-- The dispatcher has no meaning for the instruction yet (safe: no claim is made about it). -/
  | notModelled (mnemonic : String)
  deriving DecidableEq, Repr

/-! ### Register values -/

/-- One recorded floating-point step of a symbolic record (03 R61, R62, R66). -/
structure FpStep where
  op : BitVec 2
  pos : BitVec 2
  c1 : Word
  c2 : Word
  mode : BitVec 2
  /-- A number that tells the steps of one instruction of a group from those of another (02 R49): one more than the clk of the issue
  before it; 0 in a record that a save area gave back. -/
  no : Nat
  deriving DecidableEq, Repr

/-- The class and transformation of a symbolic record (03 R61 to R66). -/
inductive SymForm where
  | pure
  | int (a b : Word)
  | cap (b : Word)
  | fp (fmt : BitVec 2) (steps : List FpStep)
  deriving DecidableEq, Repr

/-- A symbolic record: the symbol's id, the match tag of a pending receive it is bound to, and the
transformation (03 R60, R61). -/
structure SymRec where
  id : BitVec 6
  bound : Option (BitVec 16)
  form : SymForm
  deriving DecidableEq, Repr

/-- The tag of a register (01 R9; a poisoned register is a SYM register with POISON = 1, 03 R71). -/
inductive Tag where
  | data
  | cap
  | absent
  | poison
  | sym (r : SymRec)
  deriving DecidableEq, Repr

/-- A register's 128 bits and tag (01 R9). -/
structure Val where
  bits : Quad
  tag : Tag
  deriving DecidableEq, Repr

/-- Zero DATA. -/
def Val.zero : Val := ⟨0, .data⟩

/-- One lane: its number in the gang, k0 to k55, its latches ^1 first, whether it is active and
whether it has not ended (01 R9; 04 R86; 07 R155). -/
structure Lane where
  no : Nat
  k : Vector Val 56
  latch : List Val
  active : Bool
  live : Bool
  deriving DecidableEq, Repr

/-- One entry of a reconvergence stack: a join point or a waiting path (07 R159), with the code capability of
the split or path, which the layout of a spilled entry does not hold (log 9). -/
structure StackEntry where
  isJoin : Bool
  pc : Word
  code : Val
  lmask : BitVec 4
  fmt : BitVec 6
  token : BitVec 12
  deriving DecidableEq, Repr

/-- What exists once per context or slice (01 R29; 02 R39, R50; 07 R159; 19 R403, R404, R406). -/
structure Slice where
  idx : Nat
  num : Nat
  spillAt : Nat
  bank : Vector Val 4
  fmode : Word
  fmt : Word
  stack : List StackEntry
  bp : Vector Word 4
  wp : Vector Word 4
  psamp : Word
  sampled : Nat
  save : Val
  deriving DecidableEq, Repr

/-- The special registers of a strand or issuing group that are words (01 R24). -/
structure Specials where
  status : Word
  cause : Word
  tval : Word
  epc : Val
  lrun : Word
  done : Word
  crew : Nat
  task : Nat
  asid : Word
  mwb : Word
  swb : Word
  mtime : Word
  felim : Word
  gstat : Word
  tvec : Val
  spill : Val
  evq : Val
  deriving DecidableEq, Repr

/-- A bound address generator (11 R238; 13 R274). -/
structure Stream where
  base : Val
  stride : Word
  ctl : Word
  pad : Word
  ahead : Nat
  count : Nat
  fetched : Nat
  deriving DecidableEq, Repr

/-- The five sticky flags (02 R39). -/
structure Flags where
  nv : Bool
  dz : Bool
  of : Bool
  uf : Bool
  nx : Bool
  deriving DecidableEq, Repr

/-- A result still awaited through an interlock: a long instruction or a local load (04 R85; 05 R118). -/
structure Pend where
  due : Nat
  long : Bool
  dst : BitVec 6
  banked : Bool
  vals : List (Nat × Val)
  flags : List (Nat × Flags)
  ids : List (Nat × BitVec 6)
  inRun : Bool
  discarded : Bool
  deriving DecidableEq, Repr

/-- A live symbol: the slice (0 on an S-core) whose pool its id is of, the lanes whose data is awaited,
the data that has arrived, and the receive's match tag (03 R60, R72). -/
structure Sym where
  slice : Nat
  id : BitVec 6
  want : List Nat
  got : List (Nat × Val)
  mtag : Option (BitVec 16)
  since : Nat
  inRun : Bool
  deriving DecidableEq, Repr

/-- What a home, unit or agent has answered to the instruction a group waits at. -/
inductive Answer where
  /-- Performed, with the value read. -/
  | ok (v : Val)
  /-- The operation was not performed: the trap the instruction takes. -/
  | fail (code : Nat) (tval : Word)
  deriving DecidableEq, Repr

/-- A barrier by task, scope code, scope instance, kind and number (09 R203). -/
structure BarKey where
  task : Nat
  scope : Nat
  inst : Nat
  top : Bool
  id : Nat
  deriving DecidableEq, Repr

/-- An outstanding arrival: the barrier, the generation awaited, and the pc of the `bar` or `bar.max`
that waits for it, if one does (09 R204). -/
structure Arrival where
  key : BarKey
  gen : Nat
  at_ : Option Word
  deriving DecidableEq, Repr

/-- Registers before a latch run, restored by a trap at a member (04 R88), with the handler banks by slice, and the registers the
members have written, by lane: a deposit made meanwhile does not show in those (03 R73). -/
structure Shadow where
  lanes : List Lane
  banks : List (Nat × Vector Val 4)
  x : Vector Word 8
  m : Vector (BitVec 32) 8
  wrote : List (Nat × BitVec 6)
  deriving DecidableEq, Repr

/-- What a group that does not issue waits for (07 R150; 18 R377, R382; 19 R408). -/
inductive Wait where
  | symbol
  | symPool
  | long
  | localLoad
  | translation
  | journal
  | miss
  | fullEmpty
  | sem (n : Nat)
  | ring (r : Nat) (stage : Nat) (phase : Bool)
  | barrier (scope : Nat) (id : Nat) (top : Bool)
  | recv
  | join
  | regang
  | stalledCall
  | fence
  | send
  | engineQueue
  /-- For the array instructions numbered below a mark, taken when the instruction first issued (16 R330). -/
  | matrixTile (before : Nat)
  /-- For the copies numbered below a mark, taken when the instruction first issued (16 R335). -/
  | copy (before : Nat)
  /-- For the engine operations numbered below a mark, taken when the instruction first issued (16 R342). -/
  | engines (before : Nat)
  | watch
  | evq
  | stateStore
  | batch
  | icache
  | forfeit
  /-- A `step` held for a membership change (22 R441). -/
  | stepHold
  /-- The resident context sleeps until the next system event (19 R409). -/
  | systemEvent
  deriving DecidableEq, Repr

/-- What an issuing group is doing (07 R150; 18 R367, R378; 19 R399, R409). -/
inductive Run where
  /-- No strand or gang here. -/
  | free
  /-- May issue. -/
  | ready
  /-- Waits at its instruction since a clk. -/
  | waiting (w : Wait) (since : Nat)
  /-- Parked at a gang call (08 R173). -/
  | parked
  /-- Stopped by STOP or a pre-emption (18 R378; 19 R399); whether it is parked at a gang call, and the wait it was
  withdrawn from. -/
  | stopped (parked : Bool) (w : Option Wait)
  /-- Stopped in the resident handler's hands after a trap at level T (18 R367). -/
  | resident
  /-- Its state lies in the save area (18 R379); whether it is parked at a gang call (08 R184). -/
  | saved (parked : Bool)
  deriving DecidableEq, Repr

/-- One issuing group: a strand, a gang, or a slice parted from its gang (07 R141). -/
structure Group where
  gid : Nat
  gang : Nat
  core : Nat
  isG : Bool
  role : BitVec 2
  first : Nat
  spg : Nat
  limit : Nat
  lanes : List Lane
  slices : List Slice
  sp : Specials
  pc : Word
  codeCap : Val
  x : Vector Word 8
  m : Vector (BitVec 32) 8
  streams : Vector (Option Stream) 8
  /-- Elements popped for the instruction at the pc: the register, how many came from the stream, and the
  value for each lane (11 R239). -/
  held : List (Nat × Nat × List (Nat × Val))
  run : Run
  /-- A stop asked for: 1 at the next boundary, 2 after one instruction more (19 R399), 0 none. -/
  stopReq : Nat
  runLen : Nat
  shorts : Nat
  shadow : Option Shadow
  /-- The OXRs and mask registers written in the run under way, which the other parts of the gang see when it ends (04 R88). -/
  wx : BitVec 8
  wm : BitVec 8
  pend : List Pend
  syms : List Sym
  suppress : Bool
  forfeit : Nat
  /-- Whether the instruction at the pc has sent what it waits for. -/
  sent : Bool
  /-- The answers that have reached the waiting instruction, by lane: a value, or the trap it takes. -/
  answers : List (Nat × Answer)
  /-- The barriers at which this group's arrival is outstanding. -/
  arrivals : List Arrival
  /-- The group runs a switch step: 1 save, 2 restore, 0 none (18 R384). -/
  switchStep : Nat
  walkFault : Option (Nat × Word)
  mooring : Bool
  lastIssue : Nat
  /-- The pc of the instruction issued last (19 R407). -/
  lastPc : Word
  /-- The clk since which the group has been ready without issuing, on a G-core (07 R156). -/
  readyAt : Option Nat
  /-- The step trap that a gang call stepped over still owes, with its trap value: it is taken before the next issue (01
  R26). -/
  stepDue : Option Word
  deriving DecidableEq, Repr

/-! ### Memory -/

/-- Memory of the whole package by physical address: bytes, the granules with their capability tag
set, the words that are EMPTY, the poisoned lines, the key a line was written under, and the lines whose check value is not
that of their bytes, with the difference, each in rising order (11 R218 to R226, R234 to R236, R241; 01 R11). -/
structure Memory where
  cells : List Host.Cell
  tags : List Nat
  empties : List Nat
  poison : List Nat
  keys : List (Nat × Nat)
  checks : List (Nat × BitVec 32)
  deriving DecidableEq, Repr

/-- The creator word beside a dependency counter (16 R344). -/
structure Creator where
  pa : Nat
  asid : Nat
  mwb : Word
  swb : Word
  tvec : Val
  crew : Nat
  ctx : Nat
  fn : Nat
  deriving DecidableEq, Repr

/-- An operation performed whole at a home (12 R246): the loads and stores of 05 R114 and 13 R260, the
atomics of 13 R266 to R268, the bank operations of 13 R270, and the cache operations of 13 R281. -/
inductive MemOp where
  /-- `size` bytes, sign-extended if `sx`; `cap` if a set granule tag gives CAP. -/
  | load (size : Nat) (sx : Bool) (cap : Bool)
  /-- The low bytes of `data`; `tag` sets the granule's tag bit. -/
  | store (size : Nat) (data : Quad) (tag : Bool)
  /-- Integer atomic `k` in the order of 13 R266, 64-bit if `w`, with its operand and expected value. -/
  | amo (k : Nat) (w : Bool) (b e : Word)
  /-- Floating atomic of format `t`. -/
  | fadd (t : BitVec 2) (b : Nat)
  /-- Bank form `k` (0 add.f32, 1 add.bf16, 2 max.f32, 3 axpy.f32) on the masked 16-byte quarters. -/
  | bank (k : Nat) (data : List (Option Quad)) (alpha : Nat)
  | bankSum
  /-- 64 zero bytes as one store. -/
  | zero
  | clean
  /-- A record consumed from the event queue whose header is here (16 R340). -/
  | evqRd
  /-- The 32 bytes of a dependency counter written with its creator word (16 R344). -/
  | counter (data : BitVec 256) (c : Creator)
  /-- Full/empty operation `k` (0 ld.fe, 1 ld.ff, 2 st.ef, 3 st.ff, 4 clear, 5 set) with its data, deadline and
  destination (11 R241, R242). -/
  | fe (k : Nat) (data : Word) (deadline : Nat) (dst : BitVec 6)
  deriving DecidableEq, Repr

/-- An access on its way to its home (12 R246 to R248): its source, what it does there, and who gets
the answer. -/
structure Req where
  src : Nat
  gid : Nat
  gang : Nat
  core : Nat
  home : Nat
  pa : Nat
  va : Word
  op : MemOp
  /-- The lanes that receive the value. -/
  lanes : List Nat
  /-- The symbols, one per slice, that the value resolves. -/
  syms : List (Nat × BitVec 6)
  /-- The posted-store journal entry that awaits the acknowledgement. -/
  entry : Option Nat
  /-- Whether the instruction its group waits at takes the answer. -/
  ans : Bool
  /-- The package of the home, if it is another one. -/
  pkg : Option (BitVec 8)
  key : Option Nat
  /-- The clk in which it was sent, and whether it is an SC operation that its window has performed so far as to send it to
  another package. -/
  since : Nat
  sc : Bool
  deriving DecidableEq, Repr

/-- An outstanding or refused entry of a posted-store journal (18 R374), with its group, the group's
crew, the level at which it was issued, and whether its trap has been taken. -/
structure JEntry where
  addr : Word
  data : Quad
  iclk : BitVec 32
  st : BitVec 2
  reason : BitVec 4
  lane : Nat
  ctx : Nat
  size : Nat
  opc : Nat
  gid : Nat
  crew : Nat
  task : Nat
  level : BitVec 2
  src : Nat
  taken : Bool
  deriving DecidableEq, Repr

/-- A pending receive (13 R279): the gang and crew, its context or slice and lane, the tag, and the register, lanes
and symbols the message is for. -/
structure Recv where
  gang : Nat
  crew : Nat
  ctx : Nat
  lane : Nat
  tag : BitVec 16
  dst : BitVec 6
  lanes : List Nat
  syms : List (Nat × BitVec 6)
  since : Nat
  deriving DecidableEq, Repr

/-- A counting semaphore: its count and its sleepers in arrival order (07 R153). -/
structure Sem where
  count : Nat
  sleepers : List Nat
  deriving DecidableEq, Repr

/-- Where a completion record goes (15 R315): an event queue by the physical address of its header and the crew whose it is, or
the event list of a function. -/
inductive RecDest where
  | queue (pa crew : Nat)
  | host (fn : Nat)
  deriving DecidableEq, Repr

/-- A message (11 R243; 13 R276 to R278): its data, tag and source, the sender's group, lane and crew with where a
record on it goes, the destination core, offset and address, and the register it is for if it was sent by `send.r`. -/
structure Msg where
  data : Quad
  tag : BitVec 16
  src : Nat
  sender : Nat
  lane : Nat
  srcCrew : Nat
  dest : RecDest
  fn : Nat
  core : Nat
  off : Nat
  addr : Word
  /-- The destination crew, once accepted. -/
  crew : Nat
  /-- For `send.r`: the register, the context or slice and the lane. -/
  reg : Option (Nat × Nat × Nat)
  x6 : Word
  since : Nat
  deriving DecidableEq, Repr

/-- The former allocation of a saved crew on a core (18 R380). -/
structure Redirect where
  crew : Nat
  lo : Nat
  hi : Nat
  spill : Val
  deriving DecidableEq, Repr

/-- A core: shared registers, semaphores, journal, receive queue and its fences (01 R22; 07 R153;
11 R237, R243; 12 R250; 18 R367, R380). -/
structure Core where
  coord : Nat
  s : Vector Word 8
  sems : Vector Sem 16
  journal : Vector (Option JEntry) 64
  next : Nat
  queue : List Msg
  fenced : Bool
  locks : List (Nat × Nat)
  redirects : List Redirect
  stopped : Bool
  /-- The clk of the last access of another core or of an engine to this local memory, which takes a port (07 R151). -/
  portTaken : Option Nat
  deriving DecidableEq, Repr

/-- A caller that a gang of the Mooring serves: the gang's lane, and the caller's group, core and context. -/
structure CallerRef where
  lane : Nat
  gid : Nat
  core : Nat
  ctx : Nat
  deriving DecidableEq, Repr

/-- A crew (07 R141, R148, R158, R167; 11 R244): its allocation and the bytes it takes with spill regions and
event queue, the header of its event queue, its stack limit, rings and watchdog, its message-spill ring, and
the area of the context's pool it holds. -/
structure Crew where
  id : Nat
  task : Nat
  core : Nat
  isG : Bool
  ctx : Nat
  lo : Nat
  len : Nat
  total : Nat
  evq : Option Nat
  limit : Nat
  members : Nat
  matrix : Bool
  rings : Vector (BitVec 8) 4
  /-- The watchdog's count, as it stood at the end of the clk before, and the value it is reloaded with (07 R167). -/
  wdog : Nat
  seen : Nat
  reload : Nat
  /-- The message-spill ring: its bytes, the number of its head record, and what its records hold, oldest first (11 R244). -/
  spillBytes : Nat
  spillHead : Nat
  spilled : List Msg
  /-- A pre-emption asked for: at once, or at the next `step`. -/
  preempt : Bool
  atStep : Bool
  /-- The clk of the pre-emption, from which its age in a ready queue counts (22 R437). -/
  since : Nat
  saved : Bool
  /-- A member has been withdrawn at a `step` without its saved state (17 R364). -/
  withdrawn : Bool
  /-- 1 while its registers lie in the save area and its memory is to be saved, 2 while its memory is to be restored
  (18 R384, R385). -/
  switching : Nat
  area : Nat
  /-- A gang launched by the Mooring: the callers not yet answered, and the contexts that stay taken until the
  gang ends (08 R184). -/
  callers : List CallerRef
  pins : List (Nat × Nat)
  deriving DecidableEq, Repr

/-- A barrier's state: the generation, the slices that have arrived in it by gang and place, the contributions
of gangs, and the value of the last release (09 R203 to R205); at pod scope, what other packages have said: the package, the
generation in which all its members have arrived and their contribution, and whether this package has said so of this generation
(22 R429, R444). -/
structure Barrier where
  key : BarKey
  gen : Nat
  arrived : List (Nat × Nat)
  values : List (Nat × Word)
  last : Word
  away : List (Nat × Nat × Word)
  told : Bool
  deriving DecidableEq, Repr

/-- A full/empty operation waiting at its word (11 R241, R242). -/
structure FeWait where
  pa : Nat
  gid : Nat
  lane : Nat
  op : Nat
  data : Word
  va : Word
  deadline : Nat
  dst : BitVec 6
  deriving DecidableEq, Repr

/-- An armed `wait` (09 R210): its group, the bytes watched, the deadline, and whether a write landed. -/
structure Armed where
  gid : Nat
  bytes : List (Nat × Nat)
  deadline : Nat
  hit : Bool
  deriving DecidableEq, Repr

/-- An SC operation announced on the Foghorn with its sort keys (12 R257). -/
structure ScOp where
  window : Nat
  core : Nat
  clk : Nat
  ctx : Nat
  lane : Nat
  req : Req
  deriving DecidableEq, Repr

/-- A translation held by the L1 TLB of a core, or by the TLB of a quad (11 R233): the tag ASID (none for a GLB entry), the
virtual page, and the leaf with its level. Newer entries of a TLB stand before older ones. -/
structure TlbEntry where
  core : Option Nat
  quad : Nat
  asid : Option Nat
  level : Nat
  vpage : Nat
  pte : Word
  deriving DecidableEq, Repr

/-- A table-pointer entry of a die's walk cache (11 R233): the tag ASID, the level of the entry, the address bits that led to it,
and the entry. -/
structure PtrEntry where
  die : Nat
  asid : Nat
  level : Nat
  vpage : Nat
  pte : Word
  deriving DecidableEq, Repr

/-- A page walk in flight, or one that waits for a walker, in order of arrival (11 R233). -/
structure Walk where
  quad : Nat
  asid : Nat
  va : Nat
  stale : Bool
  deriving DecidableEq, Repr

/-- A system event at a core's resident handler: the core, and the crew, group, pc, cause and trap value it holds
(18 R367). An event for the handler of a die goes to that of its core 0 (log 75). -/
structure SysEvent where
  core : Nat
  crew : Nat
  gid : Nat
  pc : Word
  code : Nat
  tval : Word
  deriving DecidableEq, Repr

/-! ### Engines (14, 15, 17) -/

/-- A unit that writes completion records (15 R314): while its record waits it starts no further operation
(15 R315). -/
inductive EngineUnit where
  | copy (quad : Nat)
  | array (core : Nat)
  | prefetch (core : Nat)
  | collective (die : Nat)
  | store (die : Nat)
  | scheduler
  | network (core : Nat)
  deriving DecidableEq, Repr

/-- A completion record that waits for room in its queue (15 R315), or for a self-test (14 R298), with the gang and crew whose
operation it reports, 0 if it reports none. -/
structure OutRec where
  unit : EngineUnit
  dest : RecDest
  bits : Quad
  since : Nat
  gang : Nat
  crew : Nat
  /-- The operation it reports, 0 if none. -/
  op : Nat
  deriving DecidableEq, Repr

/-- Where a captured page lies: in this package; in another, whose lines are the free values of a number (log 16); or in
one to which no route leads (22 R427). -/
inductive XHome where
  | here
  | away (n : Nat)
  | cut
  deriving DecidableEq, Repr

/-- A 4 KiB page of a virtual span as an engine captured it at issue: its number, its physical page, the key of its data,
and its home (15 R306; 14 R293). -/
structure XPage where
  vpage : Nat
  ppage : Nat
  key : Option Nat
  home : XHome
  deriving DecidableEq, Repr

/-- A copy in a quad's engine (15 R304 to R307; 26 R481): `hsrc` and `hdst` name the host aperture of a
context. -/
structure CopyOp where
  id : Nat
  quad : Nat
  gang : Nat
  crew : Nat
  core : Nat
  tag : BitVec 12
  dest : RecDest
  ctx : Nat
  src : Val
  dst : Val
  rows : Nat
  len : Nat
  sstr : Int
  dstr : Int
  fill : Bool
  hsrc : Bool
  hdst : Bool
  spages : List XPage
  dpages : List XPage
  running : Bool
  /-- The source of the lines already written holds poison; a home refused at this address. -/
  poisoned : Bool
  refused : Option Word
  /-- Its lines are written and its record is held. -/
  finished : Bool
  deriving DecidableEq, Repr

/-- What an array instruction does (14 R285; 16 R331, R333). -/
inductive ArrayKind where
  | mma (pair : Bool) (sparse : Bool)
  | zero
  | ld
  | st
  | out
  | msk (m : Nat) (image : Nat)
  deriving DecidableEq, Repr

/-- An array instruction in a core's order (16 R328, R329): its tile, the descriptor x0 to x6, the named
capabilities by register code, the elected lane's formats, and the pages of its operands. -/
structure ArrayOp where
  id : Nat
  kind : ArrayKind
  t : Nat
  x : Vector Word 7
  caps : List (Nat × Val)
  fmt : Word
  fmode : Word
  pages : List XPage
  gang : Nat
  crew : Nat
  dest : RecDest
  entry : Option Nat
  started : Bool
  /-- The core that leads a paired operation in the follower's order (14 R287). -/
  leader : Option Nat
  deriving DecidableEq, Repr

/-- A matrix array (14 R282, R296 to R300): the elements of its tiles that are not +0 by tile × 1,024 +
row × 32 + column, the POISON bits, the mask blocks, its order, the held records, and the test. -/
structure MArray where
  core : Nat
  tiles : List (Nat × Nat)
  poison : BitVec 16
  blocks : Vector Nat 4
  order : List ArrayOp
  held : List OutRec
  seq : Nat
  untested : Nat
  fenced : BitVec 4
  testing : Bool
  deriving DecidableEq, Repr

/-- A prefetch unit's arming (15 R309; 16 R337): the gang, the stream's register, the tag, k3 to k7, where
records go, and the pages' space. -/
structure Arming where
  gang : Nat
  crew : Nat
  reg : Nat
  tag : BitVec 12
  k : List Val
  dest : RecDest
  /-- The space in which its runs access memory: ASID and windows of the arming gang. -/
  asid : Word
  mwb : Word
  swb : Word
  /-- The stream is still bound: further lines it fetches start runs. -/
  live : Bool
  /-- The number of the arming, by which `eng.fence` knows it is earlier. -/
  id : Nat
  deriving DecidableEq, Repr

/-- A kernel run (15 R309, R310): the element's number, the registers, the instruction that comes next, and how many it has
executed. -/
structure KernelRun where
  n : Nat
  regs : Vector Val 56
  ix : Nat
  count : Nat
  deriving DecidableEq, Repr

/-- A prefetch unit (15 R308 to R311): its kernel, its arming, the elements whose runs are due, with their numbers, and the run
under way. -/
structure PUnit where
  core : Nat
  kernel : List (BitVec 32)
  arm : Option Arming
  due : List (Nat × Val)
  /-- The run under way, and the clk of its last instruction. -/
  run : Option KernelRun
  at_ : Nat
  deriving DecidableEq, Repr

/-- A participant of a collective (15 R312, R313; 16 R338, R339). -/
structure Participant where
  pkg : Nat
  die : Nat
  gang : Nat
  crew : Nat
  core : Nat
  dest : RecDest
  tag : BitVec 12
  src : Val
  dst : Val
  spages : List XPage
  dpages : List XPage
  deadline : Nat
  matching : Bool
  late : Bool
  op : Nat
  /-- A crew of another package, by a flit (15 R312): its buffer is free values of the number `op` (log 80). -/
  away : Bool
  deriving DecidableEq, Repr

/-- An open collective of a task (16 R338, R339): its descriptor and its participants in order of arrival. -/
structure Coll where
  task : Nat
  group : Nat
  op : Nat
  et : Nat
  max : Bool
  np : Nat
  root : Nat
  len : Nat
  parts : List Participant
  /-- Whether the combination has been made, and which participants it holds (15 R313). -/
  closed : Bool
  /-- How many participants went with their crew, which was killed: none of them has a record to come (16 R339; 19 R400). -/
  lost : Nat
  deriving DecidableEq, Repr

/-- A slot of a state-store unit (17 R347): the pages of its frame and of each Daymark by position, oldest first, as
numbers of 4 KiB physical pages. -/
structure Slot where
  no : Nat
  asid : Nat
  task : Nat
  seq : Nat
  depth : Nat
  frame : List Nat
  ring : List (Nat × List Nat)
  deriving DecidableEq, Repr

/-- What a request asks of a state-store unit (17 R354 to R362). -/
inductive SsAsk where
  | open_ (seq size depth : Nat)
  | rd (first count : Nat)
  | wr (first count : Nat)
  | snap (p : Word)
  | roll (p : Word)
  | fork (p : Word) (seq : Word)
  | drop
  | pos
  deriving DecidableEq, Repr

/-- A request to a state-store unit (17 R352, R358): its handle, issuer, and for a transfer the local side;
`accepted` once it has joined its slot's order. Requests stand in order of issue, the accepted ones in order of
arrival. -/
structure SsReq where
  die : Nat
  src : Nat
  gid : Nat
  gang : Nat
  crew : Nat
  core : Nat
  asid : Nat
  task : Nat
  handle : Word
  ask : SsAsk
  tag : BitVec 12
  dest : RecDest
  base : Val
  pages : List XPage
  x0 : Word
  op : Nat
  accepted : Bool
  /-- The unit's answer on its way to the waiting group, and whether that group awaits one. -/
  answer : Option Answer
  asked : Bool
  /-- Its work at the unit is done; a transfer stays until its record is written. -/
  ended : Bool
  deriving DecidableEq, Repr

/-- A state-store unit (17 R347, R348): the open slots, and the generations that differ from 1. -/
structure StoreUnit where
  die : Nat
  slots : List Slot
  gens : List (Nat × Nat)
  reqs : List SsReq
  deriving DecidableEq, Repr

/-- A decrement on its way to its bank (15 R317, R318; 16 R345): from a waiting group with its journal entry,
or from a completed task. -/
structure Decr where
  pa : Option Nat
  va : Word
  src : Nat
  gid : Option Nat
  entry : Option Nat
  task : Nat
  core : Nat
  /-- Where a failure of an automatic decrement is reported: the launching crew, or the host. -/
  launcher : Option Nat
  fn : Nat
  /-- The clk in which it was sent. -/
  since : Nat
  /-- The bank's answer on its way to the waiting group. -/
  result : Option Answer
  deriving DecidableEq, Repr

/-! ### Tasks and the Mooring (07, 08, 15) -/

/-- A task record (07 R143): its fields above ARG, with ENTRY and ARG as they were read. -/
structure TaskRec where
  fields : BitVec 256
  arg : Val
  entry : Val
  deriving DecidableEq, Repr

/-- A task (07 R149; 14 R302; 22 R440 to R443). -/
structure Task where
  id : Nat
  record : TaskRec
  /-- The address of its task record in memory; 0 where it has none there (20 R414). -/
  addr : Nat
  asid : Nat
  mwb : Word
  swb : Word
  tvec : Val
  /-- The context whose pool serves it, and the function that owns it. -/
  ctx : Nat
  fn : Nat
  /-- The launching crew, after `spawn` or a counter. -/
  launcher : Option Nat
  /-- The Light List entry whose instance it is, with the slot's time. -/
  light : Option (Nat × Nat)
  dies : BitVec 6
  epoch : Nat
  asked : BitVec 6
  acked : BitVec 6
  refused : BitVec 6
  decided : Bool
  aborted : Bool
  start : Nat
  relaunches : Nat
  /-- Dies that a change of membership added (22 R441, R442). -/
  added : BitVec 6
  /-- The quad from which its walks start, and the core whose action launched it (15 R314, R321). -/
  src : Nat
  core : Nat
  killed : Bool
  /-- A membership change that waits for the step boundary: dies added and withdrawn (22 R441). -/
  change : Option (BitVec 6 × BitVec 6)
  /-- The core on which its last crew ended, once it is complete (07 R149). -/
  done : Option Nat
  /-- Whether a LAUNCH waits to reply for it, with the refusal to report, and whether a multi-package launch
  waits for GO. -/
  reply : Bool
  status : Nat
  await : Bool
  /-- Of a multi-package launch: its GROUP, and the packages that received GO and still have members; while GO is awaited, those that
  have had members and have none any more (22 R444). -/
  group : Nat
  pkgs : BitVec 256
  deriving DecidableEq, Repr

/-- Who a walk or a queue entry places: a die's share of a task, a gang of the Mooring by quad and entry, or a saved crew
(18 R388). -/
inductive Placing where
  | share (task die : Nat)
  | gang (quad entry : Nat)
  | crew (id : Nat)
  deriving DecidableEq, Repr

/-- Where a record stands in the tender walk (15 R321). -/
inductive Stage where
  | start
  | route
  | ring (r pos : Nat)
  deriving DecidableEq, Repr

/-- A record in the tender walk: what is left to place, the index of the next strand or gang, and the quad
it stands at. -/
structure Tender where
  who : Placing
  die : Nat
  qx : Nat
  qy : Nat
  bx : Nat
  by_ : Nat
  radius : Nat
  left : Nat
  next : Nat
  stage : Stage
  deriving DecidableEq, Repr

/-- An entry of a ready queue, or of the die's overflow list (15 R319, R320). -/
structure QEntry where
  who : Placing
  quad : Nat
  pri : Nat
  left : Nat
  next : Nat
  since : Nat
  passed : Option Nat
  blocking : Bool
  overflow : Bool
  /-- A core of its quad has freed capacity, and the quad has not offered its entries since (15 R319). -/
  freed : Bool
  deriving DecidableEq, Repr

/-- The states of a Mooring entry (08 R175); a FREE entry is not listed. -/
inductive MoorState where
  | filling
  | placing
  | queued
  | loading
  deriving DecidableEq, Repr

/-- A caller in a Mooring entry: its group, core, context, task and parked k1 to kn. -/
structure Caller where
  gid : Nat
  core : Nat
  ctx : Nat
  task : Nat
  args : List Val
  deriving DecidableEq, Repr

/-- A Mooring entry (08 R169). -/
structure MoorEntry where
  quad : Nat
  idx : Nat
  state : MoorState
  asid : Word
  target : Val
  n : Nat
  callers : List Caller
  opened : Nat
  mtime : Nat
  task : Nat
  tvec : Val
  mwb : Word
  swb : Word
  flushed : Bool
  /-- What the gang takes from the first caller's task: MTHR, PRI, LOCAL in bytes, the stack limit of STK, WDOG, the context and
  its function (08 R174, R176). -/
  mthr : Nat
  pri : Nat
  localBytes : Nat
  limit : Nat
  wdog : Nat
  ctxId : Nat
  fn : Nat
  /-- Its walk found the quad's queue and the die's overflow list full: it is offered again when an entry of one frees. -/
  full : Bool
  /-- Where the gang was placed: its group. -/
  gang : Nat
  deriving DecidableEq, Repr

/-- A return, or the end of a lane, on its way to its caller (08 R180 to R182). -/
structure GangRet where
  caller : Nat
  lane : Nat
  vals : List Val
  status : Nat
  cause : Nat
  deriving DecidableEq, Repr

/-! ### Generation (23) -/

/-- A replica of the batching table (23 R445, R451, R452): its die and place, the staged entries as number, image and
KVPT tag, the gang and crew that staged them with their TLIM, a COMMIT (true) or DISCARD (false) on its way, and how far
a COMMIT has been applied. -/
structure Replica where
  die : Nat
  pa : Nat
  staged : List (Nat × Nat × Bool)
  issuer : Option (Nat × Nat)
  tlim : Nat
  order : Option Bool
  phase : Nat
  deriving DecidableEq, Repr

/-- A `bt.prep` or `bt.commit` under way (23 R451, R452): the issuing group, gang and crew, ITER and TLIM, the deadline,
the list, NREP, and the answers by the die of the replica. -/
structure BtOp where
  gid : Nat
  gang : Nat
  crew : Nat
  commit : Bool
  iter : Nat
  tlim : Nat
  deadline : Nat
  recs : List (Nat × Nat × Bool)
  nrep : Nat
  /-- Answers by replica: a die of this package, or 8 × (n + 1) + die of the package numbered n. -/
  answers : List (Nat × Bool)
  /-- The clk of issue and the issuing core's number, which order lists at a replica (23 R453; 11 R227). -/
  since : Nat
  src : Nat
  deriving DecidableEq, Repr

/-! ### Package, host and firmware (22, 26) -/

/-- The states of the time base (22 R434). -/
inductive TimeState where
  | free
  | locking
  | locked
  | holdover
  deriving DecidableEq, Repr

/-- The time base (22 R432, R434): its state, its distance in ns from the count of clk as it stood when the reference was last heard,
the rate at which it slews in parts per 10⁹, and whether it has ever locked. -/
structure TimeBase where
  state : TimeState
  ns : Int
  offset : Int
  good : Option Nat
  heard : Nat
  rate : Int
  locked : Bool
  deriving DecidableEq, Repr

/-- The fabric of the package (22 R428 to R430): the port of each destination, ports down, the next SEQ of
each pair in each direction, flits held with the port that received them, flits that failed, by port, pair and SEQ, asked for again
with how often they failed, the replay buffer of each port, and flits to be sent. -/
structure Fabric where
  routes : List (Nat × Nat)
  down : List Nat
  seqIn : List (Nat × Nat)
  seqOut : List (Nat × Nat)
  held : List (Nat × Flit)
  fails : List ((Nat × Nat × Nat) × Nat)
  replay : List (Nat × Flit)
  out : List Flit
  deriving DecidableEq, Repr

/-- A multi-package slot until the coordinator has decided it (22 R444): its time, its clk, the local task, and PMIN, NPKG and COORD as
they were at the slot, with the packages that acknowledged. -/
structure LightSlot where
  time : Nat
  clk : Nat
  task : Nat
  pmin : Nat
  npkg : Nat
  coord : Nat
  group : Nat
  acks : BitVec 256
  deriving DecidableEq, Repr

/-- A Light List entry (22 R435): its image, and what SET_LIGHT formed from the launch descriptor. -/
structure Light where
  no : Nat
  image : BitVec 1280
  entry : Val
  arg : Val
  tvec : Val
  ctx : Nat
  /-- The multi-package slots not yet decided, oldest first. -/
  slots : List LightSlot
  deriving DecidableEq, Repr

/-- An object a context holds (26 R498 to R501): its handle, its text, its entry table, and the sections. -/
structure Obj where
  handle : Nat
  text : Nat
  textLen : Nat
  entries : List (Nat × Nat)
  /-- Its launch notes, kept for system software to read (00 R8). -/
  notes : List (List Byte)
  deriving DecidableEq, Repr

/-- A context (26 R488). -/
structure Ctx where
  id : Nat
  fn : Nat
  asid : Nat
  mwb : Word
  swb : Word
  spill : Nat
  event : Nat
  pool : Nat
  poolSize : Nat
  /-- The areas of the pool in use, by offset and size. -/
  areas : List (Nat × Nat)
  objects : List Obj
  /-- Aperture pages by number, with their host addresses (26 R481). -/
  aperture : List (Nat × Nat)
  /-- Mapped pages by virtual address, with size, and whether the firmware allocated the memory. -/
  maps : List (Nat × Nat × Bool)
  keys : List Nat
  nextObj : Nat
  /-- The pages of 64 KiB that the firmware has given the context: page tables, the pool, mapped pages: the first page, the
  count, and whether it is shared memory. -/
  given : List (Nat × Nat × Bool)
  deriving DecidableEq, Repr

/-- A mailbox submission that is being served (26 R484). -/
structure Submission where
  code : BitVec 16
  params : List Byte
  tag : BitVec 32
  deriving DecidableEq, Repr

/-- A PCI Express function (26 R478 to R484). -/
structure PcieFn where
  no : Nat
  enabled : Bool
  window : Word
  busy : Option Submission
  go : Bool
  reply : Word
  replyData : List Byte
  page : List (Nat × Byte)
  events : List Quad
  dropped : Nat
  vectors : BitVec 4
  /-- The task whose LAUNCH is to be replied to. -/
  waiting : Option Nat
  /-- The last completion of a read through BAR2: its bytes, and whether EP is set (26 R480). -/
  read : List Byte × Bool
  deriving DecidableEq, Repr

/-- A die's buffer of the Lamp port, the records lost, and the multiples of 2^20 clk recorded (26 R496, R497). -/
structure LampBuf where
  die : Nat
  recs : List Quad
  lost : Nat
  timed : Nat
  deriving DecidableEq, Repr

/-- The Lamp port (26 R496, R497): the enable bits and kind mask, the frame sequence, the buffers and the
frames sent. -/
structure Lamp where
  ctl : Word
  seq : Nat
  bufs : List LampBuf
  frames : List (List Byte)
  deriving DecidableEq, Repr

/-- A partition's limits (18 R389): its quads, the plain and Topmark barriers and the rings, and the function
it is bound to. -/
structure Partition where
  quads : List Nat
  plain : Nat
  topmark : Nat
  rings : Nat
  fn : Option Nat
  deriving DecidableEq, Repr

/-- Firmware and power (18 R389; 26 R493, R495): whether it has booted and runs its extension, the measurement
registers, the partitions, the cap, the duty and the last draw. -/
structure Firmware where
  booted : Bool
  extension : Bool
  measures : Vector (BitVec 256) 16
  parts : List Partition
  cap : Nat
  duty : Nat
  draw : Nat
  rev : BitVec 16
  /-- The functions whose commands are submitted, oldest first (26 R484). -/
  serving : List Nat
  /-- LP-DDR-5X and shared memory the firmware has given out, by first page and pages of 64 KiB. -/
  taken : List (Nat × Nat)
  takenShared : List (Nat × Nat)
  deriving DecidableEq, Repr

/-- What the package holds once: the root of the level-1 table of each ASID, the keys installed with their
contexts, its pod number (11 R230, R234; 22 R428), the pages the state-store units hold (11 R228), and the
dies out of service (22 R427). -/
structure Package where
  roots : List (Nat × Nat)
  keys : List Nat
  /-- The two AES-256 keys of each installed index (26 R492). -/
  keyBytes : List (Nat × BitVec 512)
  pod : BitVec 8
  ssPages : List Nat
  deadDies : BitVec 6
  /-- Soft errors corrected (11 R235). -/
  corrected : Nat
  time : TimeBase
  fabric : Fabric
  lights : List Light
  contexts : List Ctx
  functions : List PcieFn
  lamp : Lamp
  firmware : Firmware
  /-- The batching group: the pod numbers of its packages (23 R445). -/
  batch : List (BitVec 8)
  /-- The host's memory as the aperture reads and writes it (26 R481). -/
  hostMem : List Host.Cell
  deriving DecidableEq, Repr

/-- What the environment makes happen next: an event of the opcode table, the next issue of a group, a soft error, or what
a resident handler or firmware sets. -/
inductive Turn where
  | event (i : Instr)
  | issue (gid : Nat)
  /-- A soft error in a stored line: one that the array's own code corrects, or else the difference it makes between the line's
  check value and its bytes (11 R235, R236). -/
  | upset (line : Nat) (diff : BitVec 32)
  /-- The resident handler of a core fences it or not, and write-locks regions of its local memory, from and below an offset (11
  R237). -/
  | guard (core : Nat) (fenced : Bool) (locks : List (Nat × Nat))
  /-- Firmware writes an entry of the fabric's route table: a port, or no port (22 R428, R430). -/
  | route (pod : BitVec 8) (port : Option Nat)
  /-- Firmware sets the pod number at boot (22 R428). -/
  | pod (n : BitVec 8)
  /-- Firmware configures the batching group and creates this package's replicas, by die and place (23 R445 to R447). -/
  | batch (pods : List (BitVec 8)) (nrep : Nat) (replicas : List (Nat × Nat))
  deriving DecidableEq, Repr

/-- The whole machine. -/
structure State where
  /-- The group that issues, and the others. -/
  g : Group
  groups : List Group
  mem : Memory
  cores : List Core
  crews : List Crew
  tasks : List Task
  barriers : List Barrier
  fes : List FeWait
  armed : List Armed
  net : List Req
  scq : List ScOp
  /-- Lines that an engine operation owns, by line and operation (12 R255). -/
  owned : List (Nat × Nat)
  /-- Messages on their way, and pending receives (11 R243; 13 R279). -/
  mail : List Msg
  recvs : List Recv
  tlb : List TlbEntry
  pointers : List PtrEntry
  walks : List Walk
  /-- Slots of ABSENT registers being fetched: the group, the lane, and the register, 64 more for the handler bank
  (18 R386). -/
  misses : List (Nat × Nat × Nat)
  sys : List SysEvent
  moor : List MoorEntry
  /-- Calls stalled at a `gcall`, oldest first (08 R173): the quad and the group. -/
  stalls : List (Nat × Nat)
  returns : List GangRet
  copies : List CopyOp
  arrays : List MArray
  punits : List PUnit
  colls : List Coll
  stores : List StoreUnit
  creators : List Creator
  decs : List Decr
  tenders : List Tender
  queues : List QEntry
  records : List OutRec
  replicas : List Replica
  btops : List BtOp
  pkg : Package
  /-- What happens next whatever else is due: the inputs from outside the package, and the order of moves that the spec
  leaves open (log 27). -/
  agenda : List Turn
  /-- The context or slice that each issue port issued last, by core × 4 + port (07 R150, R156). -/
  turns : List (Nat × Nat)
  clk : Nat
  /-- The count of free values taken, the model's own field (log 4). -/
  fresh : Nat
  /-- The next number the model gives a group, operation, crew or task (log 8). -/
  nextId : Nat
  deriving DecidableEq, Repr

/-! ### Reset -/

/-- The model's group right after reset: no strand, and every register zero (log 2, log 3). -/
def Group.reset : Group :=
  { gid := 0, gang := 0, core := 0, isG := false, role := 0, first := 0, spg := 0, limit := 16, lanes := [], slices := [],
    sp := { status := 0, cause := 0, tval := 0, epc := Val.zero, lrun := 0, done := 0, crew := 0, task := 0, asid := 0,
            mwb := 0, swb := 0, mtime := 0, felim := 0, gstat := 0, tvec := Val.zero, spill := Val.zero,
            evq := Val.zero },
    pc := 0, codeCap := Val.zero, x := Vector.replicate 8 0, m := Vector.replicate 8 0, streams := Vector.replicate 8 none,
    held := [], run := .free, stopReq := 0, runLen := 0, shorts := 0, shadow := none, wx := 0, wm := 0, pend := [], syms := [],
    suppress := false, forfeit := 0, sent := false, answers := [], arrivals := [], switchStep := 0, walkFault := none,
    mooring := false, lastIssue := 0, lastPc := 0, readyAt := none, stepDue := none }

/-- A function right after reset (26 R479, R483): function 0 is enabled, ready, with nothing in its page. -/
def PcieFn.reset (n : Nat) : PcieFn :=
  { no := n, enabled := n == 0, window := 0, busy := none, go := false, reply := 0, replyData := [], page := [], events := [],
    dropped := 0, vectors := 0, waiting := none, read := ([], false) }

/-- The package right after reset: no key, no context, the time base FREE from 0 (22 R434), no Light List entry
armed (22 R435), the ROM not yet run (26 R493); the pod number, the partitions and the power figures are the
model's (log 2). -/
def Package.reset : Package :=
  { roots := [], keys := [], keyBytes := [], pod := 0, ssPages := [], deadDies := 0, corrected := 0,
    time := { state := .free, ns := 0, offset := 0, good := none, heard := 0, rate := 0, locked := false },
    fabric := { routes := [], down := [], seqIn := [], seqOut := [], held := [], fails := [], replay := [], out := [] },
    lights := [], contexts := [], functions := [PcieFn.reset 0],
    lamp := { ctl := 0, seq := 0, bufs := [], frames := [] },
    firmware := { booted := false, extension := false, measures := Vector.replicate 16 0, parts := [], cap := 2400, duty := 64,
                  draw := 0, rev := 0, serving := [], taken := [], takenShared := [] },
    batch := [], hostMem := [] }

/-- The machine right after reset: nothing in any memory, no strand anywhere, nothing in flight. -/
def State.reset : State :=
  { g := Group.reset, groups := [], mem := { cells := [], tags := [], empties := [], poison := [], keys := [], checks := [] }, cores := [],
    crews := [], tasks := [], barriers := [], fes := [], armed := [], net := [], scq := [], owned := [], mail := [],
    recvs := [], tlb := [], pointers := [], walks := [], misses := [], sys := [], moor := [], stalls := [], returns := [], copies := [], arrays := [],
    punits := [], colls := [], stores := [], creators := [], decs := [], tenders := [], queues := [], records := [],
    replicas := [], btops := [], pkg := Package.reset, agenda := [], turns := [], clk := 0, fresh := 0, nextId := 1 }

end Sys2Proof.Machine
end

