-- ==== Sys2Proof/Machine/Cap.lean ====
section
/-! DEFINITION. Capabilities: the fields of R12, linear indices and walks (R19, R20), bounds (R13) and
cursor moves (R14), and the derivations of 05 R109 to R113 on one value. Index arithmetic is exact. -/

namespace Sys2Proof.Machine

/-- CURSOR, bits [55:0] (01 R12). -/
def capCursor (v : Quad) : BitVec 56 := v.extractLsb' 0 56

/-- E, bits [68:64]. -/
def capE (v : Quad) : Nat := (v.extractLsb' 64 5).toNat

/-- S, bits [90:69]. -/
def capS (v : Quad) : Nat := (v.extractLsb' 69 22).toNat

/-- L, bits [112:91]. -/
def capL (v : Quad) : Nat := (v.extractLsb' 91 22).toNat

/-- PERM, bits [120:113]: R W X LC SC G M A from bit 0. -/
def capPerm (v : Quad) : BitVec 8 := v.extractLsb' 113 8

/-- WALK, bits [127:121]: the order above the granule code. -/
def capWalk (v : Quad) : BitVec 7 := v.extractLsb' 121 7

/-- The permissions of R17. -/
inductive Perm where
  | r | w | x | lc | sc | g | m | a
  deriving DecidableEq, Repr

/-- The place of a permission in PERM (01 R17). -/
def Perm.bit : Perm → Nat
  | .r => 0 | .w => 1 | .x => 2 | .lc => 3 | .sc => 4 | .g => 5 | .m => 6 | .a => 7

/-- Whether a capability's bits carry a permission. -/
def capHas (v : Quad) (p : Perm) : Bool := (capPerm v).getLsbD p.bit

/-- A capability's bits from its fields (01 R12). -/
def capBits (walk : BitVec 7) (perm : BitVec 8) (l s e cursor : Nat) : Quad :=
  (walk ++ perm ++ BitVec.ofNat 22 l ++ BitVec.ofNat 22 s ++ BitVec.ofNat 5 e ++ 0#8 ++ BitVec.ofNat 56 cursor : BitVec 128)

/-- A flat capability over [base, base + len) with its cursor at base, E the least that holds the
length (01 R16). -/
def capE' : Nat → Nat → Nat → Nat
  | 0, e, _ => e
  | n + 1, e, len => if (len + 2 ^ e - 1) / 2 ^ e ≤ 4194303 then e else capE' n (e + 1) len

/-- The smallest exponent for a length (01 R16; 05 R111). -/
def boundExp (len : Nat) : Nat := capE' 31 0 len

/-- The lengths round up to whole units of 2^E. -/
def ceilDiv (n d : Nat) : Nat := (n + d - 1) / d

/-- The largest multiple of 2^e not above i. -/
def alignDown (i : Int) (e : Nat) : Int := i - i % (2 ^ e : Nat)

/-- The smallest exponent from `e` up whose bounds cover [base, base + len) (26 R491). -/
def coverExp (base len : Nat) : Nat → Nat → Nat
  | 0, e => e
  | n + 1, e => if ceilDiv (len + base % 2 ^ e) (2 ^ e) ≤ 4194303 then e else coverExp base len n (e + 1)

/-- A flat CAP over [base, base + len) whose bounds always cover it, cursor at base (26 R491). -/
def flatCap (perm : BitVec 8) (base len : Nat) : Val :=
  let e := coverExp base len 31 0
  ⟨capBits 0 perm (ceilDiv (len + base % 2 ^ e) (2 ^ e)) 0 e base, .cap⟩

/-- The walk fields of a mesh offset, innermost first, as (place, width) in W (01 R19, R20). -/
def walkFields : Nat → List (Nat × Nat)
  | 1 => [(19, 2), (21, 4), (25, 4), (29, 3)]
  | 2 => [(21, 4), (25, 4), (29, 3), (19, 2)]
  | 3 => [(19, 2), (25, 4), (21, 4), (29, 3)]
  | 4 => [(25, 4), (21, 4), (29, 3), (19, 2)]
  | 5 => [(21, 4), (25, 4), (19, 2), (29, 3)]
  | 6 => [(19, 2), (29, 3), (21, 4), (25, 4)]
  | 7 => [(29, 3), (19, 2), (21, 4), (25, 4)]
  | _ => []

/-- The walk order and granule code of a descriptor. -/
def walkOrder (w : BitVec 7) : Nat := (w.extractLsb' 4 3).toNat
/-- The granule code g. -/
def walkGran (w : BitVec 7) : Nat := (w.extractLsb' 0 4).toNat

/-- A walk descriptor that a tagged capability may carry (01 R18). -/
def walkValid (w : BitVec 7) : Bool := if walkOrder w = 0 then walkGran w == 0 else decide (walkGran w ≤ 13)

/-- Gathers fields of W into an index, low fields first; `p` is the place value reached. -/
def gather (w : Nat) : List (Nat × Nat) → Nat → Nat
  | [], _ => 0
  | (lo, n) :: t, p => w / 2 ^ lo % 2 ^ n * p + gather w t (p * 2 ^ n)

/-- Spreads an index back over the fields of W. -/
def scatter (i : Nat) : List (Nat × Nat) → Nat
  | [] => 0
  | (lo, n) :: t => i % 2 ^ n * 2 ^ lo + scatter (i / 2 ^ n) t

/-- The fields of a walk, the granule offset first and the rest of the offset last (01 R19). DESIGN CHOICE: a granule code of 14 or
15, which no tagged capability carries (R18), is read with the whole offset inside the granule, and order 0 with a granule code is read
as flat; only an inspection of bits that are no CAP meets one (05 R109; log 68). -/
def walkLayout (w : BitVec 7) : List (Nat × Nat) :=
  let c := min (6 + walkGran w) 19
  (0, c) :: walkFields (walkOrder w) ++ [(c, 19 - c)]

/-- The linear index of an address under a walk descriptor (01 R18, R19). -/
def indexOfAddr (w : BitVec 7) (addr : Nat) : Nat :=
  if walkOrder w = 0 then addr
  else addr / 2 ^ 32 * 2 ^ 32 + gather (addr % 2 ^ 32) (walkLayout w) 1

/-- The address whose index under a walk descriptor is given (05 R108). -/
def spreadIndex (w : BitVec 7) (i : Nat) : Nat :=
  if walkOrder w = 0 then i
  else i / 2 ^ 32 * 2 ^ 32 + scatter (i % 2 ^ 32) (walkLayout w)

/-- Index(v): the linear index of a CAP's cursor, and bits [63:0] of any other value (05 R108). -/
def index (v : Val) : Nat :=
  if v.tag = .cap then indexOfAddr (capWalk v.bits) (capCursor v.bits).toNat else (v.bits.extractLsb' 0 64).toNat

/-- The index R13 computes bounds from, read from the bits whatever the tag (05 R109). -/
def bitsIndex (v : Quad) : Nat := indexOfAddr (capWalk v) (capCursor v).toNat

/-- base = align_down(I, 2^E) − S·2^E (01 R13). -/
def capBase (v : Quad) : Int := alignDown (bitsIndex v) (capE v) - (capS v * 2 ^ capE v : Nat)

/-- L·2^E. -/
def capLen (v : Quad) : Nat := capL v * 2 ^ capE v

/-- top = base + L·2^E (01 R13). -/
def capTop (v : Quad) : Int := capBase v + capLen v

/-- An access of n bytes at index a is within the bounds (01 R13). -/
def inBounds (v : Quad) (a : Int) (n : Nat) : Bool := decide (capBase v ≤ a ∧ a + n ≤ capTop v)

/-- A 64-bit word as DATA (01 R10). -/
def dataWord (w : Word) : Val := ⟨w.setWidth 128, .data⟩

/-- A natural number cut to 64 bits as DATA. -/
def dataNat (n : Nat) : Val := dataWord (BitVec.ofNat 64 n)

/-- An integer cut to 64 bits. -/
def intWord (i : Int) : Word := BitVec.ofInt 64 i

/-- The address an index maps to, for an index outside the 56-bit space cut to 64 bits (05 R108). -/
def spreadInt (w : BitVec 7) (i : Int) : Nat := spreadIndex w (intWord i).toNat

/-- Move(v, I′) (01 R14; 05 R108): a CAP when v is CAP and the moved cursor is representable, else
the moved bits as DATA. -/
def moveTo (v : Val) (i : Int) : Val :=
  if v.tag = .cap then
    let e := capE v.bits
    let s' := (capS v.bits : Int) + (alignDown i e - alignDown (bitsIndex v.bits) e) / (2 ^ e : Nat)
    if 0 ≤ s' ∧ s' ≤ 4194303 ∧ 0 ≤ i ∧ i < (2 ^ 56 : Nat) then
      ⟨capBits (capWalk v.bits) (capPerm v.bits) (capL v.bits) s'.toNat e (spreadIndex (capWalk v.bits) i.toNat), .cap⟩
    else dataNat (spreadInt (capWalk v.bits) i)
  else dataWord (intWord i)

/-- A code capability with its cursor at an address (01 R32: "with cursor"): the move of R14, so one whose bounds cannot be kept
exact there, or an address past 56 bits, leaves DATA. -/
def withCursor (v : Val) (pc : Word) : Val :=
  if v.tag = .cap then moveTo v (indexOfAddr (capWalk v.bits) pc.toNat) else dataWord pc

/-- The address of a cursor. -/
def cursorAddr (v : Val) : Nat := (capCursor v.bits).toNat

/-- `cbound`: bounds of length `len` around the cursor (05 R111). -/
def cbound (v : Val) (len : Nat) : Val :=
  if v.tag ≠ .cap ∨ len > 4194303 * 2 ^ 31 then ⟨v.bits, .data⟩
  else
    let e := boundExp len
    let base' := alignDown (index v) e
    let l' := ceilDiv len (2 ^ e)
    if base' < capBase v.bits ∨ base' + (l' * 2 ^ e : Nat) > capTop v.bits then ⟨v.bits, .data⟩
    else ⟨capBits (capWalk v.bits) (capPerm v.bits) l' 0 e (cursorAddr v), .cap⟩

/-- `cand`: permissions not set in the mask are cleared (05 R110). -/
def cand (v : Val) (mask : BitVec 8) : Val :=
  let b := (v.bits.extractLsb' 121 7 ++ (capPerm v.bits &&& mask) ++ v.bits.extractLsb' 0 113 : BitVec 128)
  if v.tag = .cap then ⟨b, .cap⟩ else ⟨b, .data⟩

/-- `cset`: the cursor moves to an address (05 R110). -/
def cset (v : Val) (b : Word) : Val :=
  if b.extractLsb' 56 8 ≠ 0 ∨ v.tag ≠ .cap then dataWord b
  else moveTo v (indexOfAddr (capWalk v.bits) b.toNat)

/-- `cinc`: the cursor's index moves by a signed amount (05 R110). -/
def cinc (v : Val) (b : Word) : Val := moveTo v (index v + b.toInt)

/-- `cwset`: a walk descriptor over the whole mesh window (05 R112). -/
def cwset (mwb : Word) (v : Val) (w : BitVec 7) : Val :=
  let data : Val := ⟨(w ++ v.bits.extractLsb' 0 121 : BitVec 128), .data⟩
  let a := cursorAddr v
  if v.tag = .cap ∧ walkValid w ∧ mwb.toNat ≤ a ∧ a < mwb.toNat + 2 ^ 32 ∧
      capBase v.bits ≤ mwb.toNat ∧ (mwb.toNat + 2 ^ 32 : Nat) ≤ capTop v.bits then
    let i := indexOfAddr w a
    ⟨capBits w (capPerm v.bits) 2097152 ((i - mwb.toNat) / 2048) 11 a, .cap⟩
  else data

/-- `cwithin`: whether an access of B bytes at the cursor lies within the bounds (05 R113). -/
def cwithin (v : Val) (b : Word) : Bool :=
  decide (v.tag = .cap) && decide (capBase v.bits ≤ index v ∧ (index v + b.toNat : Int) ≤ capTop v.bits)

/-- `ccoord`: the coordinates of a cursor in the mesh window, or all ones (05 R109). -/
def ccoord (mwb : Word) (v : Val) : Word :=
  let a := cursorAddr v
  if mwb.toNat ≤ a ∧ a < mwb.toNat + 2 ^ 32 then BitVec.ofNat 64 ((a - mwb.toNat) / 2 ^ 19) else BitVec.allOnes 64

/-- An exit capability: a CAP with PERM = X alone, L = 0 and WALK = 0 (05 R122). -/
def isExit (v : Val) : Bool :=
  decide (v.tag = .cap) && capPerm v.bits == 4 && capL v.bits == 0 && capWalk v.bits == 0

end Sys2Proof.Machine
end

