-- ==== Sys2Proof/Machine/Flags.lean ====
section
/-! DEFINITION. Status and mode words, their fields and flag computations: sr.status (01 R26), sr.fmode
(02 R39), sr.fmt (02 R50), sr.gstat (08 R181), sr.done (18 R372), sr.jhead (18 R376), and the compare
and carry-free results of the integer forms. -/

namespace Sys2Proof.Machine

/-! ### sr.status (01 R26) -/

/-- PRIV, bits [1:0]: 0 U, 1 T, 2 S. -/
def statusPriv (w : Word) : BitVec 2 := w.extractLsb' 0 2

/-- IE, bit 2. -/
def statusIE (w : Word) : Bool := w.getLsbD 2

/-- PPRIV, bits [4:3]. -/
def statusPPriv (w : Word) : BitVec 2 := w.extractLsb' 3 2

/-- PIE, bit 5. -/
def statusPIE (w : Word) : Bool := w.getLsbD 5

/-- SSTEP, bit 6. -/
def statusSStep (w : Word) : Bool := w.getLsbD 6

/-- The status word with its fields given: KIND and SAMP are kept from `w`. -/
def statusWith (w : Word) (sstep pie : Bool) (ppriv : BitVec 2) (ie : Bool) (priv : BitVec 2) : Word :=
  (0#55 ++ w.extractLsb' 7 2 ++ BitVec.ofBool sstep ++ BitVec.ofBool pie ++ ppriv ++ BitVec.ofBool ie ++ priv : BitVec 64)

/-- The status after a trap entry (01 R32): PPRIV and PIE take PRIV and IE, IE is 0, PRIV is T. -/
def statusTrap (w : Word) : Word := statusWith w (statusSStep w) (statusIE w) (statusPriv w) false 1

/-- The status after `rett` (01 R33): PRIV and IE take PPRIV and PIE, PPRIV is U. -/
def statusRett (w : Word) : Word := statusWith w (statusSStep w) (statusPIE w) 0 (statusPIE w) (statusPPriv w)

/-! ### Sticky flags (02 R39, R42) -/

/-- No flag. -/
def Flags.zero : Flags := ⟨false, false, false, false, false⟩

/-- Both sets of flags. -/
def Flags.or (a b : Flags) : Flags := ⟨a.nv || b.nv, a.dz || b.dz, a.of || b.of, a.uf || b.uf, a.nx || b.nx⟩

/-- The flags in their places in sr.fmode: NV 6, DZ 5, OF 4, UF 3, NX 2. -/
def Flags.word (f : Flags) : Word :=
  (0#57 ++ BitVec.ofBool f.nv ++ BitVec.ofBool f.dz ++ BitVec.ofBool f.of ++ BitVec.ofBool f.uf ++ BitVec.ofBool f.nx ++ 0#2 : BitVec 64)

/-- RM, bits [1:0] of sr.fmode. -/
def fmodeRM (w : Word) : BitVec 2 := w.extractLsb' 0 2

/-! ### sr.fmt (02 R50) -/

/-- ET, bits [1:0]: 00 none, 01 q8, 10 q4. -/
def fmtET (w : Word) : BitVec 2 := w.extractLsb' 0 2

/-- GS, bits [3:2]. -/
def fmtGS (w : Word) : BitVec 2 := w.extractLsb' 2 2

/-- SF, bit 4: 0 FP16, 1 BF16. -/
def fmtSF (w : Word) : Bool := w.getLsbD 4

/-- ZP, bit 5. -/
def fmtZP (w : Word) : Bool := w.getLsbD 5

/-- The code width b of an element type: 8 for q8, 4 for q4 (02 R52). -/
def fmtBits (w : Word) : Nat := if fmtET w = 2 then 4 else 8

/-! ### Checks on written values -/

/-- A value sr.status refuses as an encoding (01 R27, first check). -/
def statusReserved (v : Word) : Bool := v.extractLsb' 9 55 != 0 || statusPPriv v == 3

/-- A value sr.status refuses as a privilege violation, written at a level (01 R27, second and third checks). -/
def statusForbidden (level : BitVec 2) (old v : Word) : Bool :=
  v.extractLsb' 0 2 != old.extractLsb' 0 2 || v.extractLsb' 7 2 != old.extractLsb' 7 2 ||
    (level == 1 && statusPPriv v == 2)

/-- A value sr.fmode refuses (02 R40). -/
def fmodeReserved (v : Word) : Bool := v.extractLsb' 7 57 != 0

/-- A value sr.fmt refuses (02 R51). -/
def fmtReserved (v : Word) : Bool := v.extractLsb' 6 58 != 0 || fmtGS v == 3 || fmtET v == 3

/-- A value sr.done refuses (18 R372). -/
def doneReserved (v : Word) : Bool := v.extractLsb' 37 27 != 0

/-- A breakpoint value that is refused (19 R403). -/
def bpReserved (v : Word) : Bool := v.extractLsb' 56 6 != 0 || v.getLsbD 0

/-- A watchpoint value that is refused (19 R404). -/
def wpReserved (v : Word) : Bool :=
  v.extractLsb' 56 2 != 0 || v.extractLsb' 58 3 == 7 || (v.extractLsb' 0 56).toNat % 2 ^ (v.extractLsb' 58 3).toNat != 0

/-- A sampling value that is refused (19 R406). -/
def psampReserved (v : Word) : Bool :=
  v.extractLsb' 32 30 != 0 || (v.getLsbD 63 && decide ((v.extractLsb' 0 32).toNat < 256))

/-- A mesh-window base that is refused (11 R219). -/
def mwbReserved (v : Word) : Bool := v.extractLsb' 0 32 != 0 || v.extractLsb' 56 8 != 0

/-- A shared-window base that is refused (11 R219). -/
def swbReserved (v : Word) : Bool := v.extractLsb' 0 35 != 0 || v.extractLsb' 56 8 != 0

/-- 1 or 0 as a word: the result of a comparison (05 R104). -/
def boolWord (b : Bool) : Word := if b then 1 else 0

end Sys2Proof.Machine
end

