-- ==== Sys2Proof/Machine/Fp.lean ====
section
/-! DEFINITION. Floating-point arithmetic on raw bits: the four formats (02 R37, R38), one rounding
(02 R41, R42), NaN propagation (02 R45, R46), and the exact operations of 06. A finite value is
(−1)^s · m · 2^e with m a natural number, so every sum and product is exact before it is rounded.
A quotient or root is taken to more bits than any format keeps, with a sticky bit for the rest. -/

namespace Sys2Proof.Machine

/-- A format: exponent bits and fraction bits (02 R37). -/
structure FpFmt where
  eb : Nat
  fb : Nat
  deriving DecidableEq, Repr

/-- FP64, FP32, FP16, BF16 by their type code t (04 R95). -/
def fpFmt (t : BitVec 2) : FpFmt :=
  match t.toNat with
  | 0 => ⟨11, 52⟩
  | 1 => ⟨8, 23⟩
  | 2 => ⟨5, 10⟩
  | _ => ⟨8, 7⟩

/-- FP32. -/
abbrev f32 : BitVec 2 := 1
/-- FP16. -/
abbrev f16 : BitVec 2 := 2
/-- BF16. -/
abbrev bf16 : BitVec 2 := 3

namespace FpFmt
/-- The bias. -/
def bias (f : FpFmt) : Nat := 2 ^ (f.eb - 1) - 1
/-- The width in bits. -/
def width (f : FpFmt) : Nat := 1 + f.eb + f.fb
/-- The exponent field of infinities and NaNs. -/
def emax (f : FpFmt) : Nat := 2 ^ f.eb - 1
/-- The exponent of the smallest normal value. -/
def emin (f : FpFmt) : Int := 1 - (f.bias : Int)
/-- The canonical quiet NaN (02 R37). -/
def qnan (f : FpFmt) : Nat := f.emax * 2 ^ f.fb + 2 ^ (f.fb - 1)
/-- An infinity. -/
def inf (f : FpFmt) (s : Bool) : Nat := s.toNat * 2 ^ (f.eb + f.fb) + f.emax * 2 ^ f.fb
/-- The largest finite value. -/
def maxFin (f : FpFmt) (s : Bool) : Nat := s.toNat * 2 ^ (f.eb + f.fb) + f.emax * 2 ^ f.fb - 1
/-- A zero. -/
def zero (f : FpFmt) (s : Bool) : Nat := s.toNat * 2 ^ (f.eb + f.fb)
/-- The low bits of the format. -/
def cut (f : FpFmt) (x : Nat) : Nat := x % 2 ^ f.width
/-- The sign. -/
def sign (f : FpFmt) (x : Nat) : Bool := x / 2 ^ (f.eb + f.fb) % 2 == 1
/-- The exponent field. -/
def exp (f : FpFmt) (x : Nat) : Nat := x / 2 ^ f.fb % 2 ^ f.eb
/-- The fraction field. -/
def frac (f : FpFmt) (x : Nat) : Nat := x % 2 ^ f.fb
/-- A NaN (02 R38). -/
def isNan (f : FpFmt) (x : Nat) : Bool := f.exp x == f.emax && f.frac x != 0
/-- A signalling NaN (02 R38). -/
def isSnan (f : FpFmt) (x : Nat) : Bool := f.isNan x && f.frac x / 2 ^ (f.fb - 1) == 0
/-- An infinity. -/
def isInf (f : FpFmt) (x : Nat) : Bool := f.exp x == f.emax && f.frac x == 0
/-- A zero. -/
def isZero (f : FpFmt) (x : Nat) : Bool := f.exp x == 0 && f.frac x == 0
/-- A subnormal. -/
def isSub (f : FpFmt) (x : Nat) : Bool := f.exp x == 0 && f.frac x != 0
/-- The significand m of a finite value. -/
def man (f : FpFmt) (x : Nat) : Nat := if f.exp x = 0 then f.frac x else 2 ^ f.fb + f.frac x
/-- The exponent e of a finite value m · 2^e. -/
def lsb (f : FpFmt) (x : Nat) : Int := (if f.exp x = 0 then 1 else (f.exp x : Int)) - f.bias - f.fb
/-- A NaN with its quiet bit set (02 R45). -/
def quiet (f : FpFmt) (x : Nat) : Nat := if f.frac x / 2 ^ (f.fb - 1) = 0 then x + 2 ^ (f.fb - 1) else x
end FpFmt

/-- A result, the flags it raises, and whether the exact result is non-zero and below the least normal
magnitude (02 R49). -/
structure FpRes where
  bits : Nat
  flags : Flags
  small : Bool
  deriving DecidableEq, Repr

/-- The number of bits of a natural number. -/
def bitLen (m : Nat) : Nat := if m = 0 then 0 else m.log2 + 1

/-- What a right shift drops: 0 nothing, 1 below half, 2 half, 3 above half of the last place kept. -/
def dropped (m sh : Nat) (sticky : Bool) : Nat :=
  if sh = 0 then (if sticky then 1 else 0)
  else
    let r := m % 2 ^ sh
    let h := 2 ^ (sh - 1)
    if r = 0 ∧ sticky = false then 0
    else if r < h then 1
    else if r = h ∧ sticky = false then 2
    else 3

/-- Whether a magnitude is rounded up in its last place (02 R41): mode 0 RNE, 1 RTZ, 2 RUP, 3 RDN. -/
def roundsUp (mode : BitVec 2) (s : Bool) (odd : Bool) (d : Nat) : Bool :=
  match mode.toNat with
  | 0 => d == 3 || (d == 2 && odd)
  | 1 => false
  | 2 => d != 0 && !s
  | _ => d != 0 && s

/-- A magnitude m·2^sh shifted right and rounded to an integer. -/
def roundShift (mode : BitVec 2) (s : Bool) (m sh : Nat) (sticky : Bool) : Nat :=
  let q := m / 2 ^ sh
  q + (roundsUp mode s (q % 2 == 1) (dropped m sh sticky)).toNat

/-- An overflowed result (02 R42). -/
def overflow (f : FpFmt) (mode : BitVec 2) (s : Bool) : Nat :=
  match mode.toNat with
  | 0 => f.inf s
  | 1 => f.maxFin s
  | 2 => if s then f.maxFin s else f.inf s
  | _ => if s then f.inf s else f.maxFin s

/-- RoundTo of a non-zero value (−1)^s · (m + δ) · 2^e, where 0 < δ < 1 if `sticky` and δ = 0 if not
(02 R41, R42). With `sticky`, m has more bits than the format. -/
def roundNz (f : FpFmt) (mode : BitVec 2) (s : Bool) (m : Nat) (e : Int) (sticky : Bool) : FpRes :=
  let top : Int := (bitLen m : Int) - 1 + e
  let at' (q : Int) : Nat × Nat :=
    if e ≤ q then
      let sh := (q - e).toNat
      (roundShift mode s m sh sticky, dropped m sh sticky)
    else (m * 2 ^ (e - q).toNat, 0)
  let (u, _) := at' (top - f.fb)
  let tiny := decide (top < f.emin) && !(decide (top = f.emin - 1) && u == 2 ^ (f.fb + 1))
  let q : Int := max (top - f.fb) (f.emin - f.fb)
  let (r, d) := at' q
  let (r, q) := if r = 2 ^ (f.fb + 1) then (2 ^ f.fb, q + 1) else (r, q)
  let inexact := d != 0
  let sg := s.toNat * 2 ^ (f.eb + f.fb)
  if r < 2 ^ f.fb then ⟨sg + r, ⟨false, false, false, tiny && inexact, inexact⟩, decide (top < f.emin)⟩
  else
    let be := q + f.fb + f.bias
    if be ≥ f.emax then ⟨overflow f mode s, ⟨false, false, true, false, true⟩, decide (top < f.emin)⟩
    else ⟨sg + be.toNat * 2 ^ f.fb + (r - 2 ^ f.fb), ⟨false, false, false, tiny && inexact, inexact⟩, decide (top < f.emin)⟩

/-- The sign of an exact zero sum (02 R41). -/
def zeroSumSign (mode : BitVec 2) (s1 s2 : Bool) : Bool := if s1 = s2 then s1 else mode == 3

/-- The exact sum of two finite values, rounded once. -/
def addExact (f : FpFmt) (mode : BitVec 2) (s1 : Bool) (m1 : Nat) (e1 : Int) (s2 : Bool) (m2 : Nat) (e2 : Int) : FpRes :=
  let e := min e1 e2
  let a : Nat := m1 * 2 ^ (e1 - e).toNat
  let b : Nat := m2 * 2 ^ (e2 - e).toNat
  let v : Int := (if s1 then -(a : Int) else a) + (if s2 then -(b : Int) else b)
  if v = 0 then ⟨f.zero (zeroSumSign mode (s1) (s2)), Flags.zero, false⟩
  else roundNz f mode (decide (v < 0)) v.natAbs e false

/-- NV alone. -/
def flagNV : Flags := ⟨true, false, false, false, false⟩
/-- NX alone. -/
def flagNX : Flags := ⟨false, false, false, false, true⟩
/-- NV or none. -/
def nvIf (b : Bool) : Flags := if b then flagNV else Flags.zero

/-- The first NaN among the operands, made quiet, and whether one of them signals (02 R45). -/
def propagate (f : FpFmt) (ops : List Nat) : Option FpRes :=
  match ops.find? f.isNan with
  | some x => some ⟨f.quiet x, nvIf (ops.any f.isSnan), false⟩
  | none => none

/-- The canonical NaN with NV. -/
def invalid (f : FpFmt) : FpRes := ⟨f.qnan, flagNV, false⟩

/-- A sum whose terms may be infinite (02 R42, R45; 06 R128). -/
def addTerms (f : FpFmt) (mode : BitVec 2) (i1 s1 : Bool) (m1 : Nat) (e1 : Int) (i2 s2 : Bool) (m2 : Nat) (e2 : Int) : FpRes :=
  if i1 && i2 then (if s1 = s2 then ⟨f.inf s1, Flags.zero, false⟩ else invalid f)
  else if i1 then ⟨f.inf s1, Flags.zero, false⟩
  else if i2 then ⟨f.inf s2, Flags.zero, false⟩
  else addExact f mode s1 m1 e1 s2 m2 e2

/-- `fadd` and, with `neg`, `fsub` (06 R128). -/
def fpAdd (f : FpFmt) (mode : BitVec 2) (neg : Bool) (a b : Nat) : FpRes :=
  match propagate f [a, b] with
  | some r => r
  | none => addTerms f mode (f.isInf a) (f.sign a) (f.man a) (f.lsb a) (f.isInf b) (f.sign b != neg) (f.man b) (f.lsb b)

/-- `fmul` (06 R128). -/
def fpMul (f : FpFmt) (mode : BitVec 2) (a b : Nat) : FpRes :=
  match propagate f [a, b] with
  | some r => r
  | none =>
    let s := f.sign a != f.sign b
    if f.isInf a || f.isInf b then (if f.isZero a || f.isZero b then invalid f else ⟨f.inf s, Flags.zero, false⟩)
    else if f.isZero a || f.isZero b then ⟨f.zero s, Flags.zero, false⟩
    else roundNz f mode s (f.man a * f.man b) (f.lsb a + f.lsb b) false

/-- The fused forms (06 R128): (negD d) + (negP (a × b)), one rounding. -/
def fpFma (f : FpFmt) (mode : BitVec 2) (negD negP : Bool) (a b d : Nat) : FpRes :=
  let bad := (f.isInf a && f.isZero b) || (f.isZero a && f.isInf b)
  match propagate f [a, b, d] with
  | some r => ⟨r.bits, r.flags.or (nvIf bad), false⟩
  | none =>
    if bad then invalid f
    else
      addTerms f mode (f.isInf d) (f.sign d != negD) (f.man d) (f.lsb d)
        (f.isInf a || f.isInf b) ((f.sign a != f.sign b) != negP) (f.man a * f.man b) (f.lsb a + f.lsb b)

/-- A non-zero quotient (n/d)·2^e rounded once: the quotient has more bits than any format. -/
def divExact (f : FpFmt) (mode : BitVec 2) (s : Bool) (n d : Nat) (e : Int) : FpRes :=
  let k := f.fb + 8 + bitLen d - bitLen n
  let q := n * 2 ^ k / d
  roundNz f mode s q (e - k) (decide (n * 2 ^ k % d ≠ 0))

/-- `fdiv` (06 R129). -/
def fpDiv (f : FpFmt) (mode : BitVec 2) (a b : Nat) : FpRes :=
  match propagate f [a, b] with
  | some r => r
  | none =>
    let s := f.sign a != f.sign b
    if f.isInf a then (if f.isInf b then invalid f else ⟨f.inf s, Flags.zero, false⟩)
    else if f.isInf b then ⟨f.zero s, Flags.zero, false⟩
    else if f.isZero b then (if f.isZero a then invalid f else ⟨f.inf s, ⟨false, true, false, false, false⟩, false⟩)
    else if f.isZero a then ⟨f.zero s, Flags.zero, false⟩
    else divExact f mode s (f.man a) (f.man b) (f.lsb a - f.lsb b)

/-- The integer square root by trial bits, highest first: `n` bits, the root so far. -/
def isqrtGo (x : Nat) : Nat → Nat → Nat
  | 0, r => r
  | n + 1, r => let r' := r + 2 ^ n; if r' * r' ≤ x then isqrtGo x n r' else isqrtGo x n r

/-- The integer square root. -/
def isqrt (x : Nat) : Nat := isqrtGo x (bitLen x / 2 + 1) 0

/-- `fsqrt` (06 R129). -/
def fpSqrt (f : FpFmt) (mode : BitVec 2) (a : Nat) : FpRes :=
  match propagate f [a] with
  | some r => r
  | none =>
    if f.isZero a then ⟨a, Flags.zero, false⟩
    else if f.sign a then invalid f
    else if f.isInf a then ⟨a, Flags.zero, false⟩
    else
      let e := f.lsb a
      let odd := (e % 2).toNat
      let k := f.fb + 8
      let m := f.man a * 2 ^ (odd + 2 * k)
      let r := isqrt m
      roundNz f mode false r ((e - odd) / 2 - k) (decide (r * r ≠ m))

/-- ln 2 · 2^320, rounded down. -/
def ln2Fix : Nat := 0xB17217F7D1CF79ABC9E3B39803F2F6AF40F343267298B62D8A0D175B8BAAFA2BE7B876206DEBAC98

/-- The sum of the Taylor terms of exp, in units of 2^−320: `n` more terms from term `t` of index `k`. -/
def expTerms (x : Nat) : Nat → Nat → Nat → Nat → Nat
  | 0, _, _, acc => acc
  | n + 1, k, t, acc => expTerms x n (k + 1) (t * x / 2 ^ 320 / (k + 1)) (acc + t)

/-- `fexp2` on a finite non-zero FP32 value (06 R129): 2^a to 288 bits, then one rounding (log 6). -/
def fpExp2 (mode : BitVec 2) (a : Nat) : FpRes :=
  let f := fpFmt f32
  match propagate f [a] with
  | some r => r
  | none =>
    if f.isZero a then ⟨1065353216, Flags.zero, false⟩
    else if f.isInf a then ⟨if f.sign a then 0 else a, Flags.zero, false⟩
    else
      let e := f.lsb a
      let m := f.man a
      -- a in units of 2^−160, then its integer part, beyond ±2048 of no further effect, and its fraction
      let v : Int := if e ≥ 8 then (if f.sign a then -(2 ^ 200 : Nat) else (2 ^ 200 : Nat))
        else (if f.sign a then -1 else 1) * ((m * 2 ^ (e + 160).toNat : Nat) : Int)
      let n : Int := max (-2048) (min 2048 (v / (2 ^ 160 : Nat)))
      let fr := (v % (2 ^ 160 : Nat)).toNat
      if fr = 0 then roundNz f mode false 1 n false
      else
        let y := expTerms (fr * ln2Fix / 2 ^ 160) 80 0 (2 ^ 320) 0
        roundNz f mode false (y / 2 ^ 32) (n - 288) true

/-- The bits of log2 z for z = z'/2^600 in [1, 2), by repeated squaring: `n` bits more. -/
def log2Bits : Nat → Nat → Nat → Nat
  | 0, _, acc => acc
  | n + 1, z, acc =>
    let q := z * z / 2 ^ 600
    if q < 2 ^ 601 then log2Bits n q (2 * acc) else log2Bits n (q / 2) (2 * acc + 1)

/-- `flog2` on FP32 (06 R129): log2 a to 256 fraction bits, then one rounding (log 6). -/
def fpLog2 (mode : BitVec 2) (a : Nat) : FpRes :=
  let f := fpFmt f32
  match propagate f [a] with
  | some r => r
  | none =>
    if f.isZero a then ⟨f.inf true, ⟨false, true, false, false, false⟩, false⟩
    else if f.sign a then invalid f
    else if f.isInf a then ⟨a, Flags.zero, false⟩
    else
      let m := f.man a
      let k := bitLen m - 1
      let n : Int := f.lsb a + k
      if m = 2 ^ k then
        (if n = 0 then ⟨0, Flags.zero, false⟩ else roundNz f mode (decide (n < 0)) n.natAbs 0 false)
      else
        let fr := log2Bits 256 (m * 2 ^ (600 - k)) 0
        let v : Int := n * (2 ^ 256 : Nat) + fr
        if v < 0 then roundNz f mode true (-v - 1).toNat (-256) true
        else roundNz f mode false v.toNat (-256) true

/-- The order of two values that are not NaN: the integer they stand for in sign and magnitude. -/
def fpKey (f : FpFmt) (a : Nat) : Int := if f.sign a then -((a % 2 ^ (f.eb + f.fb) : Nat) : Int) else (a : Int)

/-- `fmin` and, with `mx`, `fmax` (02 R48; 06 R130): −0 orders below +0. -/
def fpMinMax (f : FpFmt) (mx : Bool) (a b : Nat) : FpRes :=
  match propagate f [a, b] with
  | some r => r
  | none =>
    let lt := decide (fpKey f a < fpKey f b) || (decide (fpKey f a = fpKey f b) && f.sign a)
    ⟨if lt != mx then a else b, Flags.zero, false⟩

/-- Value equality of values that are not NaN: −0 = +0 (06 R132). -/
def fpEq (f : FpFmt) (a b : Nat) : Bool := decide (fpKey f a = fpKey f b)
/-- Value order of values that are not NaN (06 R132). -/
def fpLt (f : FpFmt) (a b : Nat) : Bool := decide (fpKey f a < fpKey f b)

/-- The comparisons (06 R132): 0 `fceq`, 1 `fclt`, 2 `fcle`, 3 `fcun`. -/
def fpCompare (f : FpFmt) (c : Nat) (a b : Nat) : FpRes :=
  let nan := f.isNan a || f.isNan b
  let snan := f.isSnan a || f.isSnan b
  match c with
  | 0 => ⟨(!nan && fpEq f a b).toNat, nvIf snan, false⟩
  | 1 => ⟨(!nan && fpLt f a b).toNat, nvIf nan, false⟩
  | 2 => ⟨(!nan && (fpLt f a b || fpEq f a b)).toNat, nvIf nan, false⟩
  | _ => ⟨nan.toNat, nvIf snan, false⟩

/-- `fclass`: the one-hot class (06 R133). -/
def fpClass (f : FpFmt) (a : Nat) : Nat :=
  let s := f.sign a
  if f.isNan a then (if f.isSnan a then 256 else 512)
  else if f.isInf a then (if s then 1 else 128)
  else if f.isZero a then (if s then 8 else 16)
  else if f.isSub a then (if s then 4 else 32)
  else (if s then 2 else 64)

/-- A finite magnitude m·2^e rounded to an integer (02 R41), and whether that is inexact. -/
def roundInt (mode : BitVec 2) (s : Bool) (m : Nat) (e : Int) : Nat × Bool :=
  if e ≥ 0 then (m * 2 ^ e.toNat, false)
  else (roundShift mode s m (-e).toNat false, dropped m (-e).toNat false != 0)

/-- `fround` (06 R134). -/
def fpRound (f : FpFmt) (mode : BitVec 2) (a : Nat) : FpRes :=
  match propagate f [a] with
  | some r => r
  | none =>
    if f.isInf a || f.isZero a || decide (f.lsb a ≥ 0) then ⟨a, Flags.zero, false⟩
    else
      let (r, x) := roundInt mode (f.sign a) (f.man a) (f.lsb a)
      let fl : Flags := if x then flagNX else Flags.zero
      if r = 0 then ⟨f.zero (f.sign a), fl, false⟩
      else ⟨(roundNz f 1 (f.sign a) r 0 false).bits, fl, false⟩

/-- A NaN carried into another format (02 R46). -/
def carryNan (src dst : FpFmt) (a : Nat) : Nat :=
  let fr := if dst.fb ≤ src.fb then src.frac a / 2 ^ (src.fb - dst.fb) else src.frac a * 2 ^ (dst.fb - src.fb)
  let q := if fr / 2 ^ (dst.fb - 1) % 2 = 0 then fr + 2 ^ (dst.fb - 1) else fr
  (src.sign a).toNat * 2 ^ (dst.eb + dst.fb) + dst.emax * 2 ^ dst.fb + q

/-- `fcvt.ff` (06 R136). -/
def fpConvert (src dst : FpFmt) (mode : BitVec 2) (a : Nat) : FpRes :=
  if src.isNan a then ⟨carryNan src dst a, nvIf (src.isSnan a), false⟩
  else if src.isInf a then ⟨dst.inf (src.sign a), Flags.zero, false⟩
  else if src.isZero a then ⟨dst.zero (src.sign a), Flags.zero, false⟩
  else roundNz dst mode (src.sign a) (src.man a) (src.lsb a) false

/-- The width of an integer type code (06 R135). -/
def intWidth (c : BitVec 3) : Nat := 8 * 2 ^ (c.toNat % 4)
/-- A signed integer type code (06 R135). -/
def intSigned (c : BitVec 3) : Bool := decide (c.toNat < 4)
/-- The least value of an integer type (02 R35). -/
def intMin (c : BitVec 3) : Int := if intSigned c then -((2 ^ (intWidth c - 1) : Nat) : Int) else 0
/-- The greatest value of an integer type (02 R35). -/
def intMax (c : BitVec 3) : Int := if intSigned c then (2 ^ (intWidth c - 1) : Nat) - 1 else (2 ^ intWidth c : Nat) - 1

/-- `fcvt.fi` (06 R137): the 64-bit result and its flags. -/
def fpToInt (f : FpFmt) (mode : BitVec 2) (c : BitVec 3) (a : Nat) : Word × Flags :=
  if f.isNan a then (0, flagNV)
  else if f.isInf a then (BitVec.ofInt 64 (if f.sign a then intMin c else intMax c), flagNV)
  else
    let (r, x) := roundInt mode (f.sign a) (f.man a) (f.lsb a)
    let v : Int := if f.sign a then -(r : Int) else r
    if v < intMin c then (BitVec.ofInt 64 (intMin c), flagNV)
    else if v > intMax c then (BitVec.ofInt 64 (intMax c), flagNV)
    else (BitVec.ofInt 64 v, if x then flagNX else Flags.zero)

/-- The integer an operand holds under a type code (06 R138). -/
def intOperand (c : BitVec 3) (a : Word) : Int :=
  let w := intWidth c
  let n := a.toNat % 2 ^ w
  if intSigned c && decide (2 ^ (w - 1) ≤ n) then (n : Int) - (2 ^ w : Nat) else n

/-- `fcvt.if` (06 R138). -/
def fpOfInt (f : FpFmt) (mode : BitVec 2) (v : Int) : FpRes :=
  if v = 0 then ⟨0, Flags.zero, false⟩ else roundNz f mode (decide (v < 0)) v.natAbs 0 false

/-- Whether a form meets a subnormal (02 R49): an operand or the exact result below min normal. -/
def meetsSub (f : FpFmt) (ops : List Nat) (r : FpRes) : Bool :=
  ops.any f.isSub || r.small

/-- Whether bits are a NaN or an infinity. -/
def notFinite (f : FpFmt) (a : Nat) : Bool := f.exp a == f.emax

/-- A result with every NaN canonical and no flag kept (02 R47). -/
def canonical (f : FpFmt) (r : FpRes) : Nat := if f.isNan r.bits then f.qnan else r.bits

/-- A finite value as a fraction n/2^k with sign: the exact value used by 02 R53 and R54. -/
def fpRat (f : FpFmt) (a : Nat) : Int × Int := (if f.sign a then -(f.man a : Int) else f.man a, f.lsb a)

end Sys2Proof.Machine
end

