-- ==== Sys2Proof/Machine/Operands.lean ====
section
/-! DEFINITION. What an instruction's encoding says of its operands and class: the sources it reads, the
register it writes, whether it is short (04 R84), whether it has a side effect (04 R89, widened by
09 R186, 13 R262, 16 R322, 17 R354, 19 R391, 23 R449), its role class (07 R157), the core kind that
refuses it (09 R187, 16 R323, 23 R454) and the lowest level that may issue it (19 R391). -/

namespace Sys2Proof.Machine

/-- The role classes of 07 R157. -/
inductive Class where
  | common
  | matrix
  | copy
  | vector
  deriving DecidableEq, Repr

/-- The source codes an instruction reads (04 R81, R97), in the order a, b, d: registers 0 to 55,
latches 56 to 63. A literal is none (04 R82). -/
def srcs : Instr → List (BitVec 6)
  | .add b a _ _ _ => [a, b]
  | .sub b a _ _ _ => [a, b]
  | .mul b a _ _ _ => [a, b]
  | .mulhI b a _ _ _ => [a, b]
  | .mulhN b a _ _ _ => [a, b]
  | .divI b a _ _ => [a, b]
  | .divN b a _ _ => [a, b]
  | .remI b a _ _ => [a, b]
  | .remN b a _ _ => [a, b]
  | .and b a _ _ _ => [a, b]
  | .or b a _ _ _ => [a, b]
  | .xor b a _ _ _ => [a, b]
  | .andn b a _ _ _ => [a, b]
  | .shl b a _ _ _ => [a, b]
  | .shr b a _ _ _ => [a, b]
  | .sar b a _ _ _ => [a, b]
  | .rol b a _ _ _ => [a, b]
  | .ror b a _ _ _ => [a, b]
  | .clz a _ _ _ => [a]
  | .ctz a _ _ _ => [a]
  | .popc a _ _ _ => [a]
  | .minI b a _ _ _ => [a, b]
  | .maxI b a _ _ _ => [a, b]
  | .minN b a _ _ _ => [a, b]
  | .maxN b a _ _ _ => [a, b]
  | .seq b a _ _ _ => [a, b]
  | .sne b a _ _ _ => [a, b]
  | .sltI b a _ _ _ => [a, b]
  | .sltN b a _ _ _ => [a, b]
  | .sel b a _ d _ => [a, b, d]
  | .sext _ a _ _ _ => [a]
  | .zext _ a _ _ _ => [a]
  | .bfx b a _ _ _ => [a, b]
  | .bfi b a _ d _ => [a, b, d]
  | .mov a _ _ _ => [a]
  | .rng b a _ _ _ => [a, b]
  | .cbase a _ _ _ => [a]
  | .ctop a _ _ _ => [a]
  | .clen a _ _ _ => [a]
  | .cperm a _ _ _ => [a]
  | .cwalk a _ _ _ => [a]
  | .ctag a _ _ _ => [a]
  | .cbound b a _ _ _ => [a, b]
  | .cand b a _ _ _ => [a, b]
  | .cwset b a _ _ _ => [a, b]
  | .cset b a _ _ _ => [a, b]
  | .cinc b a _ _ _ => [a, b]
  | .cdiff b a _ _ _ => [a, b]
  | .cclr a _ _ _ => [a]
  | .cwithin b a _ _ _ => [a, b]
  | .ccoord a _ _ _ => [a]
  | .jr a _ => [a]
  | .callr a _ => [a]
  | .ret a _ => [a]
  | .symWait a _ => [a]
  | .symTest a _ _ => [a]
  | .xput a _ => [a]
  | .xget _ _ => []
  | .fadd b a _ _ _ _ => [a, b]
  | .fsub b a _ _ _ _ => [a, b]
  | .fmul b a _ _ _ _ => [a, b]
  | .fma b a _ d _ _ => [a, b, d]
  | .fms b a _ d _ _ => [a, b, d]
  | .fnma b a _ d _ _ => [a, b, d]
  | .fdiv b a _ _ _ => [a, b]
  | .fsqrt a _ _ _ => [a]
  | .fexp2 a _ _ => [a]
  | .flog2 a _ _ => [a]
  | .fmin b a _ _ _ _ => [a, b]
  | .fmax b a _ _ _ _ => [a, b]
  | .fabs a _ _ _ _ => [a]
  | .fneg a _ _ _ _ => [a]
  | .fsgn b a _ _ _ _ => [a, b]
  | .fceq b a _ _ _ _ => [a, b]
  | .fclt b a _ _ _ _ => [a, b]
  | .fcle b a _ _ _ _ => [a, b]
  | .fcun b a _ _ _ _ => [a, b]
  | .fclass a _ _ _ _ => [a]
  | .fround a _ _ _ _ => [a]
  | .fcvtFf _ a _ _ _ _ => [a]
  | .fcvtFi _ _ a _ _ _ _ => [a]
  | .fcvtIf _ a _ _ _ _ => [a]
  | .fmtSet a => [a]
  | .fmtGet _ _ => []
  | .qmax b a _ _ => [a, b]
  | .qscale a _ _ => [a]
  | .quant b a _ _ => [a, b]
  | .dequant b a _ _ => [a, b]
  | .salient b a _ _ => [a, b]
  | .laneId _ => []
  | .laneGet b a _ => [a, b]
  | .laneRise b a _ => [a, b]
  | .laneFall b a _ => [a, b]
  | .laneFlip b a _ => [a, b]
  | .laneAny a _ => [a]
  | .laneAll a _ => [a]
  | .laneBits a _ => [a]
  | .redAddI a _ => [a]
  | .redAddF32 a _ => [a]
  | .redMaxF32 a _ => [a]
  | .redMinF32 a _ => [a]
  | .scanAddI a _ => [a]
  | .intersect b a _ => [a, b]
  | .join => []
  | .regang => []
  | .mAnd _ _ _ => []
  | .mOr _ _ _ => []
  | .mNot _ _ => []
  | .mMov _ _ => []
  | .mMovFromK a _ => [a]
  | .mMovToK _ _ => []
  | .mMovActive _ => []
  | .gcall b a => [a, b]
  | .gret a => [a]
  | .gflush a => [a]
  | .semP _ => []
  | .semV _ => []
  | .sregRd _ _ => []
  | .sregWr _ a => [a]
  | .barMax b a _ => [a, b]
  | .ringArrive _ _ => []
  | .ringWait _ _ _ => []
  | .step => []
  | .wait b a _ => [a, b]
  | .ldFe a _ _ => [a]
  | .ldFf a _ _ => [a]
  | .stEf b a _ => [a, b]
  | .stFf b a _ => [a, b]
  | .feSet _ a _ => [a]
  | .amoAdd b a _ _ _ => [a, b]
  | .amoMinI b a _ _ _ => [a, b]
  | .amoMaxI b a _ _ _ => [a, b]
  | .amoMinN b a _ _ _ => [a, b]
  | .amoMaxN b a _ _ _ => [a, b]
  | .amoAnd b a _ _ _ => [a, b]
  | .amoOr b a _ _ _ => [a, b]
  | .amoXor b a _ _ _ => [a, b]
  | .amoSwap b a _ _ _ => [a, b]
  | .amoCas b a d _ _ => [a, b, d]
  | .amoFaddF32 b a _ _ => [a, b]
  | .amoFaddBf16 b a _ _ => [a, b]
  | .bankAddF32 b a => [a, b]
  | .bankAddBf16 b a => [a, b]
  | .bankMaxF32 b a => [a, b]
  | .bankAxpyF32 b a => [a, b]
  | .bankSumF32 a _ => [a]
  | .fence _ => []
  | .ldSc a _ _ => [a]
  | .stSc b a _ => [a, b]
  | .agBind b _ => [b]
  | .agUnbind _ => []
  | .agPos _ _ => []
  | .agDrain _ => []
  | .send b a _ => [a, b]
  | .sendR b a _ => [a, b]
  | .recv a _ _ => [a]
  | .poll a _ _ => [a]
  | .ccClean a _ => [a]
  | .ccInval a _ => [a]
  | .ccZero a _ => [a]
  | .pf a _ => [a]
  | .mma _ => []
  | .mmaPair _ => []
  | .mmaPack _ => []
  | .mmaWait _ => []
  | .accZero _ => []
  | .accLd b _ => [b]
  | .accSt b _ => [b]
  | .accOut b _ => [b]
  | .mskLd b _ => [b]
  | .cpy => []
  | .cpyWait a => [a]
  | .pfkLd b a => [a, b]
  | .pfkArm b a => [a, b]
  | .coll => []
  | .evqRd _ => []
  | .evqWait _ => []
  | .engFence => []
  | .spawn a _ => [a]
  | .taskDec a => [a]
  | .taskCtr a => [a]
  | .rsOpen b a _ => [a, b]
  | .rsRd b a => [a, b]
  | .rsWr b a => [a, b]
  | .rsSnap b a => [a, b]
  | .rsRoll b a => [a, b]
  | .rsFork b a _ => [a, b]
  | .rsDrop a => [a]
  | .rsPos a _ => [a]
  | .btPrep b a _ => [a, b]
  | .btCommit a _ => [a]
  | .migrate a _ => [a]
  | .ptTrunc b a _ => [a, b]
  | .trap _ _ => []
  | .rett => []
  | .srRd _ _ => []
  | .srWr _ a => [a]
  | .crewPeek a _ => [a]
  | .crewPoke b a => [a, b]
  | .crewResume b a => [a, b]
  | .crewKill a => [a]
  | .tlbInval b a => [a, b]
  | .brk => []
  | .halt => []
  | .addi _ a _ _ _ => [a]
  | .andi _ a _ _ _ => [a]
  | .ori _ a _ _ _ => [a]
  | .xori _ a _ _ _ => [a]
  | .shli _ a _ _ _ => [a]
  | .shri _ a _ _ _ => [a]
  | .sari _ a _ _ _ => [a]
  | .sltiI _ a _ _ _ => [a]
  | .sltiN _ a _ _ _ => [a]
  | .muli _ a _ _ _ => [a]
  | .ldi _ _ _ _ => []
  | .bEq _ a d _ => [a, d]
  | .bNe _ a d _ => [a, d]
  | .bLt _ a d _ => [a, d]
  | .bGe _ a d _ => [a, d]
  | .bLtn _ a d _ => [a, d]
  | .bGen _ a d _ => [a, d]
  | .cinci _ a _ _ _ => [a]
  | .split _ => []
  | .bar _ _ => []
  | .barArrive _ _ => []
  | .barWait _ _ => []
  | .ldI8 _ _ a _ _ => [a]
  | .ldN8 _ _ a _ _ => [a]
  | .ldI16 _ _ a _ _ => [a]
  | .ldN16 _ _ a _ _ => [a]
  | .ldI32 _ _ a _ _ => [a]
  | .ldN32 _ _ a _ _ => [a]
  | .ld64 _ _ a _ _ => [a]
  | .ld128 _ _ a _ _ => [a]
  | .st8 _ _ a d _ => [a, d]
  | .st16 _ _ a d _ => [a, d]
  | .st32 _ _ a d _ => [a, d]
  | .st64 _ _ a d _ => [a, d]
  | .st128 _ _ a d _ => [a, d]
  | .ldCap _ _ a _ _ => [a]
  | .stCap _ _ a d _ => [a, d]
  | .j _ => []
  | .call _ => []
  | .xset _ _ => []
  | .xcat _ _ => []
  | .nop => [0]
  | .compactMov q _ => [kc q]
  | .compactAdd q p => [kc p, kc q]
  | .compactSub q p => [kc p, kc q]
  | .compactAnd q p => [kc p, kc q]
  | .compactOr q p => [kc p, kc q]
  | .compactXor q p => [kc p, kc q]
  | .compactAddi _ p => [kc p]
  | .compactShli _ p => [kc p]
  | .compactShri _ p => [kc p]
  | .compactSari _ p => [kc p]
  | .compactLdi _ _ => []
  | .compactLd64 q _ => [kc q]
  | .compactSt64 q p => [kc q, kc p]
  | .compactLdI32 q _ => [kc q]
  | .compactSt32 q p => [kc q, kc p]
  | .compactCinci _ p => [kc p]
  | .bZ _ p => [kc p, 0]
  | .bNz _ p => [kc p, 0]
  | .jS _ _ => []
  | .compactRet => [55]
  | .compactSymWait p => [kc p]
  | .compactFaddF32 q p => [kc p, kc q]
  | .compactFmulF32 q p => [kc p, kc q]
  | .compactJr p => [kc p]
  | .asyncEventEntry _ => []
  | .registerMissSlotArrival _ _ _ => []
  | .symbolArrival _ _ _ => []
  | .localLoadCompletion _ => []
  | .longInstructionCompletion _ => []
  | .messageDeposit _ => []
  | .automaticDecrement _ => []
  | .pathSwitch _ => []
  | .watchdogExpiry _ => []
  | .mooringTimeLimit _ _ => []
  | .mooringPlacement _ _ => []
  | .mooringLoadingEnd _ _ => []
  | .gangReturnDelivery _ => []
  | .waitWake _ => []
  | .waitTimeLimit _ => []
  | .feQueuePerform _ => []
  | .feWaitDeadline _ => []
  | .messageArrival _ => []
  | .messageSpill _ => []
  | .spillMoveBack _ => []
  | .homeAccess _ => []
  | .postedAcknowledgement _ _ => []
  | .refusalArrival _ _ => []
  | .remoteRefusalTrap _ => []
  | .pageWalkCompletion _ => []
  | .scWindowPerform => []
  | .streamRunAheadFetch _ _ => []
  | .engineLineWrite _ _ => []
  | .mmaStart _ => []
  | .mmaRetire _ => []
  | .accFormPerform _ => []
  | .selfTestStart _ => []
  | .selfTestEnd _ _ => []
  | .copyStart _ => []
  | .copyCompletion _ => []
  | .eventRecordDrop _ => []
  | .prefetchKernelRun _ => []
  | .collectiveCompletion _ => []
  | .collectiveTimeLimit _ => []
  | .counterDecrement _ => []
  | .tenderWalkStart _ => []
  | .tenderWalkOffer _ => []
  | .readyQueueOffer _ => []
  | .passedOverLimit _ _ => []
  | .stateStoreRequest _ _ => []
  | .stateStoreAnswer _ => []
  | .stateStoreTransferCompletion _ _ => []
  | .preemption _ => []
  | .crewDrain _ => []
  | .switchStepEntry _ => []
  | .crewRestore _ _ => []
  | .pcSample _ => []
  | .dieOutOfService _ => []
  | .flitReceive _ _ _ => []
  | .ptpMessage _ => []
  | .lockAcquired => []
  | .holdoverEntry => []
  | .lightSlotDue _ => []
  | .dieMembershipChange _ _ _ => []
  | .dieShareAcknowledge _ _ => []
  | .launchAckDeadline _ => []
  | .launchControlFlit _ => []
  | .coordAckDeadline _ => []
  | .goTimeout _ => []
  | .replicaStage _ => []
  | .replicaDiscard _ => []
  | .replicaCommitApply _ => []
  | .btPrepAnswer _ => []
  | .btCommitAnswer _ => []
  | .migrateReserve _ => []
  | .identify _ _ _ => []
  | .loadObject _ _ _ => []
  | .createContext _ _ _ => []
  | .destroyContext _ _ _ => []
  | .map _ _ _ => []
  | .unmap _ _ _ => []
  | .setKeyInstall _ _ _ => []
  | .setKeyRemove _ _ _ => []
  | .setLight _ _ _ => []
  | .launch _ _ _ => []
  | .launchReply _ => []
  | .readEvents _ _ _ => []
  | .attest _ _ _ => []
  | .setPower _ _ _ => []
  | .resetFunction _ _ _ => []
  | .functionLevelReset _ => []
  | .hostBar2Read _ _ _ => []
  | .hostBar2Write _ _ _ => []
  | .hostRegisterWrite _ _ _ => []
  | .powerOn => []
  | .powerControlTick _ _ => []
  | .lampFrame _ => []
  | .lampTimeRecord _ => []
  | .evqWaitTimeLimit _ => []
  | .staleReplicaRestore _ _ => []
  | .instructionCacheLineArrival _ => []
  | .reservedEncoding _ _ => []
  | .taskDecBankAnswer _ => []
  | .unknownCommandCode _ _ _ _ => []
  | .srIovEnable _ => []

/-- The base register that a load or store advances (05 R114). -/
def bumpReg : Instr → Option (BitVec 6)
  | .ldI8 _ p a _ _ => if p then some a else none
  | .ldN8 _ p a _ _ => if p then some a else none
  | .ldI16 _ p a _ _ => if p then some a else none
  | .ldN16 _ p a _ _ => if p then some a else none
  | .ldI32 _ p a _ _ => if p then some a else none
  | .ldN32 _ p a _ _ => if p then some a else none
  | .ld64 _ p a _ _ => if p then some a else none
  | .ld128 _ p a _ _ => if p then some a else none
  | .ldCap _ p a _ _ => if p then some a else none
  | .st8 _ p a _ _ => if p then some a else none
  | .st16 _ p a _ _ => if p then some a else none
  | .st32 _ p a _ _ => if p then some a else none
  | .st64 _ p a _ _ => if p then some a else none
  | .st128 _ p a _ _ => if p then some a else none
  | .stCap _ p a _ _ => if p then some a else none
  | _ => none

/-- The register an instruction writes: none with N = 1 (04 R81, R84). -/
def dst : Instr → Option (BitVec 6)
  | .add _ _ n d _ => if n then none else some d
  | .sub _ _ n d _ => if n then none else some d
  | .mul _ _ n d _ => if n then none else some d
  | .mulhI _ _ n d _ => if n then none else some d
  | .mulhN _ _ n d _ => if n then none else some d
  | .divI _ _ d _ => some d
  | .divN _ _ d _ => some d
  | .remI _ _ d _ => some d
  | .remN _ _ d _ => some d
  | .and _ _ n d _ => if n then none else some d
  | .or _ _ n d _ => if n then none else some d
  | .xor _ _ n d _ => if n then none else some d
  | .andn _ _ n d _ => if n then none else some d
  | .shl _ _ n d _ => if n then none else some d
  | .shr _ _ n d _ => if n then none else some d
  | .sar _ _ n d _ => if n then none else some d
  | .rol _ _ n d _ => if n then none else some d
  | .ror _ _ n d _ => if n then none else some d
  | .clz _ n d _ => if n then none else some d
  | .ctz _ n d _ => if n then none else some d
  | .popc _ n d _ => if n then none else some d
  | .minI _ _ n d _ => if n then none else some d
  | .maxI _ _ n d _ => if n then none else some d
  | .minN _ _ n d _ => if n then none else some d
  | .maxN _ _ n d _ => if n then none else some d
  | .seq _ _ n d _ => if n then none else some d
  | .sne _ _ n d _ => if n then none else some d
  | .sltI _ _ n d _ => if n then none else some d
  | .sltN _ _ n d _ => if n then none else some d
  | .sel _ _ n d _ => if n then none else some d
  | .sext _ _ n d _ => if n then none else some d
  | .zext _ _ n d _ => if n then none else some d
  | .bfx _ _ n d _ => if n then none else some d
  | .bfi _ _ n d _ => if n then none else some d
  | .mov _ n d _ => if n then none else some d
  | .rng _ _ n d _ => if n then none else some d
  | .cbase _ n d _ => if n then none else some d
  | .ctop _ n d _ => if n then none else some d
  | .clen _ n d _ => if n then none else some d
  | .cperm _ n d _ => if n then none else some d
  | .cwalk _ n d _ => if n then none else some d
  | .ctag _ n d _ => if n then none else some d
  | .cbound _ _ n d _ => if n then none else some d
  | .cand _ _ n d _ => if n then none else some d
  | .cwset _ _ n d _ => if n then none else some d
  | .cset _ _ n d _ => if n then none else some d
  | .cinc _ _ n d _ => if n then none else some d
  | .cdiff _ _ n d _ => if n then none else some d
  | .cclr _ n d _ => if n then none else some d
  | .cwithin _ _ n d _ => if n then none else some d
  | .ccoord _ n d _ => if n then none else some d
  | .callr _ _ => some 55
  | .symTest _ d _ => some d
  | .xget _ d => some d
  | .fadd _ _ n d _ _ => if n then none else some d
  | .fsub _ _ n d _ _ => if n then none else some d
  | .fmul _ _ n d _ _ => if n then none else some d
  | .fma _ _ n d _ _ => if n then none else some d
  | .fms _ _ n d _ _ => if n then none else some d
  | .fnma _ _ n d _ _ => if n then none else some d
  | .fdiv _ _ d _ _ => some d
  | .fsqrt _ d _ _ => some d
  | .fexp2 _ d _ => some d
  | .flog2 _ d _ => some d
  | .fmin _ _ n d _ _ => if n then none else some d
  | .fmax _ _ n d _ _ => if n then none else some d
  | .fabs _ n d _ _ => if n then none else some d
  | .fneg _ n d _ _ => if n then none else some d
  | .fsgn _ _ n d _ _ => if n then none else some d
  | .fceq _ _ n d _ _ => if n then none else some d
  | .fclt _ _ n d _ _ => if n then none else some d
  | .fcle _ _ n d _ _ => if n then none else some d
  | .fcun _ _ n d _ _ => if n then none else some d
  | .fclass _ n d _ _ => if n then none else some d
  | .fround _ n d _ _ => if n then none else some d
  | .fcvtFf _ _ n d _ _ => if n then none else some d
  | .fcvtFi _ _ _ n d _ _ => if n then none else some d
  | .fcvtIf _ _ n d _ _ => if n then none else some d
  | .fmtGet d _ => some d
  | .qmax _ _ d _ => some d
  | .qscale _ d _ => some d
  | .quant _ _ d _ => some d
  | .dequant _ _ d _ => some d
  | .salient _ _ d _ => some d
  | .laneId d => some d
  | .laneGet _ _ d => some d
  | .laneRise _ _ d => some d
  | .laneFall _ _ d => some d
  | .laneFlip _ _ d => some d
  | .laneAny _ d => some d
  | .laneAll _ d => some d
  | .laneBits _ d => some d
  | .redAddI _ d => some d
  | .redAddF32 _ d => some d
  | .redMaxF32 _ d => some d
  | .redMinF32 _ d => some d
  | .scanAddI _ d => some d
  | .intersect _ _ d => some d
  | .mMovToK _ d => some d
  | .sregRd _ d => some d
  | .barMax _ _ d => some d
  | .wait _ _ d => some d
  | .ldFe _ d _ => some d
  | .ldFf _ d _ => some d
  | .amoAdd _ _ d _ _ => some d
  | .amoMinI _ _ d _ _ => some d
  | .amoMaxI _ _ d _ _ => some d
  | .amoMinN _ _ d _ _ => some d
  | .amoMaxN _ _ d _ _ => some d
  | .amoAnd _ _ d _ _ => some d
  | .amoOr _ _ d _ _ => some d
  | .amoXor _ _ d _ _ => some d
  | .amoSwap _ _ d _ _ => some d
  | .amoCas _ _ d _ _ => some d
  | .amoFaddF32 _ _ d _ => some d
  | .amoFaddBf16 _ _ d _ => some d
  | .bankSumF32 _ d => some d
  | .ldSc _ d _ => some d
  | .agPos _ d => some d
  | .recv _ d _ => some d
  | .poll _ d _ => some d
  | .evqRd d => some d
  | .evqWait d => some d
  | .spawn _ d => some d
  | .rsOpen _ _ d => some d
  | .rsFork _ _ d => some d
  | .rsPos _ d => some d
  | .btPrep _ _ d => some d
  | .btCommit _ d => some d
  | .migrate _ d => some d
  | .ptTrunc _ _ d => some d
  | .srRd _ d => some d
  | .crewPeek _ d => some d
  | .addi _ _ n d _ => if n then none else some d
  | .andi _ _ n d _ => if n then none else some d
  | .ori _ _ n d _ => if n then none else some d
  | .xori _ _ n d _ => if n then none else some d
  | .shli _ _ n d _ => if n then none else some d
  | .shri _ _ n d _ => if n then none else some d
  | .sari _ _ n d _ => if n then none else some d
  | .sltiI _ _ n d _ => if n then none else some d
  | .sltiN _ _ n d _ => if n then none else some d
  | .muli _ _ n d _ => if n then none else some d
  | .ldi _ n d _ => if n then none else some d
  | .cinci _ _ n d _ => if n then none else some d
  | .ldI8 _ _ _ d _ => some d
  | .ldN8 _ _ _ d _ => some d
  | .ldI16 _ _ _ d _ => some d
  | .ldN16 _ _ _ d _ => some d
  | .ldI32 _ _ _ d _ => some d
  | .ldN32 _ _ _ d _ => some d
  | .ld64 _ _ _ d _ => some d
  | .ld128 _ _ _ d _ => some d
  | .ldCap _ _ _ d _ => some d
  | .call _ => some 55
  | .nop => some 0
  | .compactMov _ p => some (kc p)
  | .compactAdd _ p => some (kc p)
  | .compactSub _ p => some (kc p)
  | .compactAnd _ p => some (kc p)
  | .compactOr _ p => some (kc p)
  | .compactXor _ p => some (kc p)
  | .compactAddi _ p => some (kc p)
  | .compactShli _ p => some (kc p)
  | .compactShri _ p => some (kc p)
  | .compactSari _ p => some (kc p)
  | .compactLdi _ p => some (kc p)
  | .compactLd64 _ p => some (kc p)
  | .compactLdI32 _ p => some (kc p)
  | .compactCinci _ p => some (kc p)
  | .compactFaddF32 _ p => some (kc p)
  | .compactFmulF32 _ p => some (kc p)
  | _ => none

/-- The short instructions, which enter the latch file (04 R84, R95, R98). -/
def isShort : Instr → Bool
  | .add _ _ _ _ _ => true
  | .sub _ _ _ _ _ => true
  | .mul _ _ _ _ _ => true
  | .mulhI _ _ _ _ _ => true
  | .mulhN _ _ _ _ _ => true
  | .and _ _ _ _ _ => true
  | .or _ _ _ _ _ => true
  | .xor _ _ _ _ _ => true
  | .andn _ _ _ _ _ => true
  | .shl _ _ _ _ _ => true
  | .shr _ _ _ _ _ => true
  | .sar _ _ _ _ _ => true
  | .rol _ _ _ _ _ => true
  | .ror _ _ _ _ _ => true
  | .clz _ _ _ _ => true
  | .ctz _ _ _ _ => true
  | .popc _ _ _ _ => true
  | .minI _ _ _ _ _ => true
  | .maxI _ _ _ _ _ => true
  | .minN _ _ _ _ _ => true
  | .maxN _ _ _ _ _ => true
  | .seq _ _ _ _ _ => true
  | .sne _ _ _ _ _ => true
  | .sltI _ _ _ _ _ => true
  | .sltN _ _ _ _ _ => true
  | .sel _ _ _ _ _ => true
  | .sext _ _ _ _ _ => true
  | .zext _ _ _ _ _ => true
  | .bfx _ _ _ _ _ => true
  | .bfi _ _ _ _ _ => true
  | .mov _ _ _ _ => true
  | .rng _ _ _ _ _ => true
  | .cbase _ _ _ _ => true
  | .ctop _ _ _ _ => true
  | .clen _ _ _ _ => true
  | .cperm _ _ _ _ => true
  | .cwalk _ _ _ _ => true
  | .ctag _ _ _ _ => true
  | .cbound _ _ _ _ _ => true
  | .cand _ _ _ _ _ => true
  | .cwset _ _ _ _ _ => true
  | .cset _ _ _ _ _ => true
  | .cinc _ _ _ _ _ => true
  | .cdiff _ _ _ _ _ => true
  | .cclr _ _ _ _ => true
  | .cwithin _ _ _ _ _ => true
  | .ccoord _ _ _ _ => true
  | .fadd _ _ _ _ _ _ => true
  | .fsub _ _ _ _ _ _ => true
  | .fmul _ _ _ _ _ _ => true
  | .fma _ _ _ _ _ _ => true
  | .fms _ _ _ _ _ _ => true
  | .fnma _ _ _ _ _ _ => true
  | .fmin _ _ _ _ _ _ => true
  | .fmax _ _ _ _ _ _ => true
  | .fabs _ _ _ _ _ => true
  | .fneg _ _ _ _ _ => true
  | .fsgn _ _ _ _ _ _ => true
  | .fceq _ _ _ _ _ _ => true
  | .fclt _ _ _ _ _ _ => true
  | .fcle _ _ _ _ _ _ => true
  | .fcun _ _ _ _ _ _ => true
  | .fclass _ _ _ _ _ => true
  | .fround _ _ _ _ _ => true
  | .fcvtFf _ _ _ _ _ _ => true
  | .fcvtFi _ _ _ _ _ _ _ => true
  | .fcvtIf _ _ _ _ _ _ => true
  | .addi _ _ _ _ _ => true
  | .andi _ _ _ _ _ => true
  | .ori _ _ _ _ _ => true
  | .xori _ _ _ _ _ => true
  | .shli _ _ _ _ _ => true
  | .shri _ _ _ _ _ => true
  | .sari _ _ _ _ _ => true
  | .sltiI _ _ _ _ _ => true
  | .sltiN _ _ _ _ _ => true
  | .muli _ _ _ _ _ => true
  | .ldi _ _ _ _ => true
  | .cinci _ _ _ _ _ => true
  | .nop => true
  | .compactMov _ _ => true
  | .compactAdd _ _ => true
  | .compactSub _ _ => true
  | .compactAnd _ _ => true
  | .compactOr _ _ => true
  | .compactXor _ _ => true
  | .compactAddi _ _ => true
  | .compactShli _ _ => true
  | .compactShri _ _ => true
  | .compactSari _ _ => true
  | .compactLdi _ _ => true
  | .compactCinci _ _ => true
  | .compactFaddF32 _ _ => true
  | .compactFmulF32 _ _ => true
  | _ => false

/-- The instructions with side effects (04 R89). -/
def sideEffect : Instr → Bool
  | .fmtSet _ => true
  | .gcall _ _ => true
  | .gret _ => true
  | .gflush _ => true
  | .semP _ => true
  | .semV _ => true
  | .sregWr _ _ => true
  | .barMax _ _ _ => true
  | .ringArrive _ _ => true
  | .ringWait _ _ _ => true
  | .step => true
  | .wait _ _ _ => true
  | .ldFe _ _ _ => true
  | .ldFf _ _ _ => true
  | .stEf _ _ _ => true
  | .stFf _ _ _ => true
  | .feSet _ _ _ => true
  | .amoAdd _ _ _ _ _ => true
  | .amoMinI _ _ _ _ _ => true
  | .amoMaxI _ _ _ _ _ => true
  | .amoMinN _ _ _ _ _ => true
  | .amoMaxN _ _ _ _ _ => true
  | .amoAnd _ _ _ _ _ => true
  | .amoOr _ _ _ _ _ => true
  | .amoXor _ _ _ _ _ => true
  | .amoSwap _ _ _ _ _ => true
  | .amoCas _ _ _ _ _ => true
  | .amoFaddF32 _ _ _ _ => true
  | .amoFaddBf16 _ _ _ _ => true
  | .bankAddF32 _ _ => true
  | .bankAddBf16 _ _ => true
  | .bankMaxF32 _ _ => true
  | .bankAxpyF32 _ _ => true
  | .bankSumF32 _ _ => true
  | .fence _ => true
  | .ldSc _ _ _ => true
  | .stSc _ _ _ => true
  | .agBind _ _ => true
  | .agUnbind _ => true
  | .agDrain _ => true
  | .send _ _ _ => true
  | .sendR _ _ _ => true
  | .recv _ _ _ => true
  | .ccClean _ _ => true
  | .ccInval _ _ => true
  | .ccZero _ _ => true
  | .mma _ => true
  | .mmaPair _ => true
  | .mmaPack _ => true
  | .mmaWait _ => true
  | .accZero _ => true
  | .accLd _ _ => true
  | .accSt _ _ => true
  | .accOut _ _ => true
  | .mskLd _ _ => true
  | .cpy => true
  | .cpyWait _ => true
  | .pfkLd _ _ => true
  | .pfkArm _ _ => true
  | .coll => true
  | .evqRd _ => true
  | .evqWait _ => true
  | .engFence => true
  | .spawn _ _ => true
  | .taskDec _ => true
  | .taskCtr _ => true
  | .rsOpen _ _ _ => true
  | .rsRd _ _ => true
  | .rsWr _ _ => true
  | .rsSnap _ _ => true
  | .rsRoll _ _ => true
  | .rsFork _ _ _ => true
  | .rsDrop _ => true
  | .rsPos _ _ => true
  | .btPrep _ _ _ => true
  | .btCommit _ _ => true
  | .migrate _ _ => true
  | .ptTrunc _ _ _ => true
  | .trap _ _ => true
  | .srWr _ _ => true
  | .crewPoke _ _ => true
  | .crewResume _ _ => true
  | .crewKill _ => true
  | .tlbInval _ _ => true
  | .brk => true
  | .halt => true
  | .bar _ _ => true
  | .barArrive _ _ => true
  | .barWait _ _ => true
  | .st8 _ _ _ _ _ => true
  | .st16 _ _ _ _ _ => true
  | .st32 _ _ _ _ _ => true
  | .st64 _ _ _ _ _ => true
  | .st128 _ _ _ _ _ => true
  | .stCap _ _ _ _ _ => true
  | .compactSt64 _ _ => true
  | .compactSt32 _ _ => true
  | _ => false

/-- The role class (07 R157). -/
def classOf : Instr → Class
  | .fadd _ _ _ _ _ _ => .vector
  | .fsub _ _ _ _ _ _ => .vector
  | .fmul _ _ _ _ _ _ => .vector
  | .fma _ _ _ _ _ _ => .vector
  | .fms _ _ _ _ _ _ => .vector
  | .fnma _ _ _ _ _ _ => .vector
  | .fdiv _ _ _ _ _ => .vector
  | .fsqrt _ _ _ _ => .vector
  | .fexp2 _ _ _ => .vector
  | .flog2 _ _ _ => .vector
  | .fmin _ _ _ _ _ _ => .vector
  | .fmax _ _ _ _ _ _ => .vector
  | .fabs _ _ _ _ _ => .vector
  | .fneg _ _ _ _ _ => .vector
  | .fsgn _ _ _ _ _ _ => .vector
  | .fceq _ _ _ _ _ _ => .vector
  | .fclt _ _ _ _ _ _ => .vector
  | .fcle _ _ _ _ _ _ => .vector
  | .fcun _ _ _ _ _ _ => .vector
  | .fclass _ _ _ _ _ => .vector
  | .fround _ _ _ _ _ => .vector
  | .fcvtFf _ _ _ _ _ _ => .vector
  | .fcvtFi _ _ _ _ _ _ _ => .vector
  | .fcvtIf _ _ _ _ _ _ => .vector
  | .fmtGet _ _ => .vector
  | .qmax _ _ _ _ => .vector
  | .qscale _ _ _ => .vector
  | .quant _ _ _ _ => .vector
  | .dequant _ _ _ _ => .vector
  | .salient _ _ _ _ => .vector
  | .redAddF32 _ _ => .vector
  | .redMaxF32 _ _ => .vector
  | .redMinF32 _ _ => .vector
  | .amoFaddF32 _ _ _ _ => .vector
  | .amoFaddBf16 _ _ _ _ => .vector
  | .bankAddF32 _ _ => .vector
  | .bankAddBf16 _ _ => .vector
  | .bankMaxF32 _ _ => .vector
  | .bankAxpyF32 _ _ => .vector
  | .bankSumF32 _ _ => .vector
  | .agBind _ _ => .copy
  | .agUnbind _ => .copy
  | .agPos _ _ => .copy
  | .agDrain _ => .copy
  | .mma _ => .matrix
  | .mmaPair _ => .matrix
  | .mmaPack _ => .matrix
  | .mmaWait _ => .matrix
  | .accZero _ => .matrix
  | .accLd _ _ => .matrix
  | .accSt _ _ => .matrix
  | .accOut _ _ => .matrix
  | .mskLd _ _ => .matrix
  | .cpy => .copy
  | .cpyWait _ => .copy
  | .pfkLd _ _ => .copy
  | .pfkArm _ _ => .copy
  | .compactFaddF32 _ _ => .vector
  | .compactFmulF32 _ _ => .vector
  | _ => .common

/-- The core kind that refuses the instruction (true: a G-core) and the cause (09 R187, 16 R323). -/
def kindTrap : Instr → Option (Bool × Nat)
  | .intersect _ _ _ => some (false, 0x20)
  | .regang => some (false, 0x20)
  | .gcall _ _ => some (true, 0x21)
  | .gret _ => some (false, 0x21)
  | .gflush _ => some (true, 0x21)
  | .semP _ => some (true, 0x20)
  | .semV _ => some (true, 0x20)
  | .sregRd _ _ => some (true, 0x20)
  | .sregWr _ _ => some (true, 0x20)
  | .mma _ => some (false, 0x20)
  | .mmaPair _ => some (false, 0x20)
  | .mmaPack _ => some (false, 0x20)
  | .mmaWait _ => some (false, 0x20)
  | .accZero _ => some (false, 0x20)
  | .accLd _ _ => some (false, 0x20)
  | .accSt _ _ => some (false, 0x20)
  | .accOut _ _ => some (false, 0x20)
  | .mskLd _ _ => some (false, 0x20)
  | .pfkLd _ _ => some (false, 0x20)
  | .pfkArm _ _ => some (false, 0x20)
  | .migrate _ _ => some (true, 0x20)
  | _ => none

/-- The lowest level that may issue the instruction: 0 U, 1 T, 2 S (19 R391). -/
def minLevel : Instr → Nat
  | .rett => 1
  | .crewPeek _ _ => 1
  | .crewPoke _ _ => 1
  | .crewResume _ _ => 1
  | .crewKill _ => 1
  | .tlbInval _ _ => 2
  | .halt => 1
  | _ => 0

/-- U = 1 (04 R83). -/
def isUniform : Instr → Bool
  | .add _ _ _ _ u => u
  | .sub _ _ _ _ u => u
  | .mul _ _ _ _ u => u
  | .mulhI _ _ _ _ u => u
  | .mulhN _ _ _ _ u => u
  | .divI _ _ _ u => u
  | .divN _ _ _ u => u
  | .remI _ _ _ u => u
  | .remN _ _ _ u => u
  | .and _ _ _ _ u => u
  | .or _ _ _ _ u => u
  | .xor _ _ _ _ u => u
  | .andn _ _ _ _ u => u
  | .shl _ _ _ _ u => u
  | .shr _ _ _ _ u => u
  | .sar _ _ _ _ u => u
  | .rol _ _ _ _ u => u
  | .ror _ _ _ _ u => u
  | .clz _ _ _ u => u
  | .ctz _ _ _ u => u
  | .popc _ _ _ u => u
  | .minI _ _ _ _ u => u
  | .maxI _ _ _ _ u => u
  | .minN _ _ _ _ u => u
  | .maxN _ _ _ _ u => u
  | .seq _ _ _ _ u => u
  | .sne _ _ _ _ u => u
  | .sltI _ _ _ _ u => u
  | .sltN _ _ _ _ u => u
  | .sel _ _ _ _ u => u
  | .sext _ _ _ _ u => u
  | .zext _ _ _ _ u => u
  | .bfx _ _ _ _ u => u
  | .bfi _ _ _ _ u => u
  | .mov _ _ _ u => u
  | .rng _ _ _ _ u => u
  | .cbase _ _ _ u => u
  | .ctop _ _ _ u => u
  | .clen _ _ _ u => u
  | .cperm _ _ _ u => u
  | .cwalk _ _ _ u => u
  | .ctag _ _ _ u => u
  | .cbound _ _ _ _ u => u
  | .cand _ _ _ _ u => u
  | .cwset _ _ _ _ u => u
  | .cset _ _ _ _ u => u
  | .cinc _ _ _ _ u => u
  | .cdiff _ _ _ _ u => u
  | .cclr _ _ _ u => u
  | .cwithin _ _ _ _ u => u
  | .ccoord _ _ _ u => u
  | .jr _ u => u
  | .callr _ u => u
  | .ret _ u => u
  | .symWait _ u => u
  | .symTest _ _ u => u
  | .fadd _ _ _ _ _ u => u
  | .fsub _ _ _ _ _ u => u
  | .fmul _ _ _ _ _ u => u
  | .fma _ _ _ _ _ u => u
  | .fms _ _ _ _ _ u => u
  | .fnma _ _ _ _ _ u => u
  | .fdiv _ _ _ _ u => u
  | .fsqrt _ _ _ u => u
  | .fexp2 _ _ u => u
  | .flog2 _ _ u => u
  | .fmin _ _ _ _ _ u => u
  | .fmax _ _ _ _ _ u => u
  | .fabs _ _ _ _ u => u
  | .fneg _ _ _ _ u => u
  | .fsgn _ _ _ _ _ u => u
  | .fceq _ _ _ _ _ u => u
  | .fclt _ _ _ _ _ u => u
  | .fcle _ _ _ _ _ u => u
  | .fcun _ _ _ _ _ u => u
  | .fclass _ _ _ _ u => u
  | .fround _ _ _ _ u => u
  | .fcvtFf _ _ _ _ _ u => u
  | .fcvtFi _ _ _ _ _ _ u => u
  | .fcvtIf _ _ _ _ _ u => u
  | .fmtGet _ u => u
  | .qmax _ _ _ u => u
  | .qscale _ _ u => u
  | .quant _ _ _ u => u
  | .dequant _ _ _ u => u
  | .salient _ _ _ u => u
  | .ldFe _ _ u => u
  | .ldFf _ _ u => u
  | .stEf _ _ u => u
  | .stFf _ _ u => u
  | .feSet _ _ u => u
  | .amoAdd _ _ _ _ u => u
  | .amoMinI _ _ _ _ u => u
  | .amoMaxI _ _ _ _ u => u
  | .amoMinN _ _ _ _ u => u
  | .amoMaxN _ _ _ _ u => u
  | .amoAnd _ _ _ _ u => u
  | .amoOr _ _ _ _ u => u
  | .amoXor _ _ _ _ u => u
  | .amoSwap _ _ _ _ u => u
  | .amoCas _ _ _ _ u => u
  | .amoFaddF32 _ _ _ u => u
  | .amoFaddBf16 _ _ _ u => u
  | .ldSc _ _ u => u
  | .stSc _ _ u => u
  | .send _ _ u => u
  | .sendR _ _ u => u
  | .recv _ _ u => u
  | .poll _ _ u => u
  | .ccClean _ u => u
  | .ccInval _ u => u
  | .ccZero _ u => u
  | .pf _ u => u
  | .addi _ _ _ _ u => u
  | .andi _ _ _ _ u => u
  | .ori _ _ _ _ u => u
  | .xori _ _ _ _ u => u
  | .shli _ _ _ _ u => u
  | .shri _ _ _ _ u => u
  | .sari _ _ _ _ u => u
  | .sltiI _ _ _ _ u => u
  | .sltiN _ _ _ _ u => u
  | .muli _ _ _ _ u => u
  | .ldi _ _ _ u => u
  | .bEq _ _ _ u => u
  | .bNe _ _ _ u => u
  | .bLt _ _ _ u => u
  | .bGe _ _ _ u => u
  | .bLtn _ _ _ u => u
  | .bGen _ _ _ u => u
  | .cinci _ _ _ _ u => u
  | .ldI8 _ _ _ _ u => u
  | .ldN8 _ _ _ _ u => u
  | .ldI16 _ _ _ _ u => u
  | .ldN16 _ _ _ _ u => u
  | .ldI32 _ _ _ _ u => u
  | .ldN32 _ _ _ _ u => u
  | .ld64 _ _ _ _ u => u
  | .ld128 _ _ _ _ u => u
  | .st8 _ _ _ _ u => u
  | .st16 _ _ _ _ u => u
  | .st32 _ _ _ _ u => u
  | .st64 _ _ _ _ u => u
  | .st128 _ _ _ _ u => u
  | .ldCap _ _ _ _ u => u
  | .stCap _ _ _ _ u => u
  | _ => false

/-- The op9 of an instruction, as the role trap reports it (07 R157); a compact form has that of its
32-bit instruction (04 R101). -/
def op9Of : Instr → Nat
  | .compactFaddF32 _ _ => 0x081
  | .compactFmulF32 _ _ => 0x089
  | i => i.word / 16 % 512

/-- An instruction reads a latch when a source field names one (04 R89). -/
def readsLatch (i : Instr) : Bool := (srcs i).any fun c => decide (56 ≤ c.toNat)

/-- The roles a class is allowed in (07 R157): 0 vector, 1 copy, 2 matrix. -/
def roleAllows (r : BitVec 2) : Class → Bool
  | .common => true
  | .matrix => r == 2
  | .copy => r == 1
  | .vector => r == 0

end Sys2Proof.Machine
end

