-- ==== Sys2Proof/Machine/Ops.lean ====
section
/-! DEFINITION. The named operations over groups, registers, cores and memory, trap entry and return
(01 R32, R33; 18 R366 to R368), symbols and their resolution (03 R63 to R73), and the operations
performed whole at a home (12 R246). Every meaning is written over these. -/

namespace Sys2Proof.Machine

/-! ### Lists as finite maps and sets -/

/-- The set with one more element, in rising order. -/
def setIns (a : Nat) : List Nat → List Nat
  | [] => [a]
  | x :: t => if a < x then a :: x :: t else if a = x then x :: t else x :: setIns a t

/-- The set without an element. -/
def setDel (a : Nat) : List Nat → List Nat
  | [] => []
  | x :: t => if a = x then t else x :: setDel a t

/-- A map with the value at a key set, in rising order of keys. -/
def mapSet {α : Type} (a : Nat) (v : α) : List (Nat × α) → List (Nat × α)
  | [] => [(a, v)]
  | (x, w) :: t => if a < x then (a, v) :: (x, w) :: t else if a = x then (a, v) :: t else (x, w) :: mapSet a v t

/-- The value at a key. -/
def mapGet {α : Type} (a : Nat) : List (Nat × α) → Option α
  | [] => none
  | (x, w) :: t => if a = x then some w else mapGet a t

/-- A map without a key. -/
def mapDel {α : Type} (a : Nat) : List (Nat × α) → List (Nat × α)
  | [] => []
  | (x, w) :: t => if a = x then t else (x, w) :: mapDel a t

/-- Whether keys rise strictly. -/
def rising : List Nat → Bool
  | [] => true
  | [_] => true
  | x :: y :: t => decide (x < y) && rising (y :: t)

/-- The numbers from `a`, `n` of them. -/
def upFrom (a : Nat) : Nat → List Nat
  | 0 => []
  | n + 1 => a :: upFrom (a + 1) n

/-! ### Memory (11 R218 to R226) -/

/-- The cells with a byte written: the byte an unlisted address reads as, 0, is not listed (log 1). -/
def cellSet (a : Nat) (b : Byte) : List Host.Cell → List Host.Cell
  | [] => if b = 0 then [] else [(a, b)]
  | (x, v) :: t =>
    if a < x then (if b = 0 then (x, v) :: t else (a, b) :: (x, v) :: t)
    else if a = x then (if b = 0 then t else (a, b) :: t)
    else (x, v) :: cellSet a b t

/-- The byte at an address of a cell list. -/
def cellGet (a : Nat) : List Host.Cell → Byte
  | [] => 0
  | (x, v) :: t => if a = x then v else cellGet a t

/-- One byte of memory. -/
def Memory.byte (m : Memory) (a : Nat) : Byte := cellGet a m.cells

/-- The canonical form: keys rise strictly and no listed byte is 0. -/
def Memory.wf (m : Memory) : Bool :=
  rising (m.cells.map (·.1)) && m.cells.all (fun c => decide (c.2 ≠ 0)) && rising m.tags &&
    rising m.empties && rising m.poison && rising (m.keys.map (·.1)) && rising (m.checks.map (·.1))

/-- Little-endian bytes as a number (00 R4). -/
def leNat : List Byte → Nat
  | [] => 0
  | b :: t => b.toNat + 256 * leNat t

/-- `n` bytes from an address. -/
def Memory.bytes (m : Memory) (a : Nat) : Nat → List Byte
  | 0 => []
  | n + 1 => m.byte a :: m.bytes (a + 1) n

/-- `n` bytes from an address as a number. -/
def Memory.nat (m : Memory) (a n : Nat) : Nat := leNat (m.bytes a n)

/-- Writes one byte. -/
def Memory.setByte (m : Memory) (a : Nat) (b : Byte) : Memory := { m with cells := cellSet a b m.cells }

/-- Writes bytes from an address up. -/
def Memory.setBytes (m : Memory) (a : Nat) : List Byte → Memory
  | [] => m
  | b :: t => (m.setByte a b).setBytes (a + 1) t

/-- Clears the tag bits of the granules from the first to the last byte written (01 R11). -/
def Memory.clearTags (m : Memory) (a n : Nat) : Memory :=
  { m with tags := m.tags.filter fun g => decide (g < a / 16 ∨ (a + n - 1) / 16 < g) }

/-- Sets the tag bit of the granule of an address. -/
def Memory.setTag (m : Memory) (a : Nat) : Memory := { m with tags := setIns (a / 16) m.tags }

/-- A granule's tag bit. -/
def Memory.tagAt (m : Memory) (a : Nat) : Bool := m.tags.contains (a / 16)

/-- A store of the low `n` bytes of a number: it clears the tags of the granules it writes (05 R116). -/
def Memory.store (m : Memory) (a n v : Nat) : Memory := (m.setBytes a (natBytes n v)).clearTags a n

/-- Whether any byte of an access lies in a poisoned line (11 R236). -/
def Memory.poisoned (m : Memory) (a n : Nat) : Bool :=
  m.poison.any fun l => decide (a / 64 ≤ l ∧ l ≤ (a + n - 1) / 64)

/-- A line written whole is not poisoned, and its check value is that of its bytes (11 R235, R236). -/
def Memory.heal (m : Memory) (a : Nat) : Memory :=
  { m with poison := m.poison.filter (fun l => decide (l ≠ a / 64)), checks := mapDel (a / 64) m.checks }

/-- Marks a line poisoned. -/
def Memory.poisonLine (m : Memory) (a : Nat) : Memory := { m with poison := setIns (a / 64) m.poison }

/-- The full/empty bit of a word: true when FULL (11 R241). -/
def Memory.isFull (m : Memory) (a : Nat) : Bool := !(m.empties.contains (a / 8))

/-- Sets the full/empty bit of a word. -/
def Memory.setFull (m : Memory) (a : Nat) (full : Bool) : Memory :=
  { m with empties := if full then m.empties.filter (fun w => decide (w ≠ a / 8)) else setIns (a / 8) m.empties }

/-- The physical address of an offset in a core's local memory (log 5). -/
def localPA (core off : Nat) : Nat := Config.localBase + core * 2 ^ 19 + off

/-- Whether a physical address lies in a local memory. -/
def isLocalPA (pa : Nat) : Bool := decide (Config.localBase ≤ pa)

/-- Whether a physical address lies in shared memory. -/
def isSharedPA (pa : Nat) : Bool := decide (Config.sharedBase ≤ pa ∧ pa < Config.localBase)

/-- The number of a core whose local memory holds a physical address. -/
def coreOfPA (pa : Nat) : Nat := (pa - Config.localBase) / 2 ^ 19

/-- The channel of an LP-DDR-5X line (11 R225). -/
def ddrChannel (pa : Nat) : Nat := pa / 2 ^ 38 * 4 + pa / 2 ^ 12 % 4

/-- The home slice of an LP-DDR-5X line within its die (11 R225). -/
def ddrSlice (pa : Nat) : Nat :=
  ((pa / 64 % 512) ^^^ (pa / 2 ^ 15 % 512)) ^^^ ((pa / 2 ^ 24 % 512) ^^^ (pa / 2 ^ 33 % 32))

/-- The bank of a shared-memory line within its die, by its physical address PA (11 R226). -/
def bankOf (pa : Nat) : Nat := pa / 2 ^ 12 % 2048

/-- The offset of a shared-memory byte in its bank (11 R226). -/
def bankOffset (pa : Nat) : Nat := pa / 2 ^ 23 % 512 * 4096 + pa % 4096

/-- Column and row of a quad (11 R225, R226). -/
def quadXY (quad : Nat) : Nat × Nat := (quad % 16, quad / 16)

/-- The home of a physical address: a core's port, a bank (11 R226) or an L2 slice (11 R225), as one
number. -/
def homeOf (pa : Nat) : Nat :=
  if isLocalPA pa then 2 ^ 20 + coreOfPA pa
  else if isSharedPA pa then
    let o := pa - Config.sharedBase
    2 ^ 16 + o / 2 ^ 32 * 2048 + bankOf o
  else pa / 2 ^ 38 % 8 * 512 + ddrSlice pa

/-- The die and the quad in it of the bank or slice of a home in shared memory or LP-DDR-5X (11 R225, R226). -/
def homeQuad (pa : Nat) : Nat × Nat :=
  if isSharedPA pa then ((pa - Config.sharedBase) / 2 ^ 32, bankOf (pa - Config.sharedBase) / 8) else (pa / 2 ^ 38, ddrSlice pa / 2)

/-- The local memory of a core, in bytes (11 R224): core numbers 0 and 1 of a quad are S-cores. -/
def localSize (core : Nat) : Nat := if core % 4 < 2 then Config.localS else Config.localG

/-! ### Groups -/

/-- The level of a group: 0 U, 1 T, 2 S. -/
def Group.priv (g : Group) : BitVec 2 := statusPriv g.sp.status

/-- The active lanes, in ascending order. -/
def Group.acts (g : Group) : List Lane := g.lanes.filter (·.active)

/-- The lanes that execute: the lowest active one under U = 1 (04 R83). -/
def Group.execs (g : Group) (u : Bool) : List Lane := if u then g.acts.take 1 else g.acts

/-- The bits of a set of lanes. -/
def laneMask (ls : List Lane) : BitVec 32 := ls.foldl (fun m l => m ||| BitVec.ofNat 32 (2 ^ l.no)) 0

/-- `Active`: the mask of the active lanes (00 R6). -/
def Group.mask (g : Group) : BitVec 32 := laneMask g.acts

/-- Whether a lane number is active. -/
def Group.isActive (g : Group) (n : Nat) : Bool := g.lanes.any fun l => l.active && l.no == n

/-- The slice a lane belongs to (07 R155); a strand has slice 0. -/
def Group.sliceOf (g : Group) (n : Nat) : Option Slice := g.slices.find? fun s => s.idx == n / 4

/-- Changes one slice. -/
def Group.mapSlice (g : Group) (i : Nat) (f : Slice → Slice) : Group :=
  { g with slices := g.slices.map fun s => if s.idx = i then f s else s }

/-- Changes one lane. -/
def Group.mapLane (g : Group) (n : Nat) (f : Lane → Lane) : Group :=
  { g with lanes := g.lanes.map fun l => if l.no = n then f l else l }

/-- The mode register of a lane's slice (02 R39). -/
def Group.fmode (g : Group) (n : Nat) : Word := ((g.sliceOf n).map (·.fmode)).getD 0

/-- The format register of a lane's slice (02 R50). -/
def Group.fmt (g : Group) (n : Nat) : Word := ((g.sliceOf n).map (·.fmt)).getD 0

/-- The lowest active lane's number. -/
def Group.lead (g : Group) : Nat := match g.acts with | l :: _ => l.no | [] => 0

/-- The core's source number of a slice or context (12 R247, R249): the first slice for a gang. -/
def Group.srcOf (g : Group) (n : Nat) : Nat := g.core * 64 + ((g.sliceOf n).map (·.num)).getD 0

/-- A register code of the handler bank at level T (01 R29). -/
def Group.banked (g : Group) (c : BitVec 6) : Bool := g.priv == 1 && decide (52 ≤ c.toNat ∧ c.toNat < 56)

/-- The stream bound to a register (11 R238). -/
def Group.stream (g : Group) (c : BitVec 6) : Option Stream :=
  if h : 48 ≤ c.toNat ∧ c.toNat < 56 then (if g.banked c then none else g.streams[c.toNat - 48]'(by omega)) else none

/-- A lane's general register, k0 reading as zero DATA (01 R9). -/
def Lane.reg (l : Lane) (c : BitVec 6) : Val :=
  if h : c.toNat < 56 then (if c.toNat = 0 then Val.zero else l.k[c.toNat]'h) else Val.zero

/-- A lane with a general register written; a write of k0 is discarded (01 R9). -/
def Lane.setReg (l : Lane) (c : BitVec 6) (v : Val) : Lane :=
  if h : c.toNat < 56 then (if c.toNat = 0 then l else { l with k := l.k.set c.toNat v h }) else l

/-- Reg of a source code for one lane (00 R6; 01 R29): a latch, the handler bank at level T, the element
held of a bound stream, or the lane's register. -/
def Group.read (g : Group) (l : Lane) (c : BitVec 6) : Val :=
  if 56 ≤ c.toNat then l.latch.getD (c.toNat - 56) Val.zero
  else if g.banked c then
    match g.sliceOf l.no with
    | some s => s.bank.toList.getD (c.toNat - 52) Val.zero
    | none => Val.zero
  else
    match g.stream c with
    | some _ => (((g.held.lookup c.toNat).map (·.2)).bind fun h => h.lookup l.no).getD Val.zero
    | none => l.reg c

/-- SetReg for the lanes that have a value (00 R6; 01 R29). -/
def Group.write (g : Group) (c : BitVec 6) (vals : List (Nat × Val)) : Group :=
  if g.banked c then
    { g with slices := g.slices.map fun s =>
        { s with bank := vals.foldl (fun b p => if p.1 / 4 = s.idx then b.setIfInBounds (c.toNat - 52) p.2 else b) s.bank } }
  else
    { g with lanes := g.lanes.map fun l => match vals.lookup l.no with | some v => l.setReg c v | none => l }

/-- Every active lane takes the result of the executing lane (04 R83). -/
def Group.spread {α : Type} (g : Group) (u : Bool) (vals : List (Nat × α)) : List (Nat × α) :=
  if u then (match vals with | (_, v) :: _ => g.acts.map fun l => (l.no, v) | [] => []) else vals

/-- A result enters the latch file of the lanes that have one as ^1 (04 R86). -/
def Group.pushLatch (g : Group) (vals : List (Nat × Val)) : Group :=
  { g with lanes := g.lanes.map fun l =>
      match vals.lookup l.no with
      | some v => { l with latch := (v :: l.latch).take 8 }
      | none => l }

/-- The latch file is emptied and the run ends (04 R90). -/
def Group.endRun (g : Group) : Group :=
  { g with lanes := g.lanes.map (fun l => { l with latch := [] }), runLen := 0, shorts := 0, shadow := none }

/-- Flags are ORed into the mode register of each lane's slice (02 R44). -/
def Group.raise (g : Group) (fl : List (Nat × Flags)) : Group :=
  { g with slices := g.slices.map fun s =>
      { s with fmode := fl.foldl (fun w p => if p.1 / 4 = s.idx then w ||| p.2.word else w) s.fmode } }

/-- A group's registers before a run (04 R88). -/
def Group.snap (g : Group) : Shadow := ⟨g.lanes, g.slices.map fun sl => (sl.idx, sl.bank), g.x, g.m, []⟩

/-! ### The parts of the state -/

/-- A group by its number: the issuing group or another. -/
def State.group (s : State) (gid : Nat) : Option Group :=
  if s.g.gid = gid then some s.g else s.groups.find? fun g => g.gid == gid

/-- Changes a group by its number. -/
def State.mapGroup (s : State) (gid : Nat) (f : Group → Group) : State :=
  if s.g.gid = gid then { s with g := f s.g }
  else { s with groups := s.groups.map fun g => if g.gid = gid then f g else g }

/-- Every group that holds a strand or gang. -/
def State.all (s : State) : List Group := (s.g :: s.groups).filter fun g => g.run != .free

/-- A core that nothing has changed since reset. -/
def Core.fresh (n : Nat) : Core :=
  { coord := n, s := Vector.replicate 8 0, sems := Vector.replicate 16 ⟨0, []⟩,
    journal := Vector.replicate 64 none, next := 0, queue := [], fenced := false, locks := [],
    redirects := [], stopped := false, portTaken := none }

/-- A core by its coordinates. -/
def State.core (s : State) (n : Nat) : Core := (s.cores.find? fun c => c.coord == n).getD (Core.fresh n)

/-- Changes a core. -/
def State.mapCore (s : State) (n : Nat) (f : Core → Core) : State :=
  if s.cores.any (fun c => c.coord == n) then
    { s with cores := s.cores.map fun c => if c.coord = n then f c else c }
  else { s with cores := f (Core.fresh n) :: s.cores }

/-- A crew by its id. -/
def State.crew (s : State) (id : Nat) : Option Crew := s.crews.find? fun c => c.id == id

/-- Changes a crew. -/
def State.mapCrew (s : State) (id : Nat) (f : Crew → Crew) : State :=
  { s with crews := s.crews.map fun c => if c.id = id then f c else c }

/-- The quad of a core: its die and place without the core number. -/
def quadOf (core : Nat) : Nat := core / 4

/-- The die of a core. -/
def dieOf (core : Nat) : Nat := core / 1024

/-- The entries of a vector that a set of numbers names, put into another. -/
def putSome {α : Type} (w : BitVec 8) (v old : Vector α 8) : Vector α 8 :=
  Vector.ofFn fun i => if w.getLsbD i then v[i] else old[i]

/-- A part of a gang after another part's run has written the OXRs `wx` and the mask registers `wm`: it has their values, but for
one that its own run under way has written; and so have the registers that it restores if that run is discarded (log 69). -/
def Group.heeds (h : Group) (wx wm : BitVec 8) (x : Vector Word 8) (m : Vector (BitVec 32) 8) : Group :=
  { h with
    x := putSome (wx &&& ~~~h.wx) x h.x
    m := putSome (wm &&& ~~~h.wm) m h.m
    shadow := h.shadow.map fun b => { b with x := putSome wx x b.x, m := putSome wm m b.m } }

/-- The OXRs and mask registers belong to the gang: those that the issuing group's run has written reach every part of it when the
run ends (04 R88, R93; 09 R196). -/
def State.shareXM (s : State) : State :=
  { s with
    g := { s.g with wx := 0, wm := 0 }
    groups := s.groups.map fun h =>
      if h.isG && s.g.isG && h.gang == s.g.gang then h.heeds s.g.wx s.g.wm s.g.x s.g.m else h }

/-- The streams belong to the gang as well (11 R238). -/
def State.shareStreams (s : State) (v : Vector (Option Stream) 8) : State :=
  { s with
    g := { s.g with streams := v }
    groups := s.groups.map fun h => if h.isG && s.g.isG && h.gang == s.g.gang then { h with streams := v } else h }

/-- A write of memory that other agents may be waiting for: an armed `wait` of another group notices it
(09 R210). -/
def State.noticed (s : State) (writer a n : Nat) : State :=
  { s with armed := s.armed.map fun w =>
      if w.gid ≠ writer ∧ w.bytes.any (fun b => decide (b.1 < a + n ∧ a < b.1 + b.2)) then { w with hit := true } else w }

/-- A store at a home by a group or agent. -/
def State.storeAt (s : State) (writer a n v : Nat) : State :=
  ({ s with mem := s.mem.store a n v }).noticed writer a n

/-! ### Traps (01 R32; 18 R366, R367) -/

/-- A trap that an instruction takes: its cause, trap value, where sr.epc points if not at the
instruction, and for a lane-partial fault the lanes that performed, the lowest that failed, and what the
performed lanes' registers receive; and whether the instruction at the pc has issued, as one that could not be fetched
has not (04 R87). -/
structure Trap where
  code : Nat
  tval : Word
  epc : Option Word
  performed : BitVec 32
  flane : Nat
  keep : List (BitVec 6 × List (Nat × Val))
  issued : Bool
  deriving DecidableEq, Repr

/-- A trap with a cause and a trap value. -/
def trap (code : Nat) (tval : Word) : Trap := ⟨code, tval, none, 0, 0, [], true⟩

/-- A trap that no instruction takes by issuing: of a fetch, of a stop, or of an event. -/
def eventTrap (code : Nat) (tval : Word) : Trap := { trap code tval with issued := false }

/-- A trap whose value is a register number. -/
def trapReg (code : Nat) (c : BitVec 6) : Trap := trap code (c.setWidth 64)

/-- The trap value of an encoding or latch-window trap (04 R92). -/
def encTval (word : Nat) (distance : Nat) : Word := BitVec.ofNat 64 (word % 2 ^ 32 + distance % 2 ^ 32 * 2 ^ 32)

/-- An encoding trap at an instruction that begins at the pc a trap would save, `dist` bytes before. -/
def trapEnc (word dist : Nat) : Trap := trap 1 (encTval word dist)

/-- The issuing group's call is no longer stalled at the Mooring: it has parked, or a trap withdraws it (08 R173). -/
def State.unstall (s : State) : State := { s with stalls := s.stalls.filter fun p => p.2 != s.g.gid }

/-- The resident handler of the core takes over: a trap at level T hands the crew to it, a trap at level
S stops the core and is reported as a machine check (18 R367). -/
def State.resident (s : State) (code : Nat) (tval : Word) : State :=
  let s0 := s.unstall
  if s.g.priv = 2 then
    let s1 : State :=
      { s0 with g := { s.g with run := .resident }, sys := s.sys ++ [⟨s.g.core, 0, 0, s.g.pc, 0x3F, BitVec.ofNat 64 code⟩] }
    s1.mapCore s.g.core fun c => { c with stopped := true }
  else
    { s0 with
      g := { s.g with run := .resident }
      sys := s.sys ++ [⟨s.g.core, s.g.sp.crew, s.g.gid, s.g.pc, code, tval⟩] }

/-- Registers of a run are discarded by a trap at a member (04 R88): the group has those it had before. -/
def Group.discard (g : Group) : Group :=
  match g.shadow with
  | some b =>
    { g with
      lanes := b.lanes
      slices := g.slices.map fun sl => { sl with bank := (mapGet sl.idx b.banks).getD sl.bank }
      x := b.x
      m := b.m
      wx := 0
      wm := 0
      pend := g.pend.map fun p => if p.inRun then { p with discarded := true } else p }
  | none => g

/-- The registers a trap entry writes (01 R32; 18 R366): sr.done, sr.epc, sr.cause, sr.tval and status. -/
def Specials.enter (sp : Specials) (t : Trap) (e : Val) : Specials :=
  { sp with
    done := if t.performed = 0 then sp.done
      else (0#27 ++ BitVec.ofNat 5 t.flane ++ (sp.done.extractLsb' 0 32 ||| t.performed) : BitVec 64)
    epc := e
    cause := BitVec.ofNat 64 t.code
    tval := t.tval
    status := statusTrap sp.status }

/-- Where sr.epc points (18 R366): as the trap says, at the head of the run, or at the instruction. -/
def Group.trapPc (g : Group) (t : Trap) (inRun : Bool) : Word :=
  match t.epc with
  | some e => e
  | none => if inRun then g.sp.lrun else g.pc

/-- Taking an exception (01 R32; 18 R366): the one operation every trap goes through. At level U the
group enters its crew's handler at level T; elsewhere, or with an invalid sr.tvec, the resident
handler is entered. `inRun` says that the trapping instruction reads a latch; one that does not, and has issued, is the
last that sr.lrun names (04 R87). -/
def State.takeTrap (s : State) (t : Trap) (inRun : Bool) : State :=
  if s.g.priv ≠ 0 then s.resident t.code t.tval
  else
    let g0 := t.keep.foldl (fun g p => g.write p.1 p.2) (if inRun then s.g.discard else s.g)
    let e := withCursor g0.codeCap (g0.trapPc t inRun)
    let g1 : Group :=
      { g0.endRun with
        sp := { g0.sp.enter t e with lrun := if t.issued && !inRun then g0.pc else g0.sp.lrun }
        sent := false
        answers := []
        walkFault := none
        held := []
        suppress := false
        stopReq := if g0.stopReq = 2 then 0 else g0.stopReq }
    let s1 := ({ s with g := g1 } : State).unstall
    let s2 := if t.code = 0x30 then s1.mapCrew g1.sp.crew fun c => { c with wdog := c.reload } else s1
    if g1.sp.tvec.tag ≠ .cap ∨ capHas g1.sp.tvec.bits .x = false then
      { s2 with
        g := { s2.g with run := .resident }
        sys := s2.sys ++ [⟨g1.core, g1.sp.crew, g1.gid, g1.pc, 3, 21⟩] }
    else
      { s2 with g := { s2.g with codeCap := g1.sp.tvec, pc := (capCursor g1.sp.tvec.bits).setWidth 64, run := .ready } }

/-- Returning from an exception (01 R33), after its checks: the program counter, the code capability and
the status come back from sr.epc and the saved fields. -/
def Group.returned (g : Group) : Group :=
  { g.endRun with
    codeCap := g.sp.epc
    pc := (capCursor g.sp.epc.bits).setWidth 64
    sp := { g.sp with status := statusRett g.sp.status }
    suppress := g.sp.cause == 0x31 }

/-! ### Symbols (03) -/

/-- A record with its symbol, as a register value. -/
def symVal (r : SymRec) : Val := ⟨0, .sym r⟩

/-- A pure record of a symbol (03 R60). -/
def pureSym (id : BitVec 6) : Val := symVal ⟨id, none, .pure⟩

/-- A poisoned register (03 R71). -/
def poisonVal : Val := ⟨0, .poison⟩

/-- A value's symbolic record. -/
def Val.record (v : Val) : Option SymRec := match v.tag with | .sym r => some r | _ => none

/-- Whether a value is a live symbol. -/
def Val.isSym (v : Val) : Bool := v.record.isSome

/-- The low 64 bits (05 R102). -/
def Val.word (v : Val) : Word := v.bits.extractLsb' 0 64

/-- The flags and value of one recorded floating-point step on an operand that has arrived (03 R66). -/
def FpStep.apply (fmt : BitVec 2) (st : FpStep) (x : Nat) : FpRes :=
  let f := fpFmt fmt
  let c1 := f.cut st.c1.toNat
  let c2 := f.cut st.c2.toNat
  -- the operands a, b, d: the symbolic position takes x, the known ones follow in order
  let a := if st.pos = 0 then x else c1
  let b := if st.pos = 1 then x else if st.pos = 0 then c1 else c2
  let d := if st.pos = 2 then x else c2
  match st.op.toNat with
  | 0 => fpAdd f st.mode false a b
  | 1 => fpAdd f st.mode true a b
  | 2 => fpMul f st.mode a b
  | _ => fpFma f st.mode false false a b d

/-- Whether a recorded step on an operand meets a subnormal (02 R49): an operand it reads, or its result. -/
def FpStep.meets (fmt : BitVec 2) (st : FpStep) (x : Nat) : Bool :=
  let f := fpFmt fmt
  meetsSub f (x :: f.cut st.c1.toNat :: if st.op = 3 then [f.cut st.c2.toNat] else []) (st.apply fmt x)

/-- The steps of a record that meet a subnormal, by the numbers of their instructions. -/
def metSteps (fmt : BitVec 2) : List FpStep → Nat → List Nat
  | [], _ => []
  | st :: t, x =>
    let rest := metSteps fmt t (st.apply fmt x).bits
    if st.meets fmt x then st.no :: rest else rest

/-- The steps of a holder that meet a subnormal when its symbol's data arrives (03 R66). -/
def Val.met (v : Val) (id : BitVec 6) (arrived : Val) : List Nat :=
  match v.tag with
  | .sym r =>
    (match r.form with
    | .fp fmt steps => if r.id = id ∧ arrived.tag ≠ .poison then metSteps fmt steps ((fpFmt fmt).cut arrived.bits.toNat) else []
    | _ => [])
  | _ => []

/-- The steps of a record applied in order. -/
def fpSteps (fmt : BitVec 2) : List FpStep → Nat → Flags → Nat × Flags
  | [], x, fl => (x, fl)
  | st :: t, x, fl => let r := st.apply fmt x; fpSteps fmt t r.bits (fl.or r.flags)

/-- What a holder becomes when the data arrives (03 R64 to R66, R71). -/
def SymForm.resolve (f : SymForm) (v : Val) : Val × Flags :=
  if v.tag = .poison then (poisonVal, Flags.zero)
  else
    match f with
    | .pure => (v, Flags.zero)
    | .int a b => (dataWord (a * v.word + b), Flags.zero)
    | .cap b => (cinc v b, Flags.zero)
    | .fp fmt steps =>
      let (x, fl) := fpSteps fmt steps ((fpFmt fmt).cut v.bits.toNat) Flags.zero
      (⟨BitVec.ofNat 128 x, .data⟩, fl)

/-- A value after a symbol of its lane's slice has arrived. -/
def Val.resolve (v : Val) (id : BitVec 6) (arrived : Val) : Val × Flags :=
  match v.tag with
  | .sym r => if r.id = id then r.form.resolve arrived else (v, Flags.zero)
  | _ => (v, Flags.zero)

/-- A list of values after an arrival, with the flags of the steps applied. -/
def resolveList (id : BitVec 6) (arrived : Val) : List Val → List Val × Flags
  | [] => ([], Flags.zero)
  | v :: t =>
    let (v', fl) := v.resolve id arrived
    let (t', fl') := resolveList id arrived t
    (v' :: t', fl.or fl')

/-- The registers of a lane after an arrival, from register `c` up. -/
def Lane.resolveRegs (id : BitVec 6) (arrived : Val) : Nat → Vector Val 56 → Flags → Vector Val 56 × Flags
  | 0, k, fl => (k, fl)
  | n + 1, k, fl =>
    let (k, fl) := Lane.resolveRegs id arrived n k fl
    if h : n < 56 then
      let (v', fl') := (k[n]).resolve id arrived
      (k.set n v' h, fl.or fl')
    else (k, fl)

/-- A lane after an arrival: its registers, then its latches (03 R70). -/
def Lane.resolve (l : Lane) (id : BitVec 6) (arrived : Val) : Lane × Flags :=
  let (k, fl) := Lane.resolveRegs id arrived 56 l.k Flags.zero
  let (la, fl') := resolveList id arrived l.latch
  ({ l with k := k, latch := la }, fl.or fl')

/-- A handler bank after an arrival: it holds one value for its slice's lanes, resolved from the lowest lane's data (03 R70; 01
R29; log 70). -/
def resolveBank (id : BitVec 6) (arrived : Val) (bank : Vector Val 4) : Vector Val 4 × Flags :=
  let (b, fl) := resolveList id arrived bank.toList
  (if h : b.length = 4 then ⟨b.toArray, by simpa using h⟩ else bank, fl)

/-- The lanes of a list after the data of a slice's symbol has arrived, lane by lane. DESIGN CHOICE (log 70): a register of
a slice is one holder (03 R68), and R71 poisons a holder; where only some lanes' data is poisoned, only those lanes read as
poisoned. -/
def resolveLanes (slice : Nat) (id : BitVec 6) (got : List (Nat × Val)) : List Lane → List Lane × List (Nat × Flags)
  | [] => ([], [])
  | l :: t =>
    let (t', fl) := resolveLanes slice id got t
    match (if l.no / 4 = slice then got.lookup l.no else none) with
    | some v => let (l', f) := l.resolve id v; (l' :: t', (l.no, f) :: fl)
    | none => (l :: t', fl)

/-- The lanes of a group, and those kept from before its run: all hold records (03 R68; 04 R88). -/
def Group.holderLanes (g : Group) : List Lane := g.lanes ++ (match g.shadow with | some b => b.lanes | none => [])

/-- The handler banks of a slice of a group, and the one kept from before its run. -/
def Group.holderBanks (g : Group) (slice : Nat) : List (Vector Val 4) :=
  (g.slices.filter fun s => s.idx == slice).map (·.bank) ++ (match g.shadow with | some b => (mapGet slice b.banks).toList | none => [])

/-- How many instructions have steps in a group's holders that meet a subnormal when the data of a slice's symbol arrives: the
lanes of one instruction, and the copies of a holder, pay once for it (02 R49; 03 R66; log 71). -/
def Group.metBy (g : Group) (slice : Nat) (id : BitVec 6) (got : List (Nat × Val)) : Nat :=
  let v0 := match got with | (_, v) :: _ => v | [] => poisonVal
  let lane (l : Lane) : List Nat :=
    match (if l.no / 4 = slice then got.lookup l.no else none) with
    | some v => (l.k.toList ++ l.latch).flatMap fun r => r.met id v
    | none => []
  ((g.holderLanes.flatMap lane) ++ (g.holderBanks slice).flatMap fun b => b.toList.flatMap fun r => r.met id v0).eraseDups.length

/-- Issue turns forfeited to subnormals, met `n` times (02 R49). -/
def Group.pays (g : Group) (n : Nat) : Group := { g with forfeit := g.forfeit + n * (if g.isG then 2 else 4) }

/-- Every holder of a symbol of a group resolves (03 R70): registers, handler bank, latches, and the
registers kept from before a run, which are the program's until the run ends (04 R88); steps that meet a subnormal cost their turns
now (03 R66). -/
def Group.resolve (g : Group) (slice : Nat) (id : BitVec 6) (got : List (Nat × Val)) : Group :=
  let v0 := match got with | (_, v) :: _ => v | [] => poisonVal
  let bank (b : Vector Val 4) : Vector Val 4 := (resolveBank id v0 b).1
  let lanes := (resolveLanes slice id got g.lanes).1
  let shadow := g.shadow.map fun b => { b with
    lanes := (resolveLanes slice id got b.lanes).1
    banks := b.banks.map fun p => if p.1 = slice then (p.1, bank p.2) else p }
  let slices := g.slices.map fun s => if s.idx = slice then { s with bank := bank s.bank } else s
  let fl := (resolveLanes slice id got g.holderLanes).2
  let fb := (g.holderBanks slice).map fun b => (slice * 4, (resolveBank id v0 b).2)
  let held := g.held.map fun h => (h.1, h.2.1, h.2.2.map fun p =>
    match (if p.1 / 4 = slice then got.lookup p.1 else none) with
    | some v => (p.1, (p.2.resolve id v).1)
    | none => p)
  ({ g with lanes := lanes, shadow := shadow, slices := slices, held := held }.raise (fl ++ fb)).pays (g.metBy slice id got)

/-- The symbols live on a core's pool for a slice: one pool for an S-core, one per slice on a G-core
(03 R72). -/
def State.liveIds (s : State) (g : Group) (slice : Nat) : List Nat :=
  let mine (h : Group) : List Nat :=
    (h.syms.filterMap fun y => if g.isG && y.slice != slice then none else some y.id.toNat) ++
      (h.pend.flatMap fun p => p.ids.filterMap fun q => if g.isG && q.1 != slice then none else some q.2.toNat)
  if g.isG then mine g
  else (s.g :: s.groups).flatMap fun h =>
    if h.core = g.core && !h.isG && (match h.run with | .saved _ => false | _ => true) then mine h else []

/-- The least number below `n` from `k` up that is not taken. -/
def leastFree (taken : List Nat) : Nat → Nat → Option Nat
  | 0, _ => none
  | n + 1, k => if taken.contains k then leastFree taken n (k + 1) else some k

/-- A fresh symbol id of a slice's pool, the least free (03 R72; log 7): 64 on an S-core with at most 16
of one strand, 16 on a slice. -/
def State.freshId (s : State) (slice : Nat) : Option (BitVec 6) :=
  let live := s.liveIds s.g slice
  let own := s.g.syms.length + (s.g.pend.map fun p => p.ids.length).sum
  if s.g.isG then (leastFree live 16 0).map (BitVec.ofNat 6)
  else if own ≥ 16 then none
  else (leastFree live 64 0).map (BitVec.ofNat 6)

/-- The slices that have a lane among the given. -/
def slicesOf : List Nat → List Nat
  | [] => []
  | n :: t => setIns (n / 4) (slicesOf t)

/-- A fresh id for each slice of the given lanes; none if a pool is exhausted (03 R68, R72). -/
def State.freshIds (s : State) : List Nat → Option (List (Nat × BitVec 6))
  | [] => some []
  | sl :: t => do
    let id ← s.freshId sl
    let rest ← s.freshIds t
    pure ((sl, id) :: rest)

/-! ### Operations at a home (12 R246) -/

/-- What a home answers: the memory after the operation, the value it returns, or its refusal with the
REASON of 18 R374. -/
structure Performed where
  mem : Memory
  val : Val
  wrote : Option (Nat × Nat)
  refused : Option (BitVec 4)
  deriving DecidableEq, Repr

/-- A two's-complement reading of `w` bits. -/
def signed (w n : Nat) : Int := if n % 2 ^ w < 2 ^ (w - 1) then (n % 2 ^ w : Nat) else (n % 2 ^ w : Nat) - (2 ^ w : Nat)

/-- The new word of an integer atomic (13 R266) on words of `w` bits, or none where a failed `cas` writes
nothing. -/
def amoNew (k w v b e : Nat) : Option Nat :=
  match k with
  | 0 => some ((v + b) % 2 ^ w)
  | 1 => some (if signed w v ≤ signed w b then v else b)
  | 2 => some (if signed w v ≥ signed w b then v else b)
  | 3 => some (min v b)
  | 4 => some (max v b)
  | 5 => some (v &&& b)
  | 6 => some (v ||| b)
  | 7 => some (v ^^^ b)
  | 8 => some b
  | _ => if v = e then some b else none

/-- A bank form on one element (13 R270), NaN results canonical. -/
def bankElem (k : Nat) (alpha m v : Nat) : Nat :=
  match k with
  | 0 => canonical (fpFmt f32) (fpAdd (fpFmt f32) 0 false m v)
  | 1 => canonical (fpFmt bf16) (fpAdd (fpFmt bf16) 0 false m v)
  | 2 => canonical (fpFmt f32) (fpMinMax (fpFmt f32) true m v)
  | _ => canonical (fpFmt f32) (fpFma (fpFmt f32) 0 false false alpha v m)

/-- The elements of one masked quarter line: `n` elements of `w` bytes from an address. -/
def bankQuarter (k alpha w : Nat) (m : Memory) (a : Nat) (data : Nat) : Nat → Memory
  | 0 => m
  | n + 1 =>
    let m' := m.setBytes a (natBytes w (bankElem k alpha (m.nat a w) (data % 2 ^ (8 * w))))
    bankQuarter k alpha w m' (a + w) (data / 2 ^ (8 * w)) n

/-- The quarters of a line in order: those of inactive lanes are left out. -/
def bankLine (k alpha : Nat) (m : Memory) (a : Nat) : List (Option Quad) → Memory
  | [] => m
  | none :: t => bankLine k alpha m (a + 16) t
  | some d :: t =>
    let w := if k = 1 then 2 else 4
    bankLine k alpha (bankQuarter k alpha w m a d.toNat (16 / w)) (a + 16) t

/-- The tags of the granules of a line that a bank form writes are cleared (01 R11; 13 R269). -/
def clearQuarters (m : Memory) (a : Nat) : List (Option Quad) → Memory
  | [] => m
  | none :: t => clearQuarters m (a + 16) t
  | some _ :: t => clearQuarters (m.clearTags a 16) (a + 16) t

/-- Pairs of neighbours combined: one level of the tree of 09 R191 over present children. -/
def treeLevel {α : Type} (f : α → α → α) : List (Option α) → List (Option α)
  | [] => []
  | [x] => [x]
  | some x :: some y :: t => some (f x y) :: treeLevel f t
  | some x :: none :: t => some x :: treeLevel f t
  | none :: y :: t => y :: treeLevel f t

/-- The value at the top of the tree of `n` levels (09 R191). -/
def treeFold {α : Type} (f : α → α → α) : Nat → List (Option α) → Option α
  | 0, l => l.headD none
  | n + 1, l => treeFold f n (treeLevel f l)

/-- The elements of a line, `n` of four bytes. -/
def lineElems (m : Memory) (a : Nat) : Nat → List (Option Nat)
  | 0 => []
  | n + 1 => some (m.nat a 4) :: lineElems m (a + 4) n

/-- Whether the line of a byte fails its check value when it is read under a key: an LP-DDR-5X line written under another, or a
line whose check value is not that of its bytes (11 R234 to R236). -/
def Memory.mismatch (m : Memory) (a : Nat) (key : Option Nat) : Bool :=
  (decide (a < Config.ddrSize) && mapGet (a / 64) m.keys != key) || (mapGet (a / 64) m.checks).isSome

/-- A line written whole, or changed at its home, under a key: that key is the one it reads under (11 R234). -/
def Memory.underKey (m : Memory) (a : Nat) (key : Option Nat) : Memory :=
  if a < Config.ddrSize then
    { m with keys := match key with | some k => mapSet (a / 64) k m.keys | none => mapDel (a / 64) m.keys }
  else m

/-- A line is handed over between storage levels (11 R235, R236): one that fails its check value is marked poisoned. -/
def Memory.checked (m : Memory) (a : Nat) (key : Option Nat) : Memory :=
  if m.mismatch a key then { m.poisonLine a with checks := mapDel (a / 64) m.checks } else m

/-- One operation performed whole at its home (12 R246, R254; 05 R115, R116; 13 R266 to R271, R281). The
key under which the access is made marks an LP-DDR-5X line it writes, and a line that fails its check
value reads as poisoned (11 R234 to R236). DESIGN CHOICE: the spec does not say when a refusal has REASON 4, an uncorrectable
error at the home, and when REASON 3: it is 4 for the access that finds the error (log 85). -/
def perform (op : MemOp) (a : Nat) (key : Option Nat) (m0 : Memory) : Performed :=
  let m := m0.checked a key
  let mark (m : Memory) : Memory := m.underKey a key
  let bad (n : Nat) := m.poisoned a n
  -- an error that this access finds is the home's; the line is poisoned from then on
  let why : BitVec 4 := if m0.poisoned a 1 then 3 else 4
  match op with
  | .load size sx cap =>
    if bad size then ⟨m, poisonVal, none, none⟩
    else
      let n := m.nat a size
      if cap then ⟨m, ⟨BitVec.ofNat 128 n, if m.tagAt a then .cap else .data⟩, none, none⟩
      else if sx then ⟨m, dataWord (intWord (signed (8 * size) n)), none, none⟩
      else ⟨m, ⟨BitVec.ofNat 128 n, .data⟩, none, none⟩
  | .store size data tag =>
    if bad size then ⟨m, poisonVal, none, some why⟩
    else
      let m1 := mark (m.store a size data.toNat)
      ⟨if tag then m1.setTag a else m1, Val.zero, some (a, size), none⟩
  | .amo k w b e =>
    let size := if w then 8 else 4
    if bad size then ⟨m, poisonVal, none, some why⟩
    else
      let v := m.nat a size
      match amoNew k (8 * size) v (b.toNat % 2 ^ (8 * size)) (e.toNat % 2 ^ (8 * size)) with
      | some n => ⟨mark (m.store a size n), dataNat v, some (a, size), none⟩
      | none => ⟨m, dataNat v, none, none⟩
  | .fadd t b =>
    let f := fpFmt t
    let size := f.width / 8
    if bad size then ⟨m, poisonVal, none, some why⟩
    else
      let v := m.nat a size
      ⟨mark (m.store a size (canonical f (fpAdd f 0 false v (f.cut b)))), dataNat v, some (a, size), none⟩
  | .bank k data alpha =>
    let full := data.all (·.isSome)
    if bad 64 then
      if full then
        let q := (if k = 1 then (fpFmt bf16).qnan * (2 ^ 16 + 1) else (fpFmt f32).qnan)
        let line := q * (2 ^ 32 + 1) * (2 ^ 64 + 1) * (2 ^ 128 + 1) * (2 ^ 256 + 1)
        ⟨mark ((m.store a 64 line).heal a), Val.zero, some (a, 64), none⟩
      else ⟨m, poisonVal, none, some why⟩
    else ⟨mark (clearQuarters (bankLine k alpha m a data) a data), Val.zero, some (a, 64), none⟩
  | .bankSum =>
    if bad 64 then ⟨m, poisonVal, none, none⟩
    else
      match treeFold (fun x y => (fpAdd (fpFmt f32) 0 false x y).bits) 4 (lineElems m a 16) with
      | some n => ⟨m, dataNat (canonical (fpFmt f32) ⟨n, Flags.zero, false⟩), none, none⟩
      | none => ⟨m, Val.zero, none, none⟩
  | .zero => ⟨mark ((m.store a 64 0).heal a), Val.zero, some (a, 64), none⟩
  | .clean => ⟨m, Val.zero, none, none⟩
  | .evqRd =>
    let rd := m.nat (a + 4) 4
    if bad 16 then ⟨m, poisonVal, none, none⟩
    else if m.nat a 4 = rd then ⟨m, Val.zero, none, none⟩
    else if m.poisoned (a + 16 + 16 * (rd % 64)) 16 then ⟨m, poisonVal, none, none⟩
    else ⟨mark (m.store (a + 4) 4 ((rd + 1) % 2 ^ 32)), ⟨BitVec.ofNat 128 (m.nat (a + 16 + 16 * (rd % 64)) 16), .data⟩, some (a + 4, 4), none⟩
  | .counter data _ => if bad 32 then ⟨m, poisonVal, none, some why⟩ else ⟨mark (m.store a 32 data.toNat), Val.zero, some (a, 32), none⟩
  | .fe _ _ _ _ => ⟨m, Val.zero, none, none⟩

/-- Whether an operation changes memory. -/
def MemOp.writes : MemOp → Bool
  | .load _ _ _ => false
  | .bankSum => false
  | .clean => false
  | .fe k _ _ _ => decide (2 ≤ k)
  | _ => true

/-- The bytes an operation covers. -/
def MemOp.size : MemOp → Nat
  | .load n _ _ => n
  | .store n _ _ => n
  | .amo _ w _ _ => if w then 8 else 4
  | .fadd t _ => (fpFmt t).width / 8
  | .bank _ _ _ => 64
  | .bankSum => 64
  | .zero => 64
  | .clean => 1
  | .evqRd => 16
  | .counter _ _ => 32
  | .fe _ _ _ _ => 8

/-- The core whose local memory holds a physical address has its resident handler lock a region of it for
writing (11 R237). -/
def State.locked (s : State) (pa n : Nat) : Bool :=
  isLocalPA pa && (s.core (coreOfPA pa)).locks.any fun r => decide (pa % 2 ^ 19 < r.2 ∧ r.1 < pa % 2 ^ 19 + n)

/-- The die of a home (11 R224 to R226). -/
def dieOfPA (pa : Nat) : Nat :=
  if isLocalPA pa then coreOfPA pa / 1024 else if isSharedPA pa then (pa - Config.sharedBase) / 2 ^ 32 else pa / 2 ^ 38

/-- An access of another core or of an engine reaches a local memory and takes a port of it (07 R151). -/
def State.takesPort (s : State) (pa : Nat) : State :=
  if isLocalPA pa then s.mapCore (coreOfPA pa) fun c => { c with portTaken := some s.clk } else s

/-- The bytes of a replica of the batching table (23 R445). -/
def Replica.size : Nat := 524416

/-- A replica's lines are locked at their banks (23 R445). -/
def State.replicaAt (s : State) (pa n : Nat) : Bool := s.replicas.any fun r => decide (pa < r.pa + Replica.size ∧ r.pa < pa + n)

/-- Why a home refuses an operation before it is performed, as the REASON of 18 R374 (11 R228, R237; 22 R427; 23 R445). -/
def State.refusal (s : State) (op : MemOp) (pa : Nat) : Option (BitVec 4) :=
  if s.pkg.deadDies.getLsbD (dieOfPA pa) then some 2
  else if op.writes && (s.locked pa op.size || s.replicaAt pa op.size) then some 1
  else if isLocalPA pa && (s.core (coreOfPA pa)).fenced then some 2
  else if isSharedPA pa && s.pkg.ssPages.contains (pa / 4096) then some 5
  else none

/-- The dies between two by the column-first route, or the row-first one. -/
def midDies (a b : Nat) (rowFirst : Bool) : List Nat :=
  let corner := if rowFirst then b / 3 * 3 + a % 3 else a / 3 * 3 + b % 3
  let span (x y : Nat) : List Nat := upFrom (min x y) (max x y - min x y + 1)
  let row (r x y : Nat) : List Nat := (span x y).map fun c => r * 3 + c
  let col (c x y : Nat) : List Nat := (span x y).map fun r => r * 3 + c
  let ds := if rowFirst then col (a % 3) (a / 3) (b / 3) ++ row (b / 3) (a % 3) (b % 3)
    else row (a / 3) (a % 3) (b % 3) ++ col (b % 3) (a / 3) (b / 3)
  (corner :: ds).filter fun d => d != a && d != b

/-- Whether both routes between two dies cross dies out of service. -/
def State.unreachable (s : State) (a b : Nat) : Bool :=
  let dead (l : List Nat) : Bool := l.any fun d => s.pkg.deadDies.getLsbD d
  dead (midDies a b false) && dead (midDies a b true)

/-- A machine-check event for the resident handler of a die (11 R236; 14 R300; 18 R369; log 75). -/
def State.machineCheck (s : State) (die : Nat) (tval : Word) : State :=
  { s with sys := s.sys ++ [⟨die * 1024, 0, 0, 0, 0x3F, tval⟩] }

/-- Whether an operation writes its whole line and reads nothing of what stood there (11 R236). -/
def MemOp.whole : MemOp → Bool
  | .zero => true
  | _ => false

/-- A line handed over whose check value fails raises a machine check at its home's die, once: it is then poisoned (11 R236). -/
def State.errorAt (s : State) (pa : Nat) (key : Option Nat) : State :=
  if s.mem.mismatch pa key && !s.mem.poisoned pa 1 then s.machineCheck (dieOfPA pa) (BitVec.ofNat 64 (pa / 64 * 64)) else s

/-- The same for an operation that its home performs and that reads the line. -/
def State.inspected (s : State) (op : MemOp) (pa : Nat) (key : Option Nat) : State :=
  if (s.refusal op pa).isNone && !op.whole then s.errorAt pa key else s

/-- A line is handed over to an agent that reads it (11 R235, R236): one whose check value fails is marked poisoned and raises its
machine check. -/
def State.handOver (s : State) (op : MemOp) (pa : Nat) (key : Option Nat) : State :=
  { s.inspected op pa key with mem := s.mem.checked pa key }

/-- Why an operation that comes from a die is not performed: no route leads to its home, or the home refuses it (22 R427). -/
def State.refusalFrom (s : State) (die : Nat) (op : MemOp) (pa : Nat) : Option (BitVec 4) :=
  if s.unreachable die (dieOfPA pa) then some 6 else s.refusal op pa

/-- An operation at its home: refused there, or performed (11 R237; 12 R246). -/
def State.atHome (s : State) (op : MemOp) (pa : Nat) (key : Option Nat) : Performed :=
  match s.refusal op pa with
  | some r => ⟨s.mem, poisonVal, none, some r⟩
  | none => perform op pa key s.mem

/-- Whether the line of a byte reads as poisoned under a key (11 R234, R236). -/
def Memory.lineBad (m : Memory) (pa : Nat) (key : Option Nat) : Bool := m.poisoned pa 1 || m.mismatch pa key

/-- The die on which a fabric port lies (22 R428). -/
def portDie (port : Nat) : Nat :=
  if port < 6 then 0 else if port < 10 then 1 else if port < 16 then 2 else if port < 22 then 3 else if port < 26 then 4 else 5

/-- The port that leads to a package, if its route has one, its link is up and its die is in service (22 R427, R428; log 21). -/
def State.routeTo (s : State) (pkg : BitVec 8) : Option Nat :=
  match mapGet pkg.toNat s.pkg.fabric.routes with
  | some p => if 32 ≤ p ∨ s.pkg.fabric.down.contains p = true ∨ s.pkg.deadDies.getLsbD (portDie p) = true then none else some p
  | none => none

/-- The value that the line of a read response gives an operation. -/
def MemOp.fromLine (op : MemOp) (pa : Nat) (bytes : List Byte) : Val :=
  let n := leNat ((bytes.drop (pa % 64)).take (match op with | .bankSum => 4 | _ => op.size))
  match op with
  | .load size true _ => dataWord (intWord (signed (8 * size) n))
  | _ => ⟨BitVec.ofNat 128 n, .data⟩

/-- What an access of an engine to another package gives, or none where it is refused or poisoned (log 16): `n` numbers the
free values. -/
def State.farAccess (s : State) (k : BitVec 8) (n : Nat) (op : MemOp) (pa : Nat) : Option Val :=
  if (s.routeTo k).isNone then none
  else if Config.farPoison n (pa / 64) || (op.writes && (Config.farRefusal n (pa / 64)).isSome) then none
  else some (op.fromLine pa ((upFrom (pa / 64 * 64) 64).map (Config.farByte n)))

/-- The halfword of code at a place, or none where its line reads as poisoned or its home refuses (11 R236, R237). DESIGN CHOICE:
until a fence and a jump, a fetch may give the old or the new bytes of a stored instruction (05 R117); it gives the
new ones (log 72). Code in another package is taken not to change (log 16). -/
def State.codeHalf (s : State) (pa : Nat) (key : Option Nat) : Option (BitVec 8) → Option Nat
  | none => if (s.refusal (.load 2 false false) pa).isSome || s.mem.lineBad pa key then none else some (s.mem.nat pa 2)
  | some k =>
    if (s.routeTo k).isNone || Config.farPoison k.toNat (pa / 64) then none
    else some (leNat [Config.farByte k.toNat pa, Config.farByte k.toNat (pa + 1)])

/-- Lines that an engine owns (12 R255): a thread access to one waits at its home. -/
def State.ownedAt (s : State) (a n : Nat) : Bool := s.owned.any fun o => decide (a / 64 ≤ o.1 ∧ o.1 ≤ (a + n - 1) / 64)

/-- Runs an operation with another group as the issuing one. -/
def State.onGroup (s : State) (gid : Nat) (f : State → State) : State :=
  if s.g.gid = gid then f s
  else
    match s.groups.find? fun h => h.gid == gid with
    | none => s
    | some h =>
      let old := s.g.gid
      let s1 := f { s with g := h, groups := s.groups.map fun x => if x.gid = gid then s.g else x }
      match s1.groups.find? fun x => x.gid == old with
      | none => s1
      | some o =>
        { s1 with
          g := o
          groups := s1.groups.filterMap fun x =>
            if x.gid = old then (if s1.g.run = .free then none else some s1.g) else some x }

end Sys2Proof.Machine
end

