-- ==== Sys2Proof/Machine/Named.lean ====
section
/-! DEFINITION. The registers that an instruction reads beyond its source fields: those its descriptor names (14 R288; 15 R305;
16 R332, R338), k1 to kn of a call and a return (09 R197, R198), and b of `bar.max` (09 R205). Each blocks, or is fetched, as a
source does (03 R67; 18 R386). -/

namespace Sys2Proof.Machine

/-! ### The descriptor (14 R288 to R290) -/

/-- A field of the descriptor registers. -/
def xf (x : Vector Word 7) (i lo w : Nat) : Nat := (x.toList.getD i 0).toNat / 2 ^ lo % 2 ^ w

/-- MODE. -/
def dMode (x : Vector Word 7) : Nat := xf x 0 42 4
/-- K, the depth. -/
def dK (x : Vector Word 7) : Nat := xf x 1 0 16
/-- G, the group size GS names. -/
def dG (x : Vector Word 7) : Nat := 32 * 2 ^ xf x 1 22 2
/-- SP: A is compacted 2:4. -/
def dSP (x : Vector Word 7) : Bool := xf x 0 46 1 == 1
/-- PSH. -/
def dPSH (x : Vector Word 7) : Nat := xf x 1 18 2
/-- Rows of A: 64 for a 64 × 32 pair. -/
def dRows (x : Vector Word 7) : Nat := if dPSH x = 2 then 64 else 32
/-- Columns of B: 64 for a 32 × 64 pair. -/
def dCols (x : Vector Word 7) : Nat := if dPSH x = 1 then 64 else 32
/-- Whether MODE is one of the quantised modes. -/
def dQuant (x : Vector Word 7) : Bool := decide (2 ≤ dMode x)
/-- Whether B holds q4 codes. -/
def dB4 (x : Vector Word 7) : Bool := decide (3 ≤ dMode x)

/-- The descriptor rules (14 R290): `pair` and `sparse` are those of the form, `et` is the elected lane's ET. -/
def descBad (kind : ArrayKind) (x : Vector Word 7) (et : Nat) : Bool :=
  let regOk (lo : Nat) : Bool := decide (xf x 0 lo 6 ≤ 55)
  let need (lo : Nat) : Bool := xf x 0 lo 6 != 0
  let m := dMode x
  let form := match kind with
    | .mma false sp => dSP x == sp && dPSH x == 0
    | .mma true _ => dPSH x == 1 || dPSH x == 2
    | _ => true
  let quant := match m with
    | 0 | 1 => xf x 0 12 24 == 0 && xf x 1 20 4 == 0
    | 2 | 3 => need 12 && need 18
    | _ => xf x 0 12 6 == 0 && xf x 0 24 6 == 0 && xf x 1 20 1 == 0 && need 18 && et != 0
  !(form && quant && decide (m ≤ 4) && decide (xf x 1 22 2 ≠ 3) && decide (dPSH x ≠ 3) && xf x 1 24 40 == 0 && xf x 5 0 64 == 0 &&
    [0, 6, 12, 18, 24, 30, 36].all regOk && need 0 && need 6 &&
    decide (dK x ≠ 0 ∧ dK x % 16 = 0) && (!dQuant x || decide (dK x % dG x = 0)) &&
    (!dB4 x || xf x 1 17 1 == 1) &&
    (if dSP x then xf x 1 16 1 == 0 && need 36 else !need 36 && xf x 4 32 32 == 0) &&
    (if xf x 0 47 1 = 1 then dPSH x != 2 else xf x 0 48 2 == 0 && xf x 4 0 32 == 0))

/-- The bytes each operand touches, as offsets from its capability's index and lengths (14 R291): the register code, the
runs, the kind of home an A or B span must have, and the alignment of the cursor. -/
def mmaOperands (x : Vector Word 7) : List (Nat × List (Nat × Nat) × Option Nat × Nat) :=
  let m := dMode x
  let k := dK x
  let ea := if m = 2 ∨ m = 3 then 1 else 2
  let ka := if dSP x then k / 2 else k
  let kb := if dB4 x then k / 2 else if m = 2 then k else 2 * k
  let eb := if m = 2 then 1 else 2
  let n := k / dG x
  let run (c st len : Nat) : List (Nat × Nat) := (upFrom 0 c).map fun i => (i * st, len)
  let lda := xf x 2 0 32
  let ldb := xf x 2 32 32
  let slda := xf x 3 0 32
  let sldb := xf x 3 32 32
  [ (xf x 0 0 6, if xf x 1 16 1 = 0 then run (dRows x) lda (ka * ea) else run k lda (dRows x * ea), some (xf x 0 50 1), 16),
    (xf x 0 6 6, if xf x 1 17 1 = 0 then run k ldb (dCols x * eb) else run (dCols x) ldb kb, some (xf x 0 51 1), 16),
    (xf x 0 12 6, run (dRows x) (slda * 2) (n * 2), none, 2),
    (xf x 0 18 6, run n (sldb * 2) (dCols x * 2), none, 2),
    (xf x 0 24 6, run (dRows x) slda n, none, 1),
    (xf x 0 30 6, run n sldb (dCols x), none, 1),
    (xf x 0 36 6, run (dRows x) (xf x 4 32 32) (k / 8), none, 1) ].filter fun o => o.1 != 0

/-- The offset past the last byte of some runs. -/
def runsEnd (rs : List (Nat × Nat)) : Nat := rs.foldl (fun h r => max h (r.1 + r.2)) 0

/-- The size of an output row (16 R332). -/
def outRowSize (ofmt : Nat) (fmt : Word) : Nat :=
  match ofmt with
  | 0 => 128
  | 1 => 64
  | 2 => 64
  | _ => if fmtBits fmt = 8 then 32 else 16

/-- OFMT of x6. -/
def oFmt (x : Vector Word 7) : Nat := xf x 6 32 2
/-- RSO of x6. -/
def oRSO (x : Vector Word 7) : Nat := xf x 6 34 6
/-- RZO of x6. -/
def oRZO (x : Vector Word 7) : Nat := xf x 6 40 6
/-- LDO of x6. -/
def oLDO (x : Vector Word 7) : Nat := xf x 6 0 32

/-- The rules of x6 (16 R332). -/
def outBad (x : Vector Word 7) (fmt : Word) : Bool :=
  let q := oFmt x == 3
  !(xf x 6 46 18 == 0 && (if q && fmtZP fmt then decide (1 ≤ oRZO x ∧ oRZO x ≤ 55) else oRZO x == 0) &&
    (if q then decide (1 ≤ oRSO x ∧ oRSO x ≤ 55) else oRSO x == 0) && decide (oLDO x % 16 = 0) &&
    decide (outRowSize (oFmt x) fmt ≤ oLDO x) && (!q || (fmtET fmt != 0 && fmtGS fmt == 0)))

/-- The spans a storing form writes, as register code, runs of offsets and cursor alignment (16 R331, R332). -/
def storeSpans (kind : ArrayKind) (b : Nat) (x : Vector Word 7) (fmt : Word) : List (Nat × List (Nat × Nat) × Nat) :=
  match kind with
  | .out =>
    [(b, (upFrom 0 32).map fun i => (i * oLDO x, outRowSize (oFmt x) fmt), 16)] ++
      (if oRSO x = 0 then [] else [(oRSO x, [(0, 64)], 2)]) ++ (if oRZO x = 0 then [] else [(oRZO x, [(0, 32)], 1)])
  | _ => [(b, [(0, 4096)], 64)]

/-- x0 to x6. -/
def Group.x7 (g : Group) : Vector Word 7 := Vector.ofFn fun k => g.x.toList.getD k 0

/-! ### The descriptors of copies and collectives (15 R305; 16 R338) -/

/-- FILL. -/
def cFill (x : Vector Word 7) : Bool := xf x 4 0 1 == 1
/-- RSRC. -/
def cSrc (x : Vector Word 7) : BitVec 6 := BitVec.ofNat 6 (xf x 0 0 6)
/-- RDST. -/
def cDst (x : Vector Word 7) : BitVec 6 := BitVec.ofNat 6 (xf x 0 6 6)
/-- RDST. -/
def kDst (x : Vector Word 7) : BitVec 6 := BitVec.ofNat 6 (xf x 0 6 6)
/-- RSRC. -/
def kSrc (x : Vector Word 7) : BitVec 6 := BitVec.ofNat 6 (xf x 0 0 6)
/-! ### Registers awaited -/

/-- A register still awaited from a long instruction or a local load (04 R85; 05 R118). -/
def Group.awaited (g : Group) (cs : List (BitVec 6)) : Option Wait :=
  match g.pend.find? fun p => !p.discarded && p.dst != 0 && p.banked == g.banked p.dst && cs.contains p.dst with
  | some p => some (if p.long then .long else .localLoad)
  | none => none

/-- A holder whose symbol has arrived and that is not yet resolved (03 R70). -/
def Group.resolving (g : Group) (cs : List (BitVec 6)) : Bool :=
  g.syms.any fun y => y.want.all (fun n => y.got.any fun p => p.1 == n) &&
    g.acts.any fun l => decide (l.no / 4 = y.slice) &&
      cs.any fun c => match (g.read l c).record with | some r => r.id == y.id | none => false

/-! ### The registers named -/

/-- k1 to kn. -/
def argRegs (n : Nat) : List (BitVec 6) := (upFrom 1 n).map (BitVec.ofNat 6)

/-- A number that a lane's register gives, 0 while it holds no DATA. -/
def Group.count (g : Group) (l : Lane) (c : BitVec 6) : Nat := let v := g.read l c; if v.tag = .data then v.word.toNat else 0

/-- The lanes and registers that an instruction reads beyond its sources. -/
def named (i : Instr) (g : Group) : List (Lane × BitVec 6) :=
  let lead (f : Lane → List (BitVec 6)) : List (Lane × BitVec 6) := (g.execs true).flatMap fun l => (f l).map fun c => (l, c)
  let codes (cs : List Nat) : List (BitVec 6) := cs.map (BitVec.ofNat 6)
  let args (limit : Nat) (a : BitVec 6) (l : Lane) : List (BitVec 6) := let n := g.count l a; if n ≤ limit then argRegs n else []
  match i with
  | .gcall b _ => lead (args 8 b)
  | .gret a => g.acts.flatMap fun l => (args 4 a l).map fun c => (l, c)
  | .barMax b _ _ => lead fun _ => [b]
  | .mma _ => lead fun _ => codes ((mmaOperands g.x7).map (·.1))
  | .mmaPair _ => lead fun _ => codes ((mmaOperands g.x7).map (·.1))
  | .mmaPack _ => lead fun _ => codes ((mmaOperands g.x7).map (·.1))
  | .accOut b _ => lead fun l => codes ((storeSpans .out b.toNat g.x7 (g.fmt l.no)).map (·.1))
  | .cpy => lead fun _ => (if cFill g.x7 then [] else [cSrc g.x7]) ++ [cDst g.x7]
  | .coll => lead fun _ => [kSrc g.x7, kDst g.x7]
  | .pfkArm _ _ => lead fun _ => codes [3, 4, 5, 6, 7]
  | _ => []

/-- The registers that a bank operation reads after its sources: b to b + 3 on an S-core (13 R269). -/
def bankMore (i : Instr) (g : Group) : List (BitVec 6) :=
  let from_ (b : BitVec 6) : List (BitVec 6) := if g.isG then [] else [b + 1, b + 2, b + 3]
  match i with
  | .bankAddF32 b _ => from_ b
  | .bankAddBf16 b _ => from_ b
  | .bankMaxF32 b _ => from_ b
  | .bankAxpyF32 b _ => from_ b
  | _ => []

/-- Every lane and register that an instruction reads in the active lanes. -/
def readsAt (i : Instr) (g : Group) : List (Lane × BitVec 6) :=
  (g.acts.flatMap fun l => (srcs i ++ bankMore i g).map fun c => (l, c)) ++ named i g

/-- Whether a register of a lane waits for a message: it is BOUND, or holds the symbol of a pending receive (03 R61, R72). -/
def Group.awaitsMsg (g : Group) (p : Lane × BitVec 6) : Bool :=
  match (g.read p.1 p.2).record with
  | some r => r.bound.isSome || g.syms.any fun y => y.id == r.id && (!g.isG || y.slice == p.1.no / 4) && y.mtag.isSome
  | none => false

/-- What holds back an instruction at a register that it names: its slot is to be fetched, it is awaited, or it holds a symbol (03
R67, R70; 04 R85; 18 R386). -/
def Group.namedWait (g : Group) (i : Instr) : Option Wait :=
  let ps := named i g
  if ps.any fun p => (g.read p.1 p.2).tag == .absent then some .miss
  else match g.awaited (ps.map (·.2)) with
    | some w => some w
    | none => if g.resolving (ps.map (·.2)) || ps.any fun p => (g.read p.1 p.2).isSym then some .symbol else none

end Sys2Proof.Machine
end

