-- ==== Sys2Proof/Machine/Issue.lean ====
section
/-! DEFINITION. What every instruction shares: address checks (00 R6; 11 R218 to R232), instruction fetch
(04 R79), the checks before an instruction acts in their order (03 R67; 18 R370; 19 R405), stream pops
and appends (11 R239, R240), the latch file and its runs (04 R86 to R91), and how an instruction ends. -/

namespace Sys2Proof.Machine

/-! ### Places and checks -/

/-- Where an access is performed. -/
structure Place where
  pa : Nat
  own : Bool
  pkg : Option (BitVec 8)
  key : Option Nat
  ct : Bool
  deriving DecidableEq, Repr

/-- The outcome of an address check: a place, a trap, or a translation to be walked for. -/
inductive Chk where
  | ok (p : Place)
  | trap (t : Trap)
  | walk (va : Nat)
  deriving DecidableEq, Repr

/-- What an access asks of its page (11 R231, R232). -/
structure Need where
  r : Bool
  w : Bool
  x : Bool
  a : Bool
  cap : Bool
  deriving DecidableEq, Repr

/-- The bits of address below a leaf of level 2, 3 or 4 (11 R230). -/
def pageShift (level : Nat) : Nat := if level = 2 then 36 else if level = 3 then 26 else 16

/-- A field of a page table entry. -/
def pteBit (p : Word) (i : Nat) : Bool := p.getLsbD i

/-- PFN as a physical address (11 R231). -/
def ptePA (p : Word) : Nat := (p.extractLsb' 32 28).toNat * 8192

/-- The physical address a leaf gives: shared memory and LP-DDR-5X have their own places (log 5). -/
def leafPA (p : Word) (level va : Nat) : Nat :=
  let pa := ptePA p + va % 2 ^ pageShift level
  if pteBit p 2 then Config.sharedBase + pa else pa

/-- A leaf that is malformed or lies outside its kind's range (11 R231, R232). -/
def leafBad (p : Word) (level : Nat) : Bool :=
  p.extractLsb' 60 4 != 0 || decide (ptePA p % 2 ^ pageShift level ≠ 0) ||
    (if pteBit p 2 then
       decide (level = 2) || decide (ptePA p / 2 ^ 32 ≥ 6) ||
         decide (ptePA p % 2 ^ 32 + 2 ^ pageShift level > Config.sharedDie)
     else decide (ptePA p + 2 ^ pageShift level > Config.ddrSize))

/-- The trap a leaf gives an access, if any: the rows of 11 R232 after the translation itself. -/
def leafDenies (s : State) (p : Word) (level va : Nat) (n : Need) (priv : BitVec 2) : Option Nat :=
  if (n.r && !pteBit p 3) || (n.w && !pteBit p 4) || (n.x && !pteBit p 5) || (n.a && !pteBit p 6) ||
      (priv == 0 && !pteBit p 7) || (n.cap && !pteBit p 9) ||
      (pteBit p 2 && p.extractLsb' 24 8 == s.pkg.pod && s.pkg.ssPages.contains (leafPA p level va / 4096)) then some 0x09
  else if pteBit p 10 && !pteBit p 2 && !s.pkg.keys.contains (p.extractLsb' 11 13).toNat then some 0x0A
  else none

/-- A walk of the tables for a virtual address (11 R230): `n` levels left at table `t`, where `cached` holds the table pointers that
a walk cache gives by level. The leaf and its level, or none for a translation fault; with the pointers followed, by level. -/
def walkFrom (m : Memory) (cached : Nat → Option Word) (va : Nat) : Nat → Nat → List (Nat × Word) × Option (Nat × Word)
  | 0, _ => ([], none)
  | n + 1, t =>
    let level := 4 - n
    let e : Word := (cached level).getD (BitVec.ofNat 64 (m.nat (t + 8 * (va / 2 ^ (16 + 10 * n) % 1024)) 8))
    if !pteBit e 0 then ([], none)
    else if pteBit e 1 then ([], if level = 1 ∨ leafBad e level then none else some (level, e))
    else if e.extractLsb' 2 30 != 0 || e.extractLsb' 60 4 != 0 then ([], none)
    else let r := walkFrom m cached va n (ptePA e); ((level, e) :: r.1, r.2)

/-- A walk of the tables as they stand in memory. -/
def walkTable (m : Memory) (va n t : Nat) : Option (Nat × Word) := (walkFrom m (fun _ => none) va n t).2

/-- Whether a TLB entry serves an address of an ASID. -/
def TlbEntry.serves (e : TlbEntry) (asid va : Nat) : Bool :=
  (match e.asid with | some a => a == asid | none => true) && decide (va / 2 ^ pageShift e.level = e.vpage)

/-- The translation that a core's L1 TLB, or its quad's TLB, holds for an address (11 R233). -/
def State.tlbFind (s : State) (core asid va : Nat) : Option TlbEntry :=
  (s.tlb.find? fun e => e.core == some core && e.serves asid va).or
    (s.tlb.find? fun e => e.core.isNone && e.quad == quadOf core && e.serves asid va)

/-- The entries of a list with those of one kind beyond the first `n` dropped. -/
def keepFirst {α : Type} (p : α → Bool) : Nat → List α → List α
  | _, [] => []
  | n, x :: t => if p x then (match n with | 0 => keepFirst p 0 t | k + 1 => x :: keepFirst p k t) else x :: keepFirst p n t

/-- A translation fetched into a core's L1 TLB of 64 entries and its quad's TLB of 2,048, and its table pointers into the die's
walk cache, if the tables hold one (11 R230, R233). The spec does not say which entry a full TLB gives up: the oldest goes
(log 73). -/
def State.fillTlb (s : State) (core asid va : Nat) : Option State :=
  match mapGet asid s.pkg.roots with
  | none => none
  | some root =>
    let covers (level : Nat) : Nat := va / 2 ^ (56 - 10 * level)
    let cached (level : Nat) : Option Word :=
      (s.pointers.find? fun e => e.die == dieOf core && e.asid == asid && e.level == level && e.vpage == covers level).map (·.pte)
    let r := walkFrom s.mem cached va 4 root
    r.2.map fun p =>
      let entry (c : Option Nat) : TlbEntry :=
        ⟨c, quadOf core, if pteBit p.2 8 then none else some asid, p.1, va / 2 ^ pageShift p.1, p.2⟩
      let new := (r.1.filter fun q => (cached q.1).isNone).map fun q => (⟨dieOf core, asid, q.1, covers q.1, q.2⟩ : PtrEntry)
      { s with
        tlb := keepFirst (fun e => e.core == some core) 64
          (keepFirst (fun e => e.core.isNone && e.quad == quadOf core) 2048 (entry (some core) :: entry none :: s.tlb))
        pointers := new ++ s.pointers }

/-- The place of an address of `size` bytes for a group (11 R218, R220, R221, R232). -/
def resolveAddr (s : State) (g : Group) (addr size : Nat) (n : Need) : Chk :=
  let mwb := g.sp.mwb.toNat
  let swb := g.sp.swb.toNat
  let tv : Word := BitVec.ofNat 64 addr
  if mwb ≤ addr ∧ addr < mwb + Config.meshSize then
    let w := addr - mwb
    let core := w / 2 ^ 19
    if core / 1024 ≥ 6 then .trap (trap 0x08 tv)
    else if w % 2 ^ 19 + size > localSize core then .trap (trap 0x09 tv)
    else .ok ⟨localPA core (w % 2 ^ 19), core == g.core, none, none, true⟩
  else if swb ≤ addr ∧ addr < swb + Config.windowSize then
    let w := addr - swb
    if w / 2 ^ 32 ≥ 6 ∨ w % 2 ^ 32 ≥ Config.sharedDie then .trap (trap 0x08 tv)
    else if s.pkg.ssPages.contains ((Config.sharedBase + w) / 4096) then .trap (trap 0x09 tv)
    else .ok ⟨Config.sharedBase + w, false, none, none, true⟩
  else
    match s.tlbFind g.core g.sp.asid.toNat addr with
    | some e =>
      match leafDenies s e.pte e.level addr n g.priv with
      | some c => .trap (trap c tv)
      | none =>
        let pkg := e.pte.extractLsb' 24 8
        .ok ⟨leafPA e.pte e.level addr, false, if pkg = s.pkg.pod then none else some pkg,
          if pteBit e.pte 10 && !pteBit e.pte 2 then some (e.pte.extractLsb' 11 13).toNat else none,
          pteBit e.pte 9⟩
    | none =>
      match g.walkFault with
      | some (c, va) => if va = tv then .trap (trap c tv) else .walk addr
      | none => .walk addr

/-- Whether an address lies in the group's own core's part of the mesh window. -/
def ownAddr (g : Group) (addr : Nat) : Bool :=
  decide (g.sp.mwb.toNat ≤ addr ∧ addr < g.sp.mwb.toNat + Config.meshSize ∧ (addr - g.sp.mwb.toNat) / 2 ^ 19 = g.core)

/-- The first permission of a list that a capability lacks. -/
def lacks (v : Quad) (ps : List Perm) : Bool := ps.any fun p => !capHas v p

/-- The checks of an access in their order (00 R6; 13 R260): tag, permission (with SC for a stored CAP
and M for a remote home), bounds, alignment, then window or translation. -/
def checkAccess (s : State) (g : Group) (v : Val) (c : BitVec 6) (idx : Int) (size align : Nat)
    (perms : List Perm) (n : Need) : Chk :=
  if v.tag ≠ .cap then .trap (trapReg 0x03 c)
  else
    let addr := spreadInt (capWalk v.bits) idx
    if lacks v.bits perms || (n.cap && !capHas v.bits .sc) || (!ownAddr g addr && !capHas v.bits .m) then
      .trap (trapReg 0x05 c)
    else if !inBounds v.bits idx size then .trap (trapReg 0x04 c)
    else if addr % align ≠ 0 then .trap (trap 0x0C (BitVec.ofNat 64 addr))
    else resolveAddr s g addr size n

/-! ### Instruction fetch (04 R79) -/

/-- The lines of code at a pc are handed over: one whose check value fails is poisoned from then on (11 R236). -/
def State.handCode (s : State) (g : Group) (pc : Word) : State :=
  [pc, pc + 2].foldl (fun s a =>
    match resolveAddr s g a.toNat 2 ⟨false, false, true, false, false⟩ with
    | .ok p => if p.pkg.isNone then s.handOver (.load 2 false false) p.pa p.key else s
    | _ => s) s

/-- What a fetch gives. -/
inductive Fetched where
  | instr (i : Instr) (word len : Nat)
  | reserved (word len : Nat)
  | trap (t : Trap)
  | walk (va : Nat)
  deriving DecidableEq, Repr

/-- The halfword at an address in the code capability, or why there is none: bounds (0x04), the window
or translation, poison (0x12). -/
def fetchHalf (s : State) (g : Group) (pc at_ : Word) : Nat ⊕ Fetched :=
  if !inBounds g.codeCap.bits at_.toNat 2 then .inr (.trap (eventTrap 0x04 pc))
  else
    match resolveAddr s g at_.toNat 2 ⟨false, false, true, false, false⟩ with
    | .trap t => .inr (.trap { t with issued := false })
    | .walk va => .inr (.walk va)
    | .ok p => match s.codeHalf p.pa p.key p.pkg with | some h => .inl h | none => .inr (.trap (eventTrap 0x12 pc))

/-- Fetches and decodes the instruction at a pc of a group. -/
noncomputable def fetch (s : State) (g : Group) (pc : Word) : Fetched :=
  match fetchHalf s g pc pc with
  | .inr f => f
  | .inl h =>
    if h % 2 = 0 then
      match decode16 h with
      | some i => .instr i h 2
      | none => .reserved h 2
    else
      match fetchHalf s g pc (pc + 2) with
      | .inr f => f
      | .inl h2 =>
        let w := h + 65536 * h2
        match decode32 w with
        | some i => .instr i w 4
        | none => .reserved w 4

/-- The fetch at a pc once its translations are there: a miss is taken as filled, up to `n` times. -/
noncomputable def fetchSure (g : Group) (pc : Word) : Nat → State → Fetched
  | 0, s => fetch s g pc
  | n + 1, s =>
    match fetch s g pc with
    | .walk va => (match s.fillTlb g.core g.sp.asid.toNat va with | some s1 => fetchSure g pc n s1 | none => .walk va)
    | f => f

/-- Whether the instruction that a group issues next reads a latch, and so belongs to the run it is in (04 R86, R88). -/
noncomputable def State.nextReads (s : State) (g : Group) : Bool :=
  match fetchSure g g.pc 2 s with
  | .instr j _ _ => readsLatch j
  | _ => false

/-- Whether the next instruction of a group belongs to the run it is in (04 R88, R91). -/
noncomputable def State.midRun (s : State) (g : Group) : Bool := g.runLen != 0 && s.nextReads g

/-- A group whose run has ended: its writes stand (04 R88), the suppression of debug units and the single instruction of a STEP end
with it (19 R393, R399); a run begins anew after `rett`. -/
def Group.closed (g : Group) : Group :=
  { g with
    shadow := none
    pend := g.pend.map fun p => { p with inRun := false }
    suppress := g.suppress && g.runLen == 0
    stopReq := if g.stopReq = 2 then 1 else g.stopReq }

/-- The issuing group has issued: if that ends its run, what the run wrote stands, for every part of its gang (04 R88). -/
noncomputable def State.closeRun (s : State) : State :=
  if s.midRun s.g then s else { s.shareXM with g := s.shareXM.g.closed }

/-! ### How an instruction ends -/

/-- What an instruction does in one issue. -/
inductive Act where
  /-- It is performed; the pc goes past it. -/
  | done (s : State)
  /-- It transfers control to a pc. -/
  | jump (s : State) (pc : Word)
  /-- It does not issue, and issues again later. -/
  | wait (s : State) (w : Wait)
  /-- It takes a trap; the state holds what its description lists before it. -/
  | trap (s : State) (t : Trap)
  /-- The group does not go on from here by this instruction. -/
  | over (s : State)
  deriving DecidableEq, Repr

/-- A step takes one clk. -/
def State.tick (s : State) : State := { s with clk := s.clk + 1 }

/-- A prefetch unit is disarmed once its runs are over: it starts none for lines fetched from now on (15 R311). -/
def PUnit.disarm (p : PUnit) : PUnit :=
  { p with arm := if p.due.isEmpty && p.run.isNone then none else p.arm.map fun a => { a with live := false } }

/-- The unit armed on a stream of a gang is disarmed: the stream has ended or has reached COUNT (15 R311). -/
def State.disarmOn (s : State) (gang reg : Nat) : State :=
  { s with punits := s.punits.map fun p => if p.arm.any fun a => a.gang == gang && a.reg == reg then p.disarm else p }

/-- The stream elements an instruction held are consumed (11 R239); a stream that reaches COUNT disarms the prefetch unit armed on
it (15 R311). -/
def State.consume (s0 : State) : State :=
  if s0.g.held.isEmpty then s0
  else
    let ends (h : Nat × Nat × List (Nat × Val)) : Bool :=
      match s0.g.stream (BitVec.ofNat 6 h.1) with
      | some st => decide ((st.ctl.extractLsb' 0 32).toNat ≤ st.count + h.2.1)
      | none => false
    let s := (s0.g.held.filter ends).foldl (fun s h => s.disarmOn s.g.gang h.1) s0
    let v := s.g.held.foldl (fun (v : Vector (Option Stream) 8) h =>
      if hh : h.1 - 48 < 8 then v.set (h.1 - 48) ((v[h.1 - 48]).map fun st => { st with count := st.count + h.2.1 }) else v) s.g.streams
    let s1 := s.shareStreams v
    { s1 with g := { s1.g with held := [] } }

/-- The value of a debug trap (19 R402). -/
def debugTval (addr unit src : Nat) : Word := BitVec.ofNat 64 (addr * 256 + unit * 64 + src)

/-- The registers that an instruction writes in a lane: its destination, and a base that it advances (05 R114). -/
def writtenRegs (i : Instr) : List (BitVec 6) := (dst i).toList ++ (bumpReg i).toList

/-- An instruction is complete: the run's counts, sr.lrun, the registers before the run, and sr.done
after a side effect at level U (04 R86 to R88; 18 R368). `s0` is the state it issued in. -/
def State.retire (s0 s : State) (i : Instr) (effect : Bool) : State :=
  let reads := readsLatch i
  let u := s0.g.priv == 0
  { s with
    g := { s.g with
      run := .ready
      runLen := (if reads then s.g.runLen else 0) + 1
      shorts := (if reads then s.g.shorts else 0) + (isShort i).toNat
      shadow := (if reads then s.g.shadow else some s0.g.snap).map fun b =>
        { b with wrote := b.wrote ++ s0.g.acts.flatMap fun l => (writtenRegs i).map fun c => (l.no, c) }
      sp := { s.g.sp with
        lrun := if !reads && u then s0.g.pc else s.g.sp.lrun
        done := if effect && u then 0 else s.g.sp.done }
      sent := false
      answers := []
      walkFault := none
      lastIssue := s.clk
      lastPc := s0.g.pc } }

/-- A single step is taken after an instruction at level U that ends its run (01 R26). -/
noncomputable def State.stepTrap (s0 s : State) (jumped : Bool) : State :=
  if s0.g.priv = 0 ∧ statusSStep s0.g.sp.status ∧ s.g.run = .ready ∧ s.g.priv = 0 then
    if !jumped && s.nextReads s.g then s
    else s.takeTrap { eventTrap 0x31 (debugTval s0.g.pc.toNat 0 2) with epc := some s.g.pc } false
  else s

/-- Ends an issue: `s0` is the state the instruction issued in, `effect` whether it has a side effect. -/
noncomputable def finish (i : Instr) (effect : Bool) (s0 : State) : Act → State
  | .done s =>
    let s1 := (State.retire s0 s i effect).consume
    (State.stepTrap s0 { s1 with g := { s1.g with pc := s0.g.pc + BitVec.ofNat 64 i.len } } false).tick
  | .jump s pc =>
    let s1 := (State.retire s0 s i effect).consume
    (State.stepTrap s0 { s1 with g := { s1.g.endRun with pc := pc, suppress := false } } true).tick
  | .wait s w =>
    let since := match s0.g.run with | .waiting w' c => if w' = w then c else s0.clk | _ => s0.clk
    State.tick { s with g := { s.g with run := .waiting w since } }
  | .trap s t => (s.takeTrap t (readsLatch i)).tick
  | .over s => s.tick

/-! ### The checks before an instruction acts -/

/-- How an instruction treats late and poisoned operands. -/
structure Mode where
  /-- It transforms symbolic operands itself (03 R64 to R66). -/
  affine : Bool
  /-- It reads a poisoned register without a trap (03 R71). -/
  poisonOk : Bool
  /-- Only the lowest active lane's operands matter: it is performed once for the group (05 R125; 07 R165). -/
  lead : Bool
  deriving DecidableEq, Repr

/-- Symbolic operands block. -/
def strict : Mode := ⟨false, false, false⟩
/-- Symbolic operands may be transformed. -/
def affine : Mode := ⟨true, false, false⟩
/-- Performed once, with the operands of the lowest active lane. -/
def elected : Mode := ⟨false, false, true⟩

/-- The distance from sr.epc to the instruction at the pc (04 R92). -/
def Group.encDist (g : Group) (reads : Bool) : Nat := if reads then (g.pc - g.sp.lrun).toNat else 0

/-- The first latch a source names that the run does not hold yet (04 R86). -/
def latchMissing (i : Instr) (g : Group) : Bool :=
  (srcs i).any fun c => decide (56 ≤ c.toNat ∧ g.shorts < c.toNat - 55)

/-- The lanes an instruction with a side effect is performed for: at level U those not in DONE (18 R368). -/
def Group.todo (g : Group) (ls : List Lane) : List Lane :=
  if g.priv = 0 then ls.filter fun l => !g.sp.done.getLsbD l.no else ls

/-- The breakpoint that matches at the pc, in a lane that is not in DONE (19 R403, R405). -/
def Group.breakpoint (g : Group) : Option Nat :=
  if g.suppress then none
  else
    (upFrom 0 4).find? fun n => g.slices.any fun sl =>
      let b := sl.bp.toList.getD n 0
      b.getLsbD 63 && (g.priv == 0 || (g.priv == 1 && b.getLsbD 62)) &&
        b.extractLsb' 1 55 == g.pc.extractLsb' 1 55 && (g.todo g.acts).any (fun l => decide (l.no / 4 = sl.idx))

/-- A source register that is ABSENT in an executing lane (18 R386). -/
def Group.absent (g : Group) (ls : List Lane) (cs : List (BitVec 6)) : Bool :=
  ls.any fun l => cs.any fun c => (g.read l c).tag == .absent

/-- The fetch of the slots of a group's ABSENT sources begins (18 R386). -/
def State.startMisses (s : State) (ls : List Lane) (cs : List (BitVec 6)) : State :=
  let want := ls.flatMap fun l => (cs.filter fun c => (s.g.read l c).tag == .absent).map fun c =>
    if s.g.banked c then (s.g.gid, l.no / 4 * 4, 64 + c.toNat) else (s.g.gid, l.no, c.toNat)
  { s with misses := s.misses ++ want.eraseDups.filter fun m => !s.misses.contains m }

/-- Whether an operand is a live symbol in a lane that matters: any active lane under U = 1 (03 R68). -/
def Group.anySym (g : Group) (lead u : Bool) (cs : List (BitVec 6)) : Bool :=
  (if lead then g.execs true else if u then g.acts else g.execs u).any fun l => cs.any fun c => (g.read l c).isSym

/-- A destination bound to a pending receive (03 R67). -/
def Group.boundDst (g : Group) (d : Option (BitVec 6)) : Bool :=
  match d with
  | none => false
  | some c => g.acts.any fun l => decide (c ≠ 0) && (match (if g.banked c then g.read l c else l.reg c).record with | some r => r.bound.isSome | none => false)

/-- The first poisoned source, lane by lane (03 R71). -/
def Group.poisonSrc (g : Group) (ls : List Lane) (cs : List (BitVec 6)) : Option (BitVec 6) :=
  ls.findSome? fun l => cs.find? fun c => (g.read l c).tag == .poison

/-- Bound stream registers among the sources, each once. -/
def Group.popRegs (g : Group) (cs : List (BitVec 6)) : List (BitVec 6) :=
  (cs.filter fun c => (g.stream c).isSome).eraseDups

/-- DIR, bit 36 of x1: an append stream (13 R274). -/
def Stream.append (st : Stream) : Bool := st.ctl.getLsbD 36
/-- COUNT, bits [31:0] of x1. -/
def Stream.limit (st : Stream) : Nat := (st.ctl.extractLsb' 0 32).toNat
/-- The element size in bytes. -/
def Stream.size (st : Stream) : Nat := 2 ^ (st.ctl.extractLsb' 32 4).toNat
/-- Pad mode, bit 37. -/
def Stream.padded (st : Stream) : Bool := st.ctl.getLsbD 37
/-- Sign extension, bit 38. -/
def Stream.sx (st : Stream) : Bool := st.ctl.getLsbD 38 && decide (st.size ≤ 4)
/-- The index of element i (11 R238). -/
def Stream.at_ (st : Stream) (i : Nat) : Int := index st.base + st.stride.toInt * i

/-- One lane's access after its checks. -/
structure Acc where
  lane : Nat
  place : Place
  va : Nat
  op : MemOp
  deriving DecidableEq, Repr

/-- The checks of the lanes in ascending order: the accesses that pass, and what stopped the first that
does not (18 R371). -/
def checkLanes (f : Lane → Chk × Nat × MemOp) : List Lane → List Acc × Option (Nat × Chk)
  | [] => ([], none)
  | l :: t =>
    match f l with
    | (.ok p, va, op) => let (as, e) := checkLanes f t; (⟨l.no, p, va, op⟩ :: as, e)
    | (c, _, _) => ([], some (l.no, c))

/-- An access as the watchpoints see it: its lane, address and size, and whether it reads and writes. -/
structure Watched where
  lane : Nat
  va : Nat
  size : Nat
  rd : Bool
  wr : Bool
  deriving DecidableEq, Repr

/-- The accesses of some lanes as the watchpoints see them. -/
def watchedAccs (rd wr : Bool) (size : Nat) (as : List Acc) : List Watched := as.map fun a => ⟨a.lane, a.va, size, rd, wr⟩

/-- The trap of a watched access among those about to be made, of a lane that is not in DONE (19 R404, R405): the lowest-numbered
unit that matches, at its lowest lane. -/
def Group.watchTrap (g : Group) (acs : List Watched) : Option Trap :=
  if g.priv ≠ 0 ∨ g.suppress then none
  else
    (upFrom 0 4).findSome? fun n =>
      acs.findSome? fun a =>
        match g.sliceOf a.lane with
        | none => none
        | some sl =>
          let w := sl.wp.toList.getD n 0
          let lo := (w.extractLsb' 0 56).toNat
          let hi := lo + 2 ^ (w.extractLsb' 58 3).toNat
          if w.getLsbD 63 && ((w.getLsbD 62 && a.wr) || (w.getLsbD 61 && a.rd)) && !g.sp.done.getLsbD a.lane &&
              decide (lo < a.va + a.size ∧ a.va < hi) then
            some (trap 0x31 (debugTval a.va n 4))
          else none

/-- The elements that an instruction has popped, as the watchpoints see them (11 R239; 19 R405). -/
def Group.poppedAccs (g : Group) : List Watched :=
  g.held.flatMap fun h =>
    match g.stream (BitVec.ofNat 6 h.1) with
    | none => []
    | some st => (h.2.2.take h.2.1).zipIdx.map fun p =>
        ⟨p.1.1, spreadInt (capWalk st.base.bits) (st.at_ (st.count + p.2)), st.size, true, false⟩

/-- Fetching for a translation: the group waits while its walk is under way (11 R232, R233). -/
def State.startWalk (s : State) (va : Nat) : State :=
  let q := quadOf s.g.core
  if s.walks.any (fun w => w.quad == q && w.asid == s.g.sp.asid.toNat && decide (w.va / 65536 = va / 65536)) then s
  else { s with walks := s.walks ++ [⟨q, s.g.sp.asid.toNat, va, false⟩] }

/-- Goes on unless a watched access is about to be made, the elements popped among them (19 R405). -/
def watchedAct (s : State) (acs : List Watched) (k : State → Act) : Act :=
  match s.g.watchTrap (s.g.poppedAccs ++ acs) with
  | some t => .trap s t
  | none => k s

/-- The check of a side-effecting instruction on its follower, then the watchpoints, and then what it performs (04 R89; 19
R405). -/
noncomputable def withWatch (i : Instr) (acs : List Watched) (s : State) (k : State → Act) : Act :=
  match fetch s s.g (s.g.pc + BitVec.ofNat 64 i.len) with
  | .instr j w _ =>
    if readsLatch j then .trap s (trap 0x02 (encTval w (s.g.encDist (readsLatch i) + i.len))) else watchedAct s acs k
  | .reserved _ _ => watchedAct s acs k
  | .trap t =>
    let pc := s.g.pc + BitVec.ofNat 64 i.len
    .trap (if t.code = 0x12 then s.handCode s.g pc else s) { t with tval := pc, issued := true }
  | .walk va => .wait (s.startWalk va) .translation

/-- The same for an instruction that accesses nothing through a capability. -/
noncomputable def withFollower (i : Instr) (s : State) (k : State → Act) : Act := withWatch i [] s k

/-- A new live symbol for each slice of some lanes (03 R68, R72). -/
def State.newSyms (s : State) (ids : List (Nat × BitVec 6)) (want : List Nat) (got : List (Nat × Val)) : State :=
  { s with g := { s.g with syms := s.g.syms ++ ids.map fun p =>
      ⟨p.1, p.2, want.filter (fun n => n / 4 == p.1), got.filter (fun q => q.1 / 4 == p.1), none, s.clk, false⟩ } }

/-- Whether an access on its way holds up another to its home: one of the same source, or of a lower lane of the same instruction
(12 R247, R248), or, of SC operations to another package, one before it in the SC order (12 R258). -/
def Req.holds (q r : Req) : Bool :=
  q.home == r.home && q.pkg == r.pkg && (q.src == r.src || (q.gid == r.gid && q.since == r.since) || (q.sc && r.sc))

/-- An access sent toward its home (12 R246 to R250). -/
def State.send (s : State) (r : Req) : State := { s with net := s.net ++ [r] }

/-- Arrived data of a lane goes to the symbols that await it. -/
def Group.give (g : Group) (syms : List (Nat × BitVec 6)) (lanes : List Nat) (v : Val) : Group :=
  { g with syms := g.syms.map fun y =>
      if syms.any (fun p => p.1 == y.slice && p.2 == y.id) then
        { y with got := y.got ++ (lanes.filter fun n => n / 4 == y.slice).map fun n => (n, v) }
      else y }

/-- The local-memory port of a group: that of its rotation, or of its issue port (07 R151). -/
def Group.memPort (g : Group) : Nat := if g.isG then g.first % 4 else if g.first < 12 then 0 else 1

/-- Whether an access of another core or an engine has taken the local-memory port of the issuing group: the port goes by the
arrival clk, modulo 2 on an S-core and 4 on a G-core (07 R151). An arrival is a step of its own, so it counts with the issue in
the step after it (log 27). -/
def State.displaced (s : State) : Bool :=
  match (s.core s.g.core).portTaken with
  | some c => c + 1 == s.clk && c % (if s.g.isG then 4 else 2) == s.g.memPort
  | none => false

/-- Whether an SC operation is due at a home: it is performed before the other accesses there (12 R249, R257). -/
def State.scDueAt (s : State) (home : Nat) : Bool :=
  s.scq.any fun o => o.req.pkg.isNone && o.req.home == home && decide (16 * o.window + 112 ≤ s.clk)

/-- Whether an access of the issuing group is performed at its issue: at its own core's local memory, at
a line no engine owns, at a port it has, where no SC operation is due first, behind no access of its source or of a lower lane
that is still on its way there (05 R117; 07 R151; 12 R247 to R249). -/
def State.immediate (s : State) (a : Acc) : Bool :=
  a.place.own && !s.ownedAt a.place.pa 64 && !s.displaced && !s.scDueAt (homeOf a.place.pa) &&
    !(s.net.any fun r => (r.src == s.g.srcOf a.lane || (r.gid == s.g.gid && r.since == s.clk)) && r.home == homeOf a.place.pa)

/-- An access performed at its issue: the state after it and what it returned. -/
def State.performOwn (s : State) (a : Acc) : State × Val :=
  let p := s.atHome a.op a.place.pa a.place.key
  let s1 := { s.inspected a.op a.place.pa a.place.key with mem := p.mem }
  match p.wrote with
  | some (b, n) => (s1.noticed s.g.gid b n, p.val)
  | none => (s1, p.val)

/-- The request of an access of the issuing group. -/
def State.reqOf (s : State) (a : Acc) (lanes : List Nat) (syms : List (Nat × BitVec 6)) (entry : Option Nat) (ans : Bool) : Req :=
  { src := s.g.srcOf a.lane, gid := s.g.gid, gang := s.g.gang, core := s.g.core, home := homeOf a.place.pa, pa := a.place.pa,
    va := BitVec.ofNat 64 a.va, op := a.op, lanes := lanes, syms := syms, entry := entry, ans := ans, pkg := a.place.pkg,
    key := a.place.key, since := s.clk, sc := false }

/-- One access of the issuing group performed or sent: `lanes` receive its value through `syms`, or the
waiting instruction does through `ans`. -/
def State.access (s : State) (a : Acc) (lanes : List Nat) (syms : List (Nat × BitVec 6)) (entry : Option Nat) (ans : Bool) : State :=
  if s.immediate a then
    let (s1, v) := s.performOwn a
    let g := s1.g.give syms lanes v
    { s1 with g := if ans then { g with answers := g.answers ++ [(a.lane, .ok v)] } else g }
  else
    s.send (s.reqOf a lanes syms entry ans)

/-- The sources of a group: its strand, or each of its slices (12 R247, R252). -/
def Group.sources (g : Group) : List Nat := g.slices.map fun sl => g.core * 64 + sl.num

/-- Whether an SC operation of a source of the group is not yet performed: no later memory operation is (12 R257). -/
def State.scPending (s : State) : Bool :=
  (s.scq.any fun o => s.g.sources.contains o.req.src) || s.net.any fun r => r.sc && s.g.sources.contains r.src

/-- What keeps the pops of an instruction from being made: a trap, a translation to be walked for, no free symbol, or an SC operation
not yet performed. -/
inductive PopStop where
  | trap (t : Trap)
  | walk (va : Nat)
  | pool
  | fence
  deriving DecidableEq, Repr

/-- Pops one element for each executing lane of a bound register (11 R239): the state with the elements
held, or what stops it. -/
noncomputable def popOne (c : BitVec 6) (st : Stream) (u : Bool) (s : State) : State ⊕ PopStop :=
  let ls := s.g.execs u
  let real := ls.take (st.limit - st.count)
  if st.append || (decide (real.length < ls.length) && !st.padded) then .inr (.trap (trapReg 0x24 c))
  else if s.scPending then .inr .fence
  else
    let nth (l : Lane) : Nat := st.count + (real.takeWhile fun x => x.no != l.no).length
    let chk (l : Lane) : Chk × Nat × MemOp :=
      let ix := st.at_ (nth l)
      (checkAccess s s.g st.base c ix st.size st.size [.r] ⟨true, false, false, false, false⟩,
        spreadInt (capWalk st.base.bits) ix, .load st.size st.sx false)
    match checkLanes chk real with
    | (_, some (_, .trap t)) => .inr (.trap t)
    | (_, some (_, .walk va)) => .inr (.walk va)
    | (_, some (_, .ok _)) => .inr .pool
    | (as, none) =>
      match s.freshIds (slicesOf (real.map (·.no))) with
      | none => .inr .pool
      | some ids =>
        let vals := ls.map fun l =>
          if real.any (fun x => x.no == l.no) then (l.no, match mapGet (l.no / 4) ids with | some id => pureSym id | none => Val.zero)
          else (l.no, ⟨BitVec.ofNat 128 (st.pad.toNat), .data⟩)
        let s1 := s.newSyms ids (real.map (·.no)) []
        let s2 := as.foldl (fun s a => s.access a [a.lane] ids none false) s1
        .inl { s2 with g := { s2.g with held := s2.g.held ++ [(c.toNat, real.length, vals)] } }

/-- Whether the element of a register is held already, or the register is bound to no stream. -/
def Group.holds (g : Group) (c : BitVec 6) : Bool := (g.stream c).isNone || (g.held.lookup c.toNat).isSome

/-- Pops for every bound source register that has no element held yet. -/
noncomputable def popAll (u : Bool) : List (BitVec 6) → State → State ⊕ PopStop
  | [], s => .inl s
  | c :: t, s =>
    match s.g.stream c with
    | none => popAll u t s
    | some st =>
      if s.g.holds c then popAll u t s
      else match popOne c st u s with
        | .inl s1 => popAll u t s1
        | .inr a => .inr a

/-- Whether an instruction has a side effect for this group: its own, a stream pop, or an append. -/
def effectOf (i : Instr) (g : Group) : Bool :=
  sideEffect i || !(g.popRegs (srcs i)).isEmpty || (match dst i with | some d => (g.stream d).isSome | none => false)

/-- The checks decided at decode (18 R370): core kind, level, the instruction's own, and the latches its
run holds. -/
def decodeTrap (i : Instr) (pre : State → Option Trap) (s : State) : Option Trap :=
  match kindTrap i with
  | some (onG, code) => if s.g.isG = onG then some (trap code 0) else decodeRest
  | none => decodeRest
where
  decodeRest : Option Trap :=
    if s.g.priv.toNat < minLevel i then some (trap 0x38 0)
    else match pre s with
      | some t => some t
      | none => if latchMissing i s.g then some (trapEnc i.word (s.g.encDist (readsLatch i))) else none

/-- The checks after every block and before the instruction's own (03 R67; 04 R86; 07 R157; 03 R71). -/
def lateTrap (i : Instr) (m : Mode) (cs : List (BitVec 6)) (s : State) : Option Trap :=
  if readsLatch i && decide (16 ≤ s.g.runLen) then some (trap 0x02 (encTval i.word (s.g.encDist true)))
  else if s.g.isG && !roleAllows s.g.role (classOf i) then some (trap 0x22 (BitVec.ofNat 64 (op9Of i)))
  else if m.poisonOk then none
  else (s.g.poisonSrc (s.g.execs (isUniform i || m.lead)) cs).map (trapReg 0x12)

/-- Whether a pop that is still to be made gives a symbol rather than PAD (11 R239). -/
def Group.popsSym (g : Group) (cs : List (BitVec 6)) : Bool :=
  cs.any fun c => !g.holds c && (match g.stream c with | some st => decide (st.count < st.limit) | none => false)

/-- Why an instruction blocks (03 R67, R68): on a symbol it does not transform, on a second symbol, on its own use of one
(`blk`), or on a write of a BOUND register. -/
def Group.block (g : Group) (i : Instr) (m : Mode) (cs : List (BitVec 6)) (blk : Group → Bool) : Option Wait :=
  let u := isUniform i
  let sym := g.anySym m.lead u cs
  if ((!m.affine || u) && !(m.poisonOk && !m.affine) && sym) || (m.affine && g.popsSym cs && sym) || blk g then some .symbol
  else if g.boundDst (dst i) then some .recv
  else none

/-- The blocks of an instruction, then the checks after them, then what follows. -/
noncomputable def passBlocks (i : Instr) (m : Mode) (cs : List (BitVec 6)) (blk : Group → Bool) (k : State → Act) (s : State) : Act :=
  match s.g.block i m cs blk with
  | some w => .wait s w
  | none =>
    match lateTrap i m cs s with
    | some t => .trap s t
    | none => k s

/-- The pops of an instruction, after their checks (11 R239), and what follows. -/
noncomputable def withPops (u : Bool) (cs : List (BitVec 6)) (k : State → Act) (s : State) : Act :=
  match popAll u cs s with
  | .inr (.trap t) => .trap s t
  | .inr (.walk va) => .wait (s.startWalk va) .translation
  | .inr .pool => .wait s .symPool
  | .inr .fence => .wait s .fence
  | .inl s1 => k s1

/-- The body of an instruction that has popped elements: it ends only after the check of its follower and the watchpoints, which come
after its own checks (04 R89; 19 R405). Until then the elements are not consumed. -/
noncomputable def popped (i : Instr) (body : State → Act) (s : State) : Act :=
  if s.g.held.isEmpty then body s
  else match body s with
    | .done s1 => withFollower i s fun _ => .done s1
    | .jump s1 pc => withFollower i s fun _ => .jump s1 pc
    | a => a

/-- The fetch of the slots of ABSENT registers that an instruction names begins (18 R386). -/
def State.startNamed (s : State) (i : Instr) : State := (named i s.g).foldl (fun s p => s.startMisses [p.1] [p.2]) s

/-- Issues an instruction that reads the sources `cs` (03 R67; 18 R370; 19 R405): the checks in their
order, then its body. Its blocks, on the registers it names as well as on its sources, come before every effect, pops among them,
and again where a pop has given it a symbol. One that has sent what it waits for goes on in its body. -/
noncomputable def issueAct (i : Instr) (m : Mode) (cs : List (BitVec 6)) (blk : Group → Bool) (pre : State → Option Trap)
    (body : State → Act) (s : State) : Act :=
  if s.g.sent then body s
  else
    let ds := (dst i).toList
    let ls := s.g.execs (isUniform i || m.lead)
    match decodeTrap i pre s with
    | some t => .trap s t
    | none =>
      match s.g.breakpoint with
      | some n => .trap s (trap 0x31 (debugTval s.g.pc.toNat n 3))
      | none =>
        if s.g.absent ls cs then .wait (s.startMisses ls cs) .miss
        else match s.g.awaited (cs ++ ds) with
          | some w => .wait s w
          | none =>
            if s.g.resolving (cs ++ ds) then .wait s .symbol
            else match s.g.namedWait i with
              | some .miss => .wait (s.startNamed i) .miss
              | some w => .wait s w
              | none =>
                passBlocks i m cs blk (fun s =>
                  if cs.all s.g.holds then popped i body s
                  else withPops (isUniform i || m.lead) (s.g.popRegs cs) (passBlocks i m cs blk (popped i body)) s) s

/-- No use of its own blocks an instruction. -/
def noBlock (_ : Group) : Bool := false

/-- The outcome of an instruction whose own uses block where `blk` says: a next state always. -/
noncomputable def issueBlk (cs : List (BitVec 6)) (i : Instr) (m : Mode) (blk : Group → Bool) (pre : State → Option Trap)
    (body : State → Act) (s : State) : Host.Outcome State Fault Refusal :=
  .next (finish i (effectOf i s.g) s (issueAct i m cs blk pre body s))

/-- An instruction's outcome: a next state always. -/
noncomputable def issueOn (cs : List (BitVec 6)) (i : Instr) (m : Mode) (pre : State → Option Trap) (body : State → Act) (s : State) :
    Host.Outcome State Fault Refusal :=
  issueBlk cs i m noBlock pre body s

/-- An instruction that reads the sources its encoding names. -/
noncomputable def issue (i : Instr) (m : Mode) (pre : State → Option Trap) (body : State → Act) (s : State) :
    Host.Outcome State Fault Refusal :=
  issueOn (srcs i) i m pre body s

/-! ### Writing results -/

/-- The results of the executing lanes; none if a lane's operands block. -/
def evalLanes {α : Type} (f : Lane → Option α) : List Lane → Option (List (Nat × α))
  | [] => some []
  | l :: t => do
    let v ← f l
    let r ← evalLanes f t
    pure ((l.no, v) :: r)

/-- An entry of the journal that is free, at or after NEXT (18 R374). -/
def Core.freeEntry (c : Core) : Option Nat :=
  (upFrom c.next 64).findSome? fun n => if (c.journal.toList.getD (n % 64) none).isNone then some (n % 64) else none

/-- How many journal entries are free. -/
def Core.freeCount (c : Core) : Nat := (c.journal.toList.filter (·.isNone)).length

/-- Takes a journal entry for a posted operation (12 R250; 18 R374). -/
def State.takeEntry (s : State) (e : JEntry) : State × Option Nat :=
  match (s.core s.g.core).freeEntry with
  | none => (s, none)
  | some n => (s.mapCore s.g.core fun c => { c with journal := c.journal.setIfInBounds n (some e), next := (n + 1) % 64 }, some n)

/-- The journal entry of a posted operation of a lane (18 R374). -/
def State.entryOf (s : State) (lane : Nat) (va : Nat) (data : Quad) (size opc : Nat) : JEntry :=
  { addr := BitVec.ofNat 64 va, data := data, iclk := BitVec.ofNat 32 s.clk, st := 1, reason := 0, lane := lane,
    ctx := ((s.g.sliceOf lane).map (·.num)).getD 0, size := size, opc := opc, gid := s.g.gid,
    crew := s.g.sp.crew, task := s.g.sp.task, level := s.g.priv, src := s.g.srcOf lane, taken := false }

/-- Issues one posted operation: with a journal entry, but for the own local memory (12 R250). -/
def State.post (s : State) (a : Acc) (data : Quad) (size opc : Nat) : State :=
  if a.place.own then s.access a [] [] none false
  else
    let (s1, n) := s.takeEntry (s.entryOf a.lane a.va data size opc)
    s1.access a [] [] n false

/-- The checks at issue of a write at the own core: a locked region and, for less than a whole line, poison
(11 R236, R237). DESIGN CHOICE: the spec does not say which of the two traps a store takes that meets both; the model takes 0x09
(log 76). -/
def ownWrite (s : State) (addr size : Nat) : Chk → Chk
  | .ok p =>
    if p.own && s.locked p.pa size then .trap (trap 0x09 (BitVec.ofNat 64 addr))
    else if p.own && decide (size < 64) && (s.mem.poisoned p.pa size || s.mem.mismatch p.pa none) then .trap (trap 0x12 (BitVec.ofNat 64 addr))
    else .ok p
  | c => c

/-- The lanes that performed before the first that failed, as the trap reports them (18 R371). -/
def partialTrap (t : Trap) (lane : Nat) (as : List Acc) : Trap :=
  { t with performed := as.foldl (fun m a => m ||| BitVec.ofNat 32 (2 ^ a.lane)) 0, flane := if as.isEmpty then 0 else lane }

/-- The line of the own local memory that a poisoned-value trap names is handed over: one whose check value fails is poisoned from then
on (11 R236). -/
def State.metAt (s : State) (t : Trap) : State :=
  if t.code = 0x12 ∧ ownAddr s.g t.tval.toNat = true then
    match resolveAddr s s.g t.tval.toNat 1 ⟨false, false, false, false, false⟩ with
    | .ok p => s.handOver (.load 1 false false) p.pa p.key
    | _ => s
  else s

/-- What stopped the lanes' checks: a trap, or a walk to wait for. -/
def stopAct (s : State) (as : List Acc) (lane : Nat) : Chk → Act
  | .trap t => .trap (s.metAt t) (if s.g.isG then partialTrap t lane as else t)
  | .walk va => .wait (s.startWalk va) .translation
  | .ok _ => .wait s .translation

/-- A lane fails its checks: the lanes below it perform as `put` says, after the check of the follower, and then its trap is
taken (04 R89; 18 R371). -/
noncomputable def partialAct (i : Instr) (s : State) (as : List Acc) (lane : Nat) (c : Chk) (put : State → State) : Act :=
  match c with
  | .trap t => if as.isEmpty then stopAct s [] lane (.trap t) else withFollower i s fun s => stopAct (put s) as lane (.trap t)
  | c => stopAct s [] lane c

/-- The check of the append of an element, but for its value (11 R240): past COUNT, or on a pop stream; then as a store; with its
address. -/
def State.appendChk (s : State) (c : BitVec 6) (st : Stream) (n : Nat) : Chk × Nat :=
  let ix := st.at_ n
  let va := spreadInt (capWalk st.base.bits) ix
  (if !st.append || decide (st.limit ≤ n) then .trap (trapReg 0x24 c)
    else ownWrite s va st.size (checkAccess s s.g st.base c ix st.size st.size [.w] ⟨false, true, false, false, false⟩), va)

/-- Elements are appended: stores, and the count rises (11 R240). -/
def State.putAppends (s : State) (c : BitVec 6) (st : Stream) (val : Nat → Val) (as : List Acc) : State :=
  let s1 := as.foldl (fun s a => s.post a (val a.lane).bits (Nat.log2 st.size) (0x208 + Nat.log2 st.size)) s
  s1.shareStreams (if h : c.toNat - 48 < 8 then s1.g.streams.set (c.toNat - 48) (some { st with count := st.count + as.length }) h else s1.g.streams)

/-- The appends that lanes would make, in ascending order from an element: those that pass their checks, and what stops the first
that does not. A poisoned value is not stored (03 R71): its trap has the bound register as its value (log 74). -/
def State.appends (s : State) (c : BitVec 6) (st : Stream) (val : Nat → Val) (lanes : List Nat) : List Acc × Option (Nat × Chk) :=
  let rec go (n : Nat) : List Nat → List Acc × Option (Nat × Chk)
    | [] => ([], none)
    | l :: t =>
      match s.appendChk c st n with
      | (.ok p, va) =>
        if (val l).tag = .poison then ([], some (l, .trap (trapReg 0x12 c)))
        else let (as, e) := go (n + 1) t; (⟨l, p, va, .store st.size (val l).bits false⟩ :: as, e)
      | (x, _) => ([], some (l, x))
  go st.count lanes

/-- Whether the journal has no room for some posted operations (12 R250). -/
def State.journalFull (s : State) (as : List Acc) : Bool :=
  decide ((s.core s.g.core).freeCount < (as.filter fun a => !a.place.own).length)

/-- The appends of a result to a bound register, one for each lane that receives it and is not in DONE
(11 R240; 18 R371), and what follows. Nothing that follows has been done where they wait or trap, but by an instruction that has
sent what it waited for: that one made its checks when it did. -/
noncomputable def appendAct (i : Instr) (c : BitVec 6) (st : Stream) (vals : List (Nat × Val)) (s : State)
    (k : State → Act) : Act :=
  let lanes := (s.g.todo (s.g.lanes.filter fun l => vals.any fun p => p.1 == l.no)).map (·.no)
  if vals.any (fun p => p.2.isSym) then .wait s .symbol
  else if s.scPending then .wait s .fence
  else
    let val (n : Nat) : Val := (vals.lookup n).getD Val.zero
    let (as, e) := s.appends c st val lanes
    let put (s : State) : State := s.putAppends c st val as
    if s.journalFull as then .wait s .journal
    else match e with
      | some (lane, c) => partialAct i s as lane c put
      | none => if s.g.sent then k (put s) else withWatch i (watchedAccs false true st.size as) s fun s => k (put s)

/-- The lanes in which a result is appended to a bound destination. -/
def Group.appendLanes (g : Group) : List Nat := (g.todo g.acts).map (·.no)

/-- An instruction that accesses memory as `acs` and gives every active lane one value it does not know yet: where its destination is
bound to a stream, the appends' checks come before anything is performed (04 R89; 11 R240; 19 R405). -/
noncomputable def withAppendOn (i : Instr) (acs : List Watched) (d : BitVec 6) (s : State) (k : State → Act) : Act :=
  match s.g.stream d with
  | none => withWatch i acs s k
  | some st =>
    let (as, e) := s.appends d st (fun _ => Val.zero) s.g.appendLanes
    if s.scPending then .wait s .fence
    else match e with
      | some (lane, c) => stopAct s [] lane c
      | none => if s.journalFull as then .wait s .journal else withWatch i (acs ++ watchedAccs false true st.size as) s k

/-- The same for an instruction that accesses nothing through a capability but the appends. -/
noncomputable def withAppend (i : Instr) (d : BitVec 6) (s : State) (k : State → Act) : Act := withAppendOn i [] d s k

/-- A lane's accesses to the bytes of some runs, as the watchpoints see them (19 R405). -/
def watchedRuns (rd wr : Bool) (lane : Nat) (runs : List (Nat × Nat)) : List Watched := runs.map fun r => ⟨lane, r.1, r.2, rd, wr⟩

/-- Writes a register of some lanes, by appends where a stream is bound to it (11 R238), and goes on. -/
noncomputable def putReg (i : Instr) (d : BitVec 6) (vals : List (Nat × Val)) (s : State) (k : State → Act) : Act :=
  match s.g.stream d with
  | some st => appendAct i d st vals s k
  | none => k { s with g := s.g.write d vals }

/-- Writes the results to the destination and, for a short instruction, to the latch file, and goes on. -/
noncomputable def deliver (i : Instr) (vals : List (Nat × Val)) (fl : List (Nat × Flags)) (s : State) : Act :=
  let put (s : State) : Act := .done { s with g := (if isShort i then s.g.pushLatch vals else s.g).raise fl }
  match dst i with
  | none => put s
  | some d => putReg i d vals s put

/-- Whether a lane's own use of its operands blocks: it gives no result, or a symbol that an append stream cannot take (03 R63 to
R67; 11 R240). -/
def lanesBlock (i : Instr) (f : Group → Lane → Option (Val × Flags)) (g : Group) : Bool :=
  let ap := match dst i with | some d => (g.stream d).isSome | none => false
  (g.execs (isUniform i)).any fun l => match f g l with | none => true | some v => ap && v.1.isSym

/-- A one-lane-at-a-time instruction: each executing lane's result, written as `deliver` says. A lane
whose operands block gives none (03 R63 to R67). -/
noncomputable def laneAct (i : Instr) (f : Group → Lane → Option (Val × Flags)) (s : State) : Act :=
  let u := isUniform i
  match evalLanes (f s.g) (s.g.execs u) with
  | none => .wait s .symbol
  | some rs =>
    deliver i (s.g.spread u (rs.map fun p => (p.1, p.2.1))) (s.g.spread u (rs.map fun p => (p.1, p.2.2))) s

/-- An instruction that computes lane by lane. -/
noncomputable def lanewise (i : Instr) (m : Mode) (f : Group → Lane → Option (Val × Flags)) (s : State) :
    Host.Outcome State Fault Refusal :=
  issueBlk (srcs i) i m (lanesBlock i f) (fun _ => none) (laneAct i f) s

/-- A long instruction: its result is written when its latency has passed (04 R85). DESIGN CHOICE: the spec gives no clk for the
append of a long result; where its destination is bound to an append stream, the append is made and the flags are raised at issue,
ahead of older long forms in flight (log 74). -/
noncomputable def longAct (i : Instr) (latency : Nat) (f : Group → Lane → Val × Flags) (d : BitVec 6) (s : State) : Act :=
  let u := isUniform i
  let rs := (s.g.execs u).map fun l => (l.no, f s.g l)
  let vals := s.g.spread u (rs.map fun p => (p.1, p.2.1))
  let fl := s.g.spread u (rs.map fun p => (p.1, p.2.2))
  match s.g.stream d with
  | some _ => deliver i vals fl s
  | none =>
    let p : Pend := ⟨s.clk + latency, true, d, s.g.banked d, vals, fl, [], true, false⟩
    .done { s with g := { s.g with pend := s.g.pend ++ [p] } }

end Sys2Proof.Machine
end

