-- ==== Sys2Proof/Machine/Integer.lean ====
section
/-! DEFINITION. The integer forms and `mov` (05 R102 to R107; 04 R101). -/

namespace Sys2Proof.Machine

/-- A symbolic operand of the INT class, or a known word, as (symbol, a, b) for a·v + b (03 R64); none
for a record of another class. -/
def Val.linear (v : Val) : Option (Option (BitVec 6) × Word × Word) :=
  match v.tag with
  | .sym r =>
    match r.form with
    | .pure => some (some r.id, 1, 0)
    | .int a b => some (some r.id, a, b)
    | _ => none
  | _ => some (none, 0, v.word)

/-- A value from a linear form: a record, or the known word as DATA. -/
def ofLinear (id : Option (BitVec 6)) (a b : Word) : Val :=
  match id with
  | some i => symVal ⟨i, none, .int a b⟩
  | none => dataWord b

/-- The sum of two operands, transformed where one is symbolic or both are of one symbol (03 R64); none
where the instruction blocks. -/
def linAdd (x y : Val) : Option Val :=
  match x.linear, y.linear with
  | some (none, _, b1), some (none, _, b2) => some (dataWord (b1 + b2))
  | some (some i, a1, b1), some (none, _, b2) => some (ofLinear (some i) a1 (b1 + b2))
  | some (none, _, b1), some (some i, a2, b2) => some (ofLinear (some i) a2 (b1 + b2))
  | some (some i, a1, b1), some (some j, a2, b2) => if i = j then some (ofLinear (some i) (a1 + a2) (b1 + b2)) else none
  | _, _ => none

/-- The difference of two operands (03 R64). -/
def linSub (x y : Val) : Option Val :=
  match x.linear, y.linear with
  | some (none, _, b1), some (none, _, b2) => some (dataWord (b1 - b2))
  | some (some i, a1, b1), some (none, _, b2) => some (ofLinear (some i) a1 (b1 - b2))
  | some (none, _, b1), some (some i, a2, b2) => some (ofLinear (some i) (-a2) (b1 - b2))
  | some (some i, a1, b1), some (some j, a2, b2) => if i = j then some (ofLinear (some i) (a1 - a2) (b1 - b2)) else none
  | _, _ => none

/-- The product of two operands, at most one of them symbolic (03 R64, R67). -/
def linMul (x y : Val) : Option Val :=
  match x.linear, y.linear with
  | some (none, _, b1), some (none, _, b2) => some (dataWord (b1 * b2))
  | some (some i, a1, b1), some (none, _, c) => some (ofLinear (some i) (a1 * c) (b1 * c))
  | some (none, _, c), some (some i, a2, b2) => some (ofLinear (some i) (a2 * c) (b2 * c))
  | _, _ => none

/-- A left shift by a known amount of 6 bits (03 R64). -/
def linShl (x : Val) (n : Word) : Option Val := linMul x (dataWord (1 <<< (n.toNat % 64)))

/-- A copy: a record is copied as a holder that is not itself bound to a receive (03 R64; 05 R105). -/
def copyVal (v : Val) : Val :=
  match v.tag with
  | .sym r => ⟨v.bits, .sym { r with bound := none }⟩
  | _ => v

/-- A form on one operand word. -/
noncomputable def intOne (i : Instr) (a : BitVec 6) (f : Word → Word) (s : State) : Host.Outcome State Fault Refusal :=
  lanewise i strict (fun g l => some (dataWord (f (g.read l a).word), Flags.zero)) s

/-- A form on two operand words. -/
noncomputable def intTwo (i : Instr) (a b : BitVec 6) (f : Word → Word → Word) (s : State) : Host.Outcome State Fault Refusal :=
  lanewise i strict (fun g l => some (dataWord (f (g.read l a).word (g.read l b).word), Flags.zero)) s

/-- A form on two operand words and d. -/
noncomputable def intThree (i : Instr) (a b d : BitVec 6) (f : Word → Word → Word → Word) (s : State) : Host.Outcome State Fault Refusal :=
  lanewise i strict (fun g l => some (dataWord (f (g.read l a).word (g.read l b).word (g.read l d).word), Flags.zero)) s

/-- A form that transforms symbolic operands (03 R64). -/
noncomputable def linTwo (i : Instr) (a b : BitVec 6) (f : Val → Val → Option Val) (s : State) : Host.Outcome State Fault Refusal :=
  lanewise i affine (fun g l => (f (g.read l a) (g.read l b)).map fun v => (v, Flags.zero)) s

/-- An immediate form that transforms a symbolic operand (03 R64). -/
noncomputable def linImm (i : Instr) (a : BitVec 6) (f : Val → Option Val) (s : State) : Host.Outcome State Fault Refusal :=
  lanewise i affine (fun g l => (f (g.read l a)).map fun v => (v, Flags.zero)) s

/-- A long form on two operand words (04 R85). -/
noncomputable def intLong (i : Instr) (a b d : BitVec 6) (f : Word → Word → Word) (s : State) : Host.Outcome State Fault Refusal :=
  issue i strict (fun _ => none)
    (longAct i 20 (fun g l => (dataWord (f (g.read l a).word (g.read l b).word), Flags.zero)) d) s

/-- S := sext(imm10, 64) (05 R107). -/
def simm (i : BitVec 10) : Word := i.signExtend 64
/-- A signed five-bit immediate of a compact form (04 R101). -/
def simm5 (i : BitVec 5) : Word := i.signExtend 64

/-- The high half of a signed product (05 R104). -/
def mulhI (a b : Word) : Word := intWord (a.toInt * b.toInt / (2 ^ 64 : Nat))
/-- The high half of a natural product. -/
def mulhN (a b : Word) : Word := BitVec.ofNat 64 (a.toNat * b.toNat / 2 ^ 64)
/-- Signed division truncating toward zero, all ones by zero (02 R36). -/
def divI (a b : Word) : Word := if b = 0 then BitVec.allOnes 64 else intWord (a.toInt.tdiv b.toInt)
/-- Natural division, all ones by zero. -/
def divN (a b : Word) : Word := if b = 0 then BitVec.allOnes 64 else BitVec.ofNat 64 (a.toNat / b.toNat)
/-- Signed remainder with the sign of the dividend, the dividend by zero. -/
def remI (a b : Word) : Word := if b = 0 then a else intWord (a.toInt.tmod b.toInt)
/-- Natural remainder. -/
def remN (a b : Word) : Word := if b = 0 then a else BitVec.ofNat 64 (a.toNat % b.toNat)
/-- The shift amount B[5:0]. -/
def amount (b : Word) : Nat := b.toNat % 64
/-- Leading zero bits, looking at `n` bits. -/
def clzGo (a : Word) : Nat → Nat
  | 0 => 0
  | n + 1 => if a.getLsbD n then 0 else 1 + clzGo a n
/-- Trailing zero bits from bit `k`. -/
def ctzGo (a : Word) : Nat → Nat → Nat
  | 0, _ => 0
  | n + 1, k => if a.getLsbD k then 0 else 1 + ctzGo a n (k + 1)
/-- One bits among the lowest `n`. -/
def popGo (a : Word) : Nat → Nat
  | 0 => 0
  | n + 1 => (a.getLsbD n).toNat + popGo a n
/-- The width a literal code names: 8, 16 or 32 (05 R105). -/
def codeWidth (w : BitVec 6) : Nat := 8 * 2 ^ w.toNat
/-- Sign extension of the low w bits. -/
def sextW (a : Word) (w : Nat) : Word := intWord (signed w a.toNat)
/-- Zero extension of the low w bits. -/
def zextW (a : Word) (w : Nat) : Word := BitVec.ofNat 64 (a.toNat % 2 ^ w)
/-- The place and the width, cut at bit 63, of a bit field (05 R105). -/
def fieldOf (b : Word) : Nat × Nat :=
  let p := b.toNat % 64
  (p, min (b.toNat / 64 % 64 + 1) (64 - p))
/-- `bfx`. -/
def bfx (a b : Word) : Word := BitVec.ofNat 64 (a.toNat / 2 ^ (fieldOf b).1 % 2 ^ (fieldOf b).2)
/-- `bfi`. -/
def bfi (a b d : Word) : Word :=
  let p := (fieldOf b).1
  let w := (fieldOf b).2
  BitVec.ofNat 64 (d.toNat % 2 ^ p + a.toNat % 2 ^ w * 2 ^ p + d.toNat / 2 ^ (p + w) * 2 ^ (p + w))

/-- Rounds of Mix (05 R106). -/
def mixGo : Nat → Word → Word → Word
  | 0, x, _ => x ^^^ (x >>> 29)
  | n + 1, x, y =>
    let x := x + y
    let x := x ^^^ (x >>> 31)
    let x := x * 0xA4D96E3B5C27F18D
    mixGo n x (y + 0x8F3C1B97E2A65D49)
/-- Mix(key, ctr) (05 R106). -/
def mix (key ctr : Word) : Word := mixGo 6 ctr key


/-- ADD (R104): Writes the 64-bit wrapping sum A + B to d as DATA. -/
noncomputable def execAdd (b : BitVec 6) (a : BitVec 6) (n : Bool) (d : BitVec 6) (u : Bool) (s : State) : Host.Outcome State Fault Refusal :=
  linTwo (.add b a n d u) a b linAdd s

/-- SUB (R104): Writes the 64-bit wrapping difference A − B to d. -/
noncomputable def execSub (b : BitVec 6) (a : BitVec 6) (n : Bool) (d : BitVec 6) (u : Bool) (s : State) : Host.Outcome State Fault Refusal :=
  linTwo (.sub b a n d u) a b linSub s

/-- MUL (R104): Writes the low 64 bits of A × B to d. -/
noncomputable def execMul (b : BitVec 6) (a : BitVec 6) (n : Bool) (d : BitVec 6) (u : Bool) (s : State) : Host.Outcome State Fault Refusal :=
  linTwo (.mul b a n d u) a b linMul s

/-- MULH_I (R104): Writes the high 64 bits of the signed 128-bit product to d. -/
noncomputable def execMulhI (b : BitVec 6) (a : BitVec 6) (n : Bool) (d : BitVec 6) (u : Bool) (s : State) : Host.Outcome State Fault Refusal :=
  intTwo (.mulhI b a n d u) a b (mulhI) s

/-- MULH_N (R104): Writes the high 64 bits of the natural 128-bit product to d. -/
noncomputable def execMulhN (b : BitVec 6) (a : BitVec 6) (n : Bool) (d : BitVec 6) (u : Bool) (s : State) : Host.Outcome State Fault Refusal :=
  intTwo (.mulhN b a n d u) a b (mulhN) s

/-- DIV_I (R104): Long signed division truncating toward zero, readable after 20 clk. -/
noncomputable def execDivI (b : BitVec 6) (a : BitVec 6) (d : BitVec 6) (u : Bool) (s : State) : Host.Outcome State Fault Refusal :=
  intLong (.divI b a d u) a b d divI s

/-- DIV_N (R104): Long natural division, all ones on a zero divisor. -/
noncomputable def execDivN (b : BitVec 6) (a : BitVec 6) (d : BitVec 6) (u : Bool) (s : State) : Host.Outcome State Fault Refusal :=
  intLong (.divN b a d u) a b d divN s

/-- REM_I (R104): Long signed remainder with the sign of the dividend. -/
noncomputable def execRemI (b : BitVec 6) (a : BitVec 6) (d : BitVec 6) (u : Bool) (s : State) : Host.Outcome State Fault Refusal :=
  intLong (.remI b a d u) a b d remI s

/-- REM_N (R104): Long natural remainder, the dividend on a zero divisor. -/
noncomputable def execRemN (b : BitVec 6) (a : BitVec 6) (d : BitVec 6) (u : Bool) (s : State) : Host.Outcome State Fault Refusal :=
  intLong (.remN b a d u) a b d remN s

/-- AND (R104): Writes A AND B to d. -/
noncomputable def execAnd (b : BitVec 6) (a : BitVec 6) (n : Bool) (d : BitVec 6) (u : Bool) (s : State) : Host.Outcome State Fault Refusal :=
  intTwo (.and b a n d u) a b (fun x y => x &&& y) s

/-- OR (R104): Writes A OR B to d. -/
noncomputable def execOr (b : BitVec 6) (a : BitVec 6) (n : Bool) (d : BitVec 6) (u : Bool) (s : State) : Host.Outcome State Fault Refusal :=
  intTwo (.or b a n d u) a b (fun x y => x ||| y) s

/-- XOR (R104): Writes A XOR B to d. -/
noncomputable def execXor (b : BitVec 6) (a : BitVec 6) (n : Bool) (d : BitVec 6) (u : Bool) (s : State) : Host.Outcome State Fault Refusal :=
  intTwo (.xor b a n d u) a b (fun x y => x ^^^ y) s

/-- ANDN (R104): Writes A AND NOT B to d. -/
noncomputable def execAndn (b : BitVec 6) (a : BitVec 6) (n : Bool) (d : BitVec 6) (u : Bool) (s : State) : Host.Outcome State Fault Refusal :=
  intTwo (.andn b a n d u) a b (fun x y => x &&& ~~~y) s

/-- SHL (R104): Shifts A left by B[5:0]. -/
noncomputable def execShl (b : BitVec 6) (a : BitVec 6) (n : Bool) (d : BitVec 6) (u : Bool) (s : State) : Host.Outcome State Fault Refusal :=
  linTwo (.shl b a n d u) a b (fun x y => if y.isSym then none else linShl x y.word) s

/-- SHR (R104): Shifts A right by B[5:0] with zeros in. -/
noncomputable def execShr (b : BitVec 6) (a : BitVec 6) (n : Bool) (d : BitVec 6) (u : Bool) (s : State) : Host.Outcome State Fault Refusal :=
  intTwo (.shr b a n d u) a b (fun x y => x >>> amount y) s

/-- SAR (R104): Shifts A right arithmetically by B[5:0]. -/
noncomputable def execSar (b : BitVec 6) (a : BitVec 6) (n : Bool) (d : BitVec 6) (u : Bool) (s : State) : Host.Outcome State Fault Refusal :=
  intTwo (.sar b a n d u) a b (fun x y => x.sshiftRight (amount y)) s

/-- ROL (R104): Rotates A left by B[5:0]. -/
noncomputable def execRol (b : BitVec 6) (a : BitVec 6) (n : Bool) (d : BitVec 6) (u : Bool) (s : State) : Host.Outcome State Fault Refusal :=
  intTwo (.rol b a n d u) a b (fun x y => x.rotateLeft (amount y)) s

/-- ROR (R104): Rotates A right by B[5:0]. -/
noncomputable def execRor (b : BitVec 6) (a : BitVec 6) (n : Bool) (d : BitVec 6) (u : Bool) (s : State) : Host.Outcome State Fault Refusal :=
  intTwo (.ror b a n d u) a b (fun x y => x.rotateRight (amount y)) s

/-- CLZ (R104): Counts leading zero bits of A. -/
noncomputable def execClz (a : BitVec 6) (n : Bool) (d : BitVec 6) (u : Bool) (s : State) : Host.Outcome State Fault Refusal :=
  intOne (.clz a n d u) a (fun x => BitVec.ofNat 64 (clzGo x 64)) s

/-- CTZ (R104): Counts trailing zero bits of A. -/
noncomputable def execCtz (a : BitVec 6) (n : Bool) (d : BitVec 6) (u : Bool) (s : State) : Host.Outcome State Fault Refusal :=
  intOne (.ctz a n d u) a (fun x => BitVec.ofNat 64 (ctzGo x 64 0)) s

/-- POPC (R104): Counts one bits of A. -/
noncomputable def execPopc (a : BitVec 6) (n : Bool) (d : BitVec 6) (u : Bool) (s : State) : Host.Outcome State Fault Refusal :=
  intOne (.popc a n d u) a (fun x => BitVec.ofNat 64 (popGo x 64)) s

/-- MIN_I (R104): Writes the signed minimum of A and B. -/
noncomputable def execMinI (b : BitVec 6) (a : BitVec 6) (n : Bool) (d : BitVec 6) (u : Bool) (s : State) : Host.Outcome State Fault Refusal :=
  intTwo (.minI b a n d u) a b (fun x y => if x.toInt ≤ y.toInt then x else y) s

/-- MAX_I (R104): Writes the signed maximum of A and B. -/
noncomputable def execMaxI (b : BitVec 6) (a : BitVec 6) (n : Bool) (d : BitVec 6) (u : Bool) (s : State) : Host.Outcome State Fault Refusal :=
  intTwo (.maxI b a n d u) a b (fun x y => if x.toInt ≥ y.toInt then x else y) s

/-- MIN_N (R104): Writes the natural minimum of A and B. -/
noncomputable def execMinN (b : BitVec 6) (a : BitVec 6) (n : Bool) (d : BitVec 6) (u : Bool) (s : State) : Host.Outcome State Fault Refusal :=
  intTwo (.minN b a n d u) a b (fun x y => if x.toNat ≤ y.toNat then x else y) s

/-- MAX_N (R104): Writes the natural maximum of A and B. -/
noncomputable def execMaxN (b : BitVec 6) (a : BitVec 6) (n : Bool) (d : BitVec 6) (u : Bool) (s : State) : Host.Outcome State Fault Refusal :=
  intTwo (.maxN b a n d u) a b (fun x y => if x.toNat ≥ y.toNat then x else y) s

/-- SEQ (R104): Writes 1 if A = B, else 0. -/
noncomputable def execSeq (b : BitVec 6) (a : BitVec 6) (n : Bool) (d : BitVec 6) (u : Bool) (s : State) : Host.Outcome State Fault Refusal :=
  intTwo (.seq b a n d u) a b (fun x y => boolWord (x == y)) s

/-- SNE (R104): Writes 1 if A ≠ B, else 0. -/
noncomputable def execSne (b : BitVec 6) (a : BitVec 6) (n : Bool) (d : BitVec 6) (u : Bool) (s : State) : Host.Outcome State Fault Refusal :=
  intTwo (.sne b a n d u) a b (fun x y => boolWord (x != y)) s

/-- SLT_I (R104): Writes 1 if A < B signed, else 0. -/
noncomputable def execSltI (b : BitVec 6) (a : BitVec 6) (n : Bool) (d : BitVec 6) (u : Bool) (s : State) : Host.Outcome State Fault Refusal :=
  intTwo (.sltI b a n d u) a b (fun x y => boolWord (decide (x.toInt < y.toInt))) s

/-- SLT_N (R104): Writes 1 if A < B natural, else 0. -/
noncomputable def execSltN (b : BitVec 6) (a : BitVec 6) (n : Bool) (d : BitVec 6) (u : Bool) (s : State) : Host.Outcome State Fault Refusal :=
  intTwo (.sltN b a n d u) a b (fun x y => boolWord (decide (x.toNat < y.toNat))) s

/-- SEL (R104): Writes A if D ≠ 0, else B, as DATA. -/
noncomputable def execSel (b : BitVec 6) (a : BitVec 6) (n : Bool) (d : BitVec 6) (u : Bool) (s : State) : Host.Outcome State Fault Refusal :=
  intThree (.sel b a n d u) a b d (fun x y z => if z ≠ 0 then x else y) s

/-- SEXT (R105): Sign-extends the low 8, 16 or 32 bits of A by a literal width code. -/
noncomputable def execSext (w : BitVec 6) (a : BitVec 6) (n : Bool) (d : BitVec 6) (u : Bool) (s : State) : Host.Outcome State Fault Refusal :=
  intOne (.sext w a n d u) a (fun x => sextW x (codeWidth w)) s

/-- ZEXT (R105): Zero-extends the low 8, 16 or 32 bits of A by a literal width code. -/
noncomputable def execZext (w : BitVec 6) (a : BitVec 6) (n : Bool) (d : BitVec 6) (u : Bool) (s : State) : Host.Outcome State Fault Refusal :=
  intOne (.zext w a n d u) a (fun x => zextW x (codeWidth w)) s

/-- BFX (R105): Extracts the bit field of A given by position and width in B. -/
noncomputable def execBfx (b : BitVec 6) (a : BitVec 6) (n : Bool) (d : BitVec 6) (u : Bool) (s : State) : Host.Outcome State Fault Refusal :=
  intTwo (.bfx b a n d u) a b (bfx) s

/-- BFI (R105): Writes D with a bit field replaced from A. -/
noncomputable def execBfi (b : BitVec 6) (a : BitVec 6) (n : Bool) (d : BitVec 6) (u : Bool) (s : State) : Host.Outcome State Fault Refusal :=
  intThree (.bfi b a n d u) a b d bfi s

/-- MOV (R105): Copies all 128 bits and the tag of a, SYM and poison included. -/
noncomputable def execMov (a : BitVec 6) (n : Bool) (d : BitVec 6) (u : Bool) (s : State) : Host.Outcome State Fault Refusal :=
  lanewise (.mov a n d u) ⟨true, true, false⟩ (fun g l => some (copyVal (g.read l a), Flags.zero)) s

/-- RNG (R106): Writes Mix(key A, counter B), the counter-based random bijection. -/
noncomputable def execRng (b : BitVec 6) (a : BitVec 6) (n : Bool) (d : BitVec 6) (u : Bool) (s : State) : Host.Outcome State Fault Refusal :=
  intTwo (.rng b a n d u) a b (mix) s

/-- ADDI (R107): Adds a signed immediate. -/
noncomputable def execAddi (imm : BitVec 10) (a : BitVec 6) (n : Bool) (d : BitVec 6) (u : Bool) (s : State) : Host.Outcome State Fault Refusal :=
  linImm (.addi imm a n d u) a (fun x => linAdd x (dataWord (simm imm))) s

/-- ANDI (R107): ANDs a sign-extended immediate. -/
noncomputable def execAndi (imm : BitVec 10) (a : BitVec 6) (n : Bool) (d : BitVec 6) (u : Bool) (s : State) : Host.Outcome State Fault Refusal :=
  intOne (.andi imm a n d u) a (fun x => x &&& simm imm) s

/-- ORI (R107): ORs a sign-extended immediate. -/
noncomputable def execOri (imm : BitVec 10) (a : BitVec 6) (n : Bool) (d : BitVec 6) (u : Bool) (s : State) : Host.Outcome State Fault Refusal :=
  intOne (.ori imm a n d u) a (fun x => x ||| simm imm) s

/-- XORI (R107): XORs a sign-extended immediate. -/
noncomputable def execXori (imm : BitVec 10) (a : BitVec 6) (n : Bool) (d : BitVec 6) (u : Bool) (s : State) : Host.Outcome State Fault Refusal :=
  intOne (.xori imm a n d u) a (fun x => x ^^^ simm imm) s

/-- SHLI (R107): Shifts left by an immediate amount. -/
noncomputable def execShli (sc : BitVec 6) (a : BitVec 6) (n : Bool) (d : BitVec 6) (u : Bool) (s : State) : Host.Outcome State Fault Refusal :=
  linImm (.shli sc a n d u) a (fun x => linShl x (sc.setWidth 64)) s

/-- SHRI (R107): Shifts right logically by an immediate amount. -/
noncomputable def execShri (sc : BitVec 6) (a : BitVec 6) (n : Bool) (d : BitVec 6) (u : Bool) (s : State) : Host.Outcome State Fault Refusal :=
  intOne (.shri sc a n d u) a (fun x => x >>> sc.toNat) s

/-- SARI (R107): Shifts right arithmetically by an immediate amount. -/
noncomputable def execSari (sc : BitVec 6) (a : BitVec 6) (n : Bool) (d : BitVec 6) (u : Bool) (s : State) : Host.Outcome State Fault Refusal :=
  intOne (.sari sc a n d u) a (fun x => x.sshiftRight sc.toNat) s

/-- SLTI_I (R107): Signed compare with an immediate. -/
noncomputable def execSltiI (imm : BitVec 10) (a : BitVec 6) (n : Bool) (d : BitVec 6) (u : Bool) (s : State) : Host.Outcome State Fault Refusal :=
  intOne (.sltiI imm a n d u) a (fun x => boolWord (decide (x.toInt < (simm imm).toInt))) s

/-- SLTI_N (R107): Natural compare with a sign-extended immediate. -/
noncomputable def execSltiN (imm : BitVec 10) (a : BitVec 6) (n : Bool) (d : BitVec 6) (u : Bool) (s : State) : Host.Outcome State Fault Refusal :=
  intOne (.sltiN imm a n d u) a (fun x => boolWord (decide (x.toNat < (simm imm).toNat))) s

/-- MULI (R107): Multiplies by a signed immediate. -/
noncomputable def execMuli (imm : BitVec 10) (a : BitVec 6) (n : Bool) (d : BitVec 6) (u : Bool) (s : State) : Host.Outcome State Fault Refusal :=
  linImm (.muli imm a n d u) a (fun x => linMul x (dataWord (simm imm))) s

/-- LDI (R107): Loads a signed immediate. -/
noncomputable def execLdi (imm : BitVec 10) (n : Bool) (d : BitVec 6) (u : Bool) (s : State) : Host.Outcome State Fault Refusal :=
  lanewise (.ldi imm n d u) strict (fun _ _ => some (dataWord (simm imm), Flags.zero)) s

/-- NOP (R101): Compact no operation. -/
noncomputable def execNop (s : State) : Host.Outcome State Fault Refusal :=
  linImm .nop 0 (fun x => linAdd x (dataWord 0)) s

/-- COMPACT_MOV (R101): Compact mov. -/
noncomputable def execCompactMov (q : BitVec 5) (p : BitVec 5) (s : State) : Host.Outcome State Fault Refusal :=
  lanewise (.compactMov q p) ⟨true, true, false⟩ (fun g l => some (copyVal (g.read l (kc q)), Flags.zero)) s

/-- COMPACT_ADD (R101): Compact add p := p + q. -/
noncomputable def execCompactAdd (q : BitVec 5) (p : BitVec 5) (s : State) : Host.Outcome State Fault Refusal :=
  linTwo (.compactAdd q p) (kc p) (kc q) linAdd s

/-- COMPACT_SUB (R101): Compact sub. -/
noncomputable def execCompactSub (q : BitVec 5) (p : BitVec 5) (s : State) : Host.Outcome State Fault Refusal :=
  linTwo (.compactSub q p) (kc p) (kc q) linSub s

/-- COMPACT_AND (R101): Compact and. -/
noncomputable def execCompactAnd (q : BitVec 5) (p : BitVec 5) (s : State) : Host.Outcome State Fault Refusal :=
  intTwo (.compactAnd q p) (kc p) (kc q) (fun x y => x &&& y) s

/-- COMPACT_OR (R101): Compact or. -/
noncomputable def execCompactOr (q : BitVec 5) (p : BitVec 5) (s : State) : Host.Outcome State Fault Refusal :=
  intTwo (.compactOr q p) (kc p) (kc q) (fun x y => x ||| y) s

/-- COMPACT_XOR (R101): Compact xor. -/
noncomputable def execCompactXor (q : BitVec 5) (p : BitVec 5) (s : State) : Host.Outcome State Fault Refusal :=
  intTwo (.compactXor q p) (kc p) (kc q) (fun x y => x ^^^ y) s

/-- COMPACT_ADDI (R101): Compact addi with a 5-bit signed immediate. -/
noncomputable def execCompactAddi (imm : BitVec 5) (p : BitVec 5) (s : State) : Host.Outcome State Fault Refusal :=
  linImm (.compactAddi imm p) (kc p) (fun x => linAdd x (dataWord (simm5 imm))) s

/-- COMPACT_SHLI (R101): Compact shli. -/
noncomputable def execCompactShli (sc : BitVec 5) (p : BitVec 5) (s : State) : Host.Outcome State Fault Refusal :=
  linImm (.compactShli sc p) (kc p) (fun x => linShl x (sc.setWidth 64)) s

/-- COMPACT_SHRI (R101): Compact shri. -/
noncomputable def execCompactShri (sc : BitVec 5) (p : BitVec 5) (s : State) : Host.Outcome State Fault Refusal :=
  intOne (.compactShri sc p) (kc p) (fun x => x >>> sc.toNat) s

/-- COMPACT_SARI (R101): Compact sari. -/
noncomputable def execCompactSari (sc : BitVec 5) (p : BitVec 5) (s : State) : Host.Outcome State Fault Refusal :=
  intOne (.compactSari sc p) (kc p) (fun x => x.sshiftRight sc.toNat) s

/-- COMPACT_LDI (R101): Compact ldi. -/
noncomputable def execCompactLdi (imm : BitVec 5) (p : BitVec 5) (s : State) : Host.Outcome State Fault Refusal :=
  lanewise (.compactLdi imm p) strict (fun _ _ => some (dataWord (simm5 imm), Flags.zero)) s

end Sys2Proof.Machine
end

