-- ==== Sys2Proof/Machine/Capability.lean ====
section
/-! DEFINITION. The capability forms (05 R108 to R113). -/

namespace Sys2Proof.Machine

/-- `cinc` by a known amount: a symbolic capability adds it to its record (03 R65), and a record of
another class blocks. -/
def symCinc (v : Val) (b : Word) : Option Val :=
  match v.tag with
  | .sym r =>
    match r.form with
    | .pure => some (symVal ⟨r.id, none, .cap b⟩)
    | .cap c => some (symVal ⟨r.id, none, .cap (c + b)⟩)
    | _ => none
  | _ => some (cinc v b)


/-- CBASE (R109): Writes the base index of the capability fields of a. -/
noncomputable def execCbase (a : BitVec 6) (n : Bool) (d : BitVec 6) (u : Bool) (s : State) : Host.Outcome State Fault Refusal :=
  lanewise (.cbase a n d u) strict (fun g l => some ((dataWord (intWord (capBase (g.read l a).bits))), Flags.zero)) s

/-- CTOP (R109): Writes the top index of a. -/
noncomputable def execCtop (a : BitVec 6) (n : Bool) (d : BitVec 6) (u : Bool) (s : State) : Host.Outcome State Fault Refusal :=
  lanewise (.ctop a n d u) strict (fun g l => some ((dataWord (intWord (capTop (g.read l a).bits))), Flags.zero)) s

/-- CLEN (R109): Writes L·2^E of a. -/
noncomputable def execClen (a : BitVec 6) (n : Bool) (d : BitVec 6) (u : Bool) (s : State) : Host.Outcome State Fault Refusal :=
  lanewise (.clen a n d u) strict (fun g l => some ((dataNat (capLen (g.read l a).bits)), Flags.zero)) s

/-- CPERM (R109): Writes the permission bits of a. -/
noncomputable def execCperm (a : BitVec 6) (n : Bool) (d : BitVec 6) (u : Bool) (s : State) : Host.Outcome State Fault Refusal :=
  lanewise (.cperm a n d u) strict (fun g l => some ((dataWord ((capPerm (g.read l a).bits).setWidth 64)), Flags.zero)) s

/-- CWALK (R109): Writes the walk descriptor of a. -/
noncomputable def execCwalk (a : BitVec 6) (n : Bool) (d : BitVec 6) (u : Bool) (s : State) : Host.Outcome State Fault Refusal :=
  lanewise (.cwalk a n d u) strict (fun g l => some ((dataWord ((capWalk (g.read l a).bits).setWidth 64)), Flags.zero)) s

/-- CTAG (R109): Writes 1 if a is CAP, else 0. -/
noncomputable def execCtag (a : BitVec 6) (n : Bool) (d : BitVec 6) (u : Bool) (s : State) : Host.Outcome State Fault Refusal :=
  lanewise (.ctag a n d u) strict (fun g l => some ((dataWord (boolWord ((g.read l a).tag == .cap))), Flags.zero)) s

/-- CBOUND (R111): Sets bounds of length B around the cursor, or gives DATA if not representable within the source bounds. -/
noncomputable def execCbound (b : BitVec 6) (a : BitVec 6) (n : Bool) (d : BitVec 6) (u : Bool) (s : State) : Host.Outcome State Fault Refusal :=
  lanewise (.cbound b a n d u) strict (fun g l => some ((cbound (g.read l a) (g.read l b).word.toNat), Flags.zero)) s

/-- CAND (R110): Clears permissions of a not set in B[7:0]. -/
noncomputable def execCand (b : BitVec 6) (a : BitVec 6) (n : Bool) (d : BitVec 6) (u : Bool) (s : State) : Host.Outcome State Fault Refusal :=
  lanewise (.cand b a n d u) strict (fun g l => some ((cand (g.read l a) ((g.read l b).word.extractLsb' 0 8)), Flags.zero)) s

/-- CWSET (R112): Sets the walk descriptor, giving CAP only for a capability covering the whole mesh window. -/
noncomputable def execCwset (b : BitVec 6) (a : BitVec 6) (n : Bool) (d : BitVec 6) (u : Bool) (s : State) : Host.Outcome State Fault Refusal :=
  lanewise (.cwset b a n d u) strict (fun g l => some ((cwset g.sp.mwb (g.read l a) ((g.read l b).word.extractLsb' 0 7)), Flags.zero)) s

/-- CSET (R110): Moves the cursor of a to address B. -/
noncomputable def execCset (b : BitVec 6) (a : BitVec 6) (n : Bool) (d : BitVec 6) (u : Bool) (s : State) : Host.Outcome State Fault Refusal :=
  lanewise (.cset b a n d u) strict (fun g l => some ((cset (g.read l a) (g.read l b).word), Flags.zero)) s

/-- CINC (R110): Adds the signed B to the cursor index of a. -/
noncomputable def execCinc (b : BitVec 6) (a : BitVec 6) (n : Bool) (d : BitVec 6) (u : Bool) (s : State) : Host.Outcome State Fault Refusal :=
  lanewise (.cinc b a n d u) affine (fun g l => (if (g.read l b).isSym then none else symCinc (g.read l a) (g.read l b).word).map fun v => (v, Flags.zero)) s

/-- CDIFF (R113): Writes the signed index distance between a and b. -/
noncomputable def execCdiff (b : BitVec 6) (a : BitVec 6) (n : Bool) (d : BitVec 6) (u : Bool) (s : State) : Host.Outcome State Fault Refusal :=
  lanewise (.cdiff b a n d u) strict (fun g l => some ((dataWord (intWord ((index (g.read l a) : Int) - index (g.read l b)))), Flags.zero)) s

/-- CCLR (R110): Writes the 128 bits of a as DATA. -/
noncomputable def execCclr (a : BitVec 6) (n : Bool) (d : BitVec 6) (u : Bool) (s : State) : Host.Outcome State Fault Refusal :=
  lanewise (.cclr a n d u) strict (fun g l => some ((⟨(g.read l a).bits, .data⟩), Flags.zero)) s

/-- CWITHIN (R113): Writes 1 if a B-byte access at the cursor would pass bounds. -/
noncomputable def execCwithin (b : BitVec 6) (a : BitVec 6) (n : Bool) (d : BitVec 6) (u : Bool) (s : State) : Host.Outcome State Fault Refusal :=
  lanewise (.cwithin b a n d u) strict (fun g l => some ((dataWord (boolWord (cwithin (g.read l a) (g.read l b).word))), Flags.zero)) s

/-- CCOORD (R109): Writes the core coordinates of the cursor in the mesh window, or all ones. -/
noncomputable def execCcoord (a : BitVec 6) (n : Bool) (d : BitVec 6) (u : Bool) (s : State) : Host.Outcome State Fault Refusal :=
  lanewise (.ccoord a n d u) strict (fun g l => some ((dataWord (ccoord g.sp.mwb (g.read l a))), Flags.zero)) s

/-- CINCI (R110): Adds a signed immediate to the cursor index. -/
noncomputable def execCinci (imm : BitVec 10) (a : BitVec 6) (n : Bool) (d : BitVec 6) (u : Bool) (s : State) : Host.Outcome State Fault Refusal :=
  lanewise (.cinci imm a n d u) affine (fun g l => (symCinc (g.read l a) (simm imm)).map fun v => (v, Flags.zero)) s

/-- COMPACT_CINCI (R101): Compact cinci by 8q bytes. -/
noncomputable def execCompactCinci (q : BitVec 5) (p : BitVec 5) (s : State) : Host.Outcome State Fault Refusal :=
  lanewise (.compactCinci q p) affine (fun g l => (symCinc (g.read l (kc p)) (BitVec.ofNat 64 (8 * q.toNat))).map fun v => (v, Flags.zero)) s

end Sys2Proof.Machine
end

