-- ==== Sys2Proof/Machine/Access.lean ====
section
/-! DEFINITION. What every instruction that accesses memory shares (05 R114 to R118; 13 R260 to R268;
18 R371): the checks of its lanes, the values read on time or late, posted stores, operations whose
answer the group waits for, fences, and the full/empty queues. -/

namespace Sys2Proof.Machine

/-- What an instruction asks of its lanes' accesses: the base register, the index from the base
capability, the size and alignment, the permissions, what the page must allow, and the operation. -/
structure Ask where
  base : BitVec 6
  idx : Val → Int
  size : Nat
  align : Nat
  perms : List Perm
  need : Lane → Need
  op : Lane → Val → Bool → MemOp
  /-- Checks after those of the place, with the address. -/
  more : Nat → Chk → Chk

/-- The checks of one lane's access, its address and operation. -/
def Ask.chk (q : Ask) (s : State) (l : Lane) : Chk × Nat × MemOp :=
  let v := s.g.read l q.base
  let ix := q.idx v
  let va := spreadInt (capWalk v.bits) ix
  let c := q.more va (checkAccess s s.g v q.base ix q.size q.align q.perms (q.need l))
  (c, va, q.op l v (match c with | .ok p => p.ct | _ => false))

/-- A post-increment of the base: the register, and the bytes it advances by (05 R114). -/
abbrev Bump := Option (BitVec 6 × Word)

/-- The lanes' advanced bases. DESIGN CHOICE: the spec does not say which lanes' base a post-increment under U = 1 advances (04 R83
names the load result alone); the lowest lane's advanced base is written to every active lane, as every result under U = 1 is
(log 83). -/
def Group.bumped (g : Group) (u : Bool) (b : Bump) (ls : List Lane) : List (BitVec 6 × List (Nat × Val)) :=
  match b with
  | none => []
  | some (a, by_) => [(a, g.spread u (ls.map fun l => (l.no, cinc (g.read l a) by_)))]

/-- The bases advanced. -/
def Group.bump (g : Group) (u : Bool) (b : Bump) (ls : List Lane) : Group :=
  (g.bumped u b ls).foldl (fun g p => g.write p.1 p.2) g

/-- The accesses of a load made: the state, and what was read at once, by lane. -/
def State.makeReads (u : Bool) (rcv : List Nat) (ids : List (Nat × BitVec 6)) (ans : Bool) :
    List Acc → State → State × List (Nat × Val)
  | [], s => (s, [])
  | a :: t, s =>
    let lanes := if u then rcv else [a.lane]
    if s.immediate a then
      let (s1, v) := s.performOwn a
      let s2 := { s1 with g := s1.g.give ids lanes v }
      let s3 := if ans then { s2 with g := { s2.g with answers := s2.g.answers ++ lanes.map fun n => (n, .ok v) } } else s2
      let (s4, vs) := State.makeReads u rcv ids ans t s3
      (s4, (lanes.map fun n => (n, v)) ++ vs)
    else
      State.makeReads u rcv ids ans t (s.send (s.reqOf a lanes ids none ans))

/-- Whether an answer says that the operation was performed. -/
def Answer.isOk : Answer → Bool
  | .ok _ => true
  | .fail _ _ => false

/-- The lowest lane whose operation was not performed, with its trap. -/
def firstFail : List (Nat × Answer) → Option (Nat × Nat × Word)
  | [] => none
  | (n, .fail c t) :: _ => some (n, c, t)
  | (_, .ok _) :: t => firstFail t

/-- The values answered. -/
def answered : List (Nat × Answer) → List (Nat × Val)
  | [] => []
  | (n, .ok v) :: t => (n, v) :: answered t
  | (_, .fail _ _) :: t => answered t

/-- What the performed lanes of an instruction that traps keep of its post-increment. -/
def Group.keptBump (g : Group) (i : Instr) (lanes : List Nat) : List (BitVec 6 × List (Nat × Val)) :=
  (bumpReg i).toList.map fun a => (a, (g.lanes.filter fun l => lanes.contains l.no).map fun l => (l.no, g.read l a))

/-- The values that lanes have been answered, appended to a bound destination: those that were performed and are not poisoned, in
ascending order, and then the trap of the lowest of the others (11 R240; 18 R371; log 74). -/
noncomputable def appendResults (i : Instr) (d : BitVec 6) (got : List (Nat × Answer)) (s : State) : Act :=
  let judged := got.map fun p =>
    (p.1, match p.2 with | .ok v => if v.tag = .poison then Answer.fail 0x12 (d.setWidth 64) else p.2 | .fail _ _ => p.2)
  let good := answered judged
  let bad := firstFail judged
  match s.g.stream d with
  | none => .done { s with g := s.g.write d good }
  | some st =>
    let val (n : Nat) : Val := (good.lookup n).getD Val.zero
    let (as, e) := s.appends d st val (good.map (·.1))
    if s.journalFull as then .wait s .journal
    else
      let put (s : State) : State := s.putAppends d st val as
      match e, bad with
      | some (lane, .trap t), _ => .trap (put s) { partialTrap t lane as with keep := s.g.keptBump i (as.map (·.lane)) }
      | some (lane, c), _ => stopAct s [] lane c
      | none, some (lane, c, t) =>
        .trap (put s) (if s.g.isG then { partialTrap (trap c t) lane as with keep := s.g.keptBump i (as.map (·.lane)) } else trap c t)
      | none, none => .done (put s)

/-- Values that the appends to a bound destination await: the group waits, then appends them (11 R238). -/
noncomputable def awaitAppend (i : Instr) (d : BitVec 6) (rcv : List Nat) (s : State) : Act :=
  if rcv.all fun n => s.g.answers.any fun p => p.1 == n then
    appendResults i d (rcv.filterMap fun n => (s.g.answers.lookup n).map fun a => (n, a)) s
  else .wait s .symbol

/-- The checks of a lane's access that brings a value to a destination: those of the appends follow it, where a stream is bound
there, since nothing is performed before every check of the instruction (04 R89; 11 R240). `ls` are the lanes it is checked
with; one access of the lowest lane serves every active lane under U = 1 (04 R83). -/
def State.resultChk (s : State) (d : BitVec 6) (u : Bool) (ls : List Lane) (chk : Lane → Chk × Nat × MemOp) (l : Lane) : Chk × Nat × MemOp :=
  match s.g.stream d, chk l with
  | some st, (.ok p, va, op) =>
    let at_ := if u then 0 else (ls.takeWhile fun x => x.no != l.no).length
    let takers := if u then s.g.appendLanes else [l.no]
    (match (s.appends d { st with count := st.count + at_ } (fun _ => Val.zero) takers).2 with | some e => e.2 | none => .ok p, va, op)
  | _, r => r

/-- The appends that some lanes are to make, as accesses; none where no stream is bound. -/
def State.appendAccs (s : State) (d : BitVec 6) (lanes : List Nat) : List Acc :=
  match s.g.stream d with | some st => (s.appends d st (fun _ => Val.zero) lanes).1 | none => []

/-- The element size of the stream bound to a register. -/
def Group.streamSize (g : Group) (d : BitVec 6) : Nat := match g.stream d with | some st => st.size | none => 0

/-- A load (05 R114, R115, R118; 13 R260): `always` makes every result late (03 R60). One whose destination is bound to an append
stream has a side effect (11 R238), and is partial as one (18 R371). -/
noncomputable def loadAct (i : Instr) (q : Ask) (d : BitVec 6) (b : Bump) (always : Bool) (s : State) : Act :=
  let u := isUniform i
  let ap := (s.g.stream d).isSome
  let ls := if ap then s.g.todo (s.g.execs u) else s.g.execs u
  let takers := if ap then s.g.todo s.g.acts else s.g.acts
  let rcv := if u then takers.map (·.no) else ls.map (·.no)
  if s.g.sent then awaitAppend i d rcv s
  else if s.scPending then .wait s .fence
  else
    let (as, e) := checkLanes (s.resultChk d u ls (q.chk s)) ls
    let got := if u then rcv else as.map (·.lane)
    let apAccs := s.appendAccs d got
    if s.journalFull apAccs then .wait s .journal
    else
      let acs := watchedAccs true false q.size as ++ watchedAccs false true (s.g.streamSize d) apAccs
      let begin (fails : List (Nat × Answer)) (s : State) : Act :=
        let s1 := (State.makeReads u got [] true as { s with g := { s.g with sent := true, answers := fails } }).1
        awaitAppend i d rcv { s1 with g := s1.g.bump u b (ls.filter fun l => as.any fun a => a.lane == l.no) }
      match e with
      | some (lane, .trap t) =>
        if !ap || as.isEmpty then .trap s t
        else withFollower i s fun s => begin ((rcv.filter fun n => !got.contains n).map fun n => (n, .fail t.code t.tval)) s
      | some (lane, c) => stopAct s [] lane c
      | none =>
        if ap then withWatch i acs s (begin [])
        else watchedAct s acs fun s =>
          if d = 0 then
            let (s1, _) := State.makeReads u [] [] false as s
            .done { s1 with g := s1.g.bump u b ls }
          else
            match s.freshIds (slicesOf rcv) with
            | none => .wait s .symPool
            | some ids =>
              let isLate (p : Nat × BitVec 6) : Bool :=
                always || as.any fun a => !s.immediate a && (u || a.lane / 4 == p.1)
              let late := ids.filter isLate
              let timely := ids.filter fun p => !isLate p
              let lateLane (n : Nat) : Bool := late.any fun p => p.1 == n / 4
              let s1 := s.newSyms late (rcv.filter lateLane) []
              let (s2, vs) := State.makeReads u rcv late false as s1
              let syms := (rcv.filter lateLane).map fun n => (n, match mapGet (n / 4) late with | some id => pureSym id | none => Val.zero)
              let pend : List Pend :=
                if timely.isEmpty then []
                else [⟨s.clk + (if s.g.isG then 4 else 3), false, d, s.g.banked d, vs.filter (fun p => !lateLane p.1), [], timely,
                  true, false⟩]
              let g := (s2.g.write d syms).bump u b ls
              .done { s2 with g := { g with pend := g.pend ++ pend } }

/-- A posted operation of each lane (12 R250; 18 R371): stores, and atomics that return nothing. -/
noncomputable def postAct (i : Instr) (q : Ask) (data : Lane → Quad) (opc : Nat) (b : Bump) (s : State) : Act :=
  let u := isUniform i
  let ls := s.g.todo (s.g.execs u)
  if s.scPending then .wait s .fence
  else
    let (as, e) := checkLanes (q.chk s) ls
    let put (s : State) : State :=
      as.foldl (fun s a => s.post a (match ls.find? fun l => l.no == a.lane with | some l => data l | none => 0) (Nat.log2 q.size) opc) s
    let went := ls.filter fun l => as.any fun a => a.lane == l.no
    if s.journalFull as then .wait s .journal
    else match e with
      | some (lane, .trap t) => partialAct i s as lane (.trap { t with keep := s.g.bumped false b went }) put
      | some (lane, c) => stopAct s [] lane c
      | none =>
        withWatch i (watchedAccs (q.perms.contains .r) true q.size as) s fun s =>
          let s1 := put s
          .done { s1 with g := s1.g.bump u b went }

/-- What a late operation is, lane by lane: the lanes that access, their checks, whether they read and write, how many bytes, and
which lanes receive what the accesses of some return. -/
structure LateOp where
  lanes : List Lane
  chk : Lane → Chk × Nat × MemOp
  rd : Bool
  wr : Bool
  size : Nat
  rcv : List Acc → List Nat
  /-- What must come before the accesses, after every check. -/
  hold : State → (State → Act) → Act
  /-- The accesses made: the lanes that receive, the symbols they fill, and whether the waiting instruction takes the answers. -/
  send : List Acc → List Nat → List (Nat × BitVec 6) → Bool → State → State

/-- An operation of each lane whose result is always late and has a side effect (03 R60; 13 R266 to R273; 18 R371): it writes a
symbol, or waits for the values that it appends where its destination is bound to a stream (11 R238). -/
noncomputable def lateOpAct (i : Instr) (o : LateOp) (d : BitVec 6) (s : State) : Act :=
  let u := isUniform i
  let ap := (s.g.stream d).isSome
  let all := o.rcv (o.lanes.map fun l => ⟨l.no, ⟨0, false, none, none, false⟩, 0, .clean⟩)
  if s.g.sent then awaitAppend i d all s
  else
    let (as, e) := checkLanes (s.resultChk d u o.lanes o.chk) o.lanes
    let rcv := o.rcv as
    let apAccs := s.appendAccs d rcv
    if s.journalFull apAccs then .wait s .journal
    else match s.freshIds (if d = 0 || ap then [] else slicesOf rcv) with
      | none => .wait s .symPool
      | some ids =>
        let syms := rcv.map fun n => (n, match mapGet (n / 4) ids with | some id => pureSym id | none => Val.zero)
        let go (s : State) : State := o.send as rcv ids false (s.newSyms ids (if d = 0 then [] else rcv) [])
        let begin (fails : List (Nat × Answer)) (s : State) : Act :=
          awaitAppend i d all (o.send as rcv [] true { s with g := { s.g with sent := true, answers := fails } })
        match e with
        | some (lane, .trap t) =>
          if as.isEmpty then stopAct s [] lane (.trap t)
          else
            withFollower i s fun s => o.hold s fun s =>
              if ap then begin ((all.filter fun n => !rcv.contains n).map fun n => (n, .fail t.code t.tval)) s
              else .trap (go s) { t with
                performed := laneMask (s.g.lanes.filter fun l => rcv.contains l.no), flane := lane, keep := [(d, syms)] }
        | some (lane, c) => stopAct s [] lane c
        | none =>
          withWatch i (watchedAccs o.rd o.wr o.size as ++ watchedAccs false true (s.g.streamSize d) apAccs) s fun s => o.hold s fun s =>
            if ap then begin [] s
            else
              let s1 := go s
              .done { s1 with g := s1.g.write d syms }

/-- Nothing is to come before the accesses. -/
def noHold (s : State) (k : State → Act) : Act := k s

/-- The lanes that receive what accesses of lanes return: each its own, or under U = 1 every active lane (04 R83). -/
def Group.receivers (g : Group) (u : Bool) (as : List Acc) : List Nat :=
  if u then (if as.isEmpty then [] else g.acts.map (·.no)) else as.map (·.lane)

/-- An atomic of each lane that returns a value (13 R266, R267). -/
noncomputable def lateAct (i : Instr) (q : Ask) (d : BitVec 6) (s : State) : Act :=
  let u := isUniform i
  if !s.g.sent && s.scPending then .wait s .fence
  else
    lateOpAct i
      { lanes := s.g.todo (s.g.execs u), chk := q.chk s, rd := true, wr := true, size := q.size, rcv := s.g.receivers u, hold := noHold
        send := fun as rcv ids ans s => (State.makeReads u rcv ids ans as s).1 } d s

/-! ### Fences (12 R252) -/

/-- OPC of the entry that a `task.dec` holds (16 R345): the decrement, which follows its release. -/
def decOpc : Nat := 0x1C1

/-- Whether every earlier memory operation of the group has been performed and every posted entry
acknowledged; with `own`, those at the own core's local memory alone (12 R252). An entry refused at
level U still holds the fence (12 R251). -/
def State.quiet (s : State) (own : Bool) : Bool :=
  let src := s.g.sources
  let here (r : Req) : Bool := src.contains r.src && (!own || r.home == 2 ^ 20 + s.g.core)
  !(s.net.any here) && !(s.scq.any fun o => here o.req) &&
    (own ||
      (s.core s.g.core).journal.toList.all fun e =>
        match e with
        | none => true
        | some e => !src.contains e.src || e.opc == decOpc || (e.st != 1 && !(e.st == 2 && s.g.priv == 0)))

/-- Waits as a fence does, then goes on. -/
def withFence (own : Bool) (s : State) (k : State → Act) : Act := if s.quiet own then k s else .wait s .fence

/-! ### Full/empty words (11 R241, R242; 13 R263 to R265) -/

/-- Whether a full/empty operation can proceed on a word (11 R241). -/
def feReady (m : Memory) (pa k : Nat) : Bool :=
  match k with
  | 0 => m.isFull pa
  | 1 => m.isFull pa
  | 2 => !m.isFull pa
  | _ => true

/-- A full/empty operation that proceeds: the memory and the value read. -/
def feDo (m : Memory) (pa k : Nat) (data : Word) : Memory × Val :=
  match k with
  | 0 => (m.setFull pa false, ⟨BitVec.ofNat 128 (m.nat pa 8), .data⟩)
  | 1 => (m, ⟨BitVec.ofNat 128 (m.nat pa 8), .data⟩)
  | 4 => (m.setFull pa false, Val.zero)
  | 5 => (m.setFull pa true, Val.zero)
  | _ => ((m.store pa 8 data.toNat).setFull pa true, Val.zero)

/-- An answer reaches the instruction a group waits at; a full/empty load writes its destination. -/
def State.answer (s : State) (gid lane : Nat) (dst : BitVec 6) (a : Answer) : State :=
  s.mapGroup gid fun g =>
    let g1 := { g with answers := g.answers ++ [(lane, a)] }
    match a with
    | .ok v => if dst = 0 ∨ (g1.stream dst).isSome then g1 else g1.write dst [(lane, v)]
    | .fail _ _ => g1

/-- The first waiting operation of a word that can proceed, none past its deadline (11 R242), and the others. -/
def feFirst (m : Memory) (clk pa : Nat) : List FeWait → Option (FeWait × List FeWait)
  | [] => none
  | w :: t =>
    if w.pa = pa ∧ clk ≤ w.deadline ∧ feReady m pa w.op = true then some (w, t)
    else (feFirst m clk pa t).map fun p => (p.1, w :: p.2)

/-- The home performs the oldest queued operation of a word that can proceed (11 R241). -/
def State.fePerform (s : State) (pa : Nat) : State :=
  match feFirst s.mem s.clk pa s.fes with
  | none => s
  | some (w, rest) =>
    let (m, v) := feDo s.mem pa w.op w.data
    let s1 := { s with mem := m, fes := rest }
    let s2 := if 2 ≤ w.op ∧ w.op ≤ 3 then s1.noticed w.gid pa 8 else s1
    s2.answer w.gid w.lane w.dst (.ok v)

/-- A full/empty operation reaches its home: refused, or queued and performed if it is its turn
(11 R241; 13 R264). -/
def State.feArrive (s : State) (gid lane pa : Nat) (va : Word) (k : Nat) (data : Word) (deadline : Nat) (dst : BitVec 6) : State :=
  let s := s.handOver (.fe k data deadline dst) pa none
  let bad := s.mem.poisoned pa 8
  if bad || (s.refusal (.fe k data deadline dst) pa).isSome then
    if k < 2 then s.answer gid lane dst (.ok poisonVal)
    else s.answer gid lane dst (.fail (if bad then 0x12 else 0x09) va)
  else
    State.fePerform { s with fes := s.fes ++ [⟨pa, gid, lane, k, data, va, deadline, dst⟩] } pa

/-- A full/empty operation of each lane (13 R264, R265): the group sleeps until each is performed, or
takes the trap of the lowest that was not. -/
noncomputable def feAct (i : Instr) (q : Ask) (k : Nat) (data : Lane → Word) (d : BitVec 6) (s : State) : Act :=
  let u := isUniform i
  let ls := s.g.todo (s.g.execs u)
  let ap := (s.g.stream d).isSome
  let outcome (s : State) : Act :=
    let got := ls.filterMap fun l => (s.g.answers.lookup l.no).map fun a => (l.no, a)
    if got.length < ls.length then .wait s .fullEmpty
    else if ap then appendResults i d (if u then (got.take 1).flatMap fun p => s.g.appendLanes.map fun n => (n, p.2) else got) s
    else
      match firstFail got with
      | some (lane, c, t) =>
        let ok := got.filter fun p => p.2.isOk
        .trap s { trap c t with
          performed := if s.g.isG then (ok.foldl (fun m p => m ||| BitVec.ofNat 32 (2 ^ p.1)) 0) else 0
          flane := if s.g.isG && !ok.isEmpty then lane else 0
          keep := if d = 0 then [] else [(d, answered ok)] }
      | none => .done (if d = 0 then s else { s with g := s.g.write d (s.g.spread u (answered got)) })
  if s.g.sent then outcome s
  else if s.scPending then .wait s .fence
  else
    let (as, e) := checkLanes (s.resultChk d u ls (q.chk s)) ls
    let apAccs := s.appendAccs d (if u then s.g.appendLanes else as.map (·.lane))
    let send (s : State) (a : Acc) : State :=
      let w := match ls.find? fun l => l.no == a.lane with | some l => data l | none => 0
      let dl := s.clk + s.g.sp.felim.toNat
      if s.immediate a then s.feArrive s.g.gid a.lane a.place.pa (BitVec.ofNat 64 a.va) k w dl d
      else s.send { s.reqOf a [a.lane] [] none true with op := .fe k w dl d }
    if s.journalFull apAccs then .wait s .journal
    else match e with
    | some (lane, .trap t) =>
      -- the lanes below the failing one perform first (18 R371); the trap is taken when they have answered
      if as.isEmpty then stopAct s [] lane (.trap t)
      else
        let failed := (ls.filter fun l => decide (lane ≤ l.no)).map fun l => (l.no, Answer.fail t.code t.tval)
        withFollower i s fun s => outcome (as.foldl send { s with g := { s.g with sent := true, answers := failed } })
    | some (lane, c) => stopAct s [] lane c
    | none =>
      withWatch i (watchedAccs (decide (k < 2)) (decide (2 ≤ k)) 8 as ++ watchedAccs false true (s.g.streamSize d) apAccs) s fun s =>
        outcome (as.foldl send { s with g := { s.g with sent := true, answers := [] } })

/-- The home of a full/empty operation is a local memory (13 R263). -/
def localOnly (va : Nat) : Chk → Chk
  | .ok p => if isLocalPA p.pa && p.pkg.isNone then .ok p else .trap (trap 0x09 (BitVec.ofNat 64 va))
  | c => c

end Sys2Proof.Machine
end

