-- ==== Sys2Proof/Machine/Hash.lean ====
section
/-! DEFINITION. SHA-256 and CRC-32C (11 R235; 26 R493 to R499), on lists of bytes. -/

namespace Sys2Proof.Machine

/-! ### SHA-256 -/

/-- The round constants. -/
def shaConsts : List (BitVec 32) :=
  [0x428A2F98, 0x71374491, 0xB5C0FBCF, 0xE9B5DBA5, 0x3956C25B, 0x59F111F1, 0x923F82A4, 0xAB1C5ED5] ++
  [0xD807AA98, 0x12835B01, 0x243185BE, 0x550C7DC3, 0x72BE5D74, 0x80DEB1FE, 0x9BDC06A7, 0xC19BF174] ++
  [0xE49B69C1, 0xEFBE4786, 0x0FC19DC6, 0x240CA1CC, 0x2DE92C6F, 0x4A7484AA, 0x5CB0A9DC, 0x76F988DA] ++
  [0x983E5152, 0xA831C66D, 0xB00327C8, 0xBF597FC7, 0xC6E00BF3, 0xD5A79147, 0x06CA6351, 0x14292967] ++
  [0x27B70A85, 0x2E1B2138, 0x4D2C6DFC, 0x53380D13, 0x650A7354, 0x766A0ABB, 0x81C2C92E, 0x92722C85] ++
  [0xA2BFE8A1, 0xA81A664B, 0xC24B8B70, 0xC76C51A3, 0xD192E819, 0xD6990624, 0xF40E3585, 0x106AA070] ++
  [0x19A4C116, 0x1E376C08, 0x2748774C, 0x34B0BCB5, 0x391C0CB3, 0x4ED8AA4A, 0x5B9CCA4F, 0x682E6FF3] ++
  [0x748F82EE, 0x78A5636F, 0x84C87814, 0x8CC70208, 0x90BEFFFA, 0xA4506CEB, 0xBEF9A3F7, 0xC67178F2]

/-- The initial hash value. -/
def shaInit : List (BitVec 32) :=
  [0x6A09E667, 0xBB67AE85, 0x3C6EF372, 0xA54FF53A, 0x510E527F, 0x9B05688C, 0x1F83D9AB, 0x5BE0CD19]

/-- The number of bytes in order from the most significant. -/
def beNat (l : List Byte) : Nat := l.foldl (fun n b => n * 256 + b.toNat) 0

/-- The bytes of a number in order from the most significant. -/
def beBytes (n v : Nat) : List Byte := (natBytes n v).reverse

/-- One more word of the message schedule, before the sixteen last words (the latest first). -/
def shaNext (w : List (BitVec 32)) : BitVec 32 :=
  let at_ (k : Nat) : BitVec 32 := w.getD (k - 1) 0
  let a := at_ 15
  let b := at_ 2
  let s0 := a.rotateRight 7 ^^^ a.rotateRight 18 ^^^ (a >>> 3)
  let s1 := b.rotateRight 17 ^^^ b.rotateRight 19 ^^^ (b >>> 10)
  at_ 16 + s0 + at_ 7 + s1

/-- The schedule extended by `n` words, the latest first. -/
def shaSchedule : Nat → List (BitVec 32) → List (BitVec 32)
  | 0, w => w
  | n + 1, w => shaSchedule n (shaNext w :: w)

/-- One round on a, b, c, d, e, f, g, h. -/
def shaRound (v : List (BitVec 32)) (kw : BitVec 32 × BitVec 32) : List (BitVec 32) :=
  match v with
  | [a, b, c, d, e, f, g, h] =>
    let t1 := h + (e.rotateRight 6 ^^^ e.rotateRight 11 ^^^ e.rotateRight 25) + ((e &&& f) ^^^ (~~~e &&& g)) + kw.1 + kw.2
    let t2 := (a.rotateRight 2 ^^^ a.rotateRight 13 ^^^ a.rotateRight 22) + ((a &&& b) ^^^ (a &&& c) ^^^ (b &&& c))
    [t1 + t2, a, b, c, d + t1, e, f, g]
  | l => l

/-- A block of 64 bytes taken into a hash value. -/
def shaBlock (h : List (BitVec 32)) (block : List Byte) : List (BitVec 32) :=
  let w := (upFrom 0 16).map fun k => BitVec.ofNat 32 (beNat ((block.drop (4 * k)).take 4))
  let ws := (shaSchedule 48 w.reverse).reverse
  List.zipWith (· + ·) h ((shaConsts.zip ws).foldl shaRound h)

/-- The blocks of a padded message in order, `n` of them. -/
def shaBlocks : Nat → List Byte → List (BitVec 32) → List (BitVec 32)
  | 0, _, h => h
  | n + 1, m, h => shaBlocks n (m.drop 64) (shaBlock h (m.take 64))

/-- SHA-256 of some bytes, as 32 bytes. -/
def sha256 (m : List Byte) : List Byte :=
  let n := m.length
  let zeros := (119 - n % 64) % 64
  let padded := m ++ [0x80] ++ List.replicate zeros 0 ++ beBytes 8 (8 * n)
  (shaBlocks (padded.length / 64) padded shaInit).flatMap fun w => beBytes 4 w.toNat

/-- A digest as a number whose first byte is the least significant, as measurement registers hold it. -/
def digestBits (l : List Byte) : BitVec 256 := BitVec.ofNat 256 (leNat l)

/-- A measurement register extended by a value: SHA-256(M, v) (26 R493). -/
def extend (m : BitVec 256) (v : List Byte) : BitVec 256 := digestBits (sha256 (natBytes 32 m.toNat ++ v))

/-! ### CRC-32C -/

/-- The remainder after `n` more bits, reflected. -/
def crcBits : Nat → BitVec 32 → BitVec 32
  | 0, c => c
  | n + 1, c => crcBits n (if c.getLsbD 0 then (c >>> 1) ^^^ 0x82F63B78 else c >>> 1)

/-- CRC-32C: the Castagnoli polynomial 0x1EDC6F41, reflected, with initial value and final XOR all ones (11 R235). -/
def crc32c (m : List Byte) : BitVec 32 :=
  ~~~(m.foldl (fun c b => crcBits 8 (c ^^^ b.setWidth 32)) (BitVec.allOnes 32))

/-- The check value that stands beside a line (11 R224, R235): that of its bytes, but for the difference a soft error has made. -/
def Memory.checkValue (m : Memory) (line : Nat) : BitVec 32 := crc32c (m.bytes (line * 64) 64) ^^^ (mapGet line m.checks).getD 0

end Sys2Proof.Machine
end

