-- ==== Sys2Proof/Machine/Flits.lean ====
section
/-! DEFINITION. Flits of the Krearn fabric as they leave the package (22 R428 to R430). -/

namespace Sys2Proof.Machine

/-- Lines that a flit carries. -/
def lineCount (f : Flit) : Nat := (f.lines.length + 63) / 64

/-- The 256 bytes of a flit (22 R429), with its LCRC field given. -/
def flitBytes (f : Flit) (lcrc : BitVec 32) : List Byte :=
  let header : BitVec 512 :=
    lcrc ++ BitVec.ofNat 32 f.seq ++ f.dpkg ++ f.spkg ++ f.dcoord ++ f.scoord ++ f.kind ++ BitVec.ofNat 2 (lineCount f) ++ 0#6 ++ f.addr ++ f.bmask ++ f.opf
  natBytes 64 header.toNat ++ (upFrom 0 192).map fun k => f.lines.getD k 0

/-- The CRC-32C over a flit with its LCRC field as 0 (22 R429). -/
def flitCrc (f : Flit) : BitVec 32 := crc32c (flitBytes f 0)

/-- The source and destination of a flit, by their packages and cores. -/
def pairOf (pkg : BitVec 8) (src dst : Nat) : Nat := pkg.toNat * 2 ^ 26 + src % 2 ^ 13 * 2 ^ 13 + dst % 2 ^ 13

/-- The core that stands for the home of an address in a flit (22 R429): the core of a local memory, or core 0 of the quad of a bank or
an L2 slice (log 21). -/
def homeCore (pa : Nat) : Nat := if isLocalPA pa then coreOfPA pa else ((homeQuad pa).1 * 256 + (homeQuad pa).2) * 4

/-- The last `n` entries of a list that one kind names, and all others. -/
def keepLast {α : Type} (p : α → Bool) (n : Nat) (l : List α) : List α := (keepFirst p n l.reverse).reverse

/-- A flit leaves the package with the next SEQ of its pair, and stays in the replay buffer of 64 flits of its port (22 R429, R430); one
that no route takes is dropped. -/
def State.sendFlit (s : State) (kind : Nat) (dpkg : BitVec 8) (src dst addr : Nat) (bmask : BitVec 64) (opf : Nat) (lines : List Byte) : State :=
  let f := s.pkg.fabric
  let p := pairOf dpkg src dst
  let n := (mapGet p f.seqOut).getD 0
  let flit : Flit :=
    { seq := n, dpkg := dpkg, spkg := s.pkg.pod, dcoord := BitVec.ofNat 13 dst, scoord := BitVec.ofNat 13 src, kind := BitVec.ofNat 6 kind,
      addr := BitVec.ofNat 56 addr, bmask := bmask, opf := BitVec.ofNat 272 opf, lines := lines, lcrc := 0 }
  let sent := { flit with lcrc := flitCrc flit }
  match s.routeTo dpkg with
  | none => s
  | some port =>
    { s with pkg := { s.pkg with fabric := { f with
        seqOut := mapSet p ((n + 1) % 2 ^ 32) f.seqOut
        replay := keepLast (fun r => r.1 == port) 64 (f.replay ++ [(port, sent)])
        out := f.out ++ [sent] } } }

/-- The byte mask of an access within its line. -/
def maskOf (pa n : Nat) : BitVec 64 := BitVec.ofNat 64 ((2 ^ n - 1) * 2 ^ (pa % 64))

/-- OPF of an operation that is no plain load or store (log 21): its kind in [139:136], a number in [131:128], the width
in [132], whether the value is returned in [133], e in [127:64] and b in [63:0]; for a bank line operation the quarters
present in [143:140]. -/
def MemOp.opf : MemOp → Nat
  | .amo k w b e => k * 2 ^ 128 + w.toNat * 2 ^ 132 + e.toNat * 2 ^ 64 + b.toNat
  | .fadd t b => 2 ^ 136 + t.toNat * 2 ^ 128 + b % 2 ^ 64
  | .bank k data alpha =>
    2 * 2 ^ 136 + k * 2 ^ 128 + alpha % 2 ^ 64 +
      ((data.zipIdx.filter fun p => p.1.isSome).map fun p => 2 ^ p.2).sum * 2 ^ 140
  | .bankSum => 3 * 2 ^ 136
  | .zero => 4 * 2 ^ 136
  | .clean => 5 * 2 ^ 136
  | _ => 0

/-- The operation that OPF and the lines of a KIND 6 flit give (log 21). -/
def opfOp (o : BitVec 272) (lines : List Byte) : Option MemOp :=
  let k := (o.extractLsb' 128 4).toNat
  let b := o.extractLsb' 0 64
  match (o.extractLsb' 136 4).toNat with
  | 0 => if k < 10 then some (.amo k (o.getLsbD 132) b (o.extractLsb' 64 64)) else none
  | 1 => if k < 4 then some (.fadd (BitVec.ofNat 2 k) b.toNat) else none
  | 2 =>
    let quarter (n : Nat) : Option Quad := if o.getLsbD (140 + n) then some (BitVec.ofNat 128 (leNat ((lines.drop (16 * n)).take 16))) else none
    if k < 4 then some (.bank k ((upFrom 0 4).map quarter) b.toNat) else none
  | 3 => some .bankSum
  | 4 => some .zero
  | 5 => some .clean
  | _ => none

/-- The line an operation carries. -/
def MemOp.line (pa : Nat) : MemOp → List Byte
  | .store n data _ => natBytes 64 (data.toNat % 2 ^ (8 * n) * 2 ^ (8 * (pa % 64)))
  | .bank _ data _ => data.flatMap fun q => natBytes 16 ((q.getD 0).toNat)
  | _ => []

/-- A request to another package leaves as a flit (22 R429). -/
def State.sendReq (s : State) (r : Req) (p : BitVec 8) : State :=
  let kind := match r.op with | .load _ _ _ => 0 | .store _ _ _ => 2 | _ => 6
  s.sendFlit kind p r.core (homeCore r.pa) r.pa (maskOf r.pa r.op.size) (r.op.opf + r.entry.isNone.toNat * 2 ^ 133) (r.op.line r.pa)

/-- Changes the fabric. -/
def State.mapFabric (s : State) (f : Fabric → Fabric) : State := { s with pkg := { s.pkg with fabric := f s.pkg.fabric } }

end Sys2Proof.Machine
end

