-- ==== Sys2Proof/Machine/Crews.lean ====
section
/-! DEFINITION. Completion records and event queues (14 R297; 15 R314, R315), the fields of task records
(07 R143), barriers and their release (09 R203 to R205), and how lanes, groups, crews and tasks end or are
killed (07 R149; 14 R302; 18 R367; 19 R400). -/

namespace Sys2Proof.Machine

/-! ### Completion records -/

/-- A completion record (14 R297; 15 R314): bits [51:40] are 0 but for the matrix engine. -/
def recordBits (engine status tag core : Nat) (count : Word) : Quad :=
  (count ++ 0#24 ++ BitVec.ofNat 8 status ++ BitVec.ofNat 16 tag ++ BitVec.ofNat 8 core ++ BitVec.ofNat 8 engine : BitVec 128)

/-- A record joins a function's event list of 1,024, which drops its oldest when full, and vector 1 is raised
(26 R478, R491). -/
def PcieFn.event (f : PcieFn) (bits : Quad) : PcieFn :=
  let full := decide (1024 ≤ f.events.length)
  { f with
    events := (if full then f.events.tail else f.events) ++ [bits]
    dropped := f.dropped + full.toNat
    vectors := f.vectors ||| 2 }

/-- Changes a function. -/
def State.mapFn (s : State) (n : Nat) (f : PcieFn → PcieFn) : State :=
  { s with pkg := { s.pkg with functions := s.pkg.functions.map fun x => if x.no = n then f x else x } }

/-- A record for the host. -/
def State.hostEvent (s : State) (fn : Nat) (bits : Quad) : State := s.mapFn fn fun f => f.event bits

/-- WR of an event queue, bits [31:0] of its header (15 R315). -/
def State.evqWR (s : State) (pa : Nat) : Nat := s.mem.nat pa 4
/-- RD, bits [63:32]. -/
def State.evqRD (s : State) (pa : Nat) : Nat := s.mem.nat (pa + 4) 4
/-- DROP, bits [95:64]. -/
def State.evqDROP (s : State) (pa : Nat) : Nat := s.mem.nat (pa + 8) 4

/-- Whether a queue has room: WR − RD < 64. -/
def State.evqRoom (s : State) (pa : Nat) : Bool := decide ((s.evqWR pa + 2 ^ 32 - s.evqRD pa) % 2 ^ 32 < 64)

/-- A write of memory by an agent that is no group: waiters notice it, and the creator words of the counters
it touches are cleared (09 R210; 16 R344). -/
def State.poke (s : State) (pa n v : Nat) : State :=
  let s1 := s.storeAt 0 pa n v
  { s1 with creators := s1.creators.filter fun c => !decide (c.pa < pa + n ∧ pa < c.pa + 32) }

/-- A record written in its queue, through a port of the local memory: the slot, then WR (15 R315; 07 R151). -/
def State.evqWrite (s : State) (pa : Nat) (bits : Quad) : State :=
  let wr := s.evqWR pa
  ((s.takesPort pa).poke (pa + 16 + 16 * (wr % 64)) 16 bits.toNat).poke pa 4 ((wr + 1) % 2 ^ 32)

/-- Whether a crew is saved, or its memory is being saved or restored: what reaches it goes to its areas (18 R380, R387). -/
def Crew.inAreas (c : Crew) : Bool := c.saved || c.switching != 0

/-- Whether records for a crew's queue wait until it is restored. -/
def State.evqSaved (s : State) (crew : Nat) : Bool := s.crews.any fun c => c.inAreas && c.id == crew

/-- A record of a unit on an operation of a gang and crew: to the host's list, into its queue, or held until the queue has room
(15 R315). `op` is the operation, 0 if none. -/
def State.emitBy (s : State) (u : EngineUnit) (d : RecDest) (bits : Quad) (gang crew op : Nat) : State :=
  match d with
  | .host fn => s.hostEvent fn bits
  | .queue pa c =>
    if s.evqRoom pa && !s.evqSaved c && !(s.records.any fun r => r.dest == d) then s.evqWrite pa bits
    else { s with records := s.records ++ [⟨u, d, bits, s.clk, gang, crew, op⟩] }

/-- A record that reports on no operation of a gang. -/
def State.emit (s : State) (u : EngineUnit) (d : RecDest) (bits : Quad) : State := s.emitBy u d bits 0 0 0

/-- Whether a held record is for the queue at an address of a crew that is not saved. -/
def State.waitsAt (s : State) (pa : Nat) (r : OutRec) : Bool :=
  match r.dest with
  | .queue p c => p == pa && !s.evqSaved c
  | .host _ => false

/-- The oldest held record of a queue is written if there is room. -/
def State.flushOne (s : State) (pa : Nat) : State :=
  match s.records.find? (s.waitsAt pa) with
  | none => s
  | some r => if s.evqRoom pa then ({ s with records := s.records.erase r }).evqWrite pa r.bits else s

/-- The held records of a queue are written while there is room (15 R315). -/
def State.flushQueue (s : State) (pa : Nat) : State := s.records.foldl (fun s _ => s.flushOne pa) s

/-- Whether a unit holds a record: it starts no further operation (15 R315). -/
def State.unitHeld (s : State) (u : EngineUnit) : Bool := s.records.any fun r => r.unit == u

/-- The physical address of a window address, if it lies in the mesh window. -/
def meshPA (mwb : Word) (addr : Nat) : Option Nat :=
  if mwb.toNat ≤ addr ∧ addr < mwb.toNat + Config.meshSize then
    some (localPA ((addr - mwb.toNat) / 2 ^ 19) ((addr - mwb.toNat) % 2 ^ 19))
  else none

/-! ### Tasks -/

/-- A task by its id. -/
def State.task (s : State) (id : Nat) : Option Task := s.tasks.find? fun t => t.id == id

/-- Changes a task. -/
def State.mapTask (s : State) (id : Nat) (f : Task → Task) : State :=
  { s with tasks := s.tasks.map fun t => if t.id = id then f t else t }

/-- A field of a task record, by its place in the table of 07 R143. -/
def TaskRec.field (r : TaskRec) (lo w : Nat) : Nat := r.fields.toNat / 2 ^ (lo - 256) % 2 ^ w

/-- KIND: a gang task. -/
def TaskRec.isG (r : TaskRec) : Bool := r.field 256 1 == 1
/-- PRI. -/
def TaskRec.pri (r : TaskRec) : Nat := r.field 257 2
/-- SAMP. -/
def TaskRec.samp (r : TaskRec) : Bool := r.field 259 1 == 1
/-- RETRY. -/
def TaskRec.retry (r : TaskRec) : Nat := r.field 260 4
/-- SPG. -/
def TaskRec.spg (r : TaskRec) : Nat := r.field 264 4
/-- CREWN. -/
def TaskRec.crewN (r : TaskRec) : Nat := r.field 268 8
/-- COUNT. -/
def TaskRec.count (r : TaskRec) : Nat := r.field 276 16
/-- The role of gang j. -/
def TaskRec.role (r : TaskRec) (j : Nat) : Nat := r.field (292 + 2 * (j % 8)) 2
/-- LOCAL in bytes. -/
def TaskRec.localBytes (r : TaskRec) : Nat := r.field 308 10 * 256
/-- The reconvergence-stack limit that STK names. -/
def TaskRec.limit (r : TaskRec) : Nat :=
  match r.field 318 2 with
  | 0 => 16
  | 1 => 64
  | 2 => 128
  | _ => 256
/-- DIE. -/
def TaskRec.die (r : TaskRec) : Nat := r.field 320 3
/-- QX. -/
def TaskRec.qx (r : TaskRec) : Nat := r.field 323 4
/-- QY. -/
def TaskRec.qy (r : TaskRec) : Nat := r.field 327 4
/-- RADIUS. -/
def TaskRec.radius (r : TaskRec) : Nat := r.field 331 4
/-- DMIN. -/
def TaskRec.dmin (r : TaskRec) : Nat := r.field 336 3
/-- DMAX. -/
def TaskRec.dmax (r : TaskRec) : Nat := r.field 339 3
/-- MTHR, 0 meaning 32. -/
def TaskRec.mthr (r : TaskRec) : Nat := if r.field 344 6 = 0 then 32 else r.field 344 6
/-- WDOG. -/
def TaskRec.wdog (r : TaskRec) : Nat := r.field 352 32
/-- SUCC0 or SUCC1. -/
def TaskRec.succ (r : TaskRec) (n : Nat) : Nat := r.field (384 + 64 * n) 64

/-- The members of a crew that save areas and spill regions count: strands, or slices. -/
def TaskRec.members (r : TaskRec) (n : Nat) : Nat := if r.isG then n * r.spg else n

/-- The bytes of local memory a crew of `n` strands or gangs takes (07 R146, R148, R162). -/
def TaskRec.crewBytes (r : TaskRec) (n event : Nat) : Nat :=
  r.localBytes + r.members n * ((r.limit - 16) * 8) + event

/-- The first rule of 07 R144 that a record breaks, 0 if none; `event` is the context's event bytes. -/
def TaskRec.code (r : TaskRec) (event : Nat) : Nat :=
  if r.entry.tag ≠ .cap ∨ capHas r.entry.bits .x = false ∨ capWalk r.entry.bits ≠ 0 then 0x01
  else if (if r.isG then decide (r.spg < 1 ∨ 8 < r.spg) else decide (r.spg ≠ 0)) then 0x02
  else if r.count = 0 then 0x03
  else if (if r.isG then decide (r.crewN < 1 ∨ 8 < r.crewN ∨ 63 < r.crewN * r.spg) else decide (r.crewN < 1 ∨ 23 < r.crewN)) then 0x04
  else if (if r.isG then (upFrom 0 8).any fun j => decide (j < r.crewN) && r.role j == 3 else decide (r.field 292 16 ≠ 0)) then 0x05
  else if r.samp ∧ (r.isG ∨ r.count ≠ 1) then 0x06
  else if 5 < r.die then 0x07
  else if r.field 344 6 ≠ 0 ∧ (r.field 344 6 < 8 ∨ 32 < r.field 344 6) then 0x08
  else if r.dmin < 1 ∨ r.dmax < r.dmin ∨ 6 < r.dmax then 0x09
  else if r.field 335 1 ≠ 0 ∨ r.field 342 2 ≠ 0 ∨ r.field 350 2 ≠ 0 then 0x0A
  else if (if r.isG then Config.localG else Config.localS) < r.crewBytes (min r.crewN r.count) event then 0x0B
  else 0

/-- A context by its id. -/
def State.ctx (s : State) (id : Nat) : Option Ctx := s.pkg.contexts.find? fun c => c.id == id

/-- Changes a context. -/
def State.mapCtx (s : State) (id : Nat) (f : Ctx → Ctx) : State :=
  { s with pkg := { s.pkg with contexts := s.pkg.contexts.map fun c => if c.id = id then f c else c } }

/-- Where a record that reports on a crew goes (15 R315): its queue, or the host's event list. -/
def State.crewDest (s : State) (crew fn : Nat) : RecDest :=
  match (s.crew crew).bind (·.evq) with
  | some pa => .queue pa crew
  | none => .host fn

/-- Where a record on a task goes: the launching crew's queue, or the host's event list. -/
def State.launcherDest (s : State) (t : Task) : RecDest :=
  match t.launcher with
  | some c => s.crewDest c t.fn
  | none => .host t.fn

/-- The function that owns a group's task. -/
def State.fnOf (s : State) (task : Nat) : Nat := ((s.task task).map (·.fn)).getD 0

/-- Where a record of the issuing group's operation goes: the queue its sr.evq names (15 R315). -/
def State.evqDest (s : State) (g : Group) : RecDest :=
  match (if g.sp.evq.tag = .cap then meshPA g.sp.mwb (capCursor g.sp.evq.bits).toNat else none) with
  | some pa => .queue pa g.sp.crew
  | none => .host (s.fnOf g.sp.task)

/-- The partition that a quad lies in, if firmware configured one. -/
def State.partition (s : State) (quad : Nat) : Option Partition := s.pkg.firmware.parts.find? fun p => p.quads.contains quad

/-! ### Barriers (09 R203 to R205) -/

/-- The instance of a scope code that a core lies in (07 R142). -/
def scopeInst (scope core : Nat) : Nat :=
  match scope with
  | 0 => core
  | 1 => quadOf core
  | 2 => dieOf core
  | _ => 0

/-- The groups of a task within a barrier's scope instance: its members, part by part. DESIGN CHOICE: the spec does not say whether the
crews of a task's initial share that still walk or are queued are members; only those placed are (log 88). -/
def State.members (s : State) (k : BarKey) : List Group :=
  s.all.filter fun g => g.sp.task == k.task && scopeInst k.scope g.core == k.inst && g.switchStep == 0

/-- A barrier's state; one nobody has reached yet is at generation 0. -/
def State.barrier (s : State) (k : BarKey) : Barrier :=
  (s.barriers.find? fun b => b.key == k).getD ⟨k, 0, [], [], 0, [], false⟩

/-- Sets a barrier's state. -/
def State.setBarrier (s : State) (b : Barrier) : State :=
  { s with barriers := b :: s.barriers.filter fun x => x.key != b.key }

/-- A record for the Lamp port of a die, dropped and counted when its buffer of 256 is full (26 R496, R497). -/
def State.lampPut (s : State) (die kind : Nat) (bits : Quad) : State :=
  let l := s.pkg.lamp
  if !(l.ctl.getLsbD die && l.ctl.getLsbD (8 + kind)) then s
  else
    let b := (l.bufs.find? fun b => b.die == die).getD ⟨die, [], 0, 0⟩
    let full := decide (256 ≤ b.recs.length)
    let b' := if full then { b with lost := b.lost + 1 } else { b with recs := b.recs ++ [bits] }
    let s1 : State := { s with pkg := { s.pkg with lamp := { l with bufs := b' :: l.bufs.filter fun x => x.die != die } } }
    if full then s1.mapFn 0 fun f => { f with vectors := f.vectors ||| 4 } else s1

/-- The slices of a group as a barrier counts them. -/
def Group.parts (g : Group) : List (Nat × Nat) := g.slices.map fun sl => (g.gang, sl.idx)

/-- The maxima of the upper and of the lower halves (09 R205; 02 R55). -/
def maxHalves (a b : Word) : Word :=
  (if (a.extractLsb' 32 32).toNat < (b.extractLsb' 32 32).toNat then b.extractLsb' 32 32 else a.extractLsb' 32 32) ++
    (if (a.extractLsb' 0 32).toNat < (b.extractLsb' 0 32).toNat then b.extractLsb' 0 32 else a.extractLsb' 0 32)

/-- Whether a die that a change of membership added has members of a barrier still to place: they joined in the clk of the change, with
no outstanding arrival (09 R203; 22 R442). -/
def State.joining (s : State) (k : BarKey) : Bool :=
  let on (w : Placing) : Bool :=
    match w with
    | .share t d => t == k.task && (s.task t).any (fun t => t.added.getLsbD d) && (decide (2 < k.scope) || (k.scope == 2 && k.inst == d))
    | _ => false
  (s.tenders.any fun t => on t.who) || s.queues.any fun q => on q.who

/-- The other packages in a task's multi-package launch (22 R444). -/
def State.peers (s : State) (t : Task) : List Nat := (upFrom 0 256).filter fun n => n != s.pkg.pod.toNat && t.pkgs.getLsbD n

/-- OPF of a barrier flit (22 R429 KIND 10; log 87): the launch by GROUP and slot time, the barrier, the generation in which all
members of the sending package have arrived, and their contribution; or that the sending package has no members any more. -/
def barOpf (group slot : Nat) (k : BarKey) (gen : Nat) (v : Word) (gone : Bool) : Nat :=
  group % 2 ^ 16 + slot % 2 ^ 64 * 2 ^ 16 + k.id % 16 * 2 ^ 80 + k.top.toNat * 2 ^ 84 + gone.toNat * 2 ^ 85 +
    gen % 2 ^ 32 * 2 ^ 86 + v.toNat * 2 ^ 118

/-- The slot time of a task that a Light List entry launched. -/
def Task.slot (t : Task) : Nat := (t.light.map (·.2)).getD 0

/-- A barrier flit to the other packages of a task's launch. -/
def State.tellPeers (s : State) (t : Task) (k : BarKey) (gen : Nat) (v : Word) (gone : Bool) : State :=
  (s.peers t).foldl (fun s n => s.sendFlit 10 (BitVec.ofNat 8 n) 0 0 0 0 (barOpf t.group t.slot k gen v gone) []) s

/-- A contribution joined to the values that a barrier has. -/
def Barrier.combined (b : Barrier) : Word := b.values.foldl (fun w p => maxHalves w p.2) 0

/-- A barrier releases when every current member has arrived (09 R203): the generation advances. At pod scope the packages of a
multi-package launch tell each other when their members have arrived, and until GO says which packages those are it does not
release (22 R444; log 87). -/
def State.release (s : State) (b : Barrier) : State :=
  let ms := s.members b.key
  let pod := if b.key.scope = 4 then s.task b.key.task else none
  if b.arrived.isEmpty || !(ms.all fun g => g.parts.all fun p => b.arrived.contains p) || s.joining b.key || pod.any (·.await) then
    s.setBarrier b
  else
    let s0 := match pod with
      | some t => if b.told then s else s.tellPeers t b.key b.gen b.combined false
      | none => s
    let of_ (n : Nat) : Option Word := (b.away.find? fun q => q.1 == n && q.2.1 == b.gen % 2 ^ 32).map (·.2.2)
    let far := (match pod with | some t => s.peers t | none => []).map of_
    if far.any (·.isNone) then s0.setBarrier { b with told := true }
    else
    let s1 := s0.setBarrier
      { b with
        gen := b.gen + 1
        arrived := []
        values := []
        last := (far.filterMap id).foldl maxHalves b.combined
        away := b.away.filter fun q => q.2.1 != b.gen % 2 ^ 32
        told := false }
    let core := match ms with | g :: _ => g.core | [] => 0
    let id := b.key.scope * 16 + b.key.id + (if b.key.top then 16 else 0)
    s1.lampPut (dieOf core) 3
      (BitVec.ofNat 32 b.key.task ++ BitVec.ofNat 32 b.gen ++ BitVec.ofNat 32 s.clk ++ BitVec.ofNat 13 core ++ 0#7 ++
        BitVec.ofNat 8 id ++ 3#4 : BitVec 128)

/-- Every barrier of a task is looked at again, after a member has ended or the membership has changed
(09 R203; 22 R442). -/
def State.releaseAll (s : State) (task : Nat) : State :=
  (s.barriers.filter fun b => b.key.task == task).foldl (fun s b => s.release (s.barrier b.key)) s

/-- A group that ends leaves every barrier; its gang's contribution goes with its last part (09 R203, R205). -/
def State.leave (s : State) (h : Group) : State :=
  let last := !(s.all.any fun g => g.gid != h.gid && g.gang == h.gang)
  { s with barriers := s.barriers.map fun b => { b with
      arrived := b.arrived.filter fun p => !h.parts.contains p
      values := if last then b.values.filter fun p => p.1 != h.gang else b.values } }

/-! ### The end of lanes, groups, crews and tasks -/

/-- A caller of the Mooring is answered: its return is on its way (08 R180 to R182). -/
def State.returnTo (s : State) (c : CallerRef) (vals : List Val) (status cause : Nat) : State :=
  { s with returns := s.returns ++ [⟨c.gid, c.lane, vals, status, cause⟩] }

/-- The callers of ended lanes are answered with STATUS 0x01 (08 R182). -/
def State.answerLanes (s : State) (crew : Nat) (lanes : List Nat) (vals : List (Nat × List Val)) : State :=
  match s.crew crew with
  | none => s
  | some c =>
    let due := c.callers.filter fun r => lanes.contains r.lane
    let s1 := due.foldl (fun s r =>
      match vals.lookup r.lane with
      | some v => s.returnTo r v 0 0
      | none => s.returnTo r [] 1 0) s
    s1.mapCrew crew fun c => { c with callers := c.callers.filter fun r => !lanes.contains r.lane }

/-- A core has freed contexts, slices or local memory: its quad is to offer its queued records (15 R319). -/
def State.freeQuad (s : State) (core : Nat) : State :=
  { s with queues := s.queues.map fun q => if q.quad = quadOf core then { q with freed := true } else q }

/-- Journal entries are free again. -/
def State.freeEntries (s : State) (core : Nat) (ns : List Nat) : State :=
  s.mapCore core fun c => { c with journal := ns.foldl (fun j n => j.setIfInBounds n none) c.journal }

/-- A refusal reported in place of a trap: of an ended group, or a ninth held one (18 R375). -/
def State.reportRefusal (s : State) (core n : Nat) (e : JEntry) (dest : RecDest) : State :=
  (s.freeEntries core [n]).emit (.network core) dest (recordBits 7 3 0 (core % 4) e.addr)

/-- The refused entries of groups that end are freed; one whose trap has not been taken is reported as a refusal that reaches an
ended group is (18 R374, R375; 19 R400). DESIGN CHOICE: the spec says so of refusals that arrive later and not of those held (log
86). -/
def State.dropRefusals (s : State) (core : Nat) (mine : JEntry → Bool) (dest : JEntry → RecDest) : State :=
  (s.core core).journal.toList.zipIdx.foldl (fun s p =>
    match p.1 with
    | some e =>
      if !(mine e && e.st.getLsbD 1) then s
      else if e.taken then s.freeEntries core [p.2]
      else s.reportRefusal core p.2 e (dest e)
    | none => s) s

/-- Removes a group from everything that names it. -/
def State.dropGroup (s0 : State) (gid : Nat) : State :=
  let s := match s0.group gid with
    | some h =>
      let last := !(s0.all.any fun g => g.gid != gid && g.sp.crew == h.sp.crew)
      s0.dropRefusals h.core (fun e => e.gid == gid) fun e => if last then .host (s0.fnOf e.task) else s0.crewDest e.crew (s0.fnOf e.task)
    | none => s0
  let sem (x : Sem) : Sem := { x with sleepers := x.sleepers.filter (· != gid) }
  let s1 : State :=
    { s with
      g := if s.g.gid = gid then Group.reset else s.g
      groups := s.groups.filter fun g => g.gid != gid
      fes := s.fes.filter fun w => w.gid != gid
      armed := s.armed.filter fun w => w.gid != gid
      recvs := match s.group gid with
        | some h => s.recvs.filter fun r => r.gang != h.gang || !(h.lanes.any fun l => l.no == r.lane)
        | none => s.recvs
      stalls := s.stalls.filter fun p => p.2 != gid
      scq := s.scq.filter fun o => o.req.gid != gid || o.req.op.writes
      sys := s.sys.filter fun e => e.gid != gid
      btops := s.btops.filter fun o => o.gid != gid || o.commit
      misses := s.misses.filter fun m => m.1 != gid
      cores := s.cores.map fun c => { c with sems := c.sems.map sem } }
  match s.group gid with
  | some h => (s1.leave h).freeQuad h.core
  | none => s1

/-- The context's pool takes back a crew's area (07 R148, R149). -/
def State.freeArea (s : State) (c : Crew) : State :=
  (s.mapCtx c.ctx fun x => { x with areas := x.areas.filter fun a => a.1 != c.area }).freeQuad c.core

/-- An update of the batching table that a crew staged is discarded, unless its COMMIT is on its way (23 R452). -/
def State.discardStaged (s : State) (crew : Nat) : State :=
  { s with replicas := s.replicas.map fun r =>
      match r.issuer with
      | some (_, c) => if c = crew ∧ r.order.isNone then { r with order := some false } else r
      | none => r }

/-- Whether nothing of a task is left: no crew, no walk, no queue entry (07 R149). -/
def State.taskOver (s : State) (id : Nat) : Bool :=
  let mine : Placing → Bool := fun p => match p with | .share t _ => t == id | _ => false
  !(s.crews.any fun c => c.task == id && c.pins.isEmpty && c.callers.isEmpty) &&
    !(s.tenders.any fun t => mine t.who) && !(s.queues.any fun q => mine q.who)

/-- A field of an entry's image, by its lowest bit and width (22 R435). -/
def Light.field (l : Light) (lo w : Nat) : Nat := l.image.toNat / 2 ^ lo % 2 ^ w

/-- An entry with a field of its image set. -/
def Light.setField (l : Light) (lo w v : Nat) : Light :=
  { l with image := BitVec.ofNat 1280 (l.image.toNat - l.field lo w * 2 ^ lo + v % 2 ^ w * 2 ^ lo) }

/-- OUT. -/
def Light.out (l : Light) : Nat := l.field 864 8
/-- SKIPPED. -/
def Light.skipped (l : Light) : Nat := l.field 800 32
/-- LAUNCHED. -/
def Light.launched (l : Light) : Nat := l.field 768 32
/-- NEXT. -/
def Light.next (l : Light) : Nat := l.field 704 64
/-- EN. -/
def Light.armed (l : Light) : Bool := l.field 703 1 == 1
/-- RULE. -/
def Light.rule (l : Light) : Nat := l.field 701 2
/-- DMIN of the entry. -/
def Light.dmin (l : Light) : Nat := l.field 698 3
/-- DMAX of the entry. -/
def Light.dmax (l : Light) : Nat := l.field 695 3
/-- COORD. -/
def Light.coord (l : Light) : Nat := l.field 687 8
/-- NPKG. -/
def Light.npkg (l : Light) : Nat := l.field 679 8
/-- PMIN. -/
def Light.pmin (l : Light) : Nat := l.field 671 8
/-- GROUP. -/
def Light.group (l : Light) : Nat := l.field 655 16
/-- PERIOD. -/
def Light.period (l : Light) : Nat := l.field 576 64
/-- FIRST. -/
def Light.first (l : Light) : Nat := l.field 512 64

/-- An entry with one outstanding instance fewer (22 R437). -/
def Light.ended (l : Light) : Light := l.setField 864 8 (l.out - 1)

/-- Changes a Light List entry. -/
def State.mapLight (s : State) (n : Nat) (f : Light → Light) : State :=
  { s with pkg := { s.pkg with lights := s.pkg.lights.map fun l => if l.no = n then f l else l } }

/-- The next slot of an entry, or none left for a single-slot entry (22 R436). -/
def Light.advance (l : Light) : Light := if l.period = 0 then l.setField 703 1 0 else l.setField 704 64 (l.next + l.period)

/-- A slot is skipped: counted, and recorded for the host (22 R437, R439). -/
def State.skipSlot (s : State) (l : Light) : State :=
  let n := (l.skipped + 1) % 2 ^ 32
  (s.mapLight l.no fun l => l.setField 800 32 n).emit .scheduler (.host (((s.ctx l.ctx).map (·.fn)).getD 0))
    (recordBits 6 0x0D 0 0 (BitVec.ofNat 64 (l.no % 512 + n * 2 ^ 32)))

/-- A Light List instance is no longer outstanding (22 R437). -/
def State.lightEnds (s : State) (t : Task) : State :=
  match t.light with
  | none => s
  | some (n, _) => s.mapLight n Light.ended

/-- A task has no members any more in this package: it leaves the pod-scope barriers of its launch (09 R203; 22 R444; log 87); before
GO it is not known which packages those are. -/
def State.leavePeers (s : State) (t : Task) : State := if t.await then s else s.tellPeers t ⟨t.id, 4, 0, false, 0⟩ 0 0 true

/-- A task that has ended: without successors to decrement it is gone, else its decrements wait for its stores
(07 R149; 15 R318; 16 R346; 22 R437). -/
def State.taskEnds (s : State) (id core : Nat) (drives : Bool) : State :=
  match s.task id with
  | none => s
  | some t =>
    if !s.taskOver id || t.done.isSome then s
    else
      let s1 := (s.lightEnds t).leavePeers t
      if drives && !t.killed && !t.aborted then s1.mapTask id fun t => { t with done := some core }
      else { s1 with tasks := s1.tasks.filter fun x => x.id != id || x.reply }

/-- Requests to the state-store units are discarded, their lines released (17 R364). -/
def State.dropTransfers (s : State) (mine : SsReq → Bool) : State :=
  let gone := s.stores.flatMap fun u => (u.reqs.filter mine).map (·.op)
  { s with
    owned := s.owned.filter fun p => !gone.contains p.2
    stores := s.stores.map fun u => { u with reqs := u.reqs.filter fun r => !mine r } }

/-- The pages a slot references. -/
def Slot.refs (sl : Slot) : List Nat := sl.frame ++ sl.ring.flatMap (·.2)

/-- The pages the state-store units hold are those some slot references (11 R228; 17 R347). -/
def State.settlePages (s : State) : State :=
  { s with pkg := { s.pkg with ssPages := (s.stores.flatMap fun u => u.slots.flatMap (·.refs)).eraseDups } }

/-- A 4 KiB page of shared memory written whole by a state-store unit, poisoned or not (17 R350, R359). -/
def Memory.putPage (m : Memory) (page v : Nat) (poison : Bool) : Memory :=
  (upFrom 0 64).foldl (fun m k => if poison then m.poisonLine (page * 4096 + k * 64) else m.heal (page * 4096 + k * 64)) (m.store (page * 4096) 4096 v)

/-- State-store slots of a killed or withdrawn task fall back to their newest Daymark, or to zeros (17 R364). -/
def State.rollSlots (s : State) (task : Nat) : State :=
  let mine := s.stores.flatMap fun u => u.slots.filter fun sl => sl.task == task
  let zero := (mine.filter fun sl => sl.ring.isEmpty).flatMap (·.frame)
  let back (sl : Slot) : Slot := if sl.task = task then { sl with frame := ((sl.ring.getLast?).map (·.2)).getD sl.frame } else sl
  State.settlePages
    { s with
      stores := s.stores.map fun u => { u with slots := u.slots.map back }
      mem := zero.foldl (fun m p => m.putPage p 0 false) s.mem }

/-- A crew withdrawn without its saved state: its queued transfers are discarded, and its task's slots fall back (17 R364). -/
def State.rollCrew (s : State) (c : Crew) : State := (s.dropTransfers fun r => r.crew == c.id).rollSlots c.task

/-- A crew that has lost its last member ends (07 R149): its memory is freed without clearing. -/
def State.crewEnds (s : State) (crew : Nat) (drives : Bool) : State :=
  match s.crew crew with
  | none => s
  | some c =>
    if s.all.any fun g => g.sp.crew == crew then s
    else
      let s1 := ((if c.withdrawn then s.rollCrew c else s).freeArea c).discardStaged crew
      let s2 : State := { s1 with
        queues := s1.queues.filter fun q => q.who != .crew crew
        crews := s1.crews.filter fun x => x.id != crew
        cores := s1.cores.map fun k => { k with redirects := k.redirects.filter fun r => r.crew != crew } }
      s2.taskEnds c.task c.core drives

/-- A group that has no lane left ends, and with the last its crew (07 R149). -/
def State.groupEnds (s : State) (gid crew task : Nat) : State :=
  ((s.dropGroup gid).releaseAll task).crewEnds crew true

/-- The innermost entry of a slice, if it is a PENDING one. -/
def Slice.pending (sl : Slice) : Option StackEntry :=
  match sl.stack with
  | e :: _ => if e.isJoin then none else some e
  | [] => none

/-- A slice whose innermost entry is popped: sr.fmt takes the entry's FMT (07 R161). -/
def Slice.pop (sl : Slice) : Slice :=
  match sl.stack with
  | e :: t => { sl with stack := t, fmt := (sl.fmt &&& ~~~(63#64)) ||| e.fmt.setWidth 64 }
  | [] => sl

/-- The next waiting path of a group with no active lane (07 R161): the lanes of the PENDING entries innermost in its slices, of
those that wait at one place, that have not ended, or the wait at the join point of the innermost region. -/
def Group.nextPath (g : Group) : Nat → Group
  | 0 => g
  | n + 1 =>
    match g.slices.findSome? Slice.pending with
    | none =>
      match g.slices.head?.bind (·.stack.head?) with
      | some e => { g with pc := e.pc, codeCap := e.code }
      | none => g
    | some e =>
      let path (sl : Slice) : Option StackEntry := match sl.pending with | some x => if x.pc = e.pc ∧ x.code = e.code then some x else none | none => none
      let on (l : Lane) : Bool := l.live && match (g.sliceOf l.no).bind path with | some x => x.lmask.getLsbD (l.no % 4) | none => false
      let g1 := { g with
        lanes := g.lanes.map fun l => { l with active := on l }
        pc := e.pc
        codeCap := e.code
        slices := g.slices.map fun sl => if (path sl).isSome then sl.pop else sl }
      if g1.lanes.any (·.active) then g1 else g1.nextPath n

/-- Lanes of the issuing group end (05 R122, R123; 07 R149, R161): they leave every mask, their callers are
answered, slices without lanes end, and the group ends or goes on with another path. -/
def State.endLanes (s : State) (ns : List Nat) (vals : List (Nat × List Val)) : State :=
  let s0 := s.answerLanes s.g.sp.crew ns vals
  let lanes := s0.g.lanes.map fun l => if ns.contains l.no then { l with live := false, active := false } else l
  let slices := s0.g.slices.filter fun sl => lanes.any fun l => l.live && l.no / 4 == sl.idx
  let g1 := { s0.g with
    slices := slices
    lanes := lanes.filter fun l => slices.any fun sl => sl.idx == l.no / 4 }
  if slices.isEmpty then s0.groupEnds g1.gid g1.sp.crew g1.sp.task
  else
    let s1 := (({ s0 with g := g1 } : State).freeQuad g1.core).releaseAll g1.sp.task
    if g1.lanes.any (·.active) then s1 else { s1 with g := s1.g.nextPath 2048 }

/-- Zeros in a crew's allocation and spill regions before another crew (14 R302; 19 R400). -/
def State.zeroCrew (s : State) (c : Crew) : State :=
  { s with mem := s.mem.store (localPA c.core c.lo) c.total 0 }

/-- An array that nothing has changed since reset. -/
def MArray.fresh (core : Nat) : MArray :=
  { core := core, tiles := [], poison := 0, blocks := Vector.replicate 4 0, order := [], held := [], seq := 0, untested := 0,
    fenced := 0, testing := false }

/-- A core's array. -/
def State.array (s : State) (core : Nat) : MArray := (s.arrays.find? fun a => a.core == core).getD (MArray.fresh core)

/-- Changes a core's array. -/
def State.mapArray (s : State) (core : Nat) (f : MArray → MArray) : State :=
  if s.arrays.any (fun a => a.core == core) then { s with arrays := s.arrays.map fun a => if a.core = core then f a else a }
  else { s with arrays := f (MArray.fresh core) :: s.arrays }

/-- The tiles of a killed matrix crew, unless it is saved, are zeroed and its array operations and held records dropped (14 R298,
R302). A paired operation that was running leaves the follower's tile unspecified (14 R303). -/
def State.killArrays (s : State) (crew : Nat) (core : Nat) (matrix : Bool) : State :=
  let pairs := s.arrays.flatMap fun a => (a.order.filter fun o => o.crew == crew && o.started && o.leader.isSome).map fun o => (a.core, o.t)
  let scramble (a : MArray) : MArray :=
    if pairs.any fun p => p.1 == a.core then
      { a with tiles := (pairs.filter fun p => p.1 == a.core).foldl (fun m p =>
          (upFrom (p.2 * 1024) 1024).foldl (fun m e => mapSet e ((Config.freeWord (s.fresh + e)).toNat % 2 ^ 32) m) m) a.tiles }
    else a
  { s with
    fresh := if pairs.isEmpty then s.fresh else s.fresh + 16384
    arrays := s.arrays.map fun a =>
      let a1 := scramble { a with order := a.order.filter fun o => o.crew != crew, held := a.held.filter fun r => r.crew != crew }
      if a.core = core ∧ matrix then { a1 with tiles := [], poison := 0 } else a1 }

/-- Engine operations of a crew's groups are discarded (19 R400): their owned lines are released unwritten and
their records dropped. -/
def State.killEngines (s : State) (c : Crew) : State :=
  let gone := (s.copies.filter fun o => o.crew == c.id).map (·.id) ++
    (s.arrays.flatMap fun a => (a.order.filter fun o => o.crew == c.id).map (·.id)) ++
    (s.colls.flatMap fun k => (k.parts.filter fun p => p.crew == c.id).map (·.op)) ++
    (s.stores.flatMap fun u => (u.reqs.filter fun r => r.crew == c.id).map (·.op))
  let held := (s.array c.core).order.filterMap fun o => if o.crew = c.id then o.entry else none
  let s1 := (s.freeEntries c.core held).killArrays c.id c.core (c.matrix && !c.saved)
  { s1 with
    copies := s1.copies.filter fun o => o.crew != c.id
    owned := s1.owned.filter fun p => !gone.contains p.2
    colls := s1.colls.map fun k => { k with
      parts := k.parts.filter fun p => p.crew != c.id
      lost := k.lost + (k.parts.filter fun p => p.crew == c.id).length }
    stores := s1.stores.map fun u => { u with reqs := u.reqs.filter fun r => r.crew != c.id }
    punits := s1.punits.map fun p =>
      match p.arm with
      | some a => if a.crew = c.id then { p with arm := none, due := [], run := none } else p
      | none => p
    records := s1.records.filter fun r => r.crew != c.id && (match r.dest with | .queue _ n => n != c.id | .host _ => true) }

/-- A crew is killed (19 R400 steps 1 to 5): every group ends at once, its engine operations are discarded, the
callers of a gang resume with STATUS 0x02, and its memory is zeroed. -/
def State.killOne (s : State) (crew cause : Nat) (drives : Bool) : State :=
  match s.crew crew with
  | none => s
  | some c =>
    let gids := (s.all.filter fun g => g.sp.crew == crew).map (·.gid)
    let s0 := s.dropRefusals c.core (fun e => e.crew == crew) fun e => .host (s.fnOf e.task)
    let s1 := c.callers.foldl (fun s r => s.returnTo r [] 2 cause) s0
    let s2 := (s1.killEngines c).rollSlots c.task
    let s3 := gids.foldl (fun s n => s.dropGroup n) s2
    let s4 := if c.saved then s3 else s3.zeroCrew c
    (s4.releaseAll c.task).crewEnds crew drives

/-- The kill of every crew of a task (14 R302): the task's Mooring entries and queued records are withdrawn. -/
def State.killTask (s : State) (task cause : Nat) : State :=
  let s0 := s.mapTask task fun t => { t with killed := true }
  let withdrawn := s0.moor.filter fun e => e.task == task && e.state != .loading
  let s1 := withdrawn.foldl (fun s e =>
    (e.callers.zipIdx).foldl (fun s p =>
      if p.1.task = task then s else s.returnTo ⟨p.2, p.1.gid, p.1.core, p.1.ctx⟩ [] 2 cause) s) s0
  let dead (p : Placing) : Bool :=
    match p with
    | .share t _ => t == task
    | .gang q e => withdrawn.any fun m => m.quad == q && m.idx == e
    | .crew id => s1.crews.any fun c => c.id == id && c.task == task
  let s2 : State := { s1 with
    moor := s1.moor.filter fun e => !(e.task == task && e.state != .loading)
    tenders := s1.tenders.filter fun t => !dead t.who
    queues := s1.queues.filter fun q => !dead q.who }
  (s2.crews.filter fun c => c.task == task).foldl (fun s c => s.killOne c.id cause false) s2

/-- The cause record of a kill (18 R367; 19 R400): ENGINE 0x06, COUNT the cause and the crew. -/
def killRecord (status cause crew core : Nat) : Quad :=
  recordBits 6 status 0 (core % 256) (BitVec.ofNat 64 (cause % 256 + crew % 2 ^ 32 * 2 ^ 32))

/-- Whether a group of a crew holds cause 0x1C at level T (14 R302). -/
def State.holdsOperandFault (s : State) (crew : Nat) : Bool :=
  s.all.any fun g => g.sp.crew == crew && g.priv == 1 && g.sp.cause == 0x1C

/-- A share of a task on a die at the start of its walk, from the quad of that die in the place of the source quad (15 R321). -/
def shareWalk (r : TaskRec) (id src die : Nat) : Tender :=
  { who := .share id die, die := die, qx := src % 16, qy := src / 16 % 16, bx := r.qx, by_ := r.qy, radius := r.radius, left := r.count,
    next := 0, stage := .start }

/-- The distance of two dies: columns and rows (22 R426, R440). -/
def dieDist (a b : Nat) : Nat :=
  let d (x y : Nat) : Nat := (x - y) + (y - x)
  d (a % 3) (b % 3) + d (a / 3) (b / 3)

/-- The dies a launch asks for: the bearing die, then the others in service by rising distance (22 R440). -/
def State.diesFor (s : State) (bearing dmax : Nat) : List Nat :=
  let others := (upFrom 0 4).flatMap fun r => (upFrom 0 6).filter fun d => d != bearing && dieDist d bearing == r && !s.pkg.deadDies.getLsbD d
  (bearing :: others).take dmax

/-- A set of dies as bits. -/
def dieBits (ds : List Nat) : BitVec 6 := ds.foldl (fun b d => b ||| BitVec.ofNat 6 (2 ^ d)) 0

/-- Whether a task that is killed is to be placed again (14 R302 step 5). -/
def Task.retries (t : Task) : Bool := decide (t.relaunches < t.record.retry)

/-- A task whose crews have been killed is placed again as at launch, or its failure is recorded (14 R302 steps 5, 6), by a record
with the number of the core in its quad and the sub-arrays fenced there (14 R297). -/
def State.relaunch (s : State) (old : Task) (core : Nat) : State :=
  if old.retries then
    let ds := s.diesFor old.record.die old.record.dmax
    { s with
      tasks := s.tasks.filter (fun t => t.id != old.id) ++
        [{ old with
          killed := false
          relaunches := old.relaunches + 1
          dies := dieBits ds
          epoch := 0
          asked := dieBits ds
          acked := 0
          refused := 0
          decided := false
          start := s.clk
          added := 0
          change := none
          done := none }]
      tenders := s.tenders ++ ds.map (shareWalk old.record old.id old.src) }
  else
    ({ s with tasks := s.tasks.filter fun t => t.id != old.id || t.reply }).emit .scheduler (s.launcherDest old)
      (recordBits 2 4 0 (core % 4) (BitVec.ofNat 64 old.id) ||| BitVec.ofNat 128 ((s.array core).fenced.toNat * 2 ^ 48))

/-- A crew is killed, by its handler or by the resident handler (18 R367; 19 R400): `status` is that of the
cause record. Where a group holds cause 0x1C the whole task is killed and may be placed again (14 R302). -/
def State.killCrew (s : State) (crew status cause recCause core : Nat) : State :=
  match s.crew crew with
  | none => s
  | some c =>
    let bits := killRecord status recCause crew core
    match s.task c.task with
    | none =>
      -- a gang of the Mooring outlives the task of its first caller
      (s.killOne crew cause false).emit .scheduler (.host (((s.ctx c.ctx).map (·.fn)).getD 0)) bits
    | some t =>
      if s.holdsOperandFault crew then
        -- an instance that is placed again stays outstanding (22 R437)
        let s0 := if t.retries then s.mapTask t.id fun t => { t with light := none, pkgs := 0 } else s
        let s1 := s0.killTask c.task cause
        (s1.emit .scheduler (s1.launcherDest t) bits).relaunch t c.core
      else
        let s1 := s.killOne crew cause false
        s1.emit .scheduler (s1.launcherDest t) bits

end Sys2Proof.Machine
end

