-- ==== Sys2Proof/Machine/Slots.lean ====
section
/-! DEFINITION. Registers as saved slots (03 R61, R62), the save areas of members (18 R381, R382, R386, R387), the
special registers (01 R24, R25; 19 R394, R395), and how waits are withdrawn and groups stopped (18 R378, R504;
19 R399). -/

namespace Sys2Proof.Machine

/-! ### Saved slots (03 R61, R62) -/

/-- The constants of a recorded step: two for `fma`, else one. -/
def FpStep.consts (st : FpStep) : List Word := if st.op = 3 then [st.c1, st.c2] else [st.c1]

/-- Constants of `w` bits packed from bit 0 upward. -/
def packConsts (w : Nat) : List Word → Nat
  | [] => 0
  | c :: t => c.toNat % 2 ^ w + 2 ^ w * packConsts w t

/-- The width of a step's format. -/
def stepWidth (fmt : BitVec 2) : Nat := (fpFmt fmt).width

/-- STEP1 or STEP2: operation and position. -/
def FpStep.code (st : FpStep) : Nat := st.op.toNat * 4 + st.pos.toNat

/-- The value and aux words and the info fields above TAG of a record's transformation: a pure record is the identity,
a = 1 and b = 0 (R62; log 14). -/
def SymForm.words : SymForm → Quad × Word × Nat
  | .pure => ((1#64 ++ 0#64 : BitVec 128), 0, 0)
  | .int a b => ((a ++ b : BitVec 128), 0, 64)
  | .cap b => (b.setWidth 128, 0, 4 + 64)
  | .fp fmt steps =>
    let n := packConsts (stepWidth fmt) (steps.flatMap FpStep.consts)
    let at_ (k : Nat) : Nat := match steps[k]? with | some st => st.code * 2 ^ (8 + 4 * k) + st.mode.toNat * 2 ^ (16 + 2 * k) | none => 0
    (BitVec.ofNat 128 n, BitVec.ofNat 64 (n / 2 ^ 128), 8 + fmt.toNat * 16 + steps.length * 64 + at_ 0 + at_ 1)

/-- A register as a slot: its value, aux and info words (R61, R62). -/
def Val.slot (v : Val) : Quad × Word × Word :=
  match v.tag with
  | .data => (v.bits, 0, 0)
  | .cap => (v.bits, 0, 1)
  | .absent => (v.bits, 0, 3)
  | .poison => (0, 0, BitVec.ofNat 64 (2 + 2 ^ 26))
  | .sym r =>
    let (q, aux, n) := r.form.words
    let b := match r.bound with | some t => 2 ^ 27 + t.toNat * 2 ^ 28 | none => 0
    (q, aux, BitVec.ofNat 64 (2 + n + r.id.toNat * 2 ^ 20 + b))

/-- The constants of a step read back, with the rest of the field. -/
def readStep (w code mode field : Nat) : FpStep × Nat :=
  let c (k : Nat) : Word := BitVec.ofNat 64 (field / 2 ^ (w * k) % 2 ^ w)
  let op := BitVec.ofNat 2 (code / 4)
  (⟨op, BitVec.ofNat 2 code, c 0, if op = 3 then c 1 else 0, BitVec.ofNat 2 mode, 0⟩, field / 2 ^ (if op = 3 then 2 * w else w))

/-- The transformation a slot holds. -/
def readForm (value : Quad) (aux : Word) (info : Nat) : SymForm :=
  let steps := info / 64 % 4
  match info / 4 % 4 with
  | 1 => .cap (value.extractLsb' 0 64)
  | 2 =>
    let fmt := BitVec.ofNat 2 (info / 16)
    let w := stepWidth fmt
    let (s1, f) := readStep w (info / 2 ^ 8 % 16) (info / 2 ^ 16 % 4) (value.toNat + aux.toNat * 2 ^ 128)
    let (s2, _) := readStep w (info / 2 ^ 12 % 16) (info / 2 ^ 18 % 4) f
    .fp fmt ([s1, s2].take steps)
  | _ => if steps = 0 then .pure else .int (value.extractLsb' 64 64) (value.extractLsb' 0 64)

/-- The register a slot gives (18 R386): CAP only if its granule's tag bit is set. -/
def slotVal (value : Quad) (aux info : Word) (granule : Bool) : Val :=
  let n := info.toNat
  if n % 4 = 1 ∧ granule = true then ⟨value, .cap⟩
  else if n % 4 ≠ 2 then ⟨value, .data⟩
  else if n / 2 ^ 26 % 2 = 1 then poisonVal
  else
    symVal ⟨BitVec.ofNat 6 (n / 2 ^ 20), if n / 2 ^ 27 % 2 = 1 then some (BitVec.ofNat 16 (n / 2 ^ 28)) else none, readForm value aux n⟩

/-! ### Save areas (18 R381, R382) -/

/-- The key of a page by its leaf: an LP-DDR-5X page with ENC has one (11 R231, R234). -/
def leafKey (pte : Word) : Option Nat := if pteBit pte 10 && !pteBit pte 2 then some (pte.extractLsb' 11 13).toNat else none

/-- The physical address of a virtual one outside the windows, by the tables of an ASID, with the page's key. -/
def State.vaPlace (s : State) (asid va : Nat) : Option (Nat × Option Nat) :=
  match mapGet asid s.pkg.roots with
  | none => none
  | some root => (walkTable s.mem va 4 root).map fun p => (leafPA p.2 p.1 va, leafKey p.2)

/-- The physical address of a virtual one outside the windows. -/
def State.vaPA (s : State) (asid va : Nat) : Option Nat := (s.vaPlace asid va).map (·.1)

/-- A write by the resident handler or the hardware at a virtual address; `tag` sets the granule's tag bit. -/
def State.pokeVA (s : State) (asid va n v : Nat) (tag : Bool) : State :=
  match s.vaPlace asid va with
  | none => s
  | some (pa, key) =>
    let s1 := s.poke pa n v
    let m := s1.mem.underKey pa key
    { s1 with mem := if tag then m.setTag pa else m }

/-- A read at a virtual address. -/
def State.readVA (s : State) (asid va n : Nat) : Nat :=
  match s.vaPA asid va with
  | none => 0
  | some pa => s.mem.nat pa n

/-- Whether the granule at a virtual address holds a capability. -/
def State.tagVA (s : State) (asid va : Nat) : Bool :=
  match s.vaPA asid va with
  | none => false
  | some pa => s.mem.tagAt pa

/-- The address of a member's area: the cursor of its sr.save. -/
def Slice.area (sl : Slice) : Nat := (capCursor sl.save.bits).toNat

/-- Offsets from 0x740 upward lie 0x1500 higher in a slice's area (R382). -/
def areaOff (isG : Bool) (off : Nat) : Nat := if isG then off + 0x1500 else off

/-- The offset of the slot of a register of a lane, 64 more than the register for the handler bank (R382). -/
def slotOff (isG : Bool) (lane reg : Nat) : Nat :=
  if 64 ≤ reg then areaOff isG 0x740 + 32 * (reg - 64 - 52) else 0x40 + 1792 * (if isG then lane % 4 else 0) + 32 * reg

/-- Writes a slot. -/
def State.putSlot (s : State) (asid va : Nat) (v : Val) : State :=
  let (q, aux, info) := v.slot
  ((s.pokeVA asid va 16 q.toNat (v.tag == .cap)).pokeVA asid (va + 16) 8 aux.toNat false).pokeVA asid (va + 24) 8 info.toNat false

/-- Reads a slot; one whose line is poisoned gives a poisoned register (R386). -/
def State.getSlot (s : State) (asid va : Nat) : Val :=
  match s.vaPlace asid va with
  | none => poisonVal
  | some (pa, key) =>
    if s.mem.lineBad pa key then poisonVal
    else slotVal (BitVec.ofNat 128 (s.mem.nat pa 16)) (BitVec.ofNat 64 (s.mem.nat (pa + 16) 8)) (BitVec.ofNat 64 (s.mem.nat (pa + 24) 8)) (s.mem.tagAt pa)

/-- A group whose state lies in the save area. -/
def Group.inArea (g : Group) : Bool := match g.run with | .saved _ => true | _ => false

/-- The slice, and the address of a slot, of a lane's register. -/
def Group.slotVA (g : Group) (lane reg : Nat) : Option Nat := (g.sliceOf lane).map fun sl => sl.area + slotOff g.isG lane reg

/-- A word written at an offset of the areas of every slice of a group. -/
def State.pokeAreas (s : State) (g : Group) (off n v : Nat) : State :=
  g.slices.foldl (fun s sl => s.pokeVA g.sp.asid.toNat (sl.area + areaOff g.isG off) n v false) s

/-- A saved header with PARKED cleared (R387). -/
def State.unpark (s : State) (g : Group) : State :=
  g.slices.foldl (fun s sl =>
    let h := s.readVA g.sp.asid.toNat sl.area 8
    s.pokeVA g.sp.asid.toNat sl.area 8 (if h / 2 ^ 10 % 2 = 1 then h - 2 ^ 10 else h) false) s

/-! ### Special registers (01 R24, R25) -/

/-- Access to a special register at a level: 0 none, 1 read, 2 read and write. -/
def srAccess (n : Nat) (priv : BitVec 2) : Nat :=
  let p := priv.toNat
  let row (u t s : Nat) : Nat := if p = 0 then u else if p = 1 then t else s
  if n = 0 ∨ n = 17 ∨ n = 23 ∨ n = 24 ∨ n = 25 then row 1 2 2
  else if n ≤ 5 then row 0 2 2
  else if n ≤ 7 ∨ n = 15 ∨ n = 16 then 2
  else if n ≤ 11 ∨ n = 19 ∨ n = 35 then 1
  else if n ≤ 14 ∨ n = 18 ∨ n = 20 then row 1 1 2
  else if n ≤ 22 ∨ n = 34 then row 0 1 2
  else row 0 2 2

/-- The registers marked C. -/
def srCap (n : Nat) : Bool := n == 3 || n == 21 || n == 22 || n == 24 || n == 25

/-- Nanoseconds of the local oscillator at a clk: 940 clk are 1,000 ns. -/
def clkNanos (clk : Nat) : Int := (clk * 50 / 47 : Nat)

/-- The time base in nanoseconds (22 R432): the local oscillator, the distance from it, and what the base has slewed at its rate since
the reference was last heard. -/
def State.nanos (s : State) : Int :=
  let t := s.pkg.time
  clkNanos s.clk + t.ns + t.rate * (clkNanos s.clk - clkNanos t.heard) / 10 ^ 9

/-- sr.task (22 R440). -/
def State.taskWord (s : State) (g : Group) : Word :=
  match s.task g.sp.task with
  | some t => (0#16 ++ BitVec.ofNat 8 t.epoch ++ 0#2 ++ t.dies ++ BitVec.ofNat 32 g.sp.task : BitVec 64)
  | none => BitVec.ofNat 64 (g.sp.task % 2 ^ 32)

/-- sr.jhead (18 R376): NEXT, and the outstanding entries and held refusals of a group. -/
def State.jhead (s : State) (g : Group) : Word :=
  let es := (s.core g.core).journal.toList.filterMap id
  let count (st : BitVec 2) : Nat := (es.filter fun e => e.gid == g.gid && e.st == st).length
  BitVec.ofNat 64 (count 3 * 2 ^ 16 + count 1 * 2 ^ 8 + (s.core g.core).next)

/-- A special register of a group, for a lane of it (01 R24; 19 R394). -/
def State.special (s : State) (g : Group) (lane n : Nat) : Val :=
  let w (f : Slice → Word) : Val := dataWord (((g.sliceOf lane).map f).getD 0)
  match n with
  | 0 => dataWord g.sp.status
  | 1 => dataWord g.sp.cause
  | 2 => dataWord g.sp.tval
  | 3 => g.sp.epc
  | 4 => dataWord g.sp.lrun
  | 5 => dataWord g.sp.done
  | 6 => w (·.fmode)
  | 7 => w (·.fmt)
  | 8 => dataNat g.core
  | 9 => dataNat (((g.sliceOf lane).map (·.num)).getD 0)
  | 10 => dataNat g.sp.crew
  | 11 => dataWord (s.taskWord g)
  | 12 => dataWord g.sp.asid
  | 13 => dataWord g.sp.mwb
  | 14 => dataWord g.sp.swb
  | 15 => dataWord g.sp.mtime
  | 16 => dataWord g.sp.felim
  | 17 => dataWord g.sp.gstat
  | 18 => dataWord (intWord s.nanos)
  | 19 => dataNat s.clk
  | 20 => dataWord (s.jhead g)
  | 21 => g.sp.tvec
  | 22 => ((g.sliceOf lane).map (·.save)).getD Val.zero
  | 23 => dataNat (((s.crew g.sp.crew).map (·.seen)).getD 0)
  | 24 => g.sp.spill
  | 25 => g.sp.evq
  | 34 => w (·.psamp)
  | 35 => dataNat g.mask.toNat
  | _ => if n < 30 then w (fun sl => sl.bp.toList.getD (n - 26) 0) else w (fun sl => sl.wp.toList.getD (n - 30) 0)

/-- The special registers held once per slice. -/
def srPerSlice (n : Nat) : Bool := n == 6 || n == 7 || n == 22 || (decide (26 ≤ n) && decide (n ≤ 34))

/-- The rule of a register for a value written at a level, after access and tag (19 R395): cause 0x01, or 0x38 with its number. -/
def srRuleAt (level : BitVec 2) (n : Nat) (old v : Word) : Option Nat :=
  let bad :=
    match n with
    | 0 => statusReserved v
    | 5 => doneReserved v
    | 6 => fmodeReserved v
    | 7 => fmtReserved v
    | 12 => v.extractLsb' 16 48 != 0
    | 13 => mwbReserved v
    | 14 => swbReserved v
    | 17 => v.extractLsb' 21 43 != 0 || decide (2 < (v.extractLsb' 0 8).toNat)
    | 34 => psampReserved v
    | _ => if 26 ≤ n ∧ n < 30 then bpReserved v else if 30 ≤ n ∧ n < 34 then wpReserved v else false
  if bad then some 0x01 else if n = 0 ∧ statusForbidden level old v = true then some 0x38 else none

/-- The rule for a value that a group writes at its own level, in `sr.status` as it stands. -/
def srRule (n : Nat) (old v : Word) : Option Nat := srRuleAt (statusPriv old) n old v

/-- The checks of a write after access (19 R395): `code` is the register the value comes from, `enc` the trap value of
an encoding trap, `level` that of the writer. -/
def State.srCheck (s : State) (level : BitVec 2) (g : Group) (n : Nat) (v : Val) (code : BitVec 6) (enc : Word) : Option Trap :=
  if srCap n then (if v.tag = .cap then none else some (trapReg 0x03 code))
  else
    (srRuleAt level n g.sp.status v.word).map fun c => if c = 0x01 then trap 0x01 enc else trap c (BitVec.ofNat 64 n)

/-- The slots of an entry before a time are passed over: `n` of them at most (22 R438). -/
def State.passSlots (s : State) (no : Nat) (t : Int) : Nat → State
  | 0 => s
  | n + 1 =>
    match s.pkg.lights.find? fun l => l.no == no with
    | some l => if l.armed && decide ((l.next : Int) < t) then State.passSlots ((s.skipSlot l).mapLight no Light.advance) no t n else s
    | none => s

/-- A step of the time base (22 R432, R438): it raises a system event to the resident handler of die 0, and one forward takes
the slots it passes over as skipped. -/
def State.stepTime (s : State) (offset : Int) : State :=
  let s1 : State :=
    { s with
      pkg := { s.pkg with time := { s.pkg.time with ns := s.pkg.time.ns + offset } }
      sys := s.sys ++ [⟨0, 0, 0, 0, 0, 0⟩] }
  let t := s1.nanos
  let count (l : Light) : Nat := if l.period = 0 then 1 else (t - l.next).toNat / l.period + 1
  if offset ≤ 0 then s1 else s.pkg.lights.foldl (fun s l => s.passSlots l.no t (count l)) s1

/-- The time base steps to a value written at level S (22 R432). -/
def State.setTime (s : State) (v : Word) : State := s.stepTime ((v.toNat : Int) - s.nanos)

/-- A word of a slice's special registers written. -/
def Slice.setWord (sl : Slice) (n clk : Nat) (w : Word) : Slice :=
  match n with
  | 6 => { sl with fmode := w }
  | 7 => { sl with fmt := w }
  | 34 => { sl with psamp := w, sampled := clk }
  | _ => if n < 30 then { sl with bp := sl.bp.setIfInBounds (n - 26) w } else { sl with wp := sl.wp.setIfInBounds (n - 30) w }

/-- A word of a group's special registers written; DONE is 0 on an S-core in every case (18 R372). -/
def Specials.setWord (sp : Specials) (n : Nat) (w : Word) : Specials :=
  match n with
  | 0 => { sp with status := w }
  | 1 => { sp with cause := w }
  | 2 => { sp with tval := w }
  | 4 => { sp with lrun := w }
  | 5 => { sp with done := if sp.status.getLsbD 8 then w else w &&& ~~~(0xFFFFFFFF#64) }
  | 12 => { sp with asid := w }
  | 13 => { sp with mwb := w }
  | 14 => { sp with swb := w }
  | 15 => { sp with mtime := w }
  | 16 => { sp with felim := w }
  | 17 => { sp with gstat := w }
  | _ => sp

/-- A capability register of a group written. -/
def Specials.setCap (sp : Specials) (n : Nat) (v : Val) : Specials :=
  match n with
  | 3 => { sp with epc := v }
  | 21 => { sp with tvec := v }
  | 24 => { sp with spill := v }
  | 25 => { sp with evq := v }
  | _ => sp

/-- A special register of a group written, for the slice of a lane where it is per slice (19 R395; 18 R376). -/
def State.setSpecial (s : State) (gid lane n : Nat) (v : Val) : State :=
  match s.group gid with
  | none => s
  | some g =>
    let w := v.word
    if n = 18 then s.setTime w
    else if n = 20 then
      s.mapCore g.core fun c => if c.journal.toList.all (·.isNone) then { c with next := w.toNat % 64 } else c
    else if n = 23 then s.mapCrew g.sp.crew fun c => { c with wdog := w.toNat }
    else if n = 22 then s.mapGroup gid fun g => g.mapSlice (lane / 4) fun sl => { sl with save := v }
    else if srPerSlice n then s.mapGroup gid fun g => g.mapSlice (lane / 4) fun sl => sl.setWord n s.clk w
    else if srCap n then s.mapGroup gid fun g => { g with sp := g.sp.setCap n v }
    else s.mapGroup gid fun g => { g with sp := g.sp.setWord n w }

/-- Whether an access of sr.fmode must wait (02 R43): for a long instruction, or for a symbolic register with pending
floating-point steps, as those that a run under way may restore are too (04 R88). -/
def Group.fpBusy (g : Group) : Option Wait :=
  let fp (v : Val) : Bool := match v.record with | some ⟨_, _, .fp _ _⟩ => true | _ => false
  if g.pend.any fun p => p.long then some .long
  else if g.holderLanes.any (fun l => l.k.toList.any fp || l.latch.any fp) ||
      g.slices.any (fun sl => (g.holderBanks sl.idx).any fun b => b.toList.any fp) then some .symbol
  else none

/-! ### Withdrawal and stops (18 R378, R504; 19 R399) -/

/-- A full/empty request. -/
def MemOp.isFe : MemOp → Bool
  | .fe _ _ _ _ => true
  | _ => false

/-- Whether a decrement of a group's `task.dec` is on its way (16 R345). -/
def State.decsOf (s : State) (gid : Nat) : Bool := s.decs.any fun d => d.gid == some gid

/-- The wait of a group at its instruction is withdrawn at its home (R504): nothing is performed, and lanes already
performed enter DONE. A `task.dec` that has not sent its decrement gives its journal entry back. -/
def State.withdraw (s : State) (gid : Nat) : State :=
  let s1 : State := { s with
    fes := s.fes.filter fun w => w.gid != gid
    armed := s.armed.filter fun w => w.gid != gid
    stalls := s.stalls.filter fun p => p.2 != gid
    net := s.net.filter fun r => !(r.gid == gid && r.op.isFe)
    cores := s.cores.map fun c => { c with
      sems := c.sems.map fun x => { x with sleepers := x.sleepers.filter (· != gid) }
      journal := c.journal.map fun e => e.filter fun e => !(e.gid == gid && e.opc == decOpc && e.st == 1 && !s.decsOf gid) } }
  s1.mapGroup gid fun h =>
    let fe := match h.run with | .waiting .fullEmpty _ => h.isG && h.sent | _ => false
    let ok : List Nat := h.answers.filterMap fun p => match p.2 with | .ok _ => some p.1 | .fail _ _ => none
    let left := h.acts.filter fun l => !ok.contains l.no && !h.sp.done.getLsbD l.no
    let done : Word := 0#27 ++ BitVec.ofNat 5 ((left.head?.map (·.no)).getD 0) ++
      (h.sp.done.extractLsb' 0 32 ||| ok.foldl (fun m n => m ||| BitVec.ofNat 32 (2 ^ n)) 0)
    { h with
      sent := false
      answers := []
      held := []
      sp := if fe && !ok.isEmpty then { h.sp with done := done } else h.sp }

/-- Whether a wait can be withdrawn (R378, R504): one whose instruction has nothing on its way but what R504 lists. -/
def Wait.withdrawable (w : Wait) (sent : Bool) : Bool :=
  match w with
  | .fullEmpty => true
  | .sem _ => true
  | .watch => true
  | .evq => true
  | .stalledCall => true
  | _ => !sent

/-- Whether the wait of a group can be withdrawn: an S-core's full/empty operation that its home has performed is not (R504), nor a
`task.dec` whose decrement is on its way (16 R345). -/
def State.canWithdraw (s : State) (g : Group) (w : Wait) : Bool :=
  (w.withdrawable g.sent || (w == .fence && !s.decsOf g.gid)) && (g.isG || w != .fullEmpty || g.answers.isEmpty)

/-- A block: on a symbol, or on a BOUND register. -/
def Wait.isBlock (w : Wait) : Bool := w == .symbol || w == .recv

/-- A fence: of memory accesses, or of engine operations. -/
def Wait.isFence : Wait → Bool
  | .fence => true
  | .engines _ => true
  | _ => false

/-- Whether a group can stop now (R378), with IE = 1 (01 R27): at a boundary outside a latch run at which it owes no step trap (R26,
R34), parked, in a wait that can be withdrawn, or in a run blocked on a symbol. -/
noncomputable def State.canStop (s : State) (g : Group) : Bool :=
  statusIE g.sp.status &&
    match g.run with
    | .parked => true
    | .ready => !s.midRun g && g.stepDue.isNone
    | .waiting w _ => s.canWithdraw g w && (w.isBlock || !s.midRun g)
    | _ => false

/-- Whether the instruction at a group's pc reads a register that waits for a message (03 R72; 13 R279). -/
noncomputable def State.readsBound (s : State) (g : Group) : Bool :=
  match fetchSure g g.pc 2 s with
  | .instr i _ _ => (readsAt i g).any g.awaitsMsg
  | _ => false

/-- The wait of a group as the watchdog and the save area name it: a use blocked on a BOUND register counts as `recv` (18 R377,
R382). -/
noncomputable def State.namedFor (s : State) (g : Group) : Option Wait :=
  match g.run with
  | .waiting w _ => some (if w = .symbol ∧ s.readsBound g = true then .recv else w)
  | _ => none

/-- A group stops (R378, R399): a run blocked on a symbol goes back to its head (03 R76). -/
noncomputable def State.stopGroup (s : State) (gid : Nat) : State :=
  match s.group gid with
  | none => s
  | some g =>
    if !s.canStop g then s
    else
      let back := s.midRun g
      let wait := s.namedFor g
      (s.withdraw gid).onGroup gid fun s =>
        let h := if back then s.g.discard else s.g
        { s with g := { h.endRun with
            pc := if back then h.sp.lrun else h.pc
            run := .stopped (g.run == .parked) wait
            stopReq := 0 } }

/-- Whether a group is asked to stop. -/
def State.stopAsked (s : State) (g : Group) : Bool :=
  g.stopReq == 1 || (match s.crew g.sp.crew with | some c => c.preempt && g.switchStep == 0 | none => false)

/-- A stopped group goes on from where it stopped (19 R399). -/
def Group.resume (g : Group) (step : Bool) : Group :=
  match g.run with
  | .stopped parked _ => { g with run := if parked then .parked else .ready, stopReq := if step then 2 else 0 }
  | _ => g

/-- How many records the spill area of a crew holds (11 R244). -/
def Crew.spillRecords (c : Crew) : Nat := c.spillBytes / 32

/-- A message as a record of the spill ring (11 R244): its data, tag and source, and as its word of sequence state the clk in which
it was spilled. DESIGN CHOICE: the spec names what the 32 bytes hold and not where; the model packs them in that order (log 78). -/
def Msg.record (m : Msg) (clk : Nat) : Nat :=
  m.data.toNat + m.tag.toNat * 2 ^ 128 + m.src % 2 ^ 48 * 2 ^ 144 + clk % 2 ^ 64 * 2 ^ 192

/-- The address of the `j`-th record of a crew's ring from its head, with the address space: in the region that sr.spill names. -/
def State.ringVA (s : State) (c : Crew) (j : Nat) : Option (Nat × Nat) :=
  if c.spillRecords = 0 then none
  else (s.all.find? fun g => g.sp.crew == c.id).map fun g =>
    (g.sp.asid.toNat, (capBase g.sp.spill.bits + 32 * ((c.spillHead + j) % c.spillRecords : Nat)).toNat)

/-- The `j`-th record of a crew's ring is written. -/
def State.putRecord (s : State) (crew j : Nat) : State :=
  match s.crew crew with
  | none => s
  | some c =>
    match c.spilled[j]?, s.ringVA c j with
    | some m, some (asid, va) =>
      let r := m.record s.clk
      (s.pokeVA asid va 16 (r % 2 ^ 128) false).pokeVA asid (va + 16) 16 (r / 2 ^ 128) false
    | _, _ => s

/-- The oldest record of a crew's ring as it stands in memory: a program that has written there has changed the message. -/
def State.headRecord (s : State) (c : Crew) (m : Msg) : Msg :=
  match (if c.spilled.length ≤ c.spillRecords then s.ringVA c 0 else none) with
  | some (asid, va) => { m with data := BitVec.ofNat 128 (s.readVA asid va 16), tag := BitVec.ofNat 16 (s.readVA asid (va + 16) 2) }
  | none => m

/-- The stall reason of a group (19 R408): the first code of the table that describes it. DESIGN CHOICE: the table has no code for a
resident handler that sleeps until the next system event; it is sampled as in a `wait` (log 84). -/
def State.reason (s : State) (g : Group) : Nat :=
  if g.lastIssue + 1 = s.clk then 0
  else
    match g.run with
    | .stopped _ _ => 2
    | .saved _ => 2
    | .free => 2
    | .resident => 3
    | .ready => if g.forfeit = 0 then 1 else if g.priv = 1 then 3 else 0x17
    | .parked => if g.priv = 1 then 3 else 0x0E
    | .waiting w _ =>
      if g.priv = 1 then 3
      else
        match w with
        | .symbol => 4
        | .symPool => 5
        | .long => 6
        | .localLoad => 7
        | .translation => 8
        | .journal => 8
        | .miss => 0x16
        | .fullEmpty => 9
        | .sem _ => 0x0A
        | .ring _ _ _ => 0x0B
        | .barrier _ _ _ => 0x0C
        | .recv => 4
        | .join => 0x0D
        | .regang => 0x0D
        | .stalledCall => 0x0F
        | .fence => 0x10
        | .engines _ => 0x10
        | .batch => 0x10
        | .send => 0x11
        | .engineQueue => 0x12
        | .stateStore => 0x12
        | .matrixTile _ => 0x13
        | .copy _ => 0x13
        | .watch => 0x13
        | .evq => 0x13
        | .icache => 0x14
        | .forfeit => 0x17
        | .stepHold => 0x18
        | .systemEvent => 0x13

/-- RUN of a member (19 R397): 0 running, 1 stopping, 2 stopped, 3 at level T, 4 asleep or waiting. -/
def State.runCode (s : State) (g : Group) : Nat :=
  match g.run with
  | .stopped _ _ => 2
  | .saved _ => 2
  | r =>
    if s.stopAsked g || g.stopReq = 2 then 1
    else if g.priv ≠ 0 then 3
    else match r with
      | .ready => 0
      | .resident => 3
      | _ => 4

end Sys2Proof.Machine
end

