-- ==== Sys2Proof/Machine/Control.lean ====
section
/-! DEFINITION. Branches, jumps, calls and returns, divergence and regions, symbols, and the operand-extension registers
(05 R119 to R125; 07 R159 to R164; 04 R93). -/

namespace Sys2Proof.Machine

/-! ### Divergence (05 R123; 07 R159 to R162) -/

/-- Where a lane goes: the code capability and the pc. -/
structure Target where
  code : Val
  pc : Word
  deriving DecidableEq, Repr

/-- Whether every active slice holds a JOIN entry: the transfer is inside an open split (05 R123). -/
def Group.openSplit (g : Group) : Bool :=
  g.slices.all fun sl => !(g.acts.any fun l => l.no / 4 == sl.idx) || sl.stack.any (·.isJoin)

/-- The token of the innermost JOIN entry. -/
def Slice.token (sl : Slice) : BitVec 12 := ((sl.stack.find? (·.isJoin)).map (·.token)).getD 0

/-- An entry as it lies in a spill region (07 R159). -/
def StackEntry.bits (e : StackEntry) : Word :=
  BitVec.ofInt 40 ((e.pc.toNat - capBase e.code.bits) / 2) ++ e.lmask ++ e.fmt ++ e.token ++ (if e.isJoin then 1#2 else 2#2)

/-- The entries of a push beyond the sixteenth, written in the spill region (07 R162): `n` held before. -/
def spillWrites (core at_ : Nat) : Nat → List StackEntry → Memory → Memory
  | _, [], m => m
  | n, e :: t, m =>
    spillWrites core at_ (n + 1) t (if 16 ≤ n then m.store (localPA core (at_ + 8 * (n - 16))) 8 e.bits.toNat else m)

/-- Pushes on every slice of the group, the first entry first; none if a stack would pass its limit (07 R162). -/
def State.push (s : State) (per : Slice → List StackEntry) : Option State :=
  if s.g.slices.any fun sl => decide (s.g.limit < sl.stack.length + (per sl).length) then none
  else
    some { s with
      mem := s.g.slices.foldl (fun m sl => spillWrites s.g.core sl.spillAt sl.stack.length (per sl) m) s.mem
      g := { s.g with slices := s.g.slices.map fun sl => { sl with stack := (per sl).foldl (fun st e => e :: st) sl.stack } } }

/-- The trap of a push beyond the limit (07 R162). -/
def Group.overflow (g : Group) : Trap := trap 0x20 (BitVec.ofNat 64 (256 + g.limit))

/-- The lanes of a slice among some lanes, as an LMASK. -/
def lmaskOf (idx : Nat) (ns : List Nat) : BitVec 4 :=
  ns.foldl (fun m n => if n / 4 = idx then m ||| BitVec.ofNat 4 (2 ^ (n % 4)) else m) 0

/-- A value list of some slices. -/
def keepSlices {α : Type} (p : Nat → Bool) (v : List (Nat × α)) : List (Nat × α) := v.filter fun q => p (q.1 / 4)

/-- A group with the lanes and results of some of its slices. DESIGN CHOICE: the spec does not say what becomes of forfeited turns that
are still to pass (02 R49) when a group parts or parts merge; each part keeps the whole count, and a merged group the greatest (log
10). -/
def Group.only (g : Group) (p : Nat → Bool) : Group :=
  { g with
    lanes := g.lanes.filter fun l => p (l.no / 4)
    slices := g.slices.filter fun sl => p sl.idx
    pend := g.pend.map fun d =>
      { d with vals := keepSlices p d.vals, flags := keepSlices p d.flags, ids := d.ids.filter fun q => p q.1 }
    syms := g.syms.filter fun y => p y.slice }

/-- What the sources of a group have under way belongs to the group they are of now (12 R251). -/
def State.regid (s : State) (old new : Nat) (srcs : List Nat) : State :=
  let req (r : Req) : Req := if r.gid = old ∧ srcs.contains r.src = true then { r with gid := new } else r
  let entry (e : JEntry) : JEntry := if e.gid = old ∧ srcs.contains e.src = true then { e with gid := new } else e
  { s with
    net := s.net.map req
    scq := s.scq.map fun o => { o with req := req o.req }
    cores := s.cores.map fun c => { c with journal := c.journal.map (·.map entry) } }

/-- The groups that parts have merged into take over what those have under way. -/
def State.rehome (s : State) (parts : List Group) : State :=
  parts.foldl (fun s h =>
    match s.all.find? fun m => m.gang == h.gang && m.slices.any fun sl => h.slices.any fun x => x.idx == sl.idx with
    | some m => s.regid h.gid m.gid h.sources
    | none => s) s

/-- A slice parts as an issuing group of its own at its target, keeping its stack (07 R160); the transfer is the instruction that it
issued last, and at level U the one that sr.lrun names if it reads no latch (04 R87). -/
def State.part (s : State) (i : Instr) (idx : Nat) (t : Target) : State :=
  let h0 := (s.g.only fun n => n == idx).endRun
  let h : Group := { h0 with
    wx := 0
    wm := 0
    lastIssue := s.clk
    lastPc := s.g.pc
    sp := { h0.sp with lrun := if !readsLatch i && s.g.priv == 0 then s.g.pc else h0.sp.lrun } }
  State.regid { s with
    g := s.g.only fun n => n != idx
    groups := s.groups ++ [{ h with gid := s.nextId, codeCap := t.code, pc := t.pc, run := .ready, held := [], sent := false, answers := [] }]
    nextId := s.nextId + 1 } s.g.gid s.nextId h.sources

/-- Whether every slice's lanes agree on one target. -/
def slicesAgree (ts : List (Nat × Target)) : Bool :=
  ts.all fun a => ts.all fun b => a.1 / 4 != b.1 / 4 || a.2 == b.2

/-- The lanes that go elsewhere than the lowest one. -/
def strays (ts : List (Nat × Target)) : List (Nat × Target) :=
  match ts with
  | [] => []
  | (_, t0) :: _ => ts.filter fun p => p.2 != t0

/-- The waiting paths that a divergence within a slice pushes on it (07 R160). -/
def pathsOf (ts : List (Nat × Target)) (sl : Slice) : List StackEntry :=
  ((strays ts).map (·.2)).eraseDups.reverse.map fun t =>
    ⟨false, t.pc, t.code, lmaskOf sl.idx ((ts.filter fun p => p.2 == t).map (·.1)), sl.fmt.extractLsb' 0 6, sl.token⟩

/-- The trap of a transfer that diverges outside a split, or past the limit of a stack (05 R123; 07 R162). -/
def State.transferTrap (s : State) (ts : List (Nat × Target)) : Option Trap :=
  if (strays ts).isEmpty then none
  else if !s.g.openSplit then some (trap 0x20 (BitVec.ofNat 64 ((strays ts).foldl (fun m p => m ||| 2 ^ p.1) 0)))
  else if !slicesAgree ts && (s.push (pathsOf ts)).isNone then some s.g.overflow
  else none

/-- A control transfer of the active lanes to their targets (05 R123; 07 R160); `s0` is the state it issued in. -/
noncomputable def transferAct (i : Instr) (ts : List (Nat × Target)) (s0 s : State) : Act :=
  match ts, s.transferTrap ts with
  | [], _ => .done s
  | _, some t => .trap s t
  | (_, t0) :: _, none =>
    let diff := strays ts
    let go (s : State) : Act := .jump { s with g := { s.g with codeCap := t0.code } } t0.pc
    if diff.isEmpty then go s
    else if slicesAgree ts then
      let parts := (slicesOf (diff.map (·.1))).filterMap fun i => (diff.find? fun p => p.1 / 4 == i).map fun p => (i, p.2)
      go (parts.foldl (fun s p =>
        let n := s.nextId
        (s.part i p.1 p.2).onGroup n fun s => State.stepTrap s0 s true) s)
    else
      match s.push (pathsOf ts) with
      | none => .trap s s.g.overflow
      | some s1 =>
        let on (n : Nat) : Bool := ts.any fun p => p.1 == n && p.2 == t0
        go { s1 with g := { s1.g with lanes := s1.g.lanes.map fun l => { l with active := l.active && on l.no } } }

/-! ### Branches and jumps (05 R119 to R123) -/

/-- A pc and a displacement in halfwords. -/
def pcPlus {n : Nat} (pc : Word) (off : BitVec n) : Word := pc + BitVec.ofInt 64 (off.toInt * 2)

/-- A conditional branch (05 R119). -/
noncomputable def branch (i : Instr) (a d : BitVec 6) (off : Word) (c : Word → Word → Bool) (s : State) :
    Host.Outcome State Fault Refusal :=
  issue i strict (fun _ => none) (fun s =>
    let u := isUniform i
    let ts := (s.g.execs u).map fun l =>
      (l.no, (⟨s.g.codeCap, if c (s.g.read l a).word (s.g.read l d).word then s.g.pc + off else s.g.pc + BitVec.ofNat 64 i.len⟩ : Target))
    transferAct i (s.g.spread u ts) s s) s

/-- A displacement in halfwords as an offset in bytes. -/
def halfOff {n : Nat} (off : BitVec n) : Word := BitVec.ofInt 64 (off.toInt * 2)

/-- The checks of a jump's target (05 R121). -/
def jumpTrap (g : Group) (a : BitVec 6) (l : Lane) : Option Trap :=
  let t := g.read l a
  if t.tag ≠ .cap then some (trapReg 0x03 a)
  else if !capHas t.bits .x || capWalk t.bits != 0 then some (trapReg 0x05 a)
  else if (capCursor t.bits).getLsbD 0 then some (trap 0x0C ((capCursor t.bits).setWidth 64))
  else none

/-- Whether what ending lanes await has arrived: long results, symbols, and stores as a fence of scope self gives
(05 R122). -/
def State.settled (s : State) (ns : List Nat) : Bool :=
  !(s.g.pend.any fun p => p.vals.any fun v => ns.contains v.1) &&
    !(s.g.syms.any fun y => y.want.any fun n => ns.contains n) && s.quiet true

/-- `jr`, `callr` and `ret` (05 R121 to R123). -/
noncomputable def jumpAct (i : Instr) (a : BitVec 6) (link exits : Bool) (s : State) : Act :=
  let u := isUniform i
  match (s.g.execs u).findSome? (jumpTrap s.g a) with
  | some t => .trap s t
  | none =>
    let caps := s.g.spread u ((s.g.execs u).map fun l => (l.no, s.g.read l a))
    let ending := if exits then (caps.filter fun p => isExit p.2).map (·.1) else []
    let going := (caps.filter fun p => !ending.contains p.1).map fun p =>
      (p.1, (⟨p.2, (capCursor p.2.bits).setWidth 64⟩ : Target))
    if ending.isEmpty then
      if link then
        match s.transferTrap going with
        | some t => .trap s t
        | none =>
          let ret := withCursor s.g.codeCap (s.g.pc + BitVec.ofNat 64 i.len)
          putReg i 55 (s.g.acts.map fun l => (l.no, ret)) s fun s1 => transferAct i going s s1
      else transferAct i going s s
    else if !s.settled ending then .wait s .fence
    else
      let s1 := s.endLanes ending []
      if s1.g.gid ≠ s.g.gid then .over s1
      else if going.isEmpty then .jump s1 s1.g.pc
      else transferAct i going s s1

/-- A jump through a capability. -/
noncomputable def jumpForm (i : Instr) (a : BitVec 6) (link exits : Bool) (s : State) : Host.Outcome State Fault Refusal :=
  issue i strict (fun _ => none) (jumpAct i a link exits) s

/-! ### Regions (07 R159 to R164; 09 R194, R195) -/

/-- The groups of the issuing group's gang, without itself. -/
def State.otherParts (s : State) : List Group := s.groups.filter fun h => h.gang == s.g.gang && h.run != .free

/-- A token that no entry of the gang holds, the least (07 R159; log 7). -/
def State.freshToken (s : State) : Option Nat :=
  leastFree ((s.g :: s.otherParts).flatMap fun g => g.slices.flatMap fun sl => sl.stack.map fun e => e.token.toNat) 4096 0

/-- `split` (07 R159, R162; 09 R194). -/
def splitAct (joinPc : Word) (s : State) : Act :=
  match s.freshToken with
  | none => .trap s s.g.overflow
  | some t =>
    let on := s.g.acts.map (·.no)
    match s.push fun sl => [⟨true, joinPc, s.g.codeCap, lmaskOf sl.idx on, sl.fmt.extractLsb' 0 6, BitVec.ofNat 12 t⟩] with
    | none => .trap s s.g.overflow
    | some s1 => .jump s1 (s.g.pc + 4)

/-- Slices in rising order of place. -/
def insSlice (a : Slice) : List Slice → List Slice
  | [] => [a]
  | x :: t => if a.idx ≤ x.idx then a :: x :: t else x :: insSlice a t

/-- Lanes in rising order of number. -/
def insLane (a : Lane) : List Lane → List Lane
  | [] => [a]
  | x :: t => if a.no ≤ x.no then a :: x :: t else x :: insLane a t

/-- Groups merged into one (07 R161, R164): what each part awaits and the special registers of the part with the
lowest slice are the merged group's, and of the forfeited turns the greatest count (log 10). -/
def Group.merge (g : Group) (others : List Group) : Group :=
  let all := g :: others
  let low := all.foldl (fun (m : Group) h =>
    if (h.slices.head?.map (·.idx)).getD 64 < (m.slices.head?.map (·.idx)).getD 64 then h else m) g
  { g with
    sp := low.sp
    lanes := (others.flatMap (·.lanes)).foldl (fun ls l => insLane l ls) g.lanes
    slices := (others.flatMap (·.slices)).foldl (fun ls l => insSlice l ls) g.slices
    pend := all.flatMap (·.pend)
    syms := all.flatMap (·.syms)
    forfeit := all.foldl (fun n h => max n h.forfeit) 0
    arrivals := (all.flatMap (·.arrivals)).eraseDups }

/-- The innermost JOIN entry of a group. -/
def Group.innerJoin (g : Group) : Option StackEntry := g.slices.head?.bind fun sl => sl.stack.find? (·.isJoin)

/-- Whether a group waits at the join of a region. -/
def Group.atJoin (g : Group) (pc : Word) (token : BitVec 12) : Bool :=
  (match g.run with | .waiting .join _ => true | _ => false) && g.pc == pc &&
    match g.slices.head?.bind (·.stack.head?) with
    | some e => e.isJoin && e.token == token
    | none => false

/-- The merged group after its JOIN entry: its lanes that have not ended, and sr.fmt from FMT (07 R161). -/
def Group.afterJoin (g : Group) : Group :=
  { g with
    lanes := g.lanes.map fun l =>
      { l with active := l.live && (match (g.sliceOf l.no).bind (·.stack.head?) with | some e => e.lmask.getLsbD (l.no % 4) | none => false) }
    slices := g.slices.map Slice.pop }

/-- `join` (07 R161). -/
def joinAct (s : State) : Act :=
  match s.g.innerJoin with
  | none => .trap s (trap 0x20 0)
  | some e =>
    if e.pc ≠ s.g.pc then .trap s (trap 0x20 e.pc)
    else
      let waiting := s.g.slices.any fun sl => sl.pending.isSome
      let g1 := if waiting then s.g.nextPath 2048 else s.g
      if waiting && g1.lanes.any (·.active) then .jump { s with g := g1 } g1.pc
      else
        let parts : List Group := s.otherParts.filter fun h => h.slices.any fun sl => sl.stack.any fun x => x.isJoin && x.token == e.token
        if parts.all fun (h : Group) => h.atJoin e.pc e.token then
          let g2 := (g1.merge parts).afterJoin
          .jump (({ s with g := g2, groups := s.groups.filter fun (h : Group) => !(parts.any fun (p : Group) => p.gid == h.gid) } : State).rehome parts) (e.pc + 4)
        else .wait { s with g := g1 } .join

/-- The token under which a group is at `regang`. -/
def Group.topToken (g : Group) : Option (BitVec 12) := (g.slices.head?.bind (·.stack.head?)).map (·.token)

/-- Groups at `regang` with one pc and token, each merged into its first (07 R164). -/
def mergeClasses : Nat → List Group → List Group
  | 0, _ => []
  | _, [] => []
  | n + 1, g :: t =>
    let same (h : Group) : Bool := h.pc == g.pc && h.topToken == g.topToken
    let m := (g.merge (t.filter same)).endRun
    { m with pc := g.pc + 4, run := .ready, sp := { m.sp with lrun := if g.priv = 0 then g.pc else m.sp.lrun } } :: mergeClasses n (t.filter fun h => !same h)

/-- `regang` (07 R164; 09 R195). -/
noncomputable def regangAct (s : State) : Act :=
  let others := s.otherParts
  let stopped (h : Group) : Bool := match h.run with | .waiting .join _ => true | .waiting .regang _ => true | _ => false
  let waits (h : Group) : Bool := match h.run with | .waiting .regang _ => true | _ => false
  if !(others.all stopped) then .wait s .regang
  else
    let at_ := others.filter waits
    let mine := at_.filter fun h => h.pc == s.g.pc && h.topToken == s.g.topToken
    let rest := at_.filter fun h => !(h.pc == s.g.pc && h.topToken == s.g.topToken)
    let merged := mergeClasses (rest.length + 1) rest
    let s1 : State := { s with
      g := s.g.merge mine
      groups := (s.groups.filter fun h => !(at_.any fun p => p.gid == h.gid)) ++ merged }
    let s2 := merged.foldl (fun s m => s.onGroup m.gid fun s =>
      State.stepTrap { s with g := { s.g with pc := s.g.pc - 4 } } s true) (s1.rehome at_)
    .jump s2 (s.g.pc + 4)

/-! ### Symbols and operand-extension registers (05 R124, R125; 04 R93) -/

/-- `sym.test` of one value (05 R124). -/
def symState (v : Val) : Val := match v.tag with | .sym _ => dataNat 1 | .poison => dataNat 2 | _ => dataNat 0

/-- An operand-extension register written (04 R93); the gang's other parts have it when the run ends (04 R88). -/
def State.setX (s : State) (n : Nat) (v : Word) : State :=
  { s with g := { s.g with x := s.g.x.setIfInBounds n v, wx := s.g.wx ||| BitVec.ofNat 8 (2 ^ n) } }

/-- X[n]. -/
def Group.xr (g : Group) (n : Nat) : Word := g.x.toList.getD n 0


/-- B_EQ (R119): Branches when A = D. -/
noncomputable def execBEq (imm : BitVec 10) (a : BitVec 6) (d : BitVec 6) (u : Bool) (s : State) : Host.Outcome State Fault Refusal :=
  branch (.bEq imm a d u) a d (halfOff imm) (fun x y => x == y) s

/-- B_NE (R119): Branches when A ≠ D. -/
noncomputable def execBNe (imm : BitVec 10) (a : BitVec 6) (d : BitVec 6) (u : Bool) (s : State) : Host.Outcome State Fault Refusal :=
  branch (.bNe imm a d u) a d (halfOff imm) (fun x y => x != y) s

/-- B_LT (R119): Branches when A < D signed. -/
noncomputable def execBLt (imm : BitVec 10) (a : BitVec 6) (d : BitVec 6) (u : Bool) (s : State) : Host.Outcome State Fault Refusal :=
  branch (.bLt imm a d u) a d (halfOff imm) (fun x y => x.slt y) s

/-- B_GE (R119): Branches when A ≥ D signed. -/
noncomputable def execBGe (imm : BitVec 10) (a : BitVec 6) (d : BitVec 6) (u : Bool) (s : State) : Host.Outcome State Fault Refusal :=
  branch (.bGe imm a d u) a d (halfOff imm) (fun x y => !(x.slt y)) s

/-- B_LTN (R119): Branches when A < D natural. -/
noncomputable def execBLtn (imm : BitVec 10) (a : BitVec 6) (d : BitVec 6) (u : Bool) (s : State) : Host.Outcome State Fault Refusal :=
  branch (.bLtn imm a d u) a d (halfOff imm) (fun x y => x.ult y) s

/-- B_GEN (R119): Branches when A ≥ D natural. -/
noncomputable def execBGen (imm : BitVec 10) (a : BitVec 6) (d : BitVec 6) (u : Bool) (s : State) : Host.Outcome State Fault Refusal :=
  branch (.bGen imm a d u) a d (halfOff imm) (fun x y => !(x.ult y)) s

/-- B_Z (R101): Compact branch when kp is zero. -/
noncomputable def execBZ (off : BitVec 5) (p : BitVec 5) (s : State) : Host.Outcome State Fault Refusal :=
  branch (.bZ off p) (kc p) 0 (BitVec.ofNat 64 (2 * off.toNat)) (fun x y => x == y) s

/-- B_NZ (R101): Compact branch when kp is non-zero. -/
noncomputable def execBNz (off : BitVec 5) (p : BitVec 5) (s : State) : Host.Outcome State Fault Refusal :=
  branch (.bNz off p) (kc p) 0 (BitVec.ofNat 64 (2 * off.toNat)) (fun x y => x != y) s

/-- J (R120): Jumps PC-relative. -/
noncomputable def execJ (imm : BitVec 25) (s : State) : Host.Outcome State Fault Refusal :=
  issue (.j imm) strict (fun _ => none) (fun s => .jump s (s.g.pc + halfOff imm)) s

/-- J_S (R101): Compact short jump. -/
noncomputable def execJS (lo : BitVec 5) (hi : BitVec 5) (s : State) : Host.Outcome State Fault Refusal :=
  issue (.jS lo hi) strict (fun _ => none) (fun s => .jump s (s.g.pc + halfOff (hi ++ lo))) s

/-- CALL (R120): Writes the return capability to k55 and jumps PC-relative. -/
noncomputable def execCall (imm : BitVec 25) (s : State) : Host.Outcome State Fault Refusal :=
  issue (.call imm) strict (fun _ => none) (fun s =>
    putReg (.call imm) 55 (s.g.acts.map fun l => (l.no, withCursor s.g.codeCap (s.g.pc + 4))) s fun s1 => .jump s1 (s.g.pc + halfOff imm)) s

/-- JR (R121): Jumps to the code capability in a after tag, permission and alignment checks. -/
noncomputable def execJr (a : BitVec 6) (u : Bool) (s : State) : Host.Outcome State Fault Refusal :=
  jumpForm (.jr a u) a false false s

/-- CALLR (R121): Jumps to the capability in a and writes the return capability to k55. -/
noncomputable def execCallr (a : BitVec 6) (u : Bool) (s : State) : Host.Outcome State Fault Refusal :=
  jumpForm (.callr a u) a true false s

/-- RET (R122): Jumps to the capability in a; to an exit capability it ends the strand or lane. -/
noncomputable def execRet (a : BitVec 6) (u : Bool) (s : State) : Host.Outcome State Fault Refusal :=
  jumpForm (.ret a u) a false true s

/-- COMPACT_JR (R101): Compact jr. -/
noncomputable def execCompactJr (p : BitVec 5) (s : State) : Host.Outcome State Fault Refusal :=
  jumpForm (.compactJr p) (kc p) false false s

/-- COMPACT_RET (R101): Compact ret through k55. -/
noncomputable def execCompactRet (s : State) : Host.Outcome State Fault Refusal :=
  jumpForm .compactRet 55 false true s

/-- SPLIT (R194): Pushes a JOIN entry opening a divergent region. -/
noncomputable def execSplit (imm : BitVec 10) (s : State) : Host.Outcome State Fault Refusal :=
  issue (.split imm) strict (fun _ => none) (fun s => splitAct (s.g.pc + halfOff imm) s) s

/-- JOIN (R161): Acts on the innermost reconvergence entry: runs a pending path or waits and merges. -/
noncomputable def execJoin (s : State) : Host.Outcome State Fault Refusal :=
  issue .join strict (fun _ => none) joinAct s

/-- REGANG (R164): Waits until the gang's parts stop, then merges groups at the same PC and token. -/
noncomputable def execRegang (s : State) : Host.Outcome State Fault Refusal :=
  issue .regang strict (fun _ => none) regangAct s

/-- SYM_WAIT (R124): Blocks while a is a live symbol, traps if poisoned. -/
noncomputable def execSymWait (a : BitVec 6) (u : Bool) (s : State) : Host.Outcome State Fault Refusal :=
  issue (.symWait a u) strict (fun _ => none) .done s

/-- COMPACT_SYM_WAIT (R101): Compact sym.wait. -/
noncomputable def execCompactSymWait (p : BitVec 5) (s : State) : Host.Outcome State Fault Refusal :=
  issue (.compactSymWait p) strict (fun _ => none) .done s

/-- SYM_TEST (R124): Writes 0, 1 or 2 for not SYM, live symbol or poisoned. -/
noncomputable def execSymTest (a : BitVec 6) (d : BitVec 6) (u : Bool) (s : State) : Host.Outcome State Fault Refusal :=
  lanewise (.symTest a d u) ⟨false, true, false⟩ (fun g l => some (symState (g.read l a), Flags.zero)) s

/-- XPUT (R125): Writes bits [63:0] of a into an operand-extension register. -/
noncomputable def execXput (a : BitVec 6) (xi : BitVec 6) (s : State) : Host.Outcome State Fault Refusal :=
  issue (.xput a xi) elected (fun _ => none) (fun s =>
    match s.g.acts with
    | l :: _ => .done (s.setX xi.toNat (s.g.read l a).word)
    | [] => .done s) s

/-- XGET (R125): Writes an operand-extension register to d as DATA. -/
noncomputable def execXget (xi : BitVec 6) (d : BitVec 6) (s : State) : Host.Outcome State Fault Refusal :=
  issue (.xget xi d) strict (fun _ => none) (fun s =>
    deliver (.xget xi d) (s.g.acts.map fun l => (l.no, dataWord (s.g.xr xi.toNat))) [] s) s

/-- XSET (R93): Sets an operand-extension register to a sign-extended 22-bit immediate. -/
noncomputable def execXset (imm : BitVec 22) (xi : BitVec 3) (s : State) : Host.Outcome State Fault Refusal :=
  issue (.xset imm xi) strict (fun _ => none) (fun s => .done (s.setX xi.toNat (imm.signExtend 64))) s

/-- XCAT (R93): Shifts an operand-extension register left 22 and ORs in an immediate. -/
noncomputable def execXcat (imm : BitVec 22) (xi : BitVec 3) (s : State) : Host.Outcome State Fault Refusal :=
  issue (.xcat imm xi) strict (fun _ => none) (fun s =>
    .done (s.setX xi.toNat ((s.g.xr xi.toNat).extractLsb' 0 42 ++ imm))) s

end Sys2Proof.Machine
end

