-- ==== Sys2Proof/Machine/Place.lean ====
section
/-! DEFINITION. Placement of crews on cores (07 R145 to R148; 08 R176 to R178; 15 R319 to R321; 18 R381): what a
core can take, the state in which strands and lanes start, and what a quad takes from a record. -/

namespace Sys2Proof.Machine

/-! ### What a core has left -/

/-- The contexts or slices of a core that are taken: those that hold a strand or slice, and those kept for the callers in an
entry of the Mooring or in a gang it launched (07 R146; 08 R179, R184). -/
def State.taken (s : State) (core : Nat) : List Nat :=
  ((s.all.filter fun g => g.core == core && !(s.crews.any fun c => c.id == g.sp.crew && c.saved)).flatMap fun g => g.slices.map (·.num)) ++
    (s.crews.flatMap fun c => c.pins.filterMap fun p => if p.1 = core then some p.2 else none) ++
    s.moor.flatMap fun e => e.callers.filterMap fun c => if c.core = core then some c.ctx else none

/-- The free general contexts, or free slices, in rising order. -/
def State.freeSlots (s : State) (core : Nat) (isG : Bool) : List Nat :=
  let busy := s.taken core
  (upFrom 0 (if isG then 63 else 23)).filter fun n => !busy.contains n

/-- The least start of `size` free bytes below `limit`, at a multiple of 256, between regions (start, length)
already taken (log 11). -/
def lowestFit (limit size : Nat) (used : List (Nat × Nat)) : Option Nat :=
  let starts := (used.map fun u => (u.1 + u.2 + 255) / 256 * 256).foldl (fun l n => setIns n l) [0]
  starts.find? fun a => decide (a + size ≤ limit) && used.all fun u => decide (u.1 + u.2 ≤ a ∨ a + size ≤ u.1)

/-- Local memory allocated on a core. -/
def State.localUsed (s : State) (core : Nat) : List (Nat × Nat) :=
  (s.crews.filter fun c => c.core == core && !c.saved).map fun c => (c.lo, c.total)

/-- The bytes of a save region (18 R381). -/
def regionSize (isG matrix : Bool) (members lbytes : Nat) : Nat :=
  let m0 := if matrix then 0x10800 else 0x800
  let f0 := m0 + members * (if isG then 0x2200 else 0xD00)
  (f0 + lbytes / 64 + 255) / 256 * 256 + lbytes

/-! ### What is to be placed -/

/-- A crew to be placed: the attributes that its record or Mooring entry gives (07 R143, R147, R148; 08 R176). -/
structure CrewSpec where
  task : Nat
  isG : Bool
  spg : Nat
  crewN : Nat
  samp : Bool
  count : Nat
  roles : Nat → Nat
  localBytes : Nat
  limit : Nat
  wdog : Nat
  asid : Word
  mwb : Word
  swb : Word
  tvec : Val
  ctx : Nat
  fn : Nat
  entry : Val
  arg : Val
  /-- The Mooring entry's callers and argument count. -/
  callers : List Caller
  args : Nat

/-- The crew of a task's record. -/
def Task.spec (t : Task) : CrewSpec :=
  { task := t.id, isG := t.record.isG, spg := t.record.spg, crewN := t.record.crewN, samp := t.record.samp, count := t.record.count,
    roles := t.record.role, localBytes := t.record.localBytes, limit := t.record.limit, wdog := t.record.wdog, asid := t.asid,
    mwb := t.mwb, swb := t.swb, tvec := t.tvec, ctx := t.ctx, fn := t.fn, entry := t.record.entry, arg := t.record.arg,
    callers := [], args := 0 }

/-- The gang of a Mooring entry (08 R176). -/
def MoorEntry.spec (e : MoorEntry) : CrewSpec :=
  { task := e.task, isG := true, spg := (e.callers.length + 3) / 4, crewN := 1, samp := false, count := 1, roles := fun _ => 0,
    localBytes := e.localBytes, limit := e.limit, wdog := e.wdog, asid := e.asid, mwb := e.mwb, swb := e.swb, tvec := e.tvec,
    ctx := e.ctxId, fn := e.fn, entry := e.target, arg := Val.zero, callers := e.callers, args := e.n }

/-- The crew that a walk or a queue entry places; a saved one is no fresh crew. -/
def State.specOf (s : State) (who : Placing) : Option CrewSpec :=
  match who with
  | .share t _ => (s.task t).map (·.spec)
  | .gang q e => (s.moor.find? fun m => m.quad == q && m.idx == e).map (·.spec)
  | .crew _ => none

/-- Where the spill area begins after a save region: 32-byte aligned (07 R148). -/
def spillAfter (region : Nat) : Nat := (region + 31) / 32 * 32

/-- A crew fitted to a core: how many strands or gangs, on which slots, and where its memory and pool area lie. -/
structure Fit where
  n : Nat
  slots : List Nat
  lo : Nat
  total : Nat
  area : Nat
  region : Nat
  deriving DecidableEq, Repr

/-- Whether a gang of the crew is a matrix gang. -/
def CrewSpec.matrix (c : CrewSpec) (n : Nat) : Bool := c.isG && (upFrom 0 n).any fun j => c.roles j == 2

/-- The members of a crew of `n` strands or gangs: strands, or slices. -/
def CrewSpec.members (c : CrewSpec) (n : Nat) : Nat := if c.isG then n * c.spg else n

/-- The event bytes and the spill bytes of a crew's context (07 R148). -/
def State.ctxBytes (s : State) (ctx : Nat) : Nat × Nat := ((s.ctx ctx).map fun x => (x.event, x.spill)).getD (0, 0)

/-- Whether a core takes a crew of `left` strands or gangs still to place, and how (07 R146, R148; 14 R282; 18 R389;
08 R184). A stopped or fenced core, and core 1 of quad (15, 15) of die 0, which runs the firmware, take none
(log 12). -/
def State.fit (s : State) (c : CrewSpec) (core left : Nat) : Option Fit :=
  let k := s.core core
  let free := s.freeSlots core c.isG
  let part := s.partition (quadOf core)
  let n := if c.isG then min c.crewN left else if c.samp then 1 else min c.crewN (min free.length left)
  let slots := if c.isG then free.take (n * c.spg) else if c.samp then (free.filter (· == 22)) else free.take n
  let (event, spill) := s.ctxBytes c.ctx
  let members := c.members n
  let total := c.localBytes + members * ((c.limit - 16) * 8) + event
  let matrix := c.matrix n
  let region := regionSize c.isG matrix members total
  let bound := match part with | some p => p.fn.isNone || p.fn == some c.fn | none => true
  if decide (n = 0) || decide (slots.length ≠ members) || k.stopped || k.fenced || decide (core = 1021) || !bound ||
      s.pkg.deadDies.getLsbD (dieOf core) || (matrix && s.crews.any fun x => x.core == core && x.matrix && !x.saved) then none
  else
    match lowestFit (localSize core) total (s.localUsed core), s.ctx c.ctx with
    | some lo, some x =>
      (lowestFit x.poolSize (spillAfter region + spill) x.areas).map fun a => ⟨n, slots, lo, total, a, region⟩
    | _, _ => none

/-! ### The start of strands and lanes -/

/-- The exit capability (05 R122; log 13). -/
def exitCap : Val := ⟨capBits 0 4 0 0 0 0, .cap⟩

/-- The general registers of a lane given by number, the others zero DATA (07 R147; 08 R178). -/
def startRegs (r : List (Nat × Val)) : Vector Val 56 :=
  r.foldl (fun k p => k.setIfInBounds p.1 p.2) (Vector.replicate 56 Val.zero)

/-- A lane at its start. -/
def startLane (no : Nat) (r : List (Nat × Val)) : Lane := ⟨no, startRegs r, [], true, true⟩

/-- A capability with its cursor moved by some bytes. -/
def advance (v : Val) (n : Nat) : Val := moveTo v (index v + n)

/-- A slice at its start: its place in the gang, its number on the core, its spill region and its save capability. -/
def startSlice (idx num spillAt : Nat) (save : Val) : Slice :=
  { idx := idx, num := num, spillAt := spillAt, bank := Vector.replicate 4 Val.zero, fmode := 0, fmt := 0, stack := [],
    bp := Vector.replicate 4 0, wp := Vector.replicate 4 0, psamp := 0, sampled := 0, save := save }

/-- What the members of one crew have in common. -/
structure CrewBase where
  spec : CrewSpec
  fit : Fit
  core : Nat
  crew : Nat
  spillVal : Val
  evqVal : Val
  saveVal : Val

/-- The mesh-window address of an offset in the crew's core (11 R218). -/
def CrewBase.addr (b : CrewBase) (off : Nat) : Nat := b.spec.mwb.toNat + b.core * 2 ^ 19 + off

/-- The crew's local-memory capability: R W LC SC A over its allocation (01 R30). -/
def CrewBase.localCap (b : CrewBase) : Val := flatCap 0x9B (b.addr b.fit.lo) b.spec.localBytes

/-- The special registers at launch (01 R24; 07 R147, R148). -/
def CrewBase.specials (b : CrewBase) : Specials :=
  { status := 4 + (if b.spec.isG then 256 else 0) + (if b.spec.samp then 128 else 0), cause := 0, tval := 0, epc := b.spec.entry, lrun := 0, done := 0,
    crew := b.crew, task := b.spec.task, asid := b.spec.asid, mwb := b.spec.mwb, swb := b.spec.swb, mtime := 512, felim := 65536,
    gstat := 0, tvec := b.spec.tvec, spill := b.spillVal, evq := b.evqVal }

/-- A member's slice: its spill region follows the LOCAL bytes, its save area the header of the region (07 R162; 18 R381). -/
def CrewBase.slice (b : CrewBase) (idx member : Nat) : Slice :=
  let area := (if b.spec.matrix b.fit.n then 0x10800 else 0x800) + member * (if b.spec.isG then 0x2200 else 0xD00)
  startSlice idx (b.fit.slots.getD member 0) (b.fit.lo + b.spec.localBytes + member * ((b.spec.limit - 16) * 8)) (advance b.saveVal area)

/-- A group at its start, with its lanes and slices. -/
def CrewBase.group (b : CrewBase) (gid role : Nat) (lanes : List Lane) (slices : List Slice) : Group :=
  { Group.reset with
    gid := gid, gang := gid, core := b.core, isG := b.spec.isG, role := BitVec.ofNat 2 role,
    first := (slices.head?.map (·.num)).getD 0, spg := b.spec.spg, limit := b.spec.limit, lanes := lanes, slices := slices,
    sp := b.specials, pc := (capCursor b.spec.entry.bits).setWidth 64, codeCap := b.spec.entry, run := .ready }

/-- The strand with index `n` of the task as member `m` of the crew (01 R30). -/
def CrewBase.strand (b : CrewBase) (gid m n : Nat) : Group :=
  b.group gid 0
    [startLane 0 [(1, b.spec.arg), (2, dataNat n), (3, dataNat b.spec.count), (4, b.localCap), (55, exitCap)]] [b.slice 0 m]

/-- The gang with number `n` of the task as gang `j` of the crew (07 R147). -/
def CrewBase.gang (b : CrewBase) (gid j n : Nat) : Group :=
  let w := b.spec.spg * 4
  b.group gid (b.spec.roles j)
    ((upFrom 0 w).map fun l => startLane l
      [(1, b.spec.arg), (2, dataNat (n * w + l)), (3, dataNat (b.spec.count * w)), (4, b.localCap), (55, exitCap)])
    ((upFrom 0 b.spec.spg).map fun i => b.slice i (j * b.spec.spg + i))

/-- k10 of a callee lane (08 R179). -/
def callerId (c : Caller) : Word := BitVec.ofNat 64 (c.ctx * 2 ^ 13 + c.core)

/-- A gang that the Mooring launches (08 R176, R178); it loads its arguments before it issues. -/
def CrewBase.called (b : CrewBase) (gid : Nat) : Group :=
  let c := b.spec.callers.length
  let lane (p : Caller × Nat) : Lane := startLane p.2
    ((p.1.args.zipIdx 1).map (fun a => (a.2, a.1)) ++
      [(9, b.localCap), (10, dataWord (callerId p.1)), (11, dataNat c), (55, exitCap)])
  { b.group gid 0 (b.spec.callers.zipIdx.map lane) ((upFrom 0 b.spec.spg).map fun i => b.slice i i) with
    mooring := true, run := .parked }

/-- Places a crew on a core, starting with strand or gang `first` (07 R146 to R148; 08 R176 to R178; 14 R282): its
crew record, its groups, and the event queue's header zeroed. -/
def State.placeCrew (s : State) (c : CrewSpec) (core first : Nat) (f : Fit) : State :=
  let id := s.nextId
  let (event, spill) := s.ctxBytes c.ctx
  let pool := ((s.ctx c.ctx).map (·.pool)).getD 0
  let evqOff := f.lo + f.total - event
  let b : CrewBase :=
    { spec := c, fit := f, core := core, crew := id,
      spillVal := flatCap 3 (pool + f.area + spillAfter f.region) spill,
      evqVal := if event = 0 then Val.zero else flatCap 3 (c.mwb.toNat + core * 2 ^ 19 + evqOff) event,
      saveVal := flatCap 0x1B (pool + f.area) f.region }
  let groups :=
    if !c.callers.isEmpty then [b.called (id + 1)]
    else (upFrom 0 f.n).map fun j => if c.isG then b.gang (id + 1 + j) j (first + j) else b.strand (id + 1 + j) j (first + j)
  let refs := c.callers.zipIdx.map fun p => (⟨p.2, p.1.gid, p.1.core, p.1.ctx⟩ : CallerRef)
  let crew : Crew :=
    { id := id, task := c.task, core := core, isG := c.isG, ctx := c.ctx, lo := f.lo, len := c.localBytes, total := f.total,
      evq := if event = 0 then none else some (localPA core evqOff), limit := c.limit, members := c.members f.n,
      matrix := c.matrix f.n, rings := Vector.replicate 4 0, wdog := c.wdog, seen := c.wdog, reload := c.wdog, spillBytes := spill,
      spillHead := 0, spilled := [],
      preempt := false, atStep := false, since := 0, saved := false, withdrawn := false, switching := 0, area := f.area, callers := refs, pins := c.callers.map fun x => (x.core, x.ctx) }
  let s1 := s.mapCtx c.ctx fun x => { x with areas := x.areas ++ [(f.area, spillAfter f.region + spill)] }
  let s2 : State := { s1 with
    crews := s1.crews ++ [crew]
    groups := s1.groups ++ groups
    nextId := id + 1 + groups.length
    arrays := s1.arrays.map fun a => if a.core = core ∧ crew.matrix then { a with tiles := [], poison := 0, blocks := Vector.replicate 4 0 } else a }
  if event = 0 then s2 else s2.poke (localPA core evqOff) 16 0

/-! ### What a quad takes (07 R145, R146; 15 R319 to R321) -/

/-- The cores of a quad that take a kind of crew, in order of core number. -/
def quadCores (quad : Nat) (isG : Bool) : List Nat := if isG then [quad * 4 + 2, quad * 4 + 3] else [quad * 4, quad * 4 + 1]

/-- The first core of some that takes a crew. -/
def State.firstFit (s : State) (c : CrewSpec) (left : Nat) : List Nat → Option (Nat × Fit)
  | [] => none
  | k :: t =>
    match s.fit c k left with
    | some f => some (k, f)
    | none => s.firstFit c left t

/-- A placed crew of the Mooring leaves PLACING or QUEUED (08 R175). -/
def State.placedGang (s : State) (who : Placing) (gid : Nat) : State :=
  match who with
  | .share _ _ => s
  | .crew _ => s
  | .gang q e => { s with moor := s.moor.map fun m =>
      if m.quad = q ∧ m.idx = e then { m with state := .loading, gang := gid } else m }

/-- A quad takes crews while it has a core that can (07 R145): the state, what is left, and the next index. -/
def State.take (s : State) (who : Placing) (quad : Nat) : Nat → Nat → Nat → State × Nat × Nat
  | 0, left, next => (s, left, next)
  | n + 1, left, next =>
    if left = 0 then (s, 0, next)
    else
      match s.specOf who with
      | none => (s, 0, next)
      | some c =>
        match s.firstFit c left (quadCores quad c.isG) with
        | none => (s, left, next)
        | some (core, f) =>
          let s1 := (s.placeCrew c core next f).placedGang who (s.nextId + 1)
          State.take s1 who quad n (left - f.n) (next + f.n)

end Sys2Proof.Machine
end

