-- ==== Sys2Proof/Machine/Switch.lean ====
section
/-! DEFINITION. Saving and restoring crews (18 R378 to R388): what a drain awaits, the save area as it is written and
read, the switch steps, and restore. -/

namespace Sys2Proof.Machine

/-! ### Drain (18 R379) -/

/-- The groups of a crew, without a group that runs a switch step. -/
def State.crewGroups (s : State) (crew : Nat) : List Group := s.all.filter fun g => g.sp.crew == crew && g.switchStep == 0

/-- Whether a held record is that of a copy or a state-store transfer, which is complete when it is written (16 R342; 17 R353). -/
def OutRec.completes (r : OutRec) : Bool :=
  match r.unit with
  | .copy _ => true
  | .store _ => true
  | _ => false

/-- Whether engine operations of a crew are under way (16 R342; 17 R364). -/
def State.engineBusy (s : State) (crew : Nat) : Bool :=
  s.copies.any (fun o => o.crew == crew) || s.arrays.any (fun a => a.order.any fun o => o.crew == crew) ||
    s.colls.any (fun c => !c.closed && c.parts.any fun p => p.crew == crew) ||
    s.punits.any (fun p => (match p.arm with | some a => a.crew == crew | none => false) && (p.run.isSome || !p.due.isEmpty)) ||
    s.stores.any (fun u => u.reqs.any fun r => r.crew == crew) || s.records.any fun r => r.completes && r.crew == crew

/-- Whether everything a drain awaits has come about: long results, late values but for pending receives, engine
operations, and the answers to posted entries (R379). -/
def State.drained (s : State) (crew : Nat) : Bool :=
  let gs := s.crewGroups crew
  let gids := gs.map (·.gid)
  gs.all (fun g => g.pend.isEmpty && g.syms.all fun y => y.mtag.isSome && !(y.want.all fun n => y.got.any fun p => p.1 == n)) &&
    !(s.net.any fun r => gids.contains r.gid) && !(s.scq.any fun o => gids.contains o.req.gid) && !s.engineBusy crew &&
    s.cores.all fun c => c.journal.toList.all fun e => match e with | some e => e.crew != crew || e.st != 1 | none => true

/-- Whether a group is stopped for a save. -/
def Group.isStopped (g : Group) : Bool := match g.run with | .stopped _ _ => true | _ => false

/-! ### The member areas (18 R382) -/

/-- The wait kind of a stopped group (R377, R382). -/
def waitKind : Option Wait → Nat
  | some (.sem _) => 1
  | some (.ring _ _ _) => 2
  | some (.barrier _ _ _) => 3
  | some .recv => 4
  | some .join => 5
  | some .regang => 6
  | some .fullEmpty => 8
  | some .watch => 9
  | some .evq => 10
  | some .stalledCall => 11
  | some .stepHold => 12
  | _ => 0

/-- A journal entry as its 256 bits (18 R374). -/
def JEntry.bits (e : JEntry) : BitVec 256 :=
  (e.addr ++ e.data ++ e.iclk ++ e.st ++ e.reason ++ BitVec.ofNat 5 e.lane ++ BitVec.ofNat 6 e.ctx ++ BitVec.ofNat 5 e.size ++
    BitVec.ofNat 10 e.opc : BitVec 256)

/-- The journal entries of a group that a save copies: refused and held ones, up to 8 (R379). -/
def State.refusals (s : State) (g : Group) : List JEntry :=
  ((s.core g.core).journal.toList.filterMap id |>.filter fun e => e.gid == g.gid && e.st.getLsbD 1).take 8

/-- A stack from the first entry pushed, its first sixteen being those in hardware. -/
def Slice.pushed (sl : Slice) : List StackEntry := sl.stack.reverse

/-- The header of a member's area. -/
def headerWord (g : Group) (sl : Slice) (nref : Nat) (valid : Bool) : Nat :=
  let parked := match g.run with | .stopped p _ => p | _ => false
  let kind := match g.run with | .stopped _ w => waitKind w | _ => 0
  let live := (g.lanes.filter fun l => l.live && l.no / 4 == sl.idx).foldl (fun m l => m + 2 ^ (l.no % 4)) 0
  1 + g.isG.toNat * 2 ^ 8 + valid.toNat * 2 ^ 9 + parked.toNat * 2 ^ 10 + (g.sp.status.getLsbD 7).toNat * 2 ^ 11 + kind * 2 ^ 12 +
    live * 2 ^ 16 + nref * 2 ^ 20 + min 16 sl.stack.length * 2 ^ 24 + sl.stack.length * 2 ^ 32 + (if g.isG then g.first else 0) * 2 ^ 48

/-- Words written one after another from an offset. -/
def State.pokeWords (s : State) (asid va n : Nat) (l : List Nat) : State :=
  l.zipIdx.foldl (fun s p => s.pokeVA asid (va + n * p.2) n p.1 false) s

/-- A capability or other value written as `st.cap` does. -/
def State.pokeCap (s : State) (asid va : Nat) (v : Val) : State := s.pokeVA asid va 16 v.bits.toNat (v.tag == .cap)

/-- The nineteen words of a member (R382). -/
def memberWords (g : Group) (sl : Slice) : List Nat :=
  ([g.sp.status, g.sp.cause, g.sp.tval, g.sp.lrun, g.sp.done, sl.fmode, sl.fmt, g.sp.mtime, g.sp.felim, g.sp.gstat] ++ sl.bp.toList ++
    sl.wp.toList ++ [sl.psamp]).map (·.toNat)

/-- A stream as it is saved: its base, x0 to x3 as bound, and its count. -/
def State.pokeStream (s : State) (asid va : Nat) : Option Stream → State
  | none => s.pokeWords asid va 16 [0, 0, 0, 0]
  | some st => (s.pokeCap asid va st.base).pokeWords asid (va + 16) 8 [st.stride.toNat, st.ctl.toNat, st.pad.toNat, st.ahead, st.count, 0]

/-- One slot of a save; an ABSENT register keeps the slot it has (R383). -/
def State.saveSlot (s : State) (asid va : Nat) (v : Val) : State := if v.tag = .absent then s else s.putSlot asid va v

/-- A member's area written, VALID last (R382, R383). -/
def State.saveMember (s : State) (g : Group) (sl : Slice) : State :=
  let asid := g.sp.asid.toNat
  let at_ (off : Nat) : Nat := sl.area + areaOff g.isG off
  let refs := s.refusals g
  let lanes := g.lanes.filter fun l => l.no / 4 == sl.idx
  let s0 := s.pokeVA asid sl.area 8 (headerWord g sl refs.length false) false
  -- the reserved words
  let s1 := ((s0.pokeWords asid (sl.area + 8) 8 (List.replicate 7 0)).pokeWords asid (at_ 0x870) 8 (List.replicate 2 0)).pokeWords
    asid (at_ 0x918) 8 (List.replicate 13 0)
  let s2 := lanes.foldl (fun s l => l.k.toList.zipIdx.foldl (fun s p => s.saveSlot asid (sl.area + slotOff g.isG l.no p.2) p.1) s) s1
  let s3 := sl.bank.toList.zipIdx.foldl (fun s p => s.saveSlot asid (at_ 0x740 + 32 * p.2) p.1) s2
  let s4 := (s3.pokeWords asid (at_ 0x7C0) 8 (g.x.toList.map (·.toNat))).pokeWords asid (at_ 0x800) 4 (g.m.toList.map (·.toNat))
  let caps := [withCursor g.codeCap g.pc, g.sp.epc, g.sp.tvec, g.sp.spill, g.sp.evq]
  let s5 := caps.zipIdx.foldl (fun s p => s.pokeCap asid (at_ 0x820 + 16 * p.2) p.1) s4
  let s6 := s5.pokeWords asid (at_ 0x880) 8 (memberWords g sl)
  let s7 := s6.pokeWords asid (at_ 0x980) 8 ((sl.pushed.take 16).map fun e => e.bits.toNat)
  let s8 := g.streams.toList.zipIdx.foldl (fun s p => s.pokeStream asid (at_ 0xA00 + 64 * p.2) p.1) s7
  let s9 := refs.zipIdx.foldl (fun s p =>
    s.pokeWords asid (at_ 0xC00 + 32 * p.2) 16 [p.1.bits.toNat % 2 ^ 128, p.1.bits.toNat / 2 ^ 128]) s8
  s9.pokeVA asid sl.area 8 (headerWord g sl refs.length true) false

/-! ### The crew block (18 R381) -/

/-- A crew's members in ascending order of context or slice number: the group's number and the slice's place. -/
def State.membersOf (s : State) (crew : Nat) : List (Nat × Nat) :=
  let ms := (s.crewGroups crew).flatMap fun g => g.slices.map fun sl => (sl.num, g.gid, sl.idx)
  (upFrom 0 64).filterMap fun n => (ms.find? fun m => m.1 == n).map (·.2)

/-- The offset of the member areas. -/
def memberBase (matrix : Bool) : Nat := if matrix then 0x10800 else 0x800
/-- The size of a member area. -/
def memberSize (isG : Bool) : Nat := if isG then 0x2200 else 0xD00
/-- The offset of the full/empty bitmap. -/
def Crew.f0 (c : Crew) : Nat := memberBase c.matrix + c.members * memberSize c.isG
/-- The offset of the local block. -/
def Crew.l0 (c : Crew) : Nat := (c.f0 + c.total / 64 + 255) / 256 * 256

/-- The base of a crew's region: its pool's base and the area taken. -/
def State.regionBase (s : State) (c : Crew) : Nat := ((s.ctx c.ctx).map (·.pool)).getD 0 + c.area

/-- STK, bits [27:26]: the code of the stack limit. -/
def stkCode (limit : Nat) : Nat := if limit = 16 then 0 else if limit = 64 then 1 else if limit = 128 then 2 else 3

/-- The address-space identifier of a crew's members. -/
def State.crewAsid (s : State) (crew : Nat) : Nat := ((s.crewGroups crew).head?.map (·.sp.asid.toNat)).getD 0

/-- The core-scope barriers of a crew's task: arrived members, generation and combined value (R381). -/
def State.barrierWords (s : State) (c : Crew) : List Nat :=
  (upFrom 0 32).flatMap fun n =>
    let b := s.barrier ⟨c.task, 0, c.core, decide (16 ≤ n), n % 16⟩
    [b.arrived.length + b.gen % 2 ^ 32 * 2 ^ 32, (b.values.foldl (fun w p => maxHalves w p.2) 0).toNat]

/-- The crew block written (R381). -/
def State.saveBlock (s : State) (c : Crew) : State :=
  let asid := s.crewAsid c.id
  let base := s.regionBase c
  let words :=
    [c.id % 2 ^ 32 + c.task % 2 ^ 32 * 2 ^ 32,
      asid + c.members * 2 ^ 16 + c.isG.toNat * 2 ^ 24 + c.matrix.toNat * 2 ^ 25 + stkCode c.limit * 2 ^ 26 + c.wdog % 2 ^ 32 * 2 ^ 32,
      c.total, 1 + s.pkg.firmware.rev.toNat * 2 ^ 8 + 2 ^ 24, 0, 0, 0, 0,
      c.rings.toList.zipIdx.foldl (fun n p => n + p.1.toNat * 2 ^ (8 * p.2)) 0, c.spillHead % 2 ^ 32 + (c.spillHead + c.spilled.length) % 2 ^ 32 * 2 ^ 32] ++ List.replicate 22 0
  let s1 := (s.pokeWords asid base 8 words).pokeWords asid (base + 0x100) 8 (s.barrierWords c)
  if !c.matrix then s1.pokeWords asid (base + 0x300) 8 (List.replicate 160 0)
  else
      let a := s.array c.core
      let s2 := a.blocks.toList.zipIdx.foldl (fun s p =>
        s.pokeWords asid (base + 0x300 + 272 * p.2) 16 ((upFrom 0 17).map fun k => p.1 / 2 ^ (128 * k) % 2 ^ 128)) s1
      let s3 := s2.pokeWords asid (base + 0x740) 8 (a.poison.toNat :: List.replicate 23 0)
      (upFrom 0 16384).foldl (fun s e => s.pokeVA asid (base + 0x800 + 4 * e) 4 ((mapGet e a.tiles).getD 0) false) s3

/-- The messages of a crew in its core's queue move to its spill area, ahead of newer ones (R379 step 5). -/
def State.spillQueue (s : State) (c : Crew) : State :=
  let mine := (s.core c.core).queue.filter fun m => m.crew == c.id
  let n := c.spillRecords
  let s1 := (s.mapCore c.core fun k => { k with queue := k.queue.filter fun m => m.crew != c.id }).mapCrew c.id fun c =>
    { c with spilled := mine ++ c.spilled, spillHead := if n = 0 then 0 else (c.spillHead + mine.length * (n - 1)) % n }
  (upFrom 0 mine.length).foldl (fun s j => s.putRecord c.id j) s1

/-- A group whose area has been written: its registers are no longer held on the core. -/
def Group.toSaved (g : Group) : Group :=
  { g with
    run := .saved (match g.run with | .stopped p _ => p | _ => false)
    stopReq := 0
    held := [] }

/-- A crew that has stopped and drained is saved (R379 to R383): its messages, its block and its members' areas; a refusal beyond
the eight that an area holds is reported (R375). -/
def State.drain (s : State) (crew : Nat) : State :=
  match s.crew crew with
  | none => s
  | some c =>
    let gs := s.crewGroups crew
    if !c.preempt || c.saved || c.switching != 0 || !(gs.all (·.isStopped)) || !s.drained crew ||
        decide (16 ≤ (s.core c.core).redirects.length) then s
    else
      let s0 := (s.spillQueue c).mapCrew crew fun c => { c with preempt := false, switching := 1 }
      let s1 := s0.saveBlock ((s0.crew crew).getD c)
      let s2 := gs.foldl (fun s g => g.slices.foldl (fun s sl => s.saveMember g sl) s) s1
      let kept := gs.flatMap s.refusals
      let free (e : Option JEntry) : Option JEntry := e.filter fun e => !kept.contains e
      let s3 := (s2.mapCore c.core fun k => { k with journal := k.journal.map free }).dropRefusals c.core (fun e => e.crew == crew) fun _ =>
        s.crewDest crew (s.fnOf c.task)
      gs.foldl (fun s g => s.mapGroup g.gid Group.toSaved) s3

/-! ### Switch steps (18 R384) -/

/-- The lowest-numbered member of a crew enters its handler for a switch step, in a group of its own. -/
def State.enterStep (s : State) (crew : Nat) : State :=
  match s.crew crew, (s.membersOf crew).head?.bind fun m => (s.group m.1).map fun g => (g, m.2) with
  | some c, some (g, idx) =>
    if (c.switching ≠ 1 ∧ c.switching ≠ 2) ∨ s.all.any (fun h => h.sp.crew == crew && h.switchStep != 0) then s
    else
      let k : List (Nat × Val) :=
        [(1, flatCap 0x1B (s.regionBase c + c.l0) c.total), (2, dataNat c.total), (3, dataNat (c.switching - 1)),
          (4, flatCap 0x1B (g.sp.mwb.toNat + c.core * 2 ^ 19 + c.lo) c.total)]
      let slices := (g.slices.filter fun sl => sl.idx == idx).map fun sl => { sl with bank := Vector.replicate 4 Val.zero, stack := [] }
      let lanes := (g.lanes.filter fun l => l.live && l.no / 4 == idx).map fun l => startLane l.no k
      let t := trap 0x33 (BitVec.ofNat 64 (c.switching - 1))
      let h : Group :=
        { Group.reset with
          gid := s.nextId
          gang := s.nextId
          core := c.core
          isG := g.isG
          role := g.role
          first := g.first
          spg := g.spg
          limit := g.limit
          lanes := lanes
          slices := slices
          sp := g.sp.enter t (withCursor g.codeCap g.pc)
          codeCap := g.sp.tvec
          pc := (capCursor g.sp.tvec.bits).setWidth 64
          run := .ready
          switchStep := c.switching }
      if g.sp.tvec.tag ≠ .cap ∨ capHas g.sp.tvec.bits .x = false then
        { s with
          groups := s.groups ++ [{ h with run := .resident }]
          sys := s.sys ++ [⟨c.core, crew, s.nextId, h.pc, 3, 21⟩]
          nextId := s.nextId + 1 }
      else { s with groups := s.groups ++ [h], nextId := s.nextId + 1 }
  | _, _ => s

/-- The full/empty bits of a crew's allocation written to the region, or set from it. -/
def State.saveBits (s : State) (c : Crew) : State :=
  let asid := s.crewAsid c.id
  (upFrom 0 (c.total / 64)).foldl (fun s n =>
    let byte := (upFrom 0 8).foldl (fun m b => m + (s.mem.isFull (localPA c.core (c.lo + 8 * (8 * n + b)))).toNat * 2 ^ b) 0
    s.pokeVA asid (s.regionBase c + c.f0 + n) 1 byte false) s

/-- The full/empty bits of a crew's allocation set from the region. -/
def State.restoreBits (s : State) (c : Crew) : State :=
  let asid := s.crewAsid c.id
  (upFrom 0 (c.total / 8)).foldl (fun s w =>
    let byte := s.readVA asid (s.regionBase c + c.f0 + w / 8) 1
    { s with mem := s.mem.setFull (localPA c.core (c.lo + 8 * w)) (byte / 2 ^ (w % 8) % 2 = 1) }) s

/-- Whether a partition's limits allow a crew's saved barriers and rings, and its binding the crew's function (R388, R389; 07
R146). -/
def State.limitsFit (s : State) (c : Crew) (core : Nat) : Bool :=
  match s.partition (quadOf core) with
  | none => true
  | some p =>
    let asid := s.crewAsid c.id
    let used (n : Nat) : Bool := s.readVA asid (s.regionBase c + 0x100 + 16 * n) 16 != 0
    (p.fn.isNone || p.fn == (s.ctx c.ctx).map (·.fn)) &&
      (upFrom 0 32).all (fun n => !used n || decide (n % 16 < (if n < 16 then p.plain else p.topmark))) &&
      (upFrom 0 4).all fun r => s.readVA asid (s.regionBase c + 0x40 + r) 1 == 0 || decide (r < p.rings)

/-- Whether a core can ever take a saved crew: it exists and is in service, is of the crew's kind, its local memory is as large, and its
partition allows it (R388). Core 1 of quad (15, 15) of die 0 runs the firmware (log 12). -/
def State.everFits (s : State) (c : Crew) (core : Nat) : Bool :=
  decide (core < 6144) && !s.pkg.deadDies.getLsbD (dieOf core) && decide (core % 4 < 2) != c.isG && decide (core ≠ 1021) &&
    decide (c.total ≤ localSize core) && s.limitsFit c core

/-- A saved crew enters a ready queue, with the age of its pre-emption (R388; 22 R437). DESIGN CHOICE: the spec does not say which
queue it waits in; it is that of its former quad, or else of the first quad with a core that can ever take it, and the die's overflow
list when that is full, however long (log 89). Where no core can ever take it, it is not restored, and a record says so. -/
def State.queueCrew (s : State) (crew : Nat) : State :=
  match s.crew crew with
  | none => s
  | some c =>
    let takes (quad : Nat) : Bool := (quadCores quad c.isG).any (s.everFits c)
    match (quadOf c.core :: upFrom 0 1536).find? takes with
    | none =>
      let d := match s.task c.task with | some t => s.launcherDest t | none => .host (((s.ctx c.ctx).map (·.fn)).getD 0)
      (s.mapCrew crew fun c => { c with switching := 3 }).emit .scheduler d (recordBits 6 8 0 (c.core % 256) 0x21)
    | some quad =>
      let inQueue := (s.queues.filter fun q => q.quad == quad && !q.overflow).length
      let e : QEntry :=
        { who := .crew crew, quad := quad, pri := ((s.task c.task).map (·.record.pri)).getD 0, left := 1, next := 0, since := c.since, passed := none,
          blocking := false, overflow := decide (32 ≤ inQueue), freed := true }
      { s with queues := s.queues ++ [e] }

/-- A save has ended (R384): the contexts, the allocation and the tiles are free, the core keeps a redirect (R380), and the crew waits
to be restored (R388). -/
def State.savedCrew (s : State) (c : Crew) : State :=
  let s1 := ((s.saveBits c).freeQuad c.core).mapCrew c.id fun c => { c with saved := true, switching := 0 }
  let spill := ((s.crewGroups c.id).head?.map (·.sp.spill)).getD Val.zero
  (s1.mapCore c.core fun k => { k with redirects := k.redirects ++ [⟨c.id, c.lo, c.lo + c.len, spill⟩] }).queueCrew c.id

/-! ### Restore (18 R385 to R388) -/

/-- The words and capabilities of a member read back (R382). -/
def State.loadSpecials (s : State) (g : Group) (sl : Slice) : Specials :=
  let asid := g.sp.asid.toNat
  let at_ (off : Nat) : Nat := sl.area + areaOff g.isG off
  let w (i : Nat) : Word := BitVec.ofNat 64 (s.readVA asid (at_ 0x880 + 8 * i) 8)
  let cap (i : Nat) : Val :=
    ⟨BitVec.ofNat 128 (s.readVA asid (at_ 0x820 + 16 * i) 16), if s.tagVA asid (at_ 0x820 + 16 * i) then .cap else .data⟩
  { g.sp with
    status := w 0
    cause := w 1
    tval := w 2
    lrun := w 3
    done := w 4
    mtime := w 7
    felim := w 8
    gstat := w 9
    epc := cap 1
    tvec := cap 2
    spill := cap 3
    evq := cap 4 }

/-- A stack entry read back; its code capability is the one kept with it (log 9). -/
def readEntry (n : Nat) (code : Val) : StackEntry :=
  { isJoin := n % 4 == 1
    pc := intWord (capBase code.bits + (n / 2 ^ 24 * 2 : Nat))
    code := code
    lmask := BitVec.ofNat 4 (n / 2 ^ 20)
    fmt := BitVec.ofNat 6 (n / 2 ^ 14)
    token := BitVec.ofNat 12 (n / 4) }

/-- A register at restore: a SYM slot is loaded with its new id, and every other is ABSENT (R385 step 4). -/
def State.loadSlot (s : State) (asid va slice : Nat) (ids : List (Nat × Nat × Nat)) : Val :=
  let v := s.getSlot asid va
  match v.record with
  | some r =>
    match ids.find? fun p => p.1 == slice && p.2.1 == r.id.toNat with
    | some p => symVal { r with id := BitVec.ofNat 6 p.2.2 }
    | none => v
  | none => ⟨0, .absent⟩

/-- A member's slice read back: its words, its stack from the area and the spill region, its bank as its registers. -/
def State.loadSlice (s : State) (g : Group) (ids : List (Nat × Nat × Nat)) (sl : Slice) : Slice :=
  let asid := g.sp.asid.toNat
  let at_ (off : Nat) : Nat := sl.area + areaOff g.isG off
  let w (i : Nat) : Word := BitVec.ofNat 64 (s.readVA asid (at_ 0x880 + 8 * i) 8)
  let vec (i : Nat) : Vector Word 4 := #v[w i, w (i + 1), w (i + 2), w (i + 3)]
  let depth := s.readVA asid (sl.area + 4) 2
  let entry (d : Nat) : StackEntry :=
    let n := if d < 16 then s.readVA asid (at_ 0x980 + 8 * d) 8 else s.mem.nat (localPA g.core (sl.spillAt + 8 * (d - 16))) 8
    readEntry n ((sl.pushed[d]?.map (·.code)).getD g.codeCap)
  { sl with
    fmode := w 5
    fmt := w 6
    bp := vec 10
    wp := vec 14
    psamp := w 18
    sampled := s.clk
    stack := ((upFrom 0 depth).map entry).reverse
    bank := sl.bank.mapIdx fun n _ => s.loadSlot asid (at_ 0x740 + 32 * n) sl.idx ids }

/-- A stream read back. -/
def State.loadStream (s : State) (asid va : Nat) : Option Stream :=
  if s.tagVA asid va then
    let w (i : Nat) : Nat := s.readVA asid (va + 16 + 8 * i) 8
    some ⟨⟨BitVec.ofNat 128 (s.readVA asid va 16), .cap⟩, BitVec.ofNat 64 (w 0), BitVec.ofNat 64 (w 1), BitVec.ofNat 64 (w 2), w 3, w 4, w 4⟩
  else none

/-- Fresh ids for the symbols of a restored group's receives, old with new, each from the pool of its slice, or of the core of a
strand, if it has them (03 R72, R76). -/
def freshIdsFor (n : Nat) : List Sym → List (Nat × Nat) → Option (List (Nat × Nat × Nat))
  | [], _ => some []
  | y :: t, taken => do
    let k ← leastFree ((taken.filter fun p => p.1 == y.slice).map (·.2)) n 0
    let rest ← freshIdsFor n t ((y.slice, k) :: taken)
    pure ((y.slice, y.id.toNat, k) :: rest)

/-- The fresh ids of a saved group's symbols on its core, if its pool has them. -/
def State.idsFor (s : State) (g : Group) : Option (List (Nat × Nat × Nat)) :=
  let taken := (s.all.filter fun h => h.core == g.core && !h.isG && !g.isG && !h.inArea).flatMap fun h =>
    (h.syms.map fun y => (0, y.id.toNat)) ++ h.pend.flatMap fun p => p.ids.map fun q => (0, q.2.toNat)
  freshIdsFor (if g.isG then 16 else 64) g.syms taken

/-- A lane's registers at restore. -/
def State.loadLane (s : State) (g : Group) (ids : List (Nat × Nat × Nat)) (l : Lane) : Lane :=
  match g.sliceOf l.no with
  | none => l
  | some sl =>
    { l with
      latch := []
      k := l.k.mapIdx fun n _ =>
        if n = 0 then Val.zero else s.loadSlot g.sp.asid.toNat (sl.area + slotOff g.isG l.no n) (l.no / 4) ids }

/-- A member's group is loaded and issues (R385 steps 4 and 6): specials, code capability, x and m registers, stacks,
streams, registers, and its refusals into the core's journal. A refusal whose trap its handler serves is known by its cause; any
other is taken once the group issues (R375). A group for whose symbols the core has no ids left stays in its area. -/
def State.loadGroup (s : State) (g : Group) : State :=
  match g.slices.head?, s.idsFor g with
  | none, _ => s
  | _, none => s
  | some sl, some ids =>
    let asid := g.sp.asid.toNat
    let at_ (off : Nat) : Nat := sl.area + areaOff g.isG off
    let code : Val := ⟨BitVec.ofNat 128 (s.readVA asid (at_ 0x820) 16), if s.tagVA asid (at_ 0x820) then .cap else .data⟩
    let sp := s.loadSpecials g sl
    let priv := statusPriv sp.status
    let new (slice id : Nat) : BitVec 6 :=
      BitVec.ofNat 6 (((ids.find? fun p => p.1 == slice && p.2.1 == id).map (·.2.2)).getD id)
    let nref := s.readVA asid (sl.area + 2) 1 / 16
    let bits (k : Nat) : Nat := s.readVA asid (at_ 0xC00 + 32 * k) 16 + s.readVA asid (at_ 0xC00 + 32 * k + 16) 16 * 2 ^ 128
    let held (k : Nat) : Bool := bits k / 2 ^ 30 % 4 == 3
    let refs := (upFrom 0 nref).map fun k =>
      let n := bits k
      let st : BitVec 2 := if held k then 3 else 2
      let served := priv != 0 && sp.cause == 0x18 && !held k && (upFrom 0 k).all held
      ({ addr := BitVec.ofNat 64 (n / 2 ^ 192), data := BitVec.ofNat 128 (n / 2 ^ 64), iclk := BitVec.ofNat 32 (n / 2 ^ 32), st := st,
         reason := BitVec.ofNat 4 (n / 2 ^ 26), lane := n / 2 ^ 21 % 32, ctx := sl.num, size := n / 2 ^ 10 % 32, opc := n % 1024,
         gid := g.gid, crew := g.sp.crew, task := g.sp.task, level := if held k then 0 else priv, src := g.core * 64 + sl.num, taken := served } : JEntry)
    let parked := match g.run with | .saved p => p | _ => false
    let h : Group :=
      { g with
        lanes := g.lanes.map (s.loadLane g ids)
        slices := g.slices.map (s.loadSlice { g with codeCap := code } ids)
        sp := sp
        codeCap := code
        pc := (capCursor code.bits).setWidth 64
        x := g.x.mapIdx fun n _ => BitVec.ofNat 64 (s.readVA asid (at_ 0x7C0 + 8 * n) 8)
        m := g.m.mapIdx fun n _ => BitVec.ofNat 32 (s.readVA asid (at_ 0x800 + 4 * n) 4)
        streams := g.streams.mapIdx fun n _ => s.loadStream asid (at_ 0xA00 + 64 * n)
        syms := g.syms.map fun y => { y with id := new y.slice y.id.toNat }
        run := if parked then .parked else .ready }
    let s1 := s.mapGroup g.gid fun _ => h
    let s2 : State :=
      { s1 with
        recvs := s1.recvs.map fun r =>
          if r.gang = g.gang ∧ g.lanes.any (fun l => l.no == r.lane) then
            { r with syms := r.syms.map fun p => (p.1, new p.1 p.2.toNat), ctx := ((h.sliceOf r.lane).map (·.num)).getD r.ctx }
          else r }
    refs.foldl (fun s e => s.mapCore g.core fun c =>
      match c.freeEntry with
      | some n => { c with journal := c.journal.setIfInBounds n (some e), next := (n + 1) % 64 }
      | none => c) s2

/-- The members of a crew that are not parked are loaded (R385, R387). -/
def State.loadMembers (s : State) (crew : Nat) : State :=
  (s.crewGroups crew).foldl (fun s g => if g.run = .saved false then s.loadGroup g else s) s

/-- A restored crew's core-scope barriers move with it. -/
def State.moveBarriers (s : State) (c : Crew) (core : Nat) : State :=
  let mine := (s.crewGroups c.id).flatMap Group.parts
  (upFrom 0 32).foldl (fun s n =>
    let k : BarKey := ⟨c.task, 0, c.core, decide (16 ≤ n), n % 16⟩
    match s.barriers.find? fun b => b.key == k with
    | none => s
    | some b =>
      let k' : BarKey := { k with inst := core }
      let gone (l : List (Nat × Nat)) := l.filter fun p => !mine.contains p
      let here := b.arrived.filter mine.contains
      let s1 := s.setBarrier { b with arrived := gone b.arrived, values := b.values.filter fun v => !(mine.any fun p => p.1 == v.1) }
      let b' := s1.barrier k'
      s1.setBarrier { b' with
        gen := max b.gen b'.gen
        arrived := b'.arrived ++ here
        values := b'.values ++ b.values.filter fun v => mine.any fun p => p.1 == v.1
        last := b.last }) s

/-- Whether every member area of a crew is one this part restores: FORMAT, VALID and REV (R385 step 1). -/
def State.areasValid (s : State) (c : Crew) : Bool :=
  let asid := s.crewAsid c.id
  s.readVA asid (s.regionBase c + 0x18) 4 % 2 ^ 25 == 1 + s.pkg.firmware.rev.toNat * 2 ^ 8 + 2 ^ 24 &&
    (s.membersOf c.id).all fun m =>
      match (s.group m.1).bind fun g => g.sliceOf (4 * m.2) with
      | some sl => s.readVA asid sl.area 2 % 2 ^ 8 == 1 && s.readVA asid sl.area 2 / 2 ^ 9 % 2 == 1
      | none => false

/-- The refusals that the areas of a crew hold: NREF of each group (R382). -/
def State.savedRefusals (s : State) (crew : Nat) : Nat :=
  ((s.crewGroups crew).map fun g => match g.slices.head? with | some sl => s.readVA g.sp.asid.toNat (sl.area + 2) 1 / 16 | none => 0).sum

/-- The slots of a restored crew's members on a core, and where its memory lies, if the core can take it (R385): it has the slots,
the journal entries, the ids and the array that they need. -/
def State.restoreFit (s : State) (c : Crew) (core : Nat) : Option (List Nat × Nat) :=
  let members := (s.membersOf c.id).length
  let k := s.core core
  let samp := (s.crewGroups c.id).any fun g => g.sp.status.getLsbD 7
  let free := if samp then (s.freeSlots core c.isG).filter (· == 22) else s.freeSlots core c.isG
  let refs := (k.journal.toList.filter (·.isNone)).length
  let ids := (s.crewGroups c.id).flatMap (·.syms)
  let live := (s.all.filter fun h => h.core == core && !h.isG && !h.inArea).flatMap fun h => h.syms.map (·.id) ++ h.pend.flatMap fun p => p.ids.map (·.2)
  if decide (free.length < members) || k.stopped || k.fenced || !s.everFits c core || decide (refs < s.savedRefusals c.id) ||
      (!c.isG && decide (64 < ids.length + live.length)) || (c.matrix && s.crews.any fun x => x.core == core && x.matrix && !x.saved) then none
  else (lowestFit (localSize core) c.total (s.localUsed core)).map fun lo => (free.take members, lo)

/-- A saved crew's matrix state is loaded into the core's array (R385 step 2). -/
def State.loadArray (s : State) (c : Crew) (core asid base : Nat) : State :=
  if !c.matrix then s
  else
    s.mapArray core fun a =>
      { a with
        poison := BitVec.ofNat 16 (s.readVA asid (base + 0x740) 8)
        blocks := a.blocks.mapIdx fun n _ => (upFrom 0 17).foldl (fun v k => v + s.readVA asid (base + 0x300 + 272 * n + 16 * k) 16 * 2 ^ (128 * k)) 0
        tiles := (upFrom 0 16384).foldl (fun m e =>
          let v := s.readVA asid (base + 0x800 + 4 * e) 4
          if v = 0 then m else mapSet e v m) [] }

/-- A saved crew is placed on a core and its block loaded (R385 steps 1 and 2); its memory is restored by a switch
step, and its members issue after it. Members whose return has been written since are loaded (R387). -/
def State.restore (s : State) (crew core : Nat) : State :=
  match s.crew crew with
  | none => s
  | some c =>
    if !c.saved then (if c.switching = 0 then s.loadMembers crew else s)
    else if c.switching ≠ 0 then s
    else if !s.areasValid c then
      let d := match s.task c.task with | some t => s.launcherDest t | none => .host 0
      (s.mapCrew crew fun c => { c with switching := 3 }).emit .scheduler d (recordBits 6 0x0B 0 (core % 256) (BitVec.ofNat 64 crew))
    else
      match s.restoreFit c core with
      | none => s
      | some (slots, lo) =>
        let asid := s.crewAsid crew
        let base := s.regionBase c
        let order := s.membersOf crew
        let slot (gid idx : Nat) : Nat := slots.getD (order.takeWhile fun m => m != (gid, idx)).length 0
        -- the lowest slice of the whole gang
        let lowest (g : Group) : Nat :=
          (((s.crewGroups crew).filter fun h => h.gang == g.gang).flatMap fun h => h.slices.map fun sl => slot h.gid sl.idx).foldl min 64
        let place (g : Group) : Group :=
          let slices := g.slices.map fun sl => { sl with num := slot g.gid sl.idx, spillAt := lo + (sl.spillAt - c.lo) }
          { g with
            core := core
            slices := slices
            first := lowest g
            arrivals := g.arrivals.map fun a => if a.key.scope = 0 then { a with key := { a.key with inst := core } } else a }
        let s1 := s.moveBarriers c core
        let s2 := ((s1.crewGroups crew).foldl (fun s g => s.mapGroup g.gid place) s1).loadArray c core asid base
        let rings := s.readVA asid (base + 0x40) 8
        let s3 := s2.mapCrew crew fun c =>
          { c with
            core := core
            lo := lo
            evq := c.evq.map fun pa => localPA core (lo + (pa % 2 ^ 19 - c.lo))
            rings := c.rings.mapIdx fun r _ => BitVec.ofNat 8 (rings / 2 ^ (8 * r))
            wdog := s.readVA asid (base + 12) 4
            seen := s.readVA asid (base + 12) 4
            saved := false
            switching := 2 }
        -- records held for its queue follow it
        let moved (d : RecDest) : RecDest :=
          match d with
          | .queue pa n => if n = crew then .queue (localPA core (lo + (pa % 2 ^ 19 - c.lo))) n else d
          | d => d
        { s3 with
          records := s3.records.map fun r => { r with dest := moved r.dest }
          queues := s3.queues.filter fun q => q.who != .crew crew }

/-- A restore has ended (R385 steps 3 to 6): the full/empty bits are set, the redirect is removed, and the members are
loaded. -/
def State.restoredCrew (s : State) (c : Crew) : State :=
  let s1 := (s.restoreBits c).mapCrew c.id fun c => { c with switching := 0 }
  let s2 : State := { s1 with cores := s1.cores.map fun k => { k with redirects := k.redirects.filter fun r => r.crew != c.id } }
  let s3 := s2.loadMembers c.id
  -- records held for its queue meanwhile are written now
  match c.evq with
  | some pa => s3.flushQueue pa
  | none => s3

/-- `halt` in a switch step ends it (R384): the group of the step is gone. -/
def State.endStep (s : State) : State :=
  let n := s.g.switchStep
  let crew := s.g.sp.crew
  let s1 := s.dropGroup s.g.gid
  match s1.crew crew with
  | none => s1
  | some c => if n = 1 then s1.savedCrew c else s1.restoredCrew c

/-- What a quad takes of what is queued there (15 R319): crews of a record or gang, or a saved crew, which is restored (R385). -/
def State.takeAny (s : State) (who : Placing) (quad n left next : Nat) : State × Nat × Nat :=
  match who with
  | .crew id =>
    match s.crew id with
    | none => (s, 0, next)
    | some c =>
      match (quadCores quad c.isG).find? fun k => (s.restoreFit c k).isSome with
      | some k => (s.restore id k, 0, next)
      | none => (s, left, next)
  | who => s.take who quad n left next

/-- The slot of an ABSENT register arrives (18 R386). -/
def State.missArrives (s : State) (gid lane reg : Nat) : State :=
  if !s.misses.contains (gid, lane, reg) then s
  else
    let s1 : State := { s with misses := s.misses.filter (· != (gid, lane, reg)) }
    match s1.group gid with
    | none => s1
    | some g =>
      match g.slotVA lane reg with
      | none => s1
      | some va =>
        let v := s1.getSlot g.sp.asid.toNat va
        if 64 ≤ reg then
          s1.mapGroup gid fun g => g.mapSlice (lane / 4) fun sl =>
            if (sl.bank.toList.getD (reg - 64 - 52) Val.zero).tag = .absent then { sl with bank := sl.bank.setIfInBounds (reg - 64 - 52) v } else sl
        else
          s1.mapGroup gid fun g => g.mapLane lane fun l =>
            if (l.reg (BitVec.ofNat 6 reg)).tag = .absent then l.setReg (BitVec.ofNat 6 reg) v else l

end Sys2Proof.Machine
end

