-- ==== Sys2Proof/Machine/Quant.lean ====
section
/-! DEFINITION. The format register and the quantisation instructions (02 R50 to R55; 16 R324 to R327). -/

namespace Sys2Proof.Machine

/-! ### Quantisation (02 R52 to R55) -/

/-- p/q rounded to an integer, ties to even. -/
def rneInt (p : Int) (q : Nat) : Int :=
  let f := p / (q : Int)
  let r := p % (q : Int)
  if 2 * r < q then f else if (q : Int) < 2 * r then f + 1 else if f % 2 = 0 then f else f + 1

/-- An integer held between bounds. -/
def clampInt (lo hi v : Int) : Int := if v < lo then lo else if hi < v then hi else v

/-- The quotient of two exact values m1·2^e1 and m2·2^e2, m2 ≠ 0, as a fraction. -/
def quotient (m1 e1 m2 e2 : Int) : Int × Nat :=
  (m1 * m2.sign * (2 ^ (e1 - e2).toNat : Nat), m2.natAbs * 2 ^ (e2 - e1).toNat)

/-- The scale's format under SF. -/
def scaleFmt (sf : Bool) : FpFmt := fpFmt (if sf then bf16 else f16)

/-- A non-negative value m·2^e over an integer, in the scale's format. -/
def scaleOf (sf : Bool) (m : Nat) (e : Int) (d : Nat) : Nat := if m = 0 then 0 else (divExact (scaleFmt sf) 0 false m d e).bits

/-- `Qscale` (R53): the scale's bits and the zero point. -/
def qscale (mx mn : Nat) (b : Nat) (zp sf : Bool) : Nat × Nat :=
  let f := fpFmt f32
  let g := scaleFmt sf
  if f.isNan mx || f.isNan mn then (g.qnan, 0)
  else
    let pos (x : Nat) : Bool := !f.sign x && !f.isZero x
    let neg (x : Nat) : Bool := f.sign x && !f.isZero x
    let hi : Int × Int := if pos mx then fpRat f mx else (0, 0)
    let lo : Int × Int := if neg mn then fpRat f mn else (0, 0)
    let inf := (pos mx && f.isInf mx) || (neg mn && f.isInf mn)
    let e := min hi.2 lo.2
    let h := hi.1 * (2 ^ (hi.2 - e).toNat : Nat)
    let l := lo.1 * (2 ^ (lo.2 - e).toNat : Nat)
    let scale :=
      if inf then g.inf false
      else if zp then scaleOf sf (h - l).toNat e (2 ^ b - 1)
      else scaleOf sf (max h.natAbs l.natAbs) e (2 ^ (b - 1) - 1)
    let z :=
      if g.isZero scale || notFinite g scale then (if zp then 0 else 2 ^ (b - 1))
      else if zp then
        let (ms, es) := fpRat g scale
        let (p, q) := quotient (-lo.1) lo.2 ms es
        (clampInt 0 (2 ^ b - 1) (rneInt p q)).toNat
      else 2 ^ (b - 1)
    (scale, z)

/-- `Quant` (R54) of an FP32 element. -/
def quantise (x scale z b : Nat) (sf : Bool) : Nat :=
  let f := fpFmt f32
  let g := scaleFmt sf
  if g.isZero scale || notFinite g scale || f.isNan x then z
  else if f.isInf x then (if f.sign x then 0 else 2 ^ b - 1)
  else
    let (mx, ex) := fpRat f x
    let (ms, es) := fpRat g scale
    let (p, q) := quotient mx ex ms es
    (clampInt 0 (2 ^ b - 1) (rneInt p q + z)).toNat

/-- `Dequant` (R54) to FP32; a zero has the sign of its product (log 67). -/
def dequantise (q scale z : Nat) (sf : Bool) : Nat :=
  let f := fpFmt f32
  let g := scaleFmt sf
  let d : Int := (q : Int) - z
  if g.isNan scale then carryNan g f scale
  else if g.isInf scale then (if d = 0 then f.qnan else f.inf (g.sign scale != decide (d < 0)))
  else
    let (ms, es) := fpRat g scale
    if ms * d = 0 then f.zero (g.sign scale != decide (d < 0)) else (roundNz f 0 (decide (ms * d < 0)) (ms * d).natAbs es false).bits

/-- The ordered key of an FP32 value (R55). -/
def key32 (w : Nat) : Nat := if w < 2 ^ 31 then w + 2 ^ 31 else 2 ^ 32 - 1 - w % 2 ^ 32

/-- The value of an ordered key. -/
def unkey32 (k : Nat) : Nat := if 2 ^ 31 ≤ k then k % 2 ^ 31 else 2 ^ 32 - 1 - k

/-- An FP32 value with its sign inverted. -/
def negate32 (w : Nat) : Nat := if w < 2 ^ 31 then w + 2 ^ 31 else w - 2 ^ 31

/-- `qmax` (16 R325). -/
def foldExtremes (a : Word) (x : Nat) : Word :=
  (BitVec.ofNat 32 (max (a.extractLsb' 32 32).toNat (key32 x)) ++ BitVec.ofNat 32 (max (a.extractLsb' 0 32).toNat (key32 (negate32 x))) : BitVec 64)

/-- The packed scale word of a contribution (16 R326). -/
def packedScale (a : Word) (fmt : Word) : Word :=
  let mx := unkey32 (a.extractLsb' 32 32).toNat
  let mn := negate32 (unkey32 (a.extractLsb' 0 32).toNat)
  let (sc, z) := qscale mx mn (fmtBits fmt) (fmtZP fmt) (fmtSF fmt)
  BitVec.ofNat 64 (z * 2 ^ 16 + sc)

/-! ### Salient pairs (16 R327) -/

/-- The score of an element: a NaN ranks above every number. -/
def saliency (w g : Nat) : Nat :=
  let f := fpFmt bf16
  let r := (fpMul f 0 w g).bits
  if f.isNan r then 2 ^ 16 else r % 2 ^ 15

/-- The position of the greatest score of a list, the lowest among equals; the first number is that of the head. -/
def bestOf : Nat → List (Option Nat) → Option (Nat × Nat)
  | _, [] => none
  | n, x :: t =>
    match x, bestOf (n + 1) t with
    | some a, some (m, b) => if b ≤ a then some (n, a) else some (m, b)
    | some a, none => some (n, a)
    | none, r => r

/-- `salient`. -/
def salientPair (a b : Word) : Word :=
  let el (w : Word) (i : Nat) : Nat := (w.extractLsb' (16 * i) 16).toNat
  let s := (upFrom 0 4).map fun i => some (saliency (el a i) (el b i))
  let p := ((bestOf 0 s).map (·.1)).getD 0
  let q := ((bestOf 0 (s.set p none)).map (·.1)).getD 0
  let lo := min p q
  let hi := max p q
  BitVec.ofNat 64 ((2 ^ lo + 2 ^ hi) * 2 ^ 32 + el a hi * 2 ^ 16 + el a lo)

/-! ### Forms -/

/-- A form that needs an element type takes an encoding trap while ET = 00 in an executing lane (02 R51). -/
def etTrap (i : Instr) (s : State) : Option Trap :=
  if (s.g.execs (isUniform i)).any fun l => fmtET (s.g.fmt l.no) == 0 then some (trapEnc i.word (s.g.encDist (readsLatch i))) else none

/-- A quantisation form lane by lane; it raises no flag (16 R326). -/
noncomputable def quantForm (i : Instr) (et : Bool) (f : Group → Lane → Word) (s : State) : Host.Outcome State Fault Refusal :=
  issue i strict (fun s => if et then etTrap i s else none)
    (laneAct i fun g l => some (dataWord (f g l), Flags.zero)) s

/-- The low 32 bits of an operand. -/
def lo32 (v : Val) : Nat := (v.bits.extractLsb' 0 32).toNat

/-- SCALE of a packed word. -/
def packScale (w : Word) : Nat := (w.extractLsb' 0 16).toNat
/-- Z of a packed word. -/
def packZ (w : Word) : Nat := (w.extractLsb' 16 8).toNat

/-- `fmt.set` (16 R324): every slice's value is checked before any is written. -/
noncomputable def fmtSetAct (i : Instr) (a : BitVec 6) (s : State) : Act :=
  let vals := (s.g.slices.filterMap fun sl => s.g.acts.find? fun l => l.no / 4 == sl.idx).map fun l => (l.no, (s.g.read l a).word)
  if vals.any fun p => fmtReserved p.2 then .trap s (trapEnc i.word (s.g.encDist (readsLatch i)))
  else withFollower i s fun s =>
    .done { s with
      g := { s.g with slices := s.g.slices.map fun sl =>
        match vals.find? fun p => p.1 / 4 == sl.idx with
        | some p => { sl with fmt := p.2 }
        | none => sl } }


/-- FMT_SET (R324): Writes the format register, checked for reserved values. -/
noncomputable def execFmtSet (a : BitVec 6) (s : State) : Host.Outcome State Fault Refusal :=
  issue (.fmtSet a) strict (fun _ => none) (fmtSetAct (.fmtSet a) a) s

/-- FMT_GET (R324): Reads the format register into d. -/
noncomputable def execFmtGet (d : BitVec 6) (u : Bool) (s : State) : Host.Outcome State Fault Refusal :=
  quantForm (.fmtGet d u) false (fun g l => g.fmt l.no) s

/-- QMAX (R325): Folds an FP32 element into a max/min key contribution. -/
noncomputable def execQmax (b : BitVec 6) (a : BitVec 6) (d : BitVec 6) (u : Bool) (s : State) : Host.Outcome State Fault Refusal :=
  quantForm (.qmax b a d u) false (fun g l => foldExtremes (g.read l a).word (lo32 (g.read l b))) s

/-- QSCALE (R326): Derives a packed scale and zero point from a key contribution. -/
noncomputable def execQscale (a : BitVec 6) (d : BitVec 6) (u : Bool) (s : State) : Host.Outcome State Fault Refusal :=
  quantForm (.qscale a d u) true (fun g l => packedScale (g.read l a).word (g.fmt l.no)) s

/-- QUANT (R326): Quantises an FP32 value with a packed scale word. -/
noncomputable def execQuant (b : BitVec 6) (a : BitVec 6) (d : BitVec 6) (u : Bool) (s : State) : Host.Outcome State Fault Refusal :=
  quantForm (.quant b a d u) true (fun g l =>
    let w := (g.read l b).word
    BitVec.ofNat 64 (quantise (lo32 (g.read l a)) (packScale w) (packZ w) (fmtBits (g.fmt l.no)) (fmtSF (g.fmt l.no)))) s

/-- DEQUANT (R326): Dequantises a code to FP32 with a packed scale word. -/
noncomputable def execDequant (b : BitVec 6) (a : BitVec 6) (d : BitVec 6) (u : Bool) (s : State) : Host.Outcome State Fault Refusal :=
  quantForm (.dequant b a d u) true (fun g l =>
    let w := (g.read l b).word
    let f := g.fmt l.no
    BitVec.ofNat 64 (dequantise ((g.read l a).word.toNat % 2 ^ fmtBits f) (packScale w) (packZ w) (fmtSF f))) s

/-- SALIENT (R327): Keeps the two most salient of four weights with their 2:4 nibble. -/
noncomputable def execSalient (b : BitVec 6) (a : BitVec 6) (d : BitVec 6) (u : Bool) (s : State) : Host.Outcome State Fault Refusal :=
  quantForm (.salient b a d u) false (fun g l => salientPair (g.read l a).word (g.read l b).word) s

end Sys2Proof.Machine
end

