-- ==== Sys2Proof/Machine/Spans.lean ====
section
/-! DEFINITION. What engines share (12 R255, R256; 15 R306, R307): spans of indices as runs of addresses, their pages
captured at issue, bytes read at their homes, and lines owned, written and released. -/

namespace Sys2Proof.Machine

/-- The runs of addresses of `n` consecutive indices, each within a 4 KiB page and a granule (01 R19 to R21). -/
def spanRuns (w : BitVec 7) : Nat → Int → Nat → List (Nat × Nat)
  | 0, _, _ => []
  | f + 1, ix, n =>
    if n = 0 then []
    else
      let a := spreadInt w ix
      let gran : Nat := 64 * 2 ^ walkGran w
      let len := min n (if walkOrder w = 0 then 4096 - a % 4096 else min (gran - (ix % (gran : Int)).toNat) (4096 - a % 4096))
      (a, len) :: spanRuns w f (ix + len) (n - len)

/-- The runs of a span that begins `off` indices after a capability's cursor. -/
def capRuns (v : Val) (off : Int) (n : Nat) : List (Nat × Nat) := spanRuns (capWalk v.bits) (n + 1) (index v + off) n

/-- The addresses of some runs. -/
def runAddrs (rs : List (Nat × Nat)) : List Nat := rs.flatMap fun r => upFrom r.1 r.2

/-- Where the page of a place lies, for an engine that captures it now (log 16). -/
def State.xhome (s : State) (pkg : Option (BitVec 8)) : XHome :=
  match pkg with
  | none => .here
  | some k => if (s.routeTo k).isNone then .cut else .away (s.clk * 256 + k.toNat)

/-- The pages of some runs, or what stopped the first that fails: of every page its entry gives the kind, and in another package
the place too (11 R231). -/
def State.capture (s : State) (g : Group) (need : Need) (ok : Nat → Bool) : List (Nat × Nat) → List XPage ⊕ (Nat × Chk)
  | [] => .inl []
  | (a, n) :: t =>
    match resolveAddr s g a n need with
    | .ok p =>
      if !ok p.pa then .inr (a, .trap (trap 0x09 (BitVec.ofNat 64 a)))
      else
        match s.capture g need ok t with
        | .inl ps =>
          let x : XPage := ⟨a / 4096, p.pa / 4096, p.key, s.xhome p.pkg⟩
          .inl (if ps.any fun q => q.vpage == x.vpage then ps else x :: ps)
        | .inr e => .inr e
    | c => .inr (a, c)

/-- Where a captured span's byte lies, if in this package. -/
def xpa (ps : List XPage) (va : Nat) : Option (Nat × Option Nat) :=
  match ps.find? fun p => p.vpage == va / 4096 with
  | some p => if p.home = .here then some (p.ppage * 4096 + va % 4096, p.key) else none
  | none => none

/-- Where a captured span's byte lies in another package that a route leads to: the number of its free values and the
physical address. -/
def xfar (ps : List XPage) (va : Nat) : Option (Nat × Nat) :=
  match ps.find? fun p => p.vpage == va / 4096 with
  | some p => match p.home with | .away n => some (n, p.ppage * 4096 + va % 4096) | _ => none
  | none => none

/-- A byte of a captured span and whether its line is poisoned; one that cannot be reached is poisoned. -/
def Memory.xbyte (m : Memory) (ps : List XPage) (va : Nat) : Byte × Bool :=
  match xpa ps va with
  | some (pa, key) => (m.byte pa, m.lineBad pa key)
  | none =>
    match xfar ps va with
    | some (n, pa) => (Config.farByte n pa, Config.farPoison n (pa / 64))
    | none => (0, true)

/-- Bytes at addresses as a number. -/
def Memory.xnat (m : Memory) (ps : List XPage) (vas : List Nat) : Nat := leNat (vas.map fun a => (m.xbyte ps a).1)

/-- Whether any byte at some addresses lies in a poisoned line. -/
def Memory.xbad (m : Memory) (ps : List XPage) (vas : List Nat) : Bool := vas.any fun a => (m.xbyte ps a).2

/-- The lines of some runs by number. -/
def xlines (ps : List XPage) (rs : List (Nat × Nat)) : List Nat :=
  (rs.flatMap fun r => (upFrom (r.1 / 64) ((r.1 + r.2 - 1) / 64 - r.1 / 64 + 1)).filterMap fun l =>
    (xpa ps (max r.1 (l * 64))).map fun p => p.1 / 64).eraseDups

/-- An operation owns its destination lines from its issue (12 R255). -/
def State.own (s : State) (op : Nat) (lines : List Nat) : State := { s with owned := s.owned ++ lines.map fun l => (l, op) }

/-- The lines an operation still owns are released. -/
def State.disown (s : State) (op : Nat) : State := { s with owned := s.owned.filter fun o => o.2 != op }

/-- One line is released. -/
def State.disownLine (s : State) (op line : Nat) : State := { s with owned := s.owned.filter fun o => o != (line, op) }

/-- The virtual address of the line of a byte whose home refuses a read that an engine of a core's die makes, or to which no route leads (11 R237; 15
R307; 22 R427). -/
def State.readRefused (s : State) (core : Nat) (ps : List XPage) (va : Nat) : Option Word :=
  let line : Word := BitVec.ofNat 64 (va / 64 * 64)
  match xpa ps va with
  | some (pa, _) => if (s.refusalFrom (dieOf core) (.load 1 false false) pa).isSome then some line else none
  | none => if (xfar ps va).isSome then none else some line

/-- Whether such a read of bytes at some addresses gives poison: a line is poisoned, or its home refuses the read (11 R236, R237; 22
R427). -/
def State.xbad (s : State) (core : Nat) (ps : List XPage) (vas : List Nat) : Bool :=
  s.mem.xbad ps vas || vas.any fun a => (s.readRefused core ps a).isSome

/-- The accesses of an engine to lines of another package leave as flits, a read or a write for each line (22 R429); what they give is a
free value (log 16). -/
def State.farFlits (s : State) (core kind : Nat) (ps : List XPage) (bytes : List (Nat × Byte)) : State :=
  let far := bytes.filterMap fun b => (xfar ps b.1).map fun p => (p.1, p.2, b.2)
  (far.map fun p => (p.1, p.2.1 / 64)).eraseDups.foldl (fun s l =>
    let mine := far.filter fun p => p.1 == l.1 && p.2.1 / 64 == l.2
    let mask : BitVec 64 := mine.foldl (fun m p => m ||| BitVec.ofNat 64 (2 ^ (p.2.1 % 64))) 0
    let line := (upFrom 0 64).map fun k => match mine.find? fun p => p.2.1 % 64 == k with | some p => p.2.2 | none => 0
    s.sendFlit kind (BitVec.ofNat 8 l.1) core (homeCore (l.2 * 64)) (l.2 * 64) mask 0 (if kind = 2 then line else [])) s

/-- An engine's read of bytes at some addresses: their lines are handed over, by a port of a local memory, or asked of another package (07
R151; 11 R235, R236; 22 R429). -/
def State.readLines (s : State) (core : Nat) (ps : List XPage) (vas : List Nat) : State :=
  let lines := (vas.filterMap fun a => (xpa ps a).map fun p => (p.1 / 64, p.2)).eraseDups
  (lines.foldl (fun s l => (s.handOver (.load 64 false false) (l.1 * 64) l.2).takesPort (l.1 * 64)) s).farFlits core 0 ps (vas.map fun a => (a, 0))

/-- A line written by an engine of a core's die: bytes by address, whether it becomes poisoned, and the key. A refusal of the home is
its REASON; a partial write of a poisoned line is refused (11 R236; 15 R307). -/
def State.writeLine (s0 : State) (core line : Nat) (bytes : List (Nat × Byte)) (poison : Bool) (key : Option Nat) :
    State × Option (BitVec 4) :=
  let pa := line * 64
  let whole := decide (64 ≤ (bytes.map (·.1)).eraseDups.length)
  match s0.refusalFrom (dieOf core) .zero pa with
  | some r => (s0, some r)
  | none =>
    let s := if whole then s0 else s0.handOver (.load 64 false false) pa key
    if s.mem.poisoned pa 1 && !whole && !poison then (s, some (if s0.mem.poisoned pa 1 then 3 else 4))
    else
      let m1 := bytes.foldl (fun m b => (m.setByte b.1 b.2).clearTags b.1 1) (s.takesPort pa).mem
      let m2 := if poison then m1.poisonLine pa else if whole then m1.heal pa else m1
      let s1 : State := { (s.takesPort pa) with mem := m2.underKey pa key }
      let s2 := bytes.foldl (fun s b => s.noticed 0 b.1 1) s1
      ({ s2 with creators := s2.creators.filter fun c => !bytes.any fun b => decide (c.pa ≤ b.1 ∧ b.1 < c.pa + 32) }, none)

/-- One owned line of an operation written at its home, or the REASON of a refusal: the bytes by virtual address. -/
def State.writeOwned (s : State) (core op : Nat) (ps : List XPage) (bytes : List (Nat × Byte)) (poison : Bool) (line : Nat) :
    State × Option (BitVec 4) :=
  let here := bytes.filterMap fun b => match xpa ps b.1 with | some (pa, k) => if pa / 64 = line then some (pa, b.2, k) else none | none => none
  let key := match here with | (_, _, k) :: _ => k | [] => none
  match s.writeLine core line (here.map fun p => (p.1, p.2.1)) poison key with
  | (s1, none) => (s1.disownLine op line, none)
  | r => r

/-- The virtual address of the line at which some bytes lie. -/
def lineVA (ps : List XPage) (bytes : List (Nat × Byte)) (line : Nat) : Word :=
  BitVec.ofNat 64 (match bytes.find? fun b => match xpa ps b.1 with | some (pa, _) => pa / 64 == line | none => false with
    | some b => b.1 / 64 * 64
    | none => 0)

/-- The lines an operation still owns. -/
def State.ownedLines (s : State) (op : Nat) : List Nat := (s.owned.filter fun o => o.2 == op).map (·.1)

/-- A line, if an operation still owns it. -/
def State.ownedLine (s : State) (op line : Nat) : List Nat := if (s.ownedLines op).contains line then [line] else []

/-- Owned lines of an operation written one by one, up to the first that is refused: its address and the REASON. -/
def State.writeLines (core op : Nat) (ps : List XPage) (bytes : List (Nat × Byte)) (bad : Nat → Bool) : List Nat → State → State × Option (Word × BitVec 4)
  | [], s => (s, none)
  | l :: t, s =>
    match s.writeOwned core op ps bytes (bad l) l with
    | (s1, none) => State.writeLines core op ps bytes bad t s1
    | (s1, some r) => (s1, some (lineVA ps bytes l, r))

/-- The first byte written in another package that is refused: the address of its line and the REASON (22 R427; log 16). -/
def awayByte (ps : List XPage) (bytes : List (Nat × Byte)) : Option (Word × BitVec 4) :=
  bytes.findSome? fun b =>
    let line : Word := BitVec.ofNat 64 (b.1 / 64 * 64)
    if (xpa ps b.1).isSome then none
    else match xfar ps b.1 with
      | some (n, pa) => (Config.farRefusal n (pa / 64)).map fun r => (line, r)
      | none => some (line, 6)

/-- The bytes that an operation writes in other packages leave as flits (22 R429), and what of them is refused. -/
def State.writeAway (s : State) (core : Nat) (ps : List XPage) (bytes : List (Nat × Byte)) : State × Option (Word × BitVec 4) :=
  (s.farFlits core 2 ps bytes, awayByte ps bytes)

/-- An engine event for the Lamp port (26 R497): the first destination address, the engine, 1 for a start or 2 for a
completion, and the STATUS. -/
def State.lampEngine (s : State) (core addr engine what status : Nat) : State :=
  s.lampPut (dieOf core) 2
    (BitVec.ofNat 56 addr ++ BitVec.ofNat 8 engine ++ BitVec.ofNat 32 s.clk ++ BitVec.ofNat 13 core ++ BitVec.ofNat 7 status ++
      BitVec.ofNat 8 what ++ 2#4 : BitVec 128)

/-- Whether every byte of some runs is in the executing core's own local memory. -/
def allOwn (g : Group) (rs : List (Nat × Nat)) : Bool := rs.all fun r => ownAddr g r.1 && ownAddr g (r.1 + r.2 - 1)

/-- The checks of a capability named by a register for a span (00 R6): tag, permission with M for a remote home,
bounds, then the alignment of its cursor; the trap value is the code, or the cursor. -/
def spanTrap (g : Group) (v : Val) (c : BitVec 6) (ps : List Perm) (m : Bool) (align : Nat) (rs : List (Nat × Nat)) (lo hi : Int) :
    Option Trap :=
  if v.tag ≠ .cap then some (trapReg 0x03 c)
  else if lacks v.bits ps || ((m || !allOwn g rs) && !capHas v.bits .m) then some (trapReg 0x05 c)
  else if !(decide (capBase v.bits ≤ index v + lo) && decide (index v + hi ≤ capTop v.bits)) then some (trapReg 0x04 c)
  else if (capCursor v.bits).toNat % align ≠ 0 then some (trap 0x0C ((capCursor v.bits).setWidth 64))
  else none

/-- Whether the issuing group's own accesses are still on their way: an engine or interlocked read at issue waits for
them (05 R117; 12 R248, R257). -/
def State.inFlight (s : State) : Bool := s.scPending || s.net.any fun r => s.g.sources.contains r.src

/-- A number of `n` bytes at an offset of indices from a capability's cursor (14 R291). -/
def Memory.xat (m : Memory) (ps : List XPage) (v : Val) (off : Int) (n : Nat) : Nat :=
  m.xnat ps ((upFrom 0 n).map fun (k : Nat) => spreadInt (capWalk v.bits) (index v + off + k))

/-- Goes on unless a named register is poisoned: the trap of the first (03 R71). -/
def withNamed (s : State) (ls : List Lane) (cs : List (BitVec 6)) (k : Act) : Act :=
  match s.g.poisonSrc ls cs with
  | some c => .trap s (trapReg 0x12 c)
  | none => k

/-- A refused line of an operation that holds a journal entry: the entry takes the address and the reason, and the
refusal is on its way to the group (14; 16 R331; 18 R374). -/
def State.refuseEntry (s : State) (core : Nat) (n : Option Nat) (addr : Word) (r : BitVec 4) : State :=
  match n with
  | none => s
  | some n => s.mapCore core fun c =>
      { c with journal := c.journal.setIfInBounds n (((c.journal.toList.getD n none)).map fun e => { e with addr := addr, reason := r }) }

end Sys2Proof.Machine
end

