-- ==== Sys2Proof/Machine/Tiles.lean ====
section
/-! DEFINITION. What the matrix array computes: the descriptor and its rules (14 R288 to R291; 16 R332), operand elements
with 2:4 expansion (14 R295), the arithmetic of the modes (02 R56 to R59), the mask (14 R296) and the forms in which a
tile is written (16 R331, R332). -/

namespace Sys2Proof.Machine

/-! ### Operand elements (14 R291, R295) -/

/-- A capability an operation captured. -/
def ArrayOp.cap (o : ArrayOp) (c : Nat) : Val := (o.caps.lookup c).getD Val.zero

/-- A number of `n` bytes at an offset of the operand whose register is the field at `lo` of x0. -/
def ArrayOp.at_ (o : ArrayOp) (m : Memory) (lo off n : Nat) : Nat := m.xat o.pages (o.cap (xf o.x 0 lo 6)) off n

/-- The bits of a stored element of A in row i: `n` of its K or compacted positions. -/
def ArrayOp.aStored (o : ArrayOp) (m : Memory) (i n : Nat) : Nat :=
  let ea := if dMode o.x = 2 ∨ dMode o.x = 3 then 1 else 2
  o.at_ m 0 (if xf o.x 1 16 1 = 0 then i * xf o.x 2 0 32 + n * ea else n * xf o.x 2 0 32 + i * ea) ea

/-- The stored element that position `p` of a group of four takes: the rank of its bit in the nibble (14 R295). -/
def nibbleRank (nib p : Nat) : Option Nat :=
  let rank := ((upFrom 0 p).filter fun b => nib.testBit b).length
  if nib.testBit p && decide (rank < 2) then some rank else none

/-- A[i][k], or none for a skipped zero (14 R295). -/
def ArrayOp.aAt (o : ArrayOp) (m : Memory) (i k : Nat) : Option Nat :=
  if dSP o.x then
    let q := k / 4
    let nib := o.at_ m 36 (i * xf o.x 4 32 32 + q / 2) 1 / 16 ^ (q % 2) % 16
    (nibbleRank nib (k % 4)).map fun e => o.aStored m i (2 * q + e)
  else some (o.aStored m i k)

/-- B[k][j]. -/
def ArrayOp.bAt (o : ArrayOp) (m : Memory) (k j : Nat) : Nat :=
  let ld := xf o.x 2 32 32
  if dB4 o.x then o.at_ m 6 (j * ld + k / 2) 1 / 16 ^ (k % 2) % 16
  else
    let eb := if dMode o.x = 2 then 1 else 2
    o.at_ m 6 (if xf o.x 1 17 1 = 0 then k * ld + j * eb else j * ld + k * eb) eb

/-! ### The arithmetic (02 R56 to R59) -/

/-- A finite value in units of 2^−300. -/
def fixed300 (f : FpFmt) (a : Nat) : Int :=
  let v : Nat := f.man a * 2 ^ (f.lsb a + 300).toNat
  if f.sign a then -(v : Int) else v

/-- One chunk added to an element: the exact sum of its products and one rounding (02 R56, R57). -/
def chunkAdd (f : FpFmt) (c : Nat) (ps : List (Nat × Nat)) : Nat × Flags :=
  let g := fpFmt f32
  let zeroInf := ps.any fun p => (f.isInf p.1 && f.isZero p.2) || (f.isZero p.1 && f.isInf p.2)
  let anyNan := ps.any fun p => f.isNan p.1 || f.isNan p.2
  let snan := g.isSnan c || ps.any fun p => f.isSnan p.1 || f.isSnan p.2
  let infs := (ps.filter fun p => f.isInf p.1 || f.isInf p.2).map fun p => f.sign p.1 != f.sign p.2
  let both := infs.contains true && infs.contains false
  if anyNan || zeroInf || both || g.isNan c then (g.qnan, nvIf (snan || zeroInf || both))
  else
    match infs with
    | sg :: _ => if g.isInf c && g.sign c != sg then (g.qnan, flagNV) else (g.inf sg, Flags.zero)
    | [] =>
      if g.isInf c then (c, Flags.zero)
      else
        let sum : Int := (ps.map fun p => fixed300 f p.1 * fixed300 f p.2).foldl (· + ·) 0
        let v := fixed300 g c * (2 ^ 300 : Nat) + sum
        if v = 0 then
          (g.zero (g.isZero c && g.sign c && ps.all fun p => (f.isZero p.1 || f.isZero p.2) && f.sign p.1 != f.sign p.2), Flags.zero)
        else
          let r := roundNz g 0 (decide (v < 0)) v.natAbs (-600) false
          (r.bits, r.flags)

/-- t = RNE(f32, (sa × sb) × I) (02 R58). DESIGN CHOICE: R58 gives infinity for an infinite scale without naming one that is zero; an
infinite scale with a zero scale gives the canonical NaN with NV, as R42's product of infinity and zero. A term that is exactly
zero takes the XOR of the signs of the scales and of I, which R58 does not give (log 66). -/
def scaleTerm (fa fb : FpFmt) (sa sb : Nat) (i : Int) : Nat × Flags :=
  let g := fpFmt f32
  let s := (fa.sign sa != fb.sign sb) != decide (i < 0)
  if fa.isNan sa || fb.isNan sb then (g.qnan, nvIf (fa.isSnan sa || fb.isSnan sb))
  else if fa.isInf sa || fb.isInf sb then
    (if i = 0 ∨ fa.isZero sa ∨ fb.isZero sb then (g.qnan, flagNV) else (g.inf s, Flags.zero))
  else
    let n := fa.man sa * fb.man sb * i.natAbs
    if n = 0 then (g.zero s, Flags.zero)
    else
      let r := roundNz g 0 s n (fa.lsb sa + fb.lsb sb) false
      (r.bits, r.flags)

/-- A group of a row of A or of a column of B: its scale, its zero point and its codes. -/
structure QGroup where
  scale : Nat
  zero : Nat
  codes : List Nat
  deriving DecidableEq, Repr

/-- One group added to an element (02 R58). -/
def groupAdd (fa fb : FpFmt) (c : Nat) (a b : QGroup) : Nat × Flags :=
  let i : Int := ((a.codes.zip b.codes).map fun p => ((p.1 : Int) - a.zero) * ((p.2 : Int) - b.zero)).foldl (· + ·) 0
  let (t, f1) := scaleTerm fa fb a.scale b.scale i
  let r := fpAdd (fpFmt f32) 0 false c t
  (canonical (fpFmt f32) r, f1.or r.flags)

/-- The greatest and least of FP32 values (02 R48, R53). -/
def extremes : List Nat → Nat × Nat
  | [] => (0, 0)
  | a :: t => (t.foldl (fun x y => (fpMinMax (fpFmt f32) true x y).bits) a, t.foldl (fun x y => (fpMinMax (fpFmt f32) false x y).bits) a)

/-- A group of FP32 values quantised under a format register (02 R53, R54, R58). -/
def quantGroup (fmt : Word) (vs : List Nat) : QGroup :=
  let (mx, mn) := extremes vs
  let (sc, z) := qscale mx mn (fmtBits fmt) (fmtZP fmt) (fmtSF fmt)
  ⟨sc, z, vs.map fun v => quantise v sc z (fmtBits fmt) (fmtSF fmt)⟩

/-- The groups of row i of A (02 R58; 14 R295): in mode 4 they are quantised after expansion. -/
def ArrayOp.aGroups (o : ArrayOp) (m : Memory) (i : Nat) : List QGroup :=
  let g := dG o.x
  (upFrom 0 (dK o.x / g)).map fun n =>
    let el := (upFrom (n * g) g).map fun k => o.aAt m i k
    if dMode o.x = 4 then quantGroup o.fmt (el.map fun e => (fpConvert (fpFmt f16) (fpFmt f32) 0 (e.getD 0)).bits)
    else
      let z := if xf o.x 0 24 6 = 0 then 128 else o.at_ m 24 (i * xf o.x 3 0 32 + n) 1
      ⟨o.at_ m 12 ((i * xf o.x 3 0 32 + n) * 2) 2, z, el.map fun e => e.getD z⟩

/-- The groups of column j of B (14 R291; 02 R52). -/
def ArrayOp.bGroups (o : ArrayOp) (m : Memory) (j : Nat) : List QGroup :=
  let g := dG o.x
  (upFrom 0 (dK o.x / g)).map fun n =>
    let z := if xf o.x 0 30 6 = 0 then (if dB4 o.x then 8 else 128)
      else o.at_ m 30 (n * xf o.x 3 32 32 + j) 1 % (if dB4 o.x then 16 else 256)
    ⟨o.at_ m 18 ((n * xf o.x 3 32 32 + j) * 2) 2, z, (upFrom (n * g) g).map fun k => o.bAt m k j⟩

/-- Row i of A in a float mode, a skipped zero being +0 (02 R59). -/
def ArrayOp.aRow (o : ArrayOp) (m : Memory) (i : Nat) : List Nat := (upFrom 0 (dK o.x)).map fun k => (o.aAt m i k).getD 0
/-- Column j of B. -/
def ArrayOp.bCol (o : ArrayOp) (m : Memory) (j : Nat) : List Nat := (upFrom 0 (dK o.x)).map fun k => o.bAt m k j

/-- Consecutive parts of 16. -/
def chunks16 {α : Type} : Nat → List α → List (List α)
  | 0, _ => []
  | f + 1, l => if l.isEmpty then [] else l.take 16 :: chunks16 f (l.drop 16)

/-- An element after a float operation of a row and a column. -/
def floatElem (f : FpFmt) (c : Nat) (a b : List Nat) : Nat × Flags :=
  (chunks16 a.length (a.zip b)).foldl (fun st ps => let r := chunkAdd f st.1 ps; (r.1, st.2.or r.2)) (c, Flags.zero)

/-- An element after a quantised operation. -/
def quantElem (fa fb : FpFmt) (c : Nat) (a b : List QGroup) : Nat × Flags :=
  (a.zip b).foldl (fun st p => let r := groupAdd fa fb st.1 p.1 p.2; (r.1, st.2.or r.2)) (c, Flags.zero)

/-- Whether a mask block shows row i at position c (14 R296). -/
def maskShows (image i c : Nat) : Bool :=
  let pbase := image % 2 ^ 32
  let vec := image / 2 ^ (128 + 64 * i) % 2 ^ 32
  let rpos := image / 2 ^ (128 + 64 * i + 32) % 2 ^ 32
  if c < pbase then decide (c ≤ rpos) else decide (c < pbase + 32) && vec.testBit (c - pbase)

/-- The bits of −∞ in FP32. -/
def negInf32 : Nat := (fpFmt f32).inf true

/-- One result tile, from the elements it held: `half` is 1 for the follower's part of a pair (14 R285). The elements by
row × 32 + column, and the flags. -/
def ArrayOp.product (o : ArrayOp) (m : Memory) (blocks : List Nat) (half : Nat) (old : Nat → Nat) : List Nat × Flags :=
  let r0 := if dPSH o.x = 2 then 32 * half else 0
  let c0 := if dPSH o.x = 1 then 32 * half else 0
  let f := if dMode o.x = 0 then fpFmt f16 else fpFmt bf16
  let fa := scaleFmt (if dMode o.x = 4 then fmtSF o.fmt else xf o.x 1 20 1 == 1)
  let fb := scaleFmt (xf o.x 1 21 1 == 1)
  let image := blocks.getD (xf o.x 0 48 2) 0
  let shown (i j : Nat) : Bool := xf o.x 0 47 1 == 0 || maskShows image (r0 + i) (xf o.x 4 0 32 + c0 + j)
  let rows := (upFrom 0 32).map fun i => if dQuant o.x then ([], o.aGroups m (r0 + i)) else (o.aRow m (r0 + i), [])
  let cols := (upFrom 0 32).map fun j => if dQuant o.x then ([], o.bGroups m (c0 + j)) else (o.bCol m (c0 + j), [])
  let elem (i j : Nat) (a b : List Nat × List QGroup) : Nat × Flags :=
    let r := if dQuant o.x then quantElem fa fb (old (32 * i + j)) a.2 b.2 else floatElem f (old (32 * i + j)) a.1 b.1
    if shown i j then r else (negInf32, r.2)
  let all := (rows.zipIdx).flatMap fun a => (cols.zipIdx).map fun b => elem a.2 b.2 a.1 b.1
  (all.map (·.1), (all.map (·.2)).foldl Flags.or Flags.zero)

/-- The addresses of the bytes that an operation reads. -/
def ArrayOp.reads (o : ArrayOp) : List Nat :=
  (mmaOperands o.x).flatMap fun (c, rs, _, _) => rs.flatMap fun r => runAddrs (capRuns (o.cap c) r.1 r.2)

/-! ### Tiles (14 R282; 16 R331, R332) -/

/-- The canonical quiet NaN of FP32. -/
def nan32 : Nat := (fpFmt f32).qnan

/-- An element of a tile by row × 32 + column. -/
def MArray.elem (a : MArray) (t e : Nat) : Nat := (mapGet (t * 1024 + e) a.tiles).getD 0

/-- A tile takes its 1,024 elements, and its POISON bit. -/
def MArray.setTile (a : MArray) (t : Nat) (vals : List Nat) (poison : Bool) : MArray :=
  { a with
    tiles := (vals.zipIdx).foldl (fun m p => if p.1 = 0 then mapDel (t * 1024 + p.2) m else mapSet (t * 1024 + p.2) p.1 m) a.tiles
    poison := if poison then a.poison ||| BitVec.ofNat 16 (2 ^ t) else a.poison &&& ~~~(BitVec.ofNat 16 (2 ^ t)) }

/-- POISON of a tile. -/
def MArray.bad (a : MArray) (t : Nat) : Bool := a.poison.getLsbD t

/-- The bytes of a row in the output format OFMT (16 R332), with its scale and zero point when it is quantised. -/
def outRow (ofmt : Nat) (fmt : Word) (row : List Nat) : List Byte × Nat × Nat :=
  match ofmt with
  | 0 => (row.flatMap fun v => natBytes 4 (if (fpFmt f32).isNan v then nan32 else v), 0, 0)
  | 1 => (row.flatMap fun v => natBytes 2 (canonical (fpFmt f16) (fpConvert (fpFmt f32) (fpFmt f16) 0 v)), 0, 0)
  | 2 => (row.flatMap fun v => natBytes 2 (canonical (fpFmt bf16) (fpConvert (fpFmt f32) (fpFmt bf16) 0 v)), 0, 0)
  | _ =>
    let q := quantGroup fmt row
    (if fmtBits fmt = 8 then q.codes.flatMap fun c => natBytes 1 c
      else natBytes 16 ((q.codes.zipIdx).foldl (fun n p => n + p.1 * 16 ^ p.2) 0), q.scale, q.zero)

/-- The addresses of `n` indices from an offset of a capability. -/
def capAddrs (v : Val) (off n : Nat) : List Nat := (upFrom off n).map fun (k : Nat) => spreadInt (capWalk v.bits) (index v + (k : Int))

/-- Every byte a storing form writes, by virtual address; the tile's register is the first captured. -/
def ArrayOp.bytes (o : ArrayOp) (a : MArray) : List (Nat × Byte) :=
  let v := match o.caps with | p :: _ => p.2 | [] => Val.zero
  let row (i : Nat) : List Nat := (upFrom (32 * i) 32).map fun e => a.elem o.t e
  match o.kind with
  | .out =>
    (upFrom 0 32).flatMap fun i =>
      let (bs, sc, z) := outRow (oFmt o.x) o.fmt (row i)
      ((capAddrs v (i * oLDO o.x) bs.length).zip bs) ++
        (if oRSO o.x = 0 then [] else (capAddrs (o.cap (oRSO o.x)) (2 * i) 2).zip (natBytes 2 sc)) ++
        (if oRZO o.x = 0 then [] else (capAddrs (o.cap (oRZO o.x)) i 1).zip (natBytes 1 z))
  | _ => (capAddrs v 0 4096).zip ((upFrom 0 1024).flatMap fun e => natBytes 4 (a.elem o.t e))

end Sys2Proof.Machine
end

