-- ==== Sys2Proof/Machine/Matrix.lean ====
section
/-! DEFINITION. The matrix array's instructions and what the array does on its own (14 R282 to R303; 16 R328 to R333):
checks and entry into a core's order, the operations in that order, and the self-test. -/

namespace Sys2Proof.Machine

/-! ### Issue -/

/-- The trap of an encoding that a decode-time rule forbids. -/
def encTrap (i : Instr) (s : State) : Trap := trapEnc i.word (s.g.encDist (readsLatch i))

/-- The format register of the elected lane. -/
def Group.leadFmt (g : Group) : Word := g.fmt g.lead

/-- How many sub-arrays are fenced. -/
def MArray.nFenced (a : MArray) : Nat := ((upFrom 0 4).filter fun n => a.fenced.getLsbD n).length

/-- The other core of a paired operation (14 R285): core 3 of the quad. -/
def followerOf (core : Nat) : Nat := quadOf core * 4 + 3

/-- The decode-time traps of an `mma` form (14 R290, R300; 16 R328): encoding, then fenced sub-arrays. -/
def mmaPre (i : Instr) (kind : ArrayKind) (t : BitVec 6) (s : State) : Option Trap :=
  let a := s.array s.g.core
  let out := decide (3 ≤ a.nFenced) &&
    (match kind with | .mma true _ => decide (3 ≤ (s.array (followerOf s.g.core)).nFenced) | _ => true)
  if 16 ≤ t.toNat ∨ descBad kind s.g.x7 (fmtET s.g.leadFmt).toNat = true then some (encTrap i s)
  else if out then some (trap 0x3F (a.fenced.setWidth 64))
  else none

/-- Steps 3 and 4 of R292: the named registers in their order, then the alignments. -/
def mmaTrap (g : Group) (l : Lane) (x : Vector Word 7) : Option Trap :=
  let ops := mmaOperands x
  let reg (c : Nat) : BitVec 6 := BitVec.ofNat 6 c
  let cap := ops.findSome? fun (c, rs, _, _) => spanTrap g (g.read l (reg c)) (reg c) [.r] true 1 [] 0 (runsEnd rs)
  let cur (c : Nat) : Nat := cursorAddr (g.read l (reg c))
  let al : List (Nat × Nat) :=
    [(cur (xf x 0 0 6), 16), (cur (xf x 0 6 6), 16), (xf x 2 0 32, 16), (xf x 2 32 32, 16)] ++
      (ops.filter fun (_, _, _, a) => a == 2).map fun (c, _, _, _) => (cur c, 2)
  match cap with
  | some t => some t
  | none => (al.find? fun p => p.1 % p.2 != 0).map fun p => trap 0x0C (BitVec.ofNat 64 p.1)

/-- Whether a physical address lies in a kind of home: 0 LP-DDR-5X, 1 a shared-memory bank (14 R288, R293). -/
def homeKind (k : Option Nat) (pa : Nat) : Bool :=
  match k with
  | none => true
  | some 0 => decide (pa < Config.ddrSize)
  | some _ => decide (Config.sharedBase ≤ pa ∧ pa < Config.localBase)

/-- The pages of several spans, or what stopped the first that fails. -/
def State.captureAll (s : State) (g : Group) (need : Need) : List (Option Nat × List (Nat × Nat)) → List XPage ⊕ (Nat × Chk)
  | [] => .inl []
  | (k, rs) :: t =>
    match s.capture g need (homeKind k) rs with
    | .inr e => .inr e
    | .inl ps =>
      match s.captureAll g need t with
      | .inr e => .inr e
      | .inl qs => .inl (ps ++ qs)

/-- A read of an engine's operands. -/
def needR : Need := ⟨true, false, false, false, false⟩
/-- A write of an engine's results. -/
def needW : Need := ⟨false, true, false, false, false⟩

/-- The operations of an order that wait in its queue (14 R283). DESIGN CHOICE: the spec does not say whether a paired operation counts in
the follower's queue of four; it neither counts there nor needs room (log 37). -/
def MArray.waiting (a : MArray) : Nat :=
  (a.order.filter fun o => !o.started && o.leader.isNone && (match o.kind with | .mma _ _ => true | _ => false)).length

/-- An operation of the issuing group in the form in which it enters the order. -/
def State.arrayOp (s : State) (kind : ArrayKind) (t : BitVec 6) (l : Lane) (cs : List Nat) (pages : List XPage) (entry : Option Nat) :
    ArrayOp :=
  { id := s.nextId, kind := kind, t := t.toNat, x := s.g.x7, caps := cs.map fun c => (c, s.g.read l (BitVec.ofNat 6 c)),
    fmt := s.g.fmt l.no, fmode := s.g.fmode l.no, pages := pages, gang := s.g.gang, crew := s.g.sp.crew, dest := s.evqDest s.g,
    entry := entry, started := false, leader := none }

/-- An operation joins a core's order. -/
def State.enqueueOp (s : State) (core : Nat) (o : ArrayOp) : State := s.mapArray core fun a => { a with order := a.order ++ [o] }

/-- An operation enters the order of the issuing core, and a paired one the follower's too (14 R287). -/
def State.enterOp (s : State) (o : ArrayOp) : State :=
  let s1 : State := { s.enqueueOp s.g.core o with nextId := s.nextId + 1 }
  match o.kind with
  | .mma true _ => s1.enqueueOp (followerOf s.g.core) { o with leader := some s.g.core }
  | _ => s1

/-- The issue of an `mma` form after its decode-time traps (16 R328; 14 R285, R292, R301). DESIGN CHOICE: the spec gives the 0x20 traps of
`mma.pair` (R285) no place among these checks; they come after the decode-time traps and before step 1 of R292 (log 37). -/
noncomputable def mmaAct (i : Instr) (kind : ArrayKind) (t : BitVec 6) (s : State) : Act :=
  let x := s.g.x7
  let pair := match kind with | .mma true _ => true | _ => false
  let ls := s.g.execs true
  let cs := (mmaOperands x).map (·.1)
  if pair && s.g.core % 4 == 3 then .trap s (trap 0x20 0)
  else if pair && s.crews.any (fun c => c.core == followerOf s.g.core && c.matrix && !c.saved && c.task != s.g.sp.task) then
    .trap s (trap 0x20 0x1A1)
  else
    match ls with
    | [] => .done s
    | l :: _ =>
      withNamed s ls (cs.map (BitVec.ofNat 6)) <|
        match mmaTrap s.g l x with
        | some t => .trap s t
        | none =>
          let spans := (mmaOperands x).map fun (c, rs, k, _) => (k, capRuns (s.g.read l (BitVec.ofNat 6 c)) 0 (runsEnd rs))
          match s.captureAll s.g needR spans with
          | .inr (a, .trap t) => .trap s (trap 0x1C (BitVec.ofNat 64 (t.code * 2 ^ 56 + a % 2 ^ 56)))
          | .inr (_, .walk va) => .wait (s.startWalk va) .translation
          | .inr (_, .ok _) => .wait s .translation
          | .inl ps =>
            withFollower i s fun s =>
              if 4 ≤ (s.array s.g.core).waiting then .wait s .engineQueue
              else .done (s.enterOp (s.arrayOp kind t l cs ps none))

/-- The checks of an accumulator form's registers, each in turn (00 R6; 11 R232; 16 R331): the pages, or what stops it. -/
def State.formPages (s : State) (l : Lane) (p : Perm) (need : Need) : List (Nat × List (Nat × Nat) × Nat) → List XPage ⊕ Act
  | [] => .inl []
  | (c, rs, al) :: t =>
    let r := BitVec.ofNat 6 c
    let v := s.g.read l r
    let runs := rs.flatMap fun q => capRuns v q.1 q.2
    match spanTrap s.g v r [p] false al runs 0 (runsEnd rs) with
    | some t => .inr (.trap s t)
    | none =>
      match s.capture s.g need (fun _ => true) runs with
      | .inr (_, .trap t) => .inr (.trap s t)
      | .inr (_, .walk va) => .inr (.wait (s.startWalk va) .translation)
      | .inr (_, .ok _) => .inr (.wait s .translation)
      | .inl ps =>
        match s.formPages l p need t with
        | .inl qs => .inl (ps ++ qs)
        | .inr a => .inr a

/-- An accumulator form that reads or writes memory, `kind` `.ld`, `.st` or `.out` (16 R331, R332). -/
noncomputable def accAct (i : Instr) (kind : ArrayKind) (t : BitVec 6) (b : BitVec 6) (s : State) : Act :=
  match s.g.execs true with
  | [] => .done s
  | l :: ls =>
    let x := s.g.x7
    let spans := storeSpans kind b.toNat x (s.g.fmt l.no)
    let cs := spans.map (·.1)
    let wr := kind != .ld
    withNamed s (l :: ls) (cs.map (BitVec.ofNat 6)) <|
      match s.formPages l (if wr then .w else .r) (if wr then needW else needR) spans with
      | .inr a => a
      | .inl ps =>
        withFollower i s fun s =>
          if !wr then .done (s.enterOp (s.arrayOp kind t l cs ps none))
          else
            let runs := spans.flatMap fun (c, rs, _) => rs.flatMap fun q => capRuns (s.g.read l (BitVec.ofNat 6 c)) q.1 q.2
            let first := match runs with | r :: _ => r.1 / 64 * 64 | [] => 0
            let bytes := ((match spans with | (_, rs, _) :: _ => rs.map (·.2) | [] => []) : List Nat).foldl (· + ·) 0
            let (s1, n) := s.takeEntry (s.entryOf l.no first 0 (Nat.log2 bytes) (op9Of i))
            match n with
            | none => .wait s .journal
            | some _ => .done ((s1.own s.nextId (xlines ps runs)).enterOp (s.arrayOp kind t l cs ps n))

/-- `msk.ld` (16 R333): the image is read at issue. -/
noncomputable def mskAct (i : Instr) (mb b : BitVec 6) (s : State) : Act :=
  match s.g.execs true with
  | [] => .done s
  | l :: _ =>
    match s.formPages l .r needR [(b.toNat, [(0, 272)], 16)] with
    | .inr a => a
    | .inl ps =>
      let v := s.g.read l b
      let runs := capRuns v 0 272
      if s.inFlight || (xlines ps runs).any (fun n => s.ownedAt (n * 64) 64) then .wait s .localLoad
      else
        let image := s.mem.xat ps v 0 272
        let at_ := runAddrs runs
        if s.xbad s.g.core ps at_ || decide (image / 2 ^ 32 % 2 ^ 96 ≠ 0) then
          .trap (s.readLines s.g.core ps at_) (trap 0x20 ((capCursor v.bits).setWidth 64))
        else
          withWatch i (watchedRuns true false l.no runs) s fun s0 =>
            let s := s0.readLines s.g.core ps at_
            .done (s.enterOp (s.arrayOp (.msk mb.toNat image) 0 l [] [] none))

/-- Whether an operation writes a tile that `mma.wait` names; 16 names every tile (16 R330). -/
def ArrayOp.writesTile (o : ArrayOp) (t : Nat) : Bool :=
  (match o.kind with | .mma _ _ => true | .zero => true | .ld => true | _ => false) && (t == 16 || o.t == t)

/-- `mma.wait` (16 R330). -/
def mmaWaitAct (t : BitVec 6) (s : State) : Act :=
  let before := match s.g.run with | .waiting (.matrixTile n) _ => n | _ => s.nextId
  if (s.array s.g.core).order.any fun o => decide (o.id < before) && o.writesTile t.toNat then .wait s (.matrixTile before) else .done s

/-- A literal outside its range takes an encoding trap. -/
def litPre (i : Instr) (t : BitVec 6) (limit : Nat) (s : State) : Option Trap := if limit ≤ t.toNat then some (encTrap i s) else none

/-! ### What the array performs -/

/-- Whether an operation runs on an array. -/
def MArray.running (a : MArray) : Bool := match a.order with | o :: _ => o.started | [] => false

/-- Whether an array is slaved: a paired operation is in its order (14 R286). From its start it performs nothing else (R287), and until
then the operations before it; it is never tested (R299; log 81). -/
def MArray.slaved (a : MArray) : Bool := a.order.any fun o => o.leader.isSome

/-- Whether held records or the count of untested operations ask for a test before the next operation (14 R299). -/
def MArray.testDue (a : MArray) (clk : Nat) : Bool :=
  decide (4096 ≤ a.untested) || decide (32 ≤ a.held.length) || a.held.any fun r => decide (r.since + 2048 ≤ clk)

/-- Whether a test starts (14 R299). -/
def State.testStarts (s : State) (core : Nat) : Bool :=
  let a := s.array core
  !a.testing && !a.running && !a.slaved &&
    ((!a.order.isEmpty && decide (4096 ≤ a.untested)) || (!a.held.isEmpty && (a.order.isEmpty || a.testDue s.clk)))

/-- Whether the operation at the head of a core's order starts (14 R284, R286, R287; 15 R315). -/
def State.opStarts (s : State) (core : Nat) : Bool :=
  let a := s.array core
  match a.order with
  | o :: _ =>
    let mate := s.array (followerOf core)
    !o.started && o.leader.isNone && !a.testing && (a.slaved || !a.testDue s.clk) && !s.unitHeld (.array core) &&
      (match o.kind with
        | .mma true _ => !mate.testing && (match mate.order with | p :: _ => p.id == o.id | [] => false)
        | .mma false _ => true
        | _ => false)
  | [] => false

/-- The head of an order has started. -/
def MArray.start (a : MArray) : MArray :=
  { a with order := match a.order with | o :: t => { o with started := true } :: t | [] => [] }

/-- The head leaves an order. -/
def MArray.pop (a : MArray) : MArray := { a with order := a.order.tail }

/-- The operation at the head of a core's order starts. -/
def State.startOp (s : State) (core : Nat) : State :=
  if !s.opStarts core then s
  else
    let s1 := (s.mapArray core MArray.start).lampEngine core 0 2 1 0
    match (s.array core).order with
    | o :: _ => (match o.kind with | .mma true _ => s1.mapArray (followerOf core) MArray.start | _ => s1)
    | [] => s1

/-- FLAGS of a record (14 R297). -/
def flagBits (f : Flags) : Nat := f.nv.toNat * 8 + f.of.toNat * 4 + f.uf.toNat * 2 + f.nx.toNat

/-- The record of a retired operation, FENCED and UNV still 0 (14 R297). -/
def matrixRecord (core count status tag : Nat) (pair degr : Bool) (f : Flags) : Quad :=
  recordBits 2 status tag (core % 4) (BitVec.ofNat 64 count) |||
    BitVec.ofNat 128 (pair.toNat * 2 ^ 47 + degr.toNat * 2 ^ 46 + flagBits f * 2 ^ 41)

/-- One array's part of a retired operation: its tile, its count, and its turn. -/
def MArray.retire (a : MArray) (o : ArrayOp) (m : Memory) (blocks : List Nat) (half : Nat) (bad : Bool) : MArray × Flags :=
  let (vals, f) := if bad then (List.replicate 1024 nan32, Flags.zero) else o.product m blocks half fun e => a.elem o.t e
  ({ (a.setTile o.t vals (bad || a.bad o.t)) with seq := a.seq + 1, untested := a.untested + 1 }.pop, f)

/-- The running operation of a core retires (14 R284, R294 to R298; 16 R328). DESIGN CHOICE: the spec lets each source line be read at
any clk from issue to completion (12 R256; 14 R293); all are read here, in one step (log 55). Both halves of a paired operation are
masked by the leader's blocks, which the spec does not say (14 R296; log 37). -/
def State.retireMma (s : State) (core : Nat) : State :=
  let a := s.array core
  match a.order with
  | [] => s
  | o :: _ =>
    match o.kind with
    | .mma pair _ =>
      if !o.started || o.leader.isSome then s
      else
        let bad := s.xbad core o.pages o.reads
        let s0 := s.readLines core o.pages o.reads
        let blocks := a.blocks.toList
        let mate := followerOf core
        let (a1, f1) := a.retire o s.mem blocks 0 bad
        let (b1, f2) := (s.array mate).retire o s.mem blocks 1 bad
        let degr := a.fenced != 0 || (pair && (s.array mate).fenced != 0)
        let tag := xf o.x 0 52 12
        let rec_ : OutRec :=
          ⟨.array core, o.dest, matrixRecord core a1.seq (if bad then 2 else 0) tag pair degr (if pair then f1.or f2 else f1), s.clk, o.gang,
            o.crew, o.id⟩
        let s1 := (s0.lampEngine core 0 2 2 (if bad then 2 else 0)).mapArray core fun _ => if tag = 0 then a1 else { a1 with held := a1.held ++ [rec_] }
        if pair then s1.mapArray mate fun _ => b1 else s1
    | _ => s

/-! ### The accumulator forms (16 R331 to R333) -/

/-- Lines of the storing form at the head of a core's order are written: all that remain, or one alone. A refusal ends
the operation: its other lines are released unwritten, and its journal entry is marked (16 R331). -/
def State.storeTile (s : State) (core : Nat) (one : Option Nat) : State :=
  let a := s.array core
  match a.order with
  | [] => s
  | o :: _ =>
    let bytes := o.bytes a
    let lines := s.ownedLines o.id
    let stop (s : State) (va : Word) (r : BitVec 4) : State := ((s.disown o.id).refuseEntry core o.entry va r).mapArray core MArray.pop
    match State.writeLines core o.id o.pages bytes (fun _ => a.bad o.t) (match one with | some n => s.ownedLine o.id n | none => lines) s with
    | (s1, some (va, r)) => stop s1 va r
    | (s1, none) =>
      if one.isSome then s1
      else match s1.writeAway core o.pages bytes with
        | (s2, some (va, r)) => stop s2 va r
        | (s2, none) => s2.mapArray core MArray.pop

/-- The accumulator form or mask load at the head of a core's order is performed (16 R331 to R333). -/
def State.performForm (s : State) (core : Nat) : State :=
  let a := s.array core
  if a.testing then s
  else
    match a.order with
    | [] => s
    | o :: _ =>
      match o.kind with
      | .mma _ _ => s
      | .zero => s.mapArray core fun a => (a.setTile o.t (List.replicate 1024 0) false).pop
      | .ld =>
        let v := match o.caps with | p :: _ => p.2 | [] => Val.zero
        let addrs := capAddrs v 0 4096
        let bad := s.xbad core o.pages addrs
        let vals := (upFrom 0 1024).map fun e => if bad then nan32 else s.mem.xat o.pages v (4 * e) 4
        (s.readLines core o.pages addrs).mapArray core fun a => (a.setTile o.t vals bad).pop
      | .msk n image => s.mapArray core fun a => { a with blocks := a.blocks.setIfInBounds n image }.pop
      | .st => s.storeTile core none
      | .out => s.storeTile core none

/-! ### The self-test (14 R299, R300) -/

/-- A test starts. -/
def State.startTest (s : State) (core : Nat) : State := if s.testStarts core then s.mapArray core fun a => { a with testing := true } else s

/-- A held record as it is released: FENCED and UNV. -/
def releasedBits (fenced : BitVec 4) (unv : Bool) (q : Quad) : Quad :=
  q ||| BitVec.ofNat 128 (fenced.toNat * 2 ^ 48 + unv.toNat * 2 ^ 45)

/-- A test ends: the held records are released in retirement order, sub-arrays with a mismatching row are fenced, and a
failure is reported to the core's matrix crew and the die's resident handler. -/
def State.endTest (s : State) (core : Nat) (mismatch : BitVec 4) : State :=
  let a := s.array core
  if !a.testing then s
  else
    let fenced := a.fenced ||| mismatch
    let fail := mismatch != 0
    let s1 := s.mapArray core fun a => { a with testing := false, untested := 0, held := [], fenced := fenced }
    let s2 := a.held.foldl (fun s r => s.emitBy r.unit r.dest (releasedBits fenced fail r.bits) r.gang r.crew r.op) s1
    if !fail then s2
    else
      let bits := releasedBits fenced false (matrixRecord core a.seq 1 0 false false Flags.zero)
      let s3 := match s2.crews.find? fun c => c.core == core && c.matrix && !c.saved with
        | some c => s2.emitBy (.array core) (s2.crewDest c.id (s2.fnOf c.task)) bits 0 c.id 0
        | none => s2
      s3.machineCheck (dieOf core) (fenced.setWidth 64)

/-! ### Meanings -/

/-- MMA (R328): Checks and queues a single-core tile product on the array. -/
noncomputable def execMma (t : BitVec 6) (s : State) : Host.Outcome State Fault Refusal :=
  issue (.mma t) elected (mmaPre (.mma t) (.mma false false) t) (mmaAct (.mma t) (.mma false false) t) s

/-- MMA_PAIR (R285): Queues a paired product spanning G-cores 2 and 3. -/
noncomputable def execMmaPair (t : BitVec 6) (s : State) : Host.Outcome State Fault Refusal :=
  issue (.mmaPair t) elected (mmaPre (.mmaPair t) (.mma true false) t) (mmaAct (.mmaPair t) (.mma true false) t) s

/-- MMA_PACK (R328): Queues a 2:4 sparse single-core product. -/
noncomputable def execMmaPack (t : BitVec 6) (s : State) : Host.Outcome State Fault Refusal :=
  issue (.mmaPack t) elected (mmaPre (.mmaPack t) (.mma false true) t) (mmaAct (.mmaPack t) (.mma false true) t) s

/-- MMA_WAIT (R330): Sleeps until earlier array instructions writing a tile are performed. -/
noncomputable def execMmaWait (t : BitVec 6) (s : State) : Host.Outcome State Fault Refusal :=
  issue (.mmaWait t) elected (litPre (.mmaWait t) t 17) (fun s => withFollower (.mmaWait t) s (mmaWaitAct t)) s

/-- ACC_ZERO (R331): Zeroes a tile and its POISON bit in array order. -/
noncomputable def execAccZero (t : BitVec 6) (s : State) : Host.Outcome State Fault Refusal :=
  issue (.accZero t) elected (litPre (.accZero t) t 16) (fun s => withFollower (.accZero t) s fun s =>
    match s.g.execs true with
    | l :: _ => .done (s.enterOp (s.arrayOp .zero t l [] [] none))
    | [] => .done s) s

/-- ACC_LD (R331): Loads a tile from memory in array order. -/
noncomputable def execAccLd (b : BitVec 6) (t : BitVec 6) (s : State) : Host.Outcome State Fault Refusal :=
  issue (.accLd b t) elected (litPre (.accLd b t) t 16) (accAct (.accLd b t) .ld t b) s

/-- ACC_ST (R331): Stores a tile to memory with owned lines. -/
noncomputable def execAccSt (b : BitVec 6) (t : BitVec 6) (s : State) : Host.Outcome State Fault Refusal :=
  issue (.accSt b t) elected (litPre (.accSt b t) t 16) (accAct (.accSt b t) .st t b) s

/-- ACC_OUT (R332): Converts and writes a tile under the x6 descriptor. -/
noncomputable def execAccOut (b : BitVec 6) (t : BitVec 6) (s : State) : Host.Outcome State Fault Refusal :=
  issue (.accOut b t) elected
    (fun s => match litPre (.accOut b t) t 16 s with
      | some e => some e
      | none => if outBad s.g.x7 s.g.leadFmt then some (encTrap (.accOut b t) s) else none)
    (accAct (.accOut b t) .out t b) s

/-- MSK_LD (R333): Loads a mask parameter block from a 272-byte image. -/
noncomputable def execMskLd (b : BitVec 6) (mb : BitVec 6) (s : State) : Host.Outcome State Fault Refusal :=
  issue (.mskLd b mb) elected (litPre (.mskLd b mb) mb 4) (mskAct (.mskLd b mb) mb b) s

/-- MMA_START (R284): A queued array operation starts when the array frees. -/
def execMmaStart (core : Nat) (s : State) : Host.Outcome State Fault Refusal := .next (s.startOp core).tick

/-- MMA_RETIRE (R297): An array operation retires and its completion record is held. -/
def execMmaRetire (core : Nat) (s : State) : Host.Outcome State Fault Refusal := .next (s.retireMma core).tick

/-- ACC_FORM_PERFORM (R331): An accumulator form or mask load is performed in array order. -/
def execAccFormPerform (core : Nat) (s : State) : Host.Outcome State Fault Refusal := .next (s.performForm core).tick

/-- SELF_TEST_START (R299): The sequencer starts a 20-clk self-test between operations. -/
def execSelfTestStart (core : Nat) (s : State) : Host.Outcome State Fault Refusal := .next (s.startTest core).tick

/-- SELF_TEST_END (R300): The test releases held records, fencing failing sub-arrays on a mismatch. -/
def execSelfTestEnd (core : Nat) (mismatch : BitVec 4) (s : State) : Host.Outcome State Fault Refusal :=
  .next (s.endTest core mismatch).tick

end Sys2Proof.Machine
end

