-- ==== Sys2Proof/Machine/Copies.lean ====
section
/-! DEFINITION. The copy engine (15 R304 to R307; 26 R481, R482; 16 R334, R335): the descriptor, its checks, and what the
engine does in its order. -/

namespace Sys2Proof.Machine

/-! ### The descriptor (15 R305; 26 R481) -/

/-- HSRC. -/
def cHsrc (x : Vector Word 7) : Bool := xf x 4 1 1 == 1
/-- HDST. -/
def cHdst (x : Vector Word 7) : Bool := xf x 4 2 1 == 1
/-- ROWS. -/
def cRows (x : Vector Word 7) : Nat := xf x 1 32 20
/-- LEN. -/
def cLen (x : Vector Word 7) : Nat := xf x 1 0 32
/-- SSTR. -/
def cSstr (x : Vector Word 7) : Int := (x.toList.getD 2 0).toInt
/-- DSTR. -/
def cDstr (x : Vector Word 7) : Int := (x.toList.getD 3 0).toInt

/-- The rules of a copy descriptor. -/
def copyBad (x : Vector Word 7) : Bool :=
  !(xf x 0 13 39 == 0 && xf x 1 52 12 == 0 && xf x 4 3 61 == 0 && !(cHsrc x && cHdst x) &&
    decide (1 ≤ cRows x) && decide (1 ≤ cLen x) && (xf x 0 12 1 == 1 || cRows x == 1) &&
    decide (1 ≤ (cDst x).toNat ∧ (cDst x).toNat ≤ 55) &&
    (if cFill x then cSrc x == 0 else decide (1 ≤ (cSrc x).toNat ∧ (cSrc x).toNat ≤ 55)))

/-- The offset of each row. -/
def rowOffs (rows : Nat) (str : Int) : List Int := (upFrom 0 rows).map fun (r : Nat) => str * r

/-- The lowest offset of some rows, and the offset past the highest. -/
def rowSpan (rows len : Nat) (str : Int) : Int × Int :=
  let far := str * ((rows : Int) - 1)
  (min 0 far, max 0 far + len)

/-- The runs of addresses of the rows of one side. -/
def rowRuns (v : Val) (rows len : Nat) (str : Int) : List (Nat × Nat) := (rowOffs rows str).flatMap fun o => capRuns v o len

/-! ### Checks at issue (15 R306; 26 R482) -/

/-- The context whose aperture a crew's copies reach: that of its task, if the owner of the context launched it. -/
def State.apertureOf (s : State) (task : Nat) : Option Ctx :=
  match s.task task with
  | none => none
  | some t => match s.ctx t.ctx with
    | some c => if c.fn = t.fn then some c else none
    | none => none

/-- The first byte offset of an aperture side that lies in no mapped page. -/
def apertureGap (c : Ctx) (base : Nat) (rows len : Nat) (str : Int) : Option Int :=
  (rowOffs rows str).findSome? fun o =>
    let lo : Int := base + o
    if lo < 0 then some lo
    else
      let a := lo.toNat
      (upFrom (a / 4096) ((a + len - 1) / 4096 - a / 4096 + 1)).findSome? fun p =>
        if (c.aperture.lookup p).isSome then none else some ((max a (p * 4096) : Nat) : Int)

/-- The byte offset that a register names in the aperture. -/
def apertureBase (v : Val) : Nat := (v.bits.extractLsb' 0 32).toNat

/-- The check of one side before translation, a capability's (15 R306 step 2) or the aperture's (26 R482). -/
def State.sideTrap (s : State) (v : Val) (c : BitVec 6) (p : Perm) (host : Bool) (rows len : Nat) (str : Int) : Option Trap :=
  let (lo, hi) := rowSpan rows len str
  if !host then spanTrap s.g v c [p] false 1 (rowRuns v rows len str) lo hi
  else if v.tag ≠ .data then some (trapReg 0x03 c)
  else
    match s.apertureOf s.g.sp.task with
    | none => some (trapReg 0x05 c)
    | some x => (apertureGap x (apertureBase v) rows len str).map fun o => trap 0x08 (intWord o)

/-- The pages of one side. -/
def State.sidePages (s : State) (v : Val) (need : Need) (skip : Bool) (rows len : Nat) (str : Int) : List XPage ⊕ (Nat × Chk) :=
  if skip then .inl [] else s.capture s.g need (fun _ => true) (rowRuns v rows len str)

/-- What a failed capture does at an issue. -/
def State.captureFail (s : State) : Nat × Chk → Act
  | (_, .trap t) => .trap s t
  | (_, .walk va) => .wait (s.startWalk va) .translation
  | (_, .ok _) => .wait s .translation

/-- The operations in a quad's copy engine, in its order. -/
def State.quadCopies (s : State) (quad : Nat) : List CopyOp := s.copies.filter fun o => o.quad == quad

/-- The issue of `cpy` (15 R304 to R306; 16 R334). -/
noncomputable def cpyAct (i : Instr) (s : State) : Act :=
  match s.g.execs true with
  | [] => .done s
  | l :: ls =>
    let x := s.g.x7
    let rows := cRows x
    let len := cLen x
    let sv := s.g.read l (cSrc x)
    let dv := s.g.read l (cDst x)
    let fill := cFill x
    withNamed s (l :: ls) ((if fill then [] else [cSrc x]) ++ [cDst x]) <|
      match (if fill then none else s.sideTrap sv (cSrc x) .r (cHsrc x) rows len (cSstr x)), s.sideTrap dv (cDst x) .w (cHdst x) rows len (cDstr x) with
      | some t, _ => .trap s t
      | none, some t => .trap s t
      | none, none =>
        match s.sidePages sv needR (fill || cHsrc x) rows len (cSstr x), s.sidePages dv needW (cHdst x) rows len (cDstr x) with
        | .inr e, _ => s.captureFail e
        | .inl _, .inr e => s.captureFail e
        | .inl sp, .inl dp =>
          withFollower i s fun s =>
            let quad := quadOf s.g.core
            if 8 ≤ (s.quadCopies quad).length then .wait s .engineQueue
            else
              let o : CopyOp :=
                { id := s.nextId, quad := quad, gang := s.g.gang, crew := s.g.sp.crew, core := s.g.core,
                  tag := BitVec.ofNat 12 (xf x 0 52 12), dest := s.evqDest s.g, ctx := ((s.task s.g.sp.task).map (·.ctx)).getD 0,
                  src := sv, dst := dv, rows := rows, len := len, sstr := cSstr x, dstr := cDstr x, fill := fill,
                  hsrc := cHsrc x, hdst := cHdst x, spages := sp, dpages := dp, running := false, poisoned := false,
                  refused := none, finished := false }
              let lines := if cHdst x then [] else xlines dp (rowRuns dv rows len (cDstr x))
              let s1 := s.own s.nextId lines
              .done { s1 with copies := s1.copies ++ [o], nextId := s1.nextId + 1 }

/-- `cpy.wait` (16 R335): a tag of 0 names every earlier copy. -/
def cpyWaitAct (a : BitVec 6) (s : State) : Act :=
  match s.g.execs true with
  | [] => .done s
  | l :: _ =>
    let tag := (s.g.read l a).bits.extractLsb' 0 12
    let before := match s.g.run with | .waiting (.copy n) _ => n | _ => s.nextId
    let out (o : CopyOp) : Bool := o.gang == s.g.gang && decide (o.id < before) && (tag == 0 || o.tag == tag)
    if (s.quadCopies (quadOf s.g.core)).any out then .wait s (.copy before) else .done s

/-! ### What the engine does (15 R307) -/

/-- The host bus address of an aperture offset. -/
def Ctx.hostAddr (c : Ctx) (o : Nat) : Nat := (c.aperture.lookup (o / 4096)).getD 0 + o % 4096

/-- The addresses of one side's bytes in order: virtual addresses, or offsets into the aperture. -/
def sideAddrs (v : Val) (host : Bool) (rows len : Nat) (str : Int) : List Nat :=
  (rowOffs rows str).flatMap fun (o : Int) => (upFrom 0 len).map fun (k : Nat) =>
    if host then (apertureBase v + o + k).toNat else spreadInt (capWalk v.bits) (index v + o + k)

/-- Each destination byte of a copy: where it goes, its value as the source now is, and whether that is poisoned. -/
def State.copyBytes (s : State) (o : CopyOp) : List (Nat × Byte × Bool) :=
  let host : Nat → Nat := fun a => match s.ctx o.ctx with | some c => c.hostAddr a | none => 0
  let data : List (Byte × Bool) :=
    if o.fill then List.replicate (o.rows * o.len) (0, false)
    else (sideAddrs o.src o.hsrc o.rows o.len o.sstr).map fun a =>
      if o.hsrc then (cellGet (host a) s.pkg.hostMem, false) else s.mem.xbyte o.spages a
  (sideAddrs o.dst o.hdst o.rows o.len o.dstr).zip data

/-- The destination bytes whose source a home refuses, each with the address of its source line (11 R237; 15 R307). -/
def State.copyRefusals (s : State) (o : CopyOp) : List (Nat × Word) :=
  if o.fill || o.hsrc then []
  else ((sideAddrs o.dst o.hdst o.rows o.len o.dstr).zip (sideAddrs o.src false o.rows o.len o.sstr)).filterMap fun p =>
    (s.readRefused o.core o.spages p.2).map fun w => (p.1, w)

/-- The engine reads the source bytes of the destination bytes that `at_` picks (15 R307). -/
def State.readSources (s : State) (o : CopyOp) (at_ : Nat → Bool) : State :=
  if o.fill || o.hsrc then s
  else
    s.readLines o.core o.spages (((sideAddrs o.dst o.hdst o.rows o.len o.dstr).zip (sideAddrs o.src false o.rows o.len o.sstr)).filterMap fun p =>
      if at_ p.1 then some p.2 else none)

/-- Whether the source of a copy holds poison. -/
def badBytes (bs : List (Nat × Byte × Bool)) : Bool := bs.any fun b => b.2.2

/-- Whether a destination line takes a poisoned byte. -/
def badLine (ps : List XPage) (bs : List (Nat × Byte × Bool)) (line : Nat) : Bool :=
  bs.any fun b => b.2.2 && (match xpa ps b.1 with | some (pa, _) => pa / 64 == line | none => false)

/-- Bytes of host memory written through the aperture. -/
def State.writeHost (s : State) (c : Ctx) (bs : List (Nat × Byte)) : State :=
  { s with pkg := { s.pkg with hostMem := bs.foldl (fun m b => cellSet (c.hostAddr b.1) b.2 m) s.pkg.hostMem } }

/-- Changes a copy. -/
def State.mapCopy (s : State) (id : Nat) (f : CopyOp → CopyOp) : State :=
  { s with copies := s.copies.map fun o => if o.id = id then f o else o }

/-- Owned lines of a running copy are written. A refusal at a destination's or a source's home ends it: the other lines are released
unwritten (15 R307). -/
def State.copyLines (s : State) (o : CopyOp) (lines : List Nat) : State :=
  let bs := s.copyBytes o
  let bytes := bs.map fun b => (b.1, b.2.1)
  let gone := s.copyRefusals o
  let stop (l : Nat) : Option Word := gone.findSome? fun p => match xpa o.dpages p.1 with | some (pa, _) => if pa / 64 = l then some p.2 else none | none => none
  let here := lines.takeWhile fun l => (stop l).isNone
  let (s1, r) := State.writeLines o.core o.id o.dpages bytes (badLine o.dpages bs) here (s.readSources o fun b => match xpa o.dpages b with
    | some (pa, _) => here.contains (pa / 64)
    | none => false)
  let written := lines.filter fun l => !(s1.ownedLines o.id).contains l
  let s2 := s1.mapCopy o.id fun o => { o with poisoned := o.poisoned || written.any (badLine o.dpages bs) }
  match (r.map (·.1)).or (lines.findSome? stop) with
  | some va => (s2.disown o.id).mapCopy o.id fun o => { o with refused := some va }
  | none => s2

/-- The next queued copy of a quad starts (15 R304): no other runs and the engine holds no record (15 R315). -/
def State.startCopy (s : State) (quad : Nat) : State :=
  match s.quadCopies quad with
  | [] => s
  | o :: _ =>
    if o.running || s.unitHeld (.copy quad) then s
    else (s.mapCopy o.id fun o => { o with running := true }).lampEngine o.core
      (match sideAddrs o.dst o.hdst 1 1 0 with | a :: _ => a | [] => 0) 1 1 0

/-- STATUS and COUNT of a copy's record (15 R307). -/
def CopyOp.status (o : CopyOp) : Nat × Word :=
  match o.refused with
  | some va => (3, va)
  | none => (if o.poisoned then 2 else 0, BitVec.ofNat 64 (o.rows * o.len))

/-- A running copy writes what remains and its record; it leaves the engine once the record is written. -/
def State.completeCopy (s : State) (quad : Nat) : State :=
  match s.quadCopies quad with
  | [] => s
  | o :: _ =>
    if !o.running then s
    else if o.finished then
      if s.unitHeld (.copy quad) then s else { s with copies := s.copies.filter fun p => p.id != o.id }
    else
      let s0 := s.copyLines o (s.ownedLines o.id)
      let s1 := if o.refused.isSome then s0 else s0.readSources o fun b => o.hdst || (xpa o.dpages b).isNone
      let bs := (s.copyBytes o).map fun b => (b.1, b.2.1)
      let away := (s.copyBytes o).filter fun b => (xpa o.dpages b.1).isNone
      let lost := ((s.copyRefusals o).find? fun p => (xpa o.dpages p.1).isNone).map (·.2)
      -- bytes that go to the host, or to another package
      let s2 := match o.refused, lost.or (if o.hdst then none else (awayByte o.dpages bs).map (·.1)) with
        | none, none =>
          (match (if o.hdst then s1.ctx o.ctx else none) with | some c => s1.writeHost c bs | none => (s1.writeAway o.core o.dpages bs).1).mapCopy o.id fun o =>
            { o with poisoned := o.poisoned || badBytes away }
        | none, some va => s1.mapCopy o.id fun o => { o with refused := o.refused.or (some va) }
        | some _, _ => s1
      match s2.copies.find? fun p => p.id == o.id with
      | none => s2
      | some o' =>
        let (st, count) := o'.status
        let s3 := s2.lampEngine o.core (match bs with | b :: _ => b.1 | [] => 0) 1 2 st
        let s4 := if o.tag = 0 then s3 else s3.emitBy (.copy quad) o.dest (recordBits 1 st o.tag.toNat (o.core % 4) count) o.gang o.crew o.id
        if s4.unitHeld (.copy quad) then s4.mapCopy o.id fun p => { p with finished := true }
        else { s4 with copies := s4.copies.filter fun p => p.id != o.id }

/-! ### Meanings -/

/-- CPY (R334): Checks and queues a copy on the quad's copy engine. -/
noncomputable def execCpy (s : State) : Host.Outcome State Fault Refusal :=
  issue .cpy elected (fun s => if copyBad s.g.x7 then some (encTrap .cpy s) else none) (cpyAct .cpy) s

/-- CPY_WAIT (R335): Sleeps until the issuer's earlier copies with a tag are done. -/
noncomputable def execCpyWait (a : BitVec 6) (s : State) : Host.Outcome State Fault Refusal :=
  issue (.cpyWait a) elected (fun _ => none) (fun s => withFollower (.cpyWait a) s (cpyWaitAct a)) s

/-- COPY_START (R304): The copy engine starts the next queued copy. -/
def execCopyStart (quad : Nat) (s : State) : Host.Outcome State Fault Refusal := .next (s.startCopy quad).tick

/-- COPY_COMPLETION (R307): A copy finishes its last line and writes its completion record. -/
def execCopyCompletion (quad : Nat) (s : State) : Host.Outcome State Fault Refusal := .next (s.completeCopy quad).tick

end Sys2Proof.Machine
end

