-- ==== Sys2Proof/Machine/LoadStore.lean ====
section
/-! DEFINITION. The M-format loads and stores and their compact forms (05 R114 to R118; 13 R260). -/

namespace Sys2Proof.Machine

/-- The displacement in bytes (04 R99). -/
def dispBytes (disp : BitVec 11) (size : Nat) : Int := disp.toInt * size

/-- The access of an M-format load: at cursor + displacement, or at the cursor with P = 1 (05 R114, R115). -/
def loadAsk (size : Nat) (sx cap : Bool) (disp : Int) (p : Bool) (a : BitVec 6) : Ask :=
  { base := a, idx := fun v => index v + (if p then 0 else disp), size := size, align := size, perms := [.r],
    need := fun _ => ⟨true, false, false, false, false⟩,
    op := fun _ v ct => .load size sx (cap && capHas v.bits .lc && ct), more := fun _ c => c }

/-- A load of the M format (05 R114). -/
noncomputable def loadForm (i : Instr) (size : Nat) (sx cap : Bool) (disp : Int) (p : Bool) (a d : BitVec 6) (s : State) :
    Host.Outcome State Fault Refusal :=
  issue i strict (fun _ => none)
    (loadAct i (loadAsk size sx cap disp p a) d (if p then some (a, intWord disp) else none) false) s

/-- The access of an M-format store (05 R114, R116): `st.cap` of a CAP sets the granule's tag, which needs SC. -/
def storeAsk (s : State) (size : Nat) (cap : Bool) (disp : Int) (p : Bool) (a d : BitVec 6) : Ask :=
  let isCap (l : Lane) : Bool := cap && (s.g.read l d).tag == .cap
  { base := a, idx := fun v => index v + (if p then 0 else disp), size := size, align := size, perms := [.w],
    need := fun l => ⟨false, true, false, false, isCap l⟩,
    op := fun l _ _ => .store size (s.g.read l d).bits (isCap l), more := fun va c => ownWrite s va size c }

/-- A store of the M format (05 R114). -/
noncomputable def storeForm (i : Instr) (size op4 : Nat) (cap : Bool) (disp : Int) (p : Bool) (a d : BitVec 6) (s : State) :
    Host.Outcome State Fault Refusal :=
  issue i strict (fun _ => none)
    (fun s => postAct i (storeAsk s size cap disp p a d) (fun l => (s.g.read l d).bits) (0x200 + op4)
      (if p then some (a, intWord disp) else none) s) s


/-- LD_I8 (R114): Loads a sign-extended byte. -/
noncomputable def execLdI8 (imm : BitVec 11) (p : Bool) (a : BitVec 6) (d : BitVec 6) (u : Bool) (s : State) : Host.Outcome State Fault Refusal :=
  loadForm (.ldI8 imm p a d u) 1 true false (dispBytes imm 1) p a d s

/-- LD_N8 (R114): Loads a zero-extended byte. -/
noncomputable def execLdN8 (imm : BitVec 11) (p : Bool) (a : BitVec 6) (d : BitVec 6) (u : Bool) (s : State) : Host.Outcome State Fault Refusal :=
  loadForm (.ldN8 imm p a d u) 1 false false (dispBytes imm 1) p a d s

/-- LD_I16 (R114): Loads a sign-extended halfword. -/
noncomputable def execLdI16 (imm : BitVec 11) (p : Bool) (a : BitVec 6) (d : BitVec 6) (u : Bool) (s : State) : Host.Outcome State Fault Refusal :=
  loadForm (.ldI16 imm p a d u) 2 true false (dispBytes imm 2) p a d s

/-- LD_N16 (R114): Loads a zero-extended halfword. -/
noncomputable def execLdN16 (imm : BitVec 11) (p : Bool) (a : BitVec 6) (d : BitVec 6) (u : Bool) (s : State) : Host.Outcome State Fault Refusal :=
  loadForm (.ldN16 imm p a d u) 2 false false (dispBytes imm 2) p a d s

/-- LD_I32 (R114): Loads a sign-extended word. -/
noncomputable def execLdI32 (imm : BitVec 11) (p : Bool) (a : BitVec 6) (d : BitVec 6) (u : Bool) (s : State) : Host.Outcome State Fault Refusal :=
  loadForm (.ldI32 imm p a d u) 4 true false (dispBytes imm 4) p a d s

/-- LD_N32 (R114): Loads a zero-extended word. -/
noncomputable def execLdN32 (imm : BitVec 11) (p : Bool) (a : BitVec 6) (d : BitVec 6) (u : Bool) (s : State) : Host.Outcome State Fault Refusal :=
  loadForm (.ldN32 imm p a d u) 4 false false (dispBytes imm 4) p a d s

/-- LD_64 (R114): Loads a doubleword. -/
noncomputable def execLd64 (imm : BitVec 11) (p : Bool) (a : BitVec 6) (d : BitVec 6) (u : Bool) (s : State) : Host.Outcome State Fault Refusal :=
  loadForm (.ld64 imm p a d u) 8 false false (dispBytes imm 8) p a d s

/-- LD_128 (R114): Loads 16 bytes as DATA. -/
noncomputable def execLd128 (imm : BitVec 11) (p : Bool) (a : BitVec 6) (d : BitVec 6) (u : Bool) (s : State) : Host.Outcome State Fault Refusal :=
  loadForm (.ld128 imm p a d u) 16 false false (dispBytes imm 16) p a d s

/-- LD_CAP (R115): Loads 16 bytes as CAP when the granule tag is set and the base carries LC. -/
noncomputable def execLdCap (imm : BitVec 11) (p : Bool) (a : BitVec 6) (d : BitVec 6) (u : Bool) (s : State) : Host.Outcome State Fault Refusal :=
  loadForm (.ldCap imm p a d u) 16 false true (dispBytes imm 16) p a d s

/-- ST_8 (R114): Stores a byte. -/
noncomputable def execSt8 (imm : BitVec 11) (p : Bool) (a : BitVec 6) (d : BitVec 6) (u : Bool) (s : State) : Host.Outcome State Fault Refusal :=
  storeForm (.st8 imm p a d u) 1 8 false (dispBytes imm 1) p a d s

/-- ST_16 (R114): Stores a halfword. -/
noncomputable def execSt16 (imm : BitVec 11) (p : Bool) (a : BitVec 6) (d : BitVec 6) (u : Bool) (s : State) : Host.Outcome State Fault Refusal :=
  storeForm (.st16 imm p a d u) 2 9 false (dispBytes imm 2) p a d s

/-- ST_32 (R114): Stores a word. -/
noncomputable def execSt32 (imm : BitVec 11) (p : Bool) (a : BitVec 6) (d : BitVec 6) (u : Bool) (s : State) : Host.Outcome State Fault Refusal :=
  storeForm (.st32 imm p a d u) 4 10 false (dispBytes imm 4) p a d s

/-- ST_64 (R114): Stores a doubleword. -/
noncomputable def execSt64 (imm : BitVec 11) (p : Bool) (a : BitVec 6) (d : BitVec 6) (u : Bool) (s : State) : Host.Outcome State Fault Refusal :=
  storeForm (.st64 imm p a d u) 8 11 false (dispBytes imm 8) p a d s

/-- ST_128 (R114): Stores 16 bytes and clears the tag bit. -/
noncomputable def execSt128 (imm : BitVec 11) (p : Bool) (a : BitVec 6) (d : BitVec 6) (u : Bool) (s : State) : Host.Outcome State Fault Refusal :=
  storeForm (.st128 imm p a d u) 16 12 false (dispBytes imm 16) p a d s

/-- ST_CAP (R116): Stores 16 bytes, setting the tag bit for a CAP. -/
noncomputable def execStCap (imm : BitVec 11) (p : Bool) (a : BitVec 6) (d : BitVec 6) (u : Bool) (s : State) : Host.Outcome State Fault Refusal :=
  storeForm (.stCap imm p a d u) 16 14 true (dispBytes imm 16) p a d s

/-- COMPACT_LD_64 (R101): Compact ld.64 through kq. -/
noncomputable def execCompactLd64 (q : BitVec 5) (p : BitVec 5) (s : State) : Host.Outcome State Fault Refusal :=
  loadForm (.compactLd64 q p) 8 false false 0 false (kc q) (kc p) s

/-- COMPACT_LD_I32 (R101): Compact ld.i32 through kq. -/
noncomputable def execCompactLdI32 (q : BitVec 5) (p : BitVec 5) (s : State) : Host.Outcome State Fault Refusal :=
  loadForm (.compactLdI32 q p) 4 true false 0 false (kc q) (kc p) s

/-- COMPACT_ST_64 (R101): Compact st.64 through kq. -/
noncomputable def execCompactSt64 (q : BitVec 5) (p : BitVec 5) (s : State) : Host.Outcome State Fault Refusal :=
  storeForm (.compactSt64 q p) 8 11 false 0 false (kc q) (kc p) s

/-- COMPACT_ST_32 (R101): Compact st.32 through kq. -/
noncomputable def execCompactSt32 (q : BitVec 5) (p : BitVec 5) (s : State) : Host.Outcome State Fault Refusal :=
  storeForm (.compactSt32 q p) 4 10 false 0 false (kc q) (kc p) s

end Sys2Proof.Machine
end

