-- ==== Sys2Proof/Machine/Memory.lean ====
section
/-! DEFINITION. Full/empty operations, atomics, bank operations, the fence, SC operations, cache operations and
streams (13 R260 to R275, R281). -/

namespace Sys2Proof.Machine

/-! ### Full/empty operations and atomics (13 R263 to R268) -/

/-- The access of a full/empty operation (13 R263). -/
def feAsk (k : Nat) (a : BitVec 6) : Ask :=
  { base := a, idx := fun v => index v, size := 8, align := 8, perms := [if k < 2 then .r else .w, .a],
    need := fun _ => ⟨decide (k < 2), decide (2 ≤ k), false, true, false⟩, op := fun _ _ _ => .clean, more := localOnly }

/-- A full/empty operation. -/
noncomputable def feForm (i : Instr) (k : Nat) (a b d : BitVec 6) (s : State) : Host.Outcome State Fault Refusal :=
  issue i strict (fun _ => none) (fun s => feAct i (feAsk k a) k (fun l => (s.g.read l b).word) d s) s

/-- The access of an atomic of `size` bytes (13 R266, R268): without a destination it is a store of the own core
too (11 R236, R237). DESIGN CHOICE: on a poisoned word of the own local memory it then takes the precise trap 0x12 that R236 gives a
store; of an atomic 13 R267 says only that it does not write (log 92). -/
def amoAsk (s : State) (size : Nat) (a d : BitVec 6) (op : Lane → MemOp) : Ask :=
  { base := a, idx := fun v => index v, size := size, align := size, perms := [.r, .w, .a],
    need := fun _ => ⟨true, true, false, true, false⟩, op := fun l _ _ => op l,
    more := fun va c => if d = 0 then ownWrite s va size c else c }

/-- An atomic: posted without a destination, else its old value is late (13 R266, R267). -/
noncomputable def amoForm (i : Instr) (size : Nat) (b a d : BitVec 6) (op : State → Lane → MemOp) (s : State) :
    Host.Outcome State Fault Refusal :=
  issue i strict (fun _ => none)
    (fun s =>
      let q := amoAsk s size a d (op s)
      if d = 0 then postAct i q (fun l => (s.g.read l b).bits) (op9Of i) none s else lateAct i q d s) s

/-- An integer atomic of 13 R266. -/
noncomputable def amoInt (i : Instr) (k : Nat) (b a d : BitVec 6) (w : Bool) (s : State) : Host.Outcome State Fault Refusal :=
  amoForm i (if w then 8 else 4) b a d (fun s l => .amo k w (s.g.read l b).word (s.g.read l d).word) s

/-! ### Bank line operations (13 R269 to R271) -/

/-- The home of a bank operation is a shared-memory bank (13 R269). -/
def bankOnly (va : Nat) : Chk → Chk
  | .ok p => if isSharedPA p.pa then .ok p else .trap (trap 0x09 (BitVec.ofNat 64 va))
  | c => c

/-- The lowest of some lanes in each slice. -/
def slicesFirst : List Lane → List Lane
  | [] => []
  | l :: t => l :: (slicesFirst t).filter fun m => m.no / 4 != l.no / 4

/-- The four quarters a lane's operation carries: the slice's lanes, or four registers on an S-core. -/
def bankData (g : Group) (ls : List Lane) (b : BitVec 6) (l : Lane) : List (Option Quad) :=
  if g.isG then
    (upFrom 0 4).map fun i => (ls.find? fun m => m.no == l.no / 4 * 4 + i).map fun m => (g.read m b).bits
  else (upFrom 0 4).map fun i => some (g.read l (b + BitVec.ofNat 6 i)).bits

/-- The access of a bank operation. -/
def bankAsk (read : Bool) (a : BitVec 6) (op : Lane → MemOp) : Ask :=
  { base := a, idx := fun v => index v, size := 64, align := 64, perms := [if read then .r else .w, .a],
    need := fun _ => ⟨read, !read, false, true, false⟩, op := fun l _ _ => op l, more := bankOnly }

/-- A bank operation `k` of each active slice, posted (13 R269, R270). -/
noncomputable def bankAct (i : Instr) (k : Nat) (a b : BitVec 6) (s : State) : Act :=
  let all := s.g.todo s.g.acts
  let ls := slicesFirst all
  let alpha := ((s.g.x[7]).extractLsb' 0 32).toNat
  let q := bankAsk false a fun l => .bank k (bankData s.g all b l) alpha
  if s.scPending then .wait s .fence
  else
    let (as, e) := checkLanes (q.chk s) ls
    let put (s : State) : State :=
      as.foldl (fun s a => s.post a (match ls.find? fun l => l.no == a.lane with | some l => (s.g.read l b).bits | none => 0) 6 (op9Of i)) s
    let done := (all.filter fun l => as.any fun a => a.lane / 4 == l.no / 4).map fun l =>
      (⟨l.no, ⟨0, false, none, none, false⟩, 0, .clean⟩ : Acc)
    if (s.core s.g.core).freeCount < as.length then .wait s .journal
    else match e with
      | some (lane, c) => partialAct i s done lane c put
      | none => withWatch i (watchedAccs true true 64 as) s fun s => .done (put s)

/-- The registers a bank operation reads: b to b + 3 on an S-core (13 R269). -/
def bankSrcs (i : Instr) (s : State) : List (BitVec 6) := srcs i ++ bankMore i s.g

/-- A bank operation: on an S-core b must be 1 to 52 (13 R269). -/
noncomputable def bankForm (i : Instr) (k : Nat) (a b : BitVec 6) (s : State) : Host.Outcome State Fault Refusal :=
  issueOn (bankSrcs i s) i strict
    (fun s => if !s.g.isG && (decide (b.toNat < 1) || decide (52 < b.toNat)) then
      some (trapEnc i.word (s.g.encDist (readsLatch i))) else none) (bankAct i k a b) s

/-- `bank.sum.f32` (13 R270): each active lane of a slice receives its slice's sum, late. -/
noncomputable def bankSumAct (i : Instr) (a d : BitVec 6) (s : State) : Act :=
  let all := s.g.todo s.g.acts
  if !s.g.sent && s.scPending then .wait s .fence
  else
    lateOpAct i
      { lanes := slicesFirst all, chk := (bankAsk true a fun _ => .bankSum).chk s, rd := true, wr := false, size := 64, hold := noHold
        rcv := fun as => (all.filter fun l => as.any fun x => x.lane / 4 == l.no / 4).map (·.no)
        send := fun as rcv ids ans s =>
          as.foldl (fun s x => s.send (s.reqOf x (rcv.filter fun n => n / 4 == x.lane / 4) ids none ans)) s } d s

/-! ### SC operations (12 R257; 13 R273) -/

/-- An SC operation of each lane announced on the Foghorn, after a fence of scope package. -/
noncomputable def scAct (i : Instr) (q : Ask) (isLoad : Bool) (d : BitVec 6) (s : State) : Act :=
  let u := isUniform i
  lateOpAct i
    { lanes := s.g.todo (s.g.execs u), chk := q.chk s, rd := isLoad, wr := !isLoad, size := q.size, rcv := s.g.receivers u
      hold := withFence false
      send := fun as rcv ids ans s =>
        { s with scq := s.scq ++ as.map fun a =>
            ⟨s.clk / 16, s.g.core, s.clk, s.g.srcOf a.lane % 64, a.lane, s.reqOf a (if u then rcv else [a.lane]) ids none ans⟩ } } d s

/-- The access of an SC operation (13 R273). -/
def scAsk (s : State) (isLoad : Bool) (a b : BitVec 6) : Ask :=
  { base := a, idx := fun v => index v, size := 8, align := 8, perms := [if isLoad then .r else .w],
    need := fun _ => ⟨isLoad, !isLoad, false, false, false⟩,
    op := fun l _ _ => if isLoad then .load 8 false false else .store 8 (s.g.read l b).bits false,
    more := fun va c => if isLoad then c else ownWrite s va 8 c }

/-! ### Cache operations (13 R281) -/

/-- The access of a cache operation: `cc.zero` is a store of the line, the others a load of a byte. -/
def cacheAsk (s : State) (zero : Bool) (a : BitVec 6) : Ask :=
  { base := a, idx := fun v => index v, size := if zero then 64 else 1, align := if zero then 64 else 1,
    perms := [if zero then .w else .r], need := fun _ => ⟨!zero, zero, false, false, false⟩,
    op := fun _ _ _ => if zero then .zero else .clean, more := fun va c => if zero then ownWrite s va 64 c else c }

/-- `cc.clean` and `cc.inval`: posted for lines of LP-DDR-5X, and without effect beyond their checks for
other homes (13 R281). -/
noncomputable def cleanAct (i : Instr) (a : BitVec 6) (s : State) : Act :=
  let ls := s.g.todo (s.g.execs (isUniform i))
  if s.scPending then .wait s .fence
  else
    let (as, e) := checkLanes ((cacheAsk s false a).chk s) ls
    let far := as.filter fun a => decide (a.place.pa < Config.ddrSize)
    let put (s : State) : State := far.foldl (fun s a => s.post a 0 6 (op9Of i)) s
    if (s.core s.g.core).freeCount < far.length then .wait s .journal
    else match e with
      | some (lane, c) => partialAct i s as lane c put
      | none => withWatch i (watchedAccs true false 1 as) s fun s => .done (put s)

/-! ### Streams (13 R274, R275) -/

/-- The number of a stream register among k48 to k55. -/
def streamNo (k : BitVec 6) : Fin 8 := ⟨(k.toNat - 48) % 8, by omega⟩

/-- The gang's registers k, of every part, changed. -/
def State.clearStreamReg (s : State) (k : BitVec 6) : State :=
  let f (g : Group) : Group := { g with lanes := g.lanes.map fun l => l.setReg k Val.zero }
  { s with
    g := f s.g
    groups := s.groups.map fun h => if h.isG && s.g.isG && h.gang == s.g.gang then f h else h }

/-- `ag.bind` (13 R274): its checks in their order, then the capture. DESIGN CHOICE: R274's list does not name a poisoned b (03
R71); its trap, 0x12, comes before that of a register already bound, as the checks of every instruction's operands come before
its own (log 76). -/
noncomputable def agBindAct (i : Instr) (b k : BitVec 6) (s : State) : Act :=
  let g := s.g
  let l := g.acts.head?
  let v := match l with | some l => g.read l b | none => Val.zero
  let x1 := g.x[1]
  let append := x1.getLsbD 36
  if (g.streams[streamNo k]).isSome then .trap s (trapReg 0x24 k)
  else if g.anySym true false [b] then .wait s .symbol
  else if g.boundDst (some k) then .wait s .recv
  else if v.tag ≠ .cap then .trap s (trapReg 0x03 b)
  else if !capHas v.bits (if append then .w else .r) then .trap s (trapReg 0x05 b)
  else if x1.extractLsb' 39 25 != 0 || (g.x[3]).extractLsb' 6 58 != 0 || decide (4 < (x1.extractLsb' 32 4).toNat) then
    .trap s (trapReg 0x24 k)
  else
    withFollower i s fun s =>
      let st : Stream := ⟨v, g.x[0], x1, g.x[2], min (g.x[3]).toNat 32, 0, 0⟩
      .done ((s.clearStreamReg k).shareStreams (g.streams.set (streamNo k) (some st)))

/-- The other stream instructions name a bound register (13 R275). -/
noncomputable def agAct (k : BitVec 6) (f : Stream → State → Act) (s : State) : Act :=
  match s.g.streams[streamNo k] with
  | none => .trap s (trapReg 0x24 k)
  | some st => f st s

/-- Whether a posted store of the group, or one on its way, is not yet acknowledged (13 R275). -/
def State.storesOut (s : State) : Bool :=
  let src := s.g.sources
  (s.net.any fun r => src.contains r.src && r.op.writes) ||
    (s.core s.g.core).journal.toList.any fun e =>
      match e with
      | none => false
      | some e => src.contains e.src && e.st == 1


/-- LD_FE (R263): Reads a FULL word and leaves it EMPTY, waiting while EMPTY. -/
noncomputable def execLdFe (a : BitVec 6) (d : BitVec 6) (u : Bool) (s : State) : Host.Outcome State Fault Refusal :=
  feForm (.ldFe a d u) 0 a 0 d s

/-- LD_FF (R263): Reads a FULL word and leaves it FULL, waiting while EMPTY. -/
noncomputable def execLdFf (a : BitVec 6) (d : BitVec 6) (u : Bool) (s : State) : Host.Outcome State Fault Refusal :=
  feForm (.ldFf a d u) 1 a 0 d s

/-- ST_EF (R263): Writes an EMPTY word and makes it FULL, waiting while FULL. -/
noncomputable def execStEf (b : BitVec 6) (a : BitVec 6) (u : Bool) (s : State) : Host.Outcome State Fault Refusal :=
  feForm (.stEf b a u) 2 a b 0 s

/-- ST_FF (R263): Writes a word and makes it FULL. -/
noncomputable def execStFf (b : BitVec 6) (a : BitVec 6) (u : Bool) (s : State) : Host.Outcome State Fault Refusal :=
  feForm (.stFf b a u) 3 a b 0 s

/-- FE_SET (R263): Sets a word's full/empty state. -/
noncomputable def execFeSet (sc : BitVec 6) (a : BitVec 6) (u : Bool) (s : State) : Host.Outcome State Fault Refusal :=
  feForm (.feSet sc a u) (4 + sc.toNat % 2) a 0 0 s

/-- AMO_ADD (R266): Atomic add at the home, returning the old word. -/
noncomputable def execAmoAdd (b : BitVec 6) (a : BitVec 6) (d : BitVec 6) (w : Bool) (u : Bool) (s : State) : Host.Outcome State Fault Refusal :=
  amoInt (.amoAdd b a d w u) 0 b a d w s

/-- AMO_MIN_I (R266): Atomic signed minimum. -/
noncomputable def execAmoMinI (b : BitVec 6) (a : BitVec 6) (d : BitVec 6) (w : Bool) (u : Bool) (s : State) : Host.Outcome State Fault Refusal :=
  amoInt (.amoMinI b a d w u) 1 b a d w s

/-- AMO_MAX_I (R266): Atomic signed maximum. -/
noncomputable def execAmoMaxI (b : BitVec 6) (a : BitVec 6) (d : BitVec 6) (w : Bool) (u : Bool) (s : State) : Host.Outcome State Fault Refusal :=
  amoInt (.amoMaxI b a d w u) 2 b a d w s

/-- AMO_MIN_N (R266): Atomic natural minimum. -/
noncomputable def execAmoMinN (b : BitVec 6) (a : BitVec 6) (d : BitVec 6) (w : Bool) (u : Bool) (s : State) : Host.Outcome State Fault Refusal :=
  amoInt (.amoMinN b a d w u) 3 b a d w s

/-- AMO_MAX_N (R266): Atomic natural maximum. -/
noncomputable def execAmoMaxN (b : BitVec 6) (a : BitVec 6) (d : BitVec 6) (w : Bool) (u : Bool) (s : State) : Host.Outcome State Fault Refusal :=
  amoInt (.amoMaxN b a d w u) 4 b a d w s

/-- AMO_AND (R266): Atomic AND. -/
noncomputable def execAmoAnd (b : BitVec 6) (a : BitVec 6) (d : BitVec 6) (w : Bool) (u : Bool) (s : State) : Host.Outcome State Fault Refusal :=
  amoInt (.amoAnd b a d w u) 5 b a d w s

/-- AMO_OR (R266): Atomic OR. -/
noncomputable def execAmoOr (b : BitVec 6) (a : BitVec 6) (d : BitVec 6) (w : Bool) (u : Bool) (s : State) : Host.Outcome State Fault Refusal :=
  amoInt (.amoOr b a d w u) 6 b a d w s

/-- AMO_XOR (R266): Atomic XOR. -/
noncomputable def execAmoXor (b : BitVec 6) (a : BitVec 6) (d : BitVec 6) (w : Bool) (u : Bool) (s : State) : Host.Outcome State Fault Refusal :=
  amoInt (.amoXor b a d w u) 7 b a d w s

/-- AMO_SWAP (R266): Atomic swap. -/
noncomputable def execAmoSwap (b : BitVec 6) (a : BitVec 6) (d : BitVec 6) (w : Bool) (u : Bool) (s : State) : Host.Outcome State Fault Refusal :=
  amoInt (.amoSwap b a d w u) 8 b a d w s

/-- AMO_CAS (R266): Atomic compare-and-swap with the expected value in d. -/
noncomputable def execAmoCas (b : BitVec 6) (a : BitVec 6) (d : BitVec 6) (w : Bool) (u : Bool) (s : State) : Host.Outcome State Fault Refusal :=
  amoInt (.amoCas b a d w u) 9 b a d w s

/-- AMO_FADD_F32 (R268): Atomic FP32 add at the home, rounded RNE. -/
noncomputable def execAmoFaddF32 (b : BitVec 6) (a : BitVec 6) (d : BitVec 6) (u : Bool) (s : State) : Host.Outcome State Fault Refusal :=
  amoForm (.amoFaddF32 b a d u) 4 b a d (fun s l => .fadd f32 (s.g.read l b).word.toNat) s

/-- AMO_FADD_BF16 (R268): Atomic BF16 add at the home. -/
noncomputable def execAmoFaddBf16 (b : BitVec 6) (a : BitVec 6) (d : BitVec 6) (u : Bool) (s : State) : Host.Outcome State Fault Refusal :=
  amoForm (.amoFaddBf16 b a d u) 2 b a d (fun s l => .fadd bf16 (s.g.read l b).word.toNat) s

/-- BANK_ADD_F32 (R270): Adds 16 FP32 elements into a bank line. -/
noncomputable def execBankAddF32 (b : BitVec 6) (a : BitVec 6) (s : State) : Host.Outcome State Fault Refusal :=
  bankForm (.bankAddF32 b a) 0 a b s

/-- BANK_ADD_BF16 (R270): Adds 32 BF16 elements into a bank line. -/
noncomputable def execBankAddBf16 (b : BitVec 6) (a : BitVec 6) (s : State) : Host.Outcome State Fault Refusal :=
  bankForm (.bankAddBf16 b a) 1 a b s

/-- BANK_MAX_F32 (R270): Elementwise FP32 maximum into a bank line. -/
noncomputable def execBankMaxF32 (b : BitVec 6) (a : BitVec 6) (s : State) : Host.Outcome State Fault Refusal :=
  bankForm (.bankMaxF32 b a) 2 a b s

/-- BANK_AXPY_F32 (R270): Adds α × V into a bank line with one rounding. -/
noncomputable def execBankAxpyF32 (b : BitVec 6) (a : BitVec 6) (s : State) : Host.Outcome State Fault Refusal :=
  bankForm (.bankAxpyF32 b a) 3 a b s

/-- BANK_SUM_F32 (R270): Returns the tree sum of a bank line's 16 FP32 elements. -/
noncomputable def execBankSumF32 (a : BitVec 6) (d : BitVec 6) (s : State) : Host.Outcome State Fault Refusal :=
  issue (.bankSumF32 a d) strict (fun _ => none) (bankSumAct (.bankSumF32 a d) a d) s

/-- FENCE (R252): Waits until earlier operations are performed and acknowledged for the given scope. -/
noncomputable def execFence (sc : BitVec 6) (s : State) : Host.Outcome State Fault Refusal :=
  issue (.fence sc) strict (fun _ => none) (fun s => withFollower (.fence sc) s fun s => withFence (sc == 7) s .done) s

/-- LD_SC (R273): SC load: package fence then performed on the Foghorn schedule. -/
noncomputable def execLdSc (a : BitVec 6) (d : BitVec 6) (u : Bool) (s : State) : Host.Outcome State Fault Refusal :=
  issue (.ldSc a d u) strict (fun _ => none) (fun s => scAct (.ldSc a d u) (scAsk s true a 0) true d s) s

/-- ST_SC (R273): SC store: package fence then performed on the Foghorn schedule. -/
noncomputable def execStSc (b : BitVec 6) (a : BitVec 6) (u : Bool) (s : State) : Host.Outcome State Fault Refusal :=
  issue (.stSc b a u) strict (fun _ => none) (fun s => scAct (.stSc b a u) (scAsk s false a b) false 0 s) s

/-- CC_CLEAN (R281): Writes a modified LP-DDR-5X line back to its channel. -/
noncomputable def execCcClean (a : BitVec 6) (u : Bool) (s : State) : Host.Outcome State Fault Refusal :=
  issue (.ccClean a u) strict (fun _ => none) (cleanAct (.ccClean a u) a) s

/-- CC_INVAL (R281): Writes back and removes a line from every cache. -/
noncomputable def execCcInval (a : BitVec 6) (u : Bool) (s : State) : Host.Outcome State Fault Refusal :=
  issue (.ccInval a u) strict (fun _ => none) (cleanAct (.ccInval a u) a) s

/-- CC_ZERO (R281): Writes 64 zero bytes at the home, clearing tags and poison. -/
noncomputable def execCcZero (a : BitVec 6) (u : Bool) (s : State) : Host.Outcome State Fault Refusal :=
  issue (.ccZero a u) strict (fun _ => none) (fun s => postAct (.ccZero a u) (cacheAsk s true a) (fun _ => 0) (op9Of (.ccZero a u)) none s) s

/-- PF (R281): Prefetches an LP-DDR-5X line into the cluster cache. -/
noncomputable def execPf (a : BitVec 6) (u : Bool) (s : State) : Host.Outcome State Fault Refusal :=
  issue (.pf a u) strict (fun _ => none) .done s

/-- AG_BIND (R274): Binds a stream register to an address generator from x0–x3. -/
noncomputable def execAgBind (b : BitVec 6) (kk : BitVec 6) (s : State) : Host.Outcome State Fault Refusal :=
  issue (.agBind b kk) ⟨true, false, true⟩ (fun _ => none) (agBindAct (.agBind b kk) b kk) s

/-- AG_UNBIND (R275): Ends a stream binding. -/
noncomputable def execAgUnbind (kk : BitVec 6) (s : State) : Host.Outcome State Fault Refusal :=
  issue (.agUnbind kk) strict (fun _ => none) (agAct kk fun _ s =>
    withFollower (.agUnbind kk) s fun s => .done (((s.disarmOn s.g.gang kk.toNat).clearStreamReg kk).shareStreams (s.g.streams.set (streamNo kk) none))) s

/-- AG_POS (R275): Reads a stream's consumed or appended count. -/
noncomputable def execAgPos (kk : BitVec 6) (d : BitVec 6) (s : State) : Host.Outcome State Fault Refusal :=
  issue (.agPos kk d) strict (fun _ => none) (agAct kk fun st s =>
    deliver (.agPos kk d) (s.g.acts.map fun l => (l.no, dataNat st.count)) [] s) s

/-- AG_DRAIN (R275): Waits until every append of a stream is performed. -/
noncomputable def execAgDrain (kk : BitVec 6) (s : State) : Host.Outcome State Fault Refusal :=
  issue (.agDrain kk) strict (fun _ => none) (agAct kk fun st s =>
    withFollower (.agDrain kk) s fun s => if st.append && s.storesOut then .wait s .fence else .done s) s

end Sys2Proof.Machine
end

