-- ==== Sys2Proof/Machine/Prefetch.lean ====
section
/-! DEFINITION. Prefetch units (15 R308 to R311; 16 R336, R337): the kernel subset, its runs, the arming, and the run-ahead of
a stream's generator (11 R239). -/

namespace Sys2Proof.Machine

/-! ### The kernel subset (15 R308) -/

/-- What a kernel's integer, capability, immediate and branch forms and `j` do: as on a strand. -/
noncomputable def kernelForm : Instr → Option (State → Host.Outcome State Fault Refusal)
  | .add b a n d u => some (execAdd b a n d u)
  | .sub b a n d u => some (execSub b a n d u)
  | .mul b a n d u => some (execMul b a n d u)
  | .mulhI b a n d u => some (execMulhI b a n d u)
  | .mulhN b a n d u => some (execMulhN b a n d u)
  | .and b a n d u => some (execAnd b a n d u)
  | .or b a n d u => some (execOr b a n d u)
  | .xor b a n d u => some (execXor b a n d u)
  | .andn b a n d u => some (execAndn b a n d u)
  | .shl b a n d u => some (execShl b a n d u)
  | .shr b a n d u => some (execShr b a n d u)
  | .sar b a n d u => some (execSar b a n d u)
  | .rol b a n d u => some (execRol b a n d u)
  | .ror b a n d u => some (execRor b a n d u)
  | .clz a n d u => some (execClz a n d u)
  | .ctz a n d u => some (execCtz a n d u)
  | .popc a n d u => some (execPopc a n d u)
  | .minI b a n d u => some (execMinI b a n d u)
  | .maxI b a n d u => some (execMaxI b a n d u)
  | .minN b a n d u => some (execMinN b a n d u)
  | .maxN b a n d u => some (execMaxN b a n d u)
  | .seq b a n d u => some (execSeq b a n d u)
  | .sne b a n d u => some (execSne b a n d u)
  | .sltI b a n d u => some (execSltI b a n d u)
  | .sltN b a n d u => some (execSltN b a n d u)
  | .sel b a n d u => some (execSel b a n d u)
  | .sext w a n d u => some (execSext w a n d u)
  | .zext w a n d u => some (execZext w a n d u)
  | .bfx b a n d u => some (execBfx b a n d u)
  | .bfi b a n d u => some (execBfi b a n d u)
  | .mov a n d u => some (execMov a n d u)
  | .rng b a n d u => some (execRng b a n d u)
  | .cbase a n d u => some (execCbase a n d u)
  | .ctop a n d u => some (execCtop a n d u)
  | .clen a n d u => some (execClen a n d u)
  | .cperm a n d u => some (execCperm a n d u)
  | .cwalk a n d u => some (execCwalk a n d u)
  | .ctag a n d u => some (execCtag a n d u)
  | .cbound b a n d u => some (execCbound b a n d u)
  | .cand b a n d u => some (execCand b a n d u)
  | .cwset b a n d u => some (execCwset b a n d u)
  | .cset b a n d u => some (execCset b a n d u)
  | .cinc b a n d u => some (execCinc b a n d u)
  | .cdiff b a n d u => some (execCdiff b a n d u)
  | .cclr a n d u => some (execCclr a n d u)
  | .cwithin b a n d u => some (execCwithin b a n d u)
  | .ccoord a n d u => some (execCcoord a n d u)
  | .addi imm a n d u => some (execAddi imm a n d u)
  | .andi imm a n d u => some (execAndi imm a n d u)
  | .ori imm a n d u => some (execOri imm a n d u)
  | .xori imm a n d u => some (execXori imm a n d u)
  | .shli sc a n d u => some (execShli sc a n d u)
  | .shri sc a n d u => some (execShri sc a n d u)
  | .sari sc a n d u => some (execSari sc a n d u)
  | .sltiI imm a n d u => some (execSltiI imm a n d u)
  | .sltiN imm a n d u => some (execSltiN imm a n d u)
  | .muli imm a n d u => some (execMuli imm a n d u)
  | .ldi imm n d u => some (execLdi imm n d u)
  | .bEq imm a d u => some (execBEq imm a d u)
  | .bNe imm a d u => some (execBNe imm a d u)
  | .bLt imm a d u => some (execBLt imm a d u)
  | .bGe imm a d u => some (execBGe imm a d u)
  | .bLtn imm a d u => some (execBLtn imm a d u)
  | .bGen imm a d u => some (execBGen imm a d u)
  | .cinci imm a n d u => some (execCinci imm a n d u)
  | .j imm => some (execJ imm)
  | _ => none

/-- A kernel's memory form: whether it stores, its size, sign extension, capability form, displacement, P, base and data. -/
def kernelMem : Instr → Option (Bool × Nat × Bool × Bool × Int × Bool × BitVec 6 × BitVec 6)
  | .ldI8 imm p a d _ => some (false, 1, true, false, dispBytes imm 1, p, a, d)
  | .ldN8 imm p a d _ => some (false, 1, false, false, dispBytes imm 1, p, a, d)
  | .ldI16 imm p a d _ => some (false, 2, true, false, dispBytes imm 2, p, a, d)
  | .ldN16 imm p a d _ => some (false, 2, false, false, dispBytes imm 2, p, a, d)
  | .ldI32 imm p a d _ => some (false, 4, true, false, dispBytes imm 4, p, a, d)
  | .ldN32 imm p a d _ => some (false, 4, false, false, dispBytes imm 4, p, a, d)
  | .ld64 imm p a d _ => some (false, 8, false, false, dispBytes imm 8, p, a, d)
  | .ld128 imm p a d _ => some (false, 16, false, false, dispBytes imm 16, p, a, d)
  | .ldCap imm p a d _ => some (false, 16, false, true, dispBytes imm 16, p, a, d)
  | .st8 imm p a d _ => some (true, 1, false, false, dispBytes imm 1, p, a, d)
  | .st16 imm p a d _ => some (true, 2, false, false, dispBytes imm 2, p, a, d)
  | .st32 imm p a d _ => some (true, 4, false, false, dispBytes imm 4, p, a, d)
  | .st64 imm p a d _ => some (true, 8, false, false, dispBytes imm 8, p, a, d)
  | .st128 imm p a d _ => some (true, 16, false, false, dispBytes imm 16, p, a, d)
  | .stCap imm p a d _ => some (true, 16, false, true, dispBytes imm 16, p, a, d)
  | _ => none

/-- N of a 32-bit word: bit 19 of the R format, bit 15 of the I format (04 R80). -/
def wordN (w : Nat) : Bool := if w / 4 % 4 = 0 then w / 2 ^ 19 % 2 == 1 else w / 4 % 4 == 1 && w / 2 ^ 15 % 2 == 1

/-- A kernel word: a form of the subset with U = 0 and N = 0 whose register fields name k0 to k15. -/
noncomputable def kernelOk (w : BitVec 32) : Bool :=
  match decode32 w.toNat with
  | none => false
  | some i =>
    let known := (kernelForm i).isSome || (kernelMem i).isSome ||
      (match i with | .pf _ _ => true | .ret a _ => a == 0 | _ => false)
    known && !isUniform i && !wordN w.toNat && (srcs i).all (fun c => decide (c.toNat < 16)) &&
      (match dst i with | some d => decide (d.toNat < 16) | none => true)

/-! ### A run (15 R309 to R311) -/

/-- Where a kernel's instruction 0 stands in the address space of the strand that a run is. -/
def kernelBase : Nat := 2 ^ 40

/-- A run as a strand of its own at an instruction: its registers, the windows and ASID of its arming, and code bounds that hold every
transfer. -/
def kernelGroup (core : Nat) (m : Arming) (k : Vector Val 56) (ix : Nat) : Group :=
  { Group.reset with
    core := core
    lanes := [⟨0, k, [], true, true⟩]
    slices := [⟨0, 0, 0, Vector.replicate 4 Val.zero, 0, 0, [], Vector.replicate 4 0, Vector.replicate 4 0, 0, 0, Val.zero⟩]
    sp := { Group.reset.sp with asid := m.asid, mwb := m.mwb, swb := m.swb }
    codeCap := flatCap 0xFF (2 ^ 40 - 2 ^ 30) (2 ^ 31)
    pc := BitVec.ofNat 64 (kernelBase + 4 * ix)
    run := .ready }

/-- The registers of a run's strand. -/
def Group.kernelRegs (g : Group) : Vector Val 56 := match g.lanes with | l :: _ => l.k | [] => Vector.replicate 56 Val.zero

/-- A check of an engine that walks for itself: the place, or none where the access may not be made. -/
def State.engineChk (s : State) (g : Group) (f : State → Chk) : Option (State × Place) :=
  match f s with
  | .ok p => some (s, p)
  | .trap _ => none
  | .walk va =>
    match s.fillTlb g.core g.sp.asid.toNat va with
    | none => none
    | some s1 => match f s1 with | .ok p => some (s1, p) | _ => none

/-- A write landed at a home by an agent that is no group: waiters notice it and creator words it touches are cleared. -/
def State.landed (s : State) (pa n : Nat) : State :=
  let s1 := s.noticed 0 pa n
  { s1 with creators := s1.creators.filter fun c => !decide (c.pa < pa + n ∧ pa < c.pa + 32) }

/-- An access of an engine of a core to another package leaves as a flit (22 R429). -/
def State.engineReq (s : State) (core : Nat) (p : Place) (op : MemOp) (k : BitVec 8) : State :=
  s.sendReq { src := core * 64, gid := 0, gang := 0, core := core, home := homeOf p.pa, pa := p.pa, va := 0, op := op, lanes := [], syms := [],
              entry := none, ans := false, pkg := some k, key := p.key, since := s.clk, sc := false } k

/-- How a run goes on after an instruction. -/
inductive KernelNext where
  | go (s : State) (k : Vector Val 56) (ix : Nat)
  /-- An engine owns a line of its access (12 R255). -/
  | wait
  | ended (s : State)
  | fault (s : State)
  deriving DecidableEq, Repr

/-- A memory form of a run: performed at its home with the registers after it, or waiting for a line, or a kernel fault; to store a
poisoned value is one too (03 R71). -/
def State.kernelAccess (s : State) (g : Group) (ix : Nat) (m : Bool × Nat × Bool × Bool × Int × Bool × BitVec 6 × BitVec 6) :
    KernelNext :=
  let (st, size, sx, cap, disp, p, a, d) := m
  let on (s : State) : State := { s with g := g }
  let q (s : State) : Ask := if st then storeAsk (on s) size cap disp p a d else loadAsk size sx cap disp p a
  match g.lanes with
  | [] => .fault s
  | l :: _ =>
    match s.engineChk g fun s => ((q s).chk (on s) l).1 with
    | none => .fault s
    | some (s1, pl) =>
      if st && ((l.reg d).tag == .poison || (l.reg d).isSym) then .fault s1
      else
      let (_, _, op) := (q s1).chk (on s1) l
      let after (g : Group) (v : Val) : Group :=
        let g1 := if st then g else g.write d [(0, v)]
        if p then g1.write a [(0, cinc (g.read l a) (intWord disp))] else g1
      match pl.pkg with
      | some k =>
        let s2 := { s1 with fresh := s1.fresh + 1 }.engineReq g.core pl op k
        match s1.farAccess k (s1.fresh * 256 + k.toNat) op pl.pa with
        | some v => .go s2 (after g v).kernelRegs (ix + 1)
        | none => .fault s2
      | none =>
        if s1.ownedAt pl.pa op.size then .wait
        else
          let r := s1.atHome op pl.pa pl.key
          if (s1.refusalFrom (dieOf g.core) op pl.pa).isSome then .fault s1
          else
            let s2 : State := { (s1.inspected op pl.pa pl.key).takesPort pl.pa with mem := r.mem }
            if r.refused.isSome || r.val.tag == .poison then .fault s2
            else
              let s3 := match r.wrote with | some (b, n) => s2.landed b n | none => s2
              .go s3 (after g r.val).kernelRegs (ix + 1)

/-- One instruction of a run at an index. -/
noncomputable def kernelStep (kernel : List (BitVec 32)) (core : Nat) (m : Arming) (s : State) (k : Vector Val 56) (ix : Nat) : KernelNext :=
  match kernel[ix]? with
  | none => if ix = kernel.length then .ended s else .fault s
  | some w =>
    match decode32 w.toNat with
    | none => .fault s
    | some i =>
      let u := kernelGroup core m k ix
      match i with
      | .ret _ _ => .ended s
      | .pf _ _ => .go s k (ix + 1)
      | i =>
        match kernelMem i with
        | some m =>
          s.kernelAccess u ix m
        | none =>
          match kernelForm i with
          | none => .fault s
          | some f =>
            match f { State.reset with g := u } with
            | .next t =>
              let off := t.g.pc.toNat - kernelBase
              if t.g.run ≠ .ready ∨ t.g.priv ≠ 0 ∨ t.g.pc.toNat < kernelBase ∨ off % 4 ≠ 0 then .fault s
              else .go s t.g.kernelRegs (off / 4)
            | _ => .fault s

/-- The registers of a run at its start. -/
def kernelStart (a : Arming) (n : Nat) (v : Val) : Vector Val 56 :=
  let put (k : Vector Val 56) (i : Nat) (v : Val) : Vector Val 56 := k.setIfInBounds i v
  (a.k.zipIdx).foldl (fun k p => put k (p.2 + 3) p.1) (put (put (Vector.replicate 56 Val.zero) 1 v) 2 (dataNat n))

/-! ### Units -/

/-- A core's prefetch unit. -/
def State.punit (s : State) (core : Nat) : PUnit := (s.punits.find? fun p => p.core == core).getD ⟨core, [], none, [], none, 0⟩

/-- Sets a core's unit. -/
def State.setPunit (s : State) (p : PUnit) : State := { s with punits := p :: s.punits.filter fun q => q.core != p.core }

/-- Whether runs of a unit are under way or due. -/
def PUnit.busy (u : PUnit) : Bool := u.run.isSome || !u.due.isEmpty

/-- `pfk.ld` (16 R336). -/
noncomputable def pfkLdAct (i : Instr) (b a : BitVec 6) (s : State) : Act :=
  match s.g.execs true with
  | [] => .done s
  | l :: _ =>
    let v := s.g.read l a
    let n := (s.g.read l b).word.toNat
    match spanTrap s.g v a [.r] true 4 [] 0 (4 * n) with
    | some t => .trap s t
    | none =>
      if n < 1 ∨ 64 < n then .trap s (trap 0x20 (BitVec.ofNat 64 n))
      else
        let runs := capRuns v 0 (4 * n)
        match s.capture s.g needR (fun _ => true) runs with
        | .inr e => s.captureFail e
        | .inl ps =>
          if s.inFlight || (xlines ps runs).any (fun n => s.ownedAt (n * 64) 64) then .wait s .localLoad
          else
            let word (j : Nat) : BitVec 32 := BitVec.ofNat 32 (s.mem.xat ps v (4 * j) 4)
            let bad (j : Nat) : Option Trap :=
              let at_ := capAddrs v (4 * j) 4
              if s.xbad s.g.core ps at_ then some (trap 0x12 (BitVec.ofNat 64 (at_.headD 0)))
              else if kernelOk (word j) then none else some (trap 0x20 (BitVec.ofNat 64 (0x400 + j)))
            match (upFrom 0 n).findSome? bad with
            | some t => .trap (s.readLines s.g.core ps (runAddrs runs)) t
            | none =>
              withWatch i (watchedRuns true false l.no runs) s fun s =>
                if (s.punit s.g.core).busy then .wait s .engineQueue
                else .done ((s.readLines s.g.core ps (runAddrs runs)).setPunit ⟨s.g.core, (upFrom 0 n).map word, none, [], none, 0⟩)

/-- `pfk.arm` (16 R337). -/
noncomputable def pfkArmAct (i : Instr) (b a : BitVec 6) (s : State) : Act :=
  match s.g.execs true with
  | [] => .done s
  | l :: _ =>
    let w := (s.g.read l a).word
    let reg : BitVec 6 := w.extractLsb' 0 6
    let ok := match s.g.stream reg with | some st => !st.append | none => false
    let u := s.punit s.g.core
    if !(decide (48 ≤ reg.toNat ∧ reg.toNat ≤ 55) && ok) then .trap s (trap 0x24 w)
    else if u.kernel.isEmpty then .trap s (trap 0x20 0)
    else
      withFollower i s fun s =>
        if u.busy then .wait s .engineQueue
        else
          let m : Arming :=
            { gang := s.g.gang, crew := s.g.sp.crew, reg := reg.toNat, tag := (s.g.read l b).bits.extractLsb' 0 12,
              k := [3, 4, 5, 6, 7].map fun c => l.reg c, dest := s.evqDest s.g, asid := s.g.sp.asid, mwb := s.g.sp.mwb, swb := s.g.sp.swb,
              live := true, id := s.nextId }
          .done { s.setPunit { u with arm := some m } with nextId := s.nextId + 1 }

/-- The run that a unit has under way, or the next that is due at its start. -/
def PUnit.next (u : PUnit) (a : Arming) : Option (KernelRun × PUnit) :=
  match u.run, u.due with
  | some r, _ => some (r, u)
  | none, (n, v) :: rest => let r : KernelRun := ⟨n, kernelStart a n v, 0, 0⟩; some (r, { u with run := some r, due := rest })
  | none, [] => none

/-- One instruction of a unit's run, the next due one starting with it (15 R309, R310). Reaching the 256th, or a fault, ends the run
without a further access, disarms the unit and is recorded (15 R311). Runs finish though the arming gang has ended. -/
noncomputable def State.runKernel (s : State) (core : Nat) : State :=
  let u := s.punit core
  match u.arm with
  | none => s
  | some a =>
    if u.run.isNone && s.unitHeld (.prefetch core) then s
    else
      match u.next a with
      | none => s
      | some (r, u1) =>
        let s0 := if u.run.isNone then s.lampEngine core 0 3 1 0 else s
        let fault (s : State) : State :=
          ((s.setPunit { u1 with arm := none, due := [], run := none }).lampEngine core 0 3 2 5).emitBy (.prefetch core) a.dest
            (recordBits 3 5 a.tag.toNat (core % 4) (BitVec.ofNat 64 r.n)) a.gang a.crew a.id
        let ended (s : State) : State :=
          let idle := u1.due.isEmpty && (!a.live || !(s.all.any fun g => g.gang == a.gang))
          (s.setPunit { u1 with arm := if idle then none else u1.arm, run := none }).lampEngine core 0 3 2 0
        if u.kernel.length = r.ix then ended s0
        else if 255 ≤ r.count then fault s0
        else
          match kernelStep u.kernel core a s0 r.regs r.ix with
          | .wait => s0.setPunit { u1 with at_ := s.clk }
          | .fault s1 => fault s1
          | .ended s1 => ended s1
          | .go s1 k ix => s1.setPunit { u1 with run := some { r with regs := k, ix := ix, count := r.count + 1 }, at_ := s.clk }

/-- The generator of a pop stream of the issuing group fetches the next line of index elements, within AHEAD of the
consumed count, and a unit armed on it is to run once for each element of the line (11 R239; 15 R309). -/
def State.runAhead (s : State) (c : BitVec 6) : State :=
  match s.g.stream c with
  | none => s
  | some st =>
    let f := max st.fetched st.count
    if st.append || decide (st.limit ≤ f) || decide (st.count + st.ahead ≤ f) then s
    else
      let place (s : State) (n : Nat) : Option (State × Place) :=
        s.engineChk s.g fun s => checkAccess s s.g st.base c (st.at_ n) st.size st.size [.r] ⟨true, false, false, false, false⟩
      match place s f with
      | none => s
      | some (s1, p0) =>
        let more := ((upFrom (f + 1) 64).takeWhile fun n => decide (n < st.limit) &&
          (match place s1 n with | some (_, p) => p.pkg == p0.pkg && p.pa / 64 == p0.pa / 64 | none => false))
        let line := f :: more
        let value (n : Nat) : Val :=
          match place s1 n with
          | some (_, p) =>
            match p.pkg with
            | some k => (s1.farAccess k (s1.clk * 256 + k.toNat) (.load st.size st.sx false) p.pa).getD poisonVal
            | none =>
              if (s1.refusalFrom (dieOf s1.g.core) (.load 1 false false) p.pa).isSome then poisonVal
              else (s1.atHome (.load st.size st.sx false) p.pa p.key).val
          | none => poisonVal
        let read := match p0.pkg with
          | some k => s1.engineReq s1.g.core p0 (.load st.size st.sx false) k
          | none => (s1.handOver (.load 64 false false) p0.pa p0.key).takesPort p0.pa
        let s2 := read.shareStreams
          (if h : c.toNat - 48 < 8 then s1.g.streams.set (c.toNat - 48) (some { st with fetched := f + line.length }) h else s1.g.streams)
        let u := s2.punit s2.g.core
        match u.arm with
        | some a =>
          if a.gang = s2.g.gang ∧ a.reg = c.toNat ∧ a.live then
            let s3 := s2.setPunit { u with due := u.due ++ line.map fun n => (n, value n) }
            -- no line is left: the stream has reached COUNT (15 R311)
            if st.limit ≤ f + line.length then s3.disarmOn s3.g.gang c.toNat else s3
          else s2
        | none => s2

/-! ### Meanings -/

/-- PFK_LD (R336): Loads a prefetch kernel into the unit. -/
noncomputable def execPfkLd (b : BitVec 6) (a : BitVec 6) (s : State) : Host.Outcome State Fault Refusal :=
  issue (.pfkLd b a) elected (fun _ => none) (pfkLdAct (.pfkLd b a) b a) s

/-- PFK_ARM (R337): Arms the prefetch unit on a pop stream. -/
noncomputable def execPfkArm (b : BitVec 6) (a : BitVec 6) (s : State) : Host.Outcome State Fault Refusal :=
  issue (.pfkArm b a) elected (fun _ => none) (pfkArmAct (.pfkArm b a) b a) s

/-- PREFETCH_KERNEL_RUN (R309): The prefetch unit runs its kernel once per element of a fetched index line. -/
noncomputable def execPrefetchKernelRun (core : Nat) (s : State) : Host.Outcome State Fault Refusal := .next (s.runKernel core).tick

/-- STREAM_RUN_AHEAD_FETCH (R239): An address generator fetches index lines ahead of the consumed count. -/
def execStreamRunAheadFetch (gid : Nat) (reg : Nat) (s : State) : Host.Outcome State Fault Refusal :=
  .next (s.onGroup gid fun s => s.runAhead (BitVec.ofNat 6 reg)).tick

end Sys2Proof.Machine
end

