-- ==== Sys2Proof/Machine/Engines.lean ====
section
/-! DEFINITION. Event queues and engine order (15 R315; 16 R340 to R342) and the collective engine (15 R312, R313; 16 R338,
R339). -/

namespace Sys2Proof.Machine

/-! ### Event queues -/

/-- A held record that has waited 65,536 clk is dropped, and DROP rises (15 R315). -/
def State.dropRecord (s : State) (idx : Nat) : State :=
  match s.records[idx]? with
  | none => s
  | some r =>
    match r.dest with
    | .host _ => s
    | .queue pa crew =>
      if s.clk < r.since + 65536 then s
      else
        let s1 : State := { s with records := s.records.eraseIdx idx }
        match s1.crews.find? fun c => c.id == crew && c.inAreas with
        | none => s1.poke (pa + 8) 4 ((s.evqDROP pa + 1) % 2 ^ 32)
        | some c =>
          -- the queue of a crew that is saved, or being saved or restored, lies in its region
          let va := s1.regionBase c + c.l0 + (pa % 2 ^ 19 - c.lo) + 8
          s1.pokeVA (s1.crewAsid crew) va 4 ((s1.readVA (s1.crewAsid crew) va 4 + 1) % 2 ^ 32) false

/-- The check of sr.evq as a base (16 R340, R341). -/
def State.evqChk (s : State) (w : Bool) : Chk :=
  let v := s.g.sp.evq
  checkAccess s s.g v 25 (index v) 1040 16 (if w then [.r, .w] else [.r]) ⟨true, w, false, false, false⟩

/-- `evq.rd` (16 R340): performed at the home as one operation; a remote home makes the result late. -/
noncomputable def evqRdAct (i : Instr) (d : BitVec 6) (s : State) : Act :=
  let rcv := s.g.acts.map (·.no)
  if s.g.sent then awaitAppend i d rcv s
  else if s.scPending then .wait s .fence
  else
    match s.evqChk true with
    | .trap t => .trap s t
    | .walk va => .wait (s.startWalk va) .translation
    | .ok p =>
      let at_ := cursorAddr s.g.sp.evq
      let a : Acc := ⟨s.g.lead, p, at_, .evqRd⟩
      withAppendOn i (watchedRuns true true s.g.lead [(at_, 8)] ++
          (if s.evqWR p.pa = s.evqRD p.pa then [] else watchedRuns true false s.g.lead [(at_ + 16 + 16 * (s.evqRD p.pa % 64), 16)])) d s fun s =>
        if s.immediate a then
          let (s1, v) := s.performOwn a
          let s2 := s1.flushQueue p.pa
          awaitAppend i d rcv { s2 with g := { s2.g with sent := true, answers := rcv.map fun n => (n, .ok v) } }
        else if d = 0 then .done (State.makeReads true [] [] false [a] s).1
        else if (s.g.stream d).isSome then
          let s0 := { s with g := { s.g with sent := true, answers := [] } }
          awaitAppend i d rcv (State.makeReads true rcv [] true [a] s0).1
        else
          match s.freshIds (slicesOf rcv) with
          | none => .wait s .symPool
          | some ids =>
            let syms := rcv.map fun n => (n, match mapGet (n / 4) ids with | some id => pureSym id | none => Val.zero)
            let s1 := (State.makeReads true rcv ids false [a] (s.newSyms ids rcv [])).1
            .done { s1 with g := s1.g.write d syms }

/-- Whether the queue at a header holds a record (16 R341): in another package, the header's words as they are at this clk are free values
(log 16). -/
def State.evqHolds (s : State) (p : Place) : Bool :=
  match p.pkg with
  | none => s.evqWR p.pa != s.evqRD p.pa
  | some k =>
    let word (a : Nat) : Nat := leNat ((upFrom a 4).map fun b => Config.farByte (s.clk * 256 + k.toNat) b)
    (s.routeTo k).isSome && word p.pa != word (p.pa + 4)

/-- `evq.wait` (16 R341): 1 once a record is there, 0 after the time limit. -/
noncomputable def evqWaitAct (i : Instr) (d : BitVec 6) (s : State) : Act :=
  let out (s : State) (v : Val) : Act := putReg i d (s.g.acts.map fun l => (l.no, v)) s .done
  let acs := watchedRuns true false s.g.lead [(cursorAddr s.g.sp.evq, 8)]
  match s.evqChk false with
  | .trap t => .trap s t
  | .walk va => .wait (s.startWalk va) .translation
  | .ok p =>
    match s.g.answers with
    | (_, .ok v) :: _ => out s v
    | _ =>
      if s.g.sent then (if s.evqHolds p then out s (dataNat 1) else .wait s .evq)
      else
        withAppendOn i acs d s fun s =>
          -- the arming reaches the header's home
          let s1 := match p.pkg with | some k => s.engineReq s.g.core p (.load 8 false false) k | none => s
          let armed : State := { s1 with g := { s1.g with sent := true, answers := [] } }
          if s.evqHolds p then out armed (dataNat 1) else .wait armed .evq

/-- The time limit of an `evq.wait` passes with the queue still empty: it writes 0. -/
def State.evqTimeout (s : State) (gid : Nat) : State :=
  s.onGroup gid fun s =>
    match s.g.run with
    | .waiting .evq since =>
      if since + s.g.sp.felim.toNat ≤ s.clk && s.g.answers.isEmpty then { s with g := { s.g with answers := [(s.g.lead, .ok Val.zero)] } } else s
    | _ => s

/-- Whether engine operations of the issuing strand or gang numbered below a mark are not complete (16 R342): copies with their
records, array instructions, open collectives, kernel runs, and state-store transfers with their records. -/
def State.enginesOut (s : State) (before : Nat) : Bool :=
  let mine (gang id : Nat) : Bool := gang == s.g.gang && decide (id < before)
  s.copies.any (fun o => mine o.gang o.id) || s.arrays.any (fun a => a.order.any fun o => mine o.gang o.id) ||
    s.colls.any (fun c => !c.closed && c.parts.any fun p => mine p.gang p.op) ||
    s.punits.any (fun p => p.arm.any (fun a => mine a.gang a.id) && p.busy) ||
    s.stores.any (fun u => u.reqs.any fun r => mine r.gang r.op) || s.records.any fun r => r.completes && mine r.gang r.op

/-- `eng.fence`: a fence, then the wait for the engine operations that were issued before it. -/
noncomputable def engFenceAct (i : Instr) (s : State) : Act :=
  let before := match s.g.run with | .waiting (.engines n) _ => n | _ => s.nextId
  withFollower i s fun s =>
    if !s.quiet false || s.enginesOut before then .wait s (.engines before) else .done s

/-! ### The collective engine -/

/-- OP. -/
def kOp (x : Vector Word 7) : Nat := xf x 0 48 4
/-- ET. -/
def kEt (x : Vector Word 7) : Nat := xf x 0 46 2
/-- CMB. -/
def kMax (x : Vector Word 7) : Bool := xf x 0 45 1 == 1
/-- NP. -/
def kNP (x : Vector Word 7) : Nat := xf x 0 38 7
/-- ROOT. -/
def kRoot (x : Vector Word 7) : Nat := xf x 0 32 6
/-- GID. -/
def kGid (x : Vector Word 7) : Nat := xf x 0 28 4
/-- LEN. -/
def kLen (x : Vector Word 7) : Nat := xf x 1 0 32
/-- TLIM. -/
def kTlim (x : Vector Word 7) : Nat := xf x 1 32 32

/-- The bytes of an element type: f32, bf16, i64. -/
def etSize (et : Nat) : Nat := if et = 0 then 4 else if et = 1 then 2 else 8

/-- The rules of a collective descriptor (16 R338). -/
def collBad (x : Vector Word 7) : Bool :=
  let r (c : BitVec 6) : Bool := decide (1 ≤ c.toNat ∧ c.toNat ≤ 55)
  !(decide (kOp x ≤ 3) && decide (kEt x ≠ 3) && decide (1 ≤ kNP x ∧ kNP x ≤ 64) && xf x 0 12 16 == 0 && r (kDst x) && r (kSrc x) &&
    (if kOp x = 3 then decide (kRoot x < kNP x) else kRoot x == 0) && decide (1 ≤ kTlim x) && decide (1 ≤ kLen x) &&
    (!kMax x || kEt x == 0) && decide (kLen x % etSize (kEt x) = 0) &&
    (kOp x != 1 || decide (kLen x % (kNP x * etSize (kEt x)) = 0)))

/-- The bytes each participant's destination takes. -/
def kDstLen (x : Vector Word 7) : Nat :=
  match kOp x with
  | 1 => kLen x / kNP x
  | 2 => kNP x * kLen x
  | _ => kLen x

/-! ### Open collectives -/

/-- Whether a collective is over: every participant had its record, but those whose crew was killed, and none of its records is still
held (16 R339). -/
def State.collOver (s : State) (c : Coll) : Bool :=
  c.parts.isEmpty || (c.closed && decide (c.np ≤ c.parts.length + c.lost) && !s.records.any fun r =>
    (match r.unit with | .collective _ => true | _ => false) && c.parts.any fun p => p.op == r.op)

/-- An open collective of a task by its group. -/
def State.coll (s : State) (task group : Nat) : Option Coll := s.colls.find? fun c => c.task == task && c.group == group && !s.collOver c

/-- Changes a collective. -/
def State.mapColl (s : State) (task group : Nat) (f : Coll → Coll) : State :=
  { s with colls := s.colls.map fun c => if c.task = task ∧ c.group = group then f c else c }

/-- Collectives that are over are gone, and their groups free again (16 R339). -/
def State.freeColls (s : State) : State := { s with colls := s.colls.filter fun c => !s.collOver c }

/-- Participants in their order: ascending package and die. -/
def sortParts (ps : List Participant) : List Participant :=
  (upFrom 0 (256 * 8)).filterMap fun n => ps.find? fun p => p.pkg * 8 + p.die == n

/-- Whose contribution counts: participants with the first one's fields that arrived in time. -/
def Coll.givers (c : Coll) : List Participant := (sortParts c.parts).filter fun p => p.matching && !p.late

/-- The index of a participant: its place among all of them, or among the dies the task runs on while some are missing. -/
def Coll.indexOf (c : Coll) (dies : BitVec 6) (p : Participant) : Nat :=
  let spread := ((upFrom 0 6).filter fun d => dies.getLsbD d).length == c.np
  if c.givers.length < c.np && spread then ((upFrom 0 p.die).filter fun d => dies.getLsbD d).length
  else (c.givers.takeWhile fun q => q.op != p.op).length

/-- The bitmap of the participants that contributed. -/
def Coll.bitmap (c : Coll) (dies : BitVec 6) : Word := (c.givers.map fun p => 2 ^ c.indexOf dies p).foldl (fun w n => w ||| BitVec.ofNat 64 n) 0

/-- One combining step (15 R312): f32 or bf16 addition or i64 addition, or f32 maximum. -/
def combine (et : Nat) (mx : Bool) (a b : Nat) : Nat :=
  if mx then canonical (fpFmt f32) (fpMinMax (fpFmt f32) true a b)
  else
    match et with
    | 0 => canonical (fpFmt f32) (fpAdd (fpFmt f32) 0 false a b)
    | 1 => canonical (fpFmt bf16) (fpAdd (fpFmt bf16) 0 false a b)
    | _ => (a + b) % 2 ^ 64

/-- Values combined two at a time in an order that is not promised (12 R259; 15 R312): each step's pair is free (log 4). -/
def combineFree (et : Nat) (mx : Bool) : Nat → Nat → List Nat → Nat
  | 0, _, l => l.headD 0
  | _, _, [] => 0
  | _, _, [a] => a
  | n + 1, seed, l =>
    let i := (Config.freeWord seed).toNat % l.length
    let rest := l.eraseIdx i
    let j := (Config.freeWord (seed + 1)).toNat % rest.length
    combineFree et mx n (seed + 2) (combine et mx (l.getD i 0) (rest.getD j 0) :: rest.eraseIdx j)

/-- A participant's source bytes, each with whether its line is poisoned; those of a crew of another package are free values (log 80).
DESIGN CHOICE: the spec does not say what a source line does whose home refuses the read; it counts as poisoned (log 80). -/
def Participant.bytes (p : Participant) (s : State) (len : Nat) : List (Byte × Bool) :=
  if p.away then (upFrom 0 len).map fun k => (Config.farByte p.op k, Config.farPoison p.op (k / 64))
  else (capAddrs p.src 0 len).map fun a => ((s.mem.xbyte p.spages a).1, s.xbad p.core p.spages [a])

/-- The combination of the buffers of the contributors, element by element; `n` elements from `k`. -/
def combineAll (et : Nat) (mx : Bool) (bufs : List (List (Byte × Bool))) (seed : Nat) : Nat → Nat → List (Byte × Bool)
  | 0, _ => []
  | n + 1, k =>
    let w := etSize et
    let el := bufs.map fun b => (b.drop (k * w)).take w
    let v := combineFree et mx 64 (seed + 128 * k) (el.map fun e => leNat (e.map (·.1)))
    let bad := el.any fun e => e.any (·.2)
    ((natBytes w v).map fun b => (b, bad)) ++ combineAll et mx bufs seed n (k + 1)

/-- What a participant's destination takes, by offset: the bytes and whether their source is poisoned. -/
def Coll.result (c : Coll) (s : State) (dies : BitVec 6) (p : Participant) : List (Nat × Byte × Bool) :=
  let gs := c.givers
  let at_ (off : Nat) (bs : List (Byte × Bool)) : List (Nat × Byte × Bool) := (bs.zipIdx).map fun b => (off + b.2, b.1)
  let all := combineAll c.et c.max (gs.map fun q => q.bytes s c.len) s.fresh (c.len / etSize c.et) 0
  match c.op with
  | 0 => at_ 0 all
  | 1 =>
    let n := c.len / c.np
    at_ 0 ((all.drop (c.indexOf dies p * n)).take n)
  | 2 => gs.flatMap fun q => at_ (c.indexOf dies q * c.len) (q.bytes s c.len)
  | _ => match gs.find? fun q => c.indexOf dies q == c.root with
    | some q => at_ 0 (q.bytes s c.len)
    | none => []

/-- A participant's record (15 R314; 16 R339). -/
def State.collRecord (s : State) (p : Participant) (status : Nat) (count : Word) : State :=
  let s1 := s.lampEngine p.core (match capAddrs p.dst 0 1 with | a :: _ => a | [] => 0) 4 2 status
  if p.tag = 0 then s1 else s1.emitBy (.collective p.die) p.dest (recordBits 4 status p.tag.toNat (p.core % 256) count) p.gang p.crew p.op

/-- A participant's result is placed: its lines are written, the others released, and its record follows. -/
def State.placeResult (s : State) (c : Coll) (dies : BitVec 6) (whole : Bool) (res : List (Nat × Byte × Bool)) (p : Participant) : State :=
  let vas := capAddrs p.dst 0 (res.foldl (fun h r => max h (r.1 + 1)) 0)
  let bs : List (Nat × Byte × Bool) := res.map fun r => (vas.getD r.1 0, r.2.1, r.2.2)
  let bytes := bs.map fun b => (b.1, b.2.1)
  let lines := (s.ownedLines p.op).filter fun l => bytes.any fun b => match xpa p.dpages b.1 with | some (pa, _) => pa / 64 == l | none => false
  let (s1, r) := State.writeLines p.core p.op p.dpages bytes (badLine p.dpages bs) lines s
  let (s2, far) := (s1.disown p.op).writeAway p.core p.dpages bytes
  match r.or far with
  | some (va, _) => s2.collRecord p 3 va
  | none =>
    -- COUNT of a whole collective is not stated: a free value (log 4)
    ({ s2 with fresh := s2.fresh + 1 }).collRecord p (if !whole then 6 else if badBytes bs then 2 else 0)
      (if whole then Config.freeWord s2.fresh else c.bitmap dies)

/-- The combination is made of the contributions there are, and the result of every participant of this package is placed. -/
def State.closeColl (s : State) (c : Coll) (whole : Bool) : State :=
  let dies := match s.task c.task with | some t => t.dies | none => 0
  let here := c.givers.filter fun p => !p.away
  let results := here.map fun p => (p, c.result s dies p)
  let s0 := here.foldl (fun s p => s.readLines p.core p.spages (capAddrs p.src 0 c.len)) { s with fresh := s.fresh + 128 * (c.len + 1) }
  let s1 := results.foldl (fun s r => s.placeResult c dies whole r.2 r.1) s0
  (s1.mapColl c.task c.group fun c => { c with closed := true }).freeColls

/-- Whether an engine of a participant holds a record (15 R315). -/
def State.collHeld (s : State) (c : Coll) : Bool := c.parts.any fun p => s.unitHeld (.collective p.die)

/-- Every contribution has arrived (15 R313). -/
def State.completeColl (s : State) (idx : Nat) : State :=
  match s.colls[idx]? with
  | none => s
  | some c => if c.closed || decide (c.givers.length < c.np) || s.collHeld c then s else s.closeColl c true

/-- A time limit passes with contributions missing (15 R313). -/
def State.collTimeout (s : State) (idx : Nat) : State :=
  match s.colls[idx]? with
  | none => s
  | some c =>
    if c.closed || decide (c.np ≤ c.givers.length) || s.collHeld c || !(c.parts.any fun p => decide (p.deadline ≤ s.clk)) then s
    else s.closeColl c false

/-- A contribution (16 R338, R339): joined to the open collective of its group, or the first of a new one. One that differs, or arrives
after the combination was made or the time limit has passed (15 R313), contributes nothing and has its record at once. -/
def State.joinColl (s0 : State) (k : Coll) (p : Participant) : State :=
  let s := s0.freeColls
  match s.coll k.task k.group with
  | none => { s with colls := s.colls ++ [{ k with parts := [p] }] }
  | some c =>
    let same := decide ({ c with parts := [], closed := false, lost := 0 } = k)
    let late := c.closed || c.parts.any fun q => decide (q.deadline ≤ s.clk)
    let q : Participant := { p with matching := same, late := late }
    let s1 := s.mapColl c.task c.group fun c => { c with parts := c.parts ++ [q] }
    if same && !late then s1
    else
      let dies := match s.task c.task with | some t => t.dies | none => 0
      let s2 := s1.disown q.op
      (if q.away then s2 else s2.collRecord q 6 (c.bitmap dies)).freeColls

/-- The collective that a descriptor of a task names. -/
def collOf (task : Nat) (x : Vector Word 7) : Coll :=
  { task := task, group := kGid x, op := kOp x, et := kEt x, max := kMax x, np := kNP x, root := kRoot x, len := kLen x, parts := [],
    closed := false, lost := 0 }

/-- A contribution to a collective whose participants are more than the task's dies here goes to the other packages of the task's
launch (15 R312; 22 R444; log 80). -/
def State.sendColl (s : State) (k : Coll) (core tlim : Nat) : State :=
  match s.task k.task with
  | none => s
  | some t =>
      if k.np ≤ ((upFrom 0 6).filter fun d => t.dies.getLsbD d).length then s
      else
        let opf := ((t.light.map (·.2)).getD 0) % 2 ^ 64 + t.group % 2 ^ 16 * 2 ^ 64 + k.group * 2 ^ 80 + k.op * 2 ^ 84 + k.et * 2 ^ 88 + k.max.toNat * 2 ^ 90 +
          k.np * 2 ^ 91 + k.root * 2 ^ 98 + k.len * 2 ^ 104 + tlim * 2 ^ 136
        (s.peers t).foldl (fun s n => s.sendFlit 7 (BitVec.ofNat 8 n) core 0 0 0 opf []) s

/-- The issue of `coll` (16 R338, R339). -/
noncomputable def collAct (i : Instr) (s : State) : Act :=
  match s.g.execs true with
  | [] => .done s
  | l :: ls =>
    let x := s.g.x7
    let sv := s.g.read l (kSrc x)
    let dv := s.g.read l (kDst x)
    let e := etSize (kEt x)
    let sr := capRuns sv 0 (kLen x)
    let dr := capRuns dv 0 (kDstLen x)
    withNamed s (l :: ls) [kSrc x, kDst x] <|
      match spanTrap s.g sv (kSrc x) [.r] false e sr 0 (kLen x), spanTrap s.g dv (kDst x) [.w] false e dr 0 (kDstLen x) with
      | some t, _ => .trap s t
      | none, some t => .trap s t
      | none, none =>
        match s.capture s.g needR (fun _ => true) sr, s.capture s.g needW (fun _ => true) dr with
        | .inr e, _ => s.captureFail e
        | .inl _, .inr e => s.captureFail e
        | .inl sp, .inl dp =>
          let die := dieOf s.g.core
          let again := match s.coll s.g.sp.task (kGid x) with
            | some c => c.parts.any fun p => p.crew == s.g.sp.crew || (p.pkg == s.pkg.pod.toNat && p.die == die)
            | none => false
          if again then .trap s (trap 0x20 (BitVec.ofNat 64 (kGid x)))
          else
            withFollower i s fun s =>
              let p : Participant :=
                { pkg := s.pkg.pod.toNat, die := die, gang := s.g.gang, crew := s.g.sp.crew, core := s.g.core, dest := s.evqDest s.g,
                  tag := BitVec.ofNat 12 (xf x 0 52 12), src := sv, dst := dv, spages := sp, dpages := dp,
                  deadline := s.clk + kTlim x, matching := true, late := false, op := s.nextId,
                  away := false }
              let s1 : State := { s.own s.nextId (xlines dp dr) with nextId := s.nextId + 1 }
              .done ((s1.lampEngine s.g.core (match dr with | r :: _ => r.1 | [] => 0) 4 1 0).joinColl (collOf s.g.sp.task x) p |>.sendColl (collOf s.g.sp.task x) s.g.core (kTlim x))

/-! ### Meanings -/

/-- COLL (R338): Contributes to a collective operation of the die's collective engine. -/
noncomputable def execColl (s : State) : Host.Outcome State Fault Refusal :=
  issue .coll elected (fun s => if collBad s.g.x7 then some (encTrap .coll s) else none) (collAct .coll) s

/-- EVQ_RD (R340): Consumes one completion record from the event queue. -/
noncomputable def execEvqRd (d : BitVec 6) (s : State) : Host.Outcome State Fault Refusal :=
  issue (.evqRd d) elected (fun _ => none) (evqRdAct (.evqRd d) d) s

/-- EVQ_WAIT (R341): Arms at the event queue header and sleeps until a record is present. -/
noncomputable def execEvqWait (d : BitVec 6) (s : State) : Host.Outcome State Fault Refusal :=
  issue (.evqWait d) elected (fun _ => none) (evqWaitAct (.evqWait d) d) s

/-- ENG_FENCE (R342): Waits for earlier memory and engine operations of the group. -/
noncomputable def execEngFence (s : State) : Host.Outcome State Fault Refusal :=
  issue .engFence elected (fun _ => none) (engFenceAct .engFence) s

/-- EVENT_RECORD_DROP (R315): A record held 65,536 clk for a full queue is dropped and DROP rises. -/
def execEventRecordDrop (idx : Nat) (s : State) : Host.Outcome State Fault Refusal := .next (s.dropRecord idx).tick

/-- COLLECTIVE_COMPLETION (R313): Every contribution has arrived and each participant's result is placed. -/
def execCollectiveCompletion (idx : Nat) (s : State) : Host.Outcome State Fault Refusal := .next (s.completeColl idx).tick

/-- COLLECTIVE_TIME_LIMIT (R313): The time limit passes and the partial combination is delivered with STATUS 0x06. -/
def execCollectiveTimeLimit (idx : Nat) (s : State) : Host.Outcome State Fault Refusal := .next (s.collTimeout idx).tick

/-- EVQ_WAIT_TIME_LIMIT (R341): sr.felim clk pass from issue with the event queue still empty and evq.wait writes DATA 0 without a trap. -/
def execEvqWaitTimeLimit (gid : Nat) (s : State) : Host.Outcome State Fault Refusal := .next (s.evqTimeout gid).tick

end Sys2Proof.Machine
end

