-- ==== Sys2Proof/Machine/StateStore.lean ====
section
/-! DEFINITION. The state-store units and the instructions `rs.open` to `rs.pos` (17): slots, pages, handles, working frames
and Daymarks. -/

namespace Sys2Proof.Machine

/-! ### Units, pages and handles (17 R347, R348) -/

/-- The unit of a die. -/
def State.store_ (s : State) (die : Nat) : StoreUnit := (s.stores.find? fun u => u.die == die).getD ⟨die, [], [], []⟩

/-- Sets the unit of its die; the pages in use follow. -/
def State.setStore (s : State) (u : StoreUnit) : State :=
  State.settlePages { s with stores := u :: s.stores.filter fun v => v.die != u.die }

/-- GEN of a slot number: 1 after the unit's reset. -/
def StoreUnit.gen (u : StoreUnit) (n : Nat) : Nat := (mapGet n u.gens).getD 1

/-- The handle of a slot of a unit. -/
def StoreUnit.handle (u : StoreUnit) (n : Nat) : Word := BitVec.ofNat 64 (u.gen n * 2 ^ 16 + u.die * 2 ^ 13 + n)

/-- DIE and SLOT of a handle. -/
def handleDie (h : Word) : Nat := (h.extractLsb' 13 3).toNat
/-- SLOT of a handle. -/
def handleSlot (h : Word) : Nat := (h.extractLsb' 0 13).toNat

/-- The open slot a handle names for an ASID (17 R348): the handle of that slot is the only one that is valid. -/
def StoreUnit.named (u : StoreUnit) (h : Word) (asid : Nat) : Option Slot :=
  u.slots.find? fun sl => u.handle sl.no == h && sl.asid == asid

/-- Replaces a slot of a unit. -/
def StoreUnit.put (u : StoreUnit) (sl : Slot) : StoreUnit := { u with slots := sl :: u.slots.filter fun x => x.no != sl.no }

/-- The lowest FREE slot (17 R356). -/
def StoreUnit.freeSlot (u : StoreUnit) : Option Nat := (upFrom 0 8192).find? fun n => !u.slots.any fun sl => sl.no == n

/-- Page `n` of a die's pool of 524,288 pages: the upper 2 GiB of its shared memory (log 17). -/
def poolPage (die n : Nat) : Nat := (Config.sharedBase + die * 2 ^ 32 + 2 ^ 30) / 4096 + n

/-- The firmware has mapped the shared memory in which a page lies (26 R490). -/
def State.mappedShared (s : State) (page : Nat) : Bool :=
  let p := (page - Config.sharedBase / 4096) / 16
  s.pkg.firmware.takenShared.any fun r => decide (r.1 ≤ p ∧ p < r.1 + r.2)

/-- The lowest `n` free pages of a die's pool, or none if there are fewer. -/
def State.freePages (s : State) (die n : Nat) : Option (List Nat) :=
  let ps := (((upFrom 0 524288).map (poolPage die)).filter fun p => !s.pkg.ssPages.contains p && !s.mappedShared p).take n
  if ps.length < n then none else some ps

/-! ### Issue (17 R354 to R362) -/

/-- EVTAG, FIRST and COUNT of a transfer's x0 (17 R358). -/
def xferTag (x : Word) : BitVec 12 := x.extractLsb' 52 12
/-- FIRST. -/
def xferFirst (x : Word) : Nat := (x.extractLsb' 20 16).toNat
/-- COUNT. -/
def xferCount (x : Word) : Nat := (x.extractLsb' 0 7).toNat

/-- A malformed x0 of a transfer (17 R358). -/
def xferBad (x : Word) : Bool :=
  x.extractLsb' 36 16 != 0 || x.extractLsb' 7 13 != 0 || decide (xferCount x = 0 ∨ 64 < xferCount x)

/-- A position operand that is none (17 R349). -/
def positionBad (p : Word) : Bool := p.extractLsb' 32 32 != 0 || p == 0xFFFFFFFF

/-- The request of the issuing group to a unit. -/
def State.ssReq (s : State) (die : Nat) (h : Word) (ask : SsAsk) (b : Val) (ps : List XPage) (tag : BitVec 12) : SsReq :=
  { die := die, src := s.g.srcOf s.g.lead, gid := s.g.gid, gang := s.g.gang, crew := s.g.sp.crew, core := s.g.core, asid := s.g.sp.asid.toNat,
    task := s.g.sp.task, handle := h, ask := ask, tag := tag, dest := s.evqDest s.g, base := b, pages := ps, x0 := s.g.xr 0, op := s.nextId,
    accepted := false, answer := none, asked := true, ended := false }

/-- A request is sent unless 256 wait at the unit, after the check of the follower, and of the appends of the answer where a stream is
bound to its destination, and the group waits for the answer (04 R89; 11 R240; 17 R354, R355). -/
noncomputable def State.askStore (s : State) (i : Instr) (r : SsReq) : Act :=
  let u := s.store_ r.die
  if 256 ≤ (u.reqs.filter fun q => !q.ended).length then .wait s .engineQueue
  else
    withAppend i ((dst i).getD 0) s fun s =>
      let s1 := s.setStore { u with reqs := u.reqs ++ [r] }
      .wait { s1 with nextId := s1.nextId + 1, g := { s1.g with sent := true, answers := [] } } .stateStore

/-- The operand in the lowest active lane. -/
def Group.word (g : Group) (c : BitVec 6) : Word :=
  match g.execs true with
  | l :: _ => (g.read l c).bits.setWidth 64
  | [] => 0

/-- An instruction that asks a unit and writes what it answers: `ask` checks the operands and sends the request. -/
noncomputable def ssAct (i : Instr) (d : BitVec 6) (ask : State → Act) (s : State) : Act :=
  match s.g.execs true with
  | [] => .done s
  | _ :: _ =>
    if s.g.sent then
      match s.g.answers with
      | [] => .wait s .stateStore
      | (_, .fail c t) :: _ => .trap s (trap c t)
      | (_, .ok v) :: _ => if d = 0 then .done s else putReg i d (s.g.acts.map fun l => (l.no, v)) s .done
    else ask s

/-- A request on a handle: one whose DIE names no unit is never valid (17 R348). -/
noncomputable def State.askHandle (s : State) (i : Instr) (h : Word) (ask : SsAsk) (b : Val) (ps : List XPage) (tag : BitVec 12) : Act :=
  if 5 < handleDie h then .trap s (trap 0x28 h) else s.askStore i (s.ssReq (handleDie h) h ask b ps tag)

/-- `rs.open` (17 R356). -/
noncomputable def rsOpenAsk (i : Instr) (b a : BitVec 6) (s : State) : Act :=
  let id := s.g.word a
  let g := s.g.word b
  let n := (g.extractLsb' 0 20).toNat
  if id.extractLsb' 32 32 ≠ 0 then .trap s (trap 0x28 id)
  else if g.extractLsb' 24 40 ≠ 0 ∨ n = 0 ∨ 65536 < n then .trap s (trap 0x28 g)
  else
    s.askStore i (s.ssReq (dieOf s.g.core) 0 (.open_ id.toNat n ((g.extractLsb' 20 4).toNat + 1)) Val.zero [] 0)

/-- `rs.rd` (17 R358), or `rs.wr` if `wr`: the local side is checked and captured at issue. -/
noncomputable def rsMoveAsk (i : Instr) (wr : Bool) (b a : BitVec 6) (s : State) : Act :=
  match s.g.execs true with
  | [] => .done s
  | l :: _ =>
    let x0 := s.g.xr 0
    let v := s.g.read l b
    let n := xferCount x0 * 4096
    let runs := capRuns v 0 n
    match spanTrap s.g v b [if wr then .r else .w] false 64 runs 0 n with
    | some t => .trap s t
    | none =>
      match s.capture s.g (if wr then needR else needW) isLocalPA runs with
      | .inr e => s.captureFail e
      | .inl ps =>
        match runs.find? fun r => (xpa ps r.1).isNone with
        | some r => .trap s (trap 0x09 (BitVec.ofNat 64 r.1))
        | none =>
          let ask := if wr then SsAsk.wr (xferFirst x0) (xferCount x0) else .rd (xferFirst x0) (xferCount x0)
          s.askHandle i (s.g.word a) ask v ps (xferTag x0)

/-- `rs.snap` and `rs.roll` (17 R360). -/
noncomputable def rsMarkAsk (i : Instr) (f : Word → SsAsk) (b a : BitVec 6) (s : State) : Act :=
  if positionBad (s.g.word b) then .trap s (trap 0x28 (s.g.word b)) else s.askHandle i (s.g.word a) (f (s.g.word b)) Val.zero [] 0

/-- `rs.fork` (17 R357). -/
noncomputable def rsForkAsk (i : Instr) (b a : BitVec 6) (s : State) : Act :=
  let x0 := s.g.xr 0
  if x0.extractLsb' 32 32 ≠ 0 then .trap s (trap 0x28 x0) else rsMarkAsk i (fun p => .fork p x0) b a s

/-! ### At the unit (17 R350 to R353) -/

/-- Whether a request waits its turn in a slot's order behind another (17 R352). -/
def StoreUnit.firstOf (u : StoreUnit) (r : SsReq) : Bool :=
  match (u.reqs.filter fun q => q.accepted && !q.ended && q.handle == r.handle).head? with
  | some q => q.op == r.op
  | none => true

/-- Replaces a request by its operation number. -/
def StoreUnit.mapReq (u : StoreUnit) (op : Nat) (f : SsReq → SsReq) : StoreUnit :=
  { u with reqs := u.reqs.map fun r => if r.op = op then f r else r }

/-- A request is over, and its answer is on its way. -/
def SsReq.done (a : Answer) (r : SsReq) : SsReq := { r with answer := some a, ended := true }

/-- `rs.open` at the unit (17 R356). -/
def State.openSlot (s : State) (u : StoreUnit) (r : SsReq) (seq size depth : Nat) : State :=
  let fin (s : State) (a : Answer) : State := s.setStore ((s.store_ u.die).mapReq r.op (SsReq.done a))
  if u.slots.any fun sl => sl.asid == r.asid && sl.seq == seq then fin s (.fail 0x28 (BitVec.ofNat 64 seq))
  else
    match u.freeSlot with
    | none => fin s (.ok (dataWord 0x8000000000000001))
    | some n =>
      match s.freePages u.die size with
      | none => fin s (.ok (dataWord 0x8000000000000002))
      | some ps =>
        let s1 : State := { s with mem := ps.foldl (fun m p => m.putPage p 0 false) s.mem }
        let u1 := u.put { no := n, asid := r.asid, task := r.task, seq := seq, depth := depth, frame := ps, ring := [] }
        fin (s1.setStore u1) (.ok (dataWord (u.handle n)))

/-- The newest position a ring holds. -/
def Slot.newest (sl : Slot) : Option Nat := sl.ring.getLast?.map (·.1)

/-- `rs.snap` (17 R350, R351): the Daymark joins the ring, whose oldest goes if it is full. -/
def Slot.snap (sl : Slot) (p : Nat) : Option Slot :=
  if (match sl.newest with | some q => decide (p ≤ q) | none => false) then none
  else some { sl with ring := (if sl.depth ≤ sl.ring.length then sl.ring.tail else sl.ring) ++ [(p, sl.frame)] }

/-- `rs.roll` (17 R350): the frame is that of the Daymark, and every newer one is gone. -/
def Slot.roll (sl : Slot) (p : Nat) : Option Slot :=
  match sl.ring.find? fun m => m.1 == p with
  | some m => some { sl with frame := m.2, ring := sl.ring.filter fun q => decide (q.1 ≤ p) }
  | none => none

/-- `rs.pos` (17 R362). -/
def Slot.positions (sl : Slot) : Word :=
  match sl.ring.head?, sl.ring.getLast? with
  | some o, some n => BitVec.ofNat 64 (n.1 * 2 ^ 32 + o.1)
  | _, _ => 0xFFFFFFFFFFFFFFFF

/-- `rs.fork` (17 R357): a slot that shares every page of a Daymark. -/
def StoreUnit.fork (u : StoreUnit) (r : SsReq) (sl : Slot) (p : Nat) (seq : Nat) : StoreUnit × Answer :=
  match sl.ring.find? fun m => m.1 == p with
  | none => (u, .fail 0x28 (BitVec.ofNat 64 p))
  | some m =>
    if u.slots.any fun x => x.asid == r.asid && x.seq == seq then (u, .fail 0x28 (BitVec.ofNat 64 seq))
    else
      match u.freeSlot with
      | none => (u, .ok (dataWord 0x8000000000000001))
      | some n =>
        (u.put { no := n, asid := r.asid, task := r.task, seq := seq, depth := sl.depth, frame := m.2, ring := [(p, m.2)] },
          .ok (dataWord (u.handle n)))

/-- `rs.drop` (17 R361): the references go and GEN advances. -/
def StoreUnit.close (u : StoreUnit) (n : Nat) : StoreUnit :=
  { u with
    slots := u.slots.filter fun sl => sl.no != n
    gens := mapSet n (if u.gen n = 65535 then 1 else u.gen n + 1) u.gens }

/-- A request other than a transfer takes its turn on its slot: the unit, and what it answers. -/
def StoreUnit.act (u : StoreUnit) (r : SsReq) (sl : Slot) : StoreUnit × Answer :=
  match r.ask with
  | .snap p => match sl.snap p.toNat with | some x => (u.put x, .ok Val.zero) | none => (u, .fail 0x28 p)
  | .roll p => match sl.roll p.toNat with | some x => (u.put x, .ok Val.zero) | none => (u, .fail 0x28 p)
  | .fork p seq => u.fork r sl p.toNat seq.toNat
  | .drop => (u.close sl.no, .ok Val.zero)
  | .pos => (u, .ok (dataWord sl.positions))
  | .open_ _ _ _ => (u, .ok Val.zero)
  | .rd _ _ => (u, .ok Val.zero)
  | .wr _ _ => (u, .ok Val.zero)

/-- Whether a request moves pages. -/
def SsReq.moves (r : SsReq) : Option (Bool × Nat × Nat) :=
  match r.ask with
  | .rd f n => some (false, f, n)
  | .wr f n => some (true, f, n)
  | _ => none

/-- A request arrives (17 R348, R352, R358, R361): it is refused, or takes its place in its slot's order; a transfer is
accepted there and answered, and an `rs.rd` takes ownership of its destination lines. -/
def State.ssArrive (s : State) (u : StoreUnit) (r : SsReq) : State :=
  let refuse (t : Word) : State := s.setStore (u.mapReq r.op (SsReq.done (.fail 0x28 t)))
  let closing := u.reqs.any fun q => q.accepted && !q.ended && q.handle == r.handle && q.ask == .drop
  match u.named r.handle r.asid with
  | none => refuse r.handle
  | some sl =>
    if closing then refuse r.handle
    else
      let join (f : SsReq → SsReq) : StoreUnit :=
        { u with reqs := (u.reqs.filter fun q => q.op != r.op) ++ [f { r with accepted := true }] }
      match r.moves with
      | none => s.setStore (join id)
      | some (wr, first, n) =>
        if sl.frame.length < first + n then refuse r.x0
        else
          let s1 := s.setStore (join fun q => { q with answer := some (.ok Val.zero) })
          if wr then s1 else s1.own r.op (xlines r.pages (capRuns r.base 0 (n * 4096)))

/-- A request at its unit: it arrives, or takes its turn; while a record of the unit waits nothing starts (15 R315). -/
def State.ssRequest (s : State) (die idx : Nat) : State :=
  let u := s.store_ die
  match u.reqs[idx]? with
  | none => s
  | some r =>
    if r.ended || s.unitHeld (.store die) then s
    else if !r.accepted then
      match r.ask with
      | .open_ seq size depth => s.openSlot u r seq size depth
      | _ => if (u.reqs.take idx).any fun q => q.src == r.src && q.handle == r.handle && !q.accepted then s else s.ssArrive u r
    else if r.moves.isSome || !u.firstOf r then s
    else
      match u.named r.handle r.asid with
      | none => s.setStore (u.mapReq r.op (SsReq.done (.fail 0x28 r.handle)))
      | some sl =>
        let (u1, a) := u.act r sl
        s.setStore (u1.mapReq r.op (SsReq.done a))

/-- The unit's answer reaches the group that waits for it (17 R354); a request that is over is gone then. -/
def State.ssAnswer (s : State) (gid : Nat) : State :=
  match s.stores.findSome? fun u => (u.reqs.find? fun r => r.gid == gid && r.asked && r.answer.isSome).map fun r => (u, r) with
  | none => s
  | some (u, r) =>
    let told := u.mapReq r.op fun q => { q with asked := false }
    let s1 := s.setStore { told with reqs := told.reqs.filter fun q => !(q.op == r.op && q.ended) }
    match r.answer with
    | some a => s1.mapGroup gid fun g => { g with answers := g.answers ++ [(g.lead, a)] }
    | none => s1

/-! ### Transfers (17 R353, R358, R359) -/

/-- The bytes of the local side of page `k` of a transfer. -/
def SsReq.addrs (r : SsReq) (k : Nat) : List Nat := runAddrs (capRuns r.base (k * 4096 : Nat) 4096)

/-- The lines of a page of the pool are handed over to the unit that reads them (11 R235, R236). -/
def State.pageOver (s : State) (page : Nat) : State :=
  (upFrom 0 64).foldl (fun s k =>
    let pa := page * 4096 + 64 * k
    { s.errorAt pa none with mem := s.mem.checked pa none }) s

/-- Whether some line of a page is poisoned. -/
def Memory.pageBad (m : Memory) (page : Nat) : Bool := m.poisoned (page * 4096) 4096

/-- The bytes `rs.rd` gives its destination for page `k`, from a page of the frame. -/
def SsReq.readBytes (r : SsReq) (m : Memory) (page k : Nat) : List (Nat × Byte) := (r.addrs k).zip (m.bytes (page * 4096) 4096)

/-- Pages of `rs.rd` moved in ascending order: the state, how many whole pages were moved, whether one was poisoned, and
whether a line was refused. Lines already written on their own are not written again. -/
def State.readPages (r : SsReq) : List Nat → Nat → Bool → State → State × Nat × Bool × Bool
  | [], k, bad, s => (s, k, bad, false)
  | p :: t, k, bad, s0 =>
    let s := s0.pageOver p
    let pb := s.mem.pageBad p
    let bytes := r.readBytes s.mem p k
    let lines := (xlines r.pages (capRuns r.base (k * 4096 : Nat) 4096)).filter fun l => (s.ownedLines r.op).contains l
    match State.writeLines r.core r.op r.pages bytes (fun _ => pb) lines s with
    | (s1, none) => State.readPages r t (k + 1) (bad || pb) s1
    | (s1, some _) => (s1, k, bad || pb, true)

/-- One page of `rs.wr` written into the frame, in place or in a fresh page (17 R350): none if the pool is empty. -/
def State.writePage (s : State) (die no at_ v : Nat) (poison : Bool) : Option State :=
  let u := s.store_ die
  match u.slots.find? fun sl => sl.no == no with
  | none => some s
  | some sl =>
    let old := sl.frame.getD at_ 0
    let refs := ((s.stores.flatMap fun u => u.slots.flatMap (·.refs)).filter (· == old)).length
    if refs ≤ 1 then some { s with mem := s.mem.putPage old v poison }
    else
      match s.freePages die 1 with
      | some [p] =>
        let s1 : State := { s with mem := s.mem.putPage p v poison }
        some (s1.setStore (u.put { sl with frame := sl.frame.set at_ p }))
      | _ => none

/-- Pages of `rs.wr` moved in ascending order: the state, how many were moved, whether one was poisoned, and the STATUS that
ended it. -/
def State.writePages (r : SsReq) (die no first : Nat) : Nat → Nat → Bool → State → State × Nat × Bool × Nat
  | 0, k, bad, s => (s, k, bad, 0)
  | n + 1, k, bad, s0 =>
    let vas := r.addrs k
    if vas.any fun a => (s0.readRefused r.core r.pages a).isSome then (s0, k, bad, 3)
    else
      let s := s0.readLines r.core r.pages vas
      let pb := s.mem.xbad r.pages vas
      match s.writePage die no (first + k) (s.mem.xnat r.pages vas) pb with
      | none => (s, k, bad, 9)
      | some s1 => State.writePages r die no first n (k + 1) (bad || pb) s1

/-- A transfer ends with some pages moved: its other lines are released unwritten, and its record is written (17 R359). -/
def State.ssFinish (s : State) (die : Nat) (r : SsReq) (n status : Nat) : State :=
  let s1 := s.disown r.op
  let u1 := (s1.store_ die).mapReq r.op fun q => { q with ended := true }
  let s2 := s1.setStore { u1 with reqs := u1.reqs.filter fun q => q.op != r.op || q.asked }
  if r.tag = 0 ∧ status = 0 then s2
  else s2.emitBy (.store die) r.dest (recordBits 5 status r.tag.toNat (r.core % 4) (BitVec.ofNat 64 n)) r.gang r.crew r.op

/-- The transfer at the head of a slot's order is carried out and its record written (17 R359); it is complete when that
record is (17 R353). -/
def State.ssTransfer (s : State) (die slot : Nat) : State :=
  let u := s.store_ die
  match u.slots.find? fun sl => sl.no == slot with
  | none => s
  | some sl =>
    match u.reqs.find? fun r => r.accepted && !r.ended && r.handle == u.handle slot with
    | none => s
    | some r =>
      if s.unitHeld (.store die) then s
      else
        match r.moves with
        | none => s
        | some (false, first, n) =>
          let (s1, k, bad, refused) := State.readPages r ((sl.frame.drop first).take n) 0 false s
          s1.ssFinish die r k (if refused then 3 else if bad then 2 else 0)
        | some (true, first, n) =>
          let (s1, k, bad, st) := State.writePages r die slot first n 0 false s
          s1.ssFinish die r k (if st ≠ 0 then st else if bad then 2 else 0)

/-- One owned line of an `rs.rd` at the head of its slot's order is written ahead of the others of its page, the first that is not
whole (12 R255; 17 R358); a refusal ends the transfer (17 R359). -/
def State.ssLine (s : State) (op line : Nat) : State :=
  match s.stores.findSome? fun u => (u.reqs.find? fun r => r.op == op && r.accepted && !r.ended).map fun r => (u, r) with
  | none => s
  | some (u, r) =>
    match u.slots.find? (fun sl => u.handle sl.no == r.handle), r.moves, s.ownedLine op line with
    | some sl, some (false, first, n), l :: _ =>
      if !u.firstOf r then s
      else
        let left (k : Nat) : List Nat := (xlines r.pages (capRuns r.base (k * 4096 : Nat) 4096)).filter fun l => (s.ownedLines op).contains l
        match (upFrom 0 n).find? fun k => !(left k).isEmpty with
        | some k =>
          let p := sl.frame.getD (first + k) 0
          if !(left k).contains l || s.unitHeld (.store u.die) then s
          else
            let s1 := s.pageOver p
            match State.writeLines r.core op r.pages (r.readBytes s.mem p k) (fun _ => s1.mem.pageBad p) [l] s1 with
            | (s1, none) => s1
            | (s1, some _) => s1.ssFinish u.die r k 3
        | none => s
    | _, _, _ => s

/-! ### Meanings -/

/-- RS_OPEN (R356): Opens a zero-filled slot and returns its handle or a failure. -/
noncomputable def execRsOpen (b : BitVec 6) (a : BitVec 6) (d : BitVec 6) (s : State) : Host.Outcome State Fault Refusal :=
  issue (.rsOpen b a d) elected (fun _ => none) (ssAct (.rsOpen b a d) d (rsOpenAsk (.rsOpen b a d) b a)) s

/-- RS_RD (R358): Moves pages of the working frame into local memory. -/
noncomputable def execRsRd (b : BitVec 6) (a : BitVec 6) (s : State) : Host.Outcome State Fault Refusal :=
  issue (.rsRd b a) elected (fun s => if xferBad (s.g.xr 0) then some (encTrap (.rsRd b a) s) else none)
    (ssAct (.rsRd b a) 0 (rsMoveAsk (.rsRd b a) false b a)) s

/-- RS_WR (R358): Moves pages of local memory into the working frame. -/
noncomputable def execRsWr (b : BitVec 6) (a : BitVec 6) (s : State) : Host.Outcome State Fault Refusal :=
  issue (.rsWr b a) elected (fun s => if xferBad (s.g.xr 0) then some (encTrap (.rsWr b a) s) else none)
    (ssAct (.rsWr b a) 0 (rsMoveAsk (.rsWr b a) true b a)) s

/-- RS_SNAP (R360): Records a Daymark of the frame at a position. -/
noncomputable def execRsSnap (b : BitVec 6) (a : BitVec 6) (s : State) : Host.Outcome State Fault Refusal :=
  issue (.rsSnap b a) elected (fun _ => none) (ssAct (.rsSnap b a) 0 (rsMarkAsk (.rsSnap b a) .snap b a)) s

/-- RS_ROLL (R360): Rolls the frame back to a Daymark. -/
noncomputable def execRsRoll (b : BitVec 6) (a : BitVec 6) (s : State) : Host.Outcome State Fault Refusal :=
  issue (.rsRoll b a) elected (fun _ => none) (ssAct (.rsRoll b a) 0 (rsMarkAsk (.rsRoll b a) .roll b a)) s

/-- RS_FORK (R357): Opens a slot that shares a Daymark's pages. -/
noncomputable def execRsFork (b : BitVec 6) (a : BitVec 6) (d : BitVec 6) (s : State) : Host.Outcome State Fault Refusal :=
  issue (.rsFork b a d) elected (fun _ => none) (ssAct (.rsFork b a d) d (rsForkAsk (.rsFork b a d) b a)) s

/-- RS_DROP (R361): Closes the slot after its earlier requests. -/
noncomputable def execRsDrop (a : BitVec 6) (s : State) : Host.Outcome State Fault Refusal :=
  issue (.rsDrop a) elected (fun _ => none) (ssAct (.rsDrop a) 0 fun s => s.askHandle (.rsDrop a) (s.g.word a) .drop Val.zero [] 0) s

/-- RS_POS (R362): Reads the newest and the oldest position of the ring. -/
noncomputable def execRsPos (a : BitVec 6) (d : BitVec 6) (s : State) : Host.Outcome State Fault Refusal :=
  issue (.rsPos a d) elected (fun _ => none) (ssAct (.rsPos a d) d fun s => s.askHandle (.rsPos a d) (s.g.word a) .pos Val.zero [] 0) s

/-- STATE_STORE_REQUEST (R352): A request reaches the state-store unit and is performed in the slot's order. -/
def execStateStoreRequest (die : Nat) (idx : Nat) (s : State) : Host.Outcome State Fault Refusal := .next (s.ssRequest die idx).tick

/-- STATE_STORE_ANSWER (R354): The unit's answer reaches the waiting group. -/
def execStateStoreAnswer (gid : Nat) (s : State) : Host.Outcome State Fault Refusal := .next (s.ssAnswer gid).tick

/-- STATE_STORE_TRANSFER_COMPLETION (R359): A transfer's last page is moved and its record written. -/
def execStateStoreTransferCompletion (die : Nat) (slot : Nat) (s : State) : Host.Outcome State Fault Refusal := .next (s.ssTransfer die slot).tick

end Sys2Proof.Machine
end

