-- ==== Sys2Proof/Machine/Mooring.lean ====
section
/-! DEFINITION. The Mooring and the gang call (08; 09 R197 to R199). -/

namespace Sys2Proof.Machine

/-! ### Calls (08 R169 to R175; 09 R197) -/

/-- A general register of a lane by number. -/
def Group.kn (g : Group) (l : Lane) (n : Nat) : Val := g.read l (BitVec.ofNat 6 n)

/-- The first of k1 to kn that may not cross: poisoned, or a capability without G (09 R197, R198). -/
def Group.argsTrap (g : Group) (l : Lane) (n : Nat) : Option Trap :=
  (argRegs n).findSome? fun c =>
    let v := g.read l c
    if v.tag = .poison then some (trapReg 0x12 c)
    else if v.tag = .cap ∧ capHas v.bits .g = false then some (trapReg 0x05 c)
    else none

/-- Whether an entry is FILLING in a quad under a key (08 R170). -/
def MoorEntry.fills (e : MoorEntry) (quad : Nat) (asid : Word) (target : Val) : Bool :=
  e.quad == quad && e.state == .filling && e.asid == asid && e.target.bits == target.bits

/-- The entries FILLING in a quad under a key: one, and more in a clk in which its 32 callers have joined (08 R170, R174). -/
def State.filling (s : State) (quad : Nat) (asid : Word) (target : Val) : List MoorEntry :=
  s.moor.filter fun e => e.fills quad asid target

/-- Changes a Mooring entry. -/
def State.mapMoor (s : State) (quad idx : Nat) (f : MoorEntry → MoorEntry) : State :=
  { s with moor := s.moor.map fun e => if e.quad = quad ∧ e.idx = idx then f e else e }

/-- Whether an entry's trigger has come (08 R174). -/
def State.triggered (s : State) (e : MoorEntry) : Bool :=
  decide (e.mthr ≤ e.callers.length) || decide (32 ≤ e.callers.length) || decide (e.opened + e.mtime ≤ s.clk) || e.flushed

/-- An entry in FILLING launches when its trigger has come, after the calls of that clk (08 R174, R175). -/
def State.launchEntry (s : State) (quad idx : Nat) : State :=
  s.mapMoor quad idx fun e => if e.state = .filling ∧ s.triggered e = true then { e with state := .placing } else e

/-- An entry that a caller opens, with what its gang takes from it (08 R169, R174, R176). A caller whose task is gone has no
record: its gang takes the values that 0 in every field of one gives. -/
def State.openEntry (s : State) (quad idx : Nat) (target : Val) (n : Nat) (c : Caller) : MoorEntry :=
  let t := s.task s.g.sp.task
  let field (d : Nat) (f : TaskRec → Nat) : Nat := (t.map fun t => f t.record).getD d
  { quad := quad, idx := idx, state := .filling, asid := s.g.sp.asid, target := target, n := n, callers := [c], opened := s.clk,
    mtime := (s.g.sp.mtime.extractLsb' 0 32).toNat, task := s.g.sp.task, tvec := s.g.sp.tvec, mwb := s.g.sp.mwb, swb := s.g.sp.swb,
    flushed := false, mthr := field 32 (·.mthr), pri := field 0 (·.pri), localBytes := field 0 (·.localBytes), limit := field 16 (·.limit),
    wdog := field 0 (·.wdog), ctxId := (t.map (·.ctx)).getD 0, fn := (t.map (·.fn)).getD 0, full := false, gang := 0 }

/-- The caller parks in an entry that fills, or opens the lowest free one (08 R172): none if it must stall. -/
def State.park (s : State) (quad : Nat) (target : Val) (n : Nat) (c : Caller) : Option State :=
  match (s.filling quad s.g.sp.asid target).find? fun e => decide (e.callers.length < 32) with
  | some e => some (s.mapMoor quad e.idx fun e => { e with callers := e.callers ++ [c] })
  | none =>
    let ahead := s.stalls.filter fun p => p.1 == quad
    let first := match ahead with | [] => true | p :: _ => p.2 == s.g.gid
    match (upFrom 0 16).find? fun i => !(s.moor.any fun e => e.quad == quad && e.idx == i) with
    | some i =>
      if first then some { s with moor := s.moor ++ [s.openEntry quad i target n c] } else none
    | none => none

/-- `gcall` (09 R197), its blocks passed: every check, the follower check, the release of 08 R183, and then the call parks, past
its instruction, or stalls at it. -/
noncomputable def gcallAct (i : Instr) (a b : BitVec 6) (s : State) : Act :=
  match s.g.acts with
  | [] => .done s
  | l :: _ =>
    let t := s.g.read l a
    let n := (s.g.read l b).word.toNat
    let m := if 1 ≤ n ∧ n ≤ 8 then n else 0
    let stop (t : Trap) : Act := .trap s t
    if t.tag ≠ .cap then stop (trapReg 0x03 a)
    else if !capHas t.bits .x || !capHas t.bits .g || capWalk t.bits != 0 then stop (trapReg 0x05 a)
    else if (capCursor t.bits).getLsbD 0 then stop (trap 0x0C ((capCursor t.bits).setWidth 64))
    else if m = 0 then stop (trap 0x21 (BitVec.ofNat 64 n))
    else match s.g.argsTrap l n with
      | some t => stop t
      | none =>
        let quad := quadOf s.g.core
        match (s.filling quad s.g.sp.asid t).findSome? fun e => if e.n = n then none else some e.n with
        | some k => stop (trap 0x21 (BitVec.ofNat 64 k))
        | none =>
          withFollower i s fun s => withFence false s fun s =>
            let c : Caller := ⟨s.g.gid, s.g.core, s.g.srcOf l.no % 64, s.g.sp.task, (upFrom 1 n).map fun j => s.g.kn l j⟩
            match s.park quad t n c with
            | some s1 =>
              let s2 := (State.retire s s1.unstall i true).consume
              .over { s2 with g := { s2.g with run := .parked, pc := s.g.pc + BitVec.ofNat 64 i.len } }
            | none =>
              let s1 := if s.stalls.any fun p => p.2 == s.g.gid then s else { s with stalls := s.stalls ++ [(quad, s.g.gid)] }
              .wait s1 .stalledCall

/-! ### Returns (08 R180 to R183; 09 R198) -/

/-- What stops a lane's `gret`, in its order. -/
def gretStop (g : Group) (a : BitVec 6) (l : Lane) : Option Trap :=
  let m := (g.read l a).word.toNat
  if m < 1 ∨ 4 < m then some (trap 0x21 (BitVec.ofNat 64 m)) else g.argsTrap l m

/-- `gret` (09 R198), its blocks passed: every lane's checks, then the release toward the callers, and the active lanes end. -/
noncomputable def gretAct (i : Instr) (a : BitVec 6) (s : State) : Act :=
  match s.g.acts.findSome? (gretStop s.g a) with
  | some t => .trap s t
  | none =>
    withFollower i s fun s => withFence false s fun s =>
      let ns := s.g.acts.map (·.no)
      if !s.settled ns then .wait s .fence
      else
        let vals := s.g.acts.map fun l => (l.no, (upFrom 1 (s.g.read l a).word.toNat).map fun j => s.g.kn l j)
        let s1 := s.endLanes ns vals
        if s1.g.gid ≠ s.g.gid then .over s1 else .jump s1 s1.g.pc

/-- The word of sr.gstat (08 R181). -/
def gstatWord (lane cause status : Nat) : Word := BitVec.ofNat 64 (lane % 32 * 65536 + cause % 256 * 256 + status % 256)

/-- A group that was parked goes on, unless it is stopped or saved. -/
def Run.unparked (r : Run) : Run :=
  match r with
  | .parked => .ready
  | .stopped _ w => .stopped false w
  | .saved _ => .saved false
  | r => r

/-- A caller receives its return and goes on after its `gcall`, unless it is stopped (08 R180, R184). -/
def Group.returned' (g : Group) (r : GangRet) : Group :=
  let lanes := g.lanes.map fun l => r.vals.zipIdx.foldl (fun l p => l.setReg (BitVec.ofNat 6 (p.2 + 1)) p.1) l
  { g with
    lanes := lanes
    sp := { g.sp with gstat := gstatWord r.lane r.cause r.status }
    run := g.run.unparked }

/-- Whether a group is a caller parked at its call. -/
def Group.isCaller (g : Group) : Bool := match g.run with | Run.parked => true | Run.stopped p _ => p | _ => false

/-- A return to a caller whose state lies in its save area: k1 to km and gstat are written there and PARKED cleared
(08 R184; 18 R387). -/
def State.returnSaved (s : State) (g : Group) (r : GangRet) : State :=
  let asid := g.sp.asid.toNat
  let s1 := r.vals.zipIdx.foldl (fun s p =>
    match g.slotVA 0 (p.2 + 1) with
    | some va => s.putSlot asid va p.1
    | none => s) s
  let s2 := (s1.pokeAreas g (0x880 + 72) 8 (gstatWord r.lane r.cause r.status).toNat).unpark g
  s2.mapGroup g.gid fun g => { g with run := g.run.unparked }

/-- The step trap of a call stepped over is taken when its return is there: at once, or, of a caller that is stopped or saved,
before it issues again (01 R26). -/
noncomputable def State.stepCall (s : State) : State :=
  let v := debugTval (s.g.pc - 4).toNat 0 2
  if s.g.priv = 0 ∧ statusSStep s.g.sp.status = true ∧ s.g.run ≠ .ready then { s with g := { s.g with stepDue := some v } }
  else State.stepTrap { s with g := { s.g with pc := s.g.pc - 4 } } s true

/-- A return is delivered to its caller; the return of a caller that has ended is discarded (08 R180, R184). -/
noncomputable def State.deliverReturn (s : State) (n : Nat) : State :=
  match s.returns[n]? with
  | none => s
  | some r =>
    let s1 := { s with returns := s.returns.eraseIdx n }
    match s1.group r.caller with
    | none => s1
    | some g =>
      if g.inArea then (s1.returnSaved g r).onGroup r.caller State.stepCall
      else if g.isCaller then (s1.mapGroup r.caller fun g => g.returned' r).onGroup r.caller State.stepCall
      else s1

/-! ### Launches (08 R174 to R178) -/

/-- A gang in PLACING tries its own quad, then walks to the neighbours (08 R177). -/
def State.placeGang (s : State) (quad idx : Nat) : State :=
  match s.moor.find? fun e => e.quad == quad && e.idx == idx with
  | none => s
  | some e =>
    let who := Placing.gang quad idx
    if e.state ≠ .placing ∨ s.tenders.any (fun t => t.who == who) ∨ s.queues.any (fun q => q.who == who) then s
    else
      let (s1, left, _) := s.take who quad 1 1 0
      if left = 0 then s1
      else { s1 with tenders := s1.tenders ++ [⟨who, quad / 256, quad % 16, quad / 16 % 16, quad % 16, quad / 16 % 16, 1, 1, 0, .start⟩] }

/-- The last argument register is written: the entry is free and the gang issues (08 R175). -/
def State.loaded (s : State) (quad idx : Nat) : State :=
  match s.moor.find? fun e => e.quad == quad && e.idx == idx && e.state == .loading with
  | none => s
  | some e =>
    let s1 : State := { s with moor := s.moor.filter fun x => !(x.quad == quad && x.idx == idx) }
    (match s1.group e.gang with | some g => if g.inArea then s1.unpark g else s1 | none => s1).mapGroup e.gang fun g =>
      { g with run := g.run.unparked }


/-- GCALL (R197): Checks and parks the strand in the Mooring under its key, or stalls. -/
noncomputable def execGcall (b : BitVec 6) (a : BitVec 6) (s : State) : Host.Outcome State Fault Refusal :=
  issue (.gcall b a) strict (fun _ => none) (gcallAct (.gcall b a) a b) s

/-- GRET (R198): Returns k1–km of each active callee lane to its caller and ends the lane. -/
noncomputable def execGret (a : BitVec 6) (s : State) : Host.Outcome State Fault Refusal :=
  issue (.gret a) strict (fun s => if s.g.mooring then none else some (trap 0x21 0)) (gretAct (.gret a) a) s

/-- GFLUSH (R199): Makes a Mooring key a launch trigger in its clk. -/
noncomputable def execGflush (a : BitVec 6) (s : State) : Host.Outcome State Fault Refusal :=
  issue (.gflush a) strict (fun _ => none) (fun s => withFollower (.gflush a) s fun s =>
    match s.g.acts with
    | l :: _ =>
      let key (e : MoorEntry) : Bool := e.fills (quadOf s.g.core) s.g.sp.asid (s.g.read l a)
      .done { s with moor := s.moor.map fun e => if key e then { e with flushed := true } else e }
    | [] => .done s) s

/-- MOORING_TIME_LIMIT (R174): At the end of a clk in which an entry's trigger has come it launches. -/
noncomputable def execMooringTimeLimit (quad : Nat) (entry : Nat) (s : State) : Host.Outcome State Fault Refusal :=
  .next (s.launchEntry quad entry).tick

/-- MOORING_PLACEMENT (R177): The formed gang is placed on G-core 2, 3 or by the tender walk. -/
noncomputable def execMooringPlacement (quad : Nat) (entry : Nat) (s : State) : Host.Outcome State Fault Refusal :=
  .next (s.placeGang quad entry).tick

/-- MOORING_LOADING_END (R175): The last argument register is written and the entry becomes FREE. -/
noncomputable def execMooringLoadingEnd (quad : Nat) (entry : Nat) (s : State) : Host.Outcome State Fault Refusal :=
  .next (s.loaded quad entry).tick

/-- GANG_RETURN_DELIVERY (R180): A callee's results reach its caller, which resumes with sr.gstat set. -/
noncomputable def execGangReturnDelivery (idx : Nat) (s : State) : Host.Outcome State Fault Refusal :=
  .next (s.deliverReturn idx).tick

end Sys2Proof.Machine
end

