-- ==== Sys2Proof/Machine/Tasks.lean ====
section
/-! DEFINITION. Tasks: how a record is read, checked and launched (07 R143 to R145; 16 R343; 22 R440), the tender walk and the
ready queues (15 R319 to R321; 18 R388), and dependency counters (15 R316 to R318; 16 R344 to R346). -/

namespace Sys2Proof.Machine

/-! ### Reading a record (07 R143; 16 R343) -/

/-- The numbers of a record's bytes: the fields, and ARG and ENTRY with their tags. -/
def taskRec (n : Nat) (entryCap argCap : Bool) : TaskRec :=
  { fields := BitVec.ofNat 256 (n / 2 ^ 256),
    arg := ⟨BitVec.ofNat 128 (n / 2 ^ 128), if argCap then .cap else .data⟩,
    entry := ⟨BitVec.ofNat 128 n, if entryCap then .cap else .data⟩ }

/-! ### Launch (22 R440; 15 R321) -/

/-- What a launch takes from who launches it (07 R148; 16 R343, R344; 26 R491). -/
structure LaunchBase where
  asid : Nat
  mwb : Word
  swb : Word
  tvec : Val
  ctx : Nat
  fn : Nat
  launcher : Option Nat
  light : Option (Nat × Nat)
  reply : Bool
  await : Bool
  /-- The core whose action launches it (15 R314). -/
  core : Nat
  /-- The address of the record, 0 if it has none in memory (20 R414). -/
  addr : Nat
  /-- GROUP of a multi-package launch (22 R444). -/
  group : Nat
  deriving DecidableEq, Repr

/-- A checked record is launched: its task, and a walk on each die asked. -/
def State.launch (s : State) (r : TaskRec) (b : LaunchBase) (src : Nat) : State :=
  let ds := s.diesFor r.die r.dmax
  let t : Task :=
    { id := s.nextId, record := r, addr := b.addr, group := b.group, pkgs := 0, asid := b.asid, mwb := b.mwb, swb := b.swb, tvec := b.tvec, ctx := b.ctx, fn := b.fn, launcher := b.launcher,
      light := b.light, dies := dieBits ds, epoch := 0, asked := dieBits ds, acked := 0, refused := 0, decided := false, aborted := false,
      start := s.clk, relaunches := 0, added := 0, src := src, core := b.core, killed := false, change := none, done := none, reply := b.reply, status := 0, await := b.await }
  { s with
    tasks := s.tasks ++ [t]
    tenders := s.tenders ++ ds.map (shareWalk r s.nextId src)
    nextId := s.nextId + 1 }

/-! ### Refusal of a record (15 R320; 18 R388) -/

/-- A share that ends REFUSED with a code (15 R320, R321): a record to the launching crew, of the core whose action launched it
(R314), and the code kept for a LAUNCH's reply. A launch on several dies goes on with the others (22 R443). -/
def State.refuseShare (s : State) (task die code : Nat) : State :=
  match s.task task with
  | none => s
  | some t =>
    let s1 := s.mapTask task fun t => { t with refused := t.refused ||| BitVec.ofNat 6 (2 ^ die), status := 0x200 + code }
    let bits := recordBits 6 8 0 (t.core % 256) (BitVec.ofNat 64 code)
    let s2 := if t.launcher.isSome || t.light.isSome then s1.emit .scheduler (s1.launcherDest t) bits else s1
    -- at a slot EN is cleared (22 R439)
    let s3 := match t.light with | some (n, _) => s2.mapLight n fun l => l.setField 703 1 0 | none => s2
    if t.record.dmax ≠ 1 then s3.releaseAll task
    else
      (s3.lightEnds t).mapTask task fun t => { t with light := none, aborted := true }

/-- A task of which nothing was placed and nothing waits is gone, but for a reply. -/
def State.dropTask (s : State) (task : Nat) : State :=
  if s.taskOver task then { s with tasks := s.tasks.filter fun t => t.id != task || t.reply || t.record.dmax != 1 } else s

/-- Whether some core of the package can ever take a crew of a task: a quad of its function's partitions on a die in
service, a local memory and contexts or slices that hold it, and a pool that holds its areas (18 R388, R389). -/
def State.canEver (s : State) (c : CrewSpec) : Bool :=
  let n := if c.isG then min c.crewN c.count else 1
  let (event, spill) := s.ctxBytes c.ctx
  let total := c.localBytes + c.members n * ((c.limit - 16) * 8) + event
  let quad (q : Nat) : Bool := !s.pkg.deadDies.getLsbD (q / 256) &&
    (match s.partition q with | some p => p.fn.isNone || p.fn == some c.fn | none => true)
  (upFrom 0 1536).any quad && decide (total ≤ (if c.isG then Config.localG else Config.localS)) &&
    decide (c.members n ≤ (if c.isG then 63 else 23)) &&
    (match s.ctx c.ctx with | some x => decide ((regionSize c.isG (c.matrix n) (c.members n) total + 31) / 32 * 32 + spill ≤ x.poolSize) | none => false)

/-! ### The tender walk (15 R321) -/

/-- The ring of quads at a distance from the bearing in its fixed order, within the mesh. -/
def ringQuads (bx by_ r : Nat) : List (Nat × Nat) :=
  let x : Int := bx
  let y : Int := by_
  let k : Int := r
  let line (n : Nat) (f : Nat → Int × Int) : List (Int × Int) := (upFrom 0 n).map f
  let all :=
    line (2 * r + 1) (fun i => (x - k + i, y - k)) ++ line (2 * r) (fun i => (x + k, y - k + 1 + i)) ++
      line (2 * r) (fun i => (x + k - 1 - i, y + k)) ++ line (2 * r - 1) (fun i => (x - k, y + k - 1 - i))
  (all.filter fun p => decide (0 ≤ p.1 ∧ p.1 < 16 ∧ 0 ≤ p.2 ∧ p.2 < 16)).map fun p => (p.1.toNat, p.2.toNat)

/-- A step from one coordinate toward another. -/
def toward (a b : Nat) : Nat := if a < b then a + 1 else if b < a then a - 1 else a

/-- The distance that bounds a radius: the greater of the two coordinate differences (07 R145). -/
def ringDist (ax ay bx by_ : Nat) : Nat := max ((ax - bx) + (bx - ax)) ((ay - by_) + (by_ - ay))

/-- The quad of a die by column and row. -/
def quadAt (die qx qy : Nat) : Nat := die * 256 + qy * 16 + qx

/-- PRI of what is placed. -/
def State.priOf (s : State) (w : Placing) : Nat :=
  match w with
  | .share t _ => ((s.task t).map (·.record.pri)).getD 0
  | .gang q e => ((s.moor.find? fun m => m.quad == q && m.idx == e).map (·.pri)).getD 0
  | .crew id => (((s.crew id).bind fun c => s.task c.task).map (·.record.pri)).getD 0

/-- A walk with nothing placed enters its bearing quad's ready queue, or the die's overflow list, or is refused (15 R319 to
R321). A gang is never refused: it waits at its Mooring entry, to be offered again when an entry frees (08 R175). -/
def State.queueUp (s : State) (t : Tender) : State :=
  let quad := quadAt t.die t.bx t.by_
  let inQueue := (s.queues.filter fun q => q.quad == quad && !q.overflow).length
  let inList := (s.queues.filter fun q => q.quad / 256 == t.die && q.overflow).length
  let e : QEntry :=
    { who := t.who, quad := quad, pri := s.priOf t.who, left := t.left, next := t.next, since := s.clk, passed := none, blocking := false,
      overflow := decide (32 ≤ inQueue), freed := false }
  let queued (s : State) : State :=
    match t.who with
    | .gang q i => { s with moor := s.moor.map fun m => if m.quad = q ∧ m.idx = i then { m with state := .queued } else m }
    | .share _ _ => s
    | .crew _ => s
  if inQueue < 32 ∨ inList < 1024 then queued { s with queues := s.queues ++ [e] }
  else match t.who with
    | .share task die => (s.refuseShare task die 0x20).dropTask task
    | .gang q i => { s with moor := s.moor.map fun m => if m.quad = q ∧ m.idx = i then { m with full := true } else m }
    | .crew _ => s

/-- Whether the queue of a quad, or its die's overflow list, has a free entry (15 R319, R320). -/
def State.queueRoom (s : State) (quad : Nat) : Bool :=
  decide ((s.queues.filter fun q => q.quad == quad && !q.overflow).length < 32) ||
    decide ((s.queues.filter fun q => q.quad / 256 == quad / 256 && q.overflow).length < 1024)

/-- Replaces a walk by number. -/
def State.setTender (s : State) (idx : Nat) (t : Tender) : State := { s with tenders := s.tenders.set idx t }

/-- A walk starts at its source quad (15 R321), while the scheduler holds no record (15 R315). Where no core of the package can ever take the crew it ends at once (18
R388); on a die out of service it is not answered (22 R443). -/
def State.startWalkOf (s : State) (idx : Nat) : State :=
  match s.tenders[idx]? with
  | none => s
  | some t =>
    if t.stage ≠ .start ∨ s.unitHeld .scheduler then s
    else
      let drop : State := { s with tenders := s.tenders.eraseIdx idx }
      match t.who, s.specOf t.who with
      | .share task die, some c =>
        if s.pkg.deadDies.getLsbD die then drop
        else if !s.canEver c then (drop.refuseShare task die 0x21).dropTask task
        else s.setTender idx { t with stage := .route }
      | .gang _ _, some _ => s.setTender idx { t with stage := .route }
      | .crew _, some _ => drop
      | _, none => drop

/-- A walk that offered at a ring position goes on along the ring, to the next ring, or into the queue. -/
def State.ringOn (s : State) (idx : Nat) (t : Tender) (r pos : Nat) : State :=
  if pos < (ringQuads t.bx t.by_ r).length then s.setTender idx { t with stage := .ring r pos }
  else if r < t.radius then s.setTender idx { t with stage := .ring (r + 1) 0 }
  else ({ s with tenders := s.tenders.eraseIdx idx }).queueUp t

/-- The address of a walk's task record; a gang of the Mooring has none. -/
def State.tenderAddr (s : State) (t : Tender) : Nat := match t.who with | .share id _ => ((s.task id).map (·.addr)).getD 0 | _ => 0

/-- Whether another walk stands at the same quad whose record is offered first: of those offered together, the one at the lower address
(20 R414, R415). -/
def State.offeredAfter (s : State) (t : Tender) : Bool :=
  s.tenders.any fun o =>
    o.die == t.die && o.qx == t.qx && o.qy == t.qy && o.stage == t.stage && t.stage != .start && decide (s.tenderAddr o < s.tenderAddr t)

/-- A walk at its quad: the quad takes crews if it lies within the radius or on the ring, and the record moves on, queues, or
is placed (07 R145; 15 R321). -/
def State.offer (s : State) (idx : Nat) : State :=
  match s.tenders[idx]? with
  | none => s
  | some t =>
    if s.offeredAfter t then s
    else match t.stage with
    | .start => s
    | .route =>
      let within := decide (ringDist t.qx t.qy t.bx t.by_ ≤ t.radius)
      let (s1, left, next) := if within then s.take t.who (quadAt t.die t.qx t.qy) t.left t.left t.next else (s, t.left, t.next)
      let t1 := { t with left := left, next := next }
      if left = 0 then { s1 with tenders := s1.tenders.eraseIdx idx }
      else if t.qx = t.bx ∧ t.qy = t.by_ then
        (if t.radius = 0 then ({ s1 with tenders := s1.tenders.eraseIdx idx }).queueUp t1 else s1.setTender idx { t1 with stage := .ring 1 0 })
      else if t.qx ≠ t.bx then s1.setTender idx { t1 with qx := toward t.qx t.bx }
      else s1.setTender idx { t1 with qy := toward t.qy t.by_ }
    | .ring r pos =>
      match (ringQuads t.bx t.by_ r)[pos]? with
      | none => s.ringOn idx t r pos
      | some (x, y) =>
        let (s1, left, next) := s.take t.who (quadAt t.die x y) t.left t.left t.next
        if left = 0 then { s1 with tenders := s1.tenders.eraseIdx idx }
        else s1.ringOn idx { t with qx := x, qy := y, left := left, next := next } r (pos + 1)

/-! ### Ready queues (15 R319, R320) -/

/-- Service order: PRI, highest first, then the oldest. -/
def before (a b : QEntry) : Bool := decide (b.pri < a.pri) || (a.pri == b.pri && decide (a.since ≤ b.since))

/-- An entry put into its place in service order. -/
def insertEntry (e : QEntry) : List QEntry → List QEntry
  | [] => [e]
  | h :: t => if before h e then h :: insertEntry e t else e :: h :: t

/-- Entries in service order. -/
def serviceOrder (l : List QEntry) : List QEntry := l.foldl (fun acc e => insertEntry e acc) []

/-- Whether an entry has been passed over for 4,096 clk and stops those after it (15 R319). -/
def QEntry.blocks (e : QEntry) (clk : Nat) : Bool :=
  e.blocking || (match e.passed with | some c => decide (c + 4096 ≤ clk) | none => false)

/-- The entries of a quad offered in order: the state, and the entries that remain. One passed over for 4,096 clk stops those after it
(15 R319). -/
def State.offerEntries (quad : Nat) : List QEntry → State → State × List QEntry
  | [], s => (s, [])
  | e :: t, s =>
    let (s1, left, next) := s.takeAny e.who quad e.left e.left e.next
    let took := decide (left < e.left)
    let e1 := if took then { e with left := left, next := next, passed := none, blocking := false, freed := false }
      else { e with passed := some (e.passed.getD s.clk), blocking := e.blocks s.clk, freed := false }
    if left = 0 then State.offerEntries quad t s1
    else if e1.blocking then (s1, e1 :: t)
    else
      let (s2, r) := State.offerEntries quad t s1
      (s2, e1 :: r)

/-- Records of a quad move in from the overflow list while its queue has room, first in service order (15 R320). -/
def State.moveIn (s : State) (quad : Nat) : Nat → State
  | 0 => s
  | n + 1 =>
    if 32 ≤ (s.queues.filter fun (q : QEntry) => q.quad == quad && !q.overflow).length then s
    else
      match serviceOrder (s.queues.filter fun q => q.quad == quad && q.overflow) with
      | [] => s
      | e :: _ => State.moveIn { s with queues := s.queues.map fun q => if q = e then { q with overflow := false } else q } quad n

/-- A quad offers its queued records in service order (15 R319), while the scheduler holds no record (15 R315). -/
def State.offerQueue (s : State) (quad : Nat) : State :=
  if s.unitHeld .scheduler then s
  else
  let mine := serviceOrder (s.queues.filter fun q => q.quad == quad && !q.overflow)
  let (s1, rest) := State.offerEntries quad mine s
  -- entries behind one that blocks are not offered
  let rest1 := rest.map fun e => { e with freed := false }
  ({ s1 with queues := (s1.queues.filter fun (q : QEntry) => q.quad != quad || q.overflow) ++ rest1 }).moveIn quad 32

/-- An entry passed over for 4,096 clk blocks those after it (15 R319). -/
def State.passLimit (s : State) (quad entry : Nat) : State :=
  match (serviceOrder (s.queues.filter fun q => q.quad == quad && !q.overflow))[entry]? with
  | none => s
  | some e =>
    match e.passed with
    | some c => if c + 4096 ≤ s.clk then { s with queues := s.queues.map fun q => if q = e then { q with blocking := true } else q } else s
    | none => s

/-! ### `spawn` (16 R343) -/

/-- Whether a granule read through a capability keeps its tag: LC, the page, and the granule's bit (05 R115). -/
def State.granuleCap (s : State) (g : Group) (v : Val) (ps : List XPage) (off : Nat) : Bool :=
  let va := spreadInt (capWalk v.bits) (index v + (off : Int))
  let ct := match resolveAddr s g va 16 needR with | .ok p => p.ct | _ => false
  capHas v.bits .lc && ct && (match xpa ps va with | some (pa, _) => s.mem.tagAt pa | none => false)

/-- `spawn`. -/
noncomputable def spawnAct (i : Instr) (a d : BitVec 6) (s : State) : Act :=
  match s.g.execs true with
  | [] => .done s
  | l :: _ =>
    let v := s.g.read l a
    let runs := capRuns v 0 64
    match spanTrap s.g v a [.r] false 16 runs 0 64 with
    | some t => .trap s t
    | none =>
      match s.capture s.g needR (fun _ => true) runs with
      | .inr e => s.captureFail e
      | .inl ps =>
        withAppendOn i (watchedRuns true false l.no runs) d s fun s => withFence false s fun s =>
          if (xlines ps runs).any (fun n => s.ownedAt (n * 64) 64) then .wait s .localLoad
          else if s.xbad s.g.core ps (runAddrs runs) then
            .trap (s.readLines s.g.core ps (runAddrs runs)) (trap 0x12 ((capCursor v.bits).setWidth 64))
          else
            let r := taskRec (s.mem.xat ps v 0 64) (s.granuleCap s.g v ps 0) (s.granuleCap s.g v ps 16)
            let t := s.task s.g.sp.task
            let ctx := (t.map (·.ctx)).getD 0
            let code := r.code (s.ctxBytes ctx).1
            let b : LaunchBase :=
              { asid := s.g.sp.asid.toNat, mwb := s.g.sp.mwb, swb := s.g.sp.swb, tvec := s.g.sp.tvec, ctx := ctx, fn := (t.map (·.fn)).getD 0,
                launcher := some s.g.sp.crew, light := none, reply := false, await := false, core := s.g.core, addr := cursorAddr v, group := 0 }
            let go (s : State) : Act :=
              let s1 := s.readLines s.g.core ps (runAddrs runs)
              .done (if code = 0 then s1.launch r b (quadOf s1.g.core) else s1)
            if d = 0 then go s else putReg i d (s.g.acts.map fun l => (l.no, dataNat code)) s go

/-! ### Dependency counters -/

/-- The checks of a counter named by a register: `ps` are the permissions its capability needs (16 R344, R345). -/
def State.counterChk (s : State) (ps : List Perm) (v : Val) (a : BitVec 6) : Chk :=
  match checkAccess s s.g v a (index v) 32 32 ps ⟨false, true, false, true, false⟩ with
  | .ok p => if isSharedPA p.pa && p.pkg.isNone then .ok p else .trap (trap 0x09 (BitVec.ofNat 64 (cursorAddr v)))
  | c => c

/-- The 32 bytes of a counter (15 R316). -/
def counterBits (trec init count : Word) (rearm : Bool) : BitVec 256 :=
  BitVec.ofNat 256 (trec.toNat * 2 ^ 128 + init.toNat % 2 ^ 32 * 2 ^ 64 + rearm.toNat * 2 ^ 34 + count.toNat % 2 ^ 32)

/-- `task.ctr` (16 R344): posted to the bank with its creator word. -/
noncomputable def taskCtrAct (i : Instr) (a : BitVec 6) (s : State) : Act :=
  match s.g.execs true with
  | [] => .done s
  | l :: _ =>
    if s.scPending then .wait s .fence
    else
      let v := s.g.read l a
      match s.counterChk [.w, .a, .m] v a with
      | .trap t => .trap s t
      | .walk va => .wait (s.startWalk va) .translation
      | .ok p =>
        withWatch i (watchedRuns false true l.no [(cursorAddr v, 32)]) s fun s =>
          if (s.core s.g.core).freeCount = 0 then .wait s .journal
          else
            let x1 := s.g.xr 1
            let c : Creator :=
              { pa := p.pa, asid := s.g.sp.asid.toNat, mwb := s.g.sp.mwb, swb := s.g.sp.swb, tvec := s.g.sp.tvec, crew := s.g.sp.crew,
                ctx := ((s.task s.g.sp.task).map (·.ctx)).getD 0, fn := s.fnOf s.g.sp.task }
            let op : MemOp := .counter (counterBits (s.g.xr 0) (x1 >>> 32) x1 ((s.g.xr 2).getLsbD 0)) c
            .done (s.post ⟨l.no, p, cursorAddr v, op⟩ 0 5 (op9Of i))

/-- The journal entry that the issuing group's `task.dec` holds while its decrement is still to be sent. -/
def State.decEntry (s : State) : Option Nat :=
  (s.core s.g.core).journal.toList.zipIdx.findSome? fun p =>
    if p.1.any fun e => e.gid == s.g.gid && e.opc == decOpc && e.st == 1 && e.reason == 0 then some p.2 else none

/-- The release of a `task.dec` and then its decrement, which goes to the bank (16 R345). -/
def State.sendDec (s : State) (l : Lane) (v : Val) (a : BitVec 6) (n : Nat) : Act :=
  if !s.quiet false then .wait s .fence
  else
    match s.counterChk [.w, .a] v a with
    | .trap t => .trap (s.freeEntries s.g.core [n]) t
    | .walk va => .wait (s.startWalk va) .translation
    | .ok p =>
      let d : Decr :=
        { pa := some p.pa, va := BitVec.ofNat 64 (cursorAddr v), src := s.g.srcOf l.no, gid := some s.g.gid, entry := some n, task := s.g.sp.task,
          core := s.g.core, launcher := none, fn := 0, since := s.clk, result := none }
      .wait { s with decs := s.decs ++ [d] } .fence

/-- `task.dec` (16 R345): it holds a journal entry from its issue; a release, then the decrement, and its answer. -/
noncomputable def taskDecAct (i : Instr) (a : BitVec 6) (s : State) : Act :=
  match s.g.execs true with
  | [] => .done s
  | l :: _ =>
    let v := s.g.read l a
    if s.g.sent then
      match s.g.answers with
      | [] => (match (if s.decsOf s.g.gid then none else s.decEntry) with | some n => s.sendDec l v a n | none => .wait s .fence)
      | (_, .ok _) :: _ => .done s
      | (_, .fail c t) :: _ => .trap s (trap c t)
    else
      match s.counterChk [.w, .a] v a with
      | .trap t => .trap s t
      | .walk va => .wait (s.startWalk va) .translation
      | .ok _ =>
        withWatch i (watchedRuns true true l.no [(cursorAddr v, 32)]) s fun s =>
          -- it waits for an entry as it does for its answer (16 R345)
          match s.takeEntry (s.entryOf l.no (cursorAddr v) 0 5 (op9Of i)) with
          | (_, none) => .wait s .fence
          | (s1, some n) => ({ s1 with g := { s1.g with sent := true, answers := [] } } : State).sendDec l v a n

/-- The place of an address in a task's, creator's or context's own terms, with its key and whether capability tags may stand there
(11 R218; 15 R317, R318), for an access at a level (log 82): none where it fails translation or the entry denies it (R232). -/
def State.placeOf (s : State) (asid : Nat) (mwb swb : Word) (n : Need) (priv : BitVec 2) (a : Nat) : Option (Nat × Option Nat × Bool) :=
  if mwb.toNat ≤ a ∧ a < mwb.toNat + Config.meshSize then
    let w := a - mwb.toNat
    if w / 2 ^ 19 / 1024 < 6 ∧ w % 2 ^ 19 < localSize (w / 2 ^ 19) then some (localPA (w / 2 ^ 19) (w % 2 ^ 19), none, true) else none
  else if swb.toNat ≤ a ∧ a < swb.toNat + Config.windowSize then
    let w := a - swb.toNat
    if w / 2 ^ 32 < 6 ∧ w % 2 ^ 32 < Config.sharedDie ∧ s.pkg.ssPages.contains ((Config.sharedBase + w) / 4096) = false then
      some (Config.sharedBase + w, none, true)
    else none
  else
    (mapGet asid s.pkg.roots).bind fun root => (walkTable s.mem a 4 root).bind fun p =>
      if p.2.extractLsb' 24 8 ≠ s.pkg.pod ∨ (leafDenies s p.2 p.1 a n priv).isSome = true then none
      else some (leafPA p.2 p.1 a, leafKey p.2, pteBit p.2 9)

/-- The quad of a bank (11 R226). -/
def bankQuad (pa : Nat) : Nat := (homeQuad pa).1 * 256 + (homeQuad pa).2

/-- A counter fires: the record at TREC is read with its creator's authority, at level U, checked and sent into the walk (15 R317). -/
def State.fire (s : State) (c : Creator) (trec : Nat) : State :=
  let quad := bankQuad c.pa
  let refuse (code : Nat) : State :=
    s.emit .scheduler (s.crewDest c.crew c.fn) (recordBits 6 8 0 (quad * 4 % 256) (BitVec.ofNat 64 code))
  let place (a : Nat) : Option (Nat × Option Nat × Bool) := s.placeOf c.asid c.mwb c.swb ⟨true, false, false, false, false⟩ 0 a
  let away (s : State) (pa : Nat) : Bool := (s.refusalFrom (quad / 256) (.load 1 false false) pa).isSome
  match place trec, place (trec + 63) with
  | some (pa, key, ct), some (pz, kz, cz) =>
    if away s pa || away s pz then refuse 0x22
    else
      let s := (((s.handOver (.load 1 false false) pa key).takesPort pa).handOver (.load 1 false false) pz kz).takesPort pz
      let refuse (code : Nat) : State :=
        s.emit .scheduler (s.crewDest c.crew c.fn) (recordBits 6 8 0 (quad * 4 % 256) (BitVec.ofNat 64 code))
      let first (k : Nat) : Bool := decide (trec % 4096 + k < 4096)
      let at_ (k : Nat) : Nat := if first k then pa + k else pz - 63 + k
      if (upFrom 0 64).any fun k => s.mem.lineBad (at_ k) (if first k then key else kz) then refuse 0x23
      else
        let n := leNat ((upFrom 0 64).map fun k => s.mem.byte (at_ k))
        let tag (k : Nat) : Bool := decide (trec % 16 = 0) && (if first k then ct else cz) && s.mem.tagAt (at_ k)
        let r := taskRec n (tag 0) (tag 16)
        let code := r.code (s.ctxBytes c.ctx).1
        if code ≠ 0 then refuse code
        else
          s.launch r { asid := c.asid, mwb := c.mwb, swb := c.swb, tvec := c.tvec, ctx := c.ctx, fn := c.fn, launcher := some c.crew,
                       light := none, reply := false, await := false, core := quad * 4, addr := trec, group := 0 } quad
  | _, _ => refuse 0x22

/-- What a decrement does to the counter at its place (15 R317): the state, and 0, or the trap code of what was wrong. -/
def State.countDown (s0 : State) (pa : Nat) : State × Nat :=
  let s := s0.handOver (.load 1 false false) pa none
  if s.mem.poisoned pa 32 then (s, 0x12)
  else
    match s.creators.find? fun c => c.pa == pa with
    | none => (s, 0x09)
    | some c =>
      let count := s.mem.nat pa 4
      let ctl := s.mem.nat (pa + 4) 4
      let put (s : State) (count ctl : Nat) : State := { s with mem := s.mem.store pa 8 (count + ctl * 2 ^ 32) }
      let bit (k : Nat) : Nat := if ctl.testBit k then ctl else ctl + 2 ^ k
      if count = 0 then (put s 0 (bit 3), 0x1E)
      else if count = 1 then
        let init := s.mem.nat (pa + 8) 4
        ((put s (if ctl.testBit 2 then init else 0) (bit 1)).fire c (s.mem.nat (pa + 16) 8), 0)
      else (put s (count - 1) ctl, 0)

/-- Whether a decrement is the next at its bank: it is the next of its source there, of those sent in one clk the one of the lowest source,
no SC operation is due first, and no engine owns the line (11 R227; 12 R248, R249, R255). -/
def State.decReady (s : State) (idx : Nat) (d : Decr) : Bool :=
  match d.pa with
  | none => true
  | some pa =>
    let rivals (l : List Decr) : List Decr := l.filter fun e => e.result.isNone && (e.pa.map homeOf) == some (homeOf pa)
    !s.ownedAt pa 32 && !s.scDueAt (homeOf pa) && !(s.net.any fun r => r.src == d.src && r.home == homeOf pa) &&
      !((rivals (s.decs.take idx)).any fun e => e.src == d.src) && !(rivals s.decs).any fun e => e.since == d.since && decide (e.core < d.core)

/-- A failed automatic decrement is reported (15 R318). -/
def State.decReport (s : State) (d : Decr) (status : Nat) : State :=
  let dest := match d.launcher with | some c => s.crewDest c d.fn | none => .host d.fn
  s.emit .scheduler dest (recordBits 6 status 0 (d.core % 256) d.va)

/-- The bank applies a decrement (15 R317, R318; 16 R345). -/
def State.decrement (s : State) (idx : Nat) : State :=
  match s.decs[idx]? with
  | none => s
  | some d =>
    if d.result.isSome || !s.decReady idx d then s
    else
      let drop (s : State) : State := { s with decs := s.decs.eraseIdx idx }
      match d.gid, d.pa with
      | none, none => (drop s).decReport d 3
      | none, some pa =>
        if !isSharedPA pa || (s.refusal (.load 1 false false) pa).isSome || s.unreachable (dieOf d.core) (dieOfPA pa) then (drop s).decReport d 3
        else
          let (s1, code) := s.countDown pa
          if code = 0 then drop s1 else (drop s1).decReport d (if code = 0x1E then 7 else 3)
      | some _, none => drop s
      | some _, some pa =>
        match (if s.unreachable (dieOf d.core) (dieOfPA pa) then some 6 else s.refusal (.load 1 false false) pa) with
        | some r => (drop s).refuseEntry d.core d.entry d.va r
        | none =>
          let (s1, code) := s.countDown pa
          { s1 with decs := s1.decs.set idx { d with result := some (if code = 0 then .ok Val.zero else .fail code d.va) } }

/-- The bank's answer reaches the group that waits for it, and its journal entry is free (16 R345). -/
def State.decAnswer (s : State) (gid : Nat) : State :=
  match s.decs.find? fun d => d.gid == some gid && d.result.isSome with
  | none => s
  | some d =>
    let s1 : State := { s with decs := s.decs.erase d }
    let s2 := match d.entry with | some n => s1.freeEntries d.core [n] | none => s1
    match d.result with
    | some a => s2.mapGroup gid fun g => { g with answers := g.answers ++ [(g.lead, a)] }
    | none => s2

/-- Whether every store of the crews of a task has been performed and acknowledged (16 R346); writes at the own local
memory and SC operations of groups that have ended may still be on their way. -/
def State.storesDone (s : State) (task : Nat) : Bool :=
  (s.cores.all fun c => c.journal.toList.all fun e => match e with | some e => e.task != task || e.st != 1 | none => true) &&
    !(s.net.any fun r => r.op.writes && !(s.all.any fun g => g.gid == r.gid)) &&
    !s.scq.any fun o => !(s.all.any fun g => g.gid == o.req.gid)

/-- The automatic decrements of a completed task (15 R318; 16 R346). -/
def State.autoDecrement (s : State) (task : Nat) : State :=
  match s.task task with
  | none => s
  | some t =>
    match t.done with
    | none => s
    | some core =>
      if !s.storesDone task || (!t.decided && !t.killed) || t.await then s
      else
        let dec (n : Nat) : List Decr :=
          let a := t.record.succ n
          if a = 0 then []
          else [{ pa := (s.placeOf t.asid t.mwb t.swb ⟨false, true, false, true, false⟩ 0 a).map (·.1), va := BitVec.ofNat 64 a, src := core * 64, gid := none, entry := none, task := task,
                  core := core, launcher := t.launcher, fn := t.fn, since := s.clk, result := none }]
        let s1 : State := { s with decs := s.decs ++ dec 0 ++ dec 1 }
        if t.reply then s1.mapTask task fun t => { t with done := none } else { s1 with tasks := s1.tasks.filter fun x => x.id != task }

/-! ### Meanings -/

/-- SPAWN (R343): Reads and checks a task record and starts its tender walk. -/
noncomputable def execSpawn (a : BitVec 6) (d : BitVec 6) (s : State) : Host.Outcome State Fault Refusal :=
  issue (.spawn a d) elected (fun _ => none) (spawnAct (.spawn a d) a d) s

/-- TASK_DEC (R345): Releases and sends a decrement to a dependency counter, waiting for the answer. -/
noncomputable def execTaskDec (a : BitVec 6) (s : State) : Host.Outcome State Fault Refusal :=
  issue (.taskDec a) elected (fun _ => none) (taskDecAct (.taskDec a) a) s

/-- TASK_CTR (R344): Writes a dependency counter and its creator word. -/
noncomputable def execTaskCtr (a : BitVec 6) (s : State) : Host.Outcome State Fault Refusal :=
  issue (.taskCtr a) elected
    (fun s => if (s.g.xr 2).extractLsb' 1 63 != 0 || (s.g.xr 0).extractLsb' 56 8 != 0 then some (encTrap (.taskCtr a) s) else none)
    (taskCtrAct (.taskCtr a) a) s

/-- AUTOMATIC_DECREMENT (R318): Once the completed task's stores are acknowledged, SUCC0 and SUCC1 are decremented. -/
def execAutomaticDecrement (task : Nat) (s : State) : Host.Outcome State Fault Refusal := .next (s.autoDecrement task).tick

/-- COUNTER_DECREMENT (R317): The bank ALU applies a decrement to a dependency counter. -/
def execCounterDecrement (idx : Nat) (s : State) : Host.Outcome State Fault Refusal := .next (s.decrement idx).tick

/-- TASK_DEC_BANK_ANSWER (R345): The bank's answer to a task.dec reaches the waiting group, which continues or takes cause 0x1E, 0x09, 0x12 or 0x18. -/
def execTaskDecBankAnswer (gid : Nat) (s : State) : Host.Outcome State Fault Refusal := .next (s.decAnswer gid).tick

/-- TENDER_WALK_START (R321): A task record starts its walk at its source quad. -/
def execTenderWalkStart (idx : Nat) (s : State) : Host.Outcome State Fault Refusal := .next (s.startWalkOf idx).tick

/-- TENDER_WALK_OFFER (R145): A record reaches a quad, which takes crews from it, then moves on or queues. -/
def execTenderWalkOffer (idx : Nat) (s : State) : Host.Outcome State Fault Refusal := .next (s.offer idx).tick

/-- READY_QUEUE_OFFER (R319): A core frees capacity and the quad offers its queued records in service order. -/
def execReadyQueueOffer (quad : Nat) (s : State) : Host.Outcome State Fault Refusal := .next (s.offerQueue quad).tick

/-- PASSED_OVER_LIMIT (R319): An entry passed over for 4,096 clk blocks later entries from placement. -/
def execPassedOverLimit (quad : Nat) (entry : Nat) (s : State) : Host.Outcome State Fault Refusal := .next (s.passLimit quad entry).tick

end Sys2Proof.Machine
end

