-- ==== Sys2Proof/Machine/Generation.lean ====
section
/-! DEFINITION. The generation loop (23): the batching table and its replicas, `bt.prep`, `bt.commit`, `migrate` and
`pt.trunc`. -/

namespace Sys2Proof.Machine

/-! ### Replicas (23 R445 to R448) -/

/-- Changes the replica of a die. -/
def State.mapReplica (s : State) (die : Nat) (f : Replica → Replica) : State :=
  { s with replicas := s.replicas.map fun r => if r.die = die then f r else r }

/-- The replica of a die. -/
def State.replica (s : State) (die : Nat) : Option Replica := s.replicas.find? fun r => r.die == die

/-- STATE of a replica's header: 0 IDLE, 1 STAGED, 2 STALE. -/
def State.repState (s : State) (r : Replica) : Nat := s.mem.nat r.pa 1 % 4
/-- ITER. -/
def State.repIter (s : State) (r : Replica) : Nat := s.mem.nat (r.pa + 4) 4
/-- PITER. -/
def State.repPiter (s : State) (r : Replica) : Nat := s.mem.nat (r.pa + 8) 4
/-- NREP. -/
def State.repCount (s : State) (r : Replica) : Nat := s.mem.nat (r.pa + 2) 2 % 2 ^ 11

/-- A write of the commit path, which the lock of the lines does not stop (23 R445). -/
def State.repWrite (s : State) (r : Replica) (off n v : Nat) : State := s.poke (r.pa + off) n v

/-- STATE written. -/
def State.setRepState (s : State) (r : Replica) (st : Nat) : State := s.repWrite r 0 1 (s.mem.nat r.pa 1 / 4 * 4 + st)

/-- Firmware configures the batching group and creates this package's replicas (23 R445 to R447): a header with NREP, and every entry 0
with STATUS FREE. -/
def State.configure (s : State) (pods : List (BitVec 8)) (nrep : Nat) (reps : List (Nat × Nat)) : State :=
  let make (m : Memory) (p : Nat × Nat) : Memory :=
    (upFrom 0 (Replica.size / 64)).foldl (fun m k => m.heal (p.2 + 64 * k)) (m.store p.2 Replica.size (nrep % 2 ^ 11 * 2 ^ 16))
  { s with
    mem := reps.foldl make s.mem
    replicas := reps.map fun p => { die := p.1, pa := p.2, staged := [], issuer := none, tlim := 0, order := none, phase := 0 }
    pkg := { s.pkg with batch := pods.take 256 } }

/-- The numbers of the replicas of other packages of the group, by package and die. -/
def State.farReplicas (s : State) : List Nat :=
  (s.pkg.batch.filter fun p => p != s.pkg.pod && (s.routeTo p).isSome).flatMap fun p => (upFrom 0 6).map fun d => 8 * (p.toNat + 1) + d

/-- What a replica of another package answers to an operation of this one: a free value (log 44). -/
def BtOp.far (o : BtOp) (n : Nat) : Option Bool := Config.farReplica ((o.since * 8192 + o.src) * 2 + o.commit.toNat) n

/-- A replica of another package whose answer to an operation is still to come. -/
def State.farDue (s : State) (o : BtOp) : Option Nat :=
  s.farReplicas.find? fun n => (o.far n).isSome && !o.answers.any fun a => a.1 == n

/-- An operation with a replica's answer. -/
def State.btAnswer (s : State) (o : BtOp) (n : Nat) (ok : Bool) : State :=
  { s with btops := s.btops.map fun p => if p = o then { p with answers := p.answers ++ [(n, ok)] } else p }

/-- A replica of another package answers a list, or a COMMIT. -/
def State.farAnswers (s : State) (n : Nat) (commit : Bool) : State :=
  match s.btops.find? fun o => o.commit == commit && (o.far n).isSome && s.farReplicas.contains n && !o.answers.any fun a => a.1 == n with
  | some o => match o.far n with | some ok => s.btAnswer o n ok | none => s
  | none => s

/-- STATUS of an entry image. -/
def imageStatus (n : Nat) : Nat := n / 2 ^ 32 % 256

/-- Whether a replica acknowledges a list (23 R451). -/
def State.repAccepts (s : State) (r : Replica) (iter : Nat) (recs : List (Nat × Nat × Bool)) : Bool :=
  s.repState r == 0 && decide (s.repIter r < iter) && recs.all (fun e => decide (imageStatus e.2.1 ≤ 4)) &&
    decide ((recs.map (·.1)).eraseDups.length = recs.length)

/-- The `bt.prep` list that a replica receives next: the first sent that it has not answered, and of those sent in one clk that of the
lowest source (23 R453). -/
def State.nextList (s : State) (die : Nat) : Option BtOp :=
  let first (m : Option BtOp) (o : BtOp) : Option BtOp :=
    match m with
    | some q => if o.since < q.since ∨ (o.since = q.since ∧ o.src < q.src) then some o else some q
    | none => some o
  (s.btops.filter fun o => !o.commit && !o.answers.any fun a => a.1 == die).foldl first none

/-- A replica receives a `bt.prep` list (23 R451, R453): it stages it or refuses. -/
def State.stage (s : State) (die : Nat) : State :=
  if 8 ≤ die then s.farAnswers die false
  else match s.replica die, s.nextList die with
  | some r, some o =>
    let ok := s.repAccepts r o.iter o.recs && !s.pkg.deadDies.getLsbD die
    let s1 := s.btAnswer o die ok
    if !ok then s1
    else
      ((s1.repWrite r 8 4 o.iter).setRepState r 1).mapReplica die fun r =>
        { r with staged := o.recs, issuer := some (o.gang, o.crew), tlim := o.tlim, order := none, phase := 0 }
  | _, _ => s

/-- A replica receives DISCARD and returns to IDLE, PITER unchanged (23 R451). -/
def State.discard (s : State) (die : Nat) : State :=
  match s.replica die with
  | none => s
  | some r =>
    if r.order ≠ some false then s
    else (s.setRepState r 0).mapReplica die fun r => { r with staged := [], issuer := none, order := none, phase := 0 }

/-- The lines of the entries of a list in a replica. -/
def Replica.lines (r : Replica) (recs : List (Nat × Nat × Bool)) : List Nat :=
  recs.flatMap fun e => [(r.pa + 128 * (e.1 + 1)) / 64, (r.pa + 128 * (e.1 + 1)) / 64 + 1]

/-- The number under which a replica's collective engine owns lines: operations of groups are numbered below it. -/
def Replica.op (r : Replica) : Nat := 2 ^ 64 + r.die

/-- An entry image with its reserved bits 0 (23 R447). -/
def entryImage (n : Nat) : Nat :=
  let field (lo hi : Nat) : Nat := n / 2 ^ lo % 2 ^ (hi - lo) * 2 ^ lo
  field 0 160 + field 256 448 + field 512 640 + field 768 1024

/-- An entry written with KVPT's tag, whole lines that are poisoned no more (11 R236; 23 R447). -/
def State.putEntry (s : State) (r : Replica) (e : Nat × Nat × Bool) : State :=
  let at_ := 128 * (e.1 + 1)
  let s1 := s.repWrite r at_ 128 (entryImage e.2.1)
  let m := (s1.mem.heal (r.pa + at_)).heal (r.pa + at_ + 64)
  { s1 with mem := if e.2.2 then m.setTag (r.pa + at_ + 64) else m }

/-- The COMMIT that reaches a replica is still awaited by its issuer. -/
def State.awaited (s : State) (r : Replica) : Option BtOp :=
  s.btops.find? fun o => o.commit && r.issuer == some (o.gang, o.crew) && decide (s.clk < o.deadline)

/-- A replica applies COMMIT (23 R448, R452), unless its die's collective engine holds a record (15 R315): it takes ownership of the
entry lines, then writes the entries, then the header and answers. One that has not answered within the limit becomes STALE. -/
def State.applyCommit (s : State) (die : Nat) : State :=
  if 8 ≤ die then s.farAnswers die true
  else match s.replica die with
  | none => s
  | some r =>
    let reset (s : State) : State := s.mapReplica die fun r => { r with staged := [], issuer := none, order := none, phase := 0 }
    if r.order ≠ some true then s
    else
      match r.phase, s.awaited r with
      | _, none => reset ((s.disown r.op).setRepState r 2)
      | 0, some _ =>
        if s.unitHeld (.collective die) || (r.lines r.staged).any fun l => s.ownedAt (l * 64) 64 then s
        else (s.own r.op (r.lines r.staged)).mapReplica die fun r => { r with phase := 1 }
      | 1, some _ => ((r.staged.foldl (fun s e => s.putEntry r e) s).disown r.op).mapReplica die fun r => { r with phase := 2 }
      | _, some o => reset (((s.repWrite r 4 4 (s.repPiter r)).setRepState r 0).btAnswer o die true)

/-- Firmware restores a STALE replica from a current one (23 R452). -/
def State.restoreReplica (s : State) (die src : Nat) : State :=
  match s.replica die, s.replica src with
  | some r, some c =>
    if s.repState r ≠ 2 ∨ s.repState c ≠ 0 then s
    else
      let tags := (upFrom 0 4096).filter fun e => s.mem.tagAt (c.pa + 128 * (e + 1) + 64)
      let s0 := s.repWrite r 0 Replica.size (s.mem.nat c.pa Replica.size)
      let s1 : State := { s0 with mem := (upFrom 0 (Replica.size / 64)).foldl (fun m k => m.heal (r.pa + 64 * k)) s0.mem }
      { s1 with mem := tags.foldl (fun m e => m.setTag (r.pa + 128 * (e + 1) + 64)) s1.mem }
  | _, _ => s

/-! ### `bt.prep` and `bt.commit` (23 R449 to R452) -/

/-- A breach of the controls of `bt.prep` (23 R450). -/
def prepBad (x0 x1 : Word) : Bool :=
  let n := (x0.extractLsb' 32 7).toNat
  x0.extractLsb' 39 25 != 0 || x1.extractLsb' 32 32 != 0 || decide (n = 0 ∨ 64 < n) || x1.extractLsb' 0 32 == 0

/-- The replica of the own die that register a names, or the trap it takes (23 R450 steps 1 and 2), or the address to be
translated first. -/
def State.tableOf (s : State) (l : Lane) (a : BitVec 6) : Replica ⊕ (Trap ⊕ Nat) :=
  let v := s.g.read l a
  let runs := capRuns v 0 1
  let bad : Replica ⊕ (Trap ⊕ Nat) := .inr (.inl (trap 0x20 ((capCursor v.bits).setWidth 64)))
  match spanTrap s.g v a [.r, .w] true 1 runs 0 Replica.size with
  | some t => .inr (.inl t)
  | none =>
    match resolveAddr s s.g (spreadInt (capWalk v.bits) (index v)) 1 ⟨false, false, false, false, false⟩ with
    | .walk va => .inr (.inr va)
    | .trap _ => bad
    | .ok p =>
      match s.replica (dieOf s.g.core) with
      | some r => if r.pa = p.pa ∧ p.pkg = none then .inl r else bad
      | none => bad

/-- The interlocked wait of these instructions and what they answer. -/
noncomputable def btAct (i : Instr) (d : BitVec 6) (ask : State → Act) (s : State) : Act :=
  match s.g.execs true with
  | [] => .done s
  | _ :: _ =>
    let give (s : State) (v : Val) : Act := if d = 0 then .done s else putReg i d (s.g.acts.map fun l => (l.no, v)) s .done
    if s.g.sent then
      match s.g.answers with
      | [] => .wait s .batch
      | (_, .fail c t) :: _ => .trap s (trap c t)
      | (_, .ok v) :: _ => give s v
    else ask s

/-- The staging records at a capability (23 R450): entry number, image and KVPT's tag. -/
def State.stagingRecs (s : State) (v : Val) (ps : List XPage) (n : Nat) : List (Nat × Nat × Bool) :=
  (upFrom 0 n).map fun (k : Nat) =>
    let at_ : Nat := 144 * k
    (s.mem.xat ps v at_ 16 % 4096, s.mem.xat ps v (at_ + 16 : Nat) 128, s.granuleCap s.g v ps (at_ + 80))

/-- The issue of `bt.prep` (23 R450). The records are read as a load: M is needed of b for another home (00 R6; 24 R464). -/
noncomputable def btPrepAsk (i : Instr) (b a d : BitVec 6) (s : State) : Act :=
  match s.g.execs true with
  | [] => .done s
  | l :: _ =>
    match s.tableOf l a with
    | .inr (.inl t) => .trap s t
    | .inr (.inr va) => .wait (s.startWalk va) .translation
    | .inl r =>
      let x0 := s.g.xr 0
      let n := (x0.extractLsb' 32 7).toNat
      let v := s.g.read l b
      let runs := capRuns v 0 (144 * n)
      match spanTrap s.g v b [.r] false 16 runs 0 (144 * n : Nat) with
      | some t => .trap s t
      | none =>
        match s.capture s.g needR (fun _ => true) runs with
        | .inr e => s.captureFail e
        | .inl ps =>
          if s.inFlight || (xlines ps runs).any (fun n => s.ownedAt (n * 64) 64) then .wait s .localLoad
          else
            let recAddrs (k : Nat) : List Nat := runAddrs (capRuns v (144 * k : Nat) 144)
            match (upFrom 0 n).find? fun k => s.xbad s.g.core ps (recAddrs k) with
            | some k => .trap s (trap 0x12 (BitVec.ofNat 64 ((recAddrs k).headD 0)))
            | none =>
              withAppendOn i (watchedRuns true false l.no runs) d s fun s0 =>
                let s := s0.readLines s0.g.core ps (runAddrs runs)
                let tlim := ((s.g.xr 1).extractLsb' 0 32).toNat
                let o : BtOp :=
                  { gid := s.g.gid, gang := s.g.gang, crew := s.g.sp.crew, commit := false, iter := (x0.extractLsb' 0 32).toNat, tlim := tlim,
                    deadline := s.clk + tlim, recs := s.stagingRecs v ps n, nrep := s.repCount r, answers := [],
                    since := s.clk, src := s.g.core }
                .wait { s with btops := s.btops ++ [o], g := { s.g with sent := true, answers := [] } } .batch

/-- The issue of `bt.commit` (23 R452): COMMIT is sent to every replica if its own is STAGED by this issuer. -/
noncomputable def btCommitAsk (i : Instr) (a d : BitVec 6) (s : State) : Act :=
  match s.g.execs true with
  | [] => .done s
  | l :: _ =>
    match s.tableOf l a with
    | .inr (.inl t) => .trap s t
    | .inr (.inr va) => .wait (s.startWalk va) .translation
    | .inl r =>
      withAppend i d s fun s =>
        let me := some (s.g.gang, s.g.sp.crew)
        if s.repState r ≠ 1 ∨ r.issuer ≠ me ∨ r.order ≠ none then
          (if d = 0 then .done s else putReg i d (s.g.acts.map fun l => (l.no, Val.zero)) s .done)
        else
          let o : BtOp :=
            { gid := s.g.gid, gang := s.g.gang, crew := s.g.sp.crew, commit := true, iter := s.repPiter r, tlim := r.tlim,
              deadline := s.clk + r.tlim, recs := [], nrep := s.repCount r, answers := [],
              since := s.clk, src := s.g.core }
          let reps := s.replicas.map fun r => if r.issuer = me ∧ r.order = none then { r with order := some true } else r
          .wait { s with btops := s.btops ++ [o], replicas := reps, g := { s.g with sent := true, answers := [] } } .batch

/-- An answer for a group that waits at `bt.prep` or `bt.commit`. -/
def State.btTell (s : State) (o : BtOp) (v : Word) : State :=
  ({ s with btops := s.btops.erase o }).mapGroup o.gid fun g => { g with answers := g.answers ++ [(g.lead, Answer.ok (dataWord v))] }

/-- `bt.prep` answers when every replica has, or TLIM has passed (23 R451): unless all acknowledged, those that did are sent
DISCARD. -/
def State.prepAnswer (s : State) (gid : Nat) : State :=
  match s.btops.find? fun o => o.gid == gid && !o.commit with
  | none => s
  | some o =>
    if o.answers.length < o.nrep ∧ s.clk < o.deadline then s
    else
      let acks := (o.answers.filter (·.2)).length
      let all := decide (acks = o.nrep)
      let v : Word := BitVec.ofNat 64 (o.nrep * 2 ^ 32 + acks * 2 ^ 16 + all.toNat)
      let acked := (o.answers.filter (·.2)).map (·.1)
      let s1 : State := if all then s else
        { s with replicas := s.replicas.map fun r => if acked.contains r.die then { r with order := some false } else r }
      s1.btTell o v

/-- `bt.commit` answers when every replica has, or the limit has passed (23 R452): then a machine-check event goes to the
resident handler of die 0, and a replica that cannot be reached is STALE at once. -/
def State.commitAnswer (s : State) (gid : Nat) : State :=
  match s.btops.find? fun o => o.gid == gid && o.commit with
  | none => s
  | some o =>
    if o.answers.length = o.nrep then s.btTell o 1
    else if s.clk < o.deadline then s
    else
      let lost := s.replicas.filter fun r => r.order == some true && r.issuer == some (o.gang, o.crew) && s.pkg.deadDies.getLsbD r.die
      let s1 := lost.foldl (fun s r => (s.setRepState r 2).mapReplica r.die fun r => { r with staged := [], issuer := none, order := none, phase := 0 }) s
      (s1.btTell o 2).machineCheck 0 0

/-! ### `migrate` (23 R454, R455) -/

/-- The issue of `migrate`: its checks, the wait for what is outstanding, and the request to the destination. -/
noncomputable def migrateAsk (i : Instr) (a d : BitVec 6) (s : State) : Act :=
  let t := s.g.word a
  if t.extractLsb' 13 51 ≠ 0 then .trap s (trap 0x20 t)
  else
    match (upFrom 48 8).find? fun c => (s.g.stream (BitVec.ofNat 6 c)).isSome with
    | some c => .trap s (trap 0x24 (BitVec.ofNat 64 c))
    | none =>
      if s.g.slices.any fun sl => !sl.stack.isEmpty then .trap s (trap 0x20 0x200)
      else
        withFollower i s fun s =>
          if s.g.pend.any fun p => !p.discarded then .wait s .long
          else if !s.g.syms.isEmpty then .wait s .symbol
          else withFence false s fun s =>
            if t.toNat = s.g.core then (if d = 0 then .done s else putReg i d (s.g.acts.map fun l => (l.no, Val.zero)) s .done)
            else .wait { s with g := { s.g with sent := true, answers := [] } } .fence

/-- What the destination of a `migrate` answers (23 R454): the crew and the context reserved, or the code of the failure. -/
def State.reserve (s : State) (task core : Nat) : (Crew × Nat) ⊕ Nat :=
  if core % 4 ≥ 2 ∨ 6 ≤ dieOf core then .inr 1
  else if s.pkg.deadDies.getLsbD (dieOf core) then .inr 4
  else
    match s.crews.find? fun c => c.task == task && c.core == core && !c.isG && !c.inAreas with
    | none => .inr 2
    | some c =>
      match s.freeSlots core false with
      | [] => .inr 3
      | n :: _ => .inl (c, n)

/-- The lowest place in a crew's save region and spill regions that no member has (log 18). -/
def State.freeMember (s : State) (c : Crew) : Nat :=
  let used := (s.all.filter fun g => g.sp.crew == c.id).flatMap fun g => g.slices.map fun sl =>
    ((index sl.save - capBase sl.save.bits - 0x800) / 0xD00).toNat
  ((upFrom 0 23).find? fun m => !used.contains m).getD 22

/-- A register of a strand's lane, fetched from its save area where it is still ABSENT (18 R383, R386). -/
def State.fetched (s : State) (g : Group) (k : Vector Val 56) (r : Nat) : Val :=
  let v := k.toList.getD r Val.zero
  if v.tag = .absent then (match g.slotVA 0 r with | some va => s.getSlot g.sp.asid.toNat va | none => v) else v

/-- The strand as it stands in its new context (23 R455); its status and the registers of traps go with it (log 18). It
still waits at the `migrate`, which the answer completes. -/
def migrated (s : State) (g h : Group) (c : Crew) (n : Nat) : Group :=
  let m := s.freeMember c
  let local_ := flatCap 0x9B (g.sp.mwb.toNat + c.core * 2 ^ 19 + c.lo) c.len
  let save0 := match h.slices with | sl :: _ => sl.save | [] => Val.zero
  let sl0 := match g.slices with | sl :: _ => sl | [] => startSlice 0 n 0 Val.zero
  let k0 := match g.lanes with | l :: _ => l.k | [] => Vector.replicate 56 Val.zero
  let k := ((startRegs ((upFrom 1 15).map fun r => (r, s.fetched g k0 r))).setIfInBounds 4 local_).setIfInBounds 55 exitCap
  let inRegion := decide (m < c.members)
  { g with
    core := c.core, first := n, limit := if inRegion then h.limit else 16
    lanes := [⟨0, k, [], true, true⟩]
    slices := [{ startSlice 0 n (c.lo + c.len + m * ((c.limit - 16) * 8)) (moveTo save0 (capBase save0.bits + 0x800 + m * 0xD00)) with
      fmode := sl0.fmode, fmt := sl0.fmt }]
    sp := { g.sp with
      crew := c.id, mtime := 512, felim := 65536, gstat := 0, done := 0, tvec := h.sp.tvec, spill := h.sp.spill, evq := h.sp.evq }
    m := Vector.replicate 8 0, runLen := 0, shorts := 0, shadow := none, pend := [], syms := [], held := []
    stopReq := if c.preempt then 1 else g.stopReq
    answers := [(0, .ok Val.zero)] }

/-- A `migrate` request reaches its destination core (23 R454): a context is reserved and the strand is there, or it fails
where it was. -/
def State.migrate (s : State) (gid dest : Nat) : State :=
  match s.group gid with
  | none => s
  | some g =>
    match s.reserve g.sp.task dest with
    | .inr code => s.mapGroup gid fun g => { g with answers := [(g.lead, .ok (dataNat code))] }
    | .inl (c, n) =>
      match s.all.find? fun h => h.sp.crew == c.id with
      | none => s.mapGroup gid fun g => { g with answers := [(g.lead, .ok (dataNat 2))] }
      | some h =>
        let s1 := (s.leave g).mapGroup gid fun g => migrated s g h c n
        (s1.releaseAll g.sp.task).crewEnds g.sp.crew true

/-! ### `pt.trunc` (23 R457, R458) -/

/-- NPOS, TPP and NPAGE of a KV page table's header word. -/
def ptPos (h : Nat) : Nat := h % 2 ^ 32
/-- TPP. -/
def ptPer (h : Nat) : Nat := h / 2 ^ 32 % 2 ^ 16
/-- NPAGE. -/
def ptPages (h : Nat) : Nat := h / 2 ^ 48 % 2 ^ 16

/-- The writes of a truncation in order (23 R458): V of each entry cut off, then the header. -/
def truncWrites (entry : Nat → Nat) (addr : Nat → Nat) (header p n : Nat) : List (List (Nat × Byte)) :=
  let cut := (upFrom 0 (ptPages header)).filter fun i => decide (n ≤ i) && (entry i).testBit 0
  (cut.map fun i => [(addr (64 + 8 * i), BitVec.ofNat 8 (entry i % 256 - 1))]) ++
    [((natBytes 8 (n % 2 ^ 16 * 2 ^ 48 + ptPer header * 2 ^ 32 + p)).zipIdx).map fun b => (addr b.2, b.1)]

/-- Writes at their homes in order: the state, and the address and REASON of the first that is refused. -/
def State.truncate (s : State) (core : Nat) (ps : List XPage) : List (List (Nat × Byte)) → State × Option (Word × BitVec 4)
  | [] => (s, none)
  | bs :: t =>
    let lines := (bs.filterMap fun b => (xpa ps b.1).map fun p => p.1 / 64).eraseDups
    let (s1, r) := State.writeLines core 0 ps bs (fun _ => false) lines s
    let (s2, r2) := s1.writeAway core ps bs
    let (s3, r3) := s2.truncate core ps t
    (s3, (r.or r2).or r3)

/-- `pt.trunc` (23 R458). DESIGN CHOICE: the bounds of the whole table are known only when its header has been read, so the header's
translation and its poison come before them, and before the alignment that follows them (log 91). -/
noncomputable def ptTruncAct (i : Instr) (b a d : BitVec 6) (s : State) : Act :=
  match s.g.execs true with
  | [] => .done s
  | l :: _ =>
    let v := s.g.read l a
    let w := s.g.word b
    let give (x : Word) (s : State) (k : State → State) : Act :=
      if d = 0 then .done (k s) else putReg i d (s.g.acts.map fun l => (l.no, dataWord x)) s fun s => .done (k s)
    let need : Need := ⟨true, true, false, false, false⟩
    match spanTrap s.g v a [.r, .w] false 1 (capRuns v 0 64) 0 64, s.capture s.g need (fun _ => true) (capRuns v 0 64) with
    | some t, _ => .trap s t
    | none, .inr e => s.captureFail e
    | none, .inl hp =>
      if s.inFlight || (xlines hp (capRuns v 0 64)).any (fun n => s.ownedAt (n * 64) 64) then .wait s .localLoad
      else if s.xbad s.g.core hp (runAddrs (capRuns v 0 64)) then .trap s (trap 0x12 ((capCursor v.bits).setWidth 64))
      else
        let header := s.mem.xat hp v 0 8
        let len := 64 + 8 * ptPages header
        let runs := capRuns v 0 len
        match spanTrap s.g v a [.r, .w] false 64 runs 0 len with
        | some t => .trap s t
        | none =>
        if ptPer header = 0 ∨ s.mem.xat hp v 8 56 ≠ 0 then .trap s (trap 0x20 (BitVec.ofNat 64 header))
        else if w.extractLsb' 32 32 ≠ 0 then .trap s (trap 0x20 w)
        else
          match s.capture s.g need (fun _ => true) runs with
          | .inr e => s.captureFail e
          | .inl ps =>
            if (xlines ps runs).any (fun n => s.ownedAt (n * 64) 64) then .wait s .localLoad
            else
              let p := w.toNat
              let n := (p + ptPer header - 1) / ptPer header
              let addr (k : Nat) : Nat := spreadInt (capWalk v.bits) (index v + (k : Int))
              let ws := if ptPos header ≤ p then [] else truncWrites (fun i => s.mem.xat ps v (64 + 8 * i : Nat) 8) addr header p n
              let stores := (ws.flatMap id).map fun b => (b.1, 1)
              withAppendOn i (watchedRuns true false l.no runs ++ watchedRuns false true l.no stores) d s fun s0 =>
                let s := s0.readLines s0.g.core ps (runAddrs runs)
                if ptPos header ≤ p then give 0 s id
                else if (s.core s.g.core).freeCount = 0 then .wait s0 .journal
                else
                  give (BitVec.ofNat 64 (n * 2 ^ 32 + (ws.length - 1))) s fun s =>
                    let (s1, r) := s.truncate s.g.core ps ws
                    match r with
                    | none => s1
                    | some (va, r) =>
                      let (s2, k) := s1.takeEntry (s1.entryOf l.no va.toNat 0 3 (op9Of i))
                      s2.refuseEntry s.g.core k va r

/-! ### Meanings -/

/-- BT_PREP (R450): Sends a list of entry updates to every replica of the batching table and reports whether all staged it. -/
noncomputable def execBtPrep (b : BitVec 6) (a : BitVec 6) (d : BitVec 6) (s : State) : Host.Outcome State Fault Refusal :=
  issue (.btPrep b a d) elected (fun s => if prepBad (s.g.xr 0) (s.g.xr 1) then some (encTrap (.btPrep b a d) s) else none)
    (btAct (.btPrep b a d) d (btPrepAsk (.btPrep b a d) b a d)) s

/-- BT_COMMIT (R452): Commits the staged update at every replica. -/
noncomputable def execBtCommit (a : BitVec 6) (d : BitVec 6) (s : State) : Host.Outcome State Fault Refusal :=
  issue (.btCommit a d) elected (fun _ => none) (btAct (.btCommit a d) d (btCommitAsk (.btCommit a d) a d)) s

/-- MIGRATE (R454): Moves the strand to another S-core that holds a crew of its task. -/
noncomputable def execMigrate (a : BitVec 6) (d : BitVec 6) (s : State) : Host.Outcome State Fault Refusal :=
  issue (.migrate a d) elected (fun s => if s.g.isG then some (trap 0x20 0) else none)
    (btAct (.migrate a d) d (migrateAsk (.migrate a d) a d)) s

/-- PT_TRUNC (R458): Cuts a KV page table to a position and counts the pages freed. -/
noncomputable def execPtTrunc (b : BitVec 6) (a : BitVec 6) (d : BitVec 6) (s : State) : Host.Outcome State Fault Refusal :=
  issue (.ptTrunc b a d) elected (fun _ => none) (ptTruncAct (.ptTrunc b a d) b a d) s

/-- REPLICA_STAGE (R451): A replica receiving a bt.prep list stages it or refuses. -/
def execReplicaStage (die : Nat) (s : State) : Host.Outcome State Fault Refusal := .next (s.stage die).tick

/-- REPLICA_DISCARD (R451): A replica receiving DISCARD returns to IDLE. -/
def execReplicaDiscard (die : Nat) (s : State) : Host.Outcome State Fault Refusal := .next (s.discard die).tick

/-- REPLICA_COMMIT_APPLY (R448): A replica applies its staged update, header last, and answers. -/
def execReplicaCommitApply (die : Nat) (s : State) : Host.Outcome State Fault Refusal := .next (s.applyCommit die).tick

/-- BT_PREP_ANSWER (R451): bt.prep answers when all replicas answered or TLIM passes. -/
def execBtPrepAnswer (gid : Nat) (s : State) : Host.Outcome State Fault Refusal := .next (s.prepAnswer gid).tick

/-- BT_COMMIT_ANSWER (R452): bt.commit answers when all replicas answered or the limit passes. -/
def execBtCommitAnswer (gid : Nat) (s : State) : Host.Outcome State Fault Refusal := .next (s.commitAnswer gid).tick

/-- The instruction at which a group waits for a `migrate`'s answer. -/
noncomputable def State.migrating (s : State) (gid : Nat) : Option Nat :=
  match s.group gid with
  | none => none
  | some g =>
    match g.run, g.sent && g.answers.isEmpty, fetch s g g.pc with
    | .waiting _ _, true, .instr (.migrate a _) _ _ => some (g.word a).toNat
    | _, _, _ => none

/-- MIGRATE_RESERVE (R454): A migrate request reaches the destination core and reserves a context or fails. -/
noncomputable def execMigrateReserve (gid : Nat) (s : State) : Host.Outcome State Fault Refusal :=
  .next (match s.migrating gid with | some dest => s.migrate gid dest | none => s).tick

/-- STALE_REPLICA_RESTORE (R452): Firmware restores a STALE batching replica by copying a current one, bringing it out of STALE. -/
def execStaleReplicaRestore (die : Nat) (src : Nat) (s : State) : Host.Outcome State Fault Refusal := .next (s.restoreReplica die src).tick

end Sys2Proof.Machine
end

