-- ==== Sys2Proof/Machine/Home.lean ====
section
/-! DEFINITION. What happens at homes and on the way back (11 R233, R241, R242; 12 R246 to R257; 18 R374, R375; 22 R427): accesses
performed, values and acknowledgements that arrive, refusals and their traps, page walks, and lines that engines write. -/

namespace Sys2Proof.Machine

/-! ### Accesses at their homes (12 R246 to R250) -/

/-- The value of an access goes to the symbols or the instruction that await it. -/
def State.giveBack (s : State) (r : Req) (v : Val) : State :=
  let s1 : State :=
    if r.syms.isEmpty then s
    else
      { s with
        g := if s.g.gang = r.gang then s.g.give r.syms r.lanes v else s.g
        groups := s.groups.map fun g => if g.gang = r.gang then g.give r.syms r.lanes v else g }
  if r.ans then s1.mapGroup r.gid fun g => { g with answers := g.answers ++ r.lanes.map fun n => (n, Answer.ok v) } else s1

/-- An access that is not performed: its holders get poison, or its journal entry the reason (11 R237; 12 R251). -/
def State.refuseReq (s : State) (r : Req) (reason : BitVec 4) : State :=
  match r.op with
  | .fe k _ _ dst =>
    (match r.lanes with
      | n :: _ => if k < 2 then s.answer r.gid n dst (.ok poisonVal) else s.answer r.gid n dst (.fail 0x09 r.va)
      | [] => s)
  | _ => (s.giveBack r poisonVal).refuseEntry r.core r.entry r.va reason

/-- An access that is not performed, as an access is. -/
def State.performReq (s : State) (r : Req) : State :=
  if s.unreachable (dieOf r.core) (dieOfPA r.pa) then s.refuseReq r 6
  else
    match r.op with
    | .fe k data deadline dst =>
      (match r.lanes with
        | n :: _ => (if r.core = coreOfPA r.pa then s else s.takesPort r.pa).feArrive r.gid n r.pa r.va k data deadline dst
        | [] => s)
    | op =>
      let p := s.atHome op r.pa r.key
      let s1 := s.inspected op r.pa r.key
      let s0 := if r.core = coreOfPA r.pa then s1 else s1.takesPort r.pa
      match p.refused with
      | some reason => ({ s0 with mem := p.mem }).refuseReq r reason
      | none =>
        let s1 : State := { s0 with mem := p.mem }
        let s2 := match p.wrote with
          | some (b, n) =>
            let s2 := s1.noticed r.gid b n
            { s2 with creators := s2.creators.filter fun c => !decide (c.pa < b + n ∧ b < c.pa + 32) }
          | none => s1
        let s3 := match op with
          | .counter _ c => { s2 with creators := s2.creators ++ [c] }
          | .evqRd => s2.flushQueue r.pa
          | _ => s2
        s3.giveBack r p.val

/-- Whether an access can be performed now: none on its way to that home goes before it, no SC operation is due there first,
and no engine owns a line of it (12 R247 to R249, R255, R258). -/
def State.reqReady (s : State) (idx : Nat) (r : Req) : Bool :=
  !((s.net.take idx).any fun q => q.holds r) && !(r.pkg.isNone && s.scDueAt r.home) && !s.ownedAt r.pa r.op.size

/-- An access reaches its home. One whose home is in another package is answered by a flit (22 R429), or refused where no
route leads there. -/
def State.homeAccess (s : State) (idx : Nat) : State :=
  match s.net[idx]? with
  | none => s
  | some r =>
    if !s.reqReady idx r then s
    else
      let s1 : State := { s with net := s.net.eraseIdx idx }
      match r.pkg with
      | none => s1.performReq r
      | some p => if (s.routeTo p).isNone then s1.refuseReq r 6 else s

/-! ### The Foghorn (12 R257) -/

/-- The single SC order. -/
def ScOp.before (a b : ScOp) : Bool :=
  let key (o : ScOp) : List Nat := [o.window, o.core, o.clk, o.ctx, o.lane]
  decide (key a ≤ key b)

/-- An operation put into its place in the SC order. -/
def insertSc (o : ScOp) : List ScOp → List ScOp
  | [] => [o]
  | h :: t => if h.before o then h :: insertSc o t else o :: h :: t

/-- The operations of the earliest window, in SC order. -/
def State.scDue (s : State) : List ScOp :=
  let all := s.scq.foldl (fun l o => insertSc o l) []
  match all with
  | [] => []
  | o :: _ => all.filter fun p => p.window == o.window

/-- The SC operations of a window are performed in clk 16w + 112. One to another package is sent there, in the order of the window,
and counts as performed when it is answered. DESIGN CHOICE: where an engine owns a line of one, which R255 makes wait, the window
is held back whole, and so every later one; the spec does not say which SC operations wait with it (log 79). -/
def State.performSc (s : State) : State :=
  match s.scDue with
  | [] => s
  | o :: t =>
    if s.clk < 16 * o.window + 112 ∨ (o :: t).any fun p => s.ownedAt p.req.pa p.req.op.size then s
    else
      let s1 : State := { s with scq := s.scq.filter fun p => p.window != o.window }
      (o :: t).foldl (fun s p =>
        match p.req.pkg with
        | none => s.performReq p.req
        | some _ => s.send { p.req with since := s.clk, sc := true }) s1

/-! ### Late values (03 R70; 04 R85; 05 R118) -/

/-- A symbol of a group whose data has all arrived resolves in every holder (03 R70); that of a receive of a saved group
waits for the restore (03 R76). -/
def State.symbolArrival (s : State) (gid pool id : Nat) : State :=
  match s.group gid with
  | none => s
  | some g =>
    match g.syms.find? fun y => y.slice == pool && y.id.toNat == id with
    | none => s
    | some y =>
      if !(y.want.all fun n => y.got.any fun p => p.1 == n) || (y.mtag.isSome && g.inArea) then s
      else s.mapGroup gid fun g => { g.resolve y.slice y.id y.got with syms := g.syms.erase y }

/-- A result written to the register it was issued for, whatever the level now; registers kept from before a run receive
that of an instruction outside the run. A long form of a discarded run completes all the same: it raises its flags and writes
nothing (04 R85, R88; 02 R44). -/
def Group.land (g : Group) (p : Pend) : Group :=
  if p.discarded then g.raise p.flags
  else
    let put (ls : List Lane) : List Lane := ls.map fun l => match p.vals.lookup l.no with | some v => l.setReg p.dst v | none => l
    let g1 : Group :=
      if p.dst = 0 then g
      else if p.banked then
        let bank (idx : Nat) (b : Vector Val 4) : Vector Val 4 :=
          p.vals.foldl (fun b q => if q.1 / 4 = idx then b.setIfInBounds (p.dst.toNat - 52) q.2 else b) b
        { g with
          slices := g.slices.map fun sl => { sl with bank := bank sl.idx sl.bank }
          shadow := if p.inRun then g.shadow else g.shadow.map fun b => { b with banks := b.banks.map fun q => (q.1, bank q.1 q.2) } }
      else
        { g with
          lanes := put g.lanes
          shadow := if p.inRun then g.shadow else g.shadow.map fun b => { b with lanes := put b.lanes } }
    g1.raise p.flags

/-- The oldest local load, or long instruction, of a group whose time has come writes its result. -/
def State.pendLands (s : State) (gid : Nat) (long : Bool) : State :=
  match s.group gid with
  | none => s
  | some g =>
    match g.pend.find? fun p => p.long == long with
    | none => s
    | some p => if s.clk < p.due then s else s.mapGroup gid fun g => { g.land p with pend := g.pend.erase p }

/-! ### Journal entries (12 R250, R251; 18 R374, R375) -/

/-- Whether something on its way still refers to a journal entry, or a `task.dec` that holds it is still to send its decrement (16
R345). -/
def State.entryAwaited (s : State) (core n : Nat) : Bool :=
  let mine (c : Nat) (e : Option Nat) : Bool := c == core && e == some n
  s.net.any (fun r => mine r.core r.entry) || s.scq.any (fun o => mine o.req.core o.req.entry) ||
    s.arrays.any (fun a => a.order.any fun o => mine a.core o.entry) || (s.decs.any fun d => mine d.core d.entry) ||
    ((s.core core).journal.toList.getD n none).any fun e => e.opc == decOpc && e.reason == 0 && s.all.any fun g => g.gid == e.gid && g.sent

/-- The acknowledgement of a performed operation frees its entry. -/
def State.acknowledge (s : State) (core n : Nat) : State :=
  match (s.core core).journal.toList.getD n none with
  | some e => if e.st = 1 ∧ e.reason = 0 ∧ s.entryAwaited core n = false then s.freeEntries core [n] else s
  | none => s

/-- Changes a journal entry. -/
def State.mapEntry (s : State) (core n : Nat) (f : JEntry → JEntry) : State :=
  s.mapCore core fun c => { c with journal := c.journal.setIfInBounds n ((c.journal.toList.getD n none).map f) }

/-- Held refusals of a group. -/
def State.heldRefusals (s : State) (g : Group) : Nat :=
  ((s.core g.core).journal.toList.filter fun e => match e with | some e => e.gid == g.gid && e.st == 3 | none => false).length

/-- A refusal reaches the core (18 R375). -/
def State.refusalArrives (s : State) (core n : Nat) : State :=
  match (s.core core).journal.toList.getD n none with
  | none => s
  | some e =>
    let report := s.reportRefusal core n e (s.crewDest e.crew (s.fnOf e.task))
    if e.st ≠ 1 ∨ e.reason = 0 ∨ s.entryAwaited core n = true then s
    else
      match s.all.find? fun g => g.gid == e.gid with
      | none => report
      | some g =>
        let hold := match g.run with
          | .parked => true
          | .stopped true _ => true
          | _ => g.priv != 0 && e.level == 0
        if !hold then s.mapEntry core n fun e => { e with st := 2 }
        else if 8 ≤ s.heldRefusals g then report
        else s.mapEntry core n fun e => { e with st := 3 }

/-- The refused entry of a group that traps next: the first in journal issue order (18 R370), by the clk of issue, and of one
instruction's operations by lane. -/
def State.nextRefusal (s : State) (g : Group) : Option Nat :=
  let due (e : JEntry) : Bool := e.gid == g.gid && e.st.getLsbD 1 && !e.taken && (g.priv == 0 || (g.priv == 1 && e.level == 1))
  let es := (s.core g.core).journal.toList.zipIdx.filterMap fun p => p.1.bind fun e => if due e then some (p.2, e) else none
  let age (e : JEntry) : Nat := (BitVec.ofNat 32 s.clk - e.iclk).toNat
  let place (n : Nat) : Nat := (n + 64 - (s.core g.core).next) % 64
  let rank (p : Nat × JEntry) : Nat := p.2.lane * 64 + place p.1
  let older (p q : Nat × JEntry) : Bool := decide (age q.2 < age p.2) || (age q.2 == age p.2 && decide (rank p < rank q))
  (es.foldl (fun (m : Option (Nat × JEntry)) p =>
    match m with
    | some q => if older p q then some p else some q
    | none => some p) none).map (·.1)

/-- Whether a group stands at a boundary at which a refusal's trap is taken (12 R251; 18 R375). -/
noncomputable def State.atBoundary (s : State) (g : Group) : Bool :=
  match g.run with
  | .ready => !s.midRun g
  | .waiting w _ => s.canWithdraw g w && (w.isBlock || w.isFence || !s.midRun g)
  | _ => false

/-- A refused entry's trap is taken at a boundary, a wait being withdrawn (12 R251; 18 R375, R504). -/
noncomputable def State.refusalTrap (s : State) (gid : Nat) : State :=
  match s.group gid with
  | none => s
  | some g =>
    match s.nextRefusal g with
    | none => s
    | some n =>
      if !s.atBoundary g then s
      else
        let inRun := s.midRun g
        ((s.withdraw gid).mapEntry g.core n fun e => { e with taken := true, st := 2 }).onGroup gid fun s =>
          s.takeTrap (eventTrap 0x18 (BitVec.ofNat 64 n)) inRun

/-! ### Page walks (11 R230, R233) -/

/-- Whether a walk is for a group. -/
def Walk.serves (w : Walk) (g : Group) : Bool := w.quad == quadOf g.core && w.asid == g.sp.asid.toNat

/-- The walks that the 64 walkers of a die work on, in order of arrival; the others wait for a walker (11 R233). -/
def State.walking (s : State) (die : Nat) : List Walk :=
  (s.walks.filter fun w => w.quad / 256 == die && s.all.any w.serves).take 64

/-- The oldest walk under way of a group's quad and address space completes: a translation, or a fault for those that wait for
it. -/
def State.walkCompletes (s : State) (gid : Nat) : State :=
  match s.group gid with
  | none => s
  | some g =>
    match (s.walking (dieOf g.core)).find? fun w => w.serves g with
    | none => s
    | some w =>
      let s1 : State := { s with walks := s.walks.erase w }
      if w.stale then s1
      else
        match s1.fillTlb g.core w.asid w.va with
        | some s2 => s2
        | none =>
          let f (h : Group) : Group :=
            if quadOf h.core = w.quad ∧ h.sp.asid.toNat = w.asid ∧ h.run ≠ .free then { h with walkFault := some (8, BitVec.ofNat 64 w.va) } else h
          { s1 with g := f s1.g, groups := s1.groups.map f }

/-! ### Full/empty queues (11 R241, R242) -/

/-- A waiting full/empty operation past its deadline is dropped, and its lane takes cause 0x14. -/
def State.feDeadline (s : State) (gid : Nat) : State :=
  match s.fes.find? fun w => w.gid == gid && decide (w.deadline < s.clk) with
  | none => s
  | some w => ({ s with fes := s.fes.erase w }).answer gid w.lane w.dst (.fail 0x14 w.va)

/-! ### Lines that engines write (12 R255) -/

/-- Whether an engine's write of a line waits for the SC operations due at its home (12 R249, R257), which wait in their turn for lines
of theirs that engines own (log 79). -/
def State.lineWaits (s : State) (line : Nat) : Bool :=
  s.scDueAt (homeOf (line * 64)) && !s.scDue.any fun o => s.ownedAt o.req.pa o.req.op.size

/-- One owned line of an operation under way is written and released; which is next is open (12 R255, R256). -/
def State.engineLine (s : State) (op line : Nat) : State :=
  if s.lineWaits line then s
  else match s.copies.find? fun o => o.id == op with
  | some o => if o.running && o.refused.isNone && !o.hdst then s.copyLines o (s.ownedLine op line) else s
  | none =>
    match s.arrays.find? fun a => match a.order with | o :: _ => o.id == op && (o.kind == .st || o.kind == .out) | [] => false with
    | some a => if a.testing then s else s.storeTile a.core (some line)
    | none => s.ssLine op line

/-! ### Meanings -/

/-- SC_WINDOW_PERFORM (R257): The SC operations of a Foghorn window are performed at their homes in SC order. -/
def execScWindowPerform (s : State) : Host.Outcome State Fault Refusal := .next s.performSc.tick

/-- SYMBOL_ARRIVAL (R70): A late value arrives and its holders resolve. -/
def execSymbolArrival (gid : Nat) (pool : Nat) (id : Nat) (s : State) : Host.Outcome State Fault Refusal := .next (s.symbolArrival gid pool id).tick

/-- LOCAL_LOAD_COMPLETION (R118): A local load writes its destination at its fixed latency and releases its reserved id. -/
def execLocalLoadCompletion (gid : Nat) (s : State) : Host.Outcome State Fault Refusal := .next (s.pendLands gid false).tick

/-- LONG_INSTRUCTION_COMPLETION (R85): A long instruction writes its result and flags in issue order. -/
def execLongInstructionCompletion (gid : Nat) (s : State) : Host.Outcome State Fault Refusal := .next (s.pendLands gid true).tick

/-- POSTED_ACKNOWLEDGEMENT (R250): A home's acknowledgement frees the posted-store journal entry. -/
def execPostedAcknowledgement (core : Nat) (entry : Nat) (s : State) : Host.Outcome State Fault Refusal := .next (s.acknowledge core entry).tick

/-- REFUSAL_ARRIVAL (R375): A refusal of a posted operation reaches the core and is delivered by the group's state. -/
def execRefusalArrival (core : Nat) (entry : Nat) (s : State) : Host.Outcome State Fault Refusal := .next (s.refusalArrives core entry).tick

/-- REMOTE_REFUSAL_TRAP (R251): A refused posted entry traps asynchronously with cause 0x18 at a boundary. -/
noncomputable def execRemoteRefusalTrap (gid : Nat) (s : State) : Host.Outcome State Fault Refusal := .next (s.refusalTrap gid).tick

/-- PAGE_WALK_COMPLETION (R233): A page walk completes and the waiting access issues with its translation. -/
def execPageWalkCompletion (gid : Nat) (s : State) : Host.Outcome State Fault Refusal := .next (s.walkCompletes gid).tick

/-- FE_QUEUE_PERFORM (R241): After a change of the word the home performs the oldest queued operation that can proceed. -/
def execFeQueuePerform (word : Nat) (s : State) : Host.Outcome State Fault Refusal := .next (s.fePerform word).tick

/-- FE_WAIT_DEADLINE (R242): A queued full/empty operation passes its deadline, is dropped and traps 0x14. -/
def execFeWaitDeadline (gid : Nat) (s : State) : Host.Outcome State Fault Refusal := .next (s.feDeadline gid).tick

/-- ENGINE_LINE_WRITE (R255): An engine writes an owned line, releasing it and any thread access waiting on it. -/
def execEngineLineWrite (op : Nat) (line : Nat) (s : State) : Host.Outcome State Fault Refusal := .next (s.engineLine op line).tick

end Sys2Proof.Machine
end

