-- ==== Sys2Proof/Machine/Messages.lean ====
section
/-! DEFINITION. Messages between cores: `send`, `send.r`, `recv`, `poll`, and their arrival (11 R243 to R245; 13 R276 to R280). -/

namespace Sys2Proof.Machine

/-! ### Sending (11 R243; 13 R276 to R278) -/

/-- The place of a message's destination: a cursor outside the mesh window takes cause 0x09 (13 R277). -/
def meshOnly (g : Group) (va : Nat) (c : Chk) : Chk :=
  let inside := decide (g.sp.mwb.toNat ≤ va ∧ va < g.sp.mwb.toNat + Config.meshSize)
  match c with
  | .ok p => if inside then .ok p else .trap (trap 0x09 (BitVec.ofNat 64 va))
  | .walk _ => .trap (trap 0x09 (BitVec.ofNat 64 va))
  | .trap t =>
    if t.code = 0x03 ∨ t.code = 0x04 ∨ t.code = 0x05 ∨ inside = true then .trap t else .trap (trap 0x09 (BitVec.ofNat 64 va))

/-- The access that a message's address is checked as (13 R277). -/
def sendAsk (s : State) (a : BitVec 6) : Ask :=
  { base := a, idx := fun v => index v, size := 1, align := 1, perms := [.w], need := fun _ => ⟨false, false, false, false, false⟩,
    op := fun _ _ _ => .clean, more := fun va c => meshOnly s.g va c }

/-- The target of `send.r` in x6: register, context or slice, and lane (13 R276). -/
def x6Target (x : Word) : Nat × Nat × Nat := ((x.extractLsb' 0 6).toNat, (x.extractLsb' 8 6).toNat, (x.extractLsb' 16 2).toNat)

/-- Whether `send.r` refuses x6 at issue (13 R276, R278). -/
def x6Bad (x : Word) : Bool :=
  x.extractLsb' 18 46 != 0 || x.extractLsb' 6 2 != 0 || x.extractLsb' 14 2 != 0 || (x.extractLsb' 0 6).toNat == 0 ||
    decide (56 ≤ (x.extractLsb' 0 6).toNat)

/-- `send` and `send.r` (13 R277, R278; 18 R371): each lane's message goes out, and the group waits until every one has
been accepted or spilled, or takes the trap of the lowest that was not. DESIGN CHOICE: R278 checks x6 at issue and does not say
whether before or after the address; it comes first (log 76). -/
noncomputable def sendAct (i : Instr) (a b : BitVec 6) (toReg : Bool) (s : State) : Act :=
  let ls := s.g.todo (s.g.execs (isUniform i))
  let x6 := s.g.xr 6
  let outcome (s : State) : Act :=
    let got := ls.filterMap fun l => (s.g.answers.lookup l.no).map fun x => (l.no, x)
    if got.length < ls.length then .wait s .send
    else
      match firstFail got with
      | none => .done s
      | some (lane, c, t) =>
        let ok := got.filter fun p => p.2.isOk
        .trap s { trap c t with
          performed := if s.g.isG then ok.foldl (fun m p => m ||| BitVec.ofNat 32 (2 ^ p.1)) 0 else 0
          flane := if s.g.isG && !ok.isEmpty then lane else 0 }
  let post (s : State) (c : Acc) : State :=
    let v := match ls.find? fun l => l.no == c.lane with | some l => s.g.read l b | none => Val.zero
    let m : Msg :=
      { data := v.bits, tag := x6.extractLsb' 0 16, src := s.g.srcOf c.lane, sender := s.g.gid, lane := c.lane, srcCrew := s.g.sp.crew,
        dest := s.evqDest s.g, fn := s.fnOf s.g.sp.task, core := coreOfPA c.place.pa, off := c.place.pa % 2 ^ 19,
        addr := BitVec.ofNat 64 c.va, crew := 0, reg := if toReg then some (x6Target x6) else none, x6 := x6, since := s.clk }
    { s with mail := s.mail ++ [m] }
  if s.g.sent then outcome s
  else if toReg && x6Bad x6 then .trap s (trap 0x20 x6)
  else
    let (as, e) := checkLanes ((sendAsk s a).chk s) ls
    match e with
    | some (lane, .trap t) =>
      if as.isEmpty then stopAct s [] lane (.trap t)
      else
        let failed := (ls.filter fun l => decide (lane ≤ l.no)).map fun l => (l.no, Answer.fail t.code t.tval)
        withFollower i s fun s => outcome (as.foldl post { s with g := { s.g with sent := true, answers := failed } })
    | some (lane, c) => stopAct s [] lane c
    | none =>
      withWatch i (watchedAccs false true 1 as) s fun s => outcome (as.foldl post { s with g := { s.g with sent := true, answers := [] } })

/-! ### Arrival (11 R243, R244; 13 R278, R279) -/

/-- The crew whose local allocation on a core contains an offset, live or saved (13 R276; 18 R380). -/
def State.crewAt (s : State) (core off : Nat) : Option Crew :=
  match s.crews.find? fun c => c.core == core && !c.saved && decide (c.lo ≤ off ∧ off < c.lo + c.len) with
  | some c => some c
  | none => ((s.core core).redirects.find? fun r => decide (r.lo ≤ off ∧ off < r.hi)).bind fun r => s.crew r.crew

/-- The group, and the lane, of a crew that a register message names; on an S-core the lane is 0 (13 R278). -/
def State.target (s : State) (crew ctx lane : Nat) : Option (Nat × Nat) :=
  (s.all.filter fun g => g.sp.crew == crew && g.switchStep == 0).findSome? fun g =>
    g.lanes.findSome? fun l =>
      if l.live && (g.sliceOf l.no).any (fun sl => sl.num == ctx) && l.no % 4 == lane then some (g.gid, l.no) else none

/-- A message's symbol data reaches a receive: the value lands in its register and resolves the symbol's holders. -/
def Group.receive (g : Group) (r : Recv) (v : Val) : Group :=
  let g1 := g.give r.syms r.lanes v
  -- the register bound to the receive takes the value at once (03 R73)
  { g1 with lanes := g1.lanes.map fun l =>
      if r.lanes.contains l.no then
        match (l.reg r.dst).record with
        | some x => if x.bound.isSome && (match mapGet (l.no / 4) r.syms with | some id => x.id == id | none => false) then l.setReg r.dst v else l
        | none => l
      else l }

/-- Changes every group of a gang. -/
def State.mapGang (s : State) (gang : Nat) (f : Group → Group) : State :=
  { s with
    g := if s.g.gang = gang then f s.g else s.g
    groups := s.groups.map fun g => if g.gang = gang then f g else g }

/-- A pending receive is complete. -/
def State.receive (s : State) (r : Recv) (v : Val) : State :=
  ({ s with recvs := s.recvs.erase r }).mapGang r.gang fun g => g.receive r v

/-- A message enters a queue: the oldest pending receive of its crew with its tag takes it, else it is queued
(13 R279). -/
def State.enqueue (s : State) (m : Msg) : State :=
  match (if m.reg.isSome then none else s.recvs.find? fun r => r.crew == m.crew && r.tag == m.tag) with
  | some r => s.receive r ⟨m.data, .data⟩
  | none => s.mapCore m.core fun c => { c with queue := c.queue ++ [m] }

/-- A message is written to its crew's spill area; one that finds it full is not sent (11 R243, R244). -/
def State.spillMsg (s : State) (m : Msg) : State :=
  match s.crew m.crew with
  | none => s.answer m.sender m.lane 0 (.fail 0x09 m.addr)
  | some c =>
    if c.spilled.length < c.spillRecords then
      ((s.mapCrew m.crew fun c => { c with spilled := c.spilled ++ [m] }).putRecord m.crew c.spilled.length).answer m.sender m.lane 0
        (.ok Val.zero)
    else s.answer m.sender m.lane 0 (.fail 0x1A m.addr)

/-- A register message for a saved crew is written in its target's slot as DATA; where the slot was BOUND the receive is
complete (18 R380, R387). -/
def State.depositSaved (s : State) (m : Msg) (reg ctx lane : Nat) : State :=
  match s.target m.crew ctx lane with
  | none => s
  | some (gid, no) =>
    match s.group gid with
    | none => s
    | some g =>
      let v : Val := ⟨m.data, .data⟩
      let va := (g.slotVA no reg).getD 0
      let bound := s.readVA g.sp.asid.toNat (va + 24) 8 / 2 ^ 27 % 2 = 1
      let s1 := s.putSlot g.sp.asid.toNat va v
      match s.recvs.find? fun r => r.gang == g.gang && r.dst.toNat == reg && r.lanes.contains no with
      | some r => if bound then ({ s1 with recvs := s1.recvs.erase r }).mapGang g.gang fun g => g.give r.syms r.lanes v else s1
      | none => s1

/-- Whether no route of this package leads a message to its core (22 R427). -/
def Msg.cutOff (m : Msg) (s : State) : Bool := decide (m.src < 2 ^ 32) && s.unreachable (dieOf (m.src / 64)) (dieOf m.core)

/-- A message that is on its way tries to be accepted (11 R243; 13 R276, R278): refused, spilled behind a spilled message
of its pair, or queued; else it stays. `late` spills it after 64 clk of refusal. -/
def State.acceptMsg (s : State) (n : Nat) (late : Bool) : State :=
  match s.mail[n]? with
  | none => s
  | some m =>
    let s1 := { s with mail := s.mail.eraseIdx n }
    -- a pair's messages keep their order, and those of one instruction that of its lanes
    if (s.mail.take n).any fun x => x.core == m.core && (x.src == m.src || (x.sender == m.sender && x.since == m.since)) then s
    else if (s.core m.core).fenced || s.pkg.deadDies.getLsbD (dieOf m.core) || m.cutOff s then s1.answer m.sender m.lane 0 (.fail 0x09 m.addr)
    else
      match s.crewAt m.core m.off with
      | none => s1.answer m.sender m.lane 0 (.fail 0x09 m.addr)
      | some c =>
        let m := { m with crew := c.id }
        let absent := match m.reg with | some (_, ctx, lane) => (s.target c.id ctx lane).isNone | none => false
        if absent then s1.answer m.sender m.lane 0 (.fail 0x20 m.x6)
        else if c.inAreas && m.reg.isSome then
          match m.reg with
          | some (reg, ctx, lane) => (s1.depositSaved m reg ctx lane).answer m.sender m.lane 0 (.ok Val.zero)
          | none => s
        else if c.inAreas || c.spilled.any fun x => x.src == m.src then s1.spillMsg m
        else if (s.core m.core).queue.length < Config.queueSize then (s1.enqueue m).answer m.sender m.lane 0 (.ok Val.zero)
        else if late && decide (m.since + 64 ≤ s.clk) then s1.spillMsg m
        else s

/-- The oldest spilled record of a crew moves back into the queue when it has room (11 R244). -/
def State.moveBack (s : State) (crew : Nat) : State :=
  match s.crew crew with
  | none => s
  | some c =>
    match c.spilled with
    | [] => s
    | m :: t =>
      if c.inAreas || decide (Config.queueSize ≤ (s.core c.core).queue.length) then s
      else
        (s.mapCrew crew fun c => { c with spilled := t, spillHead := (c.spillHead + 1) % c.spillRecords }).enqueue
          { s.headRecord c m with core := c.core }

/-- The record on a deposit that finds its target ended (13 R278). -/
def lostDeposit (m : Msg) : Quad := recordBits 7 3 (m.x6.toNat % 65536) (m.src / 64 % 4) m.addr

/-- A value from outside reaches a register of a lane (03 R73): inside a latch run a register that a member has written keeps
the member's write, and what the run restores if it is discarded has the value either way (04 R88). -/
def Group.depositIn (g : Group) (inRun : Bool) (no : Nat) (c : BitVec 6) (v : Val) : Group :=
  let put (ls : List Lane) : List Lane := ls.map fun l => if l.no = no then l.setReg c v else l
  let kept := inRun && (match g.shadow with | some b => b.wrote.contains (no, c) | none => false)
  { g with lanes := if kept then g.lanes else put g.lanes, shadow := g.shadow.map fun b => { b with lanes := put b.lanes } }

/-- A deposit into a register bound to a stream is an append (11 R238): it is made if the append would not trap, and none gives
the deposit up otherwise, since the network interface has no trap to take (log 77). One that finds no journal entry, or an SC operation before it, stays. -/
noncomputable def State.depositAppend (s : State) (st : Stream) (c : BitVec 6) (no : Nat) (v : Val) : Option (Option State) :=
  let go (s : State) (p : Place) (va : Nat) : Option State :=
    let as : List Acc := [⟨no, p, va, .store st.size v.bits false⟩]
    if s.journalFull as || s.scPending then none else some (s.putAppends c st (fun _ => v) as)
  match s.appendChk c st st.count with
  | (.ok p, va) => some (go s p va)
  | (.trap _, _) => none
  | (.walk a, va) =>
    match s.fillTlb s.g.core s.g.sp.asid.toNat a with
    | none => none
    | some s1 => match (s1.appendChk c st st.count).1 with | .ok p => some (go s1 p va) | _ => none

/-- A `send.r` message at the head of a queue is deposited in its register, or reported (13 R278; 03 R73; 11 R238). -/
noncomputable def State.deposit (s : State) (core : Nat) : State :=
  match (s.core core).queue with
  | [] => s
  | m :: t =>
    match m.reg with
    | none => s
    | some (reg, ctx, lane) =>
      let s1 := s.mapCore core fun c => { c with queue := t }
      let lost := s1.emit (.network core) (if (s.crew m.srcCrew).isSome then m.dest else .host m.fn) (lostDeposit m)
      match s1.target m.crew ctx lane with
      | none => lost
      | some (gid, no) =>
        let v : Val := ⟨m.data, .data⟩
        let c := BitVec.ofNat 6 reg
        let bound := (s1.group gid).bind fun g => s1.recvs.find? fun r => r.gang == g.gang && r.dst == c && r.lanes.contains no &&
          g.lanes.any fun l => l.no == no && (match (l.reg c).record with | some x => x.bound.isSome | none => false)
        match bound with
        | some r => s1.receive r v
        | none =>
          match s1.group gid with
          | none => lost
          | some g =>
            let st := if 48 ≤ reg ∧ reg < 56 then g.streams.toList.getD (reg - 48) none else none
            match st with
            | none => s1.mapGroup gid fun h => h.depositIn (s.midRun g) no c v
            | some st =>
              match ({ s1 with g := g } : State).depositAppend st c no v with
              | none => lost
              | some none => s
              | some (some _) => s1.onGroup gid fun s => ((s.depositAppend st c no v).getD none).getD s

/-! ### Receiving (13 R279, R280) -/

/-- The oldest queued message of a crew with a tag, and the queue without it. -/
def takeMsg (crew : Nat) (tag : BitVec 16) : List Msg → Option (Msg × List Msg)
  | [] => none
  | m :: t =>
    if m.crew = crew ∧ m.tag = tag ∧ m.reg.isNone then some (m, t)
    else (takeMsg crew tag t).map fun p => (p.1, m :: p.2)

/-- The lanes' receives in ascending order: the queue left, the values of those that found a message, and the tags of
the others. -/
def takeAll (crew : Nat) (tag : Lane → BitVec 16) : List Lane → List Msg → List Msg × List (Nat × Val) × List (Nat × BitVec 16)
  | [], q => (q, [], [])
  | l :: t, q =>
    match takeMsg crew (tag l) q with
    | some (m, q1) => let (q2, vs, ps) := takeAll crew tag t q1; (q2, (l.no, ⟨m.data, .data⟩) :: vs, ps)
    | none => let (q2, vs, ps) := takeAll crew tag t q; (q2, vs, (l.no, tag l) :: ps)

/-- A register bound to a pending receive (03 R61). -/
def boundSym (id : BitVec 6) (tag : BitVec 16) : Val := symVal ⟨id, some tag, .pure⟩

/-- `recv` (13 R279). A receive for an append stream waits until its messages are queued. DESIGN CHOICE: the spec
does not say whether a receive into k0 makes a symbol and a pending receive; it makes both (log 90). -/
noncomputable def recvAct (i : Instr) (a d : BitVec 6) (s : State) : Act :=
  let u := isUniform i
  let ls := s.g.execs u
  let tag (l : Lane) : BitVec 16 := (s.g.read l a).bits.extractLsb' 0 16
  let (q, vals, pending) := takeAll s.g.sp.crew tag ls (s.core s.g.core).queue
  let taken (s : State) : State := s.mapCore s.g.core fun c => { c with queue := q }
  if (s.g.stream d).isSome then
    if pending.isEmpty then putReg i d (s.g.spread u vals) s fun s => .done (taken s)
    else .wait s .recv
  else
    let lanesOf (n : Nat) : List Nat := if u then s.g.acts.map (·.no) else [n]
    let waiting := pending.flatMap fun p => lanesOf p.1
    match s.freshIds (slicesOf waiting) with
    | none => .wait s .symPool
    | some ids =>
      withFollower i s fun s =>
        let s1 := taken s
        let syms := ids.map fun p =>
          (⟨p.1, p.2, waiting.filter fun n => n / 4 == p.1, [], (pending.head?.map (·.2)), s.clk, false⟩ : Sym)
        let recvs := pending.map fun p =>
          (⟨s.g.gang, s.g.sp.crew, s.g.srcOf p.1 % 64, p.1, p.2, d, lanesOf p.1, ids.filter fun q => u || q.1 == p.1 / 4, s.clk⟩ : Recv)
        let bound := pending.flatMap fun p => (lanesOf p.1).map fun n =>
          (n, match mapGet (n / 4) ids with | some id => boundSym id p.2 | none => Val.zero)
        let g := { s1.g with syms := s1.g.syms ++ syms }
        .done { s1 with g := g.write d (s.g.spread (u && pending.isEmpty) vals ++ bound), recvs := s1.recvs ++ recvs }

/-- `poll` of one lane (13 R280): the queued messages of the crew with a tag. -/
def pollCount (s : State) (v : Val) : Val :=
  dataNat ((s.core s.g.core).queue.filter fun m => m.crew == s.g.sp.crew && m.tag == v.bits.extractLsb' 0 16 && m.reg.isNone).length


/-- SEND (R277): Sends a tagged 128-bit message to a crew and waits for acceptance or spill. -/
noncomputable def execSend (b : BitVec 6) (a : BitVec 6) (u : Bool) (s : State) : Host.Outcome State Fault Refusal :=
  issue (.send b a u) strict (fun _ => none) (sendAct (.send b a u) a b false) s

/-- SEND_R (R278): Sends a message to be deposited into a named register of the destination. -/
noncomputable def execSendR (b : BitVec 6) (a : BitVec 6) (u : Bool) (s : State) : Host.Outcome State Fault Refusal :=
  issue (.sendR b a u) strict (fun _ => none) (sendAct (.sendR b a u) a b true) s

/-- RECV (R279): Takes a matching queued message or binds d to a pending receive. -/
noncomputable def execRecv (a : BitVec 6) (d : BitVec 6) (u : Bool) (s : State) : Host.Outcome State Fault Refusal :=
  issue (.recv a d u) strict (fun _ => none) (recvAct (.recv a d u) a d) s

/-- POLL (R280): Counts queued messages with a tag. -/
noncomputable def execPoll (a : BitVec 6) (d : BitVec 6) (u : Bool) (s : State) : Host.Outcome State Fault Refusal :=
  issue (.poll a d u) strict (fun _ => none) (fun s => laneAct (.poll a d u) (fun g l => some (pollCount s (g.read l a), Flags.zero)) s) s

/-- MESSAGE_ARRIVAL (R279): A message reaches the receive queue and matches the oldest pending recv or is queued. -/
noncomputable def execMessageArrival (idx : Nat) (s : State) : Host.Outcome State Fault Refusal :=
  .next (s.acceptMsg idx false).tick

/-- MESSAGE_SPILL (R243): A message refused for 64 clk is written to the spill area. -/
noncomputable def execMessageSpill (idx : Nat) (s : State) : Host.Outcome State Fault Refusal :=
  .next (s.acceptMsg idx true).tick

/-- SPILL_MOVE_BACK (R244): When the queue has room the oldest spilled record moves back into it. -/
noncomputable def execSpillMoveBack (crew : Nat) (s : State) : Host.Outcome State Fault Refusal :=
  .next (s.moveBack crew).tick

/-- MESSAGE_DEPOSIT (R278): A send.r message at the queue head is deposited into its target register at the start of a clk. -/
noncomputable def execMessageDeposit (core : Nat) (s : State) : Host.Outcome State Fault Refusal :=
  .next (s.deposit core).tick

end Sys2Proof.Machine
end

