-- ==== Sys2Proof/Machine/System.lean ====
section
/-! DEFINITION. The system and debug instructions (19): traps and returns, special registers, the reach of a handler over its crew,
translation invalidation, breakpoints and halt. -/

namespace Sys2Proof.Machine

/-! ### Special registers (19 R394, R395) -/

/-- An access to a number of 36 to 63, or below its level (01 R25; 19 R394, R395). -/
def srTrap (i : Instr) (n need : Nat) (s : State) : Option Trap :=
  if 36 ≤ n then some (trapEnc i.word (s.g.encDist (readsLatch i)))
  else if srAccess n s.g.priv < need then some (trap 0x38 (BitVec.ofNat 64 n))
  else none

/-- `sr.rd` (19 R394): every active lane reads its own slice's register; sr.fmode waits (02 R43). -/
noncomputable def srRdAct (i : Instr) (n : Nat) (s : State) : Act :=
  match (if n = 6 then s.g.fpBusy else none) with
  | some w => .wait s w
  | none => deliver i (s.g.acts.map fun l => (l.no, s.special s.g l.no n)) [] s

/-- The lanes whose values a write takes: each slice's lowest active lane for a register held per slice, else the
group's (02 R50; 16 R324; log 15). -/
def Group.writers (g : Group) (perSlice : Bool) : List Lane :=
  if perSlice then g.slices.filterMap fun sl => g.acts.find? fun l => l.no / 4 == sl.idx else g.acts.take 1

/-- Writes a special register from each of the given lanes. -/
def State.setSpecials (s : State) (gid n : Nat) : List (Nat × Val) → State
  | [] => s
  | (lane, v) :: t => (s.setSpecial gid lane n v).setSpecials gid n t

/-- `sr.wr` (19 R395): every check, the follower, then the write. -/
noncomputable def srWrAct (i : Instr) (n : Nat) (a : BitVec 6) (s : State) : Act :=
  match (if n = 6 then s.g.fpBusy else none) with
  | some w => .wait s w
  | none =>
    let vals := (s.g.writers (srPerSlice n)).map fun l => (l.no, s.g.read l a)
    match vals.findSome? fun p => s.srCheck (statusPriv s.g.sp.status) s.g n p.2 a (encTval i.word (s.g.encDist (readsLatch i))) with
    | some t => .trap s t
    | none => withFollower i s fun s => .done (s.setSpecials s.g.gid n vals)

/-! ### Trap, return, halt (19 R392, R393, R409) -/

/-- `rett` (01 R33; 18 R368; 19 R393): the refused entries whose trap returns are freed (18 R374). -/
def rettAct (s : State) : Act :=
  if s.g.switchStep ≠ 0 then .trap s (trap 0x38 0)
  else if s.g.sp.epc.tag ≠ .cap ∨ capHas s.g.sp.epc.bits .x = false then .trap s (trap 0x03 3)
  else
    let free (e : Option JEntry) : Option JEntry :=
      match e with | some e => if e.gid = s.g.gid ∧ e.taken = true then none else some e | none => none
    let s1 := s.mapCore s.g.core fun c => { c with journal := c.journal.map free }
    .over { s1 with g := { s1.g.returned with run := .ready, lastIssue := s.clk, lastPc := s.g.pc, walkFault := none, sent := false, answers := [] } }

/-- The end of the issuing group's active lanes as a `ret` to an exit capability gives (05 R122). -/
def endAct (s : State) : Act :=
  let ns := s.g.acts.map (·.no)
  if !s.settled ns then .wait s .fence
  else
    let s1 := s.endLanes ns []
    if s1.g.gid ≠ s.g.gid then .over s1 else .jump s1 s1.g.pc

/-- `halt` (19 R409): the resident context goes on when it is handed the next system event. -/
noncomputable def haltAct (i : Instr) (s : State) : Act :=
  if s.g.sent then (if s.g.answers.isEmpty then .wait s .systemEvent else .done s)
  else withFollower i s fun s =>
    if s.g.switchStep ≠ 0 then .over s.endStep
    else if s.g.priv = 2 then .wait { s with g := { s.g with sent := true, answers := [] } } .systemEvent
    else endAct s

/-! ### Reach over the crew (19 R396 to R400) -/

/-- A selector's fields. -/
structure Selector where
  word : Word
  part : Bool
  index : Nat
  space : Nat
  member : Nat
  lane : Nat
  deriving DecidableEq, Repr

/-- The fields of a selector (19 R396). -/
def selector (w : Word) : Selector :=
  { word := w, part := w.getLsbD 26, index := (w.extractLsb' 20 6).toNat, space := (w.extractLsb' 16 3).toNat,
    member := (w.extractLsb' 5 6).toNat, lane := (w.extractLsb' 0 5).toNat }

/-- The first check of a selector: reserved bits, limits, and the lane (19 R396). -/
def Selector.bad (q : Selector) (isG : Bool) : Bool :=
  let limit := if q.space ≤ 1 then 55 else if q.space = 2 then 35 else if q.space ≤ 4 then 7 else if q.space = 5 then 63 else 0
  q.word.extractLsb' 27 37 != 0 || q.word.getLsbD 19 || q.word.extractLsb' 11 5 != 0 || (q.part && q.space != 5) ||
    q.space == 7 || decide (limit < q.index) || decide ((if isG then 3 else 0) < q.lane)

/-- The group and gang lane a selector names, or its trap (19 R396): a member of a saved crew is known until another takes its place. -/
def State.select (s : State) (q : Selector) : Trap ⊕ (Group × Nat) :=
  let bad := trap 0x20 q.word
  if q.bad s.g.isG then .inl bad
  else
    let found : Option (Group × Slice) :=
      if q.member = 63 then s.g.slices.head?.map fun sl => (s.g, sl)
      else
        let there := s.all.filter fun g => g.core == s.g.core && g.isG == s.g.isG
        (there.filter (fun g => !g.inArea) ++ there.filter (·.inArea)).findSome? fun g =>
          (g.slices.find? fun sl => sl.num == q.member).map fun sl => (g, sl)
    match found with
    | none => .inl bad
    | some (g, sl) =>
      if s.g.priv ≠ 2 ∧ g.sp.crew ≠ s.g.sp.crew then .inl (trap 0x38 q.word)
      else if g.inArea then .inl bad
      else if g.lanes.any fun l => l.no == sl.idx * 4 + q.lane then .inr (g, sl.idx * 4 + q.lane)
      else .inl bad

/-- The program's register of a lane, whatever the level (19 R397). -/
def Group.program (g : Group) (lane n : Nat) : Val :=
  match g.lanes.find? fun l => l.no == lane with
  | some l => l.reg (BitVec.ofNat 6 n)
  | none => Val.zero

/-- What `crew.peek` reads of a target (19 R397). -/
def State.peek (s : State) (q : Selector) (g : Group) (lane : Nat) : Val :=
  match q.space with
  | 0 =>
    let v := g.program lane q.index
    if v.tag = .cap then v else ⟨v.slot.1, .data⟩
  | 1 =>
    let (_, aux, info) := (g.program lane q.index).slot
    ⟨(aux ++ info : BitVec 128), .data⟩
  | 2 => s.special g lane q.index
  | 3 => dataWord (g.xr q.index)
  | 4 => dataNat (g.m.toList.getD q.index 0).toNat
  | 5 =>
    match (s.core s.g.core).journal.toList.getD q.index none with
    | some e =>
      if e.crew = g.sp.crew then ⟨if q.part then e.bits.extractLsb' 128 128 else e.bits.extractLsb' 0 128, .data⟩ else Val.zero
    | none => Val.zero
  | _ => dataNat (s.runCode g + s.reason g * 256)

/-- `crew.peek` (19 R397): an ABSENT register of the target is fetched first. -/
noncomputable def peekAct (i : Instr) (a : BitVec 6) (s : State) : Act :=
  match s.g.acts with
  | [] => .done s
  | l :: _ =>
    let q := selector (s.g.read l a).word
    match s.select q with
    | .inl t => .trap s t
    | .inr (g, lane) =>
      if q.space ≤ 1 ∧ (g.program lane q.index).tag = .absent then
        .wait { s with misses := if s.misses.contains (g.gid, lane, q.index) then s.misses else s.misses ++ [(g.gid, lane, q.index)] } .miss
      else deliver i (s.g.acts.map fun l => (l.no, s.peek q g lane)) [] s

/-- A register loses its binding to a pending receive: the lane leaves the receive and its symbol (19 R398). -/
def State.unbind (s : State) (gang lane n : Nat) : State :=
  let hit (r : Recv) : Bool := r.gang == gang && r.dst.toNat == n && r.lanes.contains lane
  let ids := (s.recvs.filter hit).flatMap fun r => r.syms.filter fun p => p.1 == lane / 4
  let s1 : State := { s with
    recvs := (s.recvs.map fun r => if hit r then { r with lanes := r.lanes.filter (· != lane) } else r).filter fun r => !r.lanes.isEmpty }
  s1.mapGang gang fun g =>
    { g with
      syms := (g.syms.map fun y =>
        if ids.any fun p => p.1 == y.slice && p.2 == y.id then { y with want := y.want.filter (· != lane) } else y).filter fun y => !y.want.isEmpty }

/-- What `crew.poke` writes (19 R398). -/
def State.pokeReg (s : State) (q : Selector) (g : Group) (lane : Nat) (v : Val) : State :=
  match q.space with
  | 0 =>
    let s1 := match (g.program lane q.index).record with | some r => if r.bound.isSome then s.unbind g.gang lane q.index else s | none => s
    s1.mapGroup g.gid fun g => g.mapLane lane fun l => l.setReg (BitVec.ofNat 6 q.index) v
  | 2 => s.setSpecial g.gid lane q.index v
  | 3 => s.mapGang g.gang fun g => { g with x := g.x.setIfInBounds q.index v.word }
  | 4 => s.mapGang g.gang fun g => { g with m := g.m.setIfInBounds q.index (v.bits.extractLsb' 0 32) }
  | _ => s.mapCore s.g.core fun c => { c with journal := c.journal.setIfInBounds q.index none }

/-- Whether `crew.poke` may write a group: it is stopped, or the issuing group itself at level T (19 R398). -/
def State.pokes (s : State) (g : Group) : Bool := g.isStopped || (g.gid == s.g.gid && s.g.priv == 1)

/-- Why `crew.poke` refuses a write (19 R398): of a special register as `sr.wr` by the target at the issuer's level would be. -/
def State.pokeTrap (s : State) (i : Instr) (q : Selector) (g : Group) (v : Val) (b : BitVec 6) : Option Trap :=
  let bad := trap 0x20 q.word
  match q.space with
  | 0 => none
  | 2 =>
    if srAccess q.index s.g.priv < 2 then some (trap 0x38 (BitVec.ofNat 64 q.index))
    else s.srCheck (statusPriv s.g.sp.status) g q.index v b (encTval i.word (s.g.encDist (readsLatch i)))
  | 3 => none
  | 4 => none
  | 5 =>
    match (s.core s.g.core).journal.toList.getD q.index none with
    | some e => if v.bits = 0 ∧ e.crew = g.sp.crew ∧ e.st.getLsbD 1 = true then none else some bad
    | none => some bad
  | _ => some bad

/-- `crew.poke`; a write of sr.fmode waits as `sr.wr` by the target does (02 R43). -/
noncomputable def pokeAct (i : Instr) (a b : BitVec 6) (s : State) : Act :=
  match s.g.acts with
  | [] => .done s
  | l :: _ =>
    let q := selector (s.g.read l a).word
    let v := s.g.read l b
    match s.select q with
    | .inl t => .trap s t
    | .inr (g, lane) =>
      if !s.pokes g then .trap s (trap 0x20 q.word)
      else match (if q.space = 2 ∧ q.index = 6 then g.fpBusy else none) with
        | some w => .wait s w
        | none =>
          match s.pokeTrap i q g v b with
          | some t => .trap s t
          | none => withFollower i s fun s => .done (s.pokeReg q g lane v)

/-- `crew.resume` (19 R399): RESUME, STOP or STEP. -/
noncomputable def resumeAct (i : Instr) (a b : BitVec 6) (s : State) : Act :=
  match s.g.acts with
  | [] => .done s
  | l :: _ =>
    let q := selector (s.g.read l a).word
    let mode := (s.g.read l b).word
    match s.select q with
    | .inl t => .trap s t
    | .inr (g, _) =>
      if 2 < mode.toNat then .trap s (trap 0x20 mode)
      else if mode = 1 ∧ q.member = 63 then .trap s (trap 0x20 q.word)
      else
        withFollower i s fun s =>
          .done (s.mapGroup g.gid fun g =>
            if mode = 1 then (if g.isStopped then g else { g with stopReq := 1 }) else g.resume (mode == 2))

/-- `crew.kill` (19 R400): the issuer ends with its crew. -/
noncomputable def killAct (i : Instr) (a : BitVec 6) (s : State) : Act :=
  match s.g.acts with
  | [] => .done s
  | l :: _ =>
    let n := ((s.g.read l a).word.extractLsb' 0 32).toNat
    let id := if n = 0 then s.g.sp.crew else n
    if s.g.priv = 1 ∧ id ≠ s.g.sp.crew then .trap s (trap 0x38 (BitVec.ofNat 64 n))
    else if !(s.crews.any fun c => c.id == id && c.core == s.g.core && !c.saved) then .trap s (trap 0x20 (BitVec.ofNat 64 n))
    else
      withFollower i s fun s =>
        let cause := s.g.sp.cause.toNat % 256
        let s1 := s.killCrew id 0x0C cause cause s.g.core
        if s1.g.gid = s.g.gid then .done s1 else .over s1

/-! ### Translation invalidation (19 R401) -/

/-- Whether a quad lies within reach of a core: its own, those of its die, or every one. -/
def tlbReach (reach core quad : Nat) : Bool :=
  if reach = 0 then quad == quadOf core else if reach = 1 then quad / 256 == dieOf core else true

/-- Whether a TLB entry lies within reach of a core: of REACH 0 its own L1 entries, and those of its quad's TLB, from which its next
translation would come (log 73). -/
def TlbEntry.reached (e : TlbEntry) (reach core : Nat) : Bool :=
  tlbReach reach core e.quad && (match e.core with | some k => decide (reach ≠ 0) || k == core | none => true)

/-- Whether an invalidation covers an entry. -/
def TlbEntry.hit (e : TlbEntry) (kind asid va : Nat) : Bool :=
  match kind with
  | 0 => decide (va / 2 ^ pageShift e.level = e.vpage) && (match e.asid with | some a => a == asid | none => true)
  | 1 => e.asid == some asid
  | _ => true

/-- Whether an invalidation covers a table pointer of a walk cache: one that a walk for the address passes, one of the ASID, or any. -/
def PtrEntry.hit (e : PtrEntry) (kind asid va : Nat) : Bool :=
  match kind with
  | 0 => e.asid == asid && decide (va / 2 ^ (56 - 10 * e.level) = e.vpage)
  | 1 => e.asid == asid
  | _ => true

/-- The entries of the L1 TLBs, the quad TLBs and the walk caches within reach are gone, and the walks under way there are discarded
when they complete (19 R401). -/
def State.invalidate (s : State) (reach core kind asid va : Nat) : State :=
  { s with
    tlb := s.tlb.filter fun e => !(e.reached reach core && e.hit kind asid va)
    pointers := s.pointers.filter fun e => !((reach == 2 || e.die == dieOf core) && e.hit kind asid va)
    walks := s.walks.map fun w => if tlbReach reach core w.quad then { w with stale := true } else w }

/-- `tlb.inval`: a fence of scope package, then the entries within reach are gone, and the walks under way there are
discarded when they complete. -/
noncomputable def tlbAct (i : Instr) (a b : BitVec 6) (s : State) : Act :=
  match s.g.acts with
  | [] => .done s
  | l :: _ =>
    let va := ((s.g.read l a).bits.extractLsb' 0 56).toNat
    let c := (s.g.read l b).word
    let kind := (c.extractLsb' 0 2).toNat
    let reach := (c.extractLsb' 2 2).toNat
    let asid := (c.extractLsb' 16 16).toNat
    if kind = 3 ∨ reach = 3 ∨ c.extractLsb' 32 32 ≠ 0 ∨ c.extractLsb' 4 12 ≠ 0 then .trap s (trap 0x20 c)
    else
      withFollower i s fun s => withFence false s fun s =>
        .done (s.invalidate reach s.g.core kind asid va)


/-- TRAP (R392): Takes a software trap with a 12-bit code. -/
noncomputable def execTrap (lo : BitVec 6) (hi : BitVec 6) (s : State) : Host.Outcome State Fault Refusal :=
  issue (.trap lo hi) strict (fun _ => none) (fun s => withFollower (.trap lo hi) s fun s =>
    .trap s { trap 0x32 (hi ++ lo : BitVec 12).toNat with epc := some (s.g.pc + 4) }) s

/-- RETT (R368): Returns from a trap, restoring privilege and handling DONE and held refusals. -/
noncomputable def execRett (s : State) : Host.Outcome State Fault Refusal :=
  issue .rett strict (fun _ => none) rettAct s

/-- SR_RD (R394): Reads a special register. -/
noncomputable def execSrRd (sc : BitVec 6) (d : BitVec 6) (s : State) : Host.Outcome State Fault Refusal :=
  issue (.srRd sc d) strict (srTrap (.srRd sc d) sc.toNat 1) (srRdAct (.srRd sc d) sc.toNat) s

/-- SR_WR (R395): Writes a special register under its own rule. -/
noncomputable def execSrWr (sc : BitVec 6) (a : BitVec 6) (s : State) : Host.Outcome State Fault Refusal :=
  issue (.srWr sc a) (if srPerSlice sc.toNat then strict else elected) (srTrap (.srWr sc a) sc.toNat 2) (srWrAct (.srWr sc a) sc.toNat a) s

/-- CREW_PEEK (R397): Reads state of a crew member by selector. -/
noncomputable def execCrewPeek (a : BitVec 6) (d : BitVec 6) (s : State) : Host.Outcome State Fault Refusal :=
  issue (.crewPeek a d) elected (fun _ => none) (peekAct (.crewPeek a d) a) s

/-- CREW_POKE (R398): Writes state of a stopped crew member. -/
noncomputable def execCrewPoke (b : BitVec 6) (a : BitVec 6) (s : State) : Host.Outcome State Fault Refusal :=
  issue (.crewPoke b a) elected (fun _ => none) (pokeAct (.crewPoke b a) a b) s

/-- CREW_RESUME (R399): Resumes, stops or steps a crew member. -/
noncomputable def execCrewResume (b : BitVec 6) (a : BitVec 6) (s : State) : Host.Outcome State Fault Refusal :=
  issue (.crewResume b a) elected (fun _ => none) (resumeAct (.crewResume b a) a b) s

/-- CREW_KILL (R400): Kills a crew. -/
noncomputable def execCrewKill (a : BitVec 6) (s : State) : Host.Outcome State Fault Refusal :=
  issue (.crewKill a) elected (fun _ => none) (killAct (.crewKill a) a) s

/-- TLB_INVAL (R401): Fences and removes matching translations within reach. -/
noncomputable def execTlbInval (b : BitVec 6) (a : BitVec 6) (s : State) : Host.Outcome State Fault Refusal :=
  issue (.tlbInval b a) elected (fun _ => none) (tlbAct (.tlbInval b a) a b) s

/-- BRK (R402): Takes a debug trap with SRC 1. -/
noncomputable def execBrk (s : State) : Host.Outcome State Fault Refusal :=
  issue .brk strict (fun _ => none) (fun s => withFollower .brk s fun s =>
    .trap s (trap 0x31 (debugTval s.g.pc.toNat 0 1))) s

/-- HALT (R409): Ends a switch step, ends the group at T, or sleeps the resident context at S. -/
noncomputable def execHalt (s : State) : Host.Outcome State Fault Refusal :=
  issue .halt strict (fun _ => none) (haltAct .halt) s

end Sys2Proof.Machine
end

