-- ==== Sys2Proof/Machine/Async.lean ====
section
/-! DEFINITION. Events that reach groups from outside their own instructions: waits that end (09 R210), the watchdog (07 R167;
18 R377), path switches and instruction-cache lines (07 R163), samples (19 R407), reserved encodings (04 R94), system events and
pre-emptions (01 R34; 18 R367, R378 to R386). -/

namespace Sys2Proof.Machine

/-! ### Waits that end (09 R210) -/

/-- A group goes on to issue the instruction it waits at. -/
def Group.wake (g : Group) : Group := match g.run with | .waiting _ _ => { g with run := .ready } | _ => g

/-- A write to the armed range wakes the group. -/
def State.waitWakes (s : State) (gid : Nat) : State :=
  if s.armed.any fun w => w.gid == gid && w.hit then s.mapGroup gid Group.wake else s

/-- The time limit of a `wait` passes. -/
def State.waitEnds (s : State) (gid : Nat) : State :=
  if s.armed.any fun w => w.gid == gid && !w.hit && decide (w.deadline ≤ s.clk) then s.mapGroup gid Group.wake else s

/-! ### The watchdog (07 R167; 18 R377; 22 R441) -/

/-- Whether some slice's 16 live symbols are all pending receives (03 R72). -/
def Group.allReceives (g : Group) : Bool :=
  g.slices.any fun sl =>
    let ys := g.syms.filter fun y => y.slice == sl.idx
    decide (16 ≤ ys.length) && ys.all fun y => y.mtag.isSome

/-- The wait kind that a group counts with for the watchdog, if any: its wait, or a pre-emption that it holds back at level T. A
read blocked on a BOUND register, and a stall that only messages can end, count as kind 4 (03 R72; 13 R279). -/
noncomputable def State.watchKind (s : State) (g : Group) : Option Nat :=
  let held := g.priv == 1 && !statusIE g.sp.status && (match s.crew g.sp.crew with | some c => c.preempt | none => false)
  if g.switchStep ≠ 0 then some 7
  else if held then some 7
  else
    match g.run with
    | .waiting w _ =>
      let k := waitKind (some w)
      if (1 ≤ k ∧ k ≤ 6) ∨ k = 12 then some k
      else if w == .symbol && s.readsBound g then some 4
      else if w == .symPool && g.allReceives then some 4
      else none
    | _ => none

/-- When a group began to wait. -/
def Group.waitingSince (g : Group) : Nat := match g.run with | .waiting _ c => c | _ => g.lastIssue

/-- The member that has waited longest; of several the one with the lowest context or slice number. -/
noncomputable def State.longestWaiting (s : State) (crew : Nat) : Option (Group × Nat) :=
  let ws := (s.all.filter fun g => g.sp.crew == crew).filterMap fun g => (s.watchKind g).map fun k => (g, k)
  let first (a b : Group × Nat) : Bool :=
    decide (a.1.waitingSince < b.1.waitingSince) || (a.1.waitingSince == b.1.waitingSince && decide (a.1.first ≤ b.1.first))
  ws.foldl (fun (m : Option (Group × Nat)) p => match m with | some q => if first q p then some q else some p | none => some p) none

/-- The watchdog of a crew has fallen to 0: the longest-waiting member takes cause 0x30 at its waiting instruction. -/
noncomputable def State.watchdog (s : State) (crew : Nat) : State :=
  match s.crew crew with
  | none => s
  | some c =>
    if c.wdog ≠ 0 ∨ c.reload = 0 then s
    else
      match s.longestWaiting crew with
      | none => s
      | some (g, k) =>
        let inRun := s.midRun g
        (s.withdraw g.gid).onGroup g.gid fun s => s.takeTrap (eventTrap 0x30 (BitVec.ofNat 64 k)) inRun

/-- Whether a group of a task on a die serves cause 0x1C at level T: the watchdogs of the task's crews there do not fall (14
R301). -/
def State.servesFault (s : State) (task die : Nat) : Bool :=
  s.all.any fun g => g.sp.task == task && dieOf g.core == die && g.priv == 1 && g.sp.cause == 0x1C

/-- A crew's watchdog in one clk: it falls while a member waits, and is reloaded otherwise; a reader in that clk sees the count
before. -/
noncomputable def State.countWdog (s : State) (c : Crew) : Crew :=
  if c.saved then c
  else if s.all.any fun g => g.sp.crew == c.id && (s.watchKind g).isSome then
    { c with seen := c.wdog, wdog := if s.servesFault c.task (dieOf c.core) then c.wdog else c.wdog - 1 }
  else { c with seen := c.wdog, wdog := c.reload }

/-- The watchdogs of one clk. -/
noncomputable def State.countdown (s : State) : State := { s with crews := s.crews.map s.countWdog }

/-! ### Path switches (07 R163) -/

/-- The next instruction of a group misses in the instruction cache: with a waiting path innermost in each slice the group goes
on with that path, and otherwise waits for the line. -/
noncomputable def State.pathSwitch (s : State) (gid : Nat) : State :=
  match s.group gid with
  | none => s
  | some g =>
    if g.run ≠ .ready then s
    else
      let tops := g.slices.map Slice.pending
      let pending := g.slices.length ≠ 0 ∧ tops.all (fun e => match e, tops.head?.bind id with
        | some e, some t => e.pc == t.pc && e.code == t.code
        | _, _ => false) = true
      let on (l : Lane) : Bool := l.live && (match (g.sliceOf l.no).bind (·.stack.head?) with | some x => x.lmask.getLsbD (l.no % 4) | none => false)
      match tops.head?.bind id with
      | some e =>
        if pending ∧ s.midRun g = false ∧ g.lanes.any on = true then
          let acts := g.acts.map (·.no)
          let sw (sl : Slice) : Slice :=
            { sl with
              stack := ⟨false, g.pc, g.codeCap, lmaskOf sl.idx acts, sl.fmt.extractLsb' 0 6, sl.token⟩ :: sl.stack.tail
              fmt := (sl.fmt &&& ~~~(63#64)) ||| ((sl.stack.head?.map fun (x : StackEntry) => x.fmt).getD 0).setWidth 64 }
          let slices := g.slices.map sw
          let mem := slices.foldl (fun m sl => spillWrites g.core sl.spillAt (sl.stack.length - 1) (sl.stack.take 1) m) s.mem
          let s1 : State := { s with mem := mem }
          s1.mapGroup gid fun g =>
            let h := g.endRun
            { h with
              lanes := h.lanes.map fun (l : Lane) => { l with active := on l }
              slices := slices
              pc := e.pc
              codeCap := e.code }
        else s.mapGroup gid fun g => { g with run := .waiting .icache s.clk }
      | none => s.mapGroup gid fun g => { g with run := .waiting .icache s.clk }

/-- The line missed arrives. -/
def State.lineArrives (s : State) (gid : Nat) : State :=
  s.mapGroup gid fun g => match g.run with | .waiting .icache _ => { g with run := .ready } | _ => g

/-! ### Samples (19 R406 to R408) -/

/-- A sample of a member (19 R407), with the pc of the instruction issued or of the next one. -/
def State.sampleBits (s : State) (g : Group) (sl : Slice) : Quad :=
  ((if s.reason g = 0 then g.lastPc else g.pc).extractLsb' 0 56 ++ BitVec.ofNat 8 (s.reason g) ++ BitVec.ofNat 32 s.clk ++ BitVec.ofNat 13 g.core ++ BitVec.ofNat 6 sl.num ++ 0#9 ++ 1#4 : BitVec 128)

/-- PERIOD of an enabled `sr.psamp`. -/
def Slice.period (sl : Slice) : Option Nat := if sl.psamp.getLsbD 63 then some (sl.psamp.extractLsb' 0 32).toNat else none

/-- Whether a member's sample is due. -/
def Slice.sampleDue (sl : Slice) (clk : Nat) : Bool := match sl.period with | some p => decide (sl.sampled + p ≤ clk) | none => false

/-- The samples of a group's members that are due are emitted. -/
def State.sample (s : State) (gid : Nat) : State :=
  match s.group gid with
  | none => s
  | some g =>
    let due := g.slices.filter fun sl => sl.sampleDue s.clk
    let s1 := due.foldl (fun s sl => if sl.psamp.getLsbD 62 && s.reason g == 0 then s else s.lampPut (dieOf g.core) 1 (s.sampleBits g sl)) s
    let next (sl : Slice) : Slice := if sl.sampleDue s.clk then { sl with sampled := sl.sampled + sl.period.getD 0 } else sl
    s1.mapGroup gid fun g => { g with slices := g.slices.map next }

/-! ### System events and pre-emption (01 R34; 18 R367, R378 to R386) -/

/-- A pre-emption of a crew is asked for. -/
def State.preempt (s : State) (crew : Nat) : State :=
  s.mapCrew crew fun c => if c.inAreas then c else { c with preempt := true, since := s.clk }

/-- The resident context of a core that sleeps is handed the system event (19 R409). -/
def State.rouse (s : State) (core : Nat) : State :=
  let f (g : Group) : Group :=
    match g.run with
    | .waiting .systemEvent _ => if g.core = core ∧ g.priv = 2 then { g with answers := [(g.lead, .ok Val.zero)] } else g
    | _ => g
  { s with g := f s.g, groups := s.groups.map f }

/-- The resident handler takes an event of a group: it kills the crew of a trap at level T (18 R367); a group asked to stop
stops at a boundary (18 R378; 19 R399). It reports a machine check, a trap at level S among them, to the host: vector 3 of
function 0 (18 R367; 26 R478). Another event of no group goes to the firmware. -/
noncomputable def State.asyncEntry (s : State) (gid : Nat) : State :=
  match s.sys.find? fun e => e.gid == gid with
  | some e =>
    let s1 := ({ s with sys := s.sys.erase e } : State).rouse e.core
    match s1.crew e.crew with
    | some c => s1.killCrew e.crew 0x0A e.code e.code c.core
    | none => if e.code = 0x3F then s1.mapFn 0 fun f => { f with vectors := f.vectors ||| 8 } else s1
  | none =>
    match s.group gid with
    | some g => if s.stopAsked g then s.stopGroup gid else s
    | none => s

/-! ### Meanings -/

/-- ASYNC_EVENT_ENTRY (R34): A pending pre-emption or system event is taken at a boundary with IE = 1 by the resident handler. -/
noncomputable def execAsyncEventEntry (gid : Nat) (s : State) : Host.Outcome State Fault Refusal := .next (s.asyncEntry gid).tick

/-- REGISTER_MISS_SLOT_ARRIVAL (R386): The saved slot line arrives and the register takes its value, tag or poison. -/
def execRegisterMissSlotArrival (gid : Nat) (lane : Nat) (reg : Nat) (s : State) : Host.Outcome State Fault Refusal :=
  .next (s.missArrives gid lane reg).tick

/-- PATH_SWITCH (R163): On an instruction-cache miss the group switches to a pending path. -/
noncomputable def execPathSwitch (gid : Nat) (s : State) : Host.Outcome State Fault Refusal := .next (s.pathSwitch gid).tick

/-- WATCHDOG_EXPIRY (R377): sr.wdog reaches 0 and the longest-waiting member takes cause 0x30. -/
noncomputable def execWatchdogExpiry (crew : Nat) (s : State) : Host.Outcome State Fault Refusal := .next (s.watchdog crew).tick

/-- WAIT_WAKE (R210): A write by another agent to the armed range wakes the group with 1. -/
def execWaitWake (gid : Nat) (s : State) : Host.Outcome State Fault Refusal := .next (s.waitWakes gid).tick

/-- WAIT_TIME_LIMIT (R210): sr.felim passes without a write and wait returns 0. -/
def execWaitTimeLimit (gid : Nat) (s : State) : Host.Outcome State Fault Refusal := .next (s.waitEnds gid).tick

/-- PREEMPTION (R378): A system event asks the resident handler to stop and save crews. -/
def execPreemption (crew : Nat) (s : State) : Host.Outcome State Fault Refusal := .next (s.preempt crew).tick

/-- CREW_DRAIN (R379): Once all members stopped, results, loads, engines, posted entries and messages drain. -/
def execCrewDrain (crew : Nat) (s : State) : Host.Outcome State Fault Refusal := .next (s.drain crew).tick

/-- SWITCH_STEP_ENTRY (R384): The lowest member enters level T with cause 0x33 to copy local memory. -/
def execSwitchStepEntry (crew : Nat) (s : State) : Host.Outcome State Fault Refusal := .next (s.enterStep crew).tick

/-- CREW_RESTORE (R385): A saved crew is checked, reloaded and resumed on a core. -/
def execCrewRestore (crew : Nat) (core : Nat) (s : State) : Host.Outcome State Fault Refusal := .next (s.restore crew core).tick

/-- PC_SAMPLE (R407): Every PERIOD clk a member emits a sample record to the Lamp port. -/
def execPcSample (gid : Nat) (s : State) : Host.Outcome State Fault Refusal := .next (s.sample gid).tick

/-- INSTRUCTION_CACHE_LINE_ARRIVAL (R163): The line missed by the instruction cache arrives and the group waiting for it becomes ready again. -/
def execInstructionCacheLineArrival (gid : Nat) (s : State) : Host.Outcome State Fault Refusal := .next (s.lineArrives gid).tick

/-- RESERVED_ENCODING (R94): An unassigned opcode, a reserved 16-bit op5 or another reserved encoding is fetched and takes an encoding trap, cause 0x01. -/
def execReservedEncoding (word : BitVec 32) (_len : Nat) (s : State) : Host.Outcome State Fault Refusal :=
  .next (s.takeTrap { trapEnc word.toNat 0 with issued := false } false).tick

end Sys2Proof.Machine
end

