-- ==== Sys2Proof/Machine/Fabric.lean ====
section
/-! DEFINITION. Dies, packages and pods (22): dies that leave service, flits of the Krearn fabric, the disciplined time base, the
Light List, die ranges and their acknowledgement. -/

namespace Sys2Proof.Machine

/-! ### Dies (22 R427) -/

/-- A die goes out of service; saved crews that waited in its ready queues wait in those of another (18 R388). -/
def State.dieOut (s : State) (die : Nat) : State :=
  let there (q : QEntry) : Bool := q.quad / 256 == die && (match q.who with | .crew _ => true | _ => false)
  let s1 : State :=
    { s with
      pkg := { s.pkg with deadDies := s.pkg.deadDies ||| BitVec.ofNat 6 (2 ^ die) }
      queues := s.queues.filter fun q => !there q }
  (s.queues.filter there).foldl (fun s q => match q.who with | .crew id => s.queueCrew id | _ => s) s1

/-! ### Flits (22 R428 to R430) -/

/-- An access reaches its home: one whose home is in another package leaves as a flit once, and waits for the answer. -/
def State.access' (s : State) (idx : Nat) : State :=
  match s.net[idx]? with
  | none => s
  | some r =>
    match r.pkg with
    | none => s.homeAccess idx
    | some p =>
      if (s.routeTo p).isNone then s.homeAccess idx
      else if 2 ^ 40 ≤ r.home ∨ s.reqReady idx r = false then s
      else ({ s with net := s.net.set idx { r with home := r.home + 2 ^ 40 } }).sendReq r p

/-- Whether an answer of a KIND can be that of a request: a read response of one that returns a value, an acknowledgement of
one that does not, a refusal of either. -/
def Req.answeredBy (r : Req) (kind : BitVec 6) : Bool :=
  let store := match r.op with | .store _ _ _ => true | _ => false
  if kind = 1 then r.entry.isNone && !store else if kind = 3 then r.entry.isSome || store else true

/-- The oldest request on its way that a flit answers: to its package, from its core, of its line and bytes. -/
def State.outstanding (s : State) (f : Flit) : Option (Nat × Req) :=
  s.net.zipIdx.findSome? fun p =>
    if p.1.pkg == some f.spkg && p.1.core == f.dcoord.toNat && decide (2 ^ 40 ≤ p.1.home) && p.1.pa / 64 == f.addr.toNat / 64 &&
        maskOf p.1.pa p.1.op.size == f.bmask && p.1.answeredBy f.kind then some (p.2, p.1) else none

/-- What a home of this package answers another's request: a flit back. -/
def State.replyFlit (s : State) (f : Flit) (kind opf : Nat) (lines : List Byte) : State :=
  s.sendFlit kind f.spkg f.dcoord.toNat f.scoord.toNat f.addr.toNat f.bmask opf lines

/-- A read request of another package, by the port that received it. -/
def State.flitRead (s : State) (port : Nat) (f : Flit) : State :=
  let a := f.addr.toNat / 64 * 64
  let op : MemOp := .load 64 false false
  match s.refusalFrom (portDie port) op a with
  | some r => s.replyFlit f 4 r.toNat []
  | none =>
    let s1 := (s.handOver op a none).takesPort a
    if s1.mem.poisoned a 64 then s1.replyFlit f 4 3 [] else s1.replyFlit f 1 0 (s1.mem.bytes a 64)

/-- The masked bytes of a line, as offset and byte. -/
def maskedBytes (mask : BitVec 64) (lines : List Byte) : List (Nat × Byte) :=
  ((upFrom 0 64).filter fun k => mask.getLsbD k).map fun k => (k, lines.getD k 0)

/-- A write of another package. -/
def State.flitWrite (s0 : State) (port : Nat) (f : Flit) : State :=
  let a := f.addr.toNat / 64 * 64
  let full := f.bmask == BitVec.allOnes 64
  match s0.refusalFrom (portDie port) .zero a with
  | some r => s0.replyFlit f 4 r.toNat []
  | none =>
    let s := (if full then s0 else s0.handOver (.load 64 false false) a none).takesPort a
    if s.mem.poisoned a 64 && !full then s.replyFlit f 4 (if s0.mem.poisoned a 64 then 3 else 4) []
    else
      let s1 : State := (maskedBytes f.bmask f.lines).foldl (fun s p => s.poke (a + p.1) 1 p.2.toNat) s
      (if full then { s1 with mem := s1.mem.heal a } else s1).replyFlit f 3 0 []

/-- Another operation of another package, performed here. -/
def State.flitAtomic (s : State) (port : Nat) (f : Flit) : State :=
  match opfOp f.opf f.lines with
  | none => s
  | some op =>
    let a := f.addr.toNat
    match s.refusalFrom (portDie port) op a with
    | some r => s.replyFlit f 4 r.toNat []
    | none =>
      let p := s.atHome op a none
      let s0 := (s.inspected op a none).takesPort a
      match p.refused with
      | some r => ({ s0 with mem := p.mem } : State).replyFlit f 4 r.toNat []
      | none =>
        let s1 : State := { s0 with mem := p.mem }
        let s2 := match p.wrote with
          | some (b, n) =>
            let s2 := s1.noticed 0 b n
            { s2 with creators := s2.creators.filter fun c => !decide (c.pa < b + n ∧ b < c.pa + 32) }
          | none => s1
        if p.val.tag = .poison then s2.replyFlit f 4 3 []
        else s2.replyFlit f (if f.opf.getLsbD 133 then 1 else 3) 0 (natBytes 64 (p.val.bits.toNat * 2 ^ (8 * (a % 64))))

/-- A message of another package (22 R429 KIND 5; log 21): data in OPF [127:0], the tag in [143:128]. -/
def State.flitMessage (s : State) (f : Flit) : State :=
  let m : Msg :=
    { data := f.opf.extractLsb' 0 128, tag := f.opf.extractLsb' 128 16, src := 2 ^ 32 + pairOf f.spkg f.scoord.toNat f.dcoord.toNat, sender := 2 ^ 64,
      lane := 0, srcCrew := 0, dest := .host 0, fn := 0, core := f.dcoord.toNat, off := f.addr.toNat % 2 ^ 19, addr := f.addr.setWidth 64,
      crew := 0, reg := none, x6 := 0, since := s.clk }
  { s with mail := s.mail ++ [m] }

/-- Whether a flit of a replay buffer is that of a request which waits for its answer. -/
def Req.flit (r : Req) (f : Flit) : Bool :=
  r.pkg == some f.dpkg && decide (2 ^ 40 ≤ r.home) && r.core == f.scoord.toNat && r.pa == f.addr.toNat && maskOf r.pa r.op.size == f.bmask &&
    (f.kind == 0 || f.kind == 2 || f.kind == 6)

/-- The answer to a request of this package arrives: its value, its acknowledgement, or its refusal. The request's flit is replayed no
more. -/
def State.flitAnswer (s : State) (f : Flit) : State :=
  match s.outstanding f with
  | none => s
  | some (n, r) =>
    let s0 : State := { s with net := s.net.eraseIdx n }
    let s1 := s0.mapFabric fun b => { b with replay := match b.replay.find? fun p => r.flit p.2 with | some p => b.replay.erase p | none => b.replay }
    if f.kind = 1 then s1.giveBack r (r.op.fromLine r.pa f.lines)
    else if f.kind = 3 then s1.giveBack r Val.zero
    else s1.refuseReq r (f.opf.extractLsb' 0 4)

/-! ### Slots, launches and multi-package launches (22 R435 to R444) -/

/-- A task's queued records and walks are withdrawn. -/
def State.unqueue (s : State) (task : Nat) (which : Nat → Bool) : State :=
  let mine (p : Placing) : Bool := match p with | .share t d => t == task && which d | _ => false
  { s with
    tenders := s.tenders.filter fun t => !mine t.who
    queues := s.queues.filter fun q => !mine q.who }

/-- A member's slot is no longer followed; the coordinator's own is until it has decided it (22 R444). -/
def State.dropSlots (s : State) (task : Nat) : State :=
  { s with pkg := { s.pkg with lights := s.pkg.lights.map fun l => { l with
      slots := l.slots.filter fun x => x.task != task || x.coord == s.pkg.pod.toNat } } }

/-- A launch is aborted on every die (22 R443): queued records are removed, started crews end at their next `step`. -/
def State.abortTask (s : State) (task : Nat) : State :=
  match s.task task with
  | none => s
  | some t =>
    if t.aborted then s
    else
      let count := t.acked.toNat + t.asked.toNat * 2 ^ 8 + t.id % 2 ^ 32 * 2 ^ 32
      let s0 := s.unqueue task fun _ => true
      let s1 := if t.done.isSome then s0 else s0.lightEnds t
      let s2 := (s1.mapTask task fun t => { t with aborted := true, await := false, done := none, status := 0x230 }).dropSlots task
      let s3 := s2.emit .scheduler (s2.launcherDest t) (recordBits 6 0x0E 0 (t.core % 256) (BitVec.ofNat 64 count))
      if s3.taskOver task then { s3 with tasks := s3.tasks.filter fun t => t.id != task || t.reply } else s3

/-- Whether every die asked has answered. -/
def Task.answered (t : Task) : Bool := (t.acked ||| t.refused) &&& t.asked == t.asked

/-- The dies of a set. -/
def countBits (b : BitVec 6) : Nat := ((upFrom 0 6).filter fun d => b.getLsbD d).length

/-- A package acknowledged a slot of a multi-package launch, at its coordinator, within 65,536 clk of the slot (22 R444): ACKMAP shows it
for the last slot of the entry. -/
def State.packageAck (s : State) (group slot : Nat) (pkg : BitVec 8) : State :=
  let mine (x : LightSlot) : Bool :=
    x.group == group && x.time == slot && x.coord == s.pkg.pod.toNat && decide (s.clk ≤ x.clk + 65536)
  let bit : BitVec 256 := BitVec.ofNat 256 (2 ^ pkg.toNat)
  { s with pkg := { s.pkg with lights := s.pkg.lights.map fun l =>
      let l1 : Light := { l with slots := l.slots.map fun x => if mine x then { x with acks := x.acks ||| bit } else x }
      if (l.slots.getLast?).any mine then l1.setField 896 256 (l.field 896 256 ||| 2 ^ pkg.toNat) else l1 } }

/-- A launch-control flit (22 R429 KIND 9; log 87): the word in ADDR[1:0], GROUP in ADDR[17:2], the slot time in BMASK, and the packages
that receive GO in OPF. -/
def State.sendLaunch (s : State) (pkg : BitVec 8) (w : LaunchWord) (group slot : Nat) (map : BitVec 256) : State :=
  s.sendFlit 9 pkg 0 0 ((match w with | .acknowledge => 0 | .go => 1 | .abort => 2) + group % 2 ^ 16 * 4) (BitVec.ofNat 64 slot) map.toNat []

/-- A member of a multi-package launch whose DMIN is met acknowledges to the coordinator of its slot (22 R444). -/
def State.memberAck (s : State) (t : Task) : State :=
  match (s.pkg.lights.flatMap (·.slots)).find? fun x => x.task == t.id with
  | none => s
  | some x =>
    if x.coord = s.pkg.pod.toNat then s.packageAck x.group x.time s.pkg.pod
    else s.sendLaunch (BitVec.ofNat 8 x.coord) .acknowledge x.group x.time 0

/-- A launch that every die asked has answered, or whose 8,192 clk have passed, goes on or is aborted (22 R443). -/
def State.decide_ (s : State) (task : Nat) : State :=
  match s.task task with
  | none => s
  | some t =>
    if t.decided || t.aborted || (!t.answered && decide (s.clk < t.start + 8192)) then s
    else if countBits t.acked < t.record.dmin then s.abortTask task
    else
      let s1 := s.unqueue task fun d => !t.acked.getLsbD d
      let s2 := s1.mapTask task fun t => { t with decided := true, dies := t.acked }
      if t.await then s2.memberAck t else s2

/-- A die acknowledges its share, placed or queued (22 R443). -/
def State.shareAck (s : State) (task die : Nat) : State :=
  match s.task task with
  | none => s
  | some t =>
    let walking := s.tenders.any fun w => w.who == .share task die
    if t.decided || t.aborted || walking || !t.asked.getLsbD die || t.refused.getLsbD die || s.pkg.deadDies.getLsbD die ||
        decide (t.start + 8192 ≤ s.clk) then s
    else (s.mapTask task fun t => { t with acked := t.acked ||| BitVec.ofNat 6 (2 ^ die) }).decide_ task

/-- A task receives GO (22 R444): its pod-scope barriers count the packages that did, but for those that have no members any more; one
that has ended tells them. -/
def State.go (s : State) (task : Nat) (map : BitVec 256) : State :=
  let s1 := (s.mapTask task fun t => { t with await := false, pkgs := map &&& ~~~t.pkgs }).dropSlots task
  let s2 := match s1.task task with
    | some t => if s1.taskOver task then s1.leavePeers t else s1
    | none => s1
  s2.releaseAll task

/-- The coordinator's word to a package, its own included. -/
def State.sendWord (s : State) (x : LightSlot) (w : LaunchWord) (map : BitVec 256) (pkg : Nat) : State :=
  if pkg = s.pkg.pod.toNat then
    match w with
    | .abort => s.abortTask x.task
    | _ => s.go x.task map
  else s.sendLaunch (BitVec.ofNat 8 pkg) w x.group x.time map

/-- 65,536 clk after a slot the coordinator sends GO, or ABORT, to each package that acknowledged it (22 R444): by PMIN as it was at the
slot. -/
def State.coordDecides (s : State) (entry : Nat) : State :=
  let due (x : LightSlot) : Bool := x.coord == s.pkg.pod.toNat && decide (x.clk + 65536 ≤ s.clk)
  match (s.pkg.lights.find? fun l => l.no == entry).bind fun l => l.slots.find? due with
  | none => s
  | some x =>
    let acks := (upFrom 0 256).filter fun k => x.acks.getLsbD k
    let w := if x.pmin + 1 ≤ acks.length then LaunchWord.go else .abort
    acks.foldl (fun s k => s.sendWord x w x.acks k) (s.mapLight entry fun l => { l with slots := l.slots.filter (· != x) })

/-- A member without GO within 131,072 clk of the slot aborts (22 R444). -/
def State.goTimeout (s : State) (entry : Nat) : State :=
  match s.tasks.find? fun t => t.await && !t.aborted && t.light.map (·.1) == some entry && decide (t.start + 131072 ≤ s.clk) with
  | none => s
  | some t => s.abortTask t.id

/-- The tasks of a multi-package launch by GROUP and slot time. -/
def State.launchTasks (s : State) (group slot : Nat) : List Task :=
  s.tasks.filter fun t => t.group == group && t.light.any (fun p => p.2 == slot) && (t.await || t.pkgs != 0)

/-- A launch-control flit arrives (22 R444). -/
def State.launchWord (s : State) (f : LaunchFlit) : State :=
  let mine := (s.launchTasks f.group f.slot).filter (·.await)
  match f.word with
  | .acknowledge => s.packageAck f.group f.slot f.spkg
  | .go =>
    if mine.isEmpty then
      -- the instance has ended: the others are told that it has no members
      ((upFrom 0 256).filter fun n => n != s.pkg.pod.toNat && f.map.getLsbD n).foldl (fun s n =>
        s.sendFlit 10 (BitVec.ofNat 8 n) 0 0 0 0 (barOpf f.group f.slot ⟨0, 4, 0, false, 0⟩ 0 0 true) []) s
    else mine.foldl (fun s t => s.go t.id f.map) s
  | .abort => mine.foldl (fun s t => s.abortTask t.id) s

/-- A barrier flit arrives (22 R429 KIND 10; log 87): all members of the package have arrived, or it has none any more. -/
def State.flitBarrier (s : State) (f : Flit) : State :=
  let o := f.opf.toNat
  let pkg := f.spkg.toNat
  let gen := o / 2 ^ 86 % 2 ^ 32
  (s.launchTasks (o % 2 ^ 16) (o / 2 ^ 16 % 2 ^ 64)).foldl (fun s t =>
    if o.testBit 85 then
      let bit : BitVec 256 := BitVec.ofNat 256 (2 ^ pkg)
      let s1 := s.mapTask t.id fun t => { t with pkgs := if t.await then t.pkgs ||| bit else t.pkgs &&& ~~~bit }
      ({ s1 with barriers := s1.barriers.map fun b =>
          if b.key.task = t.id then { b with away := b.away.filter fun q => q.1 != pkg } else b } : State).releaseAll t.id
    else
      let b := s.barrier ⟨t.id, 4, 0, o.testBit 84, o / 2 ^ 80 % 16⟩
      s.release { b with away := b.away.filter (fun q => !(q.1 == pkg && q.2.1 == gen)) ++ [(pkg, gen, BitVec.ofNat 64 (o / 2 ^ 118))] }) s

/-- A field of a task record replaced. -/
def TaskRec.withDies (r : TaskRec) (dmin dmax : Nat) : TaskRec :=
  { r with fields := BitVec.ofNat 256 (r.fields.toNat - r.field 336 6 * 2 ^ 80 + (dmin % 8 + dmax % 8 * 8) * 2 ^ 80) }

/-- The task record of an entry, with ENTRY and ARG as SET_LIGHT formed them and DMIN and DMAX replaced (22 R435). -/
def Light.record (l : Light) : TaskRec :=
  TaskRec.withDies { fields := BitVec.ofNat 256 (l.field 256 256), arg := l.arg, entry := l.entry } l.dmin l.dmax

/-- An entry launches an instance (22 R436). -/
def State.lightLaunch (s : State) (l : Light) : State :=
  match s.ctx l.ctx with
  | none => s
  | some c =>
    let id := s.nextId
    let b : LaunchBase :=
      { asid := c.asid, mwb := c.mwb, swb := c.swb, tvec := l.tvec, ctx := c.id, fn := c.fn, launcher := none, light := some (l.no, l.next),
        reply := false, await := decide (l.npkg ≠ 0), core := l.record.die * 1024, addr := 0, group := l.group }
    let slot : LightSlot :=
      { time := l.next, clk := s.clk, task := id, pmin := l.pmin, npkg := l.npkg, coord := l.coord, group := l.group, acks := 0 }
    (s.launch l.record b (l.record.die * 256)).mapLight l.no fun l =>
      let l1 := ((l.setField 768 32 (l.launched + 1)).setField 832 32 id).setField 864 8 (l.out + 1)
      if l.npkg = 0 then l1 else { l1.setField 896 256 0 with slots := l.slots ++ [slot] }

/-- Every crew of the outstanding instances of an entry is pre-empted at its next `step` (22 R437). -/
def State.preemptInstances (s : State) (entry : Nat) : State :=
  let ids := (s.tasks.filter fun t => t.light.map (·.1) == some entry).map (·.id)
  { s with crews := s.crews.map fun c => if ids.contains c.task then { c with atStep := true } else c }

/-- A slot that is due launches an instance, or takes the entry's overrun rule (22 R436, R437). -/
def State.slotDue (s : State) (entry : Nat) : State :=
  match s.pkg.lights.find? fun l => l.no == entry with
  | none => s
  | some l =>
    if !l.armed || decide (s.nanos < l.next) then s
    else
      let s1 :=
        if l.out = 0 then s.lightLaunch l
        else if l.rule = 0 ∨ 4 ≤ l.out then s.skipSlot l
        else if l.rule = 1 then s.lightLaunch l
        else (s.preemptInstances entry).lightLaunch l
      s1.mapLight entry Light.advance

/-! ### Membership (22 R441, R442) -/

/-- Whether every live member of a task holds at its `step`. -/
def State.allHold (s : State) (task : Nat) : Bool :=
  s.all.all fun g => g.sp.task != task || (match g.run with | .waiting .stepHold _ => true | _ => false)

/-- A crew of a withdrawn die ends at its `step` (22 R441): its engine operations go on (R122), its transfers are discarded and its
slots fall back (17 R364), and its allocation is freed without clearing. -/
def State.withdrawCrew (s : State) (c : Crew) : State :=
  let gs := s.all.filter fun g => g.sp.crew == c.id
  let s1 := (s.mapCrew c.id fun c => { c with withdrawn := true }).answerLanes c.id (gs.flatMap fun g => g.lanes.map (·.no)) []
  (gs.foldl (fun s g => s.dropGroup g.gid) s1).crewEnds c.id true

/-- The change that is pending is made (22 R441, R442): the members that stay go on from their `step` at PC + 4. -/
def State.applyChange (s : State) (t : Task) (add drop : BitVec 6) : State :=
  let gone := s.crews.filter fun c => c.task == t.id && drop.getLsbD (dieOf c.core)
  let walks := ((upFrom 0 6).filter fun d => add.getLsbD d).map (shareWalk t.record t.id t.src)
  let s1 := ({ s with tenders := s.tenders ++ walks } : State).unqueue t.id fun d => drop.getLsbD d
  let s2 := s1.mapTask t.id fun t => { t with
    dies := (t.dies ||| add) &&& ~~~drop, asked := t.asked ||| add, added := (t.added ||| add) &&& ~~~drop, epoch := (t.epoch + 1) % 256, change := none }
  let s3 := gone.foldl (fun s c => s.withdrawCrew c) s2
  let wake (g : Group) : Group :=
    if g.sp.task = t.id then (match g.run with | .waiting .stepHold _ => { g with run := .ready, sent := true } | _ => g) else g
  let s4 : State := { s3 with g := wake s3.g, groups := s3.groups.map wake }
  (s4.releaseAll t.id).taskEnds t.id 0 true

/-- Whether a change keeps to the limits: added dies in service and none of the task's, withdrawn dies its own, at most DMAX
dies, and fewer than DMIN only where a die leaves service (22 R441). -/
def State.changeFits (s : State) (t : Task) (add drop : BitVec 6) : Bool :=
  let dies := (t.dies ||| add) &&& ~~~drop
  add ||| drop != 0 && add &&& (t.dies ||| s.pkg.deadDies) == 0 && drop &&& ~~~t.dies == 0 &&
    decide (countBits dies ≤ t.record.dmax ∨ add = 0) && (decide (t.record.dmin ≤ countBits dies) || drop &&& ~~~s.pkg.deadDies == 0)

/-- A change of a task's dies is asked for, and is made once every live member holds at a `step` (22 R441). -/
def State.memberChange (s : State) (task : Nat) (add drop : BitVec 6) : State :=
  match s.task task with
  | none => s
  | some t =>
    match t.change with
    | some (a, d) => if s.allHold task then s.applyChange t a d else s
    | none =>
      if t.aborted || !s.changeFits t add drop then s
      else
        let s1 := s.mapTask task fun t => { t with change := some (add, drop) }
        if s1.allHold task then s1.applyChange t add drop else s1

/-- A contribution of a crew of another package to a collective of the task of one multi-package launch (15 R312; log 80). -/
def State.flitColl (s : State) (f : Flit) : State :=
  let o := f.opf.toNat
  match (s.launchTasks (o / 2 ^ 64 % 2 ^ 16) (o % 2 ^ 64)).head? with
  | none => s
  | some t =>
    let k : Coll :=
      { task := t.id, group := o / 2 ^ 80 % 16, op := o / 2 ^ 84 % 16, et := o / 2 ^ 88 % 4, max := o / 2 ^ 90 % 2 == 1,
        np := o / 2 ^ 91 % 2 ^ 7, root := o / 2 ^ 98 % 2 ^ 6, len := o / 2 ^ 104 % 2 ^ 32, parts := [], closed := false, lost := 0 }
    s.joinColl k
      { pkg := f.spkg.toNat, die := f.scoord.toNat / 1024, gang := 0, crew := 0, core := f.scoord.toNat, dest := .host t.fn, tag := 0,
        src := Val.zero, dst := Val.zero, spages := [], dpages := [], deadline := s.clk + o / 2 ^ 136 % 2 ^ 32, matching := true, late := false,
        op := s.clk * 256 + f.spkg.toNat, away := true }

/-! ### Disciplined time (22 R432 to R434) -/

/-- Changes the time base. -/
def State.mapTime (s : State) (f : TimeBase → TimeBase) : State := { s with pkg := { s.pkg with time := f s.pkg.time } }

/-- The base as it stands, counted from now on. -/
def State.rebase (s : State) : State :=
  s.mapTime fun t => { t with ns := s.nanos - clkNanos s.clk, heard := s.clk }

/-- The base slews toward its reference at a rate the spec leaves open, of at most 1,000 ppm, until the reference is heard again (22
R432, R434; log 22). -/
def State.slew (s : State) (offset : Int) : State :=
  let n : Nat := if offset = 0 then 0 else (Config.freeWord s.fresh).toNat % (10 ^ 6 + 1)
  { s.mapTime fun t => { t with rate := if offset < 0 then -(n : Int) else n } with fresh := s.fresh + 1 }

/-- A message of the reference: the base steps or slews, and its state follows (22 R432, R434). An offset above 10 ms steps a base that
has locked. -/
def State.ptp (s0 : State) (offset : Int) : State :=
  let s := s0.rebase
  let t := s.pkg.time
  let big := decide (10000000 < offset.natAbs)
  let steps := t.state == .free || (big && t.locked)
  let next := match t.state with
    | .free => TimeState.locking
    | .locking => .locking
    | .locked => if big then .locking else .locked
    | .holdover => .locking
  let s1 := if steps then s.stepTime offset else s.slew offset
  let near := steps || decide (offset.natAbs < 1000)
  s1.mapTime fun t => { t with
    state := next, offset := offset
    good := if near then (if next = t.state ∧ !steps then some (t.good.getD s.clk) else some s.clk) else none }

/-- The offset that a KIND 8 flit gives (22 R429, R433; log 22): its timestamp, in OPF [63:0], less the base. -/
def State.ptpOffset (s : State) (f : Flit) : Int := (f.opf.extractLsb' 0 64).toInt - s.nanos

/-- 16 s of offsets below 1 µs lock the base. -/
def State.lockBase (s : State) : State :=
  match s.pkg.time.state, s.pkg.time.good with
  | .locking, some c => if c + 15040000000 ≤ s.clk then s.mapTime fun t => { t with state := .locked, locked := true } else s
  | _, _ => s

/-- 8 s without a message of the reference. -/
def State.holdover (s : State) : State :=
  let t := s.pkg.time
  if (t.state = .locked ∨ t.state = .locking) ∧ t.heard + 7520000000 ≤ s.clk then s.mapTime fun t => { t with state := .holdover } else s

/-! ### Receipt of flits (22 R430) -/

/-- A flit delivered in its order: what it asks, by its KIND (22 R429); the others are never sent. -/
def State.deliverFlit (s : State) (port : Nat) (f : Flit) : State :=
  match f.kind.toNat with
  | 0 => s.flitRead port f
  | 1 => s.flitAnswer f
  | 2 => s.flitWrite port f
  | 3 => s.flitAnswer f
  | 4 => s.flitAnswer f
  | 5 => s.flitMessage f
  | 6 => s.flitAtomic port f
  | 7 => s.flitColl f
  | 8 => if port = 0 then s.ptp (s.ptpOffset f) else s
  | 9 =>
    let w := match f.addr.toNat % 4 with | 0 => some LaunchWord.acknowledge | 1 => some .go | 2 => some .abort | _ => none
    (match w with
      | some w => s.launchWord ⟨w, f.addr.toNat / 4 % 2 ^ 16, f.bmask.toNat, f.spkg, f.opf.extractLsb' 0 256⟩
      | none => s)
  | 10 => s.flitBarrier f
  | _ => s

/-- The pair of a received flit. -/
def flitPair (f : Flit) : Nat := pairOf f.spkg f.scoord.toNat f.dcoord.toNat

/-- Whether a request of another package waits at its home: an engine owns its line (12 R255), or an SC operation is due there first
(12 R249). -/
def State.flitWaits (s : State) (f : Flit) : Bool :=
  (f.kind == 0 || f.kind == 2 || f.kind == 6) && (s.ownedAt (f.addr.toNat / 64 * 64) 64 || s.scDueAt (homeOf f.addr.toNat))

/-- The SEQ that a pair's next flit has. -/
def Fabric.want (f : Fabric) (p : Nat) : Nat := (mapGet p f.seqIn).getD 0

/-- The held flits of a pair that follow are delivered, `n` of them at most, up to one that waits. -/
def State.drainFlits (s : State) (p : Nat) : Nat → State
  | 0 => s
  | n + 1 =>
    let want := s.pkg.fabric.want p
    match s.pkg.fabric.held.find? fun h => flitPair h.2 == p && h.2.seq % 2 ^ 32 == want with
    | none => s
    | some h =>
      if s.flitWaits h.2 then s
      else
        let s1 := s.mapFabric fun b => { b with held := b.held.erase h, seqIn := mapSet p ((want + 1) % 2 ^ 32) b.seqIn }
        State.drainFlits (s1.deliverFlit h.1 h.2) p n

/-- How far a SEQ lies ahead of the next one. -/
def seqAhead (seq want : Nat) : Nat := (seq % 2 ^ 32 + 2 ^ 32 - want) % 2 ^ 32

/-- The flits that are missing before those a pair holds are declared lost (22 R430), `n` times at most: the next is delivered as if it
came first. -/
def State.skipLost (s : State) (p : Nat) : Nat → State
  | 0 => s
  | n + 1 =>
    let want := s.pkg.fabric.want p
    match (s.pkg.fabric.held.filter fun h => flitPair h.2 == p).map fun h => seqAhead h.2.seq want with
    | [] => s
    | k :: t =>
      let next := (want + t.foldl min k) % 2 ^ 32
      State.skipLost ((s.mapFabric fun b => { b with seqIn := mapSet p next b.seqIn }).drainFlits p s.pkg.fabric.held.length) p n

/-- A link goes down (22 R430): the operations whose flits its replay buffer still holds are refused, and those that were to arrive by it
before flits that have are declared lost. -/
def State.linkDown (s : State) (port : Nat) : State :=
  let mine := (s.pkg.fabric.replay.filter fun p => p.1 == port).map (·.2)
  let lost (r : Req) : Bool := mine.any r.flit
  let pairs := ((s.pkg.fabric.held.filter fun h => h.1 == port).map fun h => flitPair h.2).eraseDups
  let s1 := ({ s with net := s.net.filter fun r => !lost r } : State).mapFabric fun b =>
    { b with
      down := setIns port b.down
      replay := b.replay.filter fun p => p.1 != port
      fails := b.fails.filter fun p => p.1.1 != port }
  let s2 := (s.net.filter lost).foldl (fun s r => s.refuseReq r 6) s1
  pairs.foldl (fun s p => s.skipLost p s.pkg.fabric.held.length) s2

/-- A flit is received, with what the bits that the link has flipped add to its check: one whose LCRC fails is discarded and asked for again, and takes its link down when it fails the sixteenth time;
others are delivered in SEQ order of their pair, and duplicates dropped (22 R430). -/
def State.receiveFlit (s : State) (port : Nat) (f : Flit) (damage : BitVec 32) : State :=
  let fab := s.pkg.fabric
  let p := flitPair f
  let key := (port, p, f.seq % 2 ^ 32)
  if fab.held.any fun h => flitPair h.2 == p && h.2.seq % 2 ^ 32 == f.seq % 2 ^ 32 then
    s.drainFlits p fab.held.length  -- what waited for a line may be delivered now
  else if 32 ≤ port ∨ fab.down.contains port = true then s
  else if flitCrc f ^^^ damage ≠ f.lcrc then
    let n := (fab.fails.lookup key).getD 0 + 1
    if 16 ≤ n then s.linkDown port
    else s.mapFabric fun b => { b with fails := (key, n) :: b.fails.filter fun q => q.1 != key }
  else
    let s1 := s.mapFabric fun b => { b with fails := b.fails.filter fun q => q.1 != key }
    if f.dpkg ≠ s.pkg.pod ∨ 2 ^ 31 ≤ seqAhead f.seq (fab.want p) then s1
    else (s1.mapFabric fun b => { b with held := b.held ++ [(port, f)] }).drainFlits p (fab.held.length + 1)

/-! ### Meanings -/

/-- DIE_OUT_OF_SERVICE (R427): Firmware takes a die out of service and routes change. -/
def execDieOutOfService (die : Nat) (s : State) : Host.Outcome State Fault Refusal := .next (s.dieOut die).tick

/-- FLIT_RECEIVE (R430): A fabric flit is received, checked and delivered in SEQ order. -/
def execFlitReceive (port : Nat) (flit : Flit) (damage : BitVec 32) (s : State) : Host.Outcome State Fault Refusal :=
  .next (s.receiveFlit port flit damage).tick

/-- HOME_ACCESS (R246): A load, store or atomic request is performed at its home in source order. -/
def execHomeAccess (idx : Nat) (s : State) : Host.Outcome State Fault Refusal := .next (s.access' idx).tick

/-- PTP_MESSAGE (R434): A PTP message updates the time base's offset and state. -/
def execPtpMessage (offset : Int) (s : State) : Host.Outcome State Fault Refusal := .next (s.ptp offset).tick

/-- LOCK_ACQUIRED (R434): Offset below 1 µs for 16 s moves the time base to LOCKED. -/
def execLockAcquired (s : State) : Host.Outcome State Fault Refusal := .next s.lockBase.tick

/-- HOLDOVER_ENTRY (R434): No reference message for 8 s enters HOLDOVER. -/
def execHoldoverEntry (s : State) : Host.Outcome State Fault Refusal := .next s.holdover.tick

/-- LIGHT_SLOT_DUE (R436): A Light List slot falls due and launches or takes its overrun rule. -/
def execLightSlotDue (entry : Nat) (s : State) : Host.Outcome State Fault Refusal := .next (s.slotDue entry).tick

/-- DIE_MEMBERSHIP_CHANGE (R441): When all members reach step, dies are added or withdrawn. -/
def execDieMembershipChange (task : Nat) (add : BitVec 6) (drop : BitVec 6) (s : State) : Host.Outcome State Fault Refusal :=
  .next (s.memberChange task add drop).tick

/-- DIE_SHARE_ACKNOWLEDGE (R443): A die acknowledges its placed or queued share. -/
def execDieShareAcknowledge (task : Nat) (die : Nat) (s : State) : Host.Outcome State Fault Refusal := .next (s.shareAck task die).tick

/-- LAUNCH_ACK_DEADLINE (R443): 8,192 clk after launch the launch continues or aborts by acknowledged dies. -/
def execLaunchAckDeadline (task : Nat) (s : State) : Host.Outcome State Fault Refusal := .next (s.decide_ task).tick

/-- LAUNCH_CONTROL_FLIT (R444): An acknowledgement, GO or ABORT flit of a multi-package launch arrives. -/
def execLaunchControlFlit (flit : LaunchFlit) (s : State) : Host.Outcome State Fault Refusal := .next (s.launchWord flit).tick

/-- COORD_ACK_DEADLINE (R444): 65,536 clk after the slot the coordinator sends GO or ABORT. -/
def execCoordAckDeadline (entry : Nat) (s : State) : Host.Outcome State Fault Refusal := .next (s.coordDecides entry).tick

/-- GO_TIMEOUT (R444): A member without GO within 131,072 clk aborts. -/
def execGoTimeout (entry : Nat) (s : State) : Host.Outcome State Fault Refusal := .next (s.goTimeout entry).tick

end Sys2Proof.Machine
end

