-- ==== Sys2Proof/Machine/Pages.lean ====
section
/-! DEFINITION. What the firmware keeps for contexts (26 R488, R490): pages of memory, page tables, and the end of a context. -/

namespace Sys2Proof.Machine

/-! ### Pages of 64 KiB (log 24) -/

/-- The first `n` free pages below a limit, at a multiple of `align`, between regions (first, count) already taken. -/
def firstRun (limit n align : Nat) (used : List (Nat × Nat)) : Option Nat :=
  let up (a : Nat) : Nat := (a + align - 1) / align * align
  let starts := (used.map fun u => up (u.1 + u.2)).foldl (fun l a => setIns a l) [0]
  starts.find? fun a => decide (a + n ≤ limit) && used.all fun u => decide (u.1 + u.2 ≤ a ∨ a + n ≤ u.1)

/-- The pages that cannot be given out: of LP-DDR-5X those taken, and of shared memory those taken, the holes above each die's
3 GiB, the state-store pages and the replicas. -/
def State.pagesTaken (s : State) (shared : Bool) : List (Nat × Nat) :=
  if shared then
    s.pkg.firmware.takenShared ++ ((upFrom 0 6).map fun d => (d * 65536 + 49152, 16384)) ++
      (s.pkg.ssPages.map fun p => ((p - Config.sharedBase / 4096) / 16, 1)) ++
      s.replicas.map fun r => ((r.pa - Config.sharedBase) / 65536, Replica.size / 65536 + 2)
  else s.pkg.firmware.taken

/-- The address of a page. -/
def pageAddr (page : Nat) (shared : Bool) : Nat := page * 65536 + if shared then Config.sharedBase else 0

/-- Lines in a range are written anew by the firmware under a key: poison and failed check values are gone (log 24). -/
def Memory.renew (m : Memory) (a n : Nat) (key : Option Nat) : Memory :=
  let out (l : Nat) : Bool := !decide (a / 64 ≤ l ∧ l < (a + n + 63) / 64)
  let bare := m.keys.filter fun p => out p.1
  { m with
    poison := m.poison.filter out
    checks := m.checks.filter fun p => out p.1
    keys := match key with | some k => (upFrom (a / 64) ((n + 63) / 64)).foldl (fun l x => mapSet x k l) bare | none => bare }

/-- The firmware gives pages to a context. -/
def State.givePages (s : State) (ctx page n : Nat) (shared : Bool) : State :=
  let fw := s.pkg.firmware
  let s1 : State :=
    { s with pkg := { s.pkg with firmware :=
        if shared then { fw with takenShared := fw.takenShared ++ [(page, n)] } else { fw with taken := fw.taken ++ [(page, n)] } } }
  s1.mapCtx ctx fun c => { c with given := c.given ++ [(page, n, shared)] }

/-- The firmware allocates `n` pages for a context. -/
def State.allocPages (s : State) (ctx n align : Nat) (shared : Bool) : Option (State × Nat) :=
  (firstRun (if shared then 6 * 65536 else Config.ddrSize / 65536) n align (s.pagesTaken shared)).map fun p =>
    ({ s.givePages ctx p n shared with mem := s.mem.renew (pageAddr p shared) (n * 65536) none }, p)

/-- The firmware takes pages back. -/
def State.takePages (s : State) (ctx : Nat) (gone : List (Nat × Nat × Bool)) : State :=
  let drop (shared : Bool) (l : List (Nat × Nat)) : List (Nat × Nat) :=
    gone.foldl (fun l g => if g.2.2 = shared then l.erase (g.1, g.2.1) else l) l
  let fw := s.pkg.firmware
  let s1 : State :=
    { s with pkg := { s.pkg with firmware := { fw with taken := drop false fw.taken, takenShared := drop true fw.takenShared } } }
  s1.mapCtx ctx fun c => { c with given := gone.foldl (fun l g => l.erase g) c.given }

/-! ### Page tables (11 R230, R231) -/

/-- A page table entry as MAP gives it (26 R488, R490): permissions in MAP's order R W X A USR CT GLB ENC. -/
def pteOf (kind : Nat) (pkg : BitVec 8) (key : Nat) (perms : BitVec 8) (pa : Nat) : Word :=
  let bit (p k : Nat) : Nat := if perms.getLsbD p then 2 ^ k else 0
  BitVec.ofNat 64
    (3 + kind % 2 * 4 + bit 0 3 + bit 1 4 + bit 2 5 + bit 3 6 + bit 4 7 + bit 6 8 + bit 5 9 + bit 7 10 + key % 8192 * 2 ^ 11 + pkg.toNat * 2 ^ 24 +
      pa / 8192 % 2 ^ 28 * 2 ^ 32)

/-- A leaf is written for an address at a level, from the table at `t` with `n` levels left; tables that lack are allocated. None
if memory is exhausted, or a leaf stands in the way. -/
def State.mapLeaf (s : State) (ctx va level : Nat) (pte : Word) : Nat → Nat → Option State
  | 0, _ => none
  | n + 1, t =>
    let a := t + 8 * (va / 2 ^ (16 + 10 * n) % 1024)
    let e : Word := BitVec.ofNat 64 (s.mem.nat a 8)
    if 4 - n = level then some (s.poke a 8 pte.toNat)
    else if pteBit e 0 then (if pteBit e 1 then none else State.mapLeaf s ctx va level pte n (ptePA e))
    else
      match s.allocPages ctx 1 1 false with
      | none => none
      | some (s1, p) =>
        let pa := pageAddr p false
        State.mapLeaf ((s1.poke pa 8192 0).poke a 8 (1 + pa / 8192 * 2 ^ 32)) ctx va level pte n pa

/-- Some pages written in a context's tables, each at its address. -/
def State.mapLeaves (s : State) (ctx level : Nat) : List (Nat × Word) → Option State
  | [] => some s
  | (va, pte) :: l =>
    match (s.ctx ctx).bind fun c => mapGet c.asid s.pkg.roots with
    | none => none
    | some root => (s.mapLeaf ctx va level pte 4 root).bind fun s1 => s1.mapLeaves ctx level l

/-- Where the entry of an address stands, with its level and the entry. -/
def leafEntry (m : Memory) (va : Nat) : Nat → Nat → Option (Nat × Nat × Word)
  | 0, _ => none
  | n + 1, t =>
    let a := t + 8 * (va / 2 ^ (16 + 10 * n) % 1024)
    let e : Word := BitVec.ofNat 64 (m.nat a 8)
    if !pteBit e 0 then none
    else if pteBit e 1 then some (a, 4 - n, e)
    else leafEntry m va n (ptePA e)

/-- Translations of an address are gone in the package, and walks under way do not fill one (19 R401). -/
def State.flushVA (s : State) (asid va : Nat) : State := s.invalidate 2 0 0 asid va

/-- A page of a context is unmapped: its entry is cleared, its translations are invalidated, and pages that the firmware gave for it
are free. -/
def State.unmapPage (s : State) (c : Ctx) (va size : Nat) : State :=
  match (mapGet c.asid s.pkg.roots).bind fun root => leafEntry s.mem va 4 root with
  | none => s
  | some (a, _, e) =>
    let s1 := (s.poke a 8 0).flushVA c.asid va
    let s2 := s1.takePages c.id (c.given.filter fun g => g == (ptePA e / 65536, size / 65536, pteBit e 2))
    s2.mapCtx c.id fun x => { x with maps := x.maps.filter fun m => m.1 != va }

/-! ### Keys (11 R234; 26 R492) -/

/-- A key index is removed: lines written under it read under no later key of that index. -/
def State.removeKey (s : State) (k : Nat) : State :=
  let old := 2 ^ 16 + s.nextId
  { s with
    nextId := s.nextId + 1
    mem := { s.mem with keys := s.mem.keys.map fun p => if p.2 = k then (p.1, old) else p }
    pkg := { s.pkg with
      keys := s.pkg.keys.filter (· != k)
      keyBytes := s.pkg.keyBytes.filter fun p => p.1 != k
      contexts := s.pkg.contexts.map fun c => { c with keys := c.keys.filter (· != k) } } }

/-! ### The end of a context (26 R488) -/

/-- A context's tasks are killed, its keys and pages are gone, and its ASID is free. -/
def State.endContext (s : State) (c : Ctx) : State :=
  let crews := (s.crews.filter fun k => k.ctx == c.id)
  let s1 := crews.foldl (fun s k => s.killCrew k.id 0x0C 0 0 k.core) s
  let tasks := s1.tasks.filter fun t => t.ctx == c.id
  let s2 := tasks.foldl (fun s t => (if t.done.isSome then s else s.lightEnds t).killTask t.id 0) s1
  let s3 : State := { s2 with tasks := s2.tasks.filter fun t => t.ctx != c.id }
  let s4 := c.keys.foldl (fun s k => s.removeKey k) s3
  let s5 := s4.takePages c.id c.given
  { s5 with
    tlb := []
    pointers := []
    walks := s5.walks.map fun w => { w with stale := true }
    pkg := { s5.pkg with roots := mapDel c.asid s5.pkg.roots, contexts := s5.pkg.contexts.filter fun x => x.id != c.id } }

/-- A function is reset: its contexts end, and its window, page and event list are as after reset (26 R478, R485). -/
def State.resetFn (s : State) (n : Nat) : State :=
  let s1 := (s.pkg.contexts.filter fun c => c.fn == n).foldl (fun s c => s.endContext c) s
  let s2 := s1.mapFn n fun f => { PcieFn.reset n with enabled := f.enabled }
  { s2 with pkg := { s2.pkg with firmware := { s2.pkg.firmware with serving := s2.pkg.firmware.serving.filter (· != n) } } }

end Sys2Proof.Machine
end

