-- ==== Sys2Proof/Machine/Objects.lean ====
section
/-! DEFINITION. Abaver code objects (26 R498 to R503): how the loader reads, checks and maps one. -/

namespace Sys2Proof.Machine

/-! ### Reading (26 R498, R500, R501) -/

/-- `n` bytes at an offset of some bytes. -/
def slice (b : List Byte) (off n : Nat) : List Byte := (b.drop off).take n

/-- A little-endian field of some bytes. -/
def field (b : List Byte) (off n : Nat) : Nat := leNat (slice b off n)

/-- A section table entry. -/
structure Section where
  type : Nat
  flags : Nat
  off : Nat
  size : Nat
  load : Nat
  align : Nat
  deriving DecidableEq, Repr

/-- MANDATORY. -/
def Section.mandatory (x : Section) : Bool := x.flags.testBit 0
/-- ALLOC. -/
def Section.alloc (x : Section) : Bool := x.flags.testBit 1
/-- EXEC. -/
def Section.exec (x : Section) : Bool := x.flags.testBit 2
/-- WRITE. -/
def Section.write (x : Section) : Bool := x.flags.testBit 3
/-- SHARED. -/
def Section.shared (x : Section) : Bool := x.flags.testBit 4

/-- Entry `k` of a section table. -/
def readSection (b : List Byte) (table k : Nat) : Section :=
  let a := table + 32 * k
  ⟨field b a 2, field b (a + 2) 2, field b (a + 4) 8, field b (a + 12) 8, field b (a + 20) 8, field b (a + 28) 4⟩

/-- The sections of an object. -/
def sections (b : List Byte) : List Section := (upFrom 0 (field b 8 4)).map (readSection b (field b 12 4))

/-- The bytes of a section; zero data has none in the object. -/
def Section.bytes (x : Section) (b : List Byte) : List Byte := if x.type = 5 then List.replicate x.size 0 else slice b x.off x.size

/-- A note: its type, its flags and its data. -/
structure Note where
  type : Nat
  flags : Nat
  data : List Byte
  deriving DecidableEq, Repr

/-- The notes of a section, `n` of them at most. -/
def readNotes : Nat → List Byte → List Note
  | 0, _ => []
  | n + 1, b =>
    if b.length < 8 then []
    else
      let len := field b 4 4
      ⟨field b 0 2, field b 2 2, slice b 8 len⟩ :: readNotes n (b.drop (8 + (len + 7) / 8 * 8))

/-- The pairs of profile code and version of a profile note, a byte each (log 25). -/
def profilePairs : List Byte → List (Nat × Nat)
  | p :: v :: t => (p.toNat, v.toNat) :: profilePairs t
  | _ => []

/-- The version of a profile that the part ships, if it does (26 R500). -/
def partProfile (code : Nat) : Option Nat := if code = 0 then some 0 else if code < 6 then some 1 else none

/-- A relocation of 24 bytes (log 25): its type, the section of the target, the place as a load offset, and the addend. -/
structure Reloc where
  type : Nat
  target : Nat
  place : Nat
  addend : Nat
  deriving DecidableEq, Repr

/-- The relocations of an object. -/
def relocs (b : List Byte) : List Reloc :=
  ((sections b).filter fun x => x.type == 6).flatMap fun x =>
    (upFrom 0 (x.size / 24)).map fun k =>
      let a := x.off + 24 * k
      ⟨field b a 4, field b (a + 4) 4, field b (a + 8) 8, field b (a + 16) 8⟩

/-- The bytes a relocation writes. -/
def Reloc.size (r : Reloc) : Nat := if r.type = 1 then 8 else 16

/-! ### Relay form (26 R502) -/

/-- The opcodes that the opcode map assigns in a format (04 R80, R95 to R100), as ranges. -/
def mapOps : Nat → List (Nat × Nat)
  | 0 =>
    [(0, 35), (64, 78), (96, 102), (128, 159), (161, 161), (165, 165), (168, 230), (256, 269), (271, 279), (320, 328)] ++
    [(352, 356), (360, 381), (384, 388), (392, 394), (400, 403), (408, 424), (432, 436), (440, 442), (448, 450), (480, 491)] ++
    [(496, 506)]
  | 1 =>
    [(0, 21)]
  | 2 =>
    [(0, 14)]
  | _ =>
    [(0, 3)]

/-- Those of them whose instructions have a result. -/
def resultOps : Nat → List (Nat × Nat)
  | 0 =>
    [(0, 35), (64, 78), (97, 97), (100, 100), (102, 102), (128, 159), (161, 161), (165, 165), (168, 223), (225, 230)] ++
    [(256, 269), (276, 276), (322, 322), (324, 324), (328, 328), (352, 353), (360, 381), (388, 388), (393, 393), (402, 402)] ++
    [(410, 411), (440, 441), (448, 448), (480, 480), (485, 485), (487, 491), (498, 498), (500, 500)]
  | 1 =>
    [(0, 10), (17, 17)]
  | 2 =>
    [(0, 7), (13, 13)]
  | _ =>
    [(1, 1)]

/-- Whether a number lies in one of some ranges. -/
def inRanges (rs : List (Nat × Nat)) (n : Nat) : Bool := rs.any fun r => decide (r.1 ≤ n ∧ n ≤ r.2)

/-- An item of a relay list: a label record, or an operation with its operand fields, whether it has a result, and the label its
immediate names if it is a branch, `j`, `call` or `split`. -/
inductive RelayItem where
  | label
  | op (operands : List Nat) (result : Bool) (target : Option Nat)
  deriving DecidableEq, Repr

/-- Whether an instruction's immediate names a label. -/
def namesLabel (f op : Nat) : Bool := (f == 1 && (decide (11 ≤ op ∧ op ≤ 16) || op == 18)) || (f == 3 && decide (op ≤ 1))

/-- The item that an operation word begins, with its immediate word if one follows; none if it is malformed. -/
def relayItem (w : Nat) (imm : Option Nat) : Option RelayItem :=
  if w % 2 ^ 16 = 0 then (if w = 0 then some .label else none)
  else
    let f := w / 2 ^ 14 % 4
    let op := w / 8 % 512
    let count := w / 2 ^ 17 % 8
    if w % 2 = 0 ∨ w / 2 ^ 12 % 4 ≠ 0 ∨ inRanges (mapOps f) op = false ∨ (f ≠ 2 ∧ w / 2 % 2 = 1) ∨ 4 < count then none
    else
      let fields := (upFrom 0 count).map fun k => w / 2 ^ (20 + 11 * k) % 2048
      some (.op fields (inRanges (resultOps f) op) (if namesLabel f op then imm else none))

/-- The items of a list of words, `n` words at most; none if one is malformed. -/
def relayItems : Nat → List Nat → Option (List RelayItem)
  | 0, _ => some []
  | _, [] => some []
  | n + 1, w :: t =>
    if w % 2 ^ 16 ≠ 0 ∧ w / 2 ^ 16 % 2 = 1 then
      match t with
      | [] => none
      | v :: t' => do
        let i ← relayItem w (some v)
        let r ← relayItems n t'
        pure (i :: r)
    else do
      let i ← relayItem w none
      let r ← relayItems n t
      pure (i :: r)

/-- Whether an operand field is well formed, by the items before its operation, the last first: a register code or literal, or the
distance to an operation with a result, with no label record between. -/
def operandOk : Nat → List RelayItem → Bool
  | 0, _ => false
  | _, [] => false
  | n + 1, i :: t =>
    match i with
    | .label => false
    | .op _ result _ => if n = 0 then result else operandOk n t

/-- Whether the items of a list are well formed, `past` being those before, the last first. -/
def relayOk (labels : Nat) : List RelayItem → List RelayItem → Bool
  | [], _ => true
  | i :: t, past =>
    (match i with
      | .label => true
      | .op fields _ target =>
        (fields.all fun v => decide (1024 ≤ v) || operandOk v past) && (match target with | some n => decide (n < labels) | none => true)) &&
      relayOk labels t (i :: past)

/-- The words of some bytes. -/
def relayWords (b : List Byte) : List Nat := (upFrom 0 (b.length / 8)).map fun k => field b (8 * k) 8

/-- Whether a relay form is well formed. -/
def relayValid (b : List Byte) : Bool :=
  b.length % 8 == 0 &&
    match relayItems (b.length / 8) (relayWords b) with
    | none => false
    | some is => relayOk (is.filter (· == .label)).length is []

/-! ### Checks (26 R499) -/

/-- Sections that are loaded: those with ALLOC but for debug sections. -/
def loadable (b : List Byte) : List Section := (sections b).filter fun x => x.alloc && x.type != 10

/-- Whether two ranges overlap. -/
def overlap (a n b m : Nat) : Bool := decide (a < b + m ∧ b < a + n)

/-- Whether some of a list of ranges overlap. -/
def anyOverlap : List (Nat × Nat) → Bool
  | [] => false
  | r :: t => t.any (fun q => overlap r.1 r.2 q.1 q.2) || anyOverlap t

/-- The notes of an object's profile note sections. -/
def notes (b : List Byte) : List Note :=
  ((sections b).filter fun x => x.type == 1).flatMap fun x => readNotes (x.size / 8 + 1) (x.bytes b)

/-- The first refusal of the table of R499, 0 if none. -/
def objectCode (b : List Byte) : Nat :=
  let ss := sections b
  let ns := notes b
  let rs := relocs b
  if b.length < 64 ∨ field b 0 4 ≠ 0x52564241 ∨ field b 4 2 ≠ 1 ∨ field b 6 2 ≠ 0 ∨ field b 48 16 ≠ 0 ∨ slice b 16 32 ≠ sha256 (b.drop 64) then 0x0101
  else if b.length < field b 12 4 + 32 * field b 8 4 ∨ (ss.any fun x => x.type != 5 && decide (b.length < x.off + x.size)) = true ∨
      (ss.any fun x => decide (32 ≤ x.flags)) = true ∨
      anyOverlap ((ss.filter (·.alloc)).map fun x => (x.load, x.size)) = true then 0x0102
  else if (ns.filter fun n => n.type == 1).length ≠ 1 then 0x0103
  else if ((ns.filter fun n => n.type == 1).flatMap fun n => profilePairs n.data).any fun p =>
      (match partProfile p.1 with | some v => decide (v < p.2) | none => true) then 0x0104
  else if rs.any fun r => decide (r.type < 1 ∨ 3 < r.type) || decide (ss.length ≤ r.target) ||
      !((loadable b).any fun x => decide (x.load ≤ r.place ∧ r.place + r.size ≤ x.load + x.size)) ||
      (r.type != 1 && r.place % 16 != 0) then 0x0105
  else if Config.ownerKeys ≠ 0 ∧ !((ss.any fun x => x.type == 11 && Config.ownerSigned (digestBits (sha256 (b.drop 64))) (x.bytes b)) : Bool) then 0x0106
  else if ss.any fun x => (decide (x.type < 1 ∨ 12 < x.type)) && x.mandatory then 0x0107
  else if ns.any fun n => n.type != 1 && n.flags.testBit 0 then 0x0108
  else if ss.any fun x => x.type == 9 && !relayValid (x.bytes b) then 0x0109
  else 0

/-! ### Loading -/

/-- The bytes that a section puts in memory: machine code that the loader forms from relay form (R503; log 20). -/
def Section.image (x : Section) (b : List Byte) : List Byte :=
  if x.type = 9 then ((Config.relayCode ((relayWords (x.bytes b)).map (BitVec.ofNat 64))) ++ List.replicate x.size 0).take x.size
  else x.bytes b

/-- The 64 KiB pages of some sections loaded at an address, by number. -/
def loadPages (load : Nat) (xs : List Section) : List Nat :=
  xs.foldl (fun l x => if x.size = 0 then l
    else (upFrom ((load + x.load) / 65536) ((load + x.load + x.size - 1) / 65536 - (load + x.load) / 65536 + 1)).foldl (fun l p => setIns p l) l) []

/-- The permissions of a page, in MAP's order, by the sections on it: R, USR and CT; W and A for WRITE; X for EXEC (log 25). -/
def pagePerms (load page : Nat) (xs : List Section) : BitVec 8 :=
  let on := xs.filter fun x => overlap (load + x.load) x.size (page * 65536) 65536
  0x31 ||| (if on.any (·.write) then 0x0A else 0) ||| (if on.any fun x => x.exec || x.type == 2 then 4 else 0)

/-- The pages of an object are allocated and mapped; none if memory is exhausted. DESIGN CHOICE: the spec does not say of which KIND a page
is that holds a SHARED section and another; the whole page is shared memory (log 25). -/
def State.mapObject (s : State) (c : Ctx) (load : Nat) (xs : List Section) : List Nat → Option State
  | [] => some s
  | p :: t =>
    let shared := xs.any fun x => x.shared && overlap (load + x.load) x.size (p * 65536) 65536
    match s.allocPages c.id 1 1 shared with
    | none => none
    | some (s1, page) =>
      let pte := pteOf shared.toNat s.pkg.pod 0 (pagePerms load p xs) (page * 65536)
      (s1.mapLeaves c.id 4 [(p * 65536, pte)]).bind fun s2 =>
        (s2.mapCtx c.id fun x => { x with maps := x.maps ++ [(p * 65536, 65536, true)] }).mapObject c load xs t

/-- Bytes written at virtual addresses of an address space. -/
def State.putVA (s : State) (asid va : Nat) (bs : List Byte) : State :=
  bs.zipIdx.foldl (fun s b => s.pokeVA asid (va + b.2) 1 b.1.toNat false) s

/-- A code capability with X and G over the text of an object, its cursor at an offset (26 R491, R501). -/
def textCap (text len off : Nat) : Val := let v := flatCap 0x24 text len; moveTo v (index v + off)

/-- A relocation is applied (26 R501). -/
def State.relocate (s : State) (asid load text textLen : Nat) (ss : List Section) (r : Reloc) : State :=
  let x := ss.getD r.target ⟨0, 0, 0, 0, 0, 0⟩
  let target := (load + x.load + r.addend) % 2 ^ 64
  let at_ := load + r.place
  let cap (v : Val) : State := s.pokeVA asid at_ 16 v.bits.toNat (v.tag == .cap)
  match r.type with
  | 1 => s.pokeVA asid at_ 8 target false
  | 2 => cap (textCap text textLen (target - text))
  | _ => let v := flatCap 0x4B (load + x.load) x.size; cap (moveTo v (index v + r.addend))

/-- What LOAD_OBJECT does once the object passes its checks: the state with the object loaded, its handle and its entry count; none
if memory is exhausted. -/
def State.placeObject (s : State) (c : Ctx) (load : Nat) (b : List Byte) : Option (State × Nat × Nat) :=
  let xs := loadable b
  match s.mapObject c load xs (loadPages load xs) with
  | none => none
  | some s1 =>
    let s2 := xs.foldl (fun s x => s.putVA c.asid (load + x.load) (x.image b)) s1
    let tx := ((xs.find? fun x => x.type == 2).or (xs.find? fun x => x.type == 9)).getD ⟨0, 0, 0, 0, 0, 0⟩
    let s3 := (relocs b).foldl (fun s r => s.relocate c.asid load (load + tx.load) tx.size (sections b) r) s2
    let entries := ((sections b).filter fun x => x.type == 12).flatMap fun x =>
      (upFrom 0 (x.size / 16)).map fun k => (field b (x.off + 16 * k + 4) 4, field b (x.off + 16 * k + 8) 8)
    let o : Obj := { handle := c.nextObj, text := load + tx.load, textLen := tx.size, entries := entries,
                     notes := ((notes b).filter fun n => n.type == 2).map (·.data) }
    some (s3.mapCtx c.id fun x => { x with objects := x.objects ++ [o], nextObj := x.nextObj + 1 }, c.nextObj, entries.length)

end Sys2Proof.Machine
end

