-- ==== Sys2Proof/Machine/Firmware.lean ====
section
/-! DEFINITION. The mailbox commands that the firmware serves (26 R483 to R495). -/

namespace Sys2Proof.Machine

/-! ### Service (26 R484, R486) -/

/-- Whether a command is the one being served: the oldest submitted, not yet waiting for a launch. -/
def State.served (s : State) (fn : Nat) (code : BitVec 16) (params : List Byte) (tag : BitVec 32) : Bool :=
  s.pkg.firmware.serving.head? == some fn &&
    (s.pkg.functions.any fun f => f.no == fn && f.busy == some ⟨code, params, tag⟩ && f.waiting.isNone)

/-- A reply: its data and status, GO cleared, the function ready, and vector 0 raised. -/
def State.reply (s : State) (fn : Nat) (tag : BitVec 32) (status : Nat) (data : List Byte) : State :=
  let s1 := s.mapFn fn fun f => { f with
    busy := none, go := false, waiting := none, replyData := data, vectors := f.vectors ||| 1,
    reply := BitVec.ofNat 64 (status % 2 ^ 16 + data.length % 2 ^ 16 * 2 ^ 16 + tag.toNat * 2 ^ 32) }
  { s1 with pkg := { s1.pkg with firmware := { s1.pkg.firmware with serving := s1.pkg.firmware.serving.filter (· != fn) } } }

/-- The parameter bytes of a command (26 R487, R488). -/
def paramSize : Nat → Option Nat
  | 0x0001 => some 0
  | 0x0002 => some 32
  | 0x0003 => some 32
  | 0x0004 => some 8
  | 0x0005 => some 32
  | 0x0006 => some 16
  | 0x0007 => some 72
  | 0x0008 => some 200
  | 0x0009 => some 96
  | 0x000A => some 8
  | 0x000B => some 32
  | 0x000C => some 8
  | 0x000D => some 8
  | _ => none

/-- A command of a code is run if it is the one served and its parameters have its size: a status and reply data, with the state after. -/
def State.command (s : State) (fn : Nat) (code : Nat) (params : List Byte) (tag : BitVec 32) (run : State → State × Nat × List Byte) : State :=
  if s.served fn (BitVec.ofNat 16 code) params tag && paramSize code == some params.length then
    let (s1, status, data) := run s
    s1.reply fn tag status data
  else s

/-- A refusal leaves nothing changed. -/
def State.no (s : State) (status : Nat) : State × Nat × List Byte := (s, status, [])

/-- Whether bytes of the parameters are all 0. -/
def zeroAt (b : List Byte) (off n : Nat) : Bool := (slice b off n).all (· == 0)

/-- A context that a function created. -/
def State.ownCtx (s : State) (fn id : Nat) : Option Ctx := s.pkg.contexts.find? fun c => c.id == id && c.fn == fn

/-! ### IDENTIFY and ATTEST (26 R489, R494) -/

/-- The replica offset that IDENTIFY gives: all ones when no batching group is configured. -/
def State.replicaOffset (s : State) : Nat :=
  match s.replicas with | r :: _ => (r.pa - Config.sharedBase) % 2 ^ 32 | [] => 2 ^ 64 - 1

/-- The partitions of each die: one by default (18 R389). -/
def State.partsPerDie (s : State) : Nat := max 1 ((s.pkg.firmware.parts.filter fun p => p.quads.any fun q => q / 256 == 0).length)

/-- The reply of IDENTIFY. -/
def State.identity (s : State) : List Byte :=
  let f := s.pkg.firmware
  natBytes 4 0x2006 ++ natBytes 4 f.rev.toNat ++ [0, 1, 1, 1, 1, 1, 0, 0] ++
    [s.pkg.pod, (~~~s.pkg.deadDies).setWidth 8, BitVec.ofNat 8 s.partsPerDie, BitVec.ofNat 8 f.extension.toNat, 0, 0, 0, 0] ++
    natBytes 8 Config.timeConfig.toNat ++ natBytes 8 s.replicaOffset ++ natBytes 8 Config.ddrSize ++ natBytes 8 (6 * Config.sharedDie) ++
    natBytes 4 f.cap ++ natBytes 4 0 ++ beBytes 384 Config.identityModulus.toNat

/-- The report of ATTEST before its signature: bytes 0 to 607. -/
def State.report (s : State) (fn : Nat) (nonce : List Byte) : List Byte :=
  natBytes 4 1 ++ natBytes 4 s.pkg.firmware.rev.toNat ++ nonce ++ natBytes 4 s.pkg.pod.toNat ++ natBytes 4 fn ++ natBytes 16 0 ++
    (s.pkg.firmware.measures.toList.flatMap fun m => natBytes 32 m.toNat) ++ sha256 (s.identity.take 0x40)

/-- ATTEST: the report with its signature by the device identity key. -/
def State.attest (s : State) (fn : Nat) (nonce : List Byte) : State × Nat × List Byte :=
  let r := s.report fn nonce
  ({ s with fresh := s.fresh + 1 }, 0, r ++ beBytes 384 (Config.signature r s.fresh).toNat)

/-! ### Contexts (26 R488) -/

/-- The virtual range that the firmware chooses for a pool: the first of a few that lies outside both windows (log 24). -/
def poolBase (mwb swb size : Nat) : Option Nat :=
  let starts := [65536, mwb + Config.meshSize, swb + Config.windowSize]
  starts.find? fun a => decide (a + size ≤ 2 ^ 56) && !overlap a size mwb Config.meshSize && !overlap a size swb Config.windowSize

/-- CREATE_CONTEXT. -/
def State.createContext (s : State) (fn : Nat) (p : List Byte) : State × Nat × List Byte :=
  let mwb := field p 0 8
  let swb := field p 8 8
  let spill := if field p 16 4 = 0 then 8192 else field p 16 4
  let event := field p 20 4
  let size := if field p 24 8 = 0 then 0x4000000 else field p 24 8
  if mwb % 2 ^ 32 ≠ 0 ∨ swb % 2 ^ 35 ≠ 0 ∨ 2 ^ 56 ≤ mwb ∨ 2 ^ 56 ≤ swb ∨ spill % 32 ≠ 0 ∨ spill < 1024 ∨ 1048576 < spill ∨
      (event ≠ 0 ∧ event ≠ 1040) ∨ size % 65536 ≠ 0 then s.no 2
  else
    match leastFree (s.pkg.contexts.map (·.id)) 65535 1, leastFree (s.pkg.roots.map (·.1)) 65535 1, poolBase mwb swb size with
    | some id, some asid, some base =>
      let c : Ctx :=
        { id := id, fn := fn, asid := asid, mwb := BitVec.ofNat 64 mwb, swb := BitVec.ofNat 64 swb, spill := spill, event := event, pool := base,
          poolSize := size, areas := [], objects := [], aperture := [], maps := [], keys := [], nextObj := 1, given := [] }
      let s1 : State := { s with pkg := { s.pkg with contexts := s.pkg.contexts ++ [c] } }
      let done := do
        let (s2, root) ← s1.allocPages id 1 1 false
        let s3 := s2.poke (pageAddr root false) 8192 0
        let s4 : State := { s3 with pkg := { s3.pkg with roots := mapSet asid (pageAddr root false) s3.pkg.roots } }
        let (s5, page) ← s4.allocPages id (size / 65536) 1 false
        s5.mapLeaves id 4 ((upFrom 0 (size / 65536)).map fun k =>
          (base + k * 65536, pteOf 0 s.pkg.pod 0 0x23 (pageAddr (page + k) false)))
      (match done with
        | some s6 => (s6, 0, natBytes 2 id ++ natBytes 2 asid ++ natBytes 4 0 ++ natBytes 8 base)
        | none => s.no 4)
    | _, _, _ => s.no 4

/-- DESTROY_CONTEXT. -/
def State.destroyContext (s : State) (fn : Nat) (p : List Byte) : State × Nat × List Byte :=
  if !zeroAt p 2 6 then s.no 2
  else match s.ownCtx fn (field p 0 2) with
    | none => s.no 5
    | some c => (s.endContext c, 0, [])

/-! ### Mappings (26 R488, R490) -/

/-- What MAP writes: aperture pages. -/
def State.mapAperture (s : State) (c : Ctx) (index count host : Nat) : State × Nat × List Byte :=
  let pages := (upFrom 0 count).map fun k => (index + k, host + k * 4096)
  if host % 4096 ≠ 0 ∨ 2 ^ 64 ≤ host + count * 4096 ∨ 1048576 < index + count ∨ (pages.any fun q => (c.aperture.lookup q.1).isSome) = true then s.no 2
  else (s.mapCtx c.id fun x => { x with aperture := x.aperture ++ pages }, 0, natBytes 8 host)

/-- Whether pages of physical memory lie within their kind's range (11 R225, R226). -/
def inRange (shared : Bool) (pa bytes : Nat) : Bool :=
  if shared then decide (pa / 2 ^ 32 < 6 ∧ pa % 2 ^ 32 + bytes ≤ Config.sharedDie) else decide (pa + bytes ≤ Config.ddrSize)

/-- MAP. -/
def State.map (s : State) (fn : Nat) (p : List Byte) : State × Nat × List Byte :=
  let kind := field p 2 1
  let size := field p 3 1
  let count := field p 4 2
  let pkg := BitVec.ofNat 8 (field p 6 1)
  let perms := BitVec.ofNat 8 (field p 7 1)
  let key := field p 8 2
  let va := field p 16 8
  let phys := field p 24 8
  let level := 4 - size
  let bytes := 2 ^ pageShift level
  let shared := kind == 1
  let choose := phys == 2 ^ 64 - 1
  match s.ownCtx fn (field p 0 2) with
  | none => s.no 5
  | some c =>
    if !zeroAt p 10 6 ∨ 2 < kind ∨ 2 < size ∨ count < 1 ∨ 1024 < count ∨ (kind = 2 ∧ size ≠ 0) ∨ (shared = true ∧ size = 2) ∨
        (if perms.getLsbD 7 then !c.keys.contains key else key != 0) = true then s.no 2
    else if kind = 2 then (if choose then s.no 2 else s.mapAperture c va count phys)
    else if !choose ∧ fn ≠ 0 then s.no 3
    else if va % bytes ≠ 0 ∨ 2 ^ 56 < va + count * bytes ∨ overlap va (count * bytes) c.pool c.poolSize = true ∨
        (c.maps.any fun m => overlap va (count * bytes) m.1 m.2.1) = true ∨ (choose = true ∧ pkg ≠ s.pkg.pod) ∨
        (!choose ∧ (phys % bytes ≠ 0 ∨ inRange shared phys (count * bytes) = false)) then s.no 2
    else
      let n := bytes / 65536
      let first := if choose then firstRun (if shared then 6 * 65536 else Config.ddrSize / 65536) (n * count) n (s.pagesTaken shared)
        else some (phys / 65536)
      match first with
      | none => s.no 4
      | some page =>
        let local_ := pkg == s.pkg.pod
        let give (s : State) (k : Nat) : State := if local_ then s.givePages c.id (page + k * n) n shared else s
        let s1 := (upFrom 0 count).foldl give s
        let s2 : State := if choose then { s1 with mem := s1.mem.renew (pageAddr page shared) (count * bytes) (if perms.getLsbD 7 && !shared then some key else none) } else s1
        let leaves := (upFrom 0 count).map fun k => (va + k * bytes, pteOf kind pkg key perms (page * 65536 + k * bytes))
        match s2.mapLeaves c.id level leaves with
        | none => s.no 4
        | some s3 =>
          (s3.mapCtx c.id fun x => { x with maps := x.maps ++ leaves.map fun l => (l.1, bytes, choose) }, 0, natBytes 8 (page * 65536))

/-- The mapped pages from an address on, `n` of them; none if one is not mapped. -/
def pagesFrom (maps : List (Nat × Nat × Bool)) : Nat → Nat → Option (List (Nat × Nat))
  | 0, _ => some []
  | n + 1, va =>
    match maps.find? fun m => m.1 == va with
    | none => none
    | some m => (pagesFrom maps n (va + m.2.1)).map fun l => (va, m.2.1) :: l

/-- UNMAP: an address at which the context has a page mapped names that, any other number an aperture page (log 25). -/
def State.unmap (s : State) (fn : Nat) (p : List Byte) : State × Nat × List Byte :=
  let count := field p 4 4
  let va := field p 8 8
  if !zeroAt p 2 2 then s.no 2
  else match s.ownCtx fn (field p 0 2) with
    | none => s.no 5
    | some c =>
      if c.maps.any fun m => m.1 == va then
        (match pagesFrom c.maps count va with
          | none => s.no 2
          | some l => (l.foldl (fun s q => match s.ctx c.id with | some x => s.unmapPage x q.1 q.2 | none => s) s, 0, []))
      else
        let gone := upFrom va count
        if gone.all fun k => (c.aperture.lookup k).isSome then
          (s.mapCtx c.id fun x => { x with aperture := x.aperture.filter fun a => !gone.contains a.1 }, 0, [])
        else s.no 2

/-! ### Keys (26 R492) -/

/-- SET_KEY. -/
def State.setKey (s : State) (fn : Nat) (p : List Byte) : State × Nat × List Byte :=
  let op := field p 2 1
  if !zeroAt p 3 5 ∨ 1 < op ∨ (op = 1 ∧ !zeroAt p 10 62) then s.no 2
  else match s.ownCtx fn (field p 0 2) with
    | none => s.no 5
    | some c =>
      if op = 0 then
        (match leastFree s.pkg.keys 8192 0 with
          | none => s.no 4
          | some k =>
            let s1 : State := { s with pkg := { s.pkg with keys := setIns k s.pkg.keys, keyBytes := s.pkg.keyBytes ++ [(k, BitVec.ofNat 512 (field p 8 64))] } }
            let s2 := s1.mapCtx c.id fun x => { x with keys := x.keys ++ [k] }
            (s2.mapFn fn fun f => { f with page := f.page.filter fun b => !decide (0x40 ≤ b.1 ∧ b.1 < 0x800) }, 0, natBytes 2 k ++ natBytes 6 0))
      else if c.keys.contains (field p 8 2) then (s.removeKey (field p 8 2), 0, natBytes 8 0)
      else s.no 2

/-! ### Objects, launches and the Light List (26 R487, R491, R499) -/

/-- LOAD_OBJECT. -/
def State.loadObject (s : State) (fn : Nat) (p : List Byte) : State × Nat × List Byte :=
  let off := field p 8 8
  let len := field p 16 8
  let load := field p 24 8
  if !zeroAt p 2 6 ∨ off % 4096 ≠ 0 ∨ load % 65536 ≠ 0 then s.no 2
  else match s.ownCtx fn (field p 0 2) with
    | none => s.no 5
    | some c =>
      if (upFrom (off / 4096) ((len + 4095) / 4096)).any fun k => (c.aperture.lookup k).isNone then s.no 2
      else
        let b := (upFrom off len).map fun a => cellGet (c.hostAddr a) s.pkg.hostMem
        let code := objectCode b
        let taken (x : Nat × Nat) : Bool := (loadPages load (loadable b)).any fun q => overlap (q * 65536) 65536 x.1 x.2
        if code ≠ 0 then s.no code
        else if ((loadable b).any fun x => decide (2 ^ 56 < load + x.load + x.size)) || taken (c.pool, c.poolSize) ||
            c.maps.any fun m => taken (m.1, m.2.1) then s.no 2
        else
          match s.placeObject c load b with
          | none => s.no 4
          | some (s1, handle, entries) =>
            let digest := sha256 b
            let f := s1.pkg.firmware
            let m := extend (f.measures.toList.getD 3 0) (natBytes 2 c.id ++ digest)
            ({ s1 with pkg := { s1.pkg with firmware := { f with measures := f.measures.setIfInBounds 3 m } } }, 0,
              natBytes 4 handle ++ natBytes 4 entries ++ digest)

/-- What a launch descriptor names (26 R487, R491, R501): a status, or the context with ENTRY, ARG and the handler. -/
def State.descriptor (s : State) (fn : Nat) (d : List Byte) (isG : Bool) : Nat ⊕ (Ctx × Val × Val × Val) :=
  let handler := field d 2 2
  let perm := BitVec.ofNat 8 (field d 12 1)
  let addr := field d 16 8
  let len := field d 24 8
  if !zeroAt d 13 3 ∨ perm.getLsbD 2 = true ∨ 2 ^ 56 < addr + len then .inl 2
  else match s.ownCtx fn (field d 0 2) with
    | none => .inl 5
    | some c =>
      match c.objects.find? fun o => o.handle == field d 4 4 with
      | none => .inl 6
      | some o =>
        match o.entries[field d 8 4]? with
        | none => .inl 2
        | some (kind, off) =>
          let arg := flatCap perm addr len
          if kind ≠ isG.toNat then .inl 2
          else if handler = 0xFFFF then .inr (c, textCap o.text o.textLen off, arg, Val.zero)
          else match o.entries[handler]? with
            | some (2, h) => .inr (c, textCap o.text o.textLen off, arg, textCap o.text o.textLen h)
            | _ => .inl 2

/-- LAUNCH: refused at once, or launched; it replies when every walk has ended or acknowledged. -/
def State.hostLaunch (s : State) (fn : Nat) (tag : BitVec 32) (p : List Byte) : State :=
  let refuse (n : Nat) : State := s.reply fn tag n []
  let fields := BitVec.ofNat 256 (field p 64 32)
  if !zeroAt p 32 32 then refuse 2
  else match s.descriptor fn (slice p 0 32) (fields.getLsbD 0) with
    | .inl n => refuse n
    | .inr (c, entry, arg, tvec) =>
      let r : TaskRec := { fields := fields, arg := arg, entry := entry }
      let code := r.code c.event
      if code ≠ 0 then refuse (0x200 + code)
      else
        let b : LaunchBase :=
          { asid := c.asid, mwb := c.mwb, swb := c.swb, tvec := tvec, ctx := c.id, fn := fn, launcher := none, light := none, reply := true,
            await := false, core := r.die * 1024, addr := 0, group := 0 }
        (s.launch r b (r.die * 256)).mapFn fn fun f => { f with waiting := some s.nextId }

/-- A LAUNCH replies once every die asked has answered (26 R491). -/
def State.launchReply (s : State) (task : Nat) : State :=
  match s.task task, s.pkg.functions.find? fun f => f.waiting == some task with
  | some t, some f =>
    if !(t.answered || t.decided || t.aborted) then s
    else
      let tag := match f.busy with | some q => q.tag | none => 0
      let s1 := s.mapTask task fun t => { t with reply := false }
      let s2 : State := if s1.taskOver task && t.done.isNone then { s1 with tasks := s1.tasks.filter fun t => t.id != task } else s1
      if t.aborted then s2.reply f.no tag t.status []
      else s2.reply f.no tag 0 (natBytes 4 t.id ++ [t.dies.setWidth 8, 0, 0, 0])
  | _, _ => s

/-- The first slot of an entry at or after a time (22 R436). -/
def firstSlot (first period : Nat) (now : Int) : Nat :=
  if period = 0 ∨ now ≤ first then first else first + ((now - first).toNat + period - 1) / period * period

/-- SET_LIGHT: a slot due in its clk uses the old entry (22 R436). -/
def State.setLight (s0 : State) (fn : Nat) (p : List Byte) : State × Nat × List Byte :=
  let no := field p 0 2
  let image := BitVec.ofNat 1280 (field p 40 160)
  let l : Light := { no := no, image := image, entry := Val.zero, arg := Val.zero, tvec := Val.zero, ctx := 0, slots := [] }
  let s := if fn = 0 ∧ no < 512 then s0.slotDue no else s0
  if fn ≠ 0 then s.no 3
  else if !zeroAt p 2 6 ∨ 512 ≤ no ∨ l.field 0 256 ≠ 0 then s.no 2
  else if l.field 1152 128 ≠ 0 ∨ l.field 872 24 ≠ 0 ∨ l.field 640 15 ≠ 0 ∨ l.rule = 3 ∨ l.npkg < l.pmin ∨ (l.period ≠ 0 ∧ l.period < 10000) then s.no 0x340
  else match s.descriptor fn (slice p 8 32) (image.getLsbD 256) with
    | .inl n => s.no n
    | .inr (c, entry, arg, tvec) =>
      let l1 := { l with entry := entry, arg := arg, tvec := tvec, ctx := c.id }
      let code := l1.record.code c.event
      if code ≠ 0 then s.no (0x300 + code)
      else
        let old := (s.pkg.lights.find? fun x => x.no == no).getD { l with image := 0 }
        let keep (l : Light) (lo w : Nat) : Light := l.setField lo w (old.field lo w)
        let l2 := keep (keep (keep (keep (keep l1 896 256) 864 8) 832 32) 800 32) 768 32
        let l3 := if l.armed then l2.setField 704 64 (firstSlot l.first l.period s.nanos) else keep l2 704 64
        ({ s with pkg := { s.pkg with lights := { l3 with slots := old.slots } :: s.pkg.lights.filter fun x => x.no != no } }, 0, [])

/-! ### Events and power (26 R488, R495) -/

/-- READ_EVENTS: the oldest records, and how many were dropped. -/
def State.readEvents (s : State) (fn : Nat) (p : List Byte) : State × Nat × List Byte :=
  let n := field p 0 4
  if !zeroAt p 4 4 ∨ n < 1 ∨ 127 < n then s.no 2
  else match s.pkg.functions.find? fun f => f.no == fn with
    | none => s.no 2
    | some f =>
      let rs := f.events.take n
      (s.mapFn fn fun f => { f with events := f.events.drop n, dropped := 0 }, 0,
        natBytes 4 rs.length ++ natBytes 4 f.dropped ++ natBytes 8 0 ++ rs.flatMap fun r => natBytes 16 r.toNat)

/-- SET_POWER. -/
def State.setPower (s : State) (fn : Nat) (p : List Byte) : State × Nat × List Byte :=
  let cap := field p 0 4
  if fn ≠ 0 then s.no 3
  else if !zeroAt p 4 4 ∨ cap < 400 ∨ 2400 < cap then s.no 2
  else ({ s with pkg := { s.pkg with firmware := { s.pkg.firmware with cap := cap } } }, 0, natBytes 4 cap ++ natBytes 4 s.pkg.firmware.draw)

/-- RESET_FUNCTION. -/
def State.resetFunction (s : State) (fn : Nat) (p : List Byte) : State × Nat × List Byte :=
  let n := field p 0 1
  if !zeroAt p 1 7 ∨ 15 < n then s.no 2
  else if fn ≠ 0 ∧ n ≠ fn then s.no 3
  else (s.resetFn n, 0, [])

/-! ### Meanings -/

/-- IDENTIFY (R489): Replies with the part's identity and configuration. -/
def execIdentify (fn : Nat) (params : List Byte) (tag : BitVec 32) (s : State) : Host.Outcome State Fault Refusal :=
  .next (s.command fn 1 params tag fun s => (s, 0, s.identity)).tick

/-- LOAD_OBJECT (R499): Copies in, checks, maps and measures an Abaver code object. -/
def execLoadObject (fn : Nat) (params : List Byte) (tag : BitVec 32) (s : State) : Host.Outcome State Fault Refusal :=
  .next (s.command fn 2 params tag fun s => s.loadObject fn params).tick

/-- CREATE_CONTEXT (R488): Creates a context with ASID, windows and crew-area pool. -/
def execCreateContext (fn : Nat) (params : List Byte) (tag : BitVec 32) (s : State) : Host.Outcome State Fault Refusal :=
  .next (s.command fn 3 params tag fun s => s.createContext fn params).tick

/-- DESTROY_CONTEXT (R488): Kills a context's tasks and frees its keys, pages and ASID. -/
def execDestroyContext (fn : Nat) (params : List Byte) (tag : BitVec 32) (s : State) : Host.Outcome State Fault Refusal :=
  .next (s.command fn 4 params tag fun s => s.destroyContext fn params).tick

/-- MAP (R490): Writes page table entries for a context. -/
def execMap (fn : Nat) (params : List Byte) (tag : BitVec 32) (s : State) : Host.Outcome State Fault Refusal :=
  .next (s.command fn 5 params tag fun s => s.map fn params).tick

/-- UNMAP (R490): Clears entries, invalidates translations and frees pages. -/
def execUnmap (fn : Nat) (params : List Byte) (tag : BitVec 32) (s : State) : Host.Outcome State Fault Refusal :=
  .next (s.command fn 6 params tag fun s => s.unmap fn params).tick

/-- SET_KEY_INSTALL (R492): Installs an XTS key at the lowest free index. -/
def execSetKeyInstall (fn : Nat) (params : List Byte) (tag : BitVec 32) (s : State) : Host.Outcome State Fault Refusal :=
  .next (if field params 2 1 = 1 then s else s.command fn 7 params tag fun s => s.setKey fn params).tick

/-- SET_KEY_REMOVE (R492): Removes a key after cleaning its cached lines. -/
def execSetKeyRemove (fn : Nat) (params : List Byte) (tag : BitVec 32) (s : State) : Host.Outcome State Fault Refusal :=
  .next (if field params 2 1 = 1 then s.command fn 7 params tag fun s => s.setKey fn params else s).tick

/-- SET_LIGHT (R487): Writes or disarms a Light List entry. -/
def execSetLight (fn : Nat) (params : List Byte) (tag : BitVec 32) (s : State) : Host.Outcome State Fault Refusal :=
  .next (s.command fn 8 params tag fun s => s.setLight fn params).tick

/-- LAUNCH (R491): Forms ENTRY and ARG capabilities and starts a task record's tender walk. -/
def execLaunch (fn : Nat) (params : List Byte) (tag : BitVec 32) (s : State) : Host.Outcome State Fault Refusal :=
  .next (if s.served fn 9 params tag && params.length == 96 then s.hostLaunch fn tag params else s).tick

/-- LAUNCH_REPLY (R491): The LAUNCH replies once every die's walk has ended or acknowledged. -/
def execLaunchReply (task : Nat) (s : State) : Host.Outcome State Fault Refusal := .next (s.launchReply task).tick

/-- READ_EVENTS (R488): Returns and removes records from the function's event list. -/
def execReadEvents (fn : Nat) (params : List Byte) (tag : BitVec 32) (s : State) : Host.Outcome State Fault Refusal :=
  .next (s.command fn 10 params tag fun s => s.readEvents fn params).tick

/-- ATTEST (R494): Returns a signed report of measurements and nonce. -/
def execAttest (fn : Nat) (params : List Byte) (tag : BitVec 32) (s : State) : Host.Outcome State Fault Refusal :=
  .next (s.command fn 11 params tag fun s => s.attest fn params).tick

/-- SET_POWER (R495): Sets the package power cap. -/
def execSetPower (fn : Nat) (params : List Byte) (tag : BitVec 32) (s : State) : Host.Outcome State Fault Refusal :=
  .next (s.command fn 12 params tag fun s => s.setPower fn params).tick

/-- RESET_FUNCTION (R485): Resets a PCI Express function, ending its contexts and keys. -/
def execResetFunction (fn : Nat) (params : List Byte) (tag : BitVec 32) (s : State) : Host.Outcome State Fault Refusal :=
  .next (s.command fn 13 params tag fun s => s.resetFunction fn params).tick

/-- UNKNOWN_COMMAND_CODE (R486): A mailbox submission with an unknown command code, or a wrong parameter-byte count, is answered with status 0x0001. -/
def execUnknownCommandCode (fn : Nat) (code : BitVec 16) (params : List Byte) (tag : BitVec 32) (s : State) : Host.Outcome State Fault Refusal :=
  .next (if s.served fn code params tag && paramSize code.toNat != some params.length then s.reply fn tag 1 [] else s).tick

end Sys2Proof.Machine
end

