-- ==== Sys2Proof/Machine/Float.lean ====
section
/-! DEFINITION. The floating-point forms (06 R126 to R140). -/

namespace Sys2Proof.Machine

/-- RM of the lane's slice (06 R127). -/
def rm (g : Group) (l : Lane) : BitVec 2 := fmodeRM (g.fmode l.no)

/-- The low bits of an operand in a format (06 R127). -/
def opnd (t : BitVec 2) (g : Group) (l : Lane) (c : BitVec 6) : Nat := (fpFmt t).cut (g.read l c).bits.toNat

/-- A result with whether it meets a subnormal (02 R49). -/
def withSub (t : BitVec 2) (ops : List Nat) (r : FpRes) : FpRes × Bool := (r, meetsSub (fpFmt t) ops r)

/-- A result as a register value (06 R127). -/
def fpVal (r : FpRes) : Val := ⟨BitVec.ofNat 128 r.bits, .data⟩

/-- The issue turns a group forfeits to a subnormal (02 R49). -/
def Group.pay (g : Group) : Group := g.pays 1

/-- A lane's outcome: blocks, a record, or a result with its flags and subnormal. -/
abbrev FpLane := Group → Lane → Option (Val × Flags × Bool)

/-- A floating-point form lane by lane, with the cost of subnormals (02 R44, R49). -/
noncomputable def fpAct (i : Instr) (f : FpLane) (s : State) : Host.Outcome State Fault Refusal :=
  let res (g : Group) (l : Lane) : Option (Val × Flags) := (f g l).map fun p => (p.1, p.2.1)
  issueBlk (srcs i) i affine (lanesBlock i res) (fun _ => none)
    (fun s =>
      let paid := (s.g.execs (isUniform i)).any fun l => match f s.g l with | some (_, _, b) => b | none => false
      match laneAct i res s with
      | .done s1 => .done (if paid then { s1 with g := s1.g.pay } else s1)
      | a => a) s

/-- A form whose symbolic operands block in every lane (03 R66; 06 R139). -/
noncomputable def fpBlocking (i : Instr) (f : Group → Lane → FpRes × Bool) (s : State) : Host.Outcome State Fault Refusal :=
  issue i strict (fun _ => none)
    (fun s =>
      let paid := (s.g.execs (isUniform i)).any fun l => (f s.g l).2
      match laneAct i (fun g l => some (fpVal (f g l).1, (f g l).1.flags)) s with
      | .done s1 => .done (if paid then { s1 with g := s1.g.pay } else s1)
      | a => a) s

/-- A long form (06 R129; 04 R85). -/
noncomputable def fpLong (i : Instr) (latency : Nat) (f : Group → Lane → FpRes × Bool) (d : BitVec 6) (s : State) :
    Host.Outcome State Fault Refusal :=
  issue i strict (fun _ => none)
    (fun s =>
      let paid := (s.g.execs (isUniform i)).any fun l => (f s.g l).2
      match longAct i latency (fun g l => (fpVal (f g l).1, (f g l).1.flags)) d s with
      | .done s1 => .done (if paid then { s1 with g := s1.g.pay } else s1)
      | a => a) s

/-- The latency of `fdiv` and `fsqrt` by type (04 R85). -/
def divLatency (t : BitVec 2) : Nat := if t = 0 then 26 else if t = 1 then 14 else 9

/-- The bits of constants a record's steps hold in a format (03 R62, R66). -/
def stepBits (fmt : BitVec 2) (steps : List FpStep) : Nat :=
  (steps.map fun st => (fpFmt fmt).width * (if st.op = 3 then 2 else 1)).sum

/-- A record with one more step, or none where the step is refused (03 R66). -/
def addStep (r : SymRec) (t : BitVec 2) (st : FpStep) : Option Val :=
  let go (steps : List FpStep) : Option Val :=
    if steps.length ≥ 2 ∨ stepBits t (steps ++ [st]) > 192 then none
    else some (symVal ⟨r.id, none, .fp t (steps ++ [st])⟩)
  match r.form with
  | .pure => go []
  | .fp f steps => if f = t then go steps else none
  | _ => none

/-- `fadd`, `fsub` and `fmul` on two operands: a step on a record where exactly one is symbolic (03 R66;
06 R139), else the result. -/
def fpStepTwo (op : BitVec 2) (t : BitVec 2) (a b : BitVec 6) : FpLane := fun g l =>
  let x := g.read l a
  let y := g.read l b
  let ox := opnd t g l a
  let oy := opnd t g l b
  match x.record, y.record with
  | some _, some _ => none
  | some r, none => (addStep r t ⟨op, 0, BitVec.ofNat 64 oy, 0, rm g l, g.lastIssue + 1⟩).map fun v => (v, Flags.zero, false)
  | none, some r => (addStep r t ⟨op, 1, BitVec.ofNat 64 ox, 0, rm g l, g.lastIssue + 1⟩).map fun v => (v, Flags.zero, false)
  | none, none =>
    let f := fpFmt t
    let res := if op = 0 then fpAdd f (rm g l) false ox oy else if op = 1 then fpAdd f (rm g l) true ox oy
      else fpMul f (rm g l) ox oy
    some (fpVal res, res.flags, meetsSub f [ox, oy] res)

/-- `fma`: a step on a record where exactly one operand is symbolic, else the result. -/
def fpStepFma (t : BitVec 2) (a b d : BitVec 6) : FpLane := fun g l =>
  let oa := opnd t g l a
  let ob := opnd t g l b
  let od := opnd t g l d
  let w (n : Nat) : Word := BitVec.ofNat 64 n
  match (g.read l a).record, (g.read l b).record, (g.read l d).record with
  | some r, none, none => (addStep r t ⟨3, 0, w ob, w od, rm g l, g.lastIssue + 1⟩).map fun v => (v, Flags.zero, false)
  | none, some r, none => (addStep r t ⟨3, 1, w oa, w od, rm g l, g.lastIssue + 1⟩).map fun v => (v, Flags.zero, false)
  | none, none, some r => (addStep r t ⟨3, 2, w oa, w ob, rm g l, g.lastIssue + 1⟩).map fun v => (v, Flags.zero, false)
  | none, none, none =>
    let res := fpFma (fpFmt t) (rm g l) false false oa ob od
    some (fpVal res, res.flags, meetsSub (fpFmt t) [oa, ob, od] res)
  | _, _, _ => none


/-- FADD (R128): Floating add rounded once in RM. -/
noncomputable def execFadd (b : BitVec 6) (a : BitVec 6) (n : Bool) (d : BitVec 6) (t : BitVec 2) (u : Bool) (s : State) : Host.Outcome State Fault Refusal :=
  fpAct (.fadd b a n d t u) (fpStepTwo 0 t a b) s

/-- FSUB (R128): Floating subtract rounded once. -/
noncomputable def execFsub (b : BitVec 6) (a : BitVec 6) (n : Bool) (d : BitVec 6) (t : BitVec 2) (u : Bool) (s : State) : Host.Outcome State Fault Refusal :=
  fpAct (.fsub b a n d t u) (fpStepTwo 1 t a b) s

/-- FMUL (R128): Floating multiply rounded once. -/
noncomputable def execFmul (b : BitVec 6) (a : BitVec 6) (n : Bool) (d : BitVec 6) (t : BitVec 2) (u : Bool) (s : State) : Host.Outcome State Fault Refusal :=
  fpAct (.fmul b a n d t u) (fpStepTwo 2 t a b) s

/-- FMA (R128): Fused d + a × b with one rounding. -/
noncomputable def execFma (b : BitVec 6) (a : BitVec 6) (n : Bool) (d : BitVec 6) (t : BitVec 2) (u : Bool) (s : State) : Host.Outcome State Fault Refusal :=
  fpAct (.fma b a n d t u) (fpStepFma t a b d) s

/-- FMS (R128): Fused d − a × b with one rounding. -/
noncomputable def execFms (b : BitVec 6) (a : BitVec 6) (n : Bool) (d : BitVec 6) (t : BitVec 2) (u : Bool) (s : State) : Host.Outcome State Fault Refusal :=
  fpBlocking (.fms b a n d t u) (fun g l => withSub t [opnd t g l a, opnd t g l b, opnd t g l d]
    (fpFma (fpFmt t) (rm g l) false true (opnd t g l a) (opnd t g l b) (opnd t g l d))) s

/-- FNMA (R128): Fused −(d + a × b) with one rounding. -/
noncomputable def execFnma (b : BitVec 6) (a : BitVec 6) (n : Bool) (d : BitVec 6) (t : BitVec 2) (u : Bool) (s : State) : Host.Outcome State Fault Refusal :=
  fpBlocking (.fnma b a n d t u) (fun g l => withSub t [opnd t g l a, opnd t g l b, opnd t g l d]
    (fpFma (fpFmt t) (rm g l) true true (opnd t g l a) (opnd t g l b) (opnd t g l d))) s

/-- FDIV (R129): Long correctly rounded division. -/
noncomputable def execFdiv (b : BitVec 6) (a : BitVec 6) (d : BitVec 6) (t : BitVec 2) (u : Bool) (s : State) : Host.Outcome State Fault Refusal :=
  fpLong (.fdiv b a d t u) (divLatency t) (fun g l => withSub t [opnd t g l a, opnd t g l b] (fpDiv (fpFmt t) (rm g l) (opnd t g l a) (opnd t g l b))) d s

/-- FSQRT (R129): Long correctly rounded square root. -/
noncomputable def execFsqrt (a : BitVec 6) (d : BitVec 6) (t : BitVec 2) (u : Bool) (s : State) : Host.Outcome State Fault Refusal :=
  fpLong (.fsqrt a d t u) (divLatency t) (fun g l => withSub t [opnd t g l a] (fpSqrt (fpFmt t) (rm g l) (opnd t g l a))) d s

/-- FEXP2 (R129): Long correctly rounded 2^a in FP32. -/
noncomputable def execFexp2 (a : BitVec 6) (d : BitVec 6) (u : Bool) (s : State) : Host.Outcome State Fault Refusal :=
  fpLong (.fexp2 a d u) 12 (fun g l => withSub f32 [opnd f32 g l a] (fpExp2 (rm g l) (opnd f32 g l a))) d s

/-- FLOG2 (R129): Long correctly rounded log2 a in FP32. -/
noncomputable def execFlog2 (a : BitVec 6) (d : BitVec 6) (u : Bool) (s : State) : Host.Outcome State Fault Refusal :=
  fpLong (.flog2 a d u) 12 (fun g l => withSub f32 [opnd f32 g l a] (fpLog2 (rm g l) (opnd f32 g l a))) d s

/-- FMIN (R130): IEEE minimum of a and b. -/
noncomputable def execFmin (b : BitVec 6) (a : BitVec 6) (n : Bool) (d : BitVec 6) (t : BitVec 2) (u : Bool) (s : State) : Host.Outcome State Fault Refusal :=
  fpBlocking (.fmin b a n d t u) (fun g l => withSub t [opnd t g l a, opnd t g l b] (fpMinMax (fpFmt t) false (opnd t g l a) (opnd t g l b))) s

/-- FMAX (R130): IEEE maximum of a and b. -/
noncomputable def execFmax (b : BitVec 6) (a : BitVec 6) (n : Bool) (d : BitVec 6) (t : BitVec 2) (u : Bool) (s : State) : Host.Outcome State Fault Refusal :=
  fpBlocking (.fmax b a n d t u) (fun g l => withSub t [opnd t g l a, opnd t g l b] (fpMinMax (fpFmt t) true (opnd t g l a) (opnd t g l b))) s

/-- FABS (R131): Clears the sign bit of a. -/
noncomputable def execFabs (a : BitVec 6) (n : Bool) (d : BitVec 6) (t : BitVec 2) (u : Bool) (s : State) : Host.Outcome State Fault Refusal :=
  fpBlocking (.fabs a n d t u) (fun g l => (⟨(opnd t g l a) % 2 ^ ((fpFmt t).width - 1), Flags.zero, false⟩, false)) s

/-- FNEG (R131): Inverts the sign bit of a. -/
noncomputable def execFneg (a : BitVec 6) (n : Bool) (d : BitVec 6) (t : BitVec 2) (u : Bool) (s : State) : Host.Outcome State Fault Refusal :=
  fpBlocking (.fneg a n d t u) (fun g l => (⟨(opnd t g l a) ^^^ 2 ^ ((fpFmt t).width - 1), Flags.zero, false⟩, false)) s

/-- FSGN (R131): Gives a's magnitude with b's sign. -/
noncomputable def execFsgn (b : BitVec 6) (a : BitVec 6) (n : Bool) (d : BitVec 6) (t : BitVec 2) (u : Bool) (s : State) : Host.Outcome State Fault Refusal :=
  fpBlocking (.fsgn b a n d t u) (fun g l => (⟨(opnd t g l a) % 2 ^ ((fpFmt t).width - 1) + (opnd t g l b) / 2 ^ ((fpFmt t).width - 1) * 2 ^ ((fpFmt t).width - 1), Flags.zero, false⟩, false)) s

/-- FCEQ (R132): Writes 1 when a = b. -/
noncomputable def execFceq (b : BitVec 6) (a : BitVec 6) (n : Bool) (d : BitVec 6) (t : BitVec 2) (u : Bool) (s : State) : Host.Outcome State Fault Refusal :=
  fpBlocking (.fceq b a n d t u) (fun g l => withSub t [opnd t g l a, opnd t g l b] (fpCompare (fpFmt t) 0 (opnd t g l a) (opnd t g l b))) s

/-- FCLT (R132): Writes 1 when a < b. -/
noncomputable def execFclt (b : BitVec 6) (a : BitVec 6) (n : Bool) (d : BitVec 6) (t : BitVec 2) (u : Bool) (s : State) : Host.Outcome State Fault Refusal :=
  fpBlocking (.fclt b a n d t u) (fun g l => withSub t [opnd t g l a, opnd t g l b] (fpCompare (fpFmt t) 1 (opnd t g l a) (opnd t g l b))) s

/-- FCLE (R132): Writes 1 when a ≤ b. -/
noncomputable def execFcle (b : BitVec 6) (a : BitVec 6) (n : Bool) (d : BitVec 6) (t : BitVec 2) (u : Bool) (s : State) : Host.Outcome State Fault Refusal :=
  fpBlocking (.fcle b a n d t u) (fun g l => withSub t [opnd t g l a, opnd t g l b] (fpCompare (fpFmt t) 2 (opnd t g l a) (opnd t g l b))) s

/-- FCUN (R132): Writes 1 when either operand is a NaN. -/
noncomputable def execFcun (b : BitVec 6) (a : BitVec 6) (n : Bool) (d : BitVec 6) (t : BitVec 2) (u : Bool) (s : State) : Host.Outcome State Fault Refusal :=
  fpBlocking (.fcun b a n d t u) (fun g l => withSub t [opnd t g l a, opnd t g l b] (fpCompare (fpFmt t) 3 (opnd t g l a) (opnd t g l b))) s

/-- FCLASS (R133): Writes a one-hot class mask of a. -/
noncomputable def execFclass (a : BitVec 6) (n : Bool) (d : BitVec 6) (t : BitVec 2) (u : Bool) (s : State) : Host.Outcome State Fault Refusal :=
  fpBlocking (.fclass a n d t u) (fun g l => (⟨fpClass (fpFmt t) (opnd t g l a), Flags.zero, false⟩, false)) s

/-- FROUND (R134): Rounds a to an integral value in its own format. -/
noncomputable def execFround (a : BitVec 6) (n : Bool) (d : BitVec 6) (t : BitVec 2) (u : Bool) (s : State) : Host.Outcome State Fault Refusal :=
  fpBlocking (.fround a n d t u) (fun g l => withSub t [opnd t g l a] (fpRound (fpFmt t) (rm g l) (opnd t g l a))) s

/-- FCVT_FF (R136): Converts between floating formats. -/
noncomputable def execFcvtFf (sc : BitVec 2) (a : BitVec 6) (n : Bool) (d : BitVec 6) (t : BitVec 2) (u : Bool) (s : State) : Host.Outcome State Fault Refusal :=
  fpBlocking (.fcvtFf sc a n d t u) (fun g l => withSub sc [opnd sc g l a] (fpConvert (fpFmt sc) (fpFmt t) (rm g l) (opnd sc g l a))) s

/-- FCVT_FI (R137): Converts a float to an integer type with saturation in a chosen mode. -/
noncomputable def execFcvtFi (rr : BitVec 3) (imm : BitVec 3) (a : BitVec 6) (n : Bool) (d : BitVec 6) (t : BitVec 2) (u : Bool) (s : State) : Host.Outcome State Fault Refusal :=
  fpBlocking (.fcvtFi rr imm a n d t u) (fun g l => withSub t [opnd t g l a] (let r := fpToInt (fpFmt t) (if rr = 4 then rm g l else rr.setWidth 2) imm (opnd t g l a); ⟨r.1.toNat, r.2, false⟩)) s

/-- FCVT_IF (R138): Converts an integer type to a float. -/
noncomputable def execFcvtIf (imm : BitVec 3) (a : BitVec 6) (n : Bool) (d : BitVec 6) (t : BitVec 2) (u : Bool) (s : State) : Host.Outcome State Fault Refusal :=
  fpBlocking (.fcvtIf imm a n d t u) (fun g l => withSub t [] (fpOfInt (fpFmt t) (rm g l) (intOperand imm (g.read l a).word))) s

/-- COMPACT_FADD_F32 (R101): Compact fadd.f32. -/
noncomputable def execCompactFaddF32 (q : BitVec 5) (p : BitVec 5) (s : State) : Host.Outcome State Fault Refusal :=
  fpAct (.compactFaddF32 q p) (fpStepTwo 0 f32 (kc p) (kc q)) s

/-- COMPACT_FMUL_F32 (R101): Compact fmul.f32. -/
noncomputable def execCompactFmulF32 (q : BitVec 5) (p : BitVec 5) (s : State) : Host.Outcome State Fault Refusal :=
  fpAct (.compactFmulF32 q p) (fpStepTwo 2 f32 (kc p) (kc q)) s

end Sys2Proof.Machine
end

