-- ==== Sys2Proof/Machine/HostLink.lean ====
section
/-! DEFINITION. The host link and what stands beside it (26): register and window accesses, functions, power-on, the issue duty and
the Lamp port. -/

namespace Sys2Proof.Machine

/-! ### Registers and the mailbox page (26 R479, R483, R484) -/

/-- Whether a function is there for the host: the link is trained and the function enabled. -/
def State.reachable (s : State) (fn : Nat) : Bool := s.pkg.firmware.booted && s.pkg.functions.any fun f => f.no == fn && f.enabled

/-- A byte of a mailbox page. -/
def PcieFn.byte (f : PcieFn) (a : Nat) : Byte := (mapGet a f.page).getD 0

/-- Bytes of a mailbox page. -/
def PcieFn.bytes (f : PcieFn) (a n : Nat) : List Byte := (upFrom a n).map f.byte

/-- A write of 8 bytes into COMMAND or the parameters; other bytes of the page are the firmware's. -/
def PcieFn.put (f : PcieFn) (off : Nat) (v : Word) : PcieFn :=
  let ok (a : Nat) : Bool := decide ((8 ≤ a ∧ a < 16) ∨ (0x40 ≤ a ∧ a < 0x800))
  { f with page := (natBytes 8 v.toNat).zipIdx.foldl (fun m b => if ok (off + b.2) then mapSet (off + b.2) b.1 m else m) f.page }

/-- GO written 1 submits the command while the function is ready (26 R484). -/
def State.submit (s : State) (fn : Nat) : State :=
  let take (f : PcieFn) : PcieFn :=
    let command := field (f.bytes 8 8) 0 8
    { f with
      go := true
      busy := some ⟨BitVec.ofNat 16 command, f.bytes 0x40 (min 1984 (command / 2 ^ 16 % 2 ^ 16)), BitVec.ofNat 32 (command / 2 ^ 32)⟩ }
  if s.pkg.functions.any fun f => f.no == fn && f.busy.isNone then
    let s1 := s.mapFn fn take
    { s1 with pkg := { s1.pkg with firmware := { s1.pkg.firmware with serving := s1.pkg.firmware.serving ++ [fn] } } }
  else s

/-- A host write at BAR0. -/
def State.hostWrite (s : State) (fn off : Nat) (v : Word) : State :=
  if !s.reachable fn then s
  else if off = 0 then (if v = 1 then s.submit fn else s)
  else if off < 0x1000 then s.mapFn fn fun f => f.put off v
  else if off = 0x1000 then s.mapFn fn fun f => { f with window := v &&& 0x80FFFFF00000FFFF }
  else if off = 0x2000 ∧ fn = 0 then { s with pkg := { s.pkg with lamp := { s.pkg.lamp with ctl := v &&& 0xFF3F } } }
  else s

/-! ### BAR2 (26 R480) -/

/-- The window context of a function, if its window is enabled. -/
def State.windowCtx (s : State) (f : PcieFn) : Option Ctx :=
  if f.window.getLsbD 63 then s.ctx (f.window.extractLsb' 0 16).toNat else none

/-- Where a byte of a context's virtual space lies for the host, with its key: none if it is not mapped with the permission, if no
key is installed, or if it lies in another package. -/
def State.hostPlace (s : State) (c : Ctx) (va : Nat) (write : Bool) : Option (Nat × Option Nat) :=
  (s.placeOf c.asid c.mwb c.swb ⟨!write, write, false, false, false⟩ 2 va).map fun p => (p.1, p.2.1)

/-- An access of the host that is not performed is recorded (26 R480). -/
def State.hostMiss (s : State) (fn va : Nat) : State := s.hostEvent fn (recordBits 8 3 0 0 (BitVec.ofNat 64 va))

/-- The virtual address of a BAR2 offset. -/
def windowAddr (f : PcieFn) (off : Nat) : Nat := (f.window.extractLsb' 36 20).toNat * 2 ^ 36 + off

/-- The places of some bytes, or none if one has none. -/
def State.hostPlaces (s : State) (c : Ctx) (va n : Nat) (write : Bool) : Option (List (Nat × Option Nat)) :=
  (upFrom va n).foldr (fun a acc => match s.hostPlace c a write, acc with | some p, some l => some (p :: l) | _, _ => none) (some [])

/-- A host read through BAR2: its completion. -/
def State.bar2Read (s : State) (fn off size : Nat) : State :=
  match s.pkg.functions.find? fun f => f.no == fn with
  | none => s
  | some f =>
    let va := windowAddr f off
    let fill (s : State) (bs : List Byte) (ep : Bool) : State := s.mapFn fn fun f => { f with read := (bs, ep) }
    let miss : State := fill (s.hostMiss fn va) (List.replicate size 0xFF) false
    if !s.reachable fn || decide (2 ^ 36 ≤ off) then s
    else match s.windowCtx f with
      | none => miss
      | some c => match s.hostPlaces c va size false with
        | none => miss
        | some ps =>
          let look : MemOp := .load 1 false false
          let vals := ps.map fun p => (s.atHome look p.1 p.2).val
          let s1 := ps.foldl (fun s p => { s.inspected look p.1 p.2 with mem := (s.atHome look p.1 p.2).mem }) s
          fill s1 (vals.map fun v => v.bits.setWidth 8) (vals.any fun v => v.tag == .poison)

/-- A host write through BAR2. -/
def State.bar2Write (s : State) (fn off : Nat) (data : List Byte) : State :=
  match s.pkg.functions.find? fun f => f.no == fn with
  | none => s
  | some f =>
    let va := windowAddr f off
    if !s.reachable fn || decide (2 ^ 36 ≤ off) then s
    else match s.windowCtx f with
      | none => s.hostMiss fn va
      | some c => match s.hostPlaces c va data.length true with
        | none => s.hostMiss fn va
        | some ps =>
          (ps.zip data).foldl (fun s q =>
            let put : MemOp := .store 1 (q.2.setWidth 128) false
            let p := s.atHome put q.1.1 q.1.2
            let s1 : State := { s.inspected put q.1.1 q.1.2 with mem := p.mem }
            if p.refused.isSome then s1
            else
              let s2 := s1.noticed 0 q.1.1 1
              { s2 with creators := s2.creators.filter fun k => !decide (k.pa < q.1.1 + 1 ∧ q.1.1 < k.pa + 32) }) s

/-! ### Functions, boot and power (26 R478, R493, R495) -/

/-- The host enables virtual functions 1 to `vfs` of 15. -/
def State.enableVfs (s : State) (vfs : Nat) : State :=
  if !s.pkg.firmware.booted then s
  else
    let have_ := s.pkg.functions.map fun f => if f.no = 0 then f else { f with enabled := decide (f.no ≤ vfs) }
    let more := ((upFrom 1 (min vfs 15)).filter fun n => !(have_.any fun f => f.no == n)).map fun n => { PcieFn.reset n with enabled := true }
    { s with pkg := { s.pkg with functions := have_ ++ more } }

/-- The ROM at power-on: it measures itself, the firmware extensions it verifies, and the owner keys, and trains the link. -/
def State.boot (s : State) : State :=
  let f := s.pkg.firmware
  if f.booted then s
  else
    let m0 := f.measures.setIfInBounds 0 Config.romDigest
    let m1 := if Config.flashVerified then m0.setIfInBounds 1 (extend (m0.toList.getD 1 0) (natBytes 32 Config.flashDigest.toNat)) else m0
    let m2 := m1.setIfInBounds 2 (extend (m1.toList.getD 2 0) (natBytes 32 Config.ownerDigest.toNat))
    { s with pkg := { s.pkg with firmware := { f with booted := true, extension := Config.flashVerified, measures := m2 } } }

/-- Every 1 ms the firmware sets the issue duty from the draw and the cap, by a rule the spec leaves open: from 1 to 64; a junction at its
limit lowers it, and raises a machine-check event at 1 (log 26). -/
def State.powerTick (s : State) (draw : Nat) (hot : Bool) : State :=
  let f := s.pkg.firmware
  let free := (Config.freeWord s.fresh).toNat
  let n := if hot then (if f.duty ≤ 1 then 1 else 1 + free % (f.duty - 1)) else 1 + free % 64
  let s1 : State := { s with fresh := s.fresh + 1, pkg := { s.pkg with firmware := { f with duty := n, draw := draw } } }
  if hot && n == 1 then s1.mapFn 0 fun f => { f with vectors := f.vectors ||| 8 } else s1

/-! ### The Lamp port (26 R496, R497) -/

/-- The COORD of a die's state-store quad (17 R347). -/
def storeCoord (die : Nat) : Nat := die * 1024 + 136 * 4

/-- A loss record. -/
def lossRecord (die clk lost : Nat) : Quad :=
  (BitVec.ofNat 64 lost ++ BitVec.ofNat 32 clk ++ BitVec.ofNat 13 (storeCoord die) ++ 0#15 ++ 4#4 : BitVec 128)

/-- The oldest three records of a die leave in a frame; a loss record follows those kept, if records were lost. -/
def State.lampFrame (s : State) (die : Nat) : State :=
  let l := s.pkg.lamp
  match l.bufs.find? fun b => b.die == die with
  | none => s
  | some b =>
    if b.recs.isEmpty then s
    else
      let body := ((b.recs.take 3).flatMap fun r => natBytes 16 r.toNat)
      let body48 := body ++ List.replicate (48 - body.length) 0
      let frame := natBytes 4 0x504D414C ++ natBytes 4 l.seq ++ natBytes 4 (crc32c body48).toNat ++ natBytes 4 0 ++ body48
      let kept := b.recs.drop 3
      let b1 := if b.lost = 0 then { b with recs := kept } else { b with recs := kept ++ [lossRecord die s.clk b.lost], lost := 0 }
      { s with pkg := { s.pkg with lamp := { l with
          seq := (l.seq + 1) % 2 ^ 32, frames := l.frames ++ [frame], bufs := b1 :: l.bufs.filter fun x => x.die != die } } }

/-- Whether a time record of a die is due: once for every 2^20 clk. -/
def State.timeDue (s : State) (die : Nat) : Bool :=
  let l := s.pkg.lamp
  decide (die < 6) && l.ctl.getLsbD die && l.ctl.getLsbD 13 &&
    (match l.bufs.find? fun b => b.die == die with | some b => decide (b.timed < s.clk / 2 ^ 20) | none => decide (0 < s.clk / 2 ^ 20))

/-- A time record of a die. -/
def State.lampTime (s : State) (die : Nat) : State :=
  if !s.timeDue die then s
  else
    let bits := (BitVec.ofInt 64 s.nanos ++ BitVec.ofNat 32 s.clk ++ BitVec.ofNat 13 (die * 1024) ++ 0#15 ++ 5#4 : BitVec 128)
    let s1 := s.lampPut die 5 bits
    { s1 with pkg := { s1.pkg with lamp := { s1.pkg.lamp with bufs := s1.pkg.lamp.bufs.map fun b =>
        if b.die = die then { b with timed := s.clk / 2 ^ 20 } else b } } }

/-! ### Meanings -/

/-- HOST_REGISTER_WRITE (R479): A host write to a BAR0 register without a row of its own, such as window or Lamp control. -/
def execHostRegisterWrite (fn : Nat) (off : Nat) (value : Word) (s : State) : Host.Outcome State Fault Refusal := .next (s.hostWrite fn off value).tick

/-- HOST_BAR2_READ (R480): A host read through BAR2 is performed under the window context. -/
def execHostBar2Read (fn : Nat) (off : Nat) (size : Nat) (s : State) : Host.Outcome State Fault Refusal := .next (s.bar2Read fn off size).tick

/-- HOST_BAR2_WRITE (R480): A host posted write through BAR2 is performed under the window context. -/
def execHostBar2Write (fn : Nat) (off : Nat) (data : List Byte) (s : State) : Host.Outcome State Fault Refusal := .next (s.bar2Write fn off data).tick

/-- FUNCTION_LEVEL_RESET (R478): A PCIe function-level reset acts as RESET_FUNCTION of that function. -/
def execFunctionLevelReset (fn : Nat) (s : State) : Host.Outcome State Fault Refusal :=
  .next (if s.reachable fn then s.resetFn fn else s).tick

/-- SR_IOV_ENABLE (R478): The host enables virtual functions 1 to 15 through the physical function's SR-IOV capability. -/
def execSrIovEnable (vfs : Nat) (s : State) : Host.Outcome State Fault Refusal := .next (s.enableVfs vfs).tick

/-- POWER_ON (R493): The ROM trains memory, measures and verifies firmware and trains the link. -/
def execPowerOn (s : State) : Host.Outcome State Fault Refusal := .next s.boot.tick

/-- POWER_CONTROL_TICK (R495): Every 1 ms firmware sets the issue duty from draw, cap and temperature. -/
def execPowerControlTick (draw : Nat) (hot : Bool) (s : State) : Host.Outcome State Fault Refusal := .next (s.powerTick draw hot).tick

/-- LAMP_FRAME (R496): Buffered records are sent as a 64-byte Lamp frame. -/
def execLampFrame (die : Nat) (s : State) : Host.Outcome State Fault Refusal := .next (s.lampFrame die).tick

/-- LAMP_TIME_RECORD (R497): Every 2^20 clk each die emits a time record. -/
def execLampTimeRecord (die : Nat) (s : State) : Host.Outcome State Fault Refusal := .next (s.lampTime die).tick

end Sys2Proof.Machine
end

