-- ==== Sys2Proof/Machine/Lane.lean ====
section
/-! DEFINITION. Lane data, votes, reductions, scans, intersections and mask registers (09 R186 to R193, R196). -/

namespace Sys2Proof.Machine

/-- A lane instruction: the results of the active lanes together, written as `deliver` says (09 R186). -/
noncomputable def laneForm (i : Instr) (f : Group → List (Nat × Val)) (s : State) : Host.Outcome State Fault Refusal :=
  issue i strict (fun _ => none) (fun s => deliver i (f s.g) [] s) s

/-- The value of a register in each present lane. -/
def Group.col (g : Group) (c : BitVec 6) : List (Nat × Val) := g.acts.map fun l => (l.no, g.read l c)

/-- A shuffle (09 R189): each lane's source lane from its own number and B[4:0]; an absent one gives its own a. -/
def shuffle (g : Group) (a b : BitVec 6) (src : Nat → Nat → Option Nat) : List (Nat × Val) :=
  g.acts.map fun l =>
    let own := g.read l a
    (l.no, match src l.no ((g.read l b).word.toNat % 32) with
      | some j => ((g.col a).lookup j).getD own
      | none => own)

/-- The lanes whose a is not 0 (09 R190). -/
def votes (g : Group) (a : BitVec 6) : List Lane := g.acts.filter fun l => (g.read l a).word != 0

/-- One result for every active lane. -/
def Group.all (g : Group) (v : Val) : List (Nat × Val) := g.acts.map fun l => (l.no, v)

/-- The 32 places of the tree over present lanes (09 R191). -/
def Group.leaves {α : Type} (g : Group) (f : Lane → α) : List (Option α) :=
  (upFrom 0 32).map fun n => (g.acts.find? fun l => l.no == n).map f

/-- A node of a floating-point reduction: the value, the flags raised below it, and whether a subnormal was met. -/
abbrev RedNode := Nat × Flags × Bool

/-- Two nodes combined (09 R191): a node meets a subnormal in its operands or its result (02 R49). -/
def redNode (op : Nat → Nat → FpRes) (x y : RedNode) : RedNode :=
  let r := op x.1 y.1
  (r.bits, (x.2.1.or y.2.1).or r.flags, x.2.2 || y.2.2 || meetsSub (fpFmt f32) [x.1, y.1] r)

/-- A floating-point reduction in the mode of the lowest active lane's slice (09 R191). -/
noncomputable def redFloat (i : Instr) (a : BitVec 6) (op : BitVec 2 → Nat → Nat → FpRes) (s : State) : Host.Outcome State Fault Refusal :=
  issue i strict (fun _ => none) (fun s =>
    let rm := fmodeRM (s.g.fmode s.g.lead)
    let leaf (l : Lane) : RedNode :=
      let x := (fpFmt f32).cut (s.g.read l a).bits.toNat
      (x, Flags.zero, (fpFmt f32).isSub x)
    match treeFold (redNode (op rm)) 5 (s.g.leaves leaf) with
    | none => .done s
    | some (v, fl, sub) =>
      match deliver i (s.g.all (dataNat v)) (s.g.acts.map fun l => (l.no, fl)) s with
      | .done s1 => .done (if sub then { s1 with g := s1.g.pay } else s1)
      | act => act) s

/-- Running sums over the present lanes (09 R192). -/
def runningSums : Word → List (Nat × Val) → List (Nat × Val)
  | _, [] => []
  | acc, (n, v) :: t => (n, dataWord (acc + v.word)) :: runningSums (acc + v.word) t

/-- A sentinel-terminated list held across the present lanes (09 R193). -/
def sentinelList : List (Nat × Val) → List (Nat × BitVec 32)
  | [] => []
  | (n, v) :: t => if v.bits.extractLsb' 0 32 = 0xFFFFFFFF then [] else (n, v.bits.extractLsb' 0 32) :: sentinelList t

/-- `intersect` (09 R193). -/
def intersectVals (g : Group) (a b : BitVec 6) : List (Nat × Val) :=
  let p := sentinelList (g.col a)
  let q := sentinelList (g.col b)
  g.acts.map fun l => (l.no,
    match p.lookup l.no with
    | none => dataNat 0xFFFFFFFF
    | some x => match q.find? fun y => y.2 == x with
      | some (j, _) => dataNat j
      | none => dataNat 0xFFFFFFFF)

/-- A mask register written (09 R196); the gang's other parts have it when the run ends (04 R88). -/
def State.setM (s : State) (n : Nat) (v : BitVec 32) : State :=
  { s with g := { s.g with m := s.g.m.setIfInBounds n v, wm := s.g.wm ||| BitVec.ofNat 8 (2 ^ n) } }

/-- m[n]. -/
def Group.mr (g : Group) (n : Nat) : BitVec 32 := g.m.toList.getD n 0

/-- A mask operation. -/
noncomputable def maskForm (i : Instr) (d : BitVec 6) (f : Group → BitVec 32) (s : State) : Host.Outcome State Fault Refusal :=
  issue i strict (fun _ => none) (fun s => .done (s.setM d.toNat (f s.g))) s


/-- LANE_ID (R188): Writes each active lane its lane number. -/
noncomputable def execLaneId (d : BitVec 6) (s : State) : Host.Outcome State Fault Refusal :=
  laneForm (.laneId d) (fun g => g.acts.map fun l => (l.no, dataNat l.no)) s

/-- LANE_GET (R189): Shuffles a from lane B[4:0]. -/
noncomputable def execLaneGet (b : BitVec 6) (a : BitVec 6) (d : BitVec 6) (s : State) : Host.Outcome State Fault Refusal :=
  laneForm (.laneGet b a d) (fun g => shuffle g a b (fun _ k => some k)) s

/-- LANE_RISE (R189): Shuffles a from lane i − B[4:0]. -/
noncomputable def execLaneRise (b : BitVec 6) (a : BitVec 6) (d : BitVec 6) (s : State) : Host.Outcome State Fault Refusal :=
  laneForm (.laneRise b a d) (fun g => shuffle g a b (fun n k => if k ≤ n then some (n - k) else none)) s

/-- LANE_FALL (R189): Shuffles a from lane i + B[4:0]. -/
noncomputable def execLaneFall (b : BitVec 6) (a : BitVec 6) (d : BitVec 6) (s : State) : Host.Outcome State Fault Refusal :=
  laneForm (.laneFall b a d) (fun g => shuffle g a b (fun n k => some (n + k))) s

/-- LANE_FLIP (R189): Shuffles a from lane i XOR B[4:0]. -/
noncomputable def execLaneFlip (b : BitVec 6) (a : BitVec 6) (d : BitVec 6) (s : State) : Host.Outcome State Fault Refusal :=
  laneForm (.laneFlip b a d) (fun g => shuffle g a b (fun n k => some (n ^^^ k))) s

/-- LANE_ANY (R190): Vote: 1 if any active lane has A ≠ 0. -/
noncomputable def execLaneAny (a : BitVec 6) (d : BitVec 6) (s : State) : Host.Outcome State Fault Refusal :=
  laneForm (.laneAny a d) (fun g => g.all (dataWord (boolWord (!(votes g a).isEmpty)))) s

/-- LANE_ALL (R190): Vote: 1 if every active lane has A ≠ 0. -/
noncomputable def execLaneAll (a : BitVec 6) (d : BitVec 6) (s : State) : Host.Outcome State Fault Refusal :=
  laneForm (.laneAll a d) (fun g => g.all (dataWord (boolWord ((votes g a).length == g.acts.length)))) s

/-- LANE_BITS (R190): Vote: mask of active lanes with A ≠ 0. -/
noncomputable def execLaneBits (a : BitVec 6) (d : BitVec 6) (s : State) : Host.Outcome State Fault Refusal :=
  laneForm (.laneBits a d) (fun g => g.all (dataNat (laneMask (votes g a)).toNat)) s

/-- RED_ADD_I (R191): Integer sum over present lanes by the fixed tree. -/
noncomputable def execRedAddI (a : BitVec 6) (d : BitVec 6) (s : State) : Host.Outcome State Fault Refusal :=
  laneForm (.redAddI a d) (fun g =>
    match treeFold (fun x y => x + y) 5 (g.leaves fun l => (g.read l a).word) with
    | some w => g.all (dataWord w)
    | none => []) s

/-- RED_ADD_F32 (R191): FP32 sum over present lanes by the fixed tree. -/
noncomputable def execRedAddF32 (a : BitVec 6) (d : BitVec 6) (s : State) : Host.Outcome State Fault Refusal :=
  redFloat (.redAddF32 a d) a (fun rm x y => fpAdd (fpFmt f32) rm false x y) s

/-- RED_MAX_F32 (R191): FP32 maximum over present lanes. -/
noncomputable def execRedMaxF32 (a : BitVec 6) (d : BitVec 6) (s : State) : Host.Outcome State Fault Refusal :=
  redFloat (.redMaxF32 a d) a (fun _ x y => fpMinMax (fpFmt f32) true x y) s

/-- RED_MIN_F32 (R191): FP32 minimum over present lanes. -/
noncomputable def execRedMinF32 (a : BitVec 6) (d : BitVec 6) (s : State) : Host.Outcome State Fault Refusal :=
  redFloat (.redMinF32 a d) a (fun _ x y => fpMinMax (fpFmt f32) false x y) s

/-- SCAN_ADD_I (R192): Inclusive integer prefix sum across lanes. -/
noncomputable def execScanAddI (a : BitVec 6) (d : BitVec 6) (s : State) : Host.Outcome State Fault Refusal :=
  laneForm (.scanAddI a d) (fun g => runningSums 0 (g.col a)) s

/-- INTERSECT (R193): Matches two sentinel-terminated lane lists. -/
noncomputable def execIntersect (b : BitVec 6) (a : BitVec 6) (d : BitVec 6) (s : State) : Host.Outcome State Fault Refusal :=
  laneForm (.intersect b a d) (fun g => intersectVals g a b) s

/-- M_AND (R196): Mask register AND. -/
noncomputable def execMAnd (b : BitVec 6) (a : BitVec 6) (d : BitVec 6) (s : State) : Host.Outcome State Fault Refusal :=
  maskForm (.mAnd b a d) d (fun g => g.mr a.toNat &&& g.mr b.toNat) s

/-- M_OR (R196): Mask register OR. -/
noncomputable def execMOr (b : BitVec 6) (a : BitVec 6) (d : BitVec 6) (s : State) : Host.Outcome State Fault Refusal :=
  maskForm (.mOr b a d) d (fun g => g.mr a.toNat ||| g.mr b.toNat) s

/-- M_NOT (R196): Mask register NOT. -/
noncomputable def execMNot (a : BitVec 6) (d : BitVec 6) (s : State) : Host.Outcome State Fault Refusal :=
  maskForm (.mNot a d) d (fun g => ~~~(g.mr a.toNat)) s

/-- M_MOV (R196): Copies one mask register to another. -/
noncomputable def execMMov (a : BitVec 6) (d : BitVec 6) (s : State) : Host.Outcome State Fault Refusal :=
  maskForm (.mMov a d) d (fun g => g.mr a.toNat) s

/-- M_MOV_FROM_K (R196): Writes a mask register from the lowest active lane's k register. -/
noncomputable def execMMovFromK (a : BitVec 6) (d : BitVec 6) (s : State) : Host.Outcome State Fault Refusal :=
  issue (.mMovFromK a d) strict (fun _ => none) (fun s =>
    match s.g.acts with
    | l :: _ => .done (s.setM d.toNat ((s.g.read l a).bits.extractLsb' 0 32))
    | [] => .done s) s

/-- M_MOV_TO_K (R196): Writes a mask register into a k register of every active lane. -/
noncomputable def execMMovToK (a : BitVec 6) (d : BitVec 6) (s : State) : Host.Outcome State Fault Refusal :=
  laneForm (.mMovToK a d) (fun g => g.all (dataNat (g.mr a.toNat).toNat)) s

/-- M_MOV_ACTIVE (R196): Writes the active lane mask into a mask register. -/
noncomputable def execMMovActive (d : BitVec 6) (s : State) : Host.Outcome State Fault Refusal :=
  maskForm (.mMovActive d) d (fun g => g.mask) s

end Sys2Proof.Machine
end

