-- ==== Sys2Proof/Machine/Sync.lean ====
section
/-! DEFINITION. Semaphores, shared registers, barriers, stage rings, `step` and `wait` (09 R200 to R210; 07 R153, R154, R158). -/

namespace Sys2Proof.Machine

/-! ### Semaphores and shared registers (07 R153, R154; 09 R200, R201) -/

/-- A semaphore of a core. -/
def Core.sem (c : Core) (n : Nat) : Sem := c.sems.toList.getD n ⟨0, []⟩

/-- Sets a semaphore. -/
def Core.setSem (c : Core) (n : Nat) (x : Sem) : Core := { c with sems := c.sems.setIfInBounds n x }

/-- An instruction that a group waits at completes (07 R153). -/
noncomputable def State.complete (s : State) (gid : Nat) (i : Instr) : State :=
  s.onGroup gid fun s => { (finish i true s (.done s)).closeRun with clk := s.clk }

/-- `sem.p` (07 R153; 09 R200): takes a unit, or sleeps in arrival order until `sem.v` hands it one. -/
noncomputable def semTake (i : Instr) (n : Nat) (s : State) : Act :=
  if s.g.sent then .wait s (.sem n)
  else
    withFollower i s fun s =>
      let x := (s.core s.g.core).sem n
      if x.count ≠ 0 then .done (s.mapCore s.g.core fun c => c.setSem n { x with count := x.count - 1 })
      else
        .wait (({ s with g := { s.g with sent := true } }).mapCore s.g.core fun c =>
          c.setSem n { x with sleepers := x.sleepers ++ [s.g.gid] }) (.sem n)

/-- `sem.v` (07 R153; 09 R208): after a release at core scope, hands a unit to the oldest sleeper, which goes on
past its `sem.p`, or counts it. -/
noncomputable def semGive (i : Instr) (n : Nat) (s : State) : Act :=
  withFollower i s fun s => withFence false s fun s =>
    let x := (s.core s.g.core).sem n
    match x.sleepers with
    | [] => .done (s.mapCore s.g.core fun c => c.setSem n { x with count := min (x.count + 1) 65535 })
    | gid :: t =>
      .done ((s.mapCore s.g.core fun c => c.setSem n { x with sleepers := t }).complete gid (.semP (BitVec.ofNat 6 n)))

/-! ### Barriers (09 R202 to R206; 18 R389) -/

/-- The barrier of a scope and number for the issuing group. -/
def Group.barKey (g : Group) (scope id : Nat) (top : Bool) : BarKey := ⟨g.sp.task, scope, scopeInst scope g.core, top, id⟩

/-- The number of barriers that the partitions of a barrier's members allow (18 R389). -/
def State.barLimit (s : State) (k : BarKey) : Nat :=
  (s.g :: s.members k).foldl (fun n h =>
    match s.partition (quadOf h.core) with
    | some p => min n (if k.top then p.topmark else p.plain)
    | none => n) 16

/-- The group's arrival at a barrier. -/
def Group.arrival (g : Group) (k : BarKey) : Option Arrival := g.arrivals.find? fun a => a.key == k

/-- Why an arrival is refused: a number beyond the partition's limit (18 R389), or an arrival still outstanding
(09 R204). -/
def State.arriveTrap (s : State) (k : BarKey) : Option Trap :=
  let v := k.scope * 16 + k.id
  if s.barLimit k ≤ k.id then some (trap 0x20 (BitVec.ofNat 64 ((if k.top then 0x700 else 0x600) + v)))
  else if s.g.parts.all fun p => (s.barrier k).arrived.contains p then some (trap 0x20 (BitVec.ofNat 64 (0x300 + v)))
  else none

/-- An arrival is recorded, and the barrier released if it was the last (09 R203). -/
def State.arrive (s : State) (k : BarKey) (value : Option Word) (at_ : Option Word) : State :=
  let b := s.barrier k
  let values := match value with
    | some v => mapSet s.g.gang (maxHalves v ((mapGet s.g.gang b.values).getD 0)) b.values
    | none => b.values
  let g := { s.g with arrivals := ⟨k, b.gen, at_⟩ :: s.g.arrivals.filter fun a => a.key != k }
  ({ s with g := g }).release { b with arrived := (b.arrived ++ s.g.parts).eraseDups, values := values }

/-- The group goes on past a barrier: its arrival is no longer outstanding. -/
def State.passed (s : State) (k : BarKey) : State := { s with g := { s.g with arrivals := s.g.arrivals.filter fun x => x.key != k } }

/-- Waits until the generation of the group's arrival has been released (09 R204). -/
def State.await (s : State) (k : BarKey) (cont : State → Act) : Act :=
  match s.g.arrival k with
  | none => cont s
  | some a =>
    if a.gen < (s.barrier k).gen then cont s else .wait s (.barrier k.scope k.id k.top)

/-- `bar` and `bar.max`: the arrival, unless this instruction has made it already, and the wait. -/
noncomputable def barAct (i : Instr) (k : BarKey) (value : Option Word) (cont : State → Act) (s : State) : Act :=
  match s.g.arrival k with
  | some a =>
    if a.at_ = some s.g.pc then s.await k cont else fresh s
  | none => fresh s
where
  fresh (s : State) : Act :=
    match s.arriveTrap k with
    | some t => .trap s t
    | none => withAppend i ((dst i).getD 0) s fun s => withFence false s fun s => (s.arrive k value (some s.g.pc)).await k cont

/-- `bar.arrive`. -/
noncomputable def barArriveAct (i : Instr) (k : BarKey) (s : State) : Act :=
  match s.arriveTrap k with
  | some t => .trap s t
  | none => withFollower i s fun s => withFence false s fun s => .done (s.arrive k none none)

/-- `bar.wait`. -/
noncomputable def barWaitAct (i : Instr) (k : BarKey) (s : State) : Act :=
  if s.barLimit k ≤ k.id then .trap s (trap 0x20 (BitVec.ofNat 64 (0x600 + k.scope * 16 + k.id)))
  else withFollower i s fun s => s.await k fun s => .done (s.passed k)

/-- One register of the lowest active lane, read as an operand that has not blocked: the checks of 03 R71 and 11 R239 for it
alone. -/
noncomputable def withLead (c : BitVec 6) (s : State) (k : Val → State → Act) : Act :=
  let go (s : State) : Act :=
    match s.g.acts with
    | [] => .done s
    | l :: _ =>
      let v := s.g.read l c
      if v.isSym then .wait s .symbol else if v.tag = .poison then .trap s (trapReg 0x12 c) else k v s
  if s.g.holds c then go s else withPops true [c] go s

/-- `bar.max` (09 R205). -/
noncomputable def barMaxAct (i : Instr) (a b d : BitVec 6) (s : State) : Act :=
  withLead b s fun sel s =>
    let w := sel.word
    let scope := (w.extractLsb' 0 3).toNat
    if 4 < scope then .trap s (trap 0x20 w)
    else
      let k := s.g.barKey scope (w.extractLsb' 3 4).toNat true
      let mine := s.g.acts.foldl (fun m l => maxHalves m (s.g.read l a).word) 0
      barAct i k (some mine) (fun s =>
        putReg i d (s.g.acts.map fun l => (l.no, dataWord (s.barrier k).last)) s fun s => .done (s.passed k)) s

/-! ### Stage rings (07 R158; 09 R207) -/

/-- The rings a crew may use (18 R389). -/
def State.ringLimit (s : State) : Nat := match s.partition (quadOf s.g.core) with | some p => p.rings | none => 4

/-- The phase of a stage. -/
def State.phase (s : State) (r st : Nat) : Bool :=
  match s.crew s.g.sp.crew with
  | some c => (c.rings.toList.getD r 0).getLsbD st
  | none => false

/-- The trap of a ring beyond the partition's limit (18 R389). -/
def ringTrap (r st : Nat) : Trap := trap 0x20 (BitVec.ofNat 64 (0x580 + r * 8 + st))

/-- The groups of a crew that sleep for a stage to hold a phase. -/
def State.ringSleepers (s : State) (crew r st : Nat) (p : Bool) : List Nat :=
  (s.groups.filter fun h => h.sp.crew == crew && (match h.run with | .waiting (.ring r' st' p') _ => r' == r && st' == st && p' == p | _ => false)).map
    (·.gid)

/-- `ring.arrive`: the phase is inverted, and the groups that sleep for it go on past their `ring.wait`. -/
noncomputable def ringArriveAct (i : Instr) (r st : Nat) (s : State) : Act :=
  if s.ringLimit ≤ r then .trap s (ringTrap r st)
  else withFollower i s fun s => withFence false s fun s =>
    let p := !s.phase r st
    let s1 := s.mapCrew s.g.sp.crew fun c =>
      { c with rings := c.rings.setIfInBounds r ((c.rings.toList.getD r 0) ^^^ BitVec.ofNat 8 (2 ^ st)) }
    .done ((s.ringSleepers s.g.sp.crew r st p).foldl
      (fun s gid => s.complete gid (.ringWait p (BitVec.ofNat 2 r) (BitVec.ofNat 3 st))) s1)

/-- `ring.wait`. -/
noncomputable def ringWaitAct (i : Instr) (r st : Nat) (p : Bool) (s : State) : Act :=
  if s.ringLimit ≤ r then .trap s (ringTrap r st)
  else withFollower i s fun s => if s.phase r st == p then .done s else .wait s (.ring r st p)

/-! ### Step and wait (09 R209, R210; 22 R437, R441) -/

/-- Whether a started crew of a task on a die ends at its `step`: its launch was aborted, or goes on without that die (22
R443). -/
def Task.withdrawn (t : Task) (die : Nat) : Bool :=
  t.aborted || (t.decided && t.asked.getLsbD die && !t.dies.getLsbD die)

/-- `step`: a self fence, then the boundary: it holds while a membership change of the task is pending, and a
pre-emption asked for at the boundary begins. -/
noncomputable def stepAct (i : Instr) (s : State) : Act :=
  let pass (s : State) : Act :=
    .done (s.mapCrew s.g.sp.crew fun c => if c.atStep then { c with atStep := false, preempt := true, since := s.clk } else c)
  -- a change of membership has been made, and the group goes on past its `step` (22 R441)
  if s.g.sent then pass s
  else
    withFollower i s fun s => withFence true s fun s =>
      let t := s.task s.g.sp.task
      if t.any fun t => t.withdrawn (dieOf s.g.core) then
        let ns := (s.g.lanes.filter (·.live)).map (·.no)
        if s.settled ns then
          -- a withdrawn crew keeps no slot's frame (17 R364); a gang's transfers end with its last part
          let last := !(s.groups.any fun h => h.gang == s.g.gang)
          let s1 := s.mapCrew s.g.sp.crew fun c => { c with withdrawn := true }
          .over ((if last then s1.dropTransfers fun r => r.gang == s.g.gang else s1).endLanes ns [])
        else .wait s .fence
      else if (t.bind (·.change)).isSome then .wait s .stepHold
      else pass s

/-- The physical runs of `n` consecutive indices from an index, granule by granule (01 R21); none if one lies outside
the executing core's local memory. -/
def localRuns (g : Group) (w : BitVec 7) (gran : Nat) : Nat → Nat → Nat → Option (List (Nat × Nat))
  | 0, _, _ => some []
  | f + 1, ix, n =>
    if n = 0 then some []
    else
      let len := min n (gran - ix % gran)
      let a := spreadIndex w ix
      let off := a - g.sp.mwb.toNat
      if ownAddr g a && decide (off % 2 ^ 19 + len ≤ localSize g.core) then
        (localRuns g w gran f (ix + len) (n - len)).map fun t => (localPA g.core (off % 2 ^ 19), len) :: t
      else none

/-- `wait` (09 R210). -/
noncomputable def waitAct (i : Instr) (a b d : BitVec 6) (s : State) : Act :=
  if s.g.sent then
    match s.armed.find? fun w => w.gid == s.g.gid with
    | none => .wait s .watch
    | some w =>
      if w.hit || decide (w.deadline ≤ s.clk) then
        putReg i d (s.g.acts.map fun l => (l.no, dataWord (boolWord w.hit))) s fun s =>
          .done { s with armed := s.armed.filter fun x => x.gid != s.g.gid }
      else .wait s .watch
  else
    match s.g.acts with
    | [] => .done s
    | l :: _ =>
      let v := s.g.read l a
      let n := (s.g.read l b).word.toNat
      let bad := trap 0x20 ((capCursor v.bits).setWidth 64)
      let gran := if walkOrder (capWalk v.bits) = 0 then 2 ^ 20 else 64 * 2 ^ walkGran (capWalk v.bits)
      if v.tag ≠ .cap then .trap s (trapReg 0x03 a)
      else if !capHas v.bits .r then .trap s (trapReg 0x05 a)
      else if !inBounds v.bits (index v) n then .trap s (trapReg 0x04 a)
      else if n = 0 ∨ 65536 < n then .trap s bad
      else
        match localRuns s.g (capWalk v.bits) gran 1026 (index v) n with
        | none => .trap s bad
        | some runs =>
          withAppend i d s fun s =>
            .wait { s with
              g := { s.g with sent := true }
              armed := s.armed ++ [⟨s.g.gid, runs, s.clk + s.g.sp.felim.toNat, false⟩] } .watch


/-- SEM_P (R200): Takes a unit of a core semaphore or sleeps. -/
noncomputable def execSemP (sc : BitVec 6) (s : State) : Host.Outcome State Fault Refusal :=
  issue (.semP sc) strict (fun _ => none) (semTake (.semP sc) sc.toNat) s

/-- SEM_V (R200): Adds a unit to a semaphore or hands it to the oldest sleeper. -/
noncomputable def execSemV (sc : BitVec 6) (s : State) : Host.Outcome State Fault Refusal :=
  issue (.semV sc) strict (fun _ => none) (semGive (.semV sc) sc.toNat) s

/-- SREG_RD (R201): Reads a shared register as it stood at the end of the previous clk. -/
noncomputable def execSregRd (sc : BitVec 6) (d : BitVec 6) (s : State) : Host.Outcome State Fault Refusal :=
  issue (.sregRd sc d) strict (fun _ => none) (fun s =>
    deliver (.sregRd sc d) (s.g.acts.map fun l => (l.no, dataWord ((s.core s.g.core).s.toList.getD sc.toNat 0))) [] s) s

/-- SREG_WR (R201): Writes a shared register at the end of its clk. -/
noncomputable def execSregWr (sc : BitVec 6) (a : BitVec 6) (s : State) : Host.Outcome State Fault Refusal :=
  issue (.sregWr sc a) elected (fun _ => none) (fun s => withFollower (.sregWr sc a) s fun s =>
    match s.g.acts with
    | l :: _ => .done (s.mapCore s.g.core fun c => { c with s := c.s.setIfInBounds sc.toNat (s.g.read l a).word })
    | [] => .done s) s

/-- BAR (R204): Arrives at a plain barrier and waits for its release. -/
noncomputable def execBar (imm : BitVec 4) (sc : BitVec 3) (s : State) : Host.Outcome State Fault Refusal :=
  issue (.bar imm sc) strict (fun _ => none) (fun s =>
    let k := s.g.barKey sc.toNat imm.toNat false
    barAct (.bar imm sc) k none (fun s => .done (s.passed k)) s) s

/-- BAR_ARRIVE (R204): Records arrival at a plain barrier and continues. -/
noncomputable def execBarArrive (imm : BitVec 4) (sc : BitVec 3) (s : State) : Host.Outcome State Fault Refusal :=
  issue (.barArrive imm sc) strict (fun _ => none) (fun s => barArriveAct (.barArrive imm sc) (s.g.barKey sc.toNat imm.toNat false) s) s

/-- BAR_WAIT (R204): Sleeps until the generation of the outstanding arrival releases. -/
noncomputable def execBarWait (imm : BitVec 4) (sc : BitVec 3) (s : State) : Host.Outcome State Fault Refusal :=
  issue (.barWait imm sc) strict (fun _ => none) (fun s => barWaitAct (.barWait imm sc) (s.g.barKey sc.toNat imm.toNat false) s) s

/-- BAR_MAX (R205): Arrives at a Topmark barrier with a contribution and waits for the combined maximum. -/
noncomputable def execBarMax (b : BitVec 6) (a : BitVec 6) (d : BitVec 6) (s : State) : Host.Outcome State Fault Refusal :=
  issueOn [a] (.barMax b a d) strict (fun _ => none) (barMaxAct (.barMax b a d) a b d) s

/-- RING_ARRIVE (R207): Inverts the phase of a stage-ring stage. -/
noncomputable def execRingArrive (rr : BitVec 2) (sc : BitVec 3) (s : State) : Host.Outcome State Fault Refusal :=
  issue (.ringArrive rr sc) strict (fun _ => none) (ringArriveAct (.ringArrive rr sc) rr.toNat sc.toNat) s

/-- RING_WAIT (R207): Passes or sleeps until a stage holds the awaited phase. -/
noncomputable def execRingWait (p : Bool) (rr : BitVec 2) (sc : BitVec 3) (s : State) : Host.Outcome State Fault Refusal :=
  issue (.ringWait p rr sc) strict (fun _ => none) (ringWaitAct (.ringWait p rr sc) rr.toNat sc.toNat p) s

/-- STEP (R209): Marks a step boundary with a self fence at which the scheduler may act. -/
noncomputable def execStep (s : State) : Host.Outcome State Fault Refusal :=
  issue .step strict (fun _ => none) (stepAct .step) s

/-- WAIT (R210): Arms on a local-memory range and sleeps until another agent writes it or the limit passes. -/
noncomputable def execWait (b : BitVec 6) (a : BitVec 6) (d : BitVec 6) (s : State) : Host.Outcome State Fault Refusal :=
  issue (.wait b a d) strict (fun _ => none) (waitAct (.wait b a d) a b d) s

end Sys2Proof.Machine
end

