-- ==== Sys2Proof/Machine/Dispatch.lean ====
section
/-! DEFINITION. The dispatcher: one arm for each instruction and event of the opcode table. -/

namespace Sys2Proof.Machine

-- One direct call of its meaning for each constructor.
open Sys2Proof in noncomputable def exec (i : Instr) (s : State) : Host.Outcome State Fault Refusal :=
  match i with
  | .add b a n d u => Sys2Proof.Machine.execAdd b a n d u s
  | .sub b a n d u => Sys2Proof.Machine.execSub b a n d u s
  | .mul b a n d u => Sys2Proof.Machine.execMul b a n d u s
  | .mulhI b a n d u => Sys2Proof.Machine.execMulhI b a n d u s
  | .mulhN b a n d u => Sys2Proof.Machine.execMulhN b a n d u s
  | .divI b a d u => Sys2Proof.Machine.execDivI b a d u s
  | .divN b a d u => Sys2Proof.Machine.execDivN b a d u s
  | .remI b a d u => Sys2Proof.Machine.execRemI b a d u s
  | .remN b a d u => Sys2Proof.Machine.execRemN b a d u s
  | .and b a n d u => Sys2Proof.Machine.execAnd b a n d u s
  | .or b a n d u => Sys2Proof.Machine.execOr b a n d u s
  | .xor b a n d u => Sys2Proof.Machine.execXor b a n d u s
  | .andn b a n d u => Sys2Proof.Machine.execAndn b a n d u s
  | .shl b a n d u => Sys2Proof.Machine.execShl b a n d u s
  | .shr b a n d u => Sys2Proof.Machine.execShr b a n d u s
  | .sar b a n d u => Sys2Proof.Machine.execSar b a n d u s
  | .rol b a n d u => Sys2Proof.Machine.execRol b a n d u s
  | .ror b a n d u => Sys2Proof.Machine.execRor b a n d u s
  | .clz a n d u => Sys2Proof.Machine.execClz a n d u s
  | .ctz a n d u => Sys2Proof.Machine.execCtz a n d u s
  | .popc a n d u => Sys2Proof.Machine.execPopc a n d u s
  | .minI b a n d u => Sys2Proof.Machine.execMinI b a n d u s
  | .maxI b a n d u => Sys2Proof.Machine.execMaxI b a n d u s
  | .minN b a n d u => Sys2Proof.Machine.execMinN b a n d u s
  | .maxN b a n d u => Sys2Proof.Machine.execMaxN b a n d u s
  | .seq b a n d u => Sys2Proof.Machine.execSeq b a n d u s
  | .sne b a n d u => Sys2Proof.Machine.execSne b a n d u s
  | .sltI b a n d u => Sys2Proof.Machine.execSltI b a n d u s
  | .sltN b a n d u => Sys2Proof.Machine.execSltN b a n d u s
  | .sel b a n d u => Sys2Proof.Machine.execSel b a n d u s
  | .sext w a n d u => Sys2Proof.Machine.execSext w a n d u s
  | .zext w a n d u => Sys2Proof.Machine.execZext w a n d u s
  | .bfx b a n d u => Sys2Proof.Machine.execBfx b a n d u s
  | .bfi b a n d u => Sys2Proof.Machine.execBfi b a n d u s
  | .mov a n d u => Sys2Proof.Machine.execMov a n d u s
  | .rng b a n d u => Sys2Proof.Machine.execRng b a n d u s
  | .cbase a n d u => Sys2Proof.Machine.execCbase a n d u s
  | .ctop a n d u => Sys2Proof.Machine.execCtop a n d u s
  | .clen a n d u => Sys2Proof.Machine.execClen a n d u s
  | .cperm a n d u => Sys2Proof.Machine.execCperm a n d u s
  | .cwalk a n d u => Sys2Proof.Machine.execCwalk a n d u s
  | .ctag a n d u => Sys2Proof.Machine.execCtag a n d u s
  | .cbound b a n d u => Sys2Proof.Machine.execCbound b a n d u s
  | .cand b a n d u => Sys2Proof.Machine.execCand b a n d u s
  | .cwset b a n d u => Sys2Proof.Machine.execCwset b a n d u s
  | .cset b a n d u => Sys2Proof.Machine.execCset b a n d u s
  | .cinc b a n d u => Sys2Proof.Machine.execCinc b a n d u s
  | .cdiff b a n d u => Sys2Proof.Machine.execCdiff b a n d u s
  | .cclr a n d u => Sys2Proof.Machine.execCclr a n d u s
  | .cwithin b a n d u => Sys2Proof.Machine.execCwithin b a n d u s
  | .ccoord a n d u => Sys2Proof.Machine.execCcoord a n d u s
  | .jr a u => Sys2Proof.Machine.execJr a u s
  | .callr a u => Sys2Proof.Machine.execCallr a u s
  | .ret a u => Sys2Proof.Machine.execRet a u s
  | .symWait a u => Sys2Proof.Machine.execSymWait a u s
  | .symTest a d u => Sys2Proof.Machine.execSymTest a d u s
  | .xput a xi => Sys2Proof.Machine.execXput a xi s
  | .xget xi d => Sys2Proof.Machine.execXget xi d s
  | .fadd b a n d t u => Sys2Proof.Machine.execFadd b a n d t u s
  | .fsub b a n d t u => Sys2Proof.Machine.execFsub b a n d t u s
  | .fmul b a n d t u => Sys2Proof.Machine.execFmul b a n d t u s
  | .fma b a n d t u => Sys2Proof.Machine.execFma b a n d t u s
  | .fms b a n d t u => Sys2Proof.Machine.execFms b a n d t u s
  | .fnma b a n d t u => Sys2Proof.Machine.execFnma b a n d t u s
  | .fdiv b a d t u => Sys2Proof.Machine.execFdiv b a d t u s
  | .fsqrt a d t u => Sys2Proof.Machine.execFsqrt a d t u s
  | .fexp2 a d u => Sys2Proof.Machine.execFexp2 a d u s
  | .flog2 a d u => Sys2Proof.Machine.execFlog2 a d u s
  | .fmin b a n d t u => Sys2Proof.Machine.execFmin b a n d t u s
  | .fmax b a n d t u => Sys2Proof.Machine.execFmax b a n d t u s
  | .fabs a n d t u => Sys2Proof.Machine.execFabs a n d t u s
  | .fneg a n d t u => Sys2Proof.Machine.execFneg a n d t u s
  | .fsgn b a n d t u => Sys2Proof.Machine.execFsgn b a n d t u s
  | .fceq b a n d t u => Sys2Proof.Machine.execFceq b a n d t u s
  | .fclt b a n d t u => Sys2Proof.Machine.execFclt b a n d t u s
  | .fcle b a n d t u => Sys2Proof.Machine.execFcle b a n d t u s
  | .fcun b a n d t u => Sys2Proof.Machine.execFcun b a n d t u s
  | .fclass a n d t u => Sys2Proof.Machine.execFclass a n d t u s
  | .fround a n d t u => Sys2Proof.Machine.execFround a n d t u s
  | .fcvtFf sc a n d t u => Sys2Proof.Machine.execFcvtFf sc a n d t u s
  | .fcvtFi rr imm a n d t u => Sys2Proof.Machine.execFcvtFi rr imm a n d t u s
  | .fcvtIf imm a n d t u => Sys2Proof.Machine.execFcvtIf imm a n d t u s
  | .fmtSet a => Sys2Proof.Machine.execFmtSet a s
  | .fmtGet d u => Sys2Proof.Machine.execFmtGet d u s
  | .qmax b a d u => Sys2Proof.Machine.execQmax b a d u s
  | .qscale a d u => Sys2Proof.Machine.execQscale a d u s
  | .quant b a d u => Sys2Proof.Machine.execQuant b a d u s
  | .dequant b a d u => Sys2Proof.Machine.execDequant b a d u s
  | .salient b a d u => Sys2Proof.Machine.execSalient b a d u s
  | .laneId d => Sys2Proof.Machine.execLaneId d s
  | .laneGet b a d => Sys2Proof.Machine.execLaneGet b a d s
  | .laneRise b a d => Sys2Proof.Machine.execLaneRise b a d s
  | .laneFall b a d => Sys2Proof.Machine.execLaneFall b a d s
  | .laneFlip b a d => Sys2Proof.Machine.execLaneFlip b a d s
  | .laneAny a d => Sys2Proof.Machine.execLaneAny a d s
  | .laneAll a d => Sys2Proof.Machine.execLaneAll a d s
  | .laneBits a d => Sys2Proof.Machine.execLaneBits a d s
  | .redAddI a d => Sys2Proof.Machine.execRedAddI a d s
  | .redAddF32 a d => Sys2Proof.Machine.execRedAddF32 a d s
  | .redMaxF32 a d => Sys2Proof.Machine.execRedMaxF32 a d s
  | .redMinF32 a d => Sys2Proof.Machine.execRedMinF32 a d s
  | .scanAddI a d => Sys2Proof.Machine.execScanAddI a d s
  | .intersect b a d => Sys2Proof.Machine.execIntersect b a d s
  | .join => Sys2Proof.Machine.execJoin s
  | .regang => Sys2Proof.Machine.execRegang s
  | .mAnd b a d => Sys2Proof.Machine.execMAnd b a d s
  | .mOr b a d => Sys2Proof.Machine.execMOr b a d s
  | .mNot a d => Sys2Proof.Machine.execMNot a d s
  | .mMov a d => Sys2Proof.Machine.execMMov a d s
  | .mMovFromK a d => Sys2Proof.Machine.execMMovFromK a d s
  | .mMovToK a d => Sys2Proof.Machine.execMMovToK a d s
  | .mMovActive d => Sys2Proof.Machine.execMMovActive d s
  | .gcall b a => Sys2Proof.Machine.execGcall b a s
  | .gret a => Sys2Proof.Machine.execGret a s
  | .gflush a => Sys2Proof.Machine.execGflush a s
  | .semP sc => Sys2Proof.Machine.execSemP sc s
  | .semV sc => Sys2Proof.Machine.execSemV sc s
  | .sregRd sc d => Sys2Proof.Machine.execSregRd sc d s
  | .sregWr sc a => Sys2Proof.Machine.execSregWr sc a s
  | .barMax b a d => Sys2Proof.Machine.execBarMax b a d s
  | .ringArrive rr sc => Sys2Proof.Machine.execRingArrive rr sc s
  | .ringWait p rr sc => Sys2Proof.Machine.execRingWait p rr sc s
  | .step => Sys2Proof.Machine.execStep s
  | .wait b a d => Sys2Proof.Machine.execWait b a d s
  | .ldFe a d u => Sys2Proof.Machine.execLdFe a d u s
  | .ldFf a d u => Sys2Proof.Machine.execLdFf a d u s
  | .stEf b a u => Sys2Proof.Machine.execStEf b a u s
  | .stFf b a u => Sys2Proof.Machine.execStFf b a u s
  | .feSet sc a u => Sys2Proof.Machine.execFeSet sc a u s
  | .amoAdd b a d w u => Sys2Proof.Machine.execAmoAdd b a d w u s
  | .amoMinI b a d w u => Sys2Proof.Machine.execAmoMinI b a d w u s
  | .amoMaxI b a d w u => Sys2Proof.Machine.execAmoMaxI b a d w u s
  | .amoMinN b a d w u => Sys2Proof.Machine.execAmoMinN b a d w u s
  | .amoMaxN b a d w u => Sys2Proof.Machine.execAmoMaxN b a d w u s
  | .amoAnd b a d w u => Sys2Proof.Machine.execAmoAnd b a d w u s
  | .amoOr b a d w u => Sys2Proof.Machine.execAmoOr b a d w u s
  | .amoXor b a d w u => Sys2Proof.Machine.execAmoXor b a d w u s
  | .amoSwap b a d w u => Sys2Proof.Machine.execAmoSwap b a d w u s
  | .amoCas b a d w u => Sys2Proof.Machine.execAmoCas b a d w u s
  | .amoFaddF32 b a d u => Sys2Proof.Machine.execAmoFaddF32 b a d u s
  | .amoFaddBf16 b a d u => Sys2Proof.Machine.execAmoFaddBf16 b a d u s
  | .bankAddF32 b a => Sys2Proof.Machine.execBankAddF32 b a s
  | .bankAddBf16 b a => Sys2Proof.Machine.execBankAddBf16 b a s
  | .bankMaxF32 b a => Sys2Proof.Machine.execBankMaxF32 b a s
  | .bankAxpyF32 b a => Sys2Proof.Machine.execBankAxpyF32 b a s
  | .bankSumF32 a d => Sys2Proof.Machine.execBankSumF32 a d s
  | .fence sc => Sys2Proof.Machine.execFence sc s
  | .ldSc a d u => Sys2Proof.Machine.execLdSc a d u s
  | .stSc b a u => Sys2Proof.Machine.execStSc b a u s
  | .agBind b kk => Sys2Proof.Machine.execAgBind b kk s
  | .agUnbind kk => Sys2Proof.Machine.execAgUnbind kk s
  | .agPos kk d => Sys2Proof.Machine.execAgPos kk d s
  | .agDrain kk => Sys2Proof.Machine.execAgDrain kk s
  | .send b a u => Sys2Proof.Machine.execSend b a u s
  | .sendR b a u => Sys2Proof.Machine.execSendR b a u s
  | .recv a d u => Sys2Proof.Machine.execRecv a d u s
  | .poll a d u => Sys2Proof.Machine.execPoll a d u s
  | .ccClean a u => Sys2Proof.Machine.execCcClean a u s
  | .ccInval a u => Sys2Proof.Machine.execCcInval a u s
  | .ccZero a u => Sys2Proof.Machine.execCcZero a u s
  | .pf a u => Sys2Proof.Machine.execPf a u s
  | .mma t => Sys2Proof.Machine.execMma t s
  | .mmaPair t => Sys2Proof.Machine.execMmaPair t s
  | .mmaPack t => Sys2Proof.Machine.execMmaPack t s
  | .mmaWait t => Sys2Proof.Machine.execMmaWait t s
  | .accZero t => Sys2Proof.Machine.execAccZero t s
  | .accLd b t => Sys2Proof.Machine.execAccLd b t s
  | .accSt b t => Sys2Proof.Machine.execAccSt b t s
  | .accOut b t => Sys2Proof.Machine.execAccOut b t s
  | .mskLd b mb => Sys2Proof.Machine.execMskLd b mb s
  | .cpy => Sys2Proof.Machine.execCpy s
  | .cpyWait a => Sys2Proof.Machine.execCpyWait a s
  | .pfkLd b a => Sys2Proof.Machine.execPfkLd b a s
  | .pfkArm b a => Sys2Proof.Machine.execPfkArm b a s
  | .coll => Sys2Proof.Machine.execColl s
  | .evqRd d => Sys2Proof.Machine.execEvqRd d s
  | .evqWait d => Sys2Proof.Machine.execEvqWait d s
  | .engFence => Sys2Proof.Machine.execEngFence s
  | .spawn a d => Sys2Proof.Machine.execSpawn a d s
  | .taskDec a => Sys2Proof.Machine.execTaskDec a s
  | .taskCtr a => Sys2Proof.Machine.execTaskCtr a s
  | .rsOpen b a d => Sys2Proof.Machine.execRsOpen b a d s
  | .rsRd b a => Sys2Proof.Machine.execRsRd b a s
  | .rsWr b a => Sys2Proof.Machine.execRsWr b a s
  | .rsSnap b a => Sys2Proof.Machine.execRsSnap b a s
  | .rsRoll b a => Sys2Proof.Machine.execRsRoll b a s
  | .rsFork b a d => Sys2Proof.Machine.execRsFork b a d s
  | .rsDrop a => Sys2Proof.Machine.execRsDrop a s
  | .rsPos a d => Sys2Proof.Machine.execRsPos a d s
  | .btPrep b a d => Sys2Proof.Machine.execBtPrep b a d s
  | .btCommit a d => Sys2Proof.Machine.execBtCommit a d s
  | .migrate a d => Sys2Proof.Machine.execMigrate a d s
  | .ptTrunc b a d => Sys2Proof.Machine.execPtTrunc b a d s
  | .trap lo hi => Sys2Proof.Machine.execTrap lo hi s
  | .rett => Sys2Proof.Machine.execRett s
  | .srRd sc d => Sys2Proof.Machine.execSrRd sc d s
  | .srWr sc a => Sys2Proof.Machine.execSrWr sc a s
  | .crewPeek a d => Sys2Proof.Machine.execCrewPeek a d s
  | .crewPoke b a => Sys2Proof.Machine.execCrewPoke b a s
  | .crewResume b a => Sys2Proof.Machine.execCrewResume b a s
  | .crewKill a => Sys2Proof.Machine.execCrewKill a s
  | .tlbInval b a => Sys2Proof.Machine.execTlbInval b a s
  | .brk => Sys2Proof.Machine.execBrk s
  | .halt => Sys2Proof.Machine.execHalt s
  | .addi imm a n d u => Sys2Proof.Machine.execAddi imm a n d u s
  | .andi imm a n d u => Sys2Proof.Machine.execAndi imm a n d u s
  | .ori imm a n d u => Sys2Proof.Machine.execOri imm a n d u s
  | .xori imm a n d u => Sys2Proof.Machine.execXori imm a n d u s
  | .shli sc a n d u => Sys2Proof.Machine.execShli sc a n d u s
  | .shri sc a n d u => Sys2Proof.Machine.execShri sc a n d u s
  | .sari sc a n d u => Sys2Proof.Machine.execSari sc a n d u s
  | .sltiI imm a n d u => Sys2Proof.Machine.execSltiI imm a n d u s
  | .sltiN imm a n d u => Sys2Proof.Machine.execSltiN imm a n d u s
  | .muli imm a n d u => Sys2Proof.Machine.execMuli imm a n d u s
  | .ldi imm n d u => Sys2Proof.Machine.execLdi imm n d u s
  | .bEq imm a d u => Sys2Proof.Machine.execBEq imm a d u s
  | .bNe imm a d u => Sys2Proof.Machine.execBNe imm a d u s
  | .bLt imm a d u => Sys2Proof.Machine.execBLt imm a d u s
  | .bGe imm a d u => Sys2Proof.Machine.execBGe imm a d u s
  | .bLtn imm a d u => Sys2Proof.Machine.execBLtn imm a d u s
  | .bGen imm a d u => Sys2Proof.Machine.execBGen imm a d u s
  | .cinci imm a n d u => Sys2Proof.Machine.execCinci imm a n d u s
  | .split imm => Sys2Proof.Machine.execSplit imm s
  | .bar imm sc => Sys2Proof.Machine.execBar imm sc s
  | .barArrive imm sc => Sys2Proof.Machine.execBarArrive imm sc s
  | .barWait imm sc => Sys2Proof.Machine.execBarWait imm sc s
  | .ldI8 imm p a d u => Sys2Proof.Machine.execLdI8 imm p a d u s
  | .ldN8 imm p a d u => Sys2Proof.Machine.execLdN8 imm p a d u s
  | .ldI16 imm p a d u => Sys2Proof.Machine.execLdI16 imm p a d u s
  | .ldN16 imm p a d u => Sys2Proof.Machine.execLdN16 imm p a d u s
  | .ldI32 imm p a d u => Sys2Proof.Machine.execLdI32 imm p a d u s
  | .ldN32 imm p a d u => Sys2Proof.Machine.execLdN32 imm p a d u s
  | .ld64 imm p a d u => Sys2Proof.Machine.execLd64 imm p a d u s
  | .ld128 imm p a d u => Sys2Proof.Machine.execLd128 imm p a d u s
  | .st8 imm p a d u => Sys2Proof.Machine.execSt8 imm p a d u s
  | .st16 imm p a d u => Sys2Proof.Machine.execSt16 imm p a d u s
  | .st32 imm p a d u => Sys2Proof.Machine.execSt32 imm p a d u s
  | .st64 imm p a d u => Sys2Proof.Machine.execSt64 imm p a d u s
  | .st128 imm p a d u => Sys2Proof.Machine.execSt128 imm p a d u s
  | .ldCap imm p a d u => Sys2Proof.Machine.execLdCap imm p a d u s
  | .stCap imm p a d u => Sys2Proof.Machine.execStCap imm p a d u s
  | .j imm => Sys2Proof.Machine.execJ imm s
  | .call imm => Sys2Proof.Machine.execCall imm s
  | .xset imm xi => Sys2Proof.Machine.execXset imm xi s
  | .xcat imm xi => Sys2Proof.Machine.execXcat imm xi s
  | .nop => Sys2Proof.Machine.execNop s
  | .compactMov q p => Sys2Proof.Machine.execCompactMov q p s
  | .compactAdd q p => Sys2Proof.Machine.execCompactAdd q p s
  | .compactSub q p => Sys2Proof.Machine.execCompactSub q p s
  | .compactAnd q p => Sys2Proof.Machine.execCompactAnd q p s
  | .compactOr q p => Sys2Proof.Machine.execCompactOr q p s
  | .compactXor q p => Sys2Proof.Machine.execCompactXor q p s
  | .compactAddi imm p => Sys2Proof.Machine.execCompactAddi imm p s
  | .compactShli sc p => Sys2Proof.Machine.execCompactShli sc p s
  | .compactShri sc p => Sys2Proof.Machine.execCompactShri sc p s
  | .compactSari sc p => Sys2Proof.Machine.execCompactSari sc p s
  | .compactLdi imm p => Sys2Proof.Machine.execCompactLdi imm p s
  | .compactLd64 q p => Sys2Proof.Machine.execCompactLd64 q p s
  | .compactSt64 q p => Sys2Proof.Machine.execCompactSt64 q p s
  | .compactLdI32 q p => Sys2Proof.Machine.execCompactLdI32 q p s
  | .compactSt32 q p => Sys2Proof.Machine.execCompactSt32 q p s
  | .compactCinci q p => Sys2Proof.Machine.execCompactCinci q p s
  | .bZ off p => Sys2Proof.Machine.execBZ off p s
  | .bNz off p => Sys2Proof.Machine.execBNz off p s
  | .jS lo hi => Sys2Proof.Machine.execJS lo hi s
  | .compactRet => Sys2Proof.Machine.execCompactRet s
  | .compactSymWait p => Sys2Proof.Machine.execCompactSymWait p s
  | .compactFaddF32 q p => Sys2Proof.Machine.execCompactFaddF32 q p s
  | .compactFmulF32 q p => Sys2Proof.Machine.execCompactFmulF32 q p s
  | .compactJr p => Sys2Proof.Machine.execCompactJr p s
  | .asyncEventEntry gid => Sys2Proof.Machine.execAsyncEventEntry gid s
  | .registerMissSlotArrival gid lane reg => Sys2Proof.Machine.execRegisterMissSlotArrival gid lane reg s
  | .symbolArrival gid pool id => Sys2Proof.Machine.execSymbolArrival gid pool id s
  | .localLoadCompletion gid => Sys2Proof.Machine.execLocalLoadCompletion gid s
  | .longInstructionCompletion gid => Sys2Proof.Machine.execLongInstructionCompletion gid s
  | .messageDeposit core => Sys2Proof.Machine.execMessageDeposit core s
  | .automaticDecrement task => Sys2Proof.Machine.execAutomaticDecrement task s
  | .pathSwitch gid => Sys2Proof.Machine.execPathSwitch gid s
  | .watchdogExpiry crew => Sys2Proof.Machine.execWatchdogExpiry crew s
  | .mooringTimeLimit quad entry => Sys2Proof.Machine.execMooringTimeLimit quad entry s
  | .mooringPlacement quad entry => Sys2Proof.Machine.execMooringPlacement quad entry s
  | .mooringLoadingEnd quad entry => Sys2Proof.Machine.execMooringLoadingEnd quad entry s
  | .gangReturnDelivery idx => Sys2Proof.Machine.execGangReturnDelivery idx s
  | .waitWake gid => Sys2Proof.Machine.execWaitWake gid s
  | .waitTimeLimit gid => Sys2Proof.Machine.execWaitTimeLimit gid s
  | .feQueuePerform word => Sys2Proof.Machine.execFeQueuePerform word s
  | .feWaitDeadline gid => Sys2Proof.Machine.execFeWaitDeadline gid s
  | .messageArrival idx => Sys2Proof.Machine.execMessageArrival idx s
  | .messageSpill idx => Sys2Proof.Machine.execMessageSpill idx s
  | .spillMoveBack crew => Sys2Proof.Machine.execSpillMoveBack crew s
  | .homeAccess idx => Sys2Proof.Machine.execHomeAccess idx s
  | .postedAcknowledgement core entry => Sys2Proof.Machine.execPostedAcknowledgement core entry s
  | .refusalArrival core entry => Sys2Proof.Machine.execRefusalArrival core entry s
  | .remoteRefusalTrap gid => Sys2Proof.Machine.execRemoteRefusalTrap gid s
  | .pageWalkCompletion gid => Sys2Proof.Machine.execPageWalkCompletion gid s
  | .scWindowPerform => Sys2Proof.Machine.execScWindowPerform s
  | .streamRunAheadFetch gid reg => Sys2Proof.Machine.execStreamRunAheadFetch gid reg s
  | .engineLineWrite op line => Sys2Proof.Machine.execEngineLineWrite op line s
  | .mmaStart core => Sys2Proof.Machine.execMmaStart core s
  | .mmaRetire core => Sys2Proof.Machine.execMmaRetire core s
  | .accFormPerform core => Sys2Proof.Machine.execAccFormPerform core s
  | .selfTestStart core => Sys2Proof.Machine.execSelfTestStart core s
  | .selfTestEnd core mismatch => Sys2Proof.Machine.execSelfTestEnd core mismatch s
  | .copyStart quad => Sys2Proof.Machine.execCopyStart quad s
  | .copyCompletion quad => Sys2Proof.Machine.execCopyCompletion quad s
  | .eventRecordDrop idx => Sys2Proof.Machine.execEventRecordDrop idx s
  | .prefetchKernelRun core => Sys2Proof.Machine.execPrefetchKernelRun core s
  | .collectiveCompletion idx => Sys2Proof.Machine.execCollectiveCompletion idx s
  | .collectiveTimeLimit idx => Sys2Proof.Machine.execCollectiveTimeLimit idx s
  | .counterDecrement idx => Sys2Proof.Machine.execCounterDecrement idx s
  | .tenderWalkStart idx => Sys2Proof.Machine.execTenderWalkStart idx s
  | .tenderWalkOffer idx => Sys2Proof.Machine.execTenderWalkOffer idx s
  | .readyQueueOffer quad => Sys2Proof.Machine.execReadyQueueOffer quad s
  | .passedOverLimit quad entry => Sys2Proof.Machine.execPassedOverLimit quad entry s
  | .stateStoreRequest die idx => Sys2Proof.Machine.execStateStoreRequest die idx s
  | .stateStoreAnswer gid => Sys2Proof.Machine.execStateStoreAnswer gid s
  | .stateStoreTransferCompletion die slot => Sys2Proof.Machine.execStateStoreTransferCompletion die slot s
  | .preemption crew => Sys2Proof.Machine.execPreemption crew s
  | .crewDrain crew => Sys2Proof.Machine.execCrewDrain crew s
  | .switchStepEntry crew => Sys2Proof.Machine.execSwitchStepEntry crew s
  | .crewRestore crew core => Sys2Proof.Machine.execCrewRestore crew core s
  | .pcSample gid => Sys2Proof.Machine.execPcSample gid s
  | .dieOutOfService die => Sys2Proof.Machine.execDieOutOfService die s
  | .flitReceive port flit damage => Sys2Proof.Machine.execFlitReceive port flit damage s
  | .ptpMessage offset => Sys2Proof.Machine.execPtpMessage offset s
  | .lockAcquired => Sys2Proof.Machine.execLockAcquired s
  | .holdoverEntry => Sys2Proof.Machine.execHoldoverEntry s
  | .lightSlotDue entry => Sys2Proof.Machine.execLightSlotDue entry s
  | .dieMembershipChange task add drop => Sys2Proof.Machine.execDieMembershipChange task add drop s
  | .dieShareAcknowledge task die => Sys2Proof.Machine.execDieShareAcknowledge task die s
  | .launchAckDeadline task => Sys2Proof.Machine.execLaunchAckDeadline task s
  | .launchControlFlit flit => Sys2Proof.Machine.execLaunchControlFlit flit s
  | .coordAckDeadline entry => Sys2Proof.Machine.execCoordAckDeadline entry s
  | .goTimeout entry => Sys2Proof.Machine.execGoTimeout entry s
  | .replicaStage die => Sys2Proof.Machine.execReplicaStage die s
  | .replicaDiscard die => Sys2Proof.Machine.execReplicaDiscard die s
  | .replicaCommitApply die => Sys2Proof.Machine.execReplicaCommitApply die s
  | .btPrepAnswer gid => Sys2Proof.Machine.execBtPrepAnswer gid s
  | .btCommitAnswer gid => Sys2Proof.Machine.execBtCommitAnswer gid s
  | .migrateReserve gid => Sys2Proof.Machine.execMigrateReserve gid s
  | .identify fn params tag => Sys2Proof.Machine.execIdentify fn params tag s
  | .loadObject fn params tag => Sys2Proof.Machine.execLoadObject fn params tag s
  | .createContext fn params tag => Sys2Proof.Machine.execCreateContext fn params tag s
  | .destroyContext fn params tag => Sys2Proof.Machine.execDestroyContext fn params tag s
  | .map fn params tag => Sys2Proof.Machine.execMap fn params tag s
  | .unmap fn params tag => Sys2Proof.Machine.execUnmap fn params tag s
  | .setKeyInstall fn params tag => Sys2Proof.Machine.execSetKeyInstall fn params tag s
  | .setKeyRemove fn params tag => Sys2Proof.Machine.execSetKeyRemove fn params tag s
  | .setLight fn params tag => Sys2Proof.Machine.execSetLight fn params tag s
  | .launch fn params tag => Sys2Proof.Machine.execLaunch fn params tag s
  | .launchReply task => Sys2Proof.Machine.execLaunchReply task s
  | .readEvents fn params tag => Sys2Proof.Machine.execReadEvents fn params tag s
  | .attest fn params tag => Sys2Proof.Machine.execAttest fn params tag s
  | .setPower fn params tag => Sys2Proof.Machine.execSetPower fn params tag s
  | .resetFunction fn params tag => Sys2Proof.Machine.execResetFunction fn params tag s
  | .functionLevelReset fn => Sys2Proof.Machine.execFunctionLevelReset fn s
  | .hostBar2Read fn off size => Sys2Proof.Machine.execHostBar2Read fn off size s
  | .hostBar2Write fn off data => Sys2Proof.Machine.execHostBar2Write fn off data s
  | .hostRegisterWrite fn off value => Sys2Proof.Machine.execHostRegisterWrite fn off value s
  | .powerOn => Sys2Proof.Machine.execPowerOn s
  | .powerControlTick draw hot => Sys2Proof.Machine.execPowerControlTick draw hot s
  | .lampFrame die => Sys2Proof.Machine.execLampFrame die s
  | .lampTimeRecord die => Sys2Proof.Machine.execLampTimeRecord die s
  | .evqWaitTimeLimit gid => Sys2Proof.Machine.execEvqWaitTimeLimit gid s
  | .staleReplicaRestore die src => Sys2Proof.Machine.execStaleReplicaRestore die src s
  | .instructionCacheLineArrival gid => Sys2Proof.Machine.execInstructionCacheLineArrival gid s
  | .reservedEncoding word len => Sys2Proof.Machine.execReservedEncoding word len s
  | .taskDecBankAnswer gid => Sys2Proof.Machine.execTaskDecBankAnswer gid s
  | .unknownCommandCode fn code params tag => Sys2Proof.Machine.execUnknownCommandCode fn code params tag s
  | .srIovEnable vfs => Sys2Proof.Machine.execSrIovEnable vfs s

end Sys2Proof.Machine
end

