-- ==== Sys2Proof/Machine/Schedule.lean ====
section
/-! DEFINITION. Who moves next: the events that are due, kind by kind with the conditions of their rules, and which group of
which issue port issues (04 R91; 07 R150, R156). The order among moves that no rule orders is the model's, unless the agenda
gives another (log 27). -/

namespace Sys2Proof.Machine

/-! ### Memory (11 R233, R237, R241; 12 R246 to R257; 18 R375, R386) -/

/-- Whether an access can reach its home; one that has left the package waits for its answer. -/
def State.accessDue (s : State) (n : Nat) (r : Req) : Bool :=
  s.reqReady n r && (match r.pkg with | none => true | some p => (s.routeTo p).isNone || decide (r.home < 2 ^ 40))

/-- Whether the earliest Foghorn window can be performed. -/
def State.windowDue (s : State) : Bool :=
  match s.scDue with
  | [] => false
  | o :: t => decide (16 * o.window + 112 ≤ s.clk) && !((o :: t).any fun p => s.ownedAt p.req.pa p.req.op.size)

/-- The acknowledgement or refusal due at a core's journal. -/
noncomputable def State.entryDue (s : State) (c : Core) : Option Instr :=
  c.journal.toList.zipIdx.findSome? fun p =>
    match p.1 with
    | some e =>
      if e.st = 1 ∧ s.entryAwaited c.coord p.2 = false then
        some (if e.reason = 0 then .postedAcknowledgement c.coord p.2 else .refusalArrival c.coord p.2)
      else none
    | none => none

/-- The source number of an access: of its core, which two of one core share (11 R227; 12 R249). -/
def Req.source (r : Req) : Nat := r.src / 64

/-- The event of the lowest rank; of several the first. -/
def firstRanked (l : List (List Nat × Instr)) : Option Instr :=
  (l.foldl (fun (m : Option (List Nat × Instr)) p => match m with | some q => if decide (p.1 < q.1) then some p else some q | none => some p)
    none).map (·.2)

/-- The access or decrement that reaches its home next: the one sent first, and of several sent in one clk the one of the lowest source (11
R227; 12 R249). What an engine does arrives in the clk of its own step, and so after every access that was sent before. -/
noncomputable def State.accessFirst (s : State) : Option Instr :=
  firstRanked
    ((s.net.zipIdx.filterMap fun p => if s.accessDue p.2 p.1 then some ([p.1.since, p.1.source], Instr.homeAccess p.2) else none) ++
      s.decs.zipIdx.filterMap fun p =>
        if p.1.result.isNone && s.decReady p.2 p.1 then some ([p.1.since, p.1.core], Instr.counterDecrement p.2) else none)

/-- What is due on the way to homes and back. -/
noncomputable def State.dueMemory (s : State) : Option Instr :=
  (if s.windowDue then some .scWindowPerform else none).or <|
  s.accessFirst.or <|
  (s.cores.findSome? s.entryDue).or <|
  (s.fes.findSome? fun w => if w.deadline < s.clk then some (.feWaitDeadline w.gid) else none).or <|
  (s.fes.findSome? fun w => if (feFirst s.mem s.clk w.pa s.fes).isSome then some (.feQueuePerform w.pa) else none).or <|
  s.misses.head?.map fun m => Instr.registerMissSlotArrival m.1 m.2.1 m.2.2

/-! ### Groups (03 R70; 04 R85; 05 R118; 07 R163, R167; 09 R210; 16 R341, R345; 17 R354; 19 R407) -/

/-- A late value of a group that has arrived whole. -/
noncomputable def Group.symbolDue (g : Group) : Option Instr :=
  g.syms.findSome? fun y =>
    if y.want.all (fun n => y.got.any fun p => p.1 == n) && !(y.mtag.isSome && g.inArea) then some (.symbolArrival g.gid y.slice y.id.toNat) else none

/-- Whether the oldest result awaited of a kind can be written. -/
def Group.pendDue (g : Group) (long : Bool) (clk : Nat) : Bool :=
  match g.pend.find? fun p => p.long == long with
  | some p => decide (p.due ≤ clk)
  | none => false

/-- A group that waits at `wait` or `evq.wait` and can go on. -/
noncomputable def State.watchDue (s : State) (g : Group) : Option Instr :=
  match g.run with
  | .waiting .watch _ =>
    if s.armed.any fun w => w.gid == g.gid && w.hit then some (.waitWake g.gid)
    else if s.armed.any fun w => w.gid == g.gid && decide (w.deadline ≤ s.clk) then some (.waitTimeLimit g.gid)
    else none
  | .waiting .evq since => if since + g.sp.felim.toNat ≤ s.clk ∧ g.answers.isEmpty then some (.evqWaitTimeLimit g.gid) else none
  | .waiting .icache _ => some (.instructionCacheLineArrival g.gid)
  | _ => none

/-- What is due for a group. -/
noncomputable def State.dueGroup (s : State) (g : Group) : Option Instr :=
  g.symbolDue.or <|
  (if g.pendDue false s.clk then some (.localLoadCompletion g.gid) else none).or <|
  (if g.pendDue true s.clk then some (.longInstructionCompletion g.gid) else none).or <|
  (if (s.walking (dieOf g.core)).any fun w => w.serves g then some (.pageWalkCompletion g.gid) else none).or <|
  (s.watchDue g).or <|
  (if !g.inArea && g.slices.any (fun sl => sl.sampleDue s.clk) then some (.pcSample g.gid) else none).or <|
  (if (s.nextRefusal g).isSome && s.atBoundary g then some (.remoteRefusalTrap g.gid) else none).or <|
  (if s.stopAsked g && s.canStop g then some (.asyncEventEntry g.gid) else none).or <|
  if (s.migrating g.gid).isSome then some (.migrateReserve g.gid) else none

/-- Answers of other units that are on their way to a group. -/
noncomputable def State.dueAnswers (s : State) : Option Instr :=
  (s.decs.findSome? fun d => match d.gid, d.result with | some gid, some _ => some (.taskDecBankAnswer gid) | _, _ => none).or <|
  (s.stores.findSome? fun u => (u.reqs.find? fun r => r.asked && r.answer.isSome).map fun r => Instr.stateStoreAnswer r.gid).or <|
  (s.btops.findSome? fun o =>
    if o.commit then (if o.answers.length = o.nrep ∨ o.deadline ≤ s.clk then some (.btCommitAnswer o.gid) else none)
    else if o.nrep ≤ o.answers.length ∨ o.deadline ≤ s.clk then some (.btPrepAnswer o.gid) else none)

/-! ### Messages and the Mooring (08 R174 to R181; 11 R243, R244; 13 R276 to R280) -/

/-- A message that can be accepted, refused or spilled. -/
noncomputable def State.messageDue (s : State) (n : Nat) : Option Instr :=
  let moved (late : Bool) : Bool := decide ((s.acceptMsg n late).mail.length < s.mail.length)
  if moved false then some (.messageArrival n) else if moved true then some (.messageSpill n) else none

/-- What is due of messages. -/
noncomputable def State.dueMessages (s : State) : Option Instr :=
  ((upFrom 0 s.mail.length).findSome? s.messageDue).or <|
  (s.cores.findSome? fun c => match c.queue with | m :: _ => if m.reg.isSome then some (.messageDeposit c.coord) else none | [] => none).or <|
  s.crews.findSome? fun c =>
    if !c.spilled.isEmpty && !c.inAreas && decide ((s.core c.core).queue.length < Config.queueSize) then some (.spillMoveBack c.id) else none

/-- What is due of a Mooring entry. -/
noncomputable def State.moorDue (s : State) (e : MoorEntry) : Option Instr :=
  match e.state with
  | .filling => if s.triggered e then some (.mooringTimeLimit e.quad e.idx) else none
  | .placing =>
    let who := Placing.gang e.quad e.idx
    if s.tenders.any (fun t => t.who == who) || s.queues.any (fun q => q.who == who) || (e.full && !s.queueRoom e.quad) then none
    else some (.mooringPlacement e.quad e.idx)
  | .queued => none
  | .loading => some (.mooringLoadingEnd e.quad e.idx)

/-- What is due of the Mooring. -/
noncomputable def State.dueMooring (s : State) : Option Instr :=
  (s.moor.findSome? s.moorDue).or (if s.returns.isEmpty then none else some (.gangReturnDelivery 0))

/-! ### Engines (14 R284 to R300; 15 R304 to R318; 17 R352 to R359) -/

/-- The line that an engine operation writes by itself next; the last goes with its completion. -/
def State.lineDue (s : State) (op : Nat) : Option Nat :=
  match s.ownedLines op with
  | l :: _ :: _ => if (s.engineLine op l).owned.length < s.owned.length then some l else none
  | _ => none

/-- Whether the last line of an operation, which goes with its completion, waits for SC operations due at its home (12 R249). -/
def State.lastWaits (s : State) (op : Nat) : Bool := (s.ownedLines op).any s.lineWaits

/-- What is due of a quad's copy engine. -/
noncomputable def State.copyDue (s : State) (quad : Nat) : Option Instr :=
  match s.quadCopies quad with
  | [] => none
  | o :: _ =>
    if !o.running then (if s.unitHeld (.copy quad) then none else some (.copyStart quad))
    else if o.finished then (if s.unitHeld (.copy quad) then none else some (.copyCompletion quad))
    else if s.lastWaits o.id then none
    else some (match s.lineDue o.id with | some l => .engineLineWrite o.id l | none => .copyCompletion quad)

/-- What is due of a matrix array: no row fails its test unless the agenda says so (log 28). -/
noncomputable def State.arrayDue (s : State) (a : MArray) : Option Instr :=
  if a.testing then some (.selfTestEnd a.core 0)
  else if s.testStarts a.core then some (.selfTestStart a.core)
  else if s.opStarts a.core then some (.mmaStart a.core)
  else
    match a.order with
    | [] => none
    | o :: _ =>
      match o.kind with
      | .mma _ _ => if o.started && o.leader.isNone then some (.mmaRetire a.core) else none
      | _ =>
        if s.lastWaits o.id then none
        else some (match s.lineDue o.id with | some l => .engineLineWrite o.id l | none => .accFormPerform a.core)

/-- What is due of a collective. -/
noncomputable def State.collDue (s : State) (n : Nat) (c : Coll) : Option Instr :=
  if c.closed || s.collHeld c then none
  else if c.np ≤ c.givers.length then some (.collectiveCompletion n)
  else if c.parts.any fun p => decide (p.deadline ≤ s.clk) then some (.collectiveTimeLimit n)
  else none

/-- Whether a request can arrive at its state-store unit or take its turn there. -/
def StoreUnit.requestDue (u : StoreUnit) (n : Nat) (r : SsReq) : Bool :=
  !r.ended &&
    (if r.accepted then r.moves.isNone && u.firstOf r
     else match r.ask with
       | .open_ _ _ _ => true
       | _ => !((u.reqs.take n).any fun q => q.src == r.src && q.handle == r.handle && !q.accepted))

/-- What is due of a state-store unit. -/
noncomputable def State.storeDue (s : State) (u : StoreUnit) : Option Instr :=
  if s.unitHeld (.store u.die) then none
  else
    (u.reqs.zipIdx.findSome? fun p => if u.requestDue p.2 p.1 then some (.stateStoreRequest u.die p.2) else none).or <|
    u.slots.findSome? fun sl =>
      match u.reqs.find? fun r => r.accepted && !r.ended && r.handle == u.handle sl.no with
      | some r =>
        if r.moves.isNone || s.lastWaits r.op then none
        else some (match s.lineDue r.op with | some l => .engineLineWrite r.op l | none => .stateStoreTransferCompletion u.die sl.no)
      | none => none

/-- Whether the generator of a stream of a group can fetch a line. -/
def State.fetchDue (s : State) (g : Group) (c : Nat) : Bool :=
  let reg := BitVec.ofNat 6 c
  match g.stream reg with
  | none => false
  | some st =>
    match ((s.onGroup g.gid fun s => s.runAhead reg).group g.gid).bind fun h => h.stream reg with
    | some st' => st'.fetched != st.fetched
    | none => false

/-- What is due of a prefetch unit. -/
noncomputable def State.punitDue (s : State) (u : PUnit) : Option Instr :=
  if u.arm.isSome && decide (u.at_ + 2 ≤ s.clk) && (u.run.isSome || (!u.due.isEmpty && !s.unitHeld (.prefetch u.core))) then some (.prefetchKernelRun u.core)
  else none

/-- The rank of an engine of a quad among sources (11 R227): it follows core 3 of the quad, in the order copy engine, prefetch units,
state-store and collective engines. -/
def engineRank (quad place : Nat) : List Nat := [quad * 4 + 3, place]

/-- The core that stands for the quad of a die's state-store and collective engines. -/
def storeQuad (die : Nat) : Nat := quadOf (storeCoord die)

/-- What is due of the engines that act as sources, in the order of their numbers (11 R227). -/
noncomputable def State.dueSources (s : State) : Option Instr :=
  let at_ {α : Type} (l : List α) (rank : α → List Nat) (due : α → Option Instr) : List (List Nat × Instr) :=
    l.filterMap fun x => (due x).map fun i => (rank x, i)
  firstRanked
    (at_ s.arrays (fun a => [a.core, 0]) s.arrayDue ++ at_ s.copies (fun o => engineRank o.quad 0) (fun o => s.copyDue o.quad) ++
      at_ s.punits (fun u => engineRank (quadOf u.core) (1 + u.core % 2)) s.punitDue ++
      at_ s.stores (fun u => engineRank (storeQuad u.die) 3) s.storeDue ++
      at_ s.colls.zipIdx (fun p => engineRank (storeQuad ((p.1.parts.head?.map (·.die)).getD 0)) 4) fun p => s.collDue p.2 p.1)

/-- What is due of the engines. -/
noncomputable def State.dueEngines (s : State) : Option Instr :=
  s.dueSources.or <|
  (s.records.zipIdx.findSome? fun p =>
    match p.1.dest with
    | .queue _ _ => if p.1.since + 65536 ≤ s.clk then some (.eventRecordDrop p.2) else none
    | .host _ => none).or <|
  s.all.findSome? fun g => if g.inArea then none else (upFrom 48 8).findSome? fun c => if s.fetchDue g c then some (.streamRunAheadFetch g.gid c) else none

/-! ### Placement and tasks (15 R318 to R321; 22 R435 to R444) -/

/-- The queued entries of a quad up to the first that blocks those after it (15 R319). -/
def State.offered (s : State) (quad : Nat) : List QEntry :=
  let mine := serviceOrder (s.queues.filter fun q => q.quad == quad && !q.overflow)
  match mine.find? (·.blocks s.clk) with
  | some b => mine.takeWhile (fun e => e != b) ++ [b]
  | none => mine

/-- Whether a quad offers its queue: a core of it has freed capacity, or can take a crew of a queued record, or the queue has room
again; and the scheduler holds no record (15 R315). -/
def State.offerDue (s : State) (quad : Nat) : Bool :=
  !s.unitHeld .scheduler &&
    ((s.queues.any fun q => q.quad == quad && q.freed && !q.overflow) ||
      ((s.offered quad).any fun e => decide ((s.takeAny e.who quad e.left e.left e.next).2.1 < e.left)) ||
      ((s.queues.any fun q => q.quad == quad && q.overflow) && decide ((s.queues.filter fun q => q.quad == quad && !q.overflow).length < 32)))

/-- What is due of queued and walking records. -/
noncomputable def State.duePlacing (s : State) : Option Instr :=
  (s.tenders.zipIdx.findSome? fun p =>
    if p.1.stage = .start then (if s.unitHeld .scheduler then none else some (.tenderWalkStart p.2))
    else if s.offeredAfter p.1 then none else some (.tenderWalkOffer p.2)).or <|
  (s.queues.findSome? fun q => if s.offerDue q.quad then some (.readyQueueOffer q.quad) else none).or <|
  s.queues.findSome? fun q =>
    (serviceOrder (s.queues.filter fun x => x.quad == q.quad && !x.overflow)).zipIdx.findSome? fun p =>
      match p.1.passed with
      | some c => if c + 4096 ≤ s.clk && !p.1.blocking then some (.passedOverLimit q.quad p.2) else none
      | none => none

/-- The die of a task whose share can be acknowledged. -/
def State.ackDue (s : State) (t : Task) : Option Nat :=
  (upFrom 0 6).find? fun d =>
    t.asked.getLsbD d && !t.refused.getLsbD d && !t.acked.getLsbD d && !s.pkg.deadDies.getLsbD d &&
      !(s.tenders.any fun w => w.who == .share t.id d)

/-- A change of a task's dies whose members all hold at a `step`. -/
noncomputable def State.changeDue (s : State) (t : Task) : Option Instr :=
  match t.change with
  | some (a, d) => if s.allHold t.id then some (.dieMembershipChange t.id a d) else none
  | none => none

/-- What is due of a task. -/
noncomputable def State.taskDue (s : State) (t : Task) : Option Instr :=
  (s.changeDue t).or <|
  (if t.decided || t.aborted then none
    else if t.start + 8192 ≤ s.clk || t.answered then some (.launchAckDeadline t.id)
    else (s.ackDue t).map fun d => Instr.dieShareAcknowledge t.id d).or <|
  (if (t.answered || t.decided || t.aborted) && s.pkg.functions.any (fun f => f.waiting == some t.id) then some (.launchReply t.id) else none).or <|
  if t.done.isSome && s.storesDone t.id && (t.decided || t.killed) && !t.await then some (.automaticDecrement t.id) else none

/-- What is due of a Light List entry. -/
noncomputable def State.lightDue (s : State) (l : Light) : Option Instr :=
  if l.armed && decide ((l.next : Int) ≤ s.nanos) then some (.lightSlotDue l.no)
  else if l.slots.any fun x => x.coord == s.pkg.pod.toNat && decide (x.clk + 65536 ≤ s.clk) then some (.coordAckDeadline l.no)
  else if s.tasks.any fun t => t.await && !t.aborted && t.light.map (·.1) == some l.no && decide (t.start + 131072 ≤ s.clk) then
    some (.goTimeout l.no)
  else none

/-- A replica of another package answers. -/
def State.farReplicaDue (s : State) (o : BtOp) : Option Instr :=
  (s.farDue o).map fun n => if o.commit then Instr.replicaCommitApply n else .replicaStage n

/-- What is due of a batching replica on a die in service. -/
noncomputable def State.replicaDue (s : State) (r : Replica) : Option Instr :=
  if s.btops.any fun o => !o.commit && !o.answers.any fun a => a.1 == r.die then some (.replicaStage r.die)
  else if s.pkg.deadDies.getLsbD r.die then none
  else
    match r.order with
    | some false => some (.replicaDiscard r.die)
    | some true =>
      if r.phase = 0 ∧ (s.awaited r).isSome ∧ (s.unitHeld (.collective r.die) || (r.lines r.staged).any fun l => s.ownedAt (l * 64) 64) = true then none
      else some (.replicaCommitApply r.die)
    | none =>
      if s.repState r ≠ 2 then none
      else (s.replicas.find? fun c => s.repState c == 0 && !s.pkg.deadDies.getLsbD c.die).map fun c => Instr.staleReplicaRestore r.die c.die

/-- What is due of tasks, slots and replicas. -/
noncomputable def State.dueTasks (s : State) : Option Instr :=
  (s.tasks.findSome? s.taskDue).or <|
  -- entries that are due together launch in ascending number (22 R436)
  (firstRanked (s.pkg.lights.filterMap fun l => (s.lightDue l).map fun i => ([l.no], i))).or <|
  (s.replicas.findSome? s.replicaDue).or <|
  s.btops.findSome? s.farReplicaDue

/-! ### Crews (07 R167; 18 R377 to R388) -/

/-- Whether a crew that is asked to has stopped and drained, and its core can keep a redirect for it (18 R379, R380). -/
def State.drainDue (s : State) (c : Crew) : Bool :=
  c.preempt && !c.saved && c.switching == 0 && (s.crewGroups c.id).all (·.isStopped) && s.drained c.id &&
    decide ((s.core c.core).redirects.length < 16)

/-- What is due of a crew. A saved crew is restored as its ready queue offers it (18 R388). -/
noncomputable def State.crewDue (s : State) (c : Crew) : Option Instr :=
  if c.wdog = 0 ∧ c.reload ≠ 0 ∧ c.saved = false ∧ (s.longestWaiting c.id).isSome then some (.watchdogExpiry c.id)
  else if s.drainDue c then some (.crewDrain c.id)
  else if (c.switching = 1 ∨ c.switching = 2) ∧ (s.membersOf c.id).isEmpty = false ∧ (s.all.any fun h => h.sp.crew == c.id && h.switchStep != 0) = false then
    some (.switchStepEntry c.id)
  else if c.switching ≠ 0 ∨ c.saved then none
  else if (s.crewGroups c.id).any fun g => g.run == .saved false && (s.idsFor g).isSome then some (.crewRestore c.id c.core)
  else none

/-! ### Time, host and the Lamp port (22 R434; 26 R484 to R497) -/

/-- The command that a submission is (26 R487, R488). -/
noncomputable def Submission.instr (q : Submission) (fn : Nat) : Instr :=
  let p := q.params
  if paramSize q.code.toNat ≠ some p.length then .unknownCommandCode fn q.code p q.tag
  else
    match q.code.toNat with
    | 0x0001 => .identify fn p q.tag
    | 0x0002 => .loadObject fn p q.tag
    | 0x0003 => .createContext fn p q.tag
    | 0x0004 => .destroyContext fn p q.tag
    | 0x0005 => .map fn p q.tag
    | 0x0006 => .unmap fn p q.tag
    | 0x0007 => if (p.getD 2 0).getLsbD 0 then .setKeyRemove fn p q.tag else .setKeyInstall fn p q.tag
    | 0x0008 => .setLight fn p q.tag
    | 0x0009 => .launch fn p q.tag
    | 0x000A => .readEvents fn p q.tag
    | 0x000B => .attest fn p q.tag
    | 0x000C => .setPower fn p q.tag
    | _ => .resetFunction fn p q.tag

/-- The command that the firmware serves next. -/
noncomputable def State.commandDue (s : State) : Option Instr :=
  match s.pkg.firmware.serving with
  | [] => none
  | fn :: _ =>
    match s.pkg.functions.find? fun f => f.no == fn with
    | some f => if f.waiting.isNone then f.busy.map fun q => q.instr fn else none
    | none => none

/-- Whether the time base locks. -/
noncomputable def State.lockDue (s : State) : Option Instr :=
  match s.pkg.time.state, s.pkg.time.good with
  | .locking, some c => if c + 15040000000 ≤ s.clk then some .lockAcquired else none
  | _, _ => none

/-- A flit that waited for an engine's line can be delivered: as its duplicate would have it (12 R255; 22 R430). -/
noncomputable def State.flitDue (s : State) : Option Instr :=
  (s.pkg.fabric.held.find? fun h => h.2.seq % 2 ^ 32 == s.pkg.fabric.want (flitPair h.2) && !s.flitWaits h.2).map fun h =>
    Instr.flitReceive h.1 h.2 0

/-- What is due of the time base, the host's commands, the fabric and the Lamp port. -/
noncomputable def State.dueHost (s : State) : Option Instr :=
  s.lockDue.or <|
  s.flitDue.or <|
  (if (s.pkg.time.state = .locked ∨ s.pkg.time.state = .locking) ∧ s.pkg.time.heard + 7520000000 ≤ s.clk then some .holdoverEntry
    else none).or <|
  s.commandDue.or <|
  ((upFrom 0 6).findSome? fun d => if s.timeDue d then some (.lampTimeRecord d) else none).or <|
  s.pkg.lamp.bufs.findSome? fun b => if 3 ≤ b.recs.length then some (.lampFrame b.die) else none

/-! ### The event that is due -/

/-- The next event that is due, if any. -/
noncomputable def State.due (s : State) : Option Instr :=
  (s.sys.head?.map fun e => Instr.asyncEventEntry e.gid).or <|
  s.dueMemory.or <|
  s.dueAnswers.or <|
  (s.all.findSome? s.dueGroup).or <|
  s.dueMessages.or <|
  s.dueMooring.or <|
  s.dueEngines.or <|
  s.duePlacing.or <|
  s.dueTasks.or <|
  (s.crews.findSome? s.crewDue).or
  s.dueHost

/-! ### Issue ports (04 R91; 07 R150, R156; 26 R495) -/

/-- Whether a group has its turn among those of its port: it is ready, or waits and tries its instruction again. -/
def Group.canTurn (g : Group) : Bool :=
  match g.run with
  | .ready => true
  | .waiting w _ => w != .icache
  | _ => false

/-- Whether a group may issue in this state: its core runs and is not fenced, its die is in service, and no refusal's trap is
due at its boundary first (11 R237; 12 R251; 18 R367). -/
noncomputable def State.mayIssue (s : State) (g : Group) : Bool :=
  g.canTurn && !(s.core g.core).stopped && !(s.core g.core).fenced && !s.pkg.deadDies.getLsbD (dieOf g.core) &&
    !((s.nextRefusal g).isSome && s.atBoundary g)

/-- The issue port of a group: the rotation of its context, or its lowest slice at placement modulo 4 (07 R150, R156). -/
def Group.port (g : Group) : Nat := g.core * 4 + g.memPort

/-- Whether two contexts stand in this order after a context that issued last. -/
def cyclicBefore (last a b : Nat) : Bool :=
  if last < a then (if last < b then decide (a ≤ b) else true) else if last < b then false else decide (a ≤ b)

/-- The lowest slice number of a group. -/
def Group.lowest (g : Group) : Nat := g.slices.foldl (fun n sl => min n sl.num) 64

/-- Whether a ready group of a G-core issues before another: one ready for 64 clk without issuing first, the longest first; then
by role, by how long each has been ready, and by slice (07 R156). -/
def gangBefore (clk : Nat) (a b : Group) : Bool :=
  let since (g : Group) : Nat := g.readyAt.getD clk
  let late (g : Group) : Bool := decide (since g + 64 ≤ clk)
  let rank (g : Group) : Nat := if g.role = 2 then 0 else if g.role = 1 then 1 else 2
  let key (g : Group) : List Nat := [if late g then 0 else 1, if late g then since g else rank g, since g, g.lowest]
  decide (key a ≤ key b)

/-- Whether a ready group issues before another of its port. -/
def State.issuesBefore (s : State) (a b : Group) : Bool :=
  if a.isG then gangBefore s.clk a b
  else if a.first = 23 then true
  else if b.first = 23 then false
  else match mapGet a.port s.turns with
    | some last => cyclicBefore last a.first b.first
    | none => decide (a.first ≤ b.first)

/-- A group takes the place of the one that issued; that one joins the others, last. -/
def State.switchTo (s : State) (gid : Nat) : State :=
  if s.g.gid = gid then s
  else
    match s.groups.find? fun h => h.gid == gid with
    | none => s
    | some h => { s with g := h, groups := (s.groups.filter fun x => x.gid != gid) ++ (if s.g.run = .free then [] else [s.g]) }

/-- Whether no group issues in this clk because of the power duty (26 R495; log 26). -/
def State.offDuty (s : State) : Bool := decide (s.pkg.firmware.duty ≤ s.clk % 64)

end Sys2Proof.Machine
end

