-- ==== Sys2Proof/Machine/Turn.lean ====
section
/-! DEFINITION. A move: what the agenda says comes next, else an event that is due, else the next issue of a group, which fetches
and performs one instruction; and the strand that the probe places. -/

namespace Sys2Proof.Machine

/-- The issuing group fetches, decodes and performs the instruction at its pc, or takes the trap of its fetch or encoding (04
R79, R94). -/
noncomputable def State.run1 (s : State) : Host.Outcome State Fault Refusal :=
  match fetch s s.g s.g.pc with
  | .instr i _ _ => exec i s
  | .reserved w len => exec (.reservedEncoding (BitVec.ofNat 32 w) len) s
  | .trap t => .next ((if t.code = 0x12 then s.handCode s.g s.g.pc else s).takeTrap t false).tick
  | .walk va => .next (finish .nop false s (.wait (s.startWalk va) .translation))

/-- What a group's instruction would do now. -/
noncomputable def State.attempt (s : State) (gid : Nat) : State :=
  match (s.switchTo gid).run1 with
  | .next t => t
  | .fault _ => s
  | .refused _ => s

/-- Whether a group does not wait: in the state after its instruction, that it has issued. -/
def State.wentOn (s : State) (gid : Nat) : Bool :=
  match s.group gid with
  | some g => (match g.run with | .waiting _ _ => false | _ => true)
  | none => true

/-- Whether a group forfeits its turn to a subnormal: not inside a latch run (02 R49; 04 R91). -/
noncomputable def State.passes (s : State) (g : Group) : Bool := decide (0 < g.forfeit) && !s.midRun g

/-- Whether a group is ready (07 R150, R156): its next instruction can issue, and it does not forfeit its turn. -/
noncomputable def State.ready (s : State) (g : Group) : Bool := s.mayIssue g && !s.passes g && (s.attempt g.gid).wentOn g.gid

/-- Whether a turn of a group would do anything: issue, or begin what its instruction waits for next. -/
noncomputable def State.wants (s : State) (g : Group) : Bool :=
  s.mayIssue g && (g.run == .ready || s.attempt g.gid != (s.switchTo g.gid).tick)

/-- A wait that holds the port of a G-core for a run: an interlock (04 R85, R91). -/
def Wait.holdsPort : Wait → Bool
  | .long => true
  | .localLoad => true
  | .translation => true
  | .journal => true
  | .miss => true
  | .icache => true
  | .symPool => true
  | .fence => true
  | _ => false

/-- Whether a port of a G-core keeps issuing a group: it is inside a latch run, and ready or held by an interlock, not blocked (04
R91). -/
noncomputable def State.keepsPort (s : State) (g : Group) : Bool :=
  g.isG && s.midRun g && (match g.run with | .ready => true | .waiting w _ => w.holdsPort | _ => false)

/-- The group that has the turn at a group's port: on a G-core the one inside a latch run, else the first ready one in the port's
order (04 R91; 07 R150, R156). A group whose instruction does not issue has it to begin what it waits for. -/
noncomputable def State.portChoice (s : State) (h : Group) : Nat :=
  let rivals := (s.groups ++ [s.g]).filter fun x => x.port == h.port && x.gid != h.gid
  if rivals.isEmpty then h.gid
  else match (h :: rivals).find? s.keepsPort with
    | some y => y.gid
    | none =>
      if !s.passes h && !s.ready h then h.gid
      else match (h :: rivals).filter s.ready with
        | [] => h.gid
        | x :: t => (t.foldl (fun m y => if s.issuesBefore y m then y else m) x).gid

/-- The group that has its turn: the ports take turns as their groups stand, each with a group whose turn does something. -/
noncomputable def State.choose (s : State) : Option Nat :=
  (((s.groups ++ [s.g]).filter s.wants).map s.portChoice).find? fun n => (s.group n).any s.wants

/-- Another group of a port on which a group has issued: its forfeited turn is passed over if it stands before that one (02 R49), and on a
G-core a run of it that is blocked on a symbol loses its latches and begins again at sr.lrun (03 R69; 04 R91). DESIGN CHOICE: at level T,
where no instruction sets sr.lrun, the spec does not say where a run that lost its latches begins again; it is sr.lrun there too (log
93). -/
noncomputable def State.passOver (s0 : State) (g : Group) (s : State) (h : Group) : State :=
  if h.gid = g.gid ∨ h.port ≠ g.port then s
  else
    let s1 := if s0.passes h && s0.mayIssue h && s0.issuesBefore h g then s.mapGroup h.gid fun h => { h with forfeit := h.forfeit - 1 } else s
    let blocked := match h.run with | .waiting w _ => w.isBlock | _ => false
    if g.isG && blocked && !h.sent && s0.midRun h then
      s1.onGroup h.gid fun s =>
        let h := s.g.discard
        { s with g := { h.endRun with pc := h.sp.lrun, run := .ready, held := [] } }
    else s1

/-- A group has issued: a run that ends with its instruction is closed (04 R88), it is the last of its port, and not ready without
issuing. -/
noncomputable def State.afterIssue (s0 s : State) : State :=
  let s1 : State := { s.closeRun with turns := mapSet s0.g.port s0.g.first s.turns }
  let s2 := s1.mapGroup s0.g.gid fun g => { g with readyAt := none }
  s0.groups.foldl (fun s h => s0.passOver s0.g s h) s2

/-- A group's turn: a step trap that it owes is taken (01 R26); a forfeited turn passes outside a latch run (02 R49; 04 R91); else
its instruction issues or waits. -/
noncomputable def State.turn (s : State) (gid : Nat) : Host.Outcome State Fault Refusal :=
  let s1 := s.switchTo gid
  if s1.g.gid ≠ gid ∨ s1.mayIssue s1.g = false then .next s1.tick
  else match s1.g.stepDue with
    | some v =>
      .next (({ s1 with g := { s1.g with stepDue := none } } : State).takeTrap { eventTrap 0x31 v with epc := some s1.g.pc } false).tick
    | none =>
      if s1.passes s1.g = true ∧ (s1.attempt gid).wentOn gid = true then
        .next ({ s1 with g := { s1.g with forfeit := s1.g.forfeit - 1 } }).tick
      else match s1.run1 with
        | .next t => .next (if t.wentOn gid then s1.afterIssue t else t)
        | o => o

/-- Since when each group of a G-core has been ready without issuing (07 R156). -/
noncomputable def State.markReady (s : State) : State :=
  let mark (g : Group) : Group := if g.isG then { g with readyAt := if s.ready g then some (g.readyAt.getD s.clk) else none } else g
  { s with g := mark s.g, groups := s.groups.map mark }

/-- Firmware writes an entry of the route table: the port that leads to a package, or none (22 R428). -/
def State.setRoute (s : State) (pod : BitVec 8) (port : Option Nat) : State :=
  let old := s.pkg.fabric.routes
  let new := match port with | some p => if p < 32 then mapSet pod.toNat p old else mapDel pod.toNat old | none => mapDel pod.toNat old
  { s with pkg := { s.pkg with fabric := { s.pkg.fabric with routes := new } } }

/-- A soft error in a stored line (11 R235, R236): corrected and counted, or a difference between the line's check value and its
bytes, which the next hand-over of the line finds. -/
def State.upset (s : State) (line : Nat) (diff : BitVec 32) : State :=
  if diff = 0 then { s with pkg := { s.pkg with corrected := s.pkg.corrected + 1 } }
  else { s with mem := { s.mem with checks := mapSet line diff s.mem.checks } }

/-- An event of the opcode table, rather than an instruction of a program: it has no encoding. -/
def isEvent : Instr → Bool
  | .reservedEncoding _ _ => false
  | i => i.len == 0

/-- The next move after the watchdogs have counted: what the agenda says, of issues that the port's order allows, else what is due,
else an issue. -/
noncomputable def State.move (s : State) : Host.Outcome State Fault Refusal :=
  match s.agenda with
  | .event i :: t =>
    let s1 : State := { s with agenda := t }
    if isEvent i then exec i s1 else .next s1.tick
  | .issue gid :: t =>
    if s.offDuty then .next s.tick
    else
      let s1 : State := { s with agenda := t }
      (match s1.group gid with | some h => s1.turn (s1.portChoice h) | none => .next s1.tick)
  | .guard core fenced locks :: t =>
    .next (({ s with agenda := t } : State).mapCore core fun c => { c with fenced := fenced, locks := locks }).tick
  | .route pod port :: t => .next (({ s with agenda := t } : State).setRoute pod port).tick
  | .upset line diff :: t => .next (({ s with agenda := t } : State).upset line diff).tick
  | .pod n :: t => .next { s with agenda := t, pkg := { s.pkg with pod := n }, clk := s.clk + 1 }
  | .batch pods nrep reps :: t => .next (({ s with agenda := t } : State).configure pods nrep reps).tick
  | [] =>
    match s.due with
    | some i => exec i s
    | none =>
      if s.offDuty then .next s.tick
      else match s.choose with
        | some gid => s.turn gid
        | none => .next s.tick

/-! ### The probe -/

/-- The core kind on which an instruction runs: a G-core for one that an S-core refuses. -/
def onG (nbits w : Nat) : Bool :=
  if w % 2 = 0 ∨ nbits < 32 then false
  else match (decode32 w).bind kindTrap with
    | some (k, _) => !k
    | none => false

/-- A strand, or a gang of one slice, as a launch leaves it at its first instruction (01 R30; 07 R147), with its code at offset
0x1000 of its core's local memory (log 30). -/
def Group.probe (g : Bool) : Group :=
  let core := if g then 2 else 0
  let base := core * 2 ^ 19 + 2 ^ 40
  let k : List (Nat × Val) := [(4, flatCap 0x9B (base + 0x2000) 0x1000), (55, exitCap)]
  { Group.reset with
    gid := 1
    gang := 1
    core := core
    isG := g
    spg := if g then 1 else 0
    lanes := if g then (upFrom 0 4).map fun n => startLane n k else [startLane 0 k]
    slices := [startSlice 0 0 (core * 2 ^ 19 + 0x3000) Val.zero]
    sp := { Group.reset.sp with mwb := BitVec.ofNat 64 (2 ^ 40), felim := 65536, mtime := 512 }
    codeCap := flatCap 0x24 (base + 0x1000) 0x1000
    pc := BitVec.ofNat 64 (base + 0x1000)
    run := .ready }

end Sys2Proof.Machine
end

