-- ==== Sys2Proof/Machine/Step.lean ====
section
/-! DEFINITION. One step of the package, and the probe that places one instruction where the next step fetches. -/

namespace Sys2Proof.Machine

/-- One step: the watchdogs count one clk (07 R167), the groups that are ready are marked (07 R156), and one agent moves. -/
noncomputable def step (s : State) : Host.Outcome State Fault Refusal := s.countdown.markReady.move

/-- The state with one instruction where the next step fetches: a launched strand or gang that stands at it, its word in the
local memory of its core, and nothing else that could move first. The word's first halfword is its low half (04 R79). -/
def State.withFetchWord (s : State) (nbits w : Nat) : State :=
  let g := Group.probe (onG nbits w)
  let pa := localPA g.core 0x1000
  { s with
    g := g
    groups := []
    agenda := []
    net := [], scq := [], fes := [], misses := [], sys := [], walks := [], decs := [], stores := [], btops := [], mail := [],
    moor := [], returns := [], copies := [], arrays := [], colls := [], punits := [], records := [], tenders := [],
    queues := [], tasks := [], replicas := [], crews := [], cores := []
    pkg := { s.pkg with
      deadDies := 0, lights := [], time := { s.pkg.time with state := .free }
      firmware := { s.pkg.firmware with serving := [], duty := 64 }
      lamp := { s.pkg.lamp with ctl := 0, bufs := [] } }
    mem := ({ s.mem with poison := [], checks := [] }).store pa (nbits / 8 + 4) w }

end Sys2Proof.Machine
end

