-- ==== Sys2Proof/Safety.lean ====
section
/-! DEFINITION. The terms in which claims are stated: an instruction that nothing stands in the way of, and the states in which an
instruction that has done its work leaves the machine. -/

namespace Sys2Proof.Machine

/-! ### What a state satisfies -/

/-- Memory is in its canonical form. -/
abbrev State.inv (s : State) : Prop := s.mem.wf = true

/-- The register an instruction writes, as a list. -/
def dsts (i : Instr) : List (BitVec 6) := match dst i with | some d => [d] | none => []

/-- The core kind may run the instruction (09 R187; 16 R323; 23 R454). -/
def kindOk (i : Instr) (isG : Bool) : Bool := match kindTrap i with | some (k, _) => k != isG | none => true

/-- A value that has arrived: DATA or CAP (01 R9; 03 R60, R71; 18 R386). -/
def Val.known (v : Val) : Bool := v.tag == .data || v.tag == .cap

/-- No single step is due after an instruction (01 R26). -/
abbrev State.unstepped (s : State) : Prop := statusSStep s.g.sp.status = false ∨ s.g.priv ≠ 0

/-- The group is about to issue the instruction for the first time; its kind of core, its level, its role, the latches of its run
and its breakpoints let it act; and no register it names is awaited, bound or being resolved (03 R67; 04 R85, R86; 07 R157;
18 R370; 19 R391, R405). `cs` are the source registers, whatever they hold. -/
abbrev State.reaches (s : State) (i : Instr) (cs : List (BitVec 6)) : Prop :=
  s.g.sent = false ∧ s.g.held = [] ∧ kindOk i s.g.isG = true ∧ minLevel i ≤ s.g.priv.toNat ∧ latchMissing i s.g = false ∧
  s.g.breakpoint = none ∧ s.g.awaited (cs ++ dsts i) = none ∧ s.g.resolving (cs ++ dsts i) = false ∧
  s.g.boundDst (dst i) = false ∧ s.g.namedWait i = none ∧ (readsLatch i = true → s.g.runLen < 16) ∧
  (s.g.isG = true → roleAllows s.g.role (classOf i) = true) ∧ (∀ c ∈ cs ++ dsts i, s.g.stream c = none)

/-- The sources hold values that have arrived, in every active lane. -/
abbrev State.knows (s : State) (cs : List (BitVec 6)) : Prop := ∀ l ∈ s.g.acts, ∀ c ∈ cs, (s.g.read l c).known = true

/-- Nothing stands between the instruction and its effect. -/
abbrev State.clear (s : State) (i : Instr) (cs : List (BitVec 6)) : Prop := s.reaches i cs ∧ s.knows cs ∧ s.unstepped

/-! ### The state after an instruction -/

/-- The group past an instruction that began in `g0` and left the group as `g`: it is ready, its run is counted, the registers
before the run are kept with the names of those written since, and at level U sr.lrun is the pc of an instruction that reads no latch and a side effect ends sr.done
(04 R86 to R88; 18 R368). -/
def Group.past (g : Group) (i : Instr) (g0 : Group) (now : Nat) : Group :=
  let reads := readsLatch i
  { g with
    run := .ready
    runLen := (if reads then g.runLen else 0) + 1
    shorts := (if reads then g.shorts else 0) + (if isShort i then 1 else 0)
    shadow := (if reads then g.shadow else some g0.snap).map fun b =>
      { b with wrote := b.wrote ++ g0.acts.flatMap fun l => (writtenRegs i).map fun c => (l.no, c) }
    sp := { g.sp with
      lrun := if reads = false ∧ g0.priv = 0 then g0.pc else g.sp.lrun
      done := if effectOf i g0 = true ∧ g0.priv = 0 then 0 else g.sp.done }
    sent := false
    answers := []
    walkFault := none
    lastIssue := now
    lastPc := g0.pc }

/-- The state after an instruction that began in `s0` and did its work as in `s`: the pc is past it and a clk has passed. -/
def State.past (s : State) (i : Instr) (s0 : State) : State :=
  { s with clk := s.clk + 1, g := { s.g.past i s0.g s.clk with pc := s0.g.pc + BitVec.ofNat 64 i.len } }

/-- The state after an instruction that transfers control to a pc: the run ends and the latches are empty (04 R90). -/
def State.went (s : State) (i : Instr) (s0 : State) (pc : Word) : State :=
  { s with clk := s.clk + 1, g := { (s.g.past i s0.g s.clk).endRun with pc := pc, suppress := false } }

/-- The state of a group that does not issue in this clk and waits. -/
def State.waits (s : State) (w : Wait) : State :=
  let since := match s.g.run with | .waiting w' c => if w' = w then c else s.clk | _ => s.clk
  { s with clk := s.clk + 1, g := { s.g with run := .waiting w since } }

/-- The lanes an instruction computes for, with a value each; under U = 1 the lowest active lane's for every active lane (04 R83). -/
def Group.results {α : Type} (g : Group) (u : Bool) (f : Lane → α) : List (Nat × α) :=
  if u then (match g.acts with | l :: _ => g.acts.map fun k => (k.no, f l) | [] => []) else g.acts.map fun l => (l.no, f l)

/-- The group with results written to the destination register and, by a short instruction, into the latch files, and flags raised
(02 R44; 04 R86). -/
def Group.gets (g : Group) (i : Instr) (vals : List (Nat × Val)) (fl : List (Nat × Flags)) : Group :=
  let g1 := match dst i with | some d => g.write d vals | none => g
  (if isShort i then g1.pushLatch vals else g1).raise fl

/-- The state past an instruction that does nothing but give each lane a value. -/
def State.computes (s : State) (i : Instr) (f : Lane → Val) : State :=
  let g : Group := s.g.gets i (s.g.results (isUniform i) f) []
  State.past { s with g := g } i s

end Sys2Proof.Machine
end

