-- ==== Sys2Proof/Safety/Scalar.lean ====
section
/-! DEFINITION. The results of the integer, capability and floating-point forms in the words of 05 R104 to R113, 04 R101 and 06 R128 to
R138, as tables over the operands of one lane. -/

namespace Sys2Proof.Machine

/-! ### Integer forms (05 R102 to R107; 04 R101) -/

/-- 1 when a condition holds, else 0. -/
def oneIf (p : Prop) [Decidable p] : Word := if p then 1 else 0

/-- w one bits, from bit 0 up. -/
def onesW (w : Nat) : Word := BitVec.ofNat 64 (2 ^ w - 1)

/-- Mix(key, ctr) of 05 R106: six rounds with y = key + round × constant, and a last shift. -/
def mixRounds (key ctr : Word) : Word :=
  let x := (List.range 6).foldl (fun (x : Word) n =>
    let x := x + (key + BitVec.ofNat 64 n * 0x8F3C1B97E2A65D49)
    (x ^^^ (x >>> 31)) * 0xA4D96E3B5C27F18D) ctr
  x ^^^ (x >>> 29)

/-- The field of a literal width code of `sext` and `zext` (05 R105): 8, 16 or 32 bits. -/
def literalWidth (w : BitVec 6) : Option Nat := if w = 0 then some 8 else if w = 1 then some 16 else if w = 2 then some 32 else none

/-- What an integer form computes from A = Reg(a), B = Reg(b) and D = Reg(d) of one lane, 64 bits each (05 R102, R104, R105, R107). -/
def integerResult : Instr → Option ((BitVec 6 → Word) → Word)
  | .add b a _ _ _ => some fun r => r a + r b
  | .sub b a _ _ _ => some fun r => r a - r b
  | .mul b a _ _ _ => some fun r => r a * r b
  | .mulhI b a _ _ _ => some fun r => BitVec.ofInt 64 ((r a).toInt * (r b).toInt / 2 ^ 64)
  | .mulhN b a _ _ _ => some fun r => BitVec.ofNat 64 ((r a).toNat * (r b).toNat / 2 ^ 64)
  | .and b a _ _ _ => some fun r => r a &&& r b
  | .or b a _ _ _ => some fun r => r a ||| r b
  | .xor b a _ _ _ => some fun r => r a ^^^ r b
  | .andn b a _ _ _ => some fun r => r a &&& ~~~(r b)
  | .shl b a _ _ _ => some fun r => r a <<< ((r b).toNat % 64)
  | .shr b a _ _ _ => some fun r => r a >>> ((r b).toNat % 64)
  | .sar b a _ _ _ => some fun r => (r a).sshiftRight ((r b).toNat % 64)
  | .rol b a _ _ _ => some fun r => (r a).rotateLeft ((r b).toNat % 64)
  | .ror b a _ _ _ => some fun r => (r a).rotateRight ((r b).toNat % 64)
  | .clz a _ _ _ => some fun r => BitVec.ofNat 64 (((List.range 64).find? fun k => (r a).getLsbD (63 - k)).getD 64)
  | .ctz a _ _ _ => some fun r => BitVec.ofNat 64 (((List.range 64).find? fun k => (r a).getLsbD k).getD 64)
  | .popc a _ _ _ => some fun r => BitVec.ofNat 64 ((List.range 64).countP fun k => (r a).getLsbD k)
  | .minI b a _ _ _ => some fun r => if (r a).toInt ≤ (r b).toInt then r a else r b
  | .maxI b a _ _ _ => some fun r => if (r b).toInt ≤ (r a).toInt then r a else r b
  | .minN b a _ _ _ => some fun r => if (r a).toNat ≤ (r b).toNat then r a else r b
  | .maxN b a _ _ _ => some fun r => if (r b).toNat ≤ (r a).toNat then r a else r b
  | .seq b a _ _ _ => some fun r => oneIf (r a = r b)
  | .sne b a _ _ _ => some fun r => oneIf (r a ≠ r b)
  | .sltI b a _ _ _ => some fun r => oneIf ((r a).toInt < (r b).toInt)
  | .sltN b a _ _ _ => some fun r => oneIf ((r a).toNat < (r b).toNat)
  | .sel b a _ d _ => some fun r => if r d = 0 then r b else r a
  | .sext w a _ _ _ => (literalWidth w).map fun n r => ((r a).setWidth n).signExtend 64
  | .zext w a _ _ _ => (literalWidth w).map fun n r => ((r a).setWidth n).setWidth 64
  | .bfx b a _ _ _ => some fun r => (r a >>> ((r b).toNat % 64)) &&& onesW ((r b).toNat / 64 % 64 + 1)
  | .bfi b a _ d _ => some fun r =>
      let m := onesW ((r b).toNat / 64 % 64 + 1) <<< ((r b).toNat % 64)
      (r d &&& ~~~m) ||| ((r a <<< ((r b).toNat % 64)) &&& m)
  | .rng b a _ _ _ => some fun r => mixRounds (r a) (r b)
  | .addi imm a _ _ _ => some fun r => r a + imm.signExtend 64
  | .andi imm a _ _ _ => some fun r => r a &&& imm.signExtend 64
  | .ori imm a _ _ _ => some fun r => r a ||| imm.signExtend 64
  | .xori imm a _ _ _ => some fun r => r a ^^^ imm.signExtend 64
  | .shli sc a _ _ _ => some fun r => r a <<< sc.toNat
  | .shri sc a _ _ _ => some fun r => r a >>> sc.toNat
  | .sari sc a _ _ _ => some fun r => (r a).sshiftRight sc.toNat
  | .sltiI imm a _ _ _ => some fun r => oneIf ((r a).toInt < (imm.signExtend 64).toInt)
  | .sltiN imm a _ _ _ => some fun r => oneIf ((r a).toNat < (imm.signExtend 64).toNat)
  | .muli imm a _ _ _ => some fun r => r a * imm.signExtend 64
  | .ldi imm _ _ _ => some fun _ => imm.signExtend 64
  | .nop => some fun r => r 0 + 0
  | .compactAdd q p => some fun r => r (kc p) + r (kc q)
  | .compactSub q p => some fun r => r (kc p) - r (kc q)
  | .compactAnd q p => some fun r => r (kc p) &&& r (kc q)
  | .compactOr q p => some fun r => r (kc p) ||| r (kc q)
  | .compactXor q p => some fun r => r (kc p) ^^^ r (kc q)
  | .compactAddi imm p => some fun r => r (kc p) + imm.signExtend 64
  | .compactShli sc p => some fun r => r (kc p) <<< sc.toNat
  | .compactShri sc p => some fun r => r (kc p) >>> sc.toNat
  | .compactSari sc p => some fun r => (r (kc p)).sshiftRight sc.toNat
  | .compactLdi imm _ => some fun _ => imm.signExtend 64
  | _ => none

/-- A long integer form's quotient or remainder, with its two sources and its destination (05 R104; 02 R36). -/
def divisionResult : Instr → Option (BitVec 6 × BitVec 6 × BitVec 6 × (Word → Word → Word))
  | .divI b a d _ => some (a, b, d, fun x y => if y = 0 then BitVec.allOnes 64 else BitVec.ofInt 64 (x.toInt.tdiv y.toInt))
  | .divN b a d _ => some (a, b, d, fun x y => if y = 0 then BitVec.allOnes 64 else BitVec.ofNat 64 (x.toNat / y.toNat))
  | .remI b a d _ => some (a, b, d, fun x y => if y = 0 then x else BitVec.ofInt 64 (x.toInt - y.toInt * x.toInt.tdiv y.toInt))
  | .remN b a d _ => some (a, b, d, fun x y => if y = 0 then x else BitVec.ofNat 64 (x.toNat - y.toNat * (x.toNat / y.toNat)))
  | _ => none

/-- The linear forms of 03 R64 and R65 over the registers of one lane, symbols among them. -/
def linearForm : Instr → Option ((BitVec 6 → Val) → Option Val)
  | .add b a _ _ _ => some fun r => linAdd (r a) (r b)
  | .sub b a _ _ _ => some fun r => linSub (r a) (r b)
  | .mul b a _ _ _ => some fun r => linMul (r a) (r b)
  | .shl b a _ _ _ => some fun r => if (r b).isSym then none else linShl (r a) (r b).word
  | .addi imm a _ _ _ => some fun r => linAdd (r a) ⟨(imm.signExtend 64).setWidth 128, .data⟩
  | .muli imm a _ _ _ => some fun r => linMul (r a) ⟨(imm.signExtend 64).setWidth 128, .data⟩
  | .shli sc a _ _ _ => some fun r => linShl (r a) (sc.setWidth 64)
  | .compactAdd q p => some fun r => linAdd (r (kc p)) (r (kc q))
  | .compactSub q p => some fun r => linSub (r (kc p)) (r (kc q))
  | .compactAddi imm p => some fun r => linAdd (r (kc p)) ⟨(imm.signExtend 64).setWidth 128, .data⟩
  | .compactShli sc p => some fun r => linShl (r (kc p)) (sc.setWidth 64)
  | .cinc b a _ _ _ => some fun r => if (r b).isSym then none else symCinc (r a) (r b).word
  | .cinci imm a _ _ _ => some fun r => symCinc (r a) (imm.signExtend 64)
  | .compactCinci q p => some fun r => symCinc (r (kc p)) (BitVec.ofNat 64 (8 * q.toNat))
  | _ => none

/-- The one-word view of a lane's registers: bits [63:0] of each (05 R102). -/
def Group.words (g : Group) (l : Lane) (c : BitVec 6) : Word := (g.read l c).bits.extractLsb' 0 64

/-- A 64-bit result as DATA (05 R102). -/
def asData (w : Word) : Val := ⟨w.setWidth 128, .data⟩

/-! ### Capability forms (05 R108 to R113) -/

/-- What a capability form computes from the registers of one lane, with sr.mwb. -/
def capabilityResult : Instr → Option (Word → (BitVec 6 → Val) → Val)
  | .cbase a _ _ _ => some fun _ r => asData (BitVec.ofInt 64 (capBase (r a).bits))
  | .ctop a _ _ _ => some fun _ r => asData (BitVec.ofInt 64 (capBase (r a).bits + (capL (r a).bits * 2 ^ capE (r a).bits : Nat)))
  | .clen a _ _ _ => some fun _ r => asData (BitVec.ofNat 64 (capL (r a).bits * 2 ^ capE (r a).bits))
  | .cperm a _ _ _ => some fun _ r => asData (((r a).bits.extractLsb' 113 8).setWidth 64)
  | .cwalk a _ _ _ => some fun _ r => asData (((r a).bits.extractLsb' 121 7).setWidth 64)
  | .ctag a _ _ _ => some fun _ r => asData (oneIf ((r a).tag = .cap))
  | .ccoord a _ _ _ => some fun mwb r =>
      asData (if mwb.toNat ≤ cursorAddr (r a) ∧ cursorAddr (r a) < mwb.toNat + 2 ^ 32 then
        BitVec.ofNat 64 ((cursorAddr (r a) - mwb.toNat) / 2 ^ 19) else 0xFFFFFFFFFFFFFFFF)
  | .cand b a _ _ _ => some fun _ r =>
      ⟨(r a).bits &&& ~~~((~~~(r b).word &&& 0xFF).setWidth 128 <<< 113), if (r a).tag = .cap then .cap else .data⟩
  | .cset b a _ _ _ => some fun _ r =>
      if (r b).word.toNat / 2 ^ 56 ≠ 0 ∨ (r a).tag ≠ .cap then asData (r b).word
      else moveTo (r a) (indexOfAddr (capWalk (r a).bits) (r b).word.toNat)
  | .cinc b a _ _ _ => some fun _ r => moveTo (r a) (index (r a) + (r b).word.toInt)
  | .cinci imm a _ _ _ => some fun _ r => moveTo (r a) (index (r a) + (imm.signExtend 64).toInt)
  | .compactCinci q p => some fun _ r => moveTo (r (kc p)) (index (r (kc p)) + (8 * q.toNat : Nat))
  | .cclr a _ _ _ => some fun _ r => ⟨(r a).bits, .data⟩
  | .cdiff b a _ _ _ => some fun _ r => asData (BitVec.ofInt 64 ((index (r a) : Int) - index (r b)))
  | .cwithin b a _ _ _ => some fun _ r =>
      asData (oneIf ((r a).tag = .cap ∧ capBase (r a).bits ≤ index (r a) ∧ (index (r a) : Int) + (r b).word.toNat ≤ capTop (r a).bits))
  | .cbound b a _ _ _ => some fun _ r => cbound (r a) (r b).word.toNat
  | .cwset b a _ _ _ => some fun mwb r => cwset mwb (r a) ((r b).word.extractLsb' 0 7)
  | .mov a _ _ _ => some fun _ r => r a
  | .compactMov q _ => some fun _ r => r (kc q)
  | _ => none

/-! ### Floating-point forms (06 R126 to R138) -/

/-- A floating-point form: its operands, each in the format it is read in, its result from their encodings and the rounding mode, and
whether subnormals cost it issue turns (06 R128 to R138; 02 R49). -/
structure FloatForm where
  ops : List (BitVec 2 × BitVec 6)
  res : BitVec 2 → List Nat → FpRes
  cost : Bool

/-- The two operands of a form of type t. -/
def ofTwo (t : BitVec 2) (a b : BitVec 6) (f : FpFmt → BitVec 2 → Nat → Nat → FpRes) : Option FloatForm :=
  some ⟨[(t, a), (t, b)], fun m v => f (fpFmt t) m (v.getD 0 0) (v.getD 1 0), true⟩

/-- The three operands of a fused form of type t. -/
def ofThree (t : BitVec 2) (a b d : BitVec 6) (f : FpFmt → BitVec 2 → Nat → Nat → Nat → FpRes) : Option FloatForm :=
  some ⟨[(t, a), (t, b), (t, d)], fun m v => f (fpFmt t) m (v.getD 0 0) (v.getD 1 0) (v.getD 2 0), true⟩

/-- An exact result without flags. -/
def exactly (n : Nat) : FpRes := ⟨n, ⟨false, false, false, false, false⟩, false⟩

/-- The short floating-point forms (06 R128, R130 to R138; 04 R101). -/
def floatResult : Instr → Option FloatForm
  | .fadd b a _ _ t _ => ofTwo t a b fun f m x y => fpAdd f m false x y
  | .fsub b a _ _ t _ => ofTwo t a b fun f m x y => fpAdd f m true x y
  | .fmul b a _ _ t _ => ofTwo t a b fun f m x y => fpMul f m x y
  | .fma b a _ d t _ => ofThree t a b d fun f m x y z => fpFma f m false false x y z
  | .fms b a _ d t _ => ofThree t a b d fun f m x y z => fpFma f m false true x y z
  | .fnma b a _ d t _ => ofThree t a b d fun f m x y z => fpFma f m true true x y z
  | .fmin b a _ _ t _ => ofTwo t a b fun f _ x y => fpMinMax f false x y
  | .fmax b a _ _ t _ => ofTwo t a b fun f _ x y => fpMinMax f true x y
  | .fceq b a _ _ t _ => ofTwo t a b fun f _ x y => fpCompare f 0 x y
  | .fclt b a _ _ t _ => ofTwo t a b fun f _ x y => fpCompare f 1 x y
  | .fcle b a _ _ t _ => ofTwo t a b fun f _ x y => fpCompare f 2 x y
  | .fcun b a _ _ t _ => ofTwo t a b fun f _ x y => fpCompare f 3 x y
  | .fabs a _ _ t _ => some ⟨[(t, a)], fun _ v => exactly (v.getD 0 0 % 2 ^ ((fpFmt t).width - 1)), false⟩
  | .fneg a _ _ t _ => some ⟨[(t, a)], fun _ v => exactly (v.getD 0 0 ^^^ 2 ^ ((fpFmt t).width - 1)), false⟩
  | .fsgn b a _ _ t _ => some ⟨[(t, a), (t, b)], fun _ v =>
      exactly (v.getD 0 0 % 2 ^ ((fpFmt t).width - 1) + v.getD 1 0 / 2 ^ ((fpFmt t).width - 1) * 2 ^ ((fpFmt t).width - 1)), false⟩
  | .fclass a _ _ t _ => some ⟨[(t, a)], fun _ v => exactly (fpClass (fpFmt t) (v.getD 0 0)), false⟩
  | .fround a _ _ t _ => some ⟨[(t, a)], fun m v => fpRound (fpFmt t) m (v.getD 0 0), true⟩
  | .fcvtFf sc a _ _ t _ => some ⟨[(sc, a)], fun m v => fpConvert (fpFmt sc) (fpFmt t) m (v.getD 0 0), true⟩
  | .fcvtFi rr imm a _ _ t _ => some ⟨[(t, a)], fun m v =>
      let r := fpToInt (fpFmt t) (if rr = 4 then m else rr.setWidth 2) imm (v.getD 0 0)
      ⟨r.1.toNat, r.2, false⟩, true⟩
  | .compactFaddF32 q p => ofTwo 1 (kc p) (kc q) fun f m x y => fpAdd f m false x y
  | .compactFmulF32 q p => ofTwo 1 (kc p) (kc q) fun f m x y => fpMul f m x y
  | _ => none

/-- The long floating-point forms: the form, the destination, and how many clk until it can be read (06 R129; 04 R85). -/
def longFloatResult : Instr → Option (FloatForm × BitVec 6 × Nat)
  | .fdiv b a d t _ => (ofTwo t a b fun f m x y => fpDiv f m x y).map fun x => (x, d, if t = 0 then 26 else if t = 1 then 14 else 9)
  | .fsqrt a d t _ => some (⟨[(t, a)], fun m v => fpSqrt (fpFmt t) m (v.getD 0 0), true⟩, d, if t = 0 then 26 else if t = 1 then 14 else 9)
  | .fexp2 a d _ => some (⟨[(1, a)], fun m v => fpExp2 m (v.getD 0 0), true⟩, d, 12)
  | .flog2 a d _ => some (⟨[(1, a)], fun m v => fpLog2 m (v.getD 0 0), true⟩, d, 12)
  | _ => none

/-- The encodings of a form's operands in a lane (06 R127). -/
def FloatForm.args (f : FloatForm) (g : Group) (l : Lane) : List Nat :=
  f.ops.map fun p => (g.read l p.2).bits.toNat % 2 ^ (fpFmt p.1).width

/-- A form's result in a lane, in the mode of the lane's slice (06 R127). -/
def FloatForm.in (f : FloatForm) (g : Group) (l : Lane) : FpRes := f.res ((g.fmode l.no).extractLsb' 0 2) (f.args g l)

/-- Whether a lane of a form meets a subnormal: an operand, or the exact result below the least normal magnitude (02 R49). -/
def FloatForm.subnormal (f : FloatForm) (g : Group) (l : Lane) : Bool :=
  f.cost && ((f.ops.zip (f.args g l)).any (fun p => (fpFmt p.1.1).isSub p.2) || (f.in g l).small)

/-- The group that has paid for subnormals: 2 issue turns on a G-core, 4 on an S-core (02 R49). -/
def Group.paysIf (g : Group) (b : Bool) : Group := { g with forfeit := g.forfeit + (if b then (if g.isG then 2 else 4) else 0) }

end Sys2Proof.Machine
end

