-- ==== Sys2Proof/Safety/Control.lean ====
section
/-! DEFINITION. The forms that transfer control, as tables in the words of 05 R119 to R123 and 04 R101. -/

namespace Sys2Proof.Machine

/-- A conditional branch: its sources A and D, its displacement in bytes, and when it is taken (05 R119; 04 R101). -/
def branchForm : Instr → Option (BitVec 6 × BitVec 6 × Int × (Word → Word → Bool))
  | .bEq imm a d _ => some (a, d, imm.toInt * 2, fun x y => x == y)
  | .bNe imm a d _ => some (a, d, imm.toInt * 2, fun x y => x != y)
  | .bLt imm a d _ => some (a, d, imm.toInt * 2, fun x y => decide (x.toInt < y.toInt))
  | .bGe imm a d _ => some (a, d, imm.toInt * 2, fun x y => decide (y.toInt ≤ x.toInt))
  | .bLtn imm a d _ => some (a, d, imm.toInt * 2, fun x y => decide (x.toNat < y.toNat))
  | .bGen imm a d _ => some (a, d, imm.toInt * 2, fun x y => decide (y.toNat ≤ x.toNat))
  | .bZ off p => some (kc p, 0, 2 * off.toNat, fun x y => x == y)
  | .bNz off p => some (kc p, 0, 2 * off.toNat, fun x y => x != y)
  | _ => none

/-- The pc a branch sends a lane to. -/
def branchTarget (i : Instr) (g : Group) (a d : BitVec 6) (off : Int) (c : Word → Word → Bool) (l : Lane) : Word :=
  if c (g.words l a) (g.words l d) then g.pc + BitVec.ofInt 64 off else g.pc + BitVec.ofNat 64 i.len

/-- A jump through a capability: its source, whether it links, and whether an exit capability ends the lane (05 R121, R122;
04 R101). -/
def jumpReg : Instr → Option (BitVec 6 × Bool × Bool)
  | .jr a _ => some (a, false, false)
  | .callr a _ => some (a, true, false)
  | .ret a _ => some (a, false, true)
  | .compactJr p => some (kc p, false, false)
  | .compactRet => some (55, false, true)
  | _ => none

/-- The state in which every active lane's k55 holds the return point of a call (05 R120, R121). -/
def State.linked (s : State) (i : Instr) : State :=
  let ret := withCursor s.g.codeCap (s.g.pc + BitVec.ofNat 64 i.len)
  let g : Group := s.g.write 55 (s.g.acts.map fun l => (l.no, ret))
  { s with g := g }

/-- No source is ABSENT in an active lane (18 R386). -/
abbrev State.present (s : State) (cs : List (BitVec 6)) : Prop := ∀ l ∈ s.g.acts, ∀ c ∈ cs, (s.g.read l c).tag ≠ .absent

/-- Some active lane holds a live symbol in a source (03 R67). -/
abbrev State.symbolic (s : State) (cs : List (BitVec 6)) : Prop := ∃ l ∈ s.g.acts, ∃ c ∈ cs, (s.g.read l c).isSym = true

/-- A barrier at pod scope waits for the other packages of its task's launch: GO is not known yet, or one has not said that its members
have arrived in this generation (09 R203; 22 R444; log 87). -/
abbrev State.awaitsPackages (s : State) (b : Barrier) : Prop :=
  b.key.scope = 4 ∧ ∃ t, s.task b.key.task = some t ∧
    (t.await = true ∨ ∃ n ∈ s.peers t, ∀ q ∈ b.away, q.1 = n → q.2.1 ≠ b.gen % 2 ^ 32)

/-- The contributions of the other packages to a generation of a barrier (09 R205; 22 R444). -/
def State.fromPackages (s : State) (b : Barrier) : List Word :=
  match (if b.key.scope = 4 then s.task b.key.task else none) with
  | some t => (s.peers t).filterMap fun n => (b.away.find? fun q => q.1 == n && q.2.1 == b.gen % 2 ^ 32).map (·.2.2)
  | none => []

end Sys2Proof.Machine
end

