-- ==== Sys2Proof/Safety/Device.lean ====
section
/-! DEFINITION. What an instruction asks of a state-store unit (17 R356 to R362), and what the host sees of a command that has been served
(26 R484). -/

namespace Sys2Proof.Machine

/-- What `rs.open`, `rs.snap`, `rs.roll`, `rs.fork`, `rs.drop` and `rs.pos` ask, with the handle and the die of the unit asked: none where
an operand breaks a rule of its instruction (17 R356, R357, R360 to R362). -/
def storeRequest (s : State) (l : Lane) (i : Instr) : Option (SsAsk × Word × Nat) :=
  let on (p : Word) (a : BitVec 6) (ask : SsAsk) : Option (SsAsk × Word × Nat) :=
    if p.toNat < 2 ^ 32 - 1 then some (ask, s.g.words l a, handleDie (s.g.words l a)) else none
  match i with
  | .rsOpen b a _ =>
    let geometry := s.g.words l b
    let pages := (geometry.extractLsb' 0 20).toNat
    if (s.g.words l a).toNat < 2 ^ 32 ∧ geometry.toNat < 2 ^ 24 ∧ 1 ≤ pages ∧ pages ≤ 65536 then
      some (.open_ (s.g.words l a).toNat pages ((geometry.extractLsb' 20 4).toNat + 1), 0, s.g.core / 1024)
    else none
  | .rsSnap b a => on (s.g.words l b) a (.snap (s.g.words l b))
  | .rsRoll b a => on (s.g.words l b) a (.roll (s.g.words l b))
  | .rsFork b a _ => if (s.g.xr 0).toNat < 2 ^ 32 then on (s.g.words l b) a (.fork (s.g.words l b) (s.g.xr 0)) else none
  | .rsDrop a => on 0 a .drop
  | .rsPos a _ => on 0 a .pos
  | _ => none

/-- A command of a function has been replied to with a status and data: the function is ready again, GO is 0, vector 0 is raised, and the
command is no longer served (26 R484). -/
def State.replied (t : State) (fn : Nat) (tag : BitVec 32) (status : Nat) (data : List Byte) : Prop :=
  fn ∉ t.pkg.firmware.serving ∧
    ∀ f ∈ t.pkg.functions, f.no = fn → f.busy = none ∧ f.go = false ∧ f.replyData = data ∧ f.vectors.getLsbD 0 = true ∧
      f.reply = BitVec.ofNat 64 (status % 2 ^ 16 + data.length % 2 ^ 16 * 2 ^ 16 + tag.toNat * 2 ^ 32)

/-- What a command leaves: its reply, and the machine's groups and crews as they were. -/
def State.serves (s t : State) (fn : Nat) (tag : BitVec 32) (status : Nat) (data : List Byte) : Prop :=
  t.replied fn tag status data ∧ t.g = s.g ∧ t.groups = s.groups ∧ t.crews = s.crews ∧ t.cores = s.cores

end Sys2Proof.Machine
end

