-- ==== Sys2Proof/Safety/Lane.lean ====
section
/-! DEFINITION. The lane forms, the mask registers and the quantisation forms, as tables in the words of 09 R188 to R196 and 16 R324 to
R327. -/

namespace Sys2Proof.Machine

/-- What every active lane receives. -/
def Group.everyLane (g : Group) (f : Lane → Val) : List (Nat × Val) := g.acts.map fun l => (l.no, f l)

/-- The a of the active lane j, or the lane's own (09 R189). -/
def Group.fromLane (g : Group) (a : BitVec 6) (l : Lane) (j : Option Nat) : Val :=
  match j.bind fun n => g.acts.find? fun k => k.no == n with
  | some k => g.read k a
  | none => g.read l a

/-- The list a register holds across the active lanes up to the sentinel, with the lanes (09 R193). -/
def Group.upToSentinel (g : Group) (a : BitVec 6) : List (Nat × Word) :=
  (g.acts.map fun l => (l.no, (g.words l a) &&& 0xFFFFFFFF)).takeWhile fun p => p.2 != 0xFFFFFFFF

/-- The results of the lane forms (09 R188 to R193). -/
def laneResult : Instr → Option (Group → List (Nat × Val))
  | .laneId _ => some fun g => g.everyLane fun l => asData (BitVec.ofNat 64 l.no)
  | .laneGet b a _ => some fun g => g.everyLane fun l => g.fromLane a l (some ((g.words l b).toNat % 32))
  | .laneRise b a _ => some fun g => g.everyLane fun l =>
      g.fromLane a l (if (g.words l b).toNat % 32 ≤ l.no then some (l.no - (g.words l b).toNat % 32) else none)
  | .laneFall b a _ => some fun g => g.everyLane fun l => g.fromLane a l (some (l.no + (g.words l b).toNat % 32))
  | .laneFlip b a _ => some fun g => g.everyLane fun l => g.fromLane a l (some (l.no ^^^ ((g.words l b).toNat % 32)))
  | .laneAny a _ => some fun g => g.everyLane fun _ => asData (oneIf (∃ k ∈ g.acts, g.words k a ≠ 0))
  | .laneAll a _ => some fun g => g.everyLane fun _ => asData (oneIf (∀ k ∈ g.acts, g.words k a ≠ 0))
  | .laneBits a _ => some fun g => g.everyLane fun _ =>
      asData ((laneMask (g.acts.filter fun k => g.words k a != 0)).setWidth 64)
  | .redAddI a _ => some fun g => g.everyLane fun _ => asData ((g.acts.map fun k => g.words k a).foldr (· + ·) 0)
  | .scanAddI a _ => some fun g => g.acts.mapIdx fun n l =>
      (l.no, asData (((g.acts.take (n + 1)).map fun k => g.words k a).foldr (· + ·) 0))
  | .intersect b a _ => some fun g => g.everyLane fun l =>
      asData (match (g.upToSentinel a).lookup l.no with
        | none => 0xFFFFFFFF
        | some x => match (g.upToSentinel b).find? fun p => p.2 == x with
          | some p => BitVec.ofNat 64 p.1
          | none => 0xFFFFFFFF)
  | .mMovToK a _ => some fun g => g.everyLane fun _ => asData ((g.m.toList.getD a.toNat 0).setWidth 64)
  | _ => none

/-- The floating-point reductions: the source and what two nodes give in a mode (09 R191). -/
def reduceForm : Instr → Option (BitVec 6 × (BitVec 2 → Nat → Nat → FpRes))
  | .redAddF32 a _ => some (a, fun m x y => fpAdd (fpFmt 1) m false x y)
  | .redMaxF32 a _ => some (a, fun _ x y => fpMinMax (fpFmt 1) true x y)
  | .redMinF32 a _ => some (a, fun _ x y => fpMinMax (fpFmt 1) false x y)
  | _ => none

/-- A reduction of the present lanes of a tree of `n` levels, 2^n lanes from lane `k`: each node combines its lower half with its upper
half, and a half without a present lane is left out (09 R191). The value, the flags, and whether a node meets a subnormal, in an operand or in
its result (02 R49). -/
def reduceTree (op : Nat → Nat → FpRes) (leaf : Nat → Option Nat) : Nat → Nat → Option (Nat × Flags × Bool)
  | 0, k => (leaf k).map fun x => (x, ⟨false, false, false, false, false⟩, (fpFmt 1).isSub x)
  | n + 1, k =>
    match reduceTree op leaf n k, reduceTree op leaf n (k + 2 ^ n) with
    | some x, some y =>
      let r := op x.1 y.1
      some (r.bits, (x.2.1.or y.2.1).or r.flags, x.2.2 || y.2.2 || (fpFmt 1).isSub x.1 || (fpFmt 1).isSub y.1 || r.small)
    | some x, none => some x
    | none, y => y

/-- The mask register an instruction writes, and its value (09 R196). -/
def maskResult : Instr → Option (BitVec 6 × (Group → BitVec 32))
  | .mAnd b a d => some (d, fun g => g.m.toList.getD a.toNat 0 &&& g.m.toList.getD b.toNat 0)
  | .mOr b a d => some (d, fun g => g.m.toList.getD a.toNat 0 ||| g.m.toList.getD b.toNat 0)
  | .mNot a d => some (d, fun g => ~~~(g.m.toList.getD a.toNat 0))
  | .mMov a d => some (d, fun g => g.m.toList.getD a.toNat 0)
  | .mMovActive d => some (d, fun g => laneMask g.acts)
  | _ => none

/-- The quantisation forms: whether they need an element type, and the result from the registers of a lane and its sr.fmt (16 R324 to
R327). -/
def quantResult : Instr → Option (Bool × (Word → (BitVec 6 → Word) → Word))
  | .fmtGet _ _ => some (false, fun fmt _ => fmt)
  | .qmax b a _ _ => some (false, fun _ r => foldExtremes (r a) ((r b).toNat % 2 ^ 32))
  | .qscale a _ _ => some (true, fun fmt r => packedScale (r a) fmt)
  | .quant b a _ _ => some (true, fun fmt r => BitVec.ofNat 64
      (quantise ((r a).toNat % 2 ^ 32) ((r b).toNat % 2 ^ 16) ((r b).toNat / 2 ^ 16 % 2 ^ 8) (if fmtET fmt = 2 then 4 else 8) (fmtSF fmt)))
  | .dequant b a _ _ => some (true, fun fmt r => BitVec.ofNat 64
      (dequantise ((r a).toNat % 2 ^ (if fmtET fmt = 2 then 4 else 8)) ((r b).toNat % 2 ^ 16) ((r b).toNat / 2 ^ 16 % 2 ^ 8) (fmtSF fmt)))
  | .salient b a _ _ => some (false, fun _ r => salientPair (r a) (r b))
  | _ => none

end Sys2Proof.Machine
end

