-- ==== Sys2Proof/Safety/Memory.lean ====
section
/-! DEFINITION. The forms that access memory, as tables in the words of 05 R114 to R118, 13 R263 to R273 and 04 R99, R101; the place of an
access at the executing core's own local memory; and what frames say. -/

namespace Sys2Proof.Machine

/-! ### Forms -/

/-- A load or store: its base register, its data or destination register, its bytes, whether it stores, sign-extends or moves a CAP, the
displacement of its address, and the advance of its base (04 R99; 05 R114). -/
structure AccessForm where
  base : BitVec 6
  reg : BitVec 6
  size : Nat
  store : Bool
  sx : Bool
  cap : Bool
  disp : Int
  advance : Option Int
  deriving DecidableEq, Repr

/-- An M-format load or store with its displacement scaled by its size, offset or post-increment (04 R99). -/
def mForm (imm : BitVec 11) (p : Bool) (a d : BitVec 6) (size : Nat) (store sx cap : Bool) : Option AccessForm :=
  some ⟨a, d, size, store, sx, cap, if p then 0 else imm.toInt * size, if p then some (imm.toInt * size) else none⟩

/-- The loads and stores (05 R114, R115; 04 R101). -/
def accessForm : Instr → Option AccessForm
  | .ldI8 imm p a d _ => mForm imm p a d 1 false true false
  | .ldN8 imm p a d _ => mForm imm p a d 1 false false false
  | .ldI16 imm p a d _ => mForm imm p a d 2 false true false
  | .ldN16 imm p a d _ => mForm imm p a d 2 false false false
  | .ldI32 imm p a d _ => mForm imm p a d 4 false true false
  | .ldN32 imm p a d _ => mForm imm p a d 4 false false false
  | .ld64 imm p a d _ => mForm imm p a d 8 false false false
  | .ld128 imm p a d _ => mForm imm p a d 16 false false false
  | .ldCap imm p a d _ => mForm imm p a d 16 false false true
  | .st8 imm p a d _ => mForm imm p a d 1 true false false
  | .st16 imm p a d _ => mForm imm p a d 2 true false false
  | .st32 imm p a d _ => mForm imm p a d 4 true false false
  | .st64 imm p a d _ => mForm imm p a d 8 true false false
  | .st128 imm p a d _ => mForm imm p a d 16 true false false
  | .stCap imm p a d _ => mForm imm p a d 16 true false true
  | .compactLd64 q p => some ⟨kc q, kc p, 8, false, false, false, 0, none⟩
  | .compactLdI32 q p => some ⟨kc q, kc p, 4, false, true, false, 0, none⟩
  | .compactSt64 q p => some ⟨kc q, kc p, 8, true, false, false, 0, none⟩
  | .compactSt32 q p => some ⟨kc q, kc p, 4, true, false, false, 0, none⟩
  | _ => none

/-- An atomic: its base, its operand and destination registers, its bytes, and the word it leaves for the old word, B and D, none if it
writes nothing (13 R266, R268). -/
def atomicForm : Instr → Option (BitVec 6 × BitVec 6 × BitVec 6 × Nat × (Nat → Nat → Nat → Option Nat))
  | .amoAdd b a d w _ => let n := if w then 8 else 4; some (a, b, d, n, fun v x _ => some ((v + x) % 2 ^ (8 * n)))
  | .amoMinI b a d w _ => let n := if w then 8 else 4; some (a, b, d, n, fun v x _ => some (if signed (8 * n) v ≤ signed (8 * n) x then v else x))
  | .amoMaxI b a d w _ => let n := if w then 8 else 4; some (a, b, d, n, fun v x _ => some (if signed (8 * n) x ≤ signed (8 * n) v then v else x))
  | .amoMinN b a d w _ => some (a, b, d, if w then 8 else 4, fun v x _ => some (min v x))
  | .amoMaxN b a d w _ => some (a, b, d, if w then 8 else 4, fun v x _ => some (max v x))
  | .amoAnd b a d w _ => some (a, b, d, if w then 8 else 4, fun v x _ => some (v &&& x))
  | .amoOr b a d w _ => some (a, b, d, if w then 8 else 4, fun v x _ => some (v ||| x))
  | .amoXor b a d w _ => some (a, b, d, if w then 8 else 4, fun v x _ => some (v ^^^ x))
  | .amoSwap b a d w _ => some (a, b, d, if w then 8 else 4, fun _ x _ => some x)
  | .amoCas b a d w _ => some (a, b, d, if w then 8 else 4, fun v x e => if v = e then some x else none)
  | .amoFaddF32 b a d _ => some (a, b, d, 4, fun v x _ => some (canonical (fpFmt 1) (fpAdd (fpFmt 1) 0 false v x)))
  | .amoFaddBf16 b a d _ => some (a, b, d, 2, fun v x _ => some (canonical (fpFmt 3) (fpAdd (fpFmt 3) 0 false v x)))
  | _ => none

/-- A full/empty operation on one word: its base, its data and destination registers, the state it needs, the state it leaves, whether it
reads, and whether it writes (11 R241; 13 R263). -/
structure FullEmptyForm where
  base : BitVec 6
  data : BitVec 6
  dst : BitVec 6
  needs : Option Bool
  leaves : Option Bool
  reads : Bool
  writes : Bool
  deriving DecidableEq, Repr

/-- The full/empty operations (11 R241). -/
def fullEmptyForm : Instr → Option FullEmptyForm
  | .ldFe a d _ => some ⟨a, 0, d, some true, some false, true, false⟩
  | .ldFf a d _ => some ⟨a, 0, d, some true, none, true, false⟩
  | .stEf b a _ => some ⟨a, b, 0, some false, some true, false, true⟩
  | .stFf b a _ => some ⟨a, b, 0, none, some true, false, true⟩
  | .feSet sc a _ => some ⟨a, 0, 0, none, some (sc.toNat % 2 == 1), false, false⟩
  | _ => none

/-! ### The executing core's own local memory -/

/-- The index a lane accesses from its base. -/
def accessIndex (g : Group) (a : BitVec 6) (disp : Int) (l : Lane) : Int := index (g.read l a) + disp

/-- The address a lane accesses (05 R108, R114). -/
def accessAddr (g : Group) (a : BitVec 6) (disp : Int) (l : Lane) : Nat :=
  spreadInt (capWalk (g.read l a).bits) (accessIndex g a disp l)

/-- The physical address of a lane's access at its own core's local memory (11 R218, R224). -/
def ownPA (g : Group) (a : BitVec 6) (disp : Int) (l : Lane) : Nat :=
  localPA g.core ((accessAddr g a disp l - g.sp.mwb.toNat) % 2 ^ 19)

/-- A lane's access passes its checks and lies in its own core's local memory (00 R6; 11 R218; 13 R260). -/
abbrev Group.mayAccess (g : Group) (a : BitVec 6) (disp : Int) (size : Nat) (ps : List Perm) (l : Lane) : Prop :=
  (g.read l a).tag = .cap ∧ (∀ p ∈ ps, capHas (g.read l a).bits p = true) ∧
  inBounds (g.read l a).bits (accessIndex g a disp l) size = true ∧ accessAddr g a disp l % size = 0 ∧
  ownAddr g (accessAddr g a disp l) = true ∧ g.core < 6144 ∧ g.sp.mwb.toNat % 2 ^ 32 = 0 ∧
  (accessAddr g a disp l - g.sp.mwb.toNat) % 2 ^ 19 + size ≤ localSize g.core

/-- An access of a lane at a local place is performed at its issue and not refused, and its line's check value is that of its bytes
(05 R117; 07 R151; 11 R235, R237; 12 R247 to R249, R255; 18 R380). -/
abbrev State.atOnce (s : State) (l : Lane) (pa size : Nat) : Prop :=
  s.ownedAt pa 64 = false ∧ s.displaced = false ∧ s.scDueAt (homeOf pa) = false ∧ mapGet (pa / 64) s.mem.checks = none ∧
  (∀ r ∈ s.net, (r.src = s.g.srcOf l.no ∨ (r.gid = s.g.gid ∧ r.since = s.clk)) → r.home ≠ homeOf pa) ∧
  s.pkg.deadDies.getLsbD (s.g.core / 1024) = false ∧ (s.core s.g.core).fenced = false ∧
  s.locked pa size = false ∧ s.replicaAt pa size = false

/-- No watchpoint of the group is armed (19 R404). -/
abbrev Group.unwatched (g : Group) : Prop := ∀ sl ∈ g.slices, (sl.wp.toList.any fun w => w.getLsbD 63) = false

/-- The instruction that follows reads no latch, so that one with a side effect may act (04 R89). -/
noncomputable def State.follower (s : State) (i : Instr) : Bool :=
  match fetch s s.g (s.g.pc + BitVec.ofNat 64 i.len) with
  | .instr j _ _ => !readsLatch j
  | .reserved _ _ => true
  | _ => false

/-- The register value a load gives (05 R115; 03 R71; 11 R236): poisoned, CAP, or DATA. -/
def loadedValue (m : Memory) (f : AccessForm) (v : Val) (pa : Nat) : Val :=
  if m.poisoned pa f.size then poisonVal
  else if f.cap then ⟨BitVec.ofNat 128 (m.nat pa 16), if capHas v.bits .lc ∧ m.tagAt pa then .cap else .data⟩
  else if f.sx then ⟨(BitVec.ofInt 64 (signed (8 * f.size) (m.nat pa f.size))).setWidth 128, .data⟩
  else ⟨BitVec.ofNat 128 (m.nat pa f.size), .data⟩

/-- The group with its bases advanced, where a form advances them (05 R114). -/
def Group.advanced (g : Group) (u : Bool) (a : BitVec 6) : Option Int → Group
  | none => g
  | some n => g.write a (g.results u fun l => moveTo (g.read l a) (index (g.read l a) + n))

/-- The state after the stores of some lanes, in their order, each of which other groups' armed waits notice (09 R210). -/
def State.afterStores (s : State) (size : Nat) (pa : Lane → Nat) (data : Lane → Quad) (tag : Lane → Bool) (ls : List Lane) : State :=
  ls.foldl (fun s l =>
    let m := s.mem.store (pa l) size (data l).toNat
    let s1 : State := { s with mem := if tag l then m.setTag (pa l) else m }
    s1.noticed s.g.gid (pa l) size) s

/-! ### Frames -/

/-- Two groups agree but for the registers `ds`, the latches and what every instruction counts: the lanes and their other registers,
the mask, operand-extension and format registers, the stacks, the code capability, and the special registers but sr.lrun and sr.done. -/
abbrev Group.agrees (g h : Group) (ds : List (BitVec 6)) : Prop :=
  h.lanes.map (fun l => (l.no, l.active, l.live)) = g.lanes.map (fun l => (l.no, l.active, l.live)) ∧
  (∀ c : BitVec 6, c.toNat < 56 → c ∉ ds → h.lanes.map (·.reg c) = g.lanes.map (·.reg c)) ∧
  h.x = g.x ∧ h.m = g.m ∧ h.codeCap = g.codeCap ∧
  h.slices.map (fun x => (x.idx, x.fmode, x.fmt, x.stack)) = g.slices.map (fun x => (x.idx, x.fmode, x.fmt, x.stack)) ∧
  h.sp = { g.sp with lrun := h.sp.lrun, done := h.sp.done }

/-- Outside some bytes memory reads as before. -/
def Memory.sameOutside (m m' : Memory) (out : Nat → Prop) : Prop := ∀ b, out b → m'.byte b = m.byte b

end Sys2Proof.Machine
end

