-- ==== Sys2Proof/Certificates/Slice0/Obligations.lean ====
section
/-! DEFINITION. The statements for the provers. -/

open Sys2Proof Sys2Proof.Machine

/-- Right after reset no byte, tag, poison or key is listed, every word of local memory is FULL, every semaphore counts 0 and every s
register holds 0, no strand, crew or task is there, each state-store unit hands out GEN 1, no array has numbered an operation, the time
base is FREE from 0, the ROM has not run, and every measurement register holds zero (00 to 26: R25, R153, R241, R347, R434, R493). That an
unlisted byte reads as 0 is the model's choice (log 1). -/
def Obligations.ResetLeavesTheStatedValues : Prop :=
  State.reset.inv ∧ (∀ a, State.reset.mem.byte a = 0 ∧ State.reset.mem.tagAt a = false ∧ State.reset.mem.isFull a = true) ∧
  (∀ a n, State.reset.mem.poisoned a n = false) ∧
  (∀ core n, (State.reset.core core).sem n = ⟨0, []⟩) ∧ (∀ core, (State.reset.core core).s = Vector.replicate 8 0) ∧
  (∀ core, (State.reset.core core).journal.toList = List.replicate 64 none) ∧
  State.reset.g.run = .free ∧ State.reset.groups = [] ∧ State.reset.crews = [] ∧ State.reset.tasks = [] ∧
  (∀ die slot, die < 6 → slot < 8192 → ((State.reset.store_ die).handle slot).extractLsb' 16 16 = 1) ∧ (∀ core, (State.reset.array core).seq = 0) ∧
  State.reset.pkg.time.state = .free ∧ State.reset.pkg.time.ns = 0 ∧ State.reset.pkg.firmware.booted = false ∧
  State.reset.pkg.firmware.measures = Vector.replicate 16 0

/-- Every step keeps memory in its canonical form: cells, tags, EMPTY words, poisoned lines and keys in strictly rising order and no
listed byte zero, whatever moves next (11 R218 to R226). -/
def Obligations.StepKeepsMemoryCanonical : Prop :=
  ∀ (s t : State), s.inv → step s = .next t → t.inv

/-- Every well-formed instruction of a program decodes from its own word to itself, with every operand at every value its encoding admits
(04 R79 to R101). -/
def Obligations.DecodeOfEncode : Prop :=
  ∀ (i : Instr), i.wf = true → i.len ≠ 0 → decode (encode i) = .ok (i, [])

/-- The words that the spec writes out decode to the instructions it gives for them (04 R80 to R101 and the examples of the sections). -/
def Obligations.ExampleWordsDecode : Prop :=
  decode32 0x0C20C001 = some (.add 3 2 false 6 false) ∧ decode32 0x01388045 = some (.shli 4 56 true 0 false) ∧
  decode32 0x00224769 = some (.ld64 1 false 9 7 false) ∧ decode32 0xFF0600C5 = some (.bNe 0x3FC 6 0 false) ∧
  decode16 0x3262 = some (.bZ 6 9) ∧ decode16 0x38C4 = some (.compactAdd 7 3) ∧ decode32 0x0F8928D1 = some (.fma 3 56 true 9 1 false)

/-- A step runs the decoded instruction. Once the watchdogs have counted and the groups that are ready are marked: with nothing on the
agenda, no event due and no power duty withheld, where the group at hand has the turn and owes no step trap and no forfeited turn, the step
is the meaning of the instruction that the bytes at its pc decode to, after which, if the group did not stay waiting, its port remembers it
and passes the others over; a reserved word is the encoding trap. An event that is due, or that the agenda names, is its meaning; in a clk
that the duty withholds nothing issues, whether the order or the agenda would have it. The order of moves is the model's (log 27) (04
R79; 07 R150, R156, R167; 26 R495). -/
def Obligations.AStepRunsTheDecodedInstruction : Prop :=
  (∀ (s : State), let s1 := s.countdown.markReady
    s1.agenda = [] → s1.due = none → s1.offDuty = false → s1.choose = some s1.g.gid →
    s1.mayIssue s1.g = true → s1.g.stepDue = none → (s1.passes s1.g = true → (s1.attempt s1.g.gid).wentOn s1.g.gid = false) →
    ∀ h h2, fetchHalf s1 s1.g s1.g.pc s1.g.pc = .inl h → (h % 2 = 1 → fetchHalf s1 s1.g s1.g.pc (s1.g.pc + 2) = .inl h2) →
      (∀ i rest t, decode (natBytes 2 h ++ natBytes 2 h2) = .ok (i, rest) → exec i s1 = .next t →
        step s = .next (if t.wentOn s1.g.gid then s1.afterIssue t else t)) ∧
      (∀ w n t, decode (natBytes 2 h ++ natBytes 2 h2) = .error (.reserved w n) →
        exec (.reservedEncoding (BitVec.ofNat 32 w) n) s1 = .next t →
        step s = .next (if t.wentOn s1.g.gid then s1.afterIssue t else t))) ∧
  (∀ (s : State) (i : Instr), let s1 := s.countdown.markReady
    s1.agenda = [] → s1.due = some i → step s = exec i s1) ∧
  (∀ (s : State) (i : Instr) (t : List Turn), let s1 := s.countdown.markReady
    s1.agenda = .event i :: t → isEvent i = true → step s = exec i { s1 with agenda := t }) ∧
  (∀ (s : State), let s1 := s.countdown.markReady
    s1.offDuty = true → (s1.agenda = [] ∧ s1.due = none ∨ ∃ gid t, s1.agenda = .issue gid :: t) → step s = .next s1.tick)

/-- A conditional branch whose executing lanes agree sets the pc to PC + sext(imm10) × 2 when its condition holds, else goes past
itself, and ends its latch run (05 R119; 04 R90, R101). -/
def Obligations.BranchesGoWhereTheirConditionSays : Prop :=
  ∀ (i : Instr) (s : State) (a d : BitVec 6) (off : Int) (c : Word → Word → Bool) (b : Bool),
    branchForm i = some (a, d, off, c) → s.clear i (srcs i) → s.g.acts ≠ [] →
    (∀ l ∈ s.g.execs (isUniform i), c (s.g.words l a) (s.g.words l d) = b) →
    exec i s = .next (s.went i s (if b then s.g.pc + BitVec.ofInt 64 off else s.g.pc + BitVec.ofNat 64 i.len))

/-- `j` and its compact form go to the pc and their displacement in halfwords, and `call` writes the return point to k55 first
(05 R120; 04 R101). -/
def Obligations.JumpsAndCallsAreRelative : Prop :=
  (∀ (imm : BitVec 25) (s : State), s.clear (.j imm) [] →
    exec (.j imm) s = .next (s.went (.j imm) s (s.g.pc + BitVec.ofInt 64 (imm.toInt * 2)))) ∧
  (∀ (lo hi : BitVec 5) (s : State), s.clear (.jS lo hi) [] →
    exec (.jS lo hi) s = .next (s.went (.jS lo hi) s (s.g.pc + BitVec.ofInt 64 ((hi ++ lo : BitVec 10).toInt * 2)))) ∧
  (∀ (imm : BitVec 25) (s : State), s.clear (.call imm) [] →
    exec (.call imm) s = .next ((s.linked (.call imm)).went (.call imm) s (s.g.pc + BitVec.ofInt 64 (imm.toInt * 2))))

/-- A jump through a flat executable capability with an even cursor makes it the code capability and its cursor the pc; `callr` links
after its target is read; a `ret` whose capability is no exit capability is such a jump (05 R121, R122; 04 R101). The checks of a jump in their order, in the lowest executing lane: no CAP traps with cause 0x03, no X or a walk with 0x05, an odd
cursor with 0x0C (05 R121). A `ret` to an exit capability waits until what its lanes await has arrived, then ends them (05 R122, R123). -/
def Obligations.JumpsThroughACapability : Prop :=
  (∀ (i : Instr) (s : State) (a : BitVec 6) (link exits : Bool) (v : Val),
    jumpReg i = some (a, link, exits) → s.clear i (srcs i) → s.g.acts ≠ [] →
    (∀ l ∈ s.g.execs (isUniform i), s.g.read l a = v) →
    v.tag = .cap → capHas v.bits .x = true → capWalk v.bits = 0 → (capCursor v.bits).getLsbD 0 = false →
    (exits = true → isExit v = false) →
    exec i s =
      (let s1 := if link then s.linked i else s
       let s2 : State := { s1 with g := { s1.g with codeCap := v } }
       .next (s2.went i s ((capCursor v.bits).setWidth 64)))) ∧
  (∀ (i : Instr) (s : State) (a : BitVec 6) (link exits : Bool) (l : Lane) (t : List Lane),
    jumpReg i = some (a, link, exits) → s.reaches i (srcs i) → s.knows (srcs i) → s.g.execs (isUniform i) = l :: t →
    ((s.g.read l a).tag ≠ .cap → exec i s = .next (s.takeTrap (trapReg 0x03 a) (readsLatch i)).tick) ∧
    ((s.g.read l a).tag = .cap → (capHas (s.g.read l a).bits .x = false ∨ capWalk (s.g.read l a).bits ≠ 0) →
      exec i s = .next (s.takeTrap (trapReg 0x05 a) (readsLatch i)).tick) ∧
    ((s.g.read l a).tag = .cap → capHas (s.g.read l a).bits .x = true → capWalk (s.g.read l a).bits = 0 →
      (capCursor (s.g.read l a).bits).getLsbD 0 = true →
      exec i s = .next (s.takeTrap (trap 0x0C ((capCursor (s.g.read l a).bits).setWidth 64)) (readsLatch i)).tick)) ∧
  (∀ (i : Instr) (s : State) (a : BitVec 6) (v : Val),
    jumpReg i = some (a, false, true) → s.clear i (srcs i) → s.g.acts ≠ [] → (∀ l ∈ s.g.execs (isUniform i), s.g.read l a = v) →
    isExit v = true → (capCursor v.bits).getLsbD 0 = false →
    (s.settled (s.g.acts.map (·.no)) = false → exec i s = .next (s.waits .fence)) ∧
    (s.settled (s.g.acts.map (·.no)) = true → (s.endLanes (s.g.acts.map (·.no)) []).g.gid ≠ s.g.gid →
      exec i s = .next (s.endLanes (s.g.acts.map (·.no)) []).tick))

/-- A branch whose lanes disagree: outside an open split it takes a context trap with the mask of the lanes that leave the lowest
lane's target; inside one, where a slice's own lanes disagree, the group goes on at that target with the lanes that take it, and each
slice's stack holds the other path with its lanes and the region's token (05 R123; 07 R160). -/
def Obligations.DivergenceFollowsTheLowestLane : Prop :=
  ∀ (i : Instr) (s : State) (a d : BitVec 6) (off : Int) (c : Word → Word → Bool) (l0 m : Lane) (t : List Lane),
    branchForm i = some (a, d, off, c) → s.clear i (srcs i) → isUniform i = false → s.g.acts = l0 :: t → m ∈ t →
    let tgt := branchTarget i s.g a d off c
    tgt m ≠ tgt l0 →
    (s.g.openSplit = false →
      exec i s = .next (s.takeTrap (trap 0x20 (BitVec.ofNat 64
        ((s.g.acts.filter fun l => tgt l != tgt l0).foldl (fun n l => n ||| 2 ^ l.no) 0))) (readsLatch i)).tick) ∧
    (s.g.openSplit = true → (∃ x ∈ s.g.acts, ∃ y ∈ s.g.acts, x.no / 4 = y.no / 4 ∧ tgt x ≠ tgt y) →
      (∀ sl ∈ s.g.slices, sl.stack.length < s.g.limit ∧ sl.stack.length < 16) → (s.g.lanes.map (·.no)).Nodup →
      ∃ s', exec i s = .next s' ∧ s'.g.pc = tgt l0 ∧ s'.mem = s.mem ∧ s'.groups = s.groups ∧
        s'.g.lanes.map (fun l => (l.no, l.active, l.k)) = s.g.lanes.map (fun l => (l.no, l.active && tgt l == tgt l0, l.k)) ∧
        s'.g.slices.map (·.stack) = s.g.slices.map fun sl =>
          ⟨false, tgt m, s.g.codeCap, lmaskOf sl.idx ((s.g.acts.filter fun l => tgt l != tgt l0).map (·.no)),
            sl.fmt.extractLsb' 0 6, sl.token⟩ :: sl.stack)

/-- `split` pushes on every slice of the group a JOIN entry with the join point, its active lanes, sr.fmt and a fresh token, in the
spill region beyond sixteen entries, and traps without a push at the limit (07 R159, R162; 09 R194). `join`: on an empty stack or away from the innermost join point a context trap with that point; on a PENDING entry that path runs
with its lanes and format; on a JOIN entry whose other slices are there the region's lanes go on past it and the entry is popped; while
another slice of the region has not stopped there, it waits (07 R161). `regang`: a whole gang passes at once; a group waits while another part of its gang has stopped at neither a `regang` nor a
`join`; two groups at one pc and token become one that goes on past it (07 R164; 09 R195). -/
def Obligations.SplitJoinAndRegang : Prop :=
  (∀ (imm : BitVec 10) (s : State), s.clear (.split imm) [] →
    (∀ n, s.freshToken = some n → (∀ sl ∈ s.g.slices, sl.stack.length < s.g.limit) →
      exec (.split imm) s =
        (let e (sl : Slice) : StackEntry := ⟨true, s.g.pc + BitVec.ofInt 64 (imm.toInt * 2), s.g.codeCap,
            lmaskOf sl.idx (s.g.acts.map (·.no)), sl.fmt.extractLsb' 0 6, BitVec.ofNat 12 n⟩
         let mem := s.g.slices.foldl (fun m sl =>
            if 16 ≤ sl.stack.length then m.store (localPA s.g.core (sl.spillAt + 8 * (sl.stack.length - 16))) 8 (e sl).bits.toNat
            else m) s.mem
         let g : Group := { s.g with slices := s.g.slices.map fun sl => { sl with stack := e sl :: sl.stack } }
         .next (State.went { s with g := g, mem := mem } (.split imm) s (s.g.pc + 4)))) ∧
    ((∃ sl ∈ s.g.slices, s.g.limit ≤ sl.stack.length) →
      exec (.split imm) s = .next (s.takeTrap (trap 0x20 (BitVec.ofNat 64 (256 + s.g.limit))) false).tick)) ∧
  (∀ (s : State) (sl : Slice), s.clear .join [] → s.g.slices = [sl] →
    (sl.stack.find? (·.isJoin) = none → exec .join s = .next (s.takeTrap (trap 0x20 0) false).tick) ∧
    (∀ e, sl.stack.find? (·.isJoin) = some e → e.pc ≠ s.g.pc → exec .join s = .next (s.takeTrap (trap 0x20 e.pc) false).tick) ∧
    (∀ e p rest, sl.stack.find? (·.isJoin) = some e → e.pc = s.g.pc → sl.stack = p :: rest → p.isJoin = false →
      (∀ l ∈ s.g.lanes, l.no / 4 = sl.idx) → (∃ l ∈ s.g.lanes, l.live = true ∧ p.lmask.getLsbD (l.no % 4) = true) →
      ∃ s', exec .join s = .next s' ∧ s'.g.pc = p.pc ∧ s'.g.codeCap = p.code ∧ s'.mem = s.mem ∧ s'.groups = s.groups ∧
        s'.g.lanes.map (fun l => (l.no, l.active, l.k)) =
          s.g.lanes.map (fun l => (l.no, l.live && p.lmask.getLsbD (l.no % 4), l.k)) ∧
        s'.g.slices.map (fun x => (x.stack, x.fmt)) = [(rest, (sl.fmt &&& ~~~63#64) ||| p.fmt.setWidth 64)]) ∧
    (∀ e rest, sl.stack = e :: rest → e.isJoin = true → e.pc = s.g.pc → s.otherParts = [] → (∀ l ∈ s.g.lanes, l.no / 4 = sl.idx) →
      ∃ s', exec .join s = .next s' ∧ s'.g.pc = s.g.pc + 4 ∧ s'.mem = s.mem ∧ s'.groups = s.groups ∧
        s'.g.lanes.map (fun l => (l.no, l.active, l.k)) =
          s.g.lanes.map (fun l => (l.no, l.live && e.lmask.getLsbD (l.no % 4), l.k)) ∧
        s'.g.slices.map (fun x => (x.stack, x.fmt)) = [(rest, (sl.fmt &&& ~~~63#64) ||| e.fmt.setWidth 64)]) ∧
    (∀ e rest h, sl.stack = e :: rest → e.isJoin = true → e.pc = s.g.pc → h ∈ s.otherParts →
      (∃ x ∈ h.slices, ∃ y ∈ x.stack, y.isJoin = true ∧ y.token = e.token) → h.atJoin e.pc e.token = false →
      exec .join s = .next (s.waits .join))) ∧
  (∀ (s : State), s.clear .regang [] →
    (s.otherParts = [] → ∃ s', exec .regang s = .next s' ∧ s'.g.pc = s.g.pc + 4 ∧ s'.mem = s.mem ∧ s'.groups = s.groups ∧
      s'.g.lanes.map (fun l => (l.no, l.active, l.k)) = s.g.lanes.map (fun l => (l.no, l.active, l.k)) ∧
      s'.g.slices = s.g.slices) ∧
    ((∃ h ∈ s.otherParts, (match h.run with | .waiting .regang _ => true | .waiting .join _ => true | _ => false) = false) → exec .regang s = .next (s.waits .regang)) ∧
    (∀ h c, s.otherParts = [h] → h.run = .waiting .regang c → h.pc = s.g.pc → h.topToken = s.g.topToken →
      ∃ s', exec .regang s = .next s' ∧ s'.g.pc = s.g.pc + 4 ∧ s'.mem = s.mem ∧
        (s'.g.slices.map (·.idx)).Perm (s.g.slices.map (·.idx) ++ h.slices.map (·.idx)) ∧
        (s'.g.lanes.map fun l => (l.no, l.active, l.k)).Perm
          ((s.g.lanes ++ h.lanes).map fun l => (l.no, l.active, l.k)) ∧
        ∀ x ∈ s'.groups, x.gid ≠ h.gid))

/-- `sym.wait` passes on values that have arrived and waits for a live symbol; `sym.test` writes 0, 1 or 2 for a value that is not
SYM, a live symbol, and a poisoned one; `mov` copies the bits and the tag, a symbol as a holder of the same record (05 R105, R124;
03 R64; 04 R101). -/
def Obligations.SymbolsAreTestedAndCopied : Prop :=
  (∀ (i : Instr) (s : State), (∃ a u, i = .symWait a u) ∨ (∃ p, i = .compactSymWait p) →
    (s.clear i (srcs i) → exec i s = .next (s.past i s)) ∧
    (s.reaches i (srcs i) → s.present (srcs i) → (∃ l ∈ s.g.execs (isUniform i), ∃ c ∈ srcs i, (s.g.read l c).isSym = true) →
      exec i s = .next (s.waits .symbol))) ∧
  (∀ (a d : BitVec 6) (u : Bool) (s : State), s.reaches (.symTest a d u) [a] → s.present [a] → s.unstepped →
    exec (.symTest a d u) s = .next (s.computes (.symTest a d u) fun l =>
      asData (if (s.g.read l a).isSym then 1 else if (s.g.read l a).tag = .poison then 2 else 0))) ∧
  (∀ (a d : BitVec 6) (n : Bool) (s : State), s.reaches (.mov a n d false) [a] → s.present [a] → s.unstepped →
    exec (.mov a n d false) s = .next (s.computes (.mov a n d false) fun l =>
      match (s.g.read l a).tag with
      | .sym r => ⟨(s.g.read l a).bits, .sym ⟨r.id, none, r.form⟩⟩
      | _ => s.g.read l a))

/-- The operand-extension registers: `xset` writes a sign-extended 22-bit constant, `xcat` shifts one in, `xput` writes the lowest active
lane's word, each marking the register as written in the run, so that the other parts of the gang have it when the run ends, and `xget`
reads (04 R88, R93; 05 R125). -/
def Obligations.OperandExtensionRegisters : Prop :=
  (∀ (imm : BitVec 22) (xi : BitVec 3) (s : State), s.clear (.xset imm xi) [] →
    exec (.xset imm xi) s =
      (let g : Group := { s.g with x := s.g.x.set xi.toNat (imm.signExtend 64), wx := s.g.wx ||| BitVec.ofNat 8 (2 ^ xi.toNat) }
       .next (State.past { s with g := g } (.xset imm xi) s))) ∧
  (∀ (imm : BitVec 22) (xi : BitVec 3) (s : State), s.clear (.xcat imm xi) [] →
    exec (.xcat imm xi) s =
      (let g : Group := { s.g with x := s.g.x.set xi.toNat (s.g.x[xi.toNat] <<< 22 ||| imm.setWidth 64)
                                   wx := s.g.wx ||| BitVec.ofNat 8 (2 ^ xi.toNat) }
       .next (State.past { s with g := g } (.xcat imm xi) s))) ∧
  (∀ (a xi : BitVec 6) (s : State) (l : Lane) (t : List Lane) (h : xi.toNat < 8), s.clear (.xput a xi) [a] → s.g.acts = l :: t →
    exec (.xput a xi) s =
      (let g : Group := { s.g with x := s.g.x.set xi.toNat (s.g.words l a), wx := s.g.wx ||| BitVec.ofNat 8 (2 ^ xi.toNat) }
       .next (State.past { s with g := g } (.xput a xi) s))) ∧
  (∀ (xi d : BitVec 6) (s : State) (h : xi.toNat < 8), s.clear (.xget xi d) [] →
    exec (.xget xi d) s = .next (s.computes (.xget xi d) fun _ => asData s.g.x[xi.toNat]))

/-- Every short integer form, its immediate and its compact form writes the result of its row to its destination and its latch as
DATA, in each lane that executes, goes past itself and does nothing else (05 R102, R104, R105, R107; 04 R83, R86, R101). A division or remainder goes past itself with its result awaited: 20 clk later `LONG_INSTRUCTION_COMPLETION` writes it. By zero a
quotient is all ones and a remainder the dividend (05 R104; 02 R36; 04 R85). -/
def Obligations.IntegerFormsWriteTheirResults : Prop :=
  (∀ (i : Instr) (s : State) (f : (BitVec 6 → Word) → Word), integerResult i = some f → s.clear i (srcs i) →
    exec i s = .next (s.computes i fun l => asData (f (s.g.words l)))) ∧
  (∀ (i : Instr) (s : State) (a b d : BitVec 6) (f : Word → Word → Word), divisionResult i = some (a, b, d, f) → s.clear i (srcs i) →
    exec i s =
      (let p : Pend := ⟨s.clk + 20, true, d, s.g.banked d,
        s.g.results (isUniform i) fun l => asData (f (s.g.words l a) (s.g.words l b)),
        s.g.results (isUniform i) fun _ => Flags.zero, [], true, false⟩
       let g : Group := { s.g with pend := s.g.pend ++ [p] }
       .next (State.past { s with g := g } i s)))

/-- Every capability form and `mov` writes the result of its row to its destination and its latch, without a trap on its values, and
does nothing else (05 R105, R108 to R113; 04 R101). -/
def Obligations.CapabilityFormsWriteTheirResults : Prop :=
  ∀ (i : Instr) (s : State) (f : Word → (BitVec 6 → Val) → Val), capabilityResult i = some f → s.clear i (srcs i) →
    exec i s = .next (s.computes i fun l => f s.g.sp.mwb (s.g.read l))

/-- No capability form gives a CAP that reaches an address its operand does not reach, or permits what it does not permit: a CAP result
of one of the derivations has bounds within those of its CAP operand a and PERM within its PERM (05 R108 to R111; 01 R15). -/
def Obligations.DerivationsNeverWidenAuthority : Prop :=
  ∀ (v w : Val), v.tag = .cap →
    (∃ m, w = cand v m) ∨ (∃ n, w = cbound v n) ∨ (∃ x, w = cset v x) ∨ (∃ x, w = cinc v x) → w.tag = .cap →
    capBase v.bits ≤ capBase w.bits ∧ capTop w.bits ≤ capTop v.bits ∧ capPerm w.bits &&& ~~~capPerm v.bits = 0

/-- Every short floating-point form writes its result, of the low bits of its operands in the mode of its lane's slice, raises its
flags in the slice's mode register, and forfeits issue turns where a lane meets a subnormal (06 R127, R128, R130 to R138; 02 R44, R49;
04 R101). `fcvt.if` writes the integer its operand holds under the type code, rounded once, and meets a subnormal only in its result
(06 R138). A long floating-point form goes past itself with its result and flags awaited for the clk of its row (06 R129; 04 R85). -/
def Obligations.FloatFormsWriteTheirResults : Prop :=
  (∀ (i : Instr) (s : State) (f : FloatForm), floatResult i = some f → s.clear i (srcs i) →
    exec i s =
      (let vals := s.g.results (isUniform i) fun l => (⟨BitVec.ofNat 128 (f.in s.g l).bits, .data⟩ : Val)
       let fl := s.g.results (isUniform i) fun l => (f.in s.g l).flags
       let g : Group := (s.g.gets i vals fl).paysIf ((s.g.execs (isUniform i)).any (f.subnormal s.g))
       .next (State.past { s with g := g } i s))) ∧
  (∀ (imm : BitVec 3) (a d : BitVec 6) (n : Bool) (t : BitVec 2) (u : Bool) (s : State), s.clear (.fcvtIf imm a n d t u) [a] →
    let r (l : Lane) : FpRes := fpOfInt (fpFmt t) ((s.g.fmode l.no).extractLsb' 0 2) (intOperand imm (s.g.words l a))
    exec (.fcvtIf imm a n d t u) s =
      (let i : Instr := .fcvtIf imm a n d t u
       let vals := s.g.results u fun l => (⟨BitVec.ofNat 128 (r l).bits, .data⟩ : Val)
       let g : Group := (s.g.gets i vals (s.g.results u fun l => (r l).flags)).paysIf ((s.g.execs u).any fun l => (r l).small)
       .next (State.past { s with g := g } i s))) ∧
  (∀ (i : Instr) (s : State) (f : FloatForm) (d : BitVec 6) (n : Nat), longFloatResult i = some (f, d, n) → s.clear i (srcs i) →
    exec i s =
      (let p : Pend := ⟨s.clk + n, true, d, s.g.banked d,
        s.g.results (isUniform i) fun l => ⟨BitVec.ofNat 128 (f.in s.g l).bits, .data⟩,
        s.g.results (isUniform i) fun l => (f.in s.g l).flags, [], true, false⟩
       let g : Group := { s.g with pend := s.g.pend ++ [p] }
       .next (State.past { s with g := g.paysIf ((s.g.execs (isUniform i)).any (f.subnormal s.g)) } i s)))

/-- The linear forms on a symbol: the register they write is a record that, when the symbol's data arrives, becomes what the form
gives on the arrived value (03 R64, R70). A floating-point step on a symbol: the record that `fadd`, `fsub` or `fmul` writes becomes, when the data arrives, what the form
gives on the arrived value in the mode in force at its issue (03 R66, R70). `add`, `sub`, `mul`, `shl`, `cinc` and their immediate and compact forms on an operand that is a live symbol write the record of
03 R64 or R65 and go on. -/
def Obligations.SymbolicArithmeticCommutesWithArrival : Prop :=
  (∀ (x y r : Val) (id : BitVec 6) (arrived : Val), x.linear.isSome = true → y.linear.isSome = true → arrived.tag = .data →
    (∀ q, x.record = some q → q.id = id) → (∀ q, y.record = some q → q.id = id) →
    let now (v : Val) : Word := (v.resolve id arrived).1.word
    (linAdd x y = some r → now r = now x + now y) ∧ (linSub x y = some r → now r = now x - now y) ∧
    (linMul x y = some r → now r = now x * now y) ∧ (∀ n, linShl x n = some r → now r = now x <<< (n.toNat % 64))) ∧
  (∀ (op t : BitVec 2) (a b : BitVec 6) (g : Group) (l : Lane) (q : SymRec) (r arrived : Val) (fl : Flags) (sub : Bool),
    op ≠ 3 → (g.read l a).record = some q → (g.read l b).record = none → arrived.tag = .data →
    fpStepTwo op t a b g l = some (r, fl, sub) →
    let f := fpFmt t
    let x := f.cut (((g.read l a).resolve q.id arrived).1.bits.toNat)
    let y := f.cut (g.read l b).bits.toNat
    let m := (g.fmode l.no).extractLsb' 0 2
    (r.resolve q.id arrived).1.bits = BitVec.ofNat 128
      (if op = 0 then fpAdd f m false x y else if op = 1 then fpAdd f m true x y else fpMul f m x y).bits) ∧
  (∀ (i : Instr) (s : State) (f : (BitVec 6 → Val) → Option Val) (r : Lane → Val), linearForm i = some f → isUniform i = false →
    s.reaches i (srcs i) → s.unstepped → s.present (srcs i) → (∀ l ∈ s.g.acts, ∀ c ∈ srcs i, (s.g.read l c).tag ≠ .poison) →
    (∀ l ∈ s.g.acts, f (s.g.read l) = some (r l)) → exec i s = .next (s.computes i r))

/-- A register-only form reads and writes no memory: whatever comes of it, every byte, granule tag and full/empty bit is as it was,
and every other group, core, crew and task; with N = 1 or d = k0 no general register changes either (01 R9; 04 R84; 05 R102). -/
def Obligations.RegisterFormsTouchNoMemory : Prop :=
  ∀ (i : Instr) (s : State), (integerResult i).isSome ∨ (capabilityResult i).isSome ∨ (floatResult i).isSome → s.clear i (srcs i) →
    ∃ t : State, exec i s = .next t ∧ t.mem = s.mem ∧ t.groups = s.groups ∧ t.cores = s.cores ∧ t.crews = s.crews ∧ t.tasks = s.tasks ∧
      t.pkg = s.pkg ∧ t.net = s.net ∧ t.g.x = s.g.x ∧ t.g.m = s.g.m ∧ t.g.codeCap = s.g.codeCap ∧ t.g.pc = s.g.pc + BitVec.ofNat 64 i.len ∧
      t.g.sp = { s.g.sp with lrun := t.g.sp.lrun } ∧
      (∀ c : BitVec 6, c.toNat < 56 → dst i ≠ some c → ∀ l ∈ t.g.lanes, ∃ k ∈ s.g.lanes, k.no = l.no ∧ l.reg c = k.reg c) ∧
      (∀ l ∈ t.g.lanes, l.reg 0 = Val.zero)

/-- The lane forms give every active lane its number, a shuffle, a vote, the integer sum or prefix sum of the active lanes, an
intersection of two lists, or a mask register, and do nothing else (09 R188 to R193, R196). A floating-point reduction combines the active lanes by the fixed tree over the 32 places, rounding each node in the mode of the
lowest active lane's slice, and gives every active lane the value and every active slice the flags (09 R191). -/
def Obligations.LaneFormsCombineTheActiveLanes : Prop :=
  (∀ (i : Instr) (s : State) (f : Group → List (Nat × Val)), laneResult i = some f → s.clear i (srcs i) → s.g.acts ≠ [] →
    (s.g.acts.map (·.no)).Nodup → (∀ l ∈ s.g.acts, l.no < 32) →
    exec i s = .next (let g : Group := s.g.gets i (f s.g) []; State.past { s with g := g } i s)) ∧
  (∀ (i : Instr) (s : State) (a : BitVec 6) (op : BitVec 2 → Nat → Nat → FpRes) (v : Nat) (fl : Flags) (sub : Bool),
    reduceForm i = some (a, op) → s.clear i [a] →
    reduceTree (op ((s.g.fmode s.g.lead).extractLsb' 0 2))
      (fun n => (s.g.acts.find? fun l => l.no == n).map fun l => (s.g.read l a).bits.toNat % 2 ^ 32) 5 0 = some (v, fl, sub) →
    exec i s =
      (let g : Group := (s.g.gets i (s.g.acts.map fun l => (l.no, asData (BitVec.ofNat 64 v))) (s.g.acts.map fun l => (l.no, fl))).paysIf sub
       .next (State.past { s with g := g } i s)))

/-- The mask registers belong to the gang: a mask form writes its register with the value of its row, and `m.mov` from a general register
takes the lowest active lane's low word, each marking it as written in the run; when the run ends every other part of the gang has the
written mask and operand-extension registers, but for those a run of its own has written and not yet ended, and until then none (04 R88;
09 R196). -/
def Obligations.MaskRegistersBelongToTheGang : Prop :=
  (∀ (i : Instr) (s : State) (d : BitVec 6) (f : Group → BitVec 32) (h : d.toNat < 8), maskResult i = some (d, f) → s.clear i [] →
    exec i s =
      (let g : Group := { s.g with m := s.g.m.set d.toNat (f s.g), wm := s.g.wm ||| BitVec.ofNat 8 (2 ^ d.toNat) }
       .next (State.past { s with g := g } i s))) ∧
  (∀ (a d : BitVec 6) (s : State) (l : Lane) (t : List Lane) (h : d.toNat < 8), s.clear (.mMovFromK a d) [a] → s.g.acts = l :: t →
    exec (.mMovFromK a d) s =
      (let g : Group := { s.g with m := s.g.m.set d.toNat ((s.g.read l a).bits.extractLsb' 0 32)
                                   wm := s.g.wm ||| BitVec.ofNat 8 (2 ^ d.toNat) }
       .next (State.past { s with g := g } (.mMovFromK a d) s))) ∧
  (∀ (s : State), s.g.isG = true → s.midRun s.g = false →
    ∀ h ∈ s.groups, h.isG = true → h.gang = s.g.gang → ∃ k ∈ s.closeRun.groups, k.gid = h.gid ∧
      ∀ n (_ : n < 8),
        k.x[n] = (if s.g.wx.getLsbD n = true ∧ h.wx.getLsbD n = false then s.g.x[n] else h.x[n]) ∧
        k.m[n] = (if s.g.wm.getLsbD n = true ∧ h.wm.getLsbD n = false then s.g.m[n] else h.m[n])) ∧
  (∀ (s : State), s.midRun s.g = true → s.closeRun = s)

/-- A quantisation form writes the result of its row and raises no flag; one that needs an element type takes an encoding trap where a
lane's sr.fmt holds none (02 R51; 16 R324 to R327). A code that `quant` gives lies in the range of its element type, and a scale word that `qscale` gives has its zero point in it
(02 R53, R54). `fmt.set` writes the format register of each slice from its lowest active lane, when every value is one that sr.fmt may hold; else
it takes an encoding trap and writes none (02 R51; 16 R324). -/
def Obligations.QuantisationForms : Prop :=
  (∀ (i : Instr) (s : State) (et : Bool) (f : Word → (BitVec 6 → Word) → Word), quantResult i = some (et, f) → s.clear i (srcs i) →
    ((et = true → ∀ l ∈ s.g.execs (isUniform i), (s.g.fmt l.no).extractLsb' 0 2 ≠ 0) →
      exec i s = .next (s.computes i fun l => asData (f (s.g.fmt l.no) (s.g.words l)))) ∧
    (et = true → (∃ l ∈ s.g.execs (isUniform i), (s.g.fmt l.no).extractLsb' 0 2 = 0) →
      exec i s = .next (s.takeTrap (trap 1 (encTval i.word (if readsLatch i then (s.g.pc - s.g.sp.lrun).toNat else 0))) (readsLatch i)).tick)) ∧
  (∀ (x scale z b : Nat) (sf : Bool), z < 2 ^ b → quantise x scale z b sf < 2 ^ b) ∧
  (∀ (mx mn b : Nat) (zp sf : Bool), 0 < b → (qscale mx mn b zp sf).2 < 2 ^ b) ∧
  (∀ (a : BitVec 6) (s : State), s.clear (.fmtSet a) [a] →
    let chosen : Slice → Option Lane := fun sl => s.g.acts.find? fun l => l.no / 4 == sl.idx
    (s.follower (.fmtSet a) = true → (∀ sl ∈ s.g.slices, ∀ l, chosen sl = some l → fmtReserved (s.g.words l a) = false) →
      (s.g.slices.map (·.idx)).Nodup →
      exec (.fmtSet a) s =
        (let g : Group := { s.g with slices := s.g.slices.map fun sl =>
            match (chosen sl) with | some l => ({ sl with fmt := s.g.words l a } : Slice) | none => sl }
         .next (State.past { s with g := g } (.fmtSet a) s))) ∧
    ((∃ sl ∈ s.g.slices, ∃ l, chosen sl = some l ∧ fmtReserved (s.g.words l a) = true) →
      exec (.fmtSet a) s = .next (s.takeTrap (trap 1 (encTval (Instr.fmtSet a).word
        (if readsLatch (.fmtSet a) then (s.g.pc - s.g.sp.lrun).toNat else 0))) (readsLatch (.fmtSet a))).tick))

/-- A load from the executing core's own local memory: its destination is awaited for 3 clk on an S-core and 4 on a G-core with the
value of its row read at its issue, its base advances, and memory is as it was (05 R114, R115, R117, R118; 13 R260; 04 R101). -/
def Obligations.LocalLoadsReadTheirBytes : Prop :=
  ∀ (i : Instr) (s : State) (f : AccessForm) (ids : List (Nat × BitVec 6)), accessForm i = some f → f.store = false →
    s.clear i (srcs i) → s.scPending = false → s.g.unwatched →
    (∀ l ∈ s.g.execs (isUniform i), s.g.mayAccess f.base f.disp f.size [.r] l ∧ s.atOnce l (ownPA s.g f.base f.disp l) f.size) →
    let value (l : Lane) : Val := loadedValue s.mem f (s.g.read l f.base) (ownPA s.g f.base f.disp l)
    let g : Group := s.g.advanced (isUniform i) f.base f.advance
    (f.reg = 0 → exec i s = .next (State.past { s with g := g } i s)) ∧
    (f.reg ≠ 0 → s.g.acts ≠ [] → s.freshIds (slicesOf (s.g.acts.map (·.no))) = some ids →
      exec i s =
        (let p : Pend := ⟨s.clk + (if s.g.isG then 4 else 3), false, f.reg, s.g.banked f.reg, s.g.results (isUniform i) value, [], ids, true,
          false⟩
         .next (State.past { s with g := { g with pend := g.pend ++ [p] } } i s)))

/-- A store to the executing core's own local memory: each executing lane's bytes stand at its address, little-endian, with the
granule's tag set by `st.cap` of a CAP and cleared by any other store; armed waits notice them, and bases advance (05 R114, R116; 01 R11;
09 R210; 04 R101). The frame of the stores: every byte outside the bytes that the executing lanes store to reads as before, and each byte that the last
lane stores reads as its data; no other group, core, crew or special register changes (05 R114, R116). -/
def Obligations.LocalStoresWriteTheirBytes : Prop :=
  (∀ (i : Instr) (s : State) (f : AccessForm), accessForm i = some f → f.store = true → s.clear i (srcs i) → s.scPending = false →
    s.g.unwatched → s.follower i = true → (s.g.priv = 0 → s.g.sp.done = 0) →
    let tag (l : Lane) : Bool := f.cap && (s.g.read l f.reg).tag == .cap
    (∀ l ∈ s.g.execs (isUniform i), s.g.mayAccess f.base f.disp f.size (if tag l then [.w, .sc] else [.w]) l ∧
      s.atOnce l (ownPA s.g f.base f.disp l) f.size ∧ s.mem.poisoned (ownPA s.g f.base f.disp l) f.size = false) →
    exec i s =
      (let s1 := s.afterStores f.size (ownPA s.g f.base f.disp) (fun l => (s.g.read l f.reg).bits) tag (s.g.execs (isUniform i))
       let g : Group := s.g.advanced (isUniform i) f.base f.advance
       .next (State.past { s1 with g := g } i s))) ∧
  (∀ (i : Instr) (s : State) (f : AccessForm) (t : State), s.inv → accessForm i = some f → f.store = true → s.clear i (srcs i) →
    s.scPending = false → s.g.unwatched → s.follower i = true → (s.g.priv = 0 → s.g.sp.done = 0) →
    (∀ l ∈ s.g.execs (isUniform i),
      s.g.mayAccess f.base f.disp f.size (if f.cap && (s.g.read l f.reg).tag == .cap then [.w, .sc] else [.w]) l ∧
      s.atOnce l (ownPA s.g f.base f.disp l) f.size ∧ s.mem.poisoned (ownPA s.g f.base f.disp l) f.size = false) →
    exec i s = .next t →
    s.mem.sameOutside t.mem (fun b => ∀ l ∈ s.g.execs (isUniform i),
      b < ownPA s.g f.base f.disp l ∨ ownPA s.g f.base f.disp l + f.size ≤ b) ∧
    (∀ l, s.g.execs (isUniform i) = [l] → ∀ n < f.size,
      t.mem.byte (ownPA s.g f.base f.disp l + n) = (s.g.read l f.reg).bits.extractLsb' (8 * n) 8) ∧
    s.g.agrees t.g (if f.advance.isSome then [f.base] else []) ∧ t.groups = s.groups ∧ t.cores = s.cores ∧ t.crews = s.crews ∧
    t.net = s.net ∧ t.mem.empties = s.mem.empties ∧ t.mem.poison = s.mem.poison)

/-- The checks of a load or store in their order, in the first lane it is performed for: a base that is no CAP traps with cause 0x03, a
missing permission, SC for a stored CAP and M for another core's place among them, with 0x05, an access outside the bounds with 0x04,
each with the base's register as trap value, and a misaligned address with 0x0C and the address (00 R6; 05 R114; 13 R260; 18 R371). -/
def Obligations.AccessChecksTrapInOrder : Prop :=
  ∀ (i : Instr) (s : State) (f : AccessForm) (l : Lane) (t : List Lane), accessForm i = some f → s.reaches i (srcs i) →
    s.knows (srcs i) → s.scPending = false →
    (if f.store then s.g.todo (s.g.execs (isUniform i)) else s.g.execs (isUniform i)) = l :: t →
    let v := s.g.read l f.base
    let ix := accessIndex s.g f.base f.disp l
    let va := accessAddr s.g f.base f.disp l
    let lacking := capHas v.bits (if f.store then .w else .r) = false ∨
      (f.store = true ∧ f.cap = true ∧ (s.g.read l f.reg).tag = .cap ∧ capHas v.bits .sc = false) ∨
      (ownAddr s.g va = false ∧ capHas v.bits .m = false)
    let traps (c : Nat) (tval : Word) : Prop := exec i s = .next (s.takeTrap (trap c tval) (readsLatch i)).tick
    (v.tag ≠ .cap → traps 0x03 (f.base.setWidth 64)) ∧
    (v.tag = .cap → lacking → traps 0x05 (f.base.setWidth 64)) ∧
    (v.tag = .cap → ¬ lacking → inBounds v.bits ix f.size = false → traps 0x04 (f.base.setWidth 64)) ∧
    (v.tag = .cap → ¬ lacking → inBounds v.bits ix f.size = true → va % f.size ≠ 0 → traps 0x0C (BitVec.ofNat 64 va))

/-- An access to another core's place by a lone lane travels: a load leaves its destination a pure symbol that its answer resolves, and
a store takes a journal entry in state 1 for its acknowledgement; neither changes memory at its issue (03 R60, R68; 12 R246, R250;
18 R374). -/
def Obligations.RemoteAccessesTravelToTheirHome : Prop :=
  ∀ (i : Instr) (s : State) (f : AccessForm) (l : Lane) (p : Place), accessForm i = some f → s.clear i (srcs i) →
    s.scPending = false → s.g.unwatched → s.g.acts = [l] → f.advance = none →
    let va := accessAddr s.g f.base f.disp l
    let tag := f.cap && (s.g.read l f.reg).tag == .cap
    checkAccess s s.g (s.g.read l f.base) f.base (accessIndex s.g f.base f.disp l) f.size f.size [if f.store then .w else .r]
      ⟨!f.store, f.store, false, false, f.store && tag⟩ = .ok p → p.own = false →
    (f.store = false → f.reg ≠ 0 → f.reg.toNat < 56 → s.g.banked f.reg = false → ∀ id, s.freshId (l.no / 4) = some id →
      ∃ (t : State) (r : Req), exec i s = .next t ∧ t.mem = s.mem ∧ t.net = s.net ++ [r] ∧ r.gid = s.g.gid ∧ r.pa = p.pa ∧ r.home = homeOf p.pa ∧
        r.op = .load f.size f.sx (f.cap && capHas (s.g.read l f.base).bits .lc && p.ct) ∧ r.lanes = [l.no] ∧
        r.syms = [(l.no / 4, id)] ∧ t.g.pc = s.g.pc + BitVec.ofNat 64 i.len ∧ s.g.agrees t.g [f.reg] ∧
        (∀ k ∈ t.g.lanes, k.no = l.no → k.reg f.reg = pureSym id) ∧
        t.g.syms = s.g.syms ++ [⟨l.no / 4, id, [l.no], [], none, s.clk, false⟩]) ∧
    (f.store = true → s.follower i = true → (s.g.priv = 0 → s.g.sp.done = 0) → ∀ n, (s.core s.g.core).freeEntry = some n →
      ∃ (t : State) (r : Req) (e : JEntry), exec i s = .next t ∧ t.mem = s.mem ∧ t.net = s.net ++ [r] ∧ r.gid = s.g.gid ∧ r.pa = p.pa ∧ r.home = homeOf p.pa ∧
        r.op = .store f.size (s.g.read l f.reg).bits tag ∧ r.entry = some n ∧ t.g.pc = s.g.pc + BitVec.ofNat 64 i.len ∧
        s.g.agrees t.g [] ∧ (t.core s.g.core).journal.toList[n]? = some (some e) ∧ e.st = 1 ∧ e.reason = 0 ∧
        e.addr = BitVec.ofNat 64 va ∧ e.data = (s.g.read l f.reg).bits ∧ e.gid = s.g.gid ∧ e.level = s.g.priv)

/-- An atomic of a lone lane at its own local memory leaves the word of its row there, at its issue; with a destination its old word
is the data of a fresh symbol that the destination holds, and with d = k0 nothing else is written (13 R266 to R268; 03 R60). -/
def Obligations.LocalAtomicsReplaceTheirWord : Prop :=
  ∀ (i : Instr) (s : State) (a b d : BitVec 6) (n : Nat) (new : Nat → Nat → Nat → Option Nat) (l : Lane),
    atomicForm i = some (a, b, d, n, new) → s.clear i (srcs i) → s.scPending = false → s.g.unwatched → s.follower i = true →
    (s.g.priv = 0 → s.g.sp.done = 0) → s.g.acts = [l] → s.g.mayAccess a 0 n [.r, .w, .a] l → s.atOnce l (ownPA s.g a 0 l) n →
    s.mem.poisoned (ownPA s.g a 0 l) n = false →
    let pa := ownPA s.g a 0 l
    let old := s.mem.nat pa n
    ∀ id, d.toNat < 56 → s.g.run = .ready → (d ≠ 0 → s.freshId (l.no / 4) = some id ∧ s.g.banked d = false) →
    ∃ t : State, exec i s = .next t ∧ t.g.pc = s.g.pc + BitVec.ofNat 64 i.len ∧
      t.mem = (match new old ((s.g.words l b).toNat % 2 ^ (8 * n)) ((s.g.words l d).toNat % 2 ^ (8 * n)) with
        | some w => s.mem.store pa n w
        | none => s.mem) ∧
      s.g.agrees t.g [d] ∧ t.groups = s.groups ∧ t.net = s.net ∧ t.cores = s.cores ∧
      (d = 0 → t.g.syms = s.g.syms) ∧
      (d ≠ 0 → (∀ k ∈ t.g.lanes, k.no = l.no → k.reg d = pureSym id) ∧
        t.g.syms = s.g.syms ++ [⟨l.no / 4, id, [l.no], [(l.no, asData (BitVec.ofNat 64 old))], none, s.clk, false⟩])

/-- A full/empty operation of a lone lane on a word of its own local memory that nobody waits for: when the word is in the state it
needs it is performed at once and leaves the state of its row, and when it is not the group waits in the word's queue (11 R241; 13 R263,
R264). -/
def Obligations.FullEmptyOperationsFollowTheWord : Prop :=
  ∀ (i : Instr) (s : State) (f : FullEmptyForm) (l : Lane), fullEmptyForm i = some f → s.clear i (srcs i) → s.scPending = false →
    s.g.unwatched → s.follower i = true → (s.g.priv = 0 → s.g.sp.done = 0) → s.g.acts = [l] → s.g.run = .ready → f.dst.toNat < 56 →
    s.g.mayAccess f.base 0 8 [if f.reads then .r else .w, .a] l → s.atOnce l (ownPA s.g f.base 0 l) 8 →
    s.mem.poisoned (ownPA s.g f.base 0 l) 8 = false → (∀ w ∈ s.fes, w.pa ≠ ownPA s.g f.base 0 l) → s.g.banked f.dst = false →
    let pa := ownPA s.g f.base 0 l
    ((∀ b, f.needs = some b → s.mem.isFull pa = b) →
      ∃ t : State, exec i s = .next t ∧ t.g.pc = s.g.pc + BitVec.ofNat 64 i.len ∧ t.fes = s.fes ∧ t.groups = s.groups ∧ t.net = s.net ∧
        t.mem = (let m := if f.writes then s.mem.store pa 8 (s.g.words l f.data).toNat else s.mem
          match f.leaves with | some b => m.setFull pa b | none => m) ∧
        s.g.agrees t.g [f.dst] ∧
        (f.reads = true → f.dst ≠ 0 → ∀ k ∈ t.g.lanes, k.no = l.no → k.reg f.dst = ⟨BitVec.ofNat 128 (s.mem.nat pa 8), .data⟩)) ∧
    (∀ b, f.needs = some b → s.mem.isFull pa ≠ b →
      ∃ (t : State) (w : FeWait), exec i s = .next t ∧ t.mem = s.mem ∧ t.g.pc = s.g.pc ∧ t.g.run = .waiting .fullEmpty s.clk ∧ t.g.sent = true ∧
        t.fes = s.fes ++ [w] ∧ w.pa = pa ∧ w.gid = s.g.gid ∧ w.lane = l.no ∧ w.deadline = s.clk + s.g.sp.felim.toNat ∧
        s.g.agrees t.g [])

/-- The bank operations of a lone active lane's slice at a shared-memory bank go to their home with a journal entry, and the sum with a
symbol in its destination; they write nothing at their issue (13 R269, R270; 12 R250). -/
def Obligations.BankOperationsGoToTheirBank : Prop :=
  ∀ (i : Instr) (s : State) (a b d : BitVec 6) (k : Nat) (l : Lane) (p : Place), s.scPending = false → s.g.unwatched →
    s.follower i = true → (s.g.priv = 0 → s.g.sp.done = 0) → s.g.acts = [l] →
    checkAccess s s.g (s.g.read l a) a (index (s.g.read l a)) 64 64 [if i = .bankSumF32 a d then .r else .w, .a]
      ⟨i = .bankSumF32 a d, !decide (i = .bankSumF32 a d), false, true, false⟩ = .ok p → isSharedPA p.pa = true → p.own = false →
    (([Instr.bankAddF32 b a, .bankAddBf16 b a, .bankMaxF32 b a, .bankAxpyF32 b a])[k]? = some i →
      s.clear i (bankSrcs i s) → (s.g.isG = false → 1 ≤ b.toNat ∧ b.toNat ≤ 52) → ∀ n, (s.core s.g.core).freeEntry = some n →
      ∃ (t : State) (r : Req), exec i s = .next t ∧ t.mem = s.mem ∧ t.net = s.net ++ [r] ∧ r.pa = p.pa ∧ r.home = homeOf p.pa ∧ r.entry = some n ∧
        r.op = .bank k (bankData s.g [l] b l) ((s.g.x[7]).toNat % 2 ^ 32) ∧ t.g.pc = s.g.pc + 4 ∧ s.g.agrees t.g []) ∧
    (i = .bankSumF32 a d → s.clear i [a] → d ≠ 0 → d.toNat < 56 → s.g.banked d = false → ∀ id, s.freshId (l.no / 4) = some id →
      ∃ (t : State) (r : Req), exec i s = .next t ∧ t.mem = s.mem ∧ t.net = s.net ++ [r] ∧ r.pa = p.pa ∧ r.home = homeOf p.pa ∧ r.op = .bankSum ∧
        r.lanes = [l.no] ∧ r.syms = [(l.no / 4, id)] ∧ t.g.pc = s.g.pc + 4 ∧ s.g.agrees t.g [d] ∧
        ∀ k ∈ t.g.lanes, k.no = l.no → k.reg d = pureSym id)

/-- A `fence` passes when everything the group issued before it in its scope is performed and acknowledged, and waits until then
(12 R252). An SC operation of a lone lane waits so for the package, then is announced on the Foghorn with its sort keys (12 R257; 13
R273). The cache operations of a lone lane: `pf` only goes on; `cc.zero` writes 64 zero bytes at the own local memory and clears their tags
and poison; `cc.clean` and `cc.inval` do nothing beyond their checks for a line that is not of LP-DDR-5X and are posted for one that is
(13 R281; 11 R236). -/
def Obligations.FencesScAndCacheOperations : Prop :=
  (∀ (sc : BitVec 6) (s : State), s.clear (.fence sc) [] → s.follower (.fence sc) = true →
    (s.quiet (sc == 7) = true → exec (.fence sc) s = .next (s.past (.fence sc) s)) ∧
    (s.quiet (sc == 7) = false → exec (.fence sc) s = .next (s.waits .fence))) ∧
  (∀ (i : Instr) (s : State) (a b d : BitVec 6) (u load : Bool) (l : Lane) (p : Place) (id : BitVec 6),
    i = (if load then .ldSc a d u else .stSc b a u) → s.clear i (srcs i) → s.g.unwatched → s.follower i = true →
    (s.g.priv = 0 → s.g.sp.done = 0) → s.g.acts = [l] → d ≠ 0 → d.toNat < 56 → s.g.banked d = false → s.freshId (l.no / 4) = some id →
    checkAccess s s.g (s.g.read l a) a (index (s.g.read l a)) 8 8 [if load then .r else .w] ⟨load, !load, false, false, false⟩ = .ok p →
    (p.own = true → s.locked p.pa 8 = false ∧ s.mem.poisoned p.pa 8 = false) →
    (s.quiet false = false → exec i s = .next (s.waits .fence)) ∧
    (s.quiet false = true → ∃ (t : State) (o : ScOp), exec i s = .next t ∧ t.mem = s.mem ∧ t.scq = s.scq ++ [o] ∧ o.window = s.clk / 16 ∧
      o.core = s.g.core ∧ o.clk = s.clk ∧ o.ctx = s.g.srcOf l.no % 64 ∧ o.lane = l.no ∧ o.req.pa = p.pa ∧ o.req.gid = s.g.gid ∧
      o.req.op = (if load then .load 8 false false else .store 8 (s.g.read l b).bits false) ∧
      t.g.pc = s.g.pc + BitVec.ofNat 64 i.len ∧ s.g.agrees t.g (if load then [d] else []) ∧
      (load = true → ∀ k ∈ t.g.lanes, k.no = l.no → k.reg d = pureSym id))) ∧
  (∀ (a : BitVec 6) (u : Bool) (s : State), s.clear (.pf a u) [a] → exec (.pf a u) s = .next (s.past (.pf a u) s)) ∧
  (∀ (a : BitVec 6) (u : Bool) (s : State) (l : Lane), s.inv → s.clear (.ccZero a u) [a] → s.scPending = false → s.g.unwatched →
    s.follower (.ccZero a u) = true → (s.g.priv = 0 → s.g.sp.done = 0) → s.g.acts = [l] → s.g.mayAccess a 0 64 [.w] l →
    s.atOnce l (ownPA s.g a 0 l) 64 →
    ∃ t : State, exec (.ccZero a u) s = .next t ∧ t.g.pc = s.g.pc + 4 ∧ s.g.agrees t.g [] ∧ t.groups = s.groups ∧ t.net = s.net ∧
      s.mem.sameOutside t.mem (fun b => b < ownPA s.g a 0 l ∨ ownPA s.g a 0 l + 64 ≤ b) ∧
      (∀ n < 64, t.mem.byte (ownPA s.g a 0 l + n) = 0 ∧ t.mem.tagAt (ownPA s.g a 0 l + n) = false) ∧
      t.mem.poisoned (ownPA s.g a 0 l) 64 = false) ∧
  (∀ (i : Instr) (a : BitVec 6) (u : Bool) (s : State) (l : Lane) (p : Place), i = .ccClean a u ∨ i = .ccInval a u → s.clear i [a] →
    s.scPending = false → s.g.unwatched → s.follower i = true → (s.g.priv = 0 → s.g.sp.done = 0) → s.g.acts = [l] →
    checkAccess s s.g (s.g.read l a) a (index (s.g.read l a)) 1 1 [.r] ⟨true, false, false, false, false⟩ = .ok p →
    (Config.ddrSize ≤ p.pa → exec i s = .next (s.past i s)) ∧
    (p.pa < Config.ddrSize → p.own = false → ∀ n, (s.core s.g.core).freeEntry = some n →
      ∃ (t : State) (r : Req), exec i s = .next t ∧ t.mem = s.mem ∧ t.net = s.net ++ [r] ∧ r.pa = p.pa ∧ r.op = .clean ∧ r.entry = some n ∧
        t.g.pc = s.g.pc + 4 ∧ s.g.agrees t.g []))

/-- The stream instructions: `ag.bind` on an unbound register binds x0 to x3 and the lowest active lane's capability for the whole gang
and clears the register; `ag.unbind` ends the binding; `ag.pos` reads the count of elements consumed or appended; `ag.drain` waits until
every append is acknowledged; on an unbound register each of the last three traps with cause 0x24 (11 R238; 13 R274, R275). -/
def Obligations.StreamsAreBoundReadAndEnded : Prop :=
  (∀ (b kk : BitVec 6) (s : State) (l : Lane) (t : List Lane), s.clear (.agBind b kk) [b] → s.follower (.agBind b kk) = true →
    s.g.acts = l :: t → 48 ≤ kk.toNat → kk.toNat < 56 → s.g.streams[streamNo kk] = none → (s.g.read l b).tag = .cap →
    s.g.boundDst (some kk) = false →
    capHas (s.g.read l b).bits (if (s.g.x[1]).getLsbD 36 then .w else .r) = true → (s.g.x[1]).extractLsb' 39 25 = 0 →
    (s.g.x[3]).extractLsb' 6 58 = 0 → ((s.g.x[1]).extractLsb' 32 4).toNat ≤ 4 →
    ∃ t : State, exec (.agBind b kk) s = .next t ∧ t.mem = s.mem ∧ t.g.pc = s.g.pc + 4 ∧ s.g.agrees t.g [kk] ∧
      t.g.streams = s.g.streams.set (streamNo kk)
        (some ⟨s.g.read l b, s.g.x[0], s.g.x[1], s.g.x[2], min (s.g.x[3]).toNat 32, 0, 0⟩) ∧
      ∀ k ∈ t.g.lanes, k.reg kk = Val.zero) ∧
  (∀ (kk : BitVec 6) (s : State) (st : Stream), s.clear (.agUnbind kk) [] → s.follower (.agUnbind kk) = true →
    s.g.streams[streamNo kk] = some st →
    ∃ t : State, exec (.agUnbind kk) s = .next t ∧ t.mem = s.mem ∧ t.g.pc = s.g.pc + 4 ∧ s.g.agrees t.g [kk] ∧
      t.g.streams = s.g.streams.set (streamNo kk) none) ∧
  (∀ (kk d : BitVec 6) (s : State) (st : Stream), s.clear (.agPos kk d) [] → s.g.streams[streamNo kk] = some st →
    exec (.agPos kk d) s = .next (s.computes (.agPos kk d) fun _ => asData (BitVec.ofNat 64 st.count))) ∧
  (∀ (kk : BitVec 6) (s : State) (st : Stream), s.clear (.agDrain kk) [] → s.follower (.agDrain kk) = true →
    s.g.streams[streamNo kk] = some st →
    ((st.append && s.storesOut) = false → exec (.agDrain kk) s = .next (s.past (.agDrain kk) s)) ∧
    ((st.append && s.storesOut) = true → exec (.agDrain kk) s = .next (s.waits .fence))) ∧
  (∀ (i : Instr) (kk d : BitVec 6) (s : State), i = .agUnbind kk ∨ i = .agPos kk d ∨ i = .agDrain kk → s.clear i [] →
    s.g.streams[streamNo kk] = none → exec i s = .next (s.takeTrap (trap 0x24 (kk.setWidth 64)) false).tick)

/-- Semaphores and shared registers: `sem.p` takes a unit of a count that is not 0 and else sleeps behind the earlier sleepers; `sem.v`,
once everything its group issued before is performed, counts a unit up to 65,535 or lets the oldest sleeper go on past its `sem.p`;
`sreg.rd` gives every active lane the shared register and `sreg.wr` writes the lowest active lane's word (07 R153, R154; 09 R200, R201,
R208). -/
def Obligations.SemaphoresAndSharedRegisters : Prop :=
  (∀ (n : BitVec 6) (s : State), s.clear (.semP n) [] → s.follower (.semP n) = true →
    let x := (s.core s.g.core).sem n.toNat
    (x.count ≠ 0 → exec (.semP n) s =
      .next ((s.mapCore s.g.core fun c => c.setSem n.toNat ⟨x.count - 1, x.sleepers⟩).past (.semP n) s)) ∧
    (x.count = 0 → exec (.semP n) s =
      (let s1 := s.mapCore s.g.core fun c => c.setSem n.toNat ⟨0, x.sleepers ++ [s.g.gid]⟩
       let s2 : State := { s1 with g := { s1.g with sent := true } }
       .next (s2.waits (.sem n.toNat))))) ∧
  (∀ (n : BitVec 6) (s : State), s.clear (.semV n) [] → s.follower (.semV n) = true →
    let x := (s.core s.g.core).sem n.toNat
    (s.quiet false = false → exec (.semV n) s = .next (s.waits .fence)) ∧
    (s.quiet false = true → x.sleepers = [] → exec (.semV n) s =
      .next ((s.mapCore s.g.core fun c => c.setSem n.toNat ⟨min (x.count + 1) 65535, []⟩).past (.semV n) s)) ∧
    (∀ gid rest h, s.quiet false = true → x.sleepers = gid :: rest → n.toNat < 16 → gid ≠ s.g.gid →
      s.groups.find? (fun o => o.gid == gid) = some h → (s.groups.map (·.gid)).Nodup → (∀ o ∈ s.groups, o.gid ≠ s.g.gid) →
      (statusSStep h.sp.status = false ∨ h.priv ≠ 0) →
      ∃ (t : State) (k : Group), exec (.semV n) s = .next t ∧ t.g.pc = s.g.pc + 4 ∧ t.mem = s.mem ∧ s.g.agrees t.g [] ∧
        (t.core s.g.core).sem n.toNat = ⟨x.count, rest⟩ ∧ t.group gid = some k ∧ k.pc = h.pc + 4 ∧ k.run = .ready)) ∧
  (∀ (n d : BitVec 6) (s : State), s.clear (.sregRd n d) [] →
    exec (.sregRd n d) s = .next (s.computes (.sregRd n d) fun _ => asData ((s.core s.g.core).s.toList.getD n.toNat 0))) ∧
  (∀ (n a : BitVec 6) (s : State) (l : Lane) (t : List Lane), s.clear (.sregWr n a) [a] → s.follower (.sregWr n a) = true →
    s.g.acts = l :: t → exec (.sregWr n a) s =
      .next ((s.mapCore s.g.core fun c => { c with s := c.s.setIfInBounds n.toNat (s.g.words l a) }).past (.sregWr n a) s))

/-- Barriers. An arrival (`bar`, `bar.arrive`, `bar.max`) is recorded with the barrier's generation; with the last member's the generation
advances and nobody has arrived in the next one, and else the barrier keeps its generation. `bar` and `bar.max` go on past a released
generation and wait for one that is not; `bar.max` then gives the maxima of the contributions; `bar.wait` waits for the outstanding
arrival's generation; a second arrival and a number beyond the partition's trap; where members of a die that joins are still to be placed
the barrier waits for them, and at pod scope for the other packages of the launch, whose contributions join the maxima (09 R203 to R206;
18 R389; 22 R442, R444; log 87). -/
def Obligations.BarriersReleaseByGeneration : Prop :=
  (∀ (i : Instr) (s : State) (n : BitVec 4) (sc : BitVec 3), i = .bar n sc ∨ i = .barArrive n sc → s.clear i [] →
    let k := s.g.barKey sc.toNat n.toNat false
    let b := s.barrier k
    let arrived := (b.arrived ++ s.g.parts).eraseDups
    (s.barLimit k ≤ n.toNat → (∀ a, s.g.arrival k = some a → a.at_ ≠ some s.g.pc) →
      exec i s = .next (s.takeTrap (trap 0x20 (BitVec.ofNat 64 (0x600 + sc.toNat * 16 + n.toNat))) false).tick) ∧
    (n.toNat < s.barLimit k → (s.g.parts.all fun p => b.arrived.contains p) = true → (∀ a, s.g.arrival k = some a → a.at_ ≠ some s.g.pc) →
      exec i s = .next (s.takeTrap (trap 0x20 (BitVec.ofNat 64 (0x300 + sc.toNat * 16 + n.toNat))) false).tick) ∧
    (n.toNat < s.barLimit k → (s.g.parts.all fun p => b.arrived.contains p) = false → s.follower i = true → s.quiet false = true →
      (∀ a, s.g.arrival k = some a → a.at_ ≠ some s.g.pc) →
      ((∀ h ∈ s.members k, ∀ p ∈ h.parts, p ∈ arrived) → s.joining k = false → ¬ s.awaitsPackages b →
        ∃ t : State, exec i s = .next t ∧ t.g.pc = s.g.pc + 4 ∧ t.mem = s.mem ∧ t.groups = s.groups ∧ t.cores = s.cores ∧ s.g.agrees t.g [] ∧
          (t.barrier k).gen = b.gen + 1 ∧ (t.barrier k).arrived = []) ∧
      ((∃ h ∈ s.members k, ∃ p ∈ h.parts, p ∉ arrived) ∨ s.joining k = true ∨ s.awaitsPackages b →
        ∃ t : State, exec i s = .next t ∧ t.mem = s.mem ∧ t.groups = s.groups ∧ t.cores = s.cores ∧ s.g.agrees t.g [] ∧
          (t.barrier k).gen = b.gen ∧ (t.barrier k).arrived = arrived ∧
          (i = .barArrive n sc → t.g.pc = s.g.pc + 4 ∧ t.g.arrival k = some ⟨k, b.gen, none⟩) ∧
          (i = .bar n sc → t.g.pc = s.g.pc ∧ (∃ c, t.g.run = .waiting (.barrier sc.toNat n.toNat false) c) ∧
            t.g.arrival k = some ⟨k, b.gen, some s.g.pc⟩)))) ∧
  (∀ (s : State) (n : BitVec 4) (sc : BitVec 3) (a : Arrival), s.clear (.bar n sc) [] →
    let k := s.g.barKey sc.toNat n.toNat false
    s.g.arrival k = some a → a.at_ = some s.g.pc →
    (a.gen < (s.barrier k).gen → ∃ t : State, exec (.bar n sc) s = .next t ∧ t.g.pc = s.g.pc + 4 ∧ t.mem = s.mem ∧ t.groups = s.groups ∧
      t.barriers = s.barriers ∧ s.g.agrees t.g [] ∧ t.g.arrival k = none) ∧
    ((s.barrier k).gen ≤ a.gen → exec (.bar n sc) s = .next (s.waits (.barrier sc.toNat n.toNat false)))) ∧
  (∀ (s : State) (n : BitVec 4) (sc : BitVec 3), s.clear (.barWait n sc) [] → s.follower (.barWait n sc) = true →
    let k := s.g.barKey sc.toNat n.toNat false
    n.toNat < s.barLimit k →
    (s.g.arrival k = none → exec (.barWait n sc) s = .next (s.past (.barWait n sc) s)) ∧
    (∀ a, s.g.arrival k = some a → a.gen < (s.barrier k).gen →
      ∃ t : State, exec (.barWait n sc) s = .next t ∧ t.g.pc = s.g.pc + 4 ∧ t.mem = s.mem ∧ t.groups = s.groups ∧ t.barriers = s.barriers ∧
        s.g.agrees t.g [] ∧ t.g.arrival k = none) ∧
    (∀ a, s.g.arrival k = some a → (s.barrier k).gen ≤ a.gen →
      exec (.barWait n sc) s = .next (s.waits (.barrier sc.toNat n.toNat false)))) ∧
  (∀ (s : State) (b a d : BitVec 6) (l : Lane) (rest : List Lane), s.clear (.barMax b a d) [a, b] → s.follower (.barMax b a d) = true →
    s.quiet false = true → s.g.acts = l :: rest → ((s.g.words l b).extractLsb' 0 3).toNat ≤ 4 →
    let k := s.g.barKey ((s.g.words l b).extractLsb' 0 3).toNat ((s.g.words l b).extractLsb' 3 4).toNat true
    let x := s.barrier k
    k.id < s.barLimit k → (s.g.parts.all fun p => x.arrived.contains p) = false → (∀ a, s.g.arrival k = some a → a.at_ ≠ some s.g.pc) → s.g.banked d = false →
    d ≠ 0 → d.toNat < 56 →
    (∀ h ∈ s.members k, ∀ p ∈ h.parts, p ∈ (x.arrived ++ s.g.parts).eraseDups) → s.joining k = false → ¬ s.awaitsPackages x →
    let mine := s.g.acts.foldl (fun m l => maxHalves m (s.g.words l a)) 0
    ∃ t : State, exec (.barMax b a d) s = .next t ∧ t.g.pc = s.g.pc + 4 ∧ t.mem = s.mem ∧ t.groups = s.groups ∧ s.g.agrees t.g [d] ∧
      (t.barrier k).gen = x.gen + 1 ∧ (t.barrier k).arrived = [] ∧
      ∀ y ∈ t.g.lanes, y.active = true → y.reg d = asData ((s.fromPackages x).foldl maxHalves (x.values.foldl (fun m p => maxHalves m p.2) mine)))

/-- Stage rings, steps and waits. `ring.arrive` inverts its stage's phase and lets a group of its crew that sleeps for that phase go on
past its `ring.wait`, which passes when the stage holds the phase awaited, and else waits; a ring beyond the partition's traps; `step` waits for its self fence and for a pending membership change, and else a
pre-emption asked for at the step begins; `wait` arms on the granules of its range and sleeps, and then gives 1 after another agent's
write and 0 when sr.felim has passed (07 R158; 09 R207, R209, R210; 18 R389; 22 R441). -/
def Obligations.RingsStepsAndWaits : Prop :=
  (∀ (r : BitVec 2) (st : BitVec 3) (s : State), s.clear (.ringArrive r st) [] → s.follower (.ringArrive r st) = true →
    s.quiet false = true → r.toNat < s.ringLimit →
    let sleepers := s.ringSleepers s.g.sp.crew r.toNat st.toNat (!s.phase r.toNat st.toNat)
    (sleepers = [] → exec (.ringArrive r st) s =
      .next ((s.mapCrew s.g.sp.crew fun c =>
        { c with rings := c.rings.setIfInBounds r.toNat (c.rings.toList.getD r.toNat 0 ^^^ BitVec.ofNat 8 (2 ^ st.toNat)) }).past
          (.ringArrive r st) s)) ∧
    (∀ gid h, sleepers = [gid] → gid ≠ s.g.gid → s.groups.find? (fun o => o.gid == gid) = some h → (s.groups.map (·.gid)).Nodup →
      (∀ o ∈ s.groups, o.gid ≠ s.g.gid) → (statusSStep h.sp.status = false ∨ h.priv ≠ 0) →
      ∃ (t : State) (k : Group), exec (.ringArrive r st) s = .next t ∧ t.g.pc = s.g.pc + 4 ∧ t.mem = s.mem ∧ s.g.agrees t.g [] ∧
        ((s.crew s.g.sp.crew).isSome = true → t.phase r.toNat st.toNat = !s.phase r.toNat st.toNat) ∧
        t.group gid = some k ∧ k.pc = h.pc + 4 ∧ k.run = .ready)) ∧
  (∀ (p : Bool) (r : BitVec 2) (st : BitVec 3) (s : State), s.clear (.ringWait p r st) [] → s.follower (.ringWait p r st) = true →
    r.toNat < s.ringLimit →
    (s.phase r.toNat st.toNat = p → exec (.ringWait p r st) s = .next (s.past (.ringWait p r st) s)) ∧
    (s.phase r.toNat st.toNat ≠ p → exec (.ringWait p r st) s = .next (s.waits (.ring r.toNat st.toNat p)))) ∧
  (∀ (i : Instr) (r : BitVec 2) (st : BitVec 3) (s : State), i = .ringArrive r st ∨ (∃ p, i = .ringWait p r st) → s.clear i [] →
    s.ringLimit ≤ r.toNat →
    exec i s = .next (s.takeTrap (trap 0x20 (BitVec.ofNat 64 (0x580 + r.toNat * 8 + st.toNat))) false).tick) ∧
  (∀ (s : State), s.clear .step [] → s.follower .step = true → ((s.task s.g.sp.task).any fun t => t.withdrawn (dieOf s.g.core)) = false →
    (s.quiet true = false → exec .step s = .next (s.waits .fence)) ∧
    (s.quiet true = true → ((s.task s.g.sp.task).bind (·.change)).isSome = true → exec .step s = .next (s.waits .stepHold)) ∧
    (s.quiet true = true → (s.task s.g.sp.task).bind (·.change) = none → exec .step s =
      .next ((s.mapCrew s.g.sp.crew fun c => if c.atStep then { c with atStep := false, preempt := true, since := s.clk } else c).past .step s))) ∧
  (∀ (b a d : BitVec 6) (s : State) (l : Lane) (rest : List Lane) (runs : List (Nat × Nat)), s.clear (.wait b a d) [a, b] →
    s.follower (.wait b a d) = true → s.g.acts = l :: rest → (s.g.read l a).tag = .cap → capHas (s.g.read l a).bits .r = true →
    inBounds (s.g.read l a).bits (index (s.g.read l a)) (s.g.words l b).toNat = true → 1 ≤ (s.g.words l b).toNat →
    (s.g.words l b).toNat ≤ 65536 →
    localRuns s.g (capWalk (s.g.read l a).bits)
      (if walkOrder (capWalk (s.g.read l a).bits) = 0 then 2 ^ 20 else 64 * 2 ^ walkGran (capWalk (s.g.read l a).bits)) 1026
      (index (s.g.read l a)) (s.g.words l b).toNat = some runs →
    exec (.wait b a d) s =
      (let s1 : State := { s with g := { s.g with sent := true }, armed := s.armed ++ [⟨s.g.gid, runs, s.clk + s.g.sp.felim.toNat, false⟩] }
       .next (s1.waits .watch))) ∧
  (∀ (b a d : BitVec 6) (s : State) (w : Armed), s.g.sent = true → s.g.held = [] → s.unstepped → s.g.stream d = none →
    s.armed.find? (fun w => w.gid == s.g.gid) = some w →
    (w.hit = true ∨ w.deadline ≤ s.clk → exec (.wait b a d) s =
      (let g : Group := s.g.write d (s.g.acts.map fun l => (l.no, asData (if w.hit then 1 else 0)))
       let s1 : State := { s with g := g, armed := s.armed.filter fun x => x.gid != s.g.gid }
       .next (s1.past (.wait b a d) s))) ∧
    (w.hit = false → s.clk < w.deadline → exec (.wait b a d) s = .next (s.waits .watch)))

/-- Taking an exception at level U (01 R32; 18 R366, R367): the cause, the trap value, the saved pc and the performed lanes are written,
PPRIV and PIE take PRIV and IE, IE becomes 0 and PRIV T, and the handler's capability gives the pc, or with an invalid one the group stops
in the resident handler's hands; at level T the group stops with its registers unchanged and the resident handler gets the event, and at
level S the core stops and a machine check reports it. Memory is unchanged, and at a trap outside a run so are the registers; sr.lrun is
then the pc of an instruction that has issued (04 R87). -/
def Obligations.TakingAnException : Prop :=
  ∀ (s : State) (t : Trap) (inRun : Bool), t.keep = [] →
    let u := s.takeTrap t inRun
    u.mem = s.mem ∧
    (s.g.priv = 0 →
      u.g.sp.cause = BitVec.ofNat 64 t.code ∧ u.g.sp.tval = t.tval ∧
      u.g.sp.epc = withCursor s.g.codeCap (match t.epc with | some e => e | none => if inRun then s.g.sp.lrun else s.g.pc) ∧
      (t.performed = 0 → u.g.sp.done = s.g.sp.done) ∧
      (t.performed ≠ 0 → t.flane < 32 → u.g.sp.done.extractLsb' 0 32 = s.g.sp.done.extractLsb' 0 32 ||| t.performed ∧
        (u.g.sp.done.extractLsb' 32 5).toNat = t.flane) ∧
      statusPriv u.g.sp.status = 1 ∧ statusIE u.g.sp.status = false ∧ statusPPriv u.g.sp.status = statusPriv s.g.sp.status ∧
      statusPIE u.g.sp.status = statusIE s.g.sp.status ∧ u.g.sp.status.extractLsb' 6 3 = s.g.sp.status.extractLsb' 6 3 ∧
      (∀ l ∈ u.g.lanes, l.latch = []) ∧ u.g.held = [] ∧ u.g.sent = false ∧
      u.groups = s.groups ∧
      (inRun = false → u.g.x = s.g.x ∧ u.g.m = s.g.m ∧
        u.g.lanes.map (fun l => (l.no, l.active, l.live, l.k)) = s.g.lanes.map (fun l => (l.no, l.active, l.live, l.k))) ∧
      (∀ b, inRun = true → s.g.shadow = some b → u.g.x = b.x ∧ u.g.m = b.m ∧
        u.g.lanes.map (fun l => (l.no, l.active, l.live, l.k)) = b.lanes.map (fun l => (l.no, l.active, l.live, l.k))) ∧
      (s.g.sp.tvec.tag = .cap → capHas s.g.sp.tvec.bits .x = true →
        u.g.run = .ready ∧ u.g.codeCap = s.g.sp.tvec ∧ u.g.pc = (capCursor s.g.sp.tvec.bits).setWidth 64 ∧ u.sys = s.sys) ∧
      ((s.g.sp.tvec.tag ≠ .cap ∨ capHas s.g.sp.tvec.bits .x = false) →
        u.g.run = .resident ∧ u.g.pc = s.g.pc ∧ u.sys = s.sys ++ [⟨s.g.core, s.g.sp.crew, s.g.gid, s.g.pc, 3, 21⟩]) ∧
      (inRun = false → t.issued = true → u.g.sp.lrun = s.g.pc)) ∧
    (s.g.priv = 1 →
      u = { s with g := { s.g with run := .resident }, stalls := s.stalls.filter (fun p => p.2 != s.g.gid),
                   sys := s.sys ++ [⟨s.g.core, s.g.sp.crew, s.g.gid, s.g.pc, t.code, t.tval⟩] }) ∧
    (s.g.priv = 2 → u.g = { s.g with run := .resident } ∧ (u.core s.g.core).stopped = true ∧
      u.sys = s.sys ++ [⟨s.g.core, 0, 0, s.g.pc, 0x3F, BitVec.ofNat 64 t.code⟩] ∧ u.groups = s.groups)

/-- `rett` at level U takes a privilege trap; with an invalid sr.epc a tag trap; else the code capability and the pc come from sr.epc,
PRIV and IE from PPRIV and PIE, PPRIV becomes U, latches start empty, and nothing else the group holds changes (01 R33). -/
def Obligations.ReturnsFromTraps : Prop :=
  ∀ (s : State), s.g.sent = false →
    (s.g.priv = 0 → exec .rett s = .next (s.takeTrap (trap 0x38 0) false).tick) ∧
    (s.reaches .rett [] → s.g.switchStep = 0 →
      ((s.g.sp.epc.tag ≠ .cap ∨ capHas s.g.sp.epc.bits .x = false) → exec .rett s = .next (s.takeTrap (trap 0x03 3) false).tick) ∧
      (s.g.sp.epc.tag = .cap → capHas s.g.sp.epc.bits .x = true →
        ∃ t : State, exec .rett s = .next t ∧ t.g.codeCap = s.g.sp.epc ∧ t.g.pc = (capCursor s.g.sp.epc.bits).setWidth 64 ∧ t.g.run = .ready ∧
          statusPriv t.g.sp.status = statusPPriv s.g.sp.status ∧ statusIE t.g.sp.status = statusPIE s.g.sp.status ∧
          statusPPriv t.g.sp.status = 0 ∧ t.g.sp.status.extractLsb' 5 4 = s.g.sp.status.extractLsb' 5 4 ∧
          t.g.sp = { s.g.sp with status := t.g.sp.status } ∧ t.g.x = s.g.x ∧ t.g.m = s.g.m ∧ t.g.slices = s.g.slices ∧
          t.g.lanes = s.g.lanes.map (fun l => { l with latch := [] }) ∧ t.mem = s.mem ∧ t.groups = s.groups ∧ t.crews = s.crews))

/-- `trap #code` takes a software trap with cause 0x32, the code as trap value and sr.epc past the instruction; at level T the resident
handler gets it, and at level S the core stops (19 R392). -/
def Obligations.SoftwareTraps : Prop :=
  decode32 0x8C401F01 = some (.trap 0x23 0x04) ∧
  ∀ (lo hi : BitVec 6) (s : State), s.reaches (.trap lo hi) [] → s.follower (.trap lo hi) = true → (hi ++ lo : BitVec 12).toNat < 4096 ∧
    (s.g.priv = 0 → s.g.sp.tvec.tag = .cap → capHas s.g.sp.tvec.bits .x = true →
      ∃ t : State, exec (.trap lo hi) s = .next t ∧ t.mem = s.mem ∧ t.g.sp.cause = 0x32 ∧
        t.g.sp.tval = (hi ++ lo : BitVec 12).setWidth 64 ∧ t.g.sp.epc = withCursor s.g.codeCap (s.g.pc + 4) ∧ t.g.priv = 1 ∧
        t.g.codeCap = s.g.sp.tvec ∧ t.g.pc = (capCursor s.g.sp.tvec.bits).setWidth 64 ∧ t.groups = s.groups) ∧
    (s.g.priv = 1 → ∃ t : State, exec (.trap lo hi) s = .next t ∧ t.mem = s.mem ∧ t.g = { s.g with run := .resident } ∧
      t.sys = s.sys ++ [⟨s.g.core, s.g.sp.crew, s.g.gid, s.g.pc, 0x32, (hi ++ lo : BitVec 12).setWidth 64⟩]) ∧
    (s.g.priv = 2 → ∃ t : State, exec (.trap lo hi) s = .next t ∧ t.mem = s.mem ∧ t.g = { s.g with run := .resident } ∧
      (t.core s.g.core).stopped = true)

/-- The checks before an instruction acts: for every instruction of a program its core kind and then its level are checked at its first
issue; for the register forms a breakpoint, the role and a poisoned source trap, and a live symbol in a division waits (03 R67, R71;
07 R157; 09 R187; 18 R370; 19 R391, R405). -/
def Obligations.ChecksBeforeAnInstructionActs : Prop :=
  (∀ (i : Instr) (s : State), isEvent i = false → (∀ w n, i ≠ .reservedEncoding w n) → s.g.sent = false →
    (∀ c, kindTrap i = some (s.g.isG, c) → exec i s = .next (s.takeTrap (trap c 0) (readsLatch i)).tick) ∧
    (kindOk i s.g.isG = true → s.g.priv.toNat < minLevel i → exec i s = .next (s.takeTrap (trap 0x38 0) (readsLatch i)).tick)) ∧
  (∀ (i : Instr) (s : State) (f : (BitVec 6 → Word) → Word), integerResult i = some f → s.g.sent = false → latchMissing i s.g = false →
    ∀ n, s.g.breakpoint = some n →
      exec i s = .next (s.takeTrap (trap 0x31 (BitVec.ofNat 64 (s.g.pc.toNat * 256 + n * 64 + 3))) (readsLatch i)).tick) ∧
  (∀ (i : Instr) (s : State) (f : (BitVec 6 → Word) → Word) (l : Lane) (t : List Lane) (c : BitVec 6), integerResult i = some f →
    s.reaches i (srcs i) → s.present (srcs i) → ¬ s.symbolic (srcs i) → s.g.execs (isUniform i) = l :: t →
    (srcs i).find? (fun c => (s.g.read l c).tag == .poison) = some c →
    exec i s = .next (s.takeTrap (trap 0x12 (c.setWidth 64)) (readsLatch i)).tick) ∧
  (∀ (i : Instr) (s : State) (a b d : BitVec 6) (f : Word → Word → Word), divisionResult i = some (a, b, d, f) →
    s.reaches i (srcs i) → s.present (srcs i) → s.symbolic (srcs i) → exec i s = .next (s.waits .symbol))

/-- Special registers: `sr.rd` gives each active lane its own slice's register, `sr.wr` writes what passes its register's rule and the
register then reads as written (DONE of sr.done as 0 on an S-core); a number beyond 35 takes an encoding trap, an access below its level a privilege trap, and a value that
breaks a register's rule changes nothing (01 R24 to R27; 02 R40, R51; 11 R219; 18 R372; 19 R394, R395). -/
def Obligations.SpecialRegistersAreReadAndWritten : Prop :=
  (∀ (sc d : BitVec 6) (s : State), s.clear (.srRd sc d) [] → sc.toNat < 36 → 1 ≤ srAccess sc.toNat s.g.priv →
    (sc = 6 → s.g.fpBusy = none) → exec (.srRd sc d) s = .next (s.computes (.srRd sc d) fun l => s.special s.g l.no sc.toNat)) ∧
  (∀ (sc a : BitVec 6) (s : State) (l : Lane) (rest : List Lane), s.clear (.srWr sc a) [a] → s.follower (.srWr sc a) = true →
    sc.toNat < 36 → srAccess sc.toNat s.g.priv = 2 → srPerSlice sc.toNat = false → sc ≠ 18 → sc ≠ 20 → sc ≠ 23 → s.g.acts = l :: rest →
    let v := s.g.read l a
    (if srCap sc.toNat then v.tag = .cap else srRule sc.toNat s.g.sp.status v.word = none) →
    ∃ t : State, exec (.srWr sc a) s = .next t ∧ t.g.pc = s.g.pc + 4 ∧ t.mem = s.mem ∧ t.groups = s.groups ∧ t.cores = s.cores ∧
      t.crews = s.crews ∧ t.special t.g l.no sc.toNat =
        (if srCap sc.toNat then v
         else asData (if sc = 5 ∧ s.g.sp.status.getLsbD 8 = false then v.word &&& ~~~(0xFFFFFFFF#64) else v.word)) ∧
      (∀ n, n < 26 → n ≠ sc.toNat → n ≠ 4 → n ≠ 5 → n ≠ 18 → n ≠ 19 → t.special t.g l.no n = s.special s.g l.no n) ∧
      t.g.lanes.map (fun x => (x.no, x.active, x.k)) = s.g.lanes.map (fun x => (x.no, x.active, x.k))) ∧
  (∀ (sc a : BitVec 6) (s : State), s.clear (.srWr sc a) [a] → s.follower (.srWr sc a) = true → srPerSlice sc.toNat = true →
    srAccess sc.toNat s.g.priv = 2 → (sc = 6 → s.g.fpBusy = none) → (s.g.slices.map (·.idx)).Nodup →
    (∀ l ∈ s.g.acts, (if sc = 22 then (s.g.read l a).tag = .cap else srRule sc.toNat s.g.sp.status (s.g.words l a) = none)) →
    ∃ t : State, exec (.srWr sc a) s = .next t ∧ t.g.pc = s.g.pc + 4 ∧ t.mem = s.mem ∧ t.groups = s.groups ∧
      ∀ sl ∈ s.g.slices, ∀ l, s.g.acts.find? (fun l => l.no / 4 == sl.idx) = some l →
        t.special t.g l.no sc.toNat = (if sc = 22 then s.g.read l a else asData (s.g.words l a))) ∧
  (∀ (i : Instr) (sc x : BitVec 6) (s : State), i = .srRd sc x ∨ i = .srWr sc x → s.g.sent = false →
    let need := if i = .srRd sc x then 1 else 2
    (36 ≤ sc.toNat → ∃ w, exec i s = .next (s.takeTrap (trap 0x01 w) (readsLatch i)).tick ∧ w.toNat % 2 ^ 32 = i.word % 2 ^ 32) ∧
    (sc.toNat < 36 → srAccess sc.toNat s.g.priv < need →
      exec i s = .next (s.takeTrap (trap 0x38 (sc.setWidth 64)) (readsLatch i)).tick)) ∧
  (∀ (sc a : BitVec 6) (s : State) (l : Lane) (rest : List Lane), s.clear (.srWr sc a) [a] → sc.toNat < 36 →
    srAccess sc.toNat s.g.priv = 2 → srPerSlice sc.toNat = false → s.g.acts = l :: rest → a.toNat < 56 →
    (srCap sc.toNat = true → (s.g.read l a).tag ≠ .cap →
      exec (.srWr sc a) s = .next (s.takeTrap (trap 0x03 (a.setWidth 64)) false).tick) ∧
    (srCap sc.toNat = false → srRule sc.toNat s.g.sp.status (s.g.words l a) = some 0x38 →
      exec (.srWr sc a) s = .next (s.takeTrap (trap 0x38 (sc.setWidth 64)) false).tick) ∧
    (srCap sc.toNat = false → srRule sc.toNat s.g.sp.status (s.g.words l a) = some 0x01 →
      exec (.srWr sc a) s = .next (s.takeTrap (trap 0x01 (BitVec.ofNat 64 ((Instr.srWr sc a).word % 2 ^ 32))) false).tick))

/-- The instructions of a handler over its crew: `crew.peek` reads what its selector names, `crew.poke` writes a stopped member's
register, `crew.resume` lets a stopped member go on, asks one to stop or steps it, and `crew.kill` ends every member of a crew
(19 R396 to R400). -/
def Obligations.HandlersReachTheirCrew : Prop :=
  (∀ (a d : BitVec 6) (s : State) (l : Lane) (rest : List Lane) (h : Group) (n : Nat), s.clear (.crewPeek a d) [a] → s.g.acts = l :: rest →
    let q := selector (s.g.words l a)
    s.select q = .inr (h, n) →
    let gives (v : Val) : Prop := exec (.crewPeek a d) s = .next (s.computes (.crewPeek a d) fun _ => v)
    (q.space = 0 → ∀ x ∈ h.lanes, h.lanes.find? (fun y => y.no == n) = some x → (x.reg (BitVec.ofNat 6 q.index)).known = true →
      gives (x.reg (BitVec.ofNat 6 q.index))) ∧
    (q.space = 2 → gives (s.special h n q.index)) ∧
    (q.space = 3 → gives (asData (h.x.toList.getD q.index 0))) ∧
    (q.space = 4 → gives (asData ((h.m.toList.getD q.index 0).setWidth 64))) ∧
    (q.space = 6 → gives (asData (BitVec.ofNat 64 (s.runCode h + s.reason h * 256))))) ∧
  (∀ (a b : BitVec 6) (s : State) (l : Lane) (rest : List Lane) (h : Group) (n : Nat), s.clear (.crewPoke b a) [a, b] →
    s.follower (.crewPoke b a) = true → s.g.acts = l :: rest →
    let q := selector (s.g.words l a)
    s.select q = .inr (h, n) → q.space = 0 → h.isStopped = true → h.gid ≠ s.g.gid → s.group h.gid = some h →
    (∀ r, (h.program n q.index).record = some r → r.bound = none) →
    ∃ (t : State) (k : Group), exec (.crewPoke b a) s = .next t ∧ t.g.pc = s.g.pc + 4 ∧ t.mem = s.mem ∧ s.g.agrees t.g [] ∧ t.group h.gid = some k ∧
      k.pc = h.pc ∧ k.run = h.run ∧ k.sp = h.sp ∧
      k.lanes = h.lanes.map fun y => if y.no = n then y.setReg (BitVec.ofNat 6 q.index) (s.g.read l b) else y) ∧
  (∀ (a b : BitVec 6) (s : State) (l : Lane) (rest : List Lane) (h : Group) (n : Nat), s.clear (.crewResume b a) [a, b] →
    s.follower (.crewResume b a) = true → s.g.acts = l :: rest →
    let q := selector (s.g.words l a)
    s.select q = .inr (h, n) → h.gid ≠ s.g.gid → s.group h.gid = some h →
    (∀ p w, h.run = .stopped p w → s.g.words l b = 0 ∨ s.g.words l b = 2 →
      ∃ (t : State) (k : Group), exec (.crewResume b a) s = .next t ∧ t.g.pc = s.g.pc + 4 ∧ t.mem = s.mem ∧ s.g.agrees t.g [] ∧ t.group h.gid = some k ∧
        k = { h with run := if p then .parked else .ready, stopReq := if s.g.words l b = 2 then 2 else 0 }) ∧
    (h.isStopped = false → s.g.words l b = 1 → q.member ≠ 63 →
      ∃ (t : State) (k : Group), exec (.crewResume b a) s = .next t ∧ t.g.pc = s.g.pc + 4 ∧ t.mem = s.mem ∧ s.g.agrees t.g [] ∧ t.group h.gid = some k ∧
        k = { h with stopReq := 1 }) ∧
    (2 < (s.g.words l b).toNat → exec (.crewResume b a) s =
      .next (s.takeTrap (trap 0x20 (s.g.words l b)) (readsLatch (.crewResume b a))).tick)) ∧
  (∀ (a : BitVec 6) (s : State) (l : Lane) (rest : List Lane), s.clear (.crewKill a) [a] → s.follower (.crewKill a) = true →
    s.g.acts = l :: rest → s.g.gid ≠ 0 → s.g.run = .ready →
    let n := ((s.g.words l a).extractLsb' 0 32).toNat
    let id := if n = 0 then s.g.sp.crew else n
    (s.g.priv = 1 → id = s.g.sp.crew) → (∃ c ∈ s.crews, c.id = id ∧ c.core = s.g.core ∧ c.saved = false) →
    ∃ t : State, exec (.crewKill a) s = .next t ∧ (∀ c ∈ t.crews, c.id ≠ id) ∧ (∀ h ∈ t.all, h.sp.crew ≠ id)) ∧
  (∀ (a : BitVec 6) (s : State) (l : Lane) (rest : List Lane), s.clear (.crewKill a) [a] → s.g.acts = l :: rest → s.g.priv = 1 →
    let n := ((s.g.words l a).extractLsb' 0 32).toNat
    n ≠ 0 → n ≠ s.g.sp.crew → 
    exec (.crewKill a) s = .next (s.takeTrap (trap 0x38 (BitVec.ofNat 64 n)) (readsLatch (.crewKill a))).tick)

/-- `tlb.inval` waits as a fence and removes the TLB entries within its reach that it names, and the table pointers of the walk caches
there that lead to them (of REACH 0 the own L1 entries and those of the quad's TLB, log 73), and no walk under way there leaves an entry;
`brk` takes a debug trap with SRC 1; `halt` sleeps the resident context until it is handed a system event, and ends a handler's lanes at
level T (19 R401, R402, R409). -/
def Obligations.TranslationsBreakpointsAndHalt : Prop :=
  (∀ (a b : BitVec 6) (s : State) (l : Lane) (rest : List Lane), s.clear (.tlbInval b a) [a, b] → s.follower (.tlbInval b a) = true →
    s.g.acts = l :: rest →
    let va := ((s.g.words l a).extractLsb' 0 56).toNat
    let c := s.g.words l b
    let kind := (c.extractLsb' 0 2).toNat
    let reach := (c.extractLsb' 2 2).toNat
    let asid := (c.extractLsb' 16 16).toNat
    let within (quad : Nat) : Prop := reach = 2 ∨ (reach = 1 ∧ quad / 256 = s.g.core / 1024) ∨ (reach = 0 ∧ quad = s.g.core / 4)
    kind < 3 → reach < 3 → c.extractLsb' 4 12 = 0 → c.extractLsb' 32 32 = 0 →
    (s.quiet false = false → exec (.tlbInval b a) s = .next (s.waits .fence)) ∧
    (s.quiet false = true → ∃ t : State, exec (.tlbInval b a) s = .next t ∧ t.g.pc = s.g.pc + 4 ∧ t.mem = s.mem ∧ t.groups = s.groups ∧
      s.g.agrees t.g [] ∧
      (∀ e, e ∈ t.tlb ↔ e ∈ s.tlb ∧ ¬ (within e.quad ∧ (reach = 0 → e.core = none ∨ e.core = some s.g.core) ∧ (kind = 2 ∨ (kind = 1 ∧ e.asid = some asid) ∨
        (kind = 0 ∧ va / 2 ^ pageShift e.level = e.vpage ∧ (e.asid = none ∨ e.asid = some asid))))) ∧
      (∀ e, e ∈ t.pointers ↔ e ∈ s.pointers ∧ ¬ ((reach = 2 ∨ e.die = s.g.core / 1024) ∧ (kind = 2 ∨ (kind = 1 ∧ e.asid = asid) ∨
        (kind = 0 ∧ va / 2 ^ (56 - 10 * e.level) = e.vpage ∧ e.asid = asid)))) ∧
      (∀ w ∈ t.walks, within w.quad → w.stale = true) ∧
      t.walks.map (fun w => (w.quad, w.asid, w.va)) = s.walks.map (fun w => (w.quad, w.asid, w.va)))) ∧
  (∀ (s : State), s.reaches .brk [] → s.follower .brk = true →
    exec .brk s = .next (s.takeTrap (trap 0x31 (BitVec.ofNat 64 (s.g.pc.toNat * 256 + 1))) false).tick) ∧
  (∀ (s : State), s.clear .halt [] → s.follower .halt = true → s.g.switchStep = 0 →
    (s.g.priv = 2 → exec .halt s =
      (let g : Group := { s.g with sent := true, answers := [] }
       .next (State.waits { s with g := g } .systemEvent))) ∧
    (s.g.priv = 1 → s.settled (s.g.acts.map (·.no)) = false → exec .halt s = .next (s.waits .fence)) ∧
    (s.g.priv = 1 → s.settled (s.g.acts.map (·.no)) = true → (s.endLanes (s.g.acts.map (·.no)) []).g.gid ≠ s.g.gid →
      exec .halt s = .next (s.endLanes (s.g.acts.map (·.no)) []).tick)) ∧
  (∀ (s : State), s.g.sent = true → s.unstepped → s.g.held = [] →
    (s.g.answers = [] → exec .halt s = .next (s.waits .systemEvent)) ∧
    (s.g.answers ≠ [] → exec .halt s = .next (s.past .halt s)))

/-- The Mooring. A `gcall` whose checks pass parks its strand, its pc past the call, in the filling entry with its key or in a new one,
and stalls when neither takes it; `gret` ends the callee's lanes with each caller's values on their way; `gflush` triggers the entry with
its key for a launch at the end of the clk; an entry launches when its trigger has come, its gang issues when its arguments are loaded, and a return gives a parked caller its
values and sr.gstat (08 R170 to R175, R180, R181; 09 R197 to R199). -/
def Obligations.TheMooringParksLaunchesAndReturns : Prop :=
  (∀ (a b : BitVec 6) (s : State) (l : Lane) (rest : List Lane) (n : Nat), s.clear (.gcall b a) [a, b] → s.follower (.gcall b a) = true →
    s.quiet false = true → s.g.acts = l :: rest → (s.g.words l b).toNat = n → 1 ≤ n → n ≤ 8 →
    s.g.argsTrap l n = none → (s.g.read l a).tag = .cap → capHas (s.g.read l a).bits .x = true → capHas (s.g.read l a).bits .g = true →
    capWalk (s.g.read l a).bits = 0 → (capCursor (s.g.read l a).bits).getLsbD 0 = false → s.g.held = [] →
    let quad := quadOf s.g.core
    let args := (upFrom 1 n).map fun j => s.g.read l (BitVec.ofNat 6 j)
    let parks : Prop := ∃ (t : State) (x : MoorEntry) (c : Caller), exec (.gcall b a) s = .next t ∧ t.g.run = .parked ∧ t.g.pc = s.g.pc + 4 ∧ t.mem = s.mem ∧
      t.groups = s.groups ∧ s.g.agrees t.g [] ∧ x ∈ t.moor ∧ x.quad = quad ∧ x.asid = s.g.sp.asid ∧
      x.target.bits = (s.g.read l a).bits ∧ x.n = n ∧ c ∈ x.callers ∧ c.gid = s.g.gid ∧ c.core = s.g.core ∧ c.args = args
    let filling := s.filling quad s.g.sp.asid (s.g.read l a)
    ((∀ e ∈ filling, e.n = n) → (∃ e ∈ filling, e.callers.length < 32) → parks) ∧
    ((∀ e ∈ filling, e.n = n ∧ 32 ≤ e.callers.length) → (∃ i < 16, ∀ e ∈ s.moor, e.quad = quad → e.idx ≠ i) →
      (∀ p ∈ (s.stalls.filter fun p => p.1 == quad).head?, p.2 = s.g.gid) → parks) ∧
    ((∀ e ∈ filling, e.n = n ∧ 32 ≤ e.callers.length) →
      ((∀ i < 16, ∃ e ∈ s.moor, e.quad = quad ∧ e.idx = i) ∨
        (∃ p ∈ (s.stalls.filter fun p => p.1 == quad).head?, p.2 ≠ s.g.gid)) →
      ∃ t : State, exec (.gcall b a) s = .next t ∧ t.g.pc = s.g.pc ∧ (∃ c, t.g.run = .waiting .stalledCall c) ∧ t.moor = s.moor ∧ t.mem = s.mem ∧
        (∃ p ∈ t.stalls, p.2 = s.g.gid)) ∧
    (∀ e es, filling = e :: es → e.n ≠ n →
      exec (.gcall b a) s = .next (s.takeTrap (trap 0x21 (BitVec.ofNat 64 e.n)) (readsLatch (.gcall b a))).tick)) ∧
  (∀ (a : BitVec 6) (s : State) (c : Crew), s.clear (.gret a) [a] → s.follower (.gret a) = true → s.quiet false = true →
    s.g.mooring = true → (∀ l ∈ s.g.acts, gretStop s.g a l = none) → s.settled (s.g.acts.map (·.no)) = true →
    s.crew s.g.sp.crew = some c →
    let vals := s.g.acts.map fun l => (l.no, (upFrom 1 (s.g.words l a).toNat).map fun j => s.g.read l (BitVec.ofNat 6 j))
    let s1 := s.endLanes (s.g.acts.map (·.no)) vals
    s1.g.gid ≠ s.g.gid → exec (.gret a) s = .next s1.tick ∧
      ∀ r ∈ c.callers, ∀ v, vals.lookup r.lane = some v → (⟨r.gid, r.lane, v, 0, 0⟩ : GangRet) ∈ s1.returns) ∧
  (∀ (a : BitVec 6) (s : State) (l : Lane) (rest : List Lane), s.clear (.gflush a) [a] → s.follower (.gflush a) = true →
    s.g.acts = l :: rest →
    exec (.gflush a) s =
      (let moor := s.moor.map fun x =>
        if x.quad = s.g.core / 4 ∧ x.state = .filling ∧ x.asid = s.g.sp.asid ∧ x.target.bits = (s.g.read l a).bits then
          { x with flushed := true } else x
       .next (State.past { s with moor := moor } (.gflush a) s))) ∧
  (∀ (s : State) (e : MoorEntry), e ∈ s.moor → e.state = .filling →
    (e.opened + e.mtime ≤ s.clk ∨ e.mthr ≤ e.callers.length ∨ 32 ≤ e.callers.length ∨ e.flushed = true) →
    (∀ x ∈ s.moor, x.quad = e.quad → x.idx = e.idx → x = e) →
    ∃ t : State, exec (.mooringTimeLimit e.quad e.idx) s = .next t ∧ t.mem = s.mem ∧ t.g = s.g ∧ t.groups = s.groups ∧
      t.moor = s.moor.map fun x => if x = e then { e with state := .placing } else x) ∧
  (∀ (s : State) (e : MoorEntry), s.moor.find? (fun x => x.quad == e.quad && x.idx == e.idx) = some e → e.state = .placing →
    (∀ t ∈ s.tenders, t.who ≠ .gang e.quad e.idx) → (∀ q ∈ s.queues, q.who ≠ .gang e.quad e.idx) →
    ∀ c, s.specOf (.gang e.quad e.idx) = some c →
    (∀ core f, s.firstFit c 1 [e.quad * 4 + 2, e.quad * 4 + 3] = some (core, f) →
      exec (.mooringPlacement e.quad e.idx) s =
        .next ((s.placeCrew c core 0 f).placedGang (.gang e.quad e.idx) (s.nextId + 1)).tick) ∧
    (s.firstFit c 1 [e.quad * 4 + 2, e.quad * 4 + 3] = none →
      ∃ (t : State) (d : Tender), exec (.mooringPlacement e.quad e.idx) s = .next t ∧ t.moor = s.moor ∧ t.groups = s.groups ∧ t.mem = s.mem ∧
        t.tenders = s.tenders ++ [d] ∧ d.who = .gang e.quad e.idx ∧ d.left = 1 ∧ d.stage = .start)) ∧
  (∀ (s : State) (e : MoorEntry) (h : Group), s.moor.find? (fun x => x.quad == e.quad && x.idx == e.idx && x.state == .loading) = some e →
    s.group e.gang = some h → h.run = .parked →
    ∃ t : State, exec (.mooringLoadingEnd e.quad e.idx) s = .next t ∧ t.mem = s.mem ∧ t.group e.gang = some { h with run := .ready } ∧
      t.moor = s.moor.filter fun x => !(x.quad == e.quad && x.idx == e.idx)) ∧
  (∀ (s : State) (n : Nat) (r : GangRet) (h : Group), s.returns[n]? = some r → s.group r.caller = some h → h.run = .parked → r.vals.length ≤ 4 →
    (s.groups.map (·.gid)).Nodup → (∀ o ∈ s.groups, o.gid ≠ s.g.gid) → (statusSStep h.sp.status = false ∨ h.priv ≠ 0) →
    ∃ (t : State) (k : Group), exec (.gangReturnDelivery n) s = .next t ∧ t.mem = s.mem ∧ t.returns = s.returns.eraseIdx n ∧ t.group r.caller = some k ∧
      k.run = .ready ∧ k.pc = h.pc ∧
      k.sp = { h.sp with gstat := BitVec.ofNat 64 (r.lane % 32 * 65536 + r.cause % 256 * 256 + r.status % 256) } ∧
      (∀ j v, r.vals[j]? = some v → j < 4 → ∀ l ∈ k.lanes, l.reg (BitVec.ofNat 6 (j + 1)) = v) ∧
      (∀ c : BitVec 6, c.toNat < 56 → (c = 0 ∨ r.vals.length < c.toNat) →
        k.lanes.map (fun l => (l.no, l.reg c)) = h.lanes.map fun l => (l.no, l.reg c)))

/-- Messages. `send` and `send.r` send a lane's message and wait until it is accepted, go on then, and trap when it was refused; a message
that arrives takes the oldest pending receive of its crew with its tag or queues; `recv` takes the oldest queued message with its tag or
binds its register to a pending receive; `poll` counts; a refused message is spilled after 64 clk and moves back when there is room;
a register message is deposited in its register, and inside a latch run stands in the registers that a discard gives back, while a
register that a member of the run has written keeps that value (11 R243, R244; 13 R276 to R280; 03 R73; 04 R88). -/
def Obligations.MessagesAreSentQueuedAndReceived : Prop :=
  (∀ (i : Instr) (a b : BitVec 6) (u r : Bool) (s : State) (l : Lane) (p : Place), i = (if r then .sendR b a u else .send b a u) →
    s.clear i (srcs i) → s.follower i = true → s.g.unwatched → (s.g.priv = 0 → s.g.sp.done = 0) → s.g.acts = [l] →
    checkAccess s s.g (s.g.read l a) a (index (s.g.read l a)) 1 1 [.w] ⟨false, false, false, false, false⟩ = .ok p →
    (let va := spreadInt (capWalk (s.g.read l a).bits) (index (s.g.read l a))
     s.g.sp.mwb.toNat ≤ va ∧ va < s.g.sp.mwb.toNat + 2 ^ 32) →
    (r = true → x6Bad s.g.x[6] = false) →
    ∃ (t : State) (m : Msg), exec i s = .next t ∧ t.mem = s.mem ∧ t.mail = s.mail ++ [m] ∧ t.g.pc = s.g.pc ∧ t.g.sent = true ∧
      (∃ c, t.g.run = .waiting .send c) ∧ s.g.agrees t.g [] ∧ m.data = (s.g.read l b).bits ∧ m.tag = (s.g.x[6]).extractLsb' 0 16 ∧
      m.sender = s.g.gid ∧ m.lane = l.no ∧ m.srcCrew = s.g.sp.crew ∧ m.core = coreOfPA p.pa ∧ m.off = p.pa % 2 ^ 19 ∧
      m.reg = (if r then some (((s.g.x[6]).extractLsb' 0 6).toNat, ((s.g.x[6]).extractLsb' 8 6).toNat, ((s.g.x[6]).extractLsb' 16 2).toNat)
        else none)) ∧
  (∀ (i : Instr) (a b : BitVec 6) (u r : Bool) (s : State) (l : Lane), i = (if r then .sendR b a u else .send b a u) →
    s.g.sent = true → s.g.held = [] → s.unstepped → (s.g.priv = 0 → s.g.sp.done = 0) → s.g.acts = [l] →
    (∀ v, s.g.answers.lookup l.no = some (.ok v) → exec i s = .next (s.past i s)) ∧
    (∀ c w, s.g.answers.lookup l.no = some (.fail c w) →
      exec i s = .next (s.takeTrap (trap c w) (readsLatch i)).tick) ∧
    (s.g.answers.lookup l.no = none → exec i s = .next (s.waits .send))) ∧
  (∀ (a d : BitVec 6) (u : Bool) (s : State) (l : Lane), s.clear (.recv a d u) [a] → s.follower (.recv a d u) = true → s.g.acts = [l] →
    d ≠ 0 → d.toNat < 56 → s.g.banked d = false →
    let tag := (s.g.read l a).bits.extractLsb' 0 16
    (∀ m q, takeMsg s.g.sp.crew tag (s.core s.g.core).queue = some (m, q) →
      ∃ t : State, exec (.recv a d u) s = .next t ∧ t.mem = s.mem ∧ t.g.pc = s.g.pc + 4 ∧ s.g.agrees t.g [d] ∧ t.recvs = s.recvs ∧
        (t.core s.g.core).queue = q ∧ m ∈ (s.core s.g.core).queue ∧ m.crew = s.g.sp.crew ∧ m.tag = tag ∧
        ∀ k ∈ t.g.lanes, k.no = l.no → k.reg d = ⟨m.data, .data⟩) ∧
    (∀ id, takeMsg s.g.sp.crew tag (s.core s.g.core).queue = none → s.freshId (l.no / 4) = some id →
      ∃ (t : State) (r : Recv), exec (.recv a d u) s = .next t ∧ t.mem = s.mem ∧ t.g.pc = s.g.pc + 4 ∧ s.g.agrees t.g [d] ∧ t.recvs = s.recvs ++ [r] ∧
        (t.core s.g.core).queue = (s.core s.g.core).queue ∧ r.crew = s.g.sp.crew ∧ r.tag = tag ∧ r.dst = d ∧ r.lanes = [l.no] ∧
        r.syms = [(l.no / 4, id)] ∧ ∀ k ∈ t.g.lanes, k.no = l.no → k.reg d = ⟨0, .sym ⟨id, some tag, .pure⟩⟩)) ∧
  (∀ (a d : BitVec 6) (u : Bool) (s : State), s.clear (.poll a d u) [a] →
    exec (.poll a d u) s = .next (s.computes (.poll a d u) fun l =>
      let tag := (s.g.read l a).bits.extractLsb' 0 16
      asData (BitVec.ofNat 64 ((s.core s.g.core).queue.filter fun m => m.crew == s.g.sp.crew && m.tag == tag && m.reg.isNone).length))) ∧
  (∀ (s : State) (n : Nat) (m : Msg), s.mail[n]? = some m → (∀ x ∈ s.mail.take n, x.core = m.core →
      x.src ≠ m.src ∧ (x.sender = m.sender → x.since ≠ m.since)) →
    ((s.core m.core).fenced = true ∨ s.pkg.deadDies.getLsbD (m.core / 1024) = true ∨ m.cutOff s = true ∨ s.crewAt m.core m.off = none →
      exec (.messageArrival n) s =
        .next (({ s with mail := s.mail.eraseIdx n } : State).answer m.sender m.lane 0 (.fail 0x09 m.addr)).tick) ∧
    ((s.core m.core).fenced = false → s.pkg.deadDies.getLsbD (m.core / 1024) = false → m.cutOff s = false →
    (∀ c, s.crewAt m.core m.off = some c → c.inAreas = false → (∀ x ∈ c.spilled, x.src ≠ m.src) → m.reg = none →
      (s.core m.core).queue.length < 16 →
      (s.recvs.find? (fun r => r.crew == c.id && r.tag == m.tag) = none →
        ∃ t : State, exec (.messageArrival n) s = .next t ∧ t.mem = s.mem ∧ t.mail = s.mail.eraseIdx n ∧ t.recvs = s.recvs ∧
          (t.core m.core).queue = (s.core m.core).queue ++ [{ m with crew := c.id }]) ∧
      (∀ r, s.recvs.find? (fun r => r.crew == c.id && r.tag == m.tag) = some r →
        ∃ t : State, exec (.messageArrival n) s = .next t ∧ t.mem = s.mem ∧ t.mail = s.mail.eraseIdx n ∧ t.recvs = s.recvs.erase r ∧
          t.cores = s.cores)) ∧
    (∀ c, s.crewAt m.core m.off = some c → c.inAreas = false → (∀ x ∈ c.spilled, x.src ≠ m.src) → m.reg = none →
      16 ≤ (s.core m.core).queue.length →
      (exec (.messageArrival n) s = .next s.tick) ∧
      (m.since + 64 ≤ s.clk → s.crew c.id = some c → c.spilled.length < c.spillBytes / 32 →
        ∃ t : State, exec (.messageSpill n) s = .next t ∧ t.mail = s.mail.eraseIdx n ∧ t.cores = s.cores ∧
          (s.ringVA c c.spilled.length = none → t.mem = s.mem) ∧ t.crew c.id = some { c with spilled := c.spilled ++ [{ m with crew := c.id }] })))) ∧
  (∀ (s : State) (c : Crew) (m : Msg) (q : List Msg), s.crew c.id = some c → c.spilled = m :: q → c.inAreas = false →
    (s.core c.core).queue.length < 16 → (m.reg.isSome = true ∨ ∀ r ∈ s.recvs, r.crew = m.crew → r.tag ≠ (s.headRecord c m).tag) →
    ∃ t : State, exec (.spillMoveBack c.id) s = .next t ∧ t.mem = s.mem ∧
      t.crew c.id = some { c with spilled := q, spillHead := (c.spillHead + 1) % (c.spillBytes / 32) } ∧
      (t.core c.core).queue = (s.core c.core).queue ++ [{ s.headRecord c m with core := c.core }]) ∧
  (∀ (s : State) (core : Nat) (m : Msg) (q : List Msg) (reg ctx lane gid no : Nat) (h : Group), (s.core core).queue = m :: q →
    m.reg = some (reg, ctx, lane) → s.target m.crew ctx lane = some (gid, no) → s.group gid = some h → 1 ≤ reg → reg < 56 →
    (∀ r ∈ s.recvs, ¬ (r.gang = h.gang ∧ r.dst = BitVec.ofNat 6 reg ∧ no ∈ r.lanes)) →
    (48 ≤ reg → h.streams.toList.getD (reg - 48) none = none) →
    let written : Prop := s.midRun h = true ∧ ∃ b, h.shadow = some b ∧ b.wrote.contains (no, BitVec.ofNat 6 reg) = true
    ∃ (t : State) (k : Group), exec (.messageDeposit core) s = .next t ∧ t.mem = s.mem ∧ (t.core core).queue = q ∧ t.group gid = some k ∧
      (¬ written → ∀ l ∈ k.lanes, l.no = no → l.reg (BitVec.ofNat 6 reg) = ⟨m.data, .data⟩) ∧
      (written → k.lanes = h.lanes) ∧
      (∀ b, k.shadow = some b → ∀ l ∈ b.lanes, l.no = no → l.reg (BitVec.ofNat 6 reg) = ⟨m.data, .data⟩) ∧
      (∀ c : BitVec 6, c.toNat < 56 → c ≠ BitVec.ofNat 6 reg → k.lanes.map (·.reg c) = h.lanes.map (·.reg c)) ∧ k.pc = h.pc ∧
      k.sp = h.sp)

/-- The matrix array. An `mma` form, an accumulator form and a mask load whose checks pass enter the core's order with the descriptor and
the capabilities of the lowest active lane, a paired product the follower's too; a full queue holds an `mma`; `mma.wait` passes when
nothing earlier writes its tile. The array starts the product at the head of its order, retires it with its tile and its held record,
performs the other forms in order, and tests itself (14 R282 to R287, R294 to R300; 16 R328 to R333). -/
def Obligations.TheArrayPerformsItsOrder : Prop :=
  (∀ (i : Instr) (kind : ArrayKind) (b : BitVec 6) (s : State) (l : Lane) (rest : List Lane) (ps : List XPage),
    (i, kind) ∈ [(Instr.mma b, ArrayKind.mma false false), (.mmaPair b, .mma true false), (.mmaPack b, .mma false true)] →
    s.clear i [] → s.follower i = true → b.toNat < 16 → descBad kind s.g.x7 (fmtET s.g.leadFmt).toNat = false →
    (s.array s.g.core).nFenced < 3 → s.g.acts = l :: rest →
    (i = .mmaPair b → s.g.core % 4 ≠ 3 ∧ ∀ c ∈ s.crews, c.core = followerOf s.g.core → c.matrix = true → c.saved = false →
      c.task = s.g.sp.task) →
    let regs := (mmaOperands s.g.x7).map fun p => BitVec.ofNat 6 p.1
    (∀ c ∈ regs, (s.g.read l c).tag = .cap) → mmaTrap s.g l s.g.x7 = none →
    s.captureAll s.g needR ((mmaOperands s.g.x7).map fun (c, rs, k, _) => (k, capRuns (s.g.read l (BitVec.ofNat 6 c)) 0 (runsEnd rs))) =
      .inl ps →
    ((s.array s.g.core).waiting < 4 → ∃ (t : State) (o : ArrayOp), exec i s = .next t ∧ t.g.pc = s.g.pc + 4 ∧ t.mem = s.mem ∧ t.groups = s.groups ∧
      s.g.agrees t.g [] ∧ (t.array s.g.core).order = (s.array s.g.core).order ++ [o] ∧ o.kind = kind ∧ o.t = b.toNat ∧ o.x = s.g.x7 ∧
      o.pages = ps ∧ o.crew = s.g.sp.crew ∧ o.started = false ∧ o.leader = none ∧
      o.caps = (mmaOperands s.g.x7).map (fun p => (p.1, s.g.read l (BitVec.ofNat 6 p.1))) ∧
      (i = .mmaPair b →
        (t.array (followerOf s.g.core)).order = (s.array (followerOf s.g.core)).order ++ [{ o with leader := some s.g.core }])) ∧
    (4 ≤ (s.array s.g.core).waiting → exec i s = .next (s.waits .engineQueue))) ∧
  (∀ (b : BitVec 6) (s : State) (l : Lane) (rest : List Lane), s.clear (.accZero b) [] → s.follower (.accZero b) = true → b.toNat < 16 →
    s.g.acts = l :: rest →
    ∃ (t : State) (o : ArrayOp), exec (.accZero b) s = .next t ∧ t.g.pc = s.g.pc + 4 ∧ t.mem = s.mem ∧ s.g.agrees t.g [] ∧
      (t.array s.g.core).order = (s.array s.g.core).order ++ [o] ∧ o.kind = .zero ∧ o.t = b.toNat) ∧
  (∀ (i : Instr) (kind : ArrayKind) (b n : BitVec 6) (s : State) (l : Lane) (rest : List Lane) (ps : List XPage),
    (i, kind) ∈ [(Instr.accLd b n, ArrayKind.ld), (.accSt b n, .st), (.accOut b n, .out)] →
    s.clear i (srcs i) → s.follower i = true → n.toNat < 16 → s.g.acts = l :: rest →
    (i = .accOut b n → outBad s.g.x7 s.g.leadFmt = false) →
    let spans := storeSpans kind b.toNat s.g.x7 (s.g.fmt l.no)
    let regs := spans.map fun p => BitVec.ofNat 6 p.1
    (∀ c ∈ regs, (s.g.read l c).tag = .cap) →
    s.formPages l (if i = .accLd b n then .r else .w) (if i = .accLd b n then needR else needW) spans = .inl ps →
    (i = .accLd b n → ∃ (t : State) (o : ArrayOp), exec i s = .next t ∧ t.g.pc = s.g.pc + 4 ∧ t.mem = s.mem ∧ s.g.agrees t.g [] ∧ t.owned = s.owned ∧
      (t.array s.g.core).order = (s.array s.g.core).order ++ [o] ∧ o.kind = .ld ∧ o.t = n.toNat ∧ o.pages = ps ∧
      o.caps = [(b.toNat, s.g.read l b)]) ∧
    (∀ e, i ≠ .accLd b n → (s.core s.g.core).freeEntry = some e → ∃ (t : State) (o : ArrayOp) (j : JEntry), exec i s = .next t ∧ t.g.pc = s.g.pc + 4 ∧ t.mem = s.mem ∧
      s.g.agrees t.g [] ∧ (t.array s.g.core).order = (s.array s.g.core).order ++ [o] ∧ o.kind = kind ∧ o.t = n.toNat ∧ o.pages = ps ∧
      o.entry = some e ∧ o.id = s.nextId ∧ o.fmt = s.g.fmt l.no ∧ (t.core s.g.core).journal.toList[e]? = some (some j) ∧ j.st = 1 ∧ j.reason = 0 ∧
      j.gid = s.g.gid ∧ t.owned = s.owned ++ (xlines ps
        (spans.flatMap fun (c, rs, _) => rs.flatMap fun q => capRuns (s.g.read l (BitVec.ofNat 6 c)) q.1 q.2)).map fun x => (x, o.id)) ∧
    (i ≠ .accLd b n → (s.core s.g.core).freeEntry = none → exec i s = .next (s.waits .journal))) ∧
  (∀ (b n : BitVec 6) (s : State) (l : Lane) (rest : List Lane) (ps : List XPage), s.clear (.mskLd b n) [b] →
    s.follower (.mskLd b n) = true → n.toNat < 4 → s.g.acts = l :: rest →
    s.formPages l .r needR [(b.toNat, [(0, 272)], 16)] = .inl ps → s.inFlight = false →
    let runs := capRuns (s.g.read l b) 0 272
    (∀ x ∈ xlines ps runs, s.ownedAt (x * 64) 64 = false) → s.xbad s.g.core ps (runAddrs runs) = false → s.g.unwatched →
    s.mem.xat ps (s.g.read l b) 0 272 / 2 ^ 32 % 2 ^ 96 = 0 →
    ∃ (t : State) (o : ArrayOp), exec (.mskLd b n) s = .next t ∧ t.g.pc = s.g.pc + 4 ∧ t.mem = s.mem ∧ s.g.agrees t.g [] ∧
      (t.array s.g.core).order = (s.array s.g.core).order ++ [o] ∧ o.kind = .msk n.toNat (s.mem.xat ps (s.g.read l b) 0 272)) ∧
  (∀ (b : BitVec 6) (s : State), s.clear (.mmaWait b) [] → s.follower (.mmaWait b) = true → b.toNat ≤ 16 → s.g.run = .ready →
    ((∀ o ∈ (s.array s.g.core).order, o.id < s.nextId → o.writesTile b.toNat = false) →
      exec (.mmaWait b) s = .next (s.past (.mmaWait b) s)) ∧
    ((∃ o ∈ (s.array s.g.core).order, o.id < s.nextId ∧ o.writesTile b.toNat = true) →
      exec (.mmaWait b) s = .next (s.waits (.matrixTile s.nextId)))) ∧
  (∀ (s : State) (core : Nat) (o : ArrayOp) (q : List ArrayOp) (sp : Bool), (s.array core).order = o :: q → o.kind = .mma false sp →
    o.started = false → o.leader = none → (s.array core).testing = false → (s.array core).testDue s.clk = false →
    s.unitHeld (.array core) = false →
    ∃ t : State, exec (.mmaStart core) s = .next t ∧ t.mem = s.mem ∧ t.g = s.g ∧ t.groups = s.groups ∧
      (t.array core).order = { o with started := true } :: q) ∧
  (∀ (s : State) (core : Nat) (o : ArrayOp) (q : List ArrayOp) (sp : Bool), (s.array core).order = o :: q → o.kind = .mma false sp →
    o.started = true → o.leader = none → s.xbad core o.pages o.reads = false → rising ((s.array core).tiles.map (·.1)) = true →
    let r := o.product s.mem (s.array core).blocks.toList 0 fun e => (s.array core).elem o.t e
    ∃ t : State, exec (.mmaRetire core) s = .next t ∧ t.mem = s.mem ∧ t.g = s.g ∧ t.groups = s.groups ∧ (t.array core).order = q ∧
      (t.array core).seq = (s.array core).seq + 1 ∧ (∀ e < 1024, (t.array core).elem o.t e = r.1.getD e 0) ∧
      (∀ k e, k ≠ o.t → e < 1024 → (t.array core).elem k e = (s.array core).elem k e) ∧
      ((o.x[0]).extractLsb' 52 12 = 0 → (t.array core).held = (s.array core).held) ∧
      ((o.x[0]).extractLsb' 52 12 ≠ 0 → ∃ h, (t.array core).held = (s.array core).held ++ [h] ∧ h.dest = o.dest ∧
        h.bits.extractLsb' 16 16 = ((o.x[0]).extractLsb' 52 12).setWidth 16 ∧ h.bits.extractLsb' 32 8 = 0 ∧ h.bits.extractLsb' 0 8 = 2)) ∧
  (∀ (s : State) (core : Nat) (o : ArrayOp) (q : List ArrayOp), (s.array core).order = o :: q → (s.array core).testing = false →
    rising ((s.array core).tiles.map (·.1)) = true →
    (o.kind = .zero → ∃ t : State, exec (.accFormPerform core) s = .next t ∧ t.mem = s.mem ∧ t.g = s.g ∧ (t.array core).order = q ∧
      (∀ e < 1024, (t.array core).elem o.t e = 0) ∧ (o.t < 16 → (t.array core).bad o.t = false)) ∧
    (∀ v c, o.kind = .ld → o.caps = [(c, v)] → s.xbad core o.pages (capAddrs v 0 4096) = false →
      ∃ t : State, exec (.accFormPerform core) s = .next t ∧ t.mem = s.mem ∧ t.g = s.g ∧ (t.array core).order = q ∧
        ∀ e < 1024, (t.array core).elem o.t e = s.mem.xat o.pages v (4 * e) 4) ∧
    (∀ n image, o.kind = .msk n image → n < 4 → ∃ t : State, exec (.accFormPerform core) s = .next t ∧ t.mem = s.mem ∧ t.g = s.g ∧
      (t.array core).order = q ∧ (t.array core).blocks.toList.getD n 0 = image) ∧
    (o.kind = .st ∨ o.kind = .out →
      let bytes := o.bytes (s.array core)
      let w := State.writeLines core o.id o.pages bytes (fun _ => (s.array core).bad o.t) (s.ownedLines o.id) s
      w.2 = none → awayByte o.pages bytes = none →
      exec (.accFormPerform core) s = .next (((w.1.writeAway core o.pages bytes).1.mapArray core MArray.pop).tick))) ∧
  (∀ (s : State) (core : Nat), s.testStarts core = true →
    ∃ t : State, exec (.selfTestStart core) s = .next t ∧ t.mem = s.mem ∧ t.g = s.g ∧ t.array core = { s.array core with testing := true }) ∧
  (∀ (s : State) (core : Nat) (mismatch : BitVec 4), (s.array core).testing = true →
    ∃ t : State, exec (.selfTestEnd core mismatch) s = .next t ∧
      t.array core = { s.array core with testing := false, untested := 0, held := [], fenced := (s.array core).fenced ||| mismatch } ∧
      (mismatch ≠ 0 → (⟨core / 1024 * 1024, 0, 0, 0, 0x3F, ((s.array core).fenced ||| mismatch).setWidth 64⟩ : SysEvent) ∈ t.sys))

/-- Copies. `cpy` whose checks pass joins its quad's engine with its captured pages and owns its destination lines, and waits for room in a
queue of eight; `cpy.wait` waits for the issuer's copies with its tag; the engine starts its oldest copy, writes owned lines one at a time in any order,
and with the last, where every home takes its lines, writes its record and lets the copy go (12 R255; 15 R304 to R307; 16 R334, R335). -/
def Obligations.CopiesGoThroughTheirEngine : Prop :=
  (∀ (s : State) (l : Lane) (rest : List Lane) (sp dp : List XPage), s.clear .cpy [] → s.follower .cpy = true → copyBad s.g.x7 = false →
    s.g.acts = l :: rest →
    let x := s.g.x7
    let regs := (if cFill x then [] else [cSrc x]) ++ [cDst x]
    (∀ c ∈ regs, (s.g.read l c).known = true) →
    (cFill x = false → s.sideTrap (s.g.read l (cSrc x)) (cSrc x) .r (cHsrc x) (cRows x) (cLen x) (cSstr x) = none) →
    s.sideTrap (s.g.read l (cDst x)) (cDst x) .w (cHdst x) (cRows x) (cLen x) (cDstr x) = none →
    s.sidePages (s.g.read l (cSrc x)) needR (cFill x || cHsrc x) (cRows x) (cLen x) (cSstr x) = .inl sp →
    s.sidePages (s.g.read l (cDst x)) needW (cHdst x) (cRows x) (cLen x) (cDstr x) = .inl dp →
    ((s.quadCopies (quadOf s.g.core)).length < 8 → ∃ (t : State) (o : CopyOp), exec .cpy s = .next t ∧ t.g.pc = s.g.pc + 4 ∧ t.mem = s.mem ∧
      t.groups = s.groups ∧ s.g.agrees t.g [] ∧ t.copies = s.copies ++ [o] ∧ o.quad = quadOf s.g.core ∧ o.crew = s.g.sp.crew ∧
      o.gang = s.g.gang ∧ o.src = s.g.read l (cSrc x) ∧ o.dst = s.g.read l (cDst x) ∧ o.rows = cRows x ∧ o.len = cLen x ∧
      o.fill = cFill x ∧ o.spages = sp ∧ o.dpages = dp ∧ o.tag = (x[0]).extractLsb' 52 12 ∧ o.running = false ∧
      t.owned = s.owned ++ (if cHdst x then [] else xlines dp (rowRuns o.dst o.rows o.len (cDstr x))).map fun n => (n, o.id)) ∧
    (8 ≤ (s.quadCopies (quadOf s.g.core)).length → exec .cpy s = .next (s.waits .engineQueue))) ∧
  (∀ (a : BitVec 6) (s : State) (l : Lane) (rest : List Lane), s.clear (.cpyWait a) [a] → s.follower (.cpyWait a) = true →
    s.g.acts = l :: rest →
    let tag := (s.g.read l a).bits.extractLsb' 0 12
    let mine (o : CopyOp) : Prop := o.quad = quadOf s.g.core ∧ o.gang = s.g.gang ∧ o.id < s.nextId ∧ (tag = 0 ∨ o.tag = tag)
    s.g.run = .ready →
    ((∀ o ∈ s.copies, ¬ mine o) → exec (.cpyWait a) s = .next (s.past (.cpyWait a) s)) ∧
    ((∃ o ∈ s.copies, mine o) → exec (.cpyWait a) s = .next (s.waits (.copy s.nextId)))) ∧
  (∀ (s : State) (quad : Nat) (o : CopyOp) (q : List CopyOp), s.quadCopies quad = o :: q → o.running = false →
    s.unitHeld (.copy quad) = false →
    ∃ t : State, exec (.copyStart quad) s = .next t ∧ t.mem = s.mem ∧ t.g = s.g ∧ t.groups = s.groups ∧
      t.copies = s.copies.map fun p => if p.id = o.id then { p with running := true } else p) ∧
  (∀ (s : State) (quad : Nat) (o : CopyOp) (q : List CopyOp), s.quadCopies quad = o :: q → o.running = true →
    o.finished = false → o.refused = none → o.hdst = false → s.unitHeld (.copy quad) = false → (∀ p ∈ s.copies, p.id = o.id → p = o) →
    let bs := s.copyBytes o
    let bytes := bs.map fun b => (b.1, b.2.1)
    s.copyRefusals o = [] → awayByte o.dpages bytes = none →
    let w := State.writeLines o.core o.id o.dpages bytes (badLine o.dpages bs) (s.ownedLines o.id) (s.readSources o fun b =>
      match xpa o.dpages b with | some (pa, _) => (s.ownedLines o.id).contains (pa / 64) | none => false)
    w.2 = none →
    let s1 := w.1.readSources o fun b => (xpa o.dpages b).isNone
    let bad := o.poisoned || (s.ownedLines o.id).any (badLine o.dpages bs) || badBytes (bs.filter fun b => (xpa o.dpages b.1).isNone)
    (o.tag = 0 → ∃ t : State, exec (.copyCompletion quad) s = .next t ∧ t.mem = s1.mem ∧ t.g = s.g ∧ t.groups = s.groups ∧
      t.copies = s.copies.filter fun p => p.id != o.id) ∧
    (∀ fn, o.tag ≠ 0 → o.dest = .host fn → ∃ t : State, exec (.copyCompletion quad) s = .next t ∧ t.mem = s1.mem ∧ t.g = s.g ∧
      (t.copies = s.copies.filter fun p => p.id != o.id) ∧ ∀ f ∈ t.pkg.functions, f.no = fn →
        recordBits 1 (if bad then 2 else 0) o.tag.toNat (o.core % 4) (BitVec.ofNat 64 (o.rows * o.len)) ∈ f.events)) ∧
  (∀ (s : State) (o : CopyOp) (n : Nat), s.copies.find? (fun p => p.id == o.id) = some o → o.running = true →
    o.refused = none → o.hdst = false → n ∈ s.ownedLines o.id → s.lineWaits n = false → s.copyRefusals o = [] →
    let bs := s.copyBytes o
    let w := State.writeOwned (s.readSources o fun b => match xpa o.dpages b with | some (pa, _) => pa / 64 == n | none => false)
      o.core o.id o.dpages (bs.map fun b => (b.1, b.2.1)) (badLine o.dpages bs n) n
    w.2 = none →
    ∃ t : State, exec (.engineLineWrite o.id n) s = .next t ∧ t.mem = w.1.mem ∧ t.g = s.g ∧ t.owned = s.owned.filter fun p => p != (n, o.id))

/-- Prefetch units and streams. `pfk.ld` loads a kernel of words of the subset into its core's unit and `pfk.arm` arms it on a bound pop
stream; a unit runs its kernel once for each due element, one instruction at a time: an integer form writes the run's registers, a prefetch
has no effect, the end of the kernel or a return ends the run, and at the 256th instruction a kernel fault disarms it with a record; a
stream's generator fetches ahead of what is consumed (11 R239; 15 R308 to R311; 16 R336, R337). -/
def Obligations.PrefetchUnitsRunTheirKernels : Prop :=
  (∀ (b a : BitVec 6) (s : State) (l : Lane) (rest : List Lane) (ps : List XPage) (n : Nat), s.clear (.pfkLd b a) [a, b] →
    s.follower (.pfkLd b a) = true → s.g.acts = l :: rest → (s.g.words l b).toNat = n → 1 ≤ n → n ≤ 64 →
    spanTrap s.g (s.g.read l a) a [.r] true 4 [] 0 (4 * n) = none →
    s.capture s.g needR (fun _ => true) (capRuns (s.g.read l a) 0 (4 * n)) = .inl ps → s.inFlight = false →
    (∀ x ∈ xlines ps (capRuns (s.g.read l a) 0 (4 * n)), s.ownedAt (x * 64) 64 = false) →
    let word (j : Nat) : BitVec 32 := BitVec.ofNat 32 (s.mem.xat ps (s.g.read l a) (4 * j) 4)
    s.g.unwatched → (∀ j < n, s.xbad s.g.core ps (capAddrs (s.g.read l a) (4 * j) 4) = false ∧ kernelOk (word j) = true) →
    (s.punit s.g.core).busy = false →
    ∃ t : State, exec (.pfkLd b a) s = .next t ∧ t.g.pc = s.g.pc + 4 ∧ t.mem = s.mem ∧ s.g.agrees t.g [] ∧
      t.punit s.g.core = ⟨s.g.core, (upFrom 0 n).map word, none, [], none, 0⟩) ∧
  (∀ (b a : BitVec 6) (s : State) (l : Lane) (rest : List Lane) (st : Stream), s.clear (.pfkArm b a) [a, b] →
    s.follower (.pfkArm b a) = true → s.g.acts = l :: rest →
    let reg := (s.g.words l a).extractLsb' 0 6
    48 ≤ reg.toNat → reg.toNat ≤ 55 → s.g.stream reg = some st → st.append = false → (s.punit s.g.core).kernel ≠ [] →
    (s.punit s.g.core).busy = false →
    ∃ (t : State) (x : Arming), exec (.pfkArm b a) s = .next t ∧ t.g.pc = s.g.pc + 4 ∧ t.mem = s.mem ∧ s.g.agrees t.g [] ∧
      (t.punit s.g.core).arm = some x ∧ (t.punit s.g.core).kernel = (s.punit s.g.core).kernel ∧ x.gang = s.g.gang ∧ x.reg = reg.toNat ∧
      x.tag = (s.g.read l b).bits.extractLsb' 0 12 ∧ x.k = [l.reg 3, l.reg 4, l.reg 5, l.reg 6, l.reg 7] ∧ x.live = true) ∧
  (∀ (s : State) (core : Nat) (a : Arming) (r : KernelRun) (rest : List (Nat × Val)),
    let u := s.punit core
    u.arm = some a → s.pkg.lamp.ctl = 0 →
    (u.run = some r ∧ rest = u.due) ∨
      (∃ n v, u.run = none ∧ u.due = (n, v) :: rest ∧ r = ⟨n, kernelStart a n v, 0, 0⟩ ∧ s.unitHeld (.prefetch core) = false) →
    let l : Lane := ⟨0, r.regs, [], true, true⟩
    let goesOn (k : Vector Val 56) : Prop := ∃ t : State, exec (.prefetchKernelRun core) s = .next t ∧ t.mem = s.mem ∧ t.g = s.g ∧
      t.punit core = { u with due := rest, run := some ⟨r.n, k, r.ix + 1, r.count + 1⟩, at_ := s.clk }
    let ends : Prop := ∃ t : State, exec (.prefetchKernelRun core) s = .next t ∧ t.mem = s.mem ∧ t.g = s.g ∧
      t.punit core = { u with due := rest, run := none, arm :=
        if rest.isEmpty && (!a.live || !(s.all.any fun g => g.gang == a.gang)) then none else some a }
    (r.ix = u.kernel.length → ends) ∧
    (∀ w i, u.kernel[r.ix]? = some w → kernelOk w = true → decode32 w.toNat = some i → r.ix < 2 ^ 32 → r.count < 255 →
      ((∃ x y, i = .pf x y) → goesOn r.regs) ∧ ((∃ x y, i = .ret x y) → ends) ∧
      (∀ f, integerResult i = some f → (∀ c ∈ srcs i, (l.reg c).known = true) →
        goesOn (match dst i with | some d => (l.setReg d (asData (f fun c => (l.reg c).word))).k | none => r.regs))) ∧
    (∀ fn, r.ix ≠ u.kernel.length → 255 ≤ r.count → a.dest = .host fn →
      ∃ t : State, exec (.prefetchKernelRun core) s = .next t ∧ t.mem = s.mem ∧
        t.punit core = { u with due := [], run := none, arm := none } ∧ ∀ f ∈ t.pkg.functions, f.no = fn →
          recordBits 3 5 a.tag.toNat (core % 4) (BitVec.ofNat 64 r.n) ∈ f.events)) ∧
  (∀ (s : State) (c : BitVec 6) (st : Stream) (p : Place), s.g.stream c = some st → st.append = false →
    let f := max st.fetched st.count
    f < st.limit → f < st.count + st.ahead →
    checkAccess s s.g st.base c (st.at_ f) st.size st.size [.r] ⟨true, false, false, false, false⟩ = .ok p →
    ∃ (t : State) (n : Nat), exec (.streamRunAheadFetch s.g.gid c.toNat) s = .next t ∧
      t.mem = (if p.pkg = none then s.mem.checked p.pa p.key else s.mem) ∧ f < n ∧ n ≤ st.limit ∧
      t.g.lanes = s.g.lanes ∧ t.g.pc = s.g.pc ∧ t.g.stream c = some { st with fetched := n })

/-- Event queues, collectives and the engine fence. `evq.rd` consumes the oldest record of its queue or reads zero; `evq.wait` gives 1 once a
record is there and 0 after its limit; a record held too long is dropped and counted; `coll` joins its task's open collective or opens
one, which ends when every contribution has arrived or the limit passes; `eng.fence` waits for the group's accesses and engine operations
(15 R312, R313, R315; 16 R338 to R342). -/
def Obligations.EventQueuesAndCollectives : Prop :=
  (∀ (d : BitVec 6) (s : State) (p : Place), s.clear (.evqRd d) [] → s.follower (.evqRd d) = true → s.g.unwatched → s.scPending = false →
    s.evqChk true = .ok p → p.own = true → s.ownedAt p.pa 64 = false → s.displaced = false → s.scDueAt (homeOf p.pa) = false →
    (∀ r ∈ s.net, (r.src = s.g.srcOf s.g.lead ∨ (r.gid = s.g.gid ∧ r.since = s.clk)) → r.home ≠ homeOf p.pa) →
    s.refusal .evqRd p.pa = none → Config.ddrSize ≤ p.pa → mapGet (p.pa / 64) s.mem.checks = none → s.mem.poisoned p.pa 16 = false →
    s.mem.poisoned (p.pa + 16 + 16 * (s.evqRD p.pa % 64)) 16 = false → (∀ r ∈ s.records, s.waitsAt p.pa r = false) → s.g.banked d = false → d.toNat < 56 →
    (s.evqWR p.pa = s.evqRD p.pa → ∃ t : State, exec (.evqRd d) s = .next t ∧ t.g.pc = s.g.pc + 4 ∧ t.mem = s.mem ∧ s.g.agrees t.g [d] ∧
      (d ≠ 0 → ∀ l ∈ t.g.lanes, l.active = true → l.reg d = Val.zero)) ∧
    (s.evqWR p.pa ≠ s.evqRD p.pa → ∃ t : State, exec (.evqRd d) s = .next t ∧ t.g.pc = s.g.pc + 4 ∧ s.g.agrees t.g [d] ∧
      t.mem = s.mem.store (p.pa + 4) 4 ((s.evqRD p.pa + 1) % 2 ^ 32) ∧
      (d ≠ 0 → ∀ l ∈ t.g.lanes, l.active = true →
        l.reg d = ⟨BitVec.ofNat 128 (s.mem.nat (p.pa + 16 + 16 * (s.evqRD p.pa % 64)) 16), .data⟩))) ∧
  (∀ (d : BitVec 6) (s : State) (p : Place), s.clear (.evqWait d) [] → s.follower (.evqWait d) = true → s.evqChk false = .ok p →
    s.g.answers = [] → s.g.unwatched → p.pkg = none →
    (s.evqWR p.pa ≠ s.evqRD p.pa → exec (.evqWait d) s =
      (let g : Group := s.g.write d (s.g.acts.map fun l => (l.no, asData 1))
       let s1 : State := { s with g := g }
       .next (s1.past (.evqWait d) s))) ∧
    (s.evqWR p.pa = s.evqRD p.pa → exec (.evqWait d) s =
      (let s1 : State := { s with g := { s.g with sent := true, answers := [] } }
       .next (s1.waits .evq)))) ∧
  (∀ (d : BitVec 6) (s : State) (p : Place), s.clear (.evqWait d) [] → s.follower (.evqWait d) = true → s.evqChk false = .ok p →
    s.g.answers = [] → s.g.unwatched → p.pkg ≠ none →
    ∃ t : State, exec (.evqWait d) s = .next t ∧ t.mem = s.mem ∧ t.groups = s.groups ∧
      (s.evqHolds p = true → t.g.pc = s.g.pc + 4) ∧
      (s.evqHolds p = false → t.g.pc = s.g.pc ∧ t.g.sent = true ∧ ∃ c, t.g.run = .waiting .evq c)) ∧
  (∀ (d : BitVec 6) (s : State) (p : Place), s.g.sent = true → s.g.held = [] → s.unstepped → s.evqChk false = .ok p →
    s.g.stream d = none → s.g.answers = [] →
    (s.evqHolds p = true → exec (.evqWait d) s =
      (let g : Group := s.g.write d (s.g.acts.map fun l => (l.no, asData 1))
       let s1 : State := { s with g := g }
       .next (s1.past (.evqWait d) s))) ∧
    (s.evqHolds p = false → exec (.evqWait d) s = .next (s.waits .evq))) ∧
  (∀ (s : State) (c : Nat), s.g.run = .waiting .evq c → c + s.g.sp.felim.toNat ≤ s.clk → s.g.answers = [] →
    exec (.evqWaitTimeLimit s.g.gid) s =
      (let s1 : State := { s with g := { s.g with answers := [(s.g.lead, .ok Val.zero)] } }
       .next s1.tick)) ∧
  (∀ (d : BitVec 6) (s : State) (p : Place) (n : Nat) (v : Val) (as : List (Nat × Answer)), s.g.sent = true → s.g.held = [] → s.unstepped →
    s.evqChk false = .ok p → s.g.stream d = none → s.g.answers = (n, .ok v) :: as → exec (.evqWait d) s =
      (let g : Group := s.g.write d (s.g.acts.map fun l => (l.no, v))
       let s1 : State := { s with g := g }
       .next (s1.past (.evqWait d) s))) ∧
  (∀ (s : State) (n : Nat) (r : OutRec) (pa crew : Nat), s.records[n]? = some r → r.dest = .queue pa crew → s.evqSaved crew = false →
    r.since + 65536 ≤ s.clk →
    ∃ t : State, exec (.eventRecordDrop n) s = .next t ∧ t.records = s.records.eraseIdx n ∧
      t.mem = s.mem.store (pa + 8) 4 ((s.evqDROP pa + 1) % 2 ^ 32) ∧ t.g = s.g ∧ t.groups = s.groups) ∧
  (∀ (s : State) (l : Lane) (rest : List Lane) (sp dp : List XPage), s.clear .coll [] → s.follower .coll = true →
    collBad s.g.x7 = false → s.g.acts = l :: rest →
    let x := s.g.x7
    let sv := s.g.read l (kSrc x)
    let dv := s.g.read l (kDst x)
    sv.known = true → dv.known = true →
    spanTrap s.g sv (kSrc x) [.r] false (etSize (kEt x)) (capRuns sv 0 (kLen x)) 0 (kLen x) = none →
    spanTrap s.g dv (kDst x) [.w] false (etSize (kEt x)) (capRuns dv 0 (kDstLen x)) 0 (kDstLen x) = none →
    s.capture s.g needR (fun _ => true) (capRuns sv 0 (kLen x)) = .inl sp →
    s.capture s.g needW (fun _ => true) (capRuns dv 0 (kDstLen x)) = .inl dp →
    (s.coll s.g.sp.task (kGid x) = none → ∃ (t : State) (c : Coll) (p : Participant), exec .coll s = .next t ∧ t.g.pc = s.g.pc + 4 ∧ t.mem = s.mem ∧ s.g.agrees t.g [] ∧
      t.colls = s.freeColls.colls ++ [c] ∧ c.task = s.g.sp.task ∧ c.group = kGid x ∧ c.op = kOp x ∧ c.np = kNP x ∧ c.len = kLen x ∧ c.parts = [p] ∧
      c.closed = false ∧ p.crew = s.g.sp.crew ∧ p.src = sv ∧ p.dst = dv ∧ p.deadline = s.clk + kTlim x) ∧
    (∀ c, s.coll s.g.sp.task (kGid x) = some c → c.closed = false → (∀ q ∈ c.parts, q.crew ≠ s.g.sp.crew ∧ s.clk < q.deadline) →
      (∀ q ∈ c.parts, q.pkg = s.pkg.pod.toNat → q.die ≠ s.g.core / 1024) →
      (c.op = kOp x ∧ c.et = kEt x ∧ c.max = kMax x ∧ c.np = kNP x ∧ c.root = kRoot x ∧ c.len = kLen x) →
      ∃ (t : State) (p : Participant), exec .coll s = .next t ∧ t.g.pc = s.g.pc + 4 ∧ t.mem = s.mem ∧ s.g.agrees t.g [] ∧
        t.coll s.g.sp.task (kGid x) = some { c with parts := c.parts ++ [p] } ∧ p.crew = s.g.sp.crew ∧ p.src = sv ∧ p.dst = dv) ∧
    (∀ c, s.coll s.g.sp.task (kGid x) = some c → (∃ q ∈ c.parts, q.crew = s.g.sp.crew) →
      exec .coll s = .next (s.takeTrap (trap 0x20 (BitVec.ofNat 64 (kGid x))) false).tick)) ∧
  (∀ (i : Instr) (s : State) (n : Nat) (c : Coll), s.colls[n]? = some c → c.closed = false → s.collHeld c = false →
    ((i = .collectiveCompletion n ∧ c.np ≤ c.givers.length) ∨
      (i = .collectiveTimeLimit n ∧ c.givers.length < c.np ∧ ∃ p ∈ c.parts, p.deadline ≤ s.clk)) →
    ∃ t : State, exec i s = .next t ∧ t.g = s.g ∧ t.groups = s.groups ∧
      (∀ k ∈ t.colls, k.task = c.task → k.group = c.group → k.closed = true) ∧
      ∀ p ∈ c.givers, p.away = false → ∀ o ∈ t.owned, o.2 ≠ p.op) ∧
  (∀ (s : State), s.clear .engFence [] → s.follower .engFence = true → s.g.run = .ready →
    (s.quiet false = true → s.enginesOut s.nextId = false → exec .engFence s = .next (s.past .engFence s)) ∧
    ((s.quiet false = false ∨ s.enginesOut s.nextId = true) → exec .engFence s = .next (s.waits (.engines s.nextId))))

/-- Task records. `spawn` reads its record once earlier writes are performed, launches it when its checks give no code, and writes the
code; a walk starts unless no core can ever take the crew, moves a quad nearer to its bearing, places crews where it may, and with
everything placed is gone; a quad offers what it holds in order, marks what it passes over, and lets an entry passed over for 4,096 clk
block those after it (07 R145; 15 R319 to R321; 16 R343; 18 R388). -/
def Obligations.TaskRecordsAreLaunchedAndPlaced : Prop :=
  (∀ (a d : BitVec 6) (s : State) (l : Lane) (rest : List Lane) (ps : List XPage), s.clear (.spawn a d) (srcs (.spawn a d)) →
    s.follower (.spawn a d) = true → s.quiet false = true → s.g.acts = l :: rest → s.g.banked d = false → d.toNat < 56 →
    let v := s.g.read l a
    let runs := capRuns v 0 64
    spanTrap s.g v a [.r] false 16 runs 0 64 = none → s.capture s.g needR (fun _ => true) runs = .inl ps →
    (∀ n ∈ xlines ps runs, s.ownedAt (n * 64) 64 = false) → s.xbad s.g.core ps (runAddrs runs) = false → s.g.unwatched →
    let r := taskRec (s.mem.xat ps v 0 64) (s.granuleCap s.g v ps 0) (s.granuleCap s.g v ps 16)
    let code := r.code (s.ctxBytes (((s.task s.g.sp.task).map (·.ctx)).getD 0)).1
    ∃ t : State, exec (.spawn a d) s = .next t ∧ t.g.pc = s.g.pc + 4 ∧ t.mem = s.mem ∧ t.groups = s.groups ∧ s.g.agrees t.g [d] ∧
      (d ≠ 0 → ∀ k ∈ t.g.lanes, k.active = true → k.reg d = asData (BitVec.ofNat 64 code)) ∧
      (code ≠ 0 → t.tasks = s.tasks ∧ t.tenders = s.tenders) ∧
      (code = 0 → (∃ x, t.tasks = s.tasks ++ [x] ∧ x.id = s.nextId ∧ x.record = r ∧ x.launcher = some s.g.sp.crew ∧
          x.asid = s.g.sp.asid.toNat ∧ x.mwb = s.g.sp.mwb ∧ x.swb = s.g.sp.swb ∧ x.tvec = s.g.sp.tvec ∧ x.src = quadOf s.g.core ∧
          x.core = s.g.core ∧ x.addr = cursorAddr v) ∧
        t.tenders = s.tenders ++ (s.diesFor r.die r.dmax).map (shareWalk r s.nextId (quadOf s.g.core)))) ∧
  (∀ (s : State) (n : Nat) (w : Tender) (task die : Nat) (c : CrewSpec), s.tenders[n]? = some w → w.stage = .start →
    w.who = .share task die → die < 6 → s.specOf w.who = some c → s.pkg.deadDies.getLsbD die = false → s.unitHeld .scheduler = false →
    ∃ t : State, exec (.tenderWalkStart n) s = .next t ∧ t.g = s.g ∧ t.groups = s.groups ∧
      (s.canEver c = true → t.tenders = s.tenders.set n { w with stage := .route } ∧ t.tasks = s.tasks ∧ t.mem = s.mem) ∧
      (s.canEver c = false → t.tenders = s.tenders.eraseIdx n ∧ ∀ x ∈ t.tasks, x.id = task → x.refused.getLsbD die = true)) ∧
  (∀ (s : State) (n : Nat) (w : Tender), s.tenders[n]? = some w → w.stage = .route → s.offeredAfter w = false →
    (w.radius < ringDist w.qx w.qy w.bx w.by_ → w.left ≠ 0 → ∃ t : State, exec (.tenderWalkOffer n) s = .next t ∧ t.mem = s.mem ∧ t.g = s.g ∧
      t.groups = s.groups ∧ t.crews = s.crews ∧ t.tenders = s.tenders.set n
        (if w.qx ≠ w.bx then { w with qx := toward w.qx w.bx } else { w with qy := toward w.qy w.by_ })) ∧
    (ringDist w.qx w.qy w.bx w.by_ ≤ w.radius → w.left ≠ 0 → ∀ c, s.specOf w.who = some c →
      let cores := quadCores (quadAt w.die w.qx w.qy) c.isG
      (s.firstFit c w.left cores = none → ∃ t : State, exec (.tenderWalkOffer n) s = .next t ∧ t.mem = s.mem ∧ t.g = s.g ∧
        t.groups = s.groups ∧ t.crews = s.crews ∧
        (w.qx ≠ w.bx → t.tenders = s.tenders.set n { w with qx := toward w.qx w.bx }) ∧
        (w.qx = w.bx → w.qy ≠ w.by_ → t.tenders = s.tenders.set n { w with qy := toward w.qy w.by_ }) ∧
        (w.qx = w.bx → w.qy = w.by_ → w.radius ≠ 0 → t.tenders = s.tenders.set n { w with stage := .ring 1 0 })) ∧
      (∀ core f, s.firstFit c w.left cores = some (core, f) → f.n = w.left →
        let p := s.placeCrew c core w.next f
        ∃ t : State, exec (.tenderWalkOffer n) s = .next t ∧ t.mem = p.mem ∧ t.g = s.g ∧ t.groups = p.groups ∧ t.crews = p.crews ∧
          t.tenders = s.tenders.eraseIdx n)) ∧
    (ringDist w.qx w.qy w.bx w.by_ ≤ w.radius →
      let r := s.take w.who (quadAt w.die w.qx w.qy) w.left w.left w.next
      ∃ t : State, exec (.tenderWalkOffer n) s = .next t ∧ (r.2.1 = 0 ∨ w.qx ≠ w.bx → t.mem = r.1.mem ∧ t.g = r.1.g ∧ t.groups = r.1.groups ∧
        t.crews = r.1.crews ∧ t.tenders = (if r.2.1 = 0 then s.tenders.eraseIdx n
          else s.tenders.set n { w with left := r.2.1, next := r.2.2, qx := toward w.qx w.bx })))) ∧
  (∀ (s : State) (n k pos x y : Nat) (w : Tender), s.tenders[n]? = some w → w.stage = .ring k pos → s.offeredAfter w = false →
    (ringQuads w.bx w.by_ k)[pos]? = some (x, y) →
    let r := s.take w.who (quadAt w.die x y) w.left w.left w.next
    ∃ t : State, exec (.tenderWalkOffer n) s = .next t ∧ (r.2.1 = 0 ∨ pos + 1 < (ringQuads w.bx w.by_ k).length → t.mem = r.1.mem ∧ t.g = r.1.g ∧
      t.groups = r.1.groups ∧ t.crews = r.1.crews ∧ t.tenders = (if r.2.1 = 0 then s.tenders.eraseIdx n
        else s.tenders.set n { w with qx := x, qy := y, left := r.2.1, next := r.2.2, stage := .ring k (pos + 1) }))) ∧
  (∀ (s : State) (n : Nat) (w : Tender), s.tenders[n]? = some w → w.stage ≠ .start → s.offeredAfter w = true →
    exec (.tenderWalkOffer n) s = .next s.tick) ∧
  (∀ (s : State) (quad : Nat) (e : QEntry), s.unitHeld .scheduler = false →
    s.queues.filter (fun q => q.quad == quad && !q.overflow) = [e] → s.queues.filter (fun q => q.quad == quad && q.overflow) = [] →
    let r := s.takeAny e.who quad e.left e.left e.next
    ∃ t : State, exec (.readyQueueOffer quad) s = .next t ∧ t.mem = r.1.mem ∧ t.g = r.1.g ∧ t.groups = r.1.groups ∧ t.crews = r.1.crews ∧
      t.queues = r.1.queues.filter (fun q => q.quad != quad || q.overflow) ++
        (if r.2.1 = 0 then []
          else if r.2.1 < e.left then [{ e with left := r.2.1, next := r.2.2, passed := none, blocking := false, freed := false }]
          else [{ e with passed := some (e.passed.getD s.clk), blocking := e.blocks s.clk, freed := false }])) ∧
  (∀ (s : State) (quad n : Nat) (e : QEntry) (c : Nat),
    (serviceOrder (s.queues.filter fun q => q.quad == quad && !q.overflow))[n]? = some e → e.passed = some c → c + 4096 ≤ s.clk →
    ∃ t : State, exec (.passedOverLimit quad n) s = .next t ∧ t.mem = s.mem ∧ t.g = s.g ∧ t.groups = s.groups ∧
      t.queues = s.queues.map fun q => if q = e then { q with blocking := true } else q)

/-- Dependency counters. `task.ctr` posts a counter with its creator word; `task.dec` holds a journal entry from its issue, sends a
decrement once earlier writes are performed, and waits for the bank's answer; the bank counts down, fires the counter's record at 1 and reports an exhausted counter; the
answer frees the entry and lets the group go on or trap; a completed task's automatic decrements follow its stores (15 R316 to R318;
16 R344 to R346). -/
def Obligations.CountersCountDownAndFire : Prop :=
  (∀ (a : BitVec 6) (s : State) (l : Lane) (rest : List Lane) (p : Place) (e : Nat), s.clear (.taskCtr a) [a] →
    s.follower (.taskCtr a) = true → s.g.unwatched → s.scPending = false → s.g.acts = l :: rest → (s.g.xr 2).extractLsb' 1 63 = 0 →
    (s.g.xr 0).extractLsb' 56 8 = 0 → s.counterChk [.w, .a, .m] (s.g.read l a) a = .ok p → (s.core s.g.core).freeEntry = some e →
    ∃ (t : State) (j : JEntry) (r : Req) (c : Creator), exec (.taskCtr a) s = .next t ∧ t.g.pc = s.g.pc + 4 ∧ t.mem = s.mem ∧ s.g.agrees t.g [] ∧
      (t.core s.g.core).journal.toList[e]? = some (some j) ∧ j.st = 1 ∧ j.size = 5 ∧ j.gid = s.g.gid ∧ t.net = s.net ++ [r] ∧ r.pa = p.pa ∧
      r.entry = some e ∧ r.op = .counter (counterBits (s.g.xr 0) (s.g.xr 1 >>> 32) (s.g.xr 1) ((s.g.xr 2).getLsbD 0)) c ∧
      c.pa = p.pa ∧ c.asid = s.g.sp.asid.toNat ∧ c.mwb = s.g.sp.mwb ∧ c.swb = s.g.sp.swb ∧ c.crew = s.g.sp.crew) ∧
  (∀ (a : BitVec 6) (s : State) (l : Lane) (rest : List Lane) (p : Place), s.clear (.taskDec a) [a] →
    s.follower (.taskDec a) = true → s.g.unwatched → s.g.acts = l :: rest → s.counterChk [.w, .a] (s.g.read l a) a = .ok p →
    (∀ e, (s.core s.g.core).freeEntry = some e →
      ∃ (t : State) (j : JEntry), exec (.taskDec a) s = .next t ∧ t.g.pc = s.g.pc ∧ (∃ c, t.g.run = .waiting .fence c) ∧ t.g.sent = true ∧
        t.mem = s.mem ∧ t.groups = s.groups ∧ s.g.agrees t.g [] ∧ (t.core s.g.core).journal.toList[e]? = some (some j) ∧ j.st = 1 ∧ j.gid = s.g.gid ∧
        (s.quiet false = false → t.decs = s.decs) ∧
        (s.quiet false = true → ∃ x : Decr, t.decs = s.decs ++ [x] ∧ x.pa = some p.pa ∧ x.gid = some s.g.gid ∧ x.entry = some e ∧
          x.result = none)) ∧
    ((s.core s.g.core).freeEntry = none → exec (.taskDec a) s = .next (s.waits .fence))) ∧
  (∀ (a : BitVec 6) (s : State) (l : Lane) (rest : List Lane), s.g.sent = true → s.g.held = [] → s.unstepped → s.g.acts = l :: rest →
    (∀ n v as, s.g.answers = (n, .ok v) :: as → exec (.taskDec a) s = .next (s.past (.taskDec a) s)) ∧
    (∀ n c x as, s.g.answers = (n, .fail c x) :: as → exec (.taskDec a) s = .next (s.takeTrap (trap c x) (readsLatch (.taskDec a))).tick) ∧
    (s.g.answers = [] → s.decsOf s.g.gid = true ∨ s.decEntry = none ∨ s.quiet false = false → exec (.taskDec a) s = .next (s.waits .fence)) ∧
    (∀ e p, s.g.answers = [] → s.decsOf s.g.gid = false → s.decEntry = some e → s.quiet false = true →
      s.counterChk [.w, .a] (s.g.read l a) a = .ok p →
      ∃ (t : State) (x : Decr), exec (.taskDec a) s = .next t ∧ t.g.pc = s.g.pc ∧ (∃ c, t.g.run = .waiting .fence c) ∧ t.mem = s.mem ∧
        t.groups = s.groups ∧ t.cores = s.cores ∧ s.g.agrees t.g [] ∧ t.decs = s.decs ++ [x] ∧ x.pa = some p.pa ∧ x.gid = some s.g.gid ∧
        x.entry = some e ∧ x.result = none)) ∧
  (∀ (s : State) (n pa gid : Nat) (d : Decr) (c : Creator), s.decs[n]? = some d → d.result = none → d.gid = some gid → d.pa = some pa →
    s.decReady n d = true → s.unreachable (dieOf d.core) (dieOfPA pa) = false → s.refusal (.load 1 false false) pa = none →
    s.mem.poisoned pa 32 = false → s.mem.mismatch pa none = false →
    s.creators.find? (fun c => c.pa == pa) = some c →
    let ctl := s.mem.nat (pa + 4) 4
    (∀ k, s.mem.nat pa 4 = k + 2 → ∃ t : State, exec (.counterDecrement n) s = .next t ∧ t.g = s.g ∧ t.groups = s.groups ∧ t.tasks = s.tasks ∧
      t.mem = s.mem.store pa 8 (k + 1 + ctl * 2 ^ 32) ∧ t.decs = s.decs.set n { d with result := some (.ok Val.zero) }) ∧
    (s.mem.nat pa 4 = 1 → ∃ t : State, exec (.counterDecrement n) s = .next t ∧
      (let m := s.mem.store pa 8 ((if ctl.testBit 2 then s.mem.nat (pa + 8) 4 else 0) + (if ctl.testBit 1 then ctl else ctl + 2) * 2 ^ 32)
       let s1 : State := { s with mem := m }
       let s2 := s1.fire c (s.mem.nat (pa + 16) 8)
       t.mem = s2.mem ∧ t.tasks = s2.tasks ∧ t.tenders = s2.tenders) ∧
      t.decs = s.decs.set n { d with result := some (.ok Val.zero) }) ∧
    (s.mem.nat pa 4 = 0 → ∃ t : State, exec (.counterDecrement n) s = .next t ∧ t.g = s.g ∧ t.tasks = s.tasks ∧
      t.mem = s.mem.store pa 8 ((if ctl.testBit 3 then ctl else ctl + 8) * 2 ^ 32) ∧
      t.decs = s.decs.set n { d with result := some (.fail 0x1E d.va) })) ∧
  (∀ (s : State) (d : Decr) (x : Answer), s.decs.find? (fun d => d.gid == some s.g.gid && d.result.isSome) = some d → d.result = some x →
    ∃ t : State, exec (.taskDecBankAnswer s.g.gid) s = .next t ∧ t.mem = s.mem ∧ t.groups = s.groups ∧ t.decs = s.decs.erase d ∧
      (∀ e, d.entry = some e → e < 64 → (t.core d.core).journal.toList[e]? = some none) ∧
      t.g = { s.g with answers := s.g.answers ++ [(s.g.lead, x)] }) ∧
  (∀ (s : State) (task core : Nat) (x : Task), s.task task = some x → x.done = some core → s.storesDone task = true →
    x.decided = true ∨ x.killed = true →
    x.await = false → ∃ t : State, exec (.automaticDecrement task) s = .next t ∧ t.mem = s.mem ∧ t.g = s.g ∧ t.groups = s.groups ∧
      (∃ ds, t.decs = s.decs ++ ds ∧ ds.map (fun d => (d.pa, d.va)) = ([x.record.succ 0, x.record.succ 1].filter (· ≠ 0)).map
          (fun a => ((s.placeOf x.asid x.mwb x.swb ⟨false, true, false, true, false⟩ 0 a).map (·.1), BitVec.ofNat 64 a)) ∧ ∀ d ∈ ds, d.gid = none ∧ d.task = task ∧ d.result = none) ∧
      (x.reply = false → t.task task = none))

/-- The state store. An instruction sends its request to the unit of its slot and waits; the unit opens slots, accepts a request into its
slot's order, and performs each in its turn; the answer reaches the group, which writes it or traps; a transfer's completion moves its
pages and writes its record (17 R347 to R362). -/
def Obligations.TheStateStoreAnswersInOrder : Prop :=
  (∀ (i : Instr) (s : State) (l : Lane) (rest : List Lane) (ask : SsAsk) (h : Word) (die : Nat), s.clear i (srcs i) → s.follower i = true →
    s.g.acts = l :: rest →
    storeRequest s l i = some (ask, h, die) →
    die ≤ 5 → ((s.store_ die).reqs.filter fun q => !q.ended).length < 256 →
    ∃ (t : State) (r : SsReq) (c : Nat), exec i s = .next t ∧ t.g.pc = s.g.pc ∧ t.g.run = .waiting .stateStore c ∧ t.g.sent = true ∧ t.mem = s.mem ∧
      t.groups = s.groups ∧ s.g.agrees t.g [] ∧ (t.store_ die).reqs = (s.store_ die).reqs ++ [r] ∧ r.ask = ask ∧ r.handle = h ∧
      r.asid = s.g.sp.asid.toNat ∧ r.gid = s.g.gid ∧ r.accepted = false ∧ r.answer = none ∧ r.ended = false) ∧
  (∀ (i : Instr) (wr : Bool) (b a : BitVec 6) (s : State) (l : Lane) (rest : List Lane) (ps : List XPage),
    (i, wr) ∈ [(Instr.rsRd b a, false), (.rsWr b a, true)] → s.clear i (srcs i) → s.follower i = true → s.g.acts = l :: rest →
    xferBad (s.g.xr 0) = false →
    let n := xferCount (s.g.xr 0) * 4096
    let runs := capRuns (s.g.read l b) 0 n
    spanTrap s.g (s.g.read l b) b [if wr then .r else .w] false 64 runs 0 n = none →
    s.capture s.g (if wr then needR else needW) isLocalPA runs = .inl ps → (∀ r ∈ runs, (xpa ps r.1).isSome = true) →
    handleDie (s.g.words l a) ≤ 5 → ((s.store_ (handleDie (s.g.words l a))).reqs.filter fun q => !q.ended).length < 256 →
    ∃ (t : State) (r : SsReq) (c : Nat), exec i s = .next t ∧ t.g.pc = s.g.pc ∧ t.g.run = .waiting .stateStore c ∧ t.g.sent = true ∧ t.mem = s.mem ∧
      t.groups = s.groups ∧ s.g.agrees t.g [] ∧
      (t.store_ (handleDie (s.g.words l a))).reqs = (s.store_ (handleDie (s.g.words l a))).reqs ++ [r] ∧
      r.ask = (if wr then .wr (xferFirst (s.g.xr 0)) (xferCount (s.g.xr 0)) else .rd (xferFirst (s.g.xr 0)) (xferCount (s.g.xr 0))) ∧
      r.handle = s.g.words l a ∧ r.base = s.g.read l b ∧ r.pages = ps ∧ r.tag = xferTag (s.g.xr 0) ∧ r.accepted = false) ∧
  (∀ (i : Instr) (s : State) (l : Lane) (rest : List Lane) (b a d : BitVec 6),
    i ∈ [.rsOpen b a d, .rsRd b a, .rsWr b a, .rsSnap b a, .rsRoll b a, .rsFork b a d, .rsDrop a, .rsPos a d] →
    s.g.sent = true → s.g.acts = l :: rest →
    (s.g.answers = [] → exec i s = .next (s.waits .stateStore)) ∧
    (∀ n c x as, s.g.answers = (n, .fail c x) :: as → exec i s = .next (s.takeTrap (trap c x) (readsLatch i)).tick)) ∧
  (∀ (s : State) (die n : Nat) (r : SsReq), (s.store_ die).reqs[n]? = some r → r.ended = false → s.unitHeld (.store die) = false →
    let u := s.store_ die
    (∀ seq size depth no ps, r.accepted = false → r.ask = .open_ seq size depth → (∀ sl ∈ u.slots, sl.asid = r.asid → sl.seq ≠ seq) →
      u.freeSlot = some no → s.freePages die size = some ps →
      ∃ t : State, exec (.stateStoreRequest die n) s = .next t ∧ t.g = s.g ∧ t.groups = s.groups ∧
        t.mem = ps.foldl (fun m p => m.putPage p 0 false) s.mem ∧
        (t.store_ die).slots = ⟨no, r.asid, r.task, seq, depth, ps, []⟩ :: u.slots.filter (fun x => x.no != no) ∧
        (∀ q ∈ (t.store_ die).reqs, q.op = r.op → q.ended = true ∧ q.answer = some (.ok (asData (u.handle no))))) ∧
    (∀ sl, r.accepted = false → (match r.ask with | .open_ _ _ _ => true | _ => false) = false → r.moves = none →
      (∀ q ∈ u.reqs.take n, q.src = r.src → q.handle = r.handle → q.accepted = true) → u.named r.handle r.asid = some sl →
      (∀ q ∈ u.reqs, q.accepted = true → q.ended = false → q.handle = r.handle → q.ask ≠ .drop) →
      ∃ t : State, exec (.stateStoreRequest die n) s = .next t ∧ t.g = s.g ∧ t.groups = s.groups ∧ t.mem = s.mem ∧
        (t.store_ die).slots = u.slots ∧
        (t.store_ die).reqs = (u.reqs.filter fun q => q.op != r.op) ++ [{ r with accepted := true }]) ∧
    (∀ sl, r.accepted = true → r.moves = none → u.firstOf r = true → u.named r.handle r.asid = some sl →
      ∃ t : State, exec (.stateStoreRequest die n) s = .next t ∧ t.g = s.g ∧ t.groups = s.groups ∧ t.mem = s.mem ∧
        (t.store_ die).slots = (u.act r sl).1.slots ∧
        ∀ q ∈ (t.store_ die).reqs, q.op = r.op → q.ended = true ∧ q.answer = some (u.act r sl).2)) ∧
  (∀ (s : State) (u : StoreUnit) (r : SsReq) (x : Answer), (s.stores.findSome? fun u =>
      (u.reqs.find? fun r => r.gid == s.g.gid && r.asked && r.answer.isSome).map fun r => (u, r)) = some (u, r) → r.answer = some x →
    ∃ t : State, exec (.stateStoreAnswer s.g.gid) s = .next t ∧ t.mem = s.mem ∧ t.groups = s.groups ∧
      t.g = { s.g with answers := s.g.answers ++ [(s.g.lead, x)] } ∧
      ∀ q ∈ (t.store_ u.die).reqs, q.op = r.op → q.asked = false ∧ q.ended = false) ∧
  (∀ (s : State) (die slot first n : Nat) (sl : Slot) (r : SsReq), (s.store_ die).slots.find? (fun x => x.no == slot) = some sl →
    (s.store_ die).reqs.find? (fun q => q.accepted && !q.ended && q.handle == (s.store_ die).handle slot) = some r →
    s.unitHeld (.store die) = false →
    (r.ask = .rd first n →
      let p := State.readPages r ((sl.frame.drop first).take n) 0 false s
      let status := if p.2.2.2 then 3 else if p.2.2.1 then 2 else 0
      ∃ t : State, exec (.stateStoreTransferCompletion die slot) s = .next t ∧ t.g = s.g ∧ t.groups = s.groups ∧
        (r.tag = 0 → status = 0 → t.mem = p.1.mem) ∧
        (∀ fn, r.tag ≠ 0 ∨ status ≠ 0 → r.dest = .host fn → t.mem = p.1.mem ∧ ∀ f ∈ t.pkg.functions, f.no = fn →
          recordBits 5 status r.tag.toNat (r.core % 4) (BitVec.ofNat 64 p.2.1) ∈ f.events) ∧
        (∀ o ∈ t.owned, o.2 ≠ r.op) ∧ ∀ q ∈ (t.store_ die).reqs, q.op = r.op → q.ended = true ∧ q.asked = true) ∧
    (r.ask = .wr first n →
      let p := State.writePages r die slot first n 0 false s
      let status := if p.2.2.2 ≠ 0 then p.2.2.2 else if p.2.2.1 then 2 else 0
      ∃ t : State, exec (.stateStoreTransferCompletion die slot) s = .next t ∧ t.g = s.g ∧ t.groups = s.groups ∧
        (t.store_ die).slots = (p.1.store_ die).slots ∧ (r.tag = 0 → status = 0 → t.mem = p.1.mem) ∧
        (∀ fn, r.tag ≠ 0 ∨ status ≠ 0 → r.dest = .host fn → t.mem = p.1.mem ∧ ∀ f ∈ t.pkg.functions, f.no = fn →
          recordBits 5 status r.tag.toNat (r.core % 4) (BitVec.ofNat 64 p.2.1) ∈ f.events) ∧
        ∀ q ∈ (t.store_ die).reqs, q.op = r.op → q.ended = true ∧ q.asked = true))

/-- The generation loop. `bt.prep` sends its list to the replicas and `bt.commit` its commit where its own replica is staged by it, and each
then waits for its answer; a replica stages a list it accepts, discards one, applies a commit, entries before header, or goes stale, and
firmware restores a stale one; what replicas of other packages answer, free values (log 44), changes nothing but the answers; the answers
count the acknowledgements. `migrate` moves the strand to the context that the destination
reserves or reports the failure; `pt.trunc` cuts the table and counts the pages freed (23 R445 to R458). -/
def Obligations.ReplicasMigrationAndTruncation : Prop :=
  (∀ (b a d : BitVec 6) (s : State) (l : Lane) (rest : List Lane) (r : Replica) (ps : List XPage), s.clear (.btPrep b a d) [a, b] →
    s.follower (.btPrep b a d) = true → s.g.acts = l :: rest → prepBad (s.g.xr 0) (s.g.xr 1) = false → s.tableOf l a = .inl r →
    let n := ((s.g.xr 0).extractLsb' 32 7).toNat
    let v := s.g.read l b
    let runs := capRuns v 0 (144 * n)
    spanTrap s.g v b [.r] false 16 runs 0 (144 * n : Nat) = none → s.capture s.g needR (fun _ => true) runs = .inl ps →
    s.inFlight = false → s.g.unwatched → (∀ x ∈ xlines ps runs, s.ownedAt (x * 64) 64 = false) →
    (∀ k < n, s.xbad s.g.core ps (runAddrs (capRuns v (144 * k : Nat) 144)) = false) →
    ∃ (t : State) (o : BtOp) (c : Nat), exec (.btPrep b a d) s = .next t ∧ t.g.pc = s.g.pc ∧ t.g.run = .waiting .batch c ∧ t.g.sent = true ∧ t.mem = s.mem ∧
      t.groups = s.groups ∧ s.g.agrees t.g [] ∧ t.btops = s.btops ++ [o] ∧ o.gid = s.g.gid ∧ o.commit = false ∧
      o.iter = ((s.g.xr 0).extractLsb' 0 32).toNat ∧ o.deadline = s.clk + ((s.g.xr 1).extractLsb' 0 32).toNat ∧
      o.recs = s.stagingRecs v ps n ∧ o.nrep = s.repCount r ∧ o.answers = [] ∧ o.since = s.clk ∧ o.src = s.g.core) ∧
  (∀ (a d : BitVec 6) (s : State) (l : Lane) (rest : List Lane) (r : Replica), s.clear (.btCommit a d) [a] →
    s.follower (.btCommit a d) = true → s.g.acts = l :: rest → s.tableOf l a = .inl r →
    let mine := s.repState r = 1 ∧ r.issuer = some (s.g.gang, s.g.sp.crew) ∧ r.order = none
    (mine → ∃ (t : State) (o : BtOp) (c : Nat), exec (.btCommit a d) s = .next t ∧ t.g.pc = s.g.pc ∧ t.g.run = .waiting .batch c ∧ t.g.sent = true ∧ t.mem = s.mem ∧
      s.g.agrees t.g [] ∧ t.btops = s.btops ++ [o] ∧ o.commit = true ∧ o.deadline = s.clk + r.tlim ∧ o.nrep = s.repCount r ∧
      t.replicas = s.replicas.map fun q =>
        if q.issuer = some (s.g.gang, s.g.sp.crew) ∧ q.order = none then { q with order := some true } else q) ∧
    (¬ mine → exec (.btCommit a d) s =
      (let g : Group := if d = 0 then s.g else s.g.write d (s.g.acts.map fun k => (k.no, asData 0))
       let s1 : State := { s with g := g }
       .next (s1.past (.btCommit a d) s)))) ∧
  (∀ (i : Instr) (s : State) (l : Lane) (rest : List Lane) (b a d : BitVec 6), i ∈ [.btPrep b a d, .btCommit a d, .migrate a d] →
    s.g.sent = true → s.g.held = [] → s.unstepped → s.g.acts = l :: rest → s.g.stream d = none →
    (s.g.answers = [] → exec i s = .next (s.waits .batch)) ∧
    (∀ n v as, s.g.answers = (n, .ok v) :: as → exec i s =
      (let g : Group := if d = 0 then s.g else s.g.write d (s.g.acts.map fun k => (k.no, v))
       let s1 : State := { s with g := g }
       .next (s1.past i s)))) ∧
  (∀ (s : State) (die : Nat) (r : Replica) (o : BtOp), die < 8 → s.replica die = some r →
    s.nextList die = some o → s.pkg.deadDies.getLsbD die = false →
    ∃ t : State, exec (.replicaStage die) s = .next t ∧ t.g = s.g ∧ t.groups = s.groups ∧
      t.btops = s.btops.map (fun p => if p = o then { p with answers := p.answers ++ [(die, s.repAccepts r o.iter o.recs)] } else p) ∧
      (s.repAccepts r o.iter o.recs = false → t.mem = s.mem ∧ t.replicas = s.replicas) ∧
      (s.repAccepts r o.iter o.recs = true →
        t.replica die = some { r with staged := o.recs, issuer := some (o.gang, o.crew), tlim := o.tlim, order := none, phase := 0 } ∧
        t.mem = (let m := s.mem.store (r.pa + 8) 4 o.iter
                 m.store r.pa 1 (m.nat r.pa 1 / 4 * 4 + 1)))) ∧
  (∀ (s : State) (die : Nat) (r : Replica), s.replica die = some r → r.order = some false →
    ∃ t : State, exec (.replicaDiscard die) s = .next t ∧ t.g = s.g ∧ t.groups = s.groups ∧
      t.mem = s.mem.store r.pa 1 (s.mem.nat r.pa 1 / 4 * 4) ∧
      t.replica die = some { r with staged := [], issuer := none, order := none, phase := 0 }) ∧
  (∀ (s : State) (die : Nat) (r : Replica), die < 8 → s.replica die = some r → r.order = some true →
    (s.awaited r = none → ∃ t : State, exec (.replicaCommitApply die) s = .next t ∧ t.g = s.g ∧
      t.mem = s.mem.store r.pa 1 (s.mem.nat r.pa 1 / 4 * 4 + 2) ∧ ∀ o ∈ t.owned, o.2 ≠ r.op) ∧
    (r.phase = 0 → s.awaited r ≠ none → s.unitHeld (.collective die) = false → (∀ x ∈ r.lines r.staged, s.ownedAt (x * 64) 64 = false) →
      ∃ t : State, exec (.replicaCommitApply die) s = .next t ∧ t.g = s.g ∧ t.mem = s.mem ∧ t.replica die = some { r with phase := 1 } ∧
        t.owned = s.owned ++ (r.lines r.staged).map fun x => (x, r.op)) ∧
    (r.phase = 0 → s.awaited r ≠ none → s.unitHeld (.collective die) = true ∨ (∃ x ∈ r.lines r.staged, s.ownedAt (x * 64) 64 = true) →
      exec (.replicaCommitApply die) s = .next s.tick) ∧
    (r.phase = 1 → s.awaited r ≠ none → ∃ t : State, exec (.replicaCommitApply die) s = .next t ∧ t.g = s.g ∧ t.mem = (r.staged.foldl (fun s e => s.putEntry r e) s).mem ∧
      t.replica die = some { r with phase := 2 } ∧ ∀ o ∈ t.owned, o.2 ≠ r.op) ∧
    (∀ o, r.phase = 2 → s.awaited r = some o → ∃ t : State, exec (.replicaCommitApply die) s = .next t ∧ t.g = s.g ∧
      (t.mem = (let m := s.mem.store (r.pa + 4) 4 (s.repPiter r)
                m.store r.pa 1 (m.nat r.pa 1 / 4 * 4))) ∧
      t.btops = s.btops.map fun p => if p = o then { p with answers := p.answers ++ [(die, true)] } else p)) ∧
  (∀ (i : Instr) (s : State) (n : Nat), 8 ≤ n → i ∈ [Instr.replicaStage n, .replicaCommitApply n] →
    ∃ t : State, exec i s = .next t ∧ t.g = s.g ∧ t.groups = s.groups ∧ t.mem = s.mem ∧ t.replicas = s.replicas ∧
      t.btops.map (fun o => (o.gid, o.commit, o.nrep)) = s.btops.map fun o => (o.gid, o.commit, o.nrep)) ∧
  (∀ (s : State) (o : BtOp), s.btops.find? (fun o => o.gid == s.g.gid && !o.commit) = some o → o.gid = s.g.gid →
    o.nrep ≤ o.answers.length ∨ o.deadline ≤ s.clk →
    let acks := (o.answers.filter (·.2)).length
    ∃ t : State, exec (.btPrepAnswer s.g.gid) s = .next t ∧ t.mem = s.mem ∧ t.groups = s.groups ∧ t.btops = s.btops.erase o ∧
      t.g = { s.g with answers := s.g.answers ++
        [(s.g.lead, .ok (asData (BitVec.ofNat 64 (o.nrep * 2 ^ 32 + acks * 2 ^ 16 + (if acks = o.nrep then 1 else 0)))))] } ∧
      (acks ≠ o.nrep → t.replicas = s.replicas.map fun r => if (r.die, true) ∈ o.answers then { r with order := some false } else r)) ∧
  (∀ (s : State) (o : BtOp), s.btops.find? (fun o => o.gid == s.g.gid && o.commit) = some o → o.gid = s.g.gid →
    (o.answers.length = o.nrep → ∃ t : State, exec (.btCommitAnswer s.g.gid) s = .next t ∧ t.mem = s.mem ∧ t.groups = s.groups ∧
      t.btops = s.btops.erase o ∧ t.g = { s.g with answers := s.g.answers ++ [(s.g.lead, .ok (asData 1))] }) ∧
    (o.answers.length ≠ o.nrep → o.deadline ≤ s.clk → ∃ t : State, exec (.btCommitAnswer s.g.gid) s = .next t ∧ t.groups = s.groups ∧
      t.btops = s.btops.erase o ∧ t.sys = s.sys ++ [⟨0, 0, 0, 0, 0x3F, 0⟩] ∧
      t.g = { s.g with answers := s.g.answers ++ [(s.g.lead, .ok (asData 2))] })) ∧
  (∀ (s : State) (die src : Nat) (r c : Replica), s.inv → s.replica die = some r → s.replica src = some c → s.repState r = 2 → s.repState c = 0 →
    ∃ t : State, exec (.staleReplicaRestore die src) s = .next t ∧ t.g = s.g ∧ t.groups = s.groups ∧ t.replicas = s.replicas ∧
      ∀ k < Replica.size, t.mem.byte (r.pa + k) = s.mem.byte (c.pa + k)) ∧
  (∀ (a d : BitVec 6) (s : State) (l : Lane) (rest : List Lane), s.clear (.migrate a d) [a] → s.follower (.migrate a d) = true →
    s.g.isG = false → s.g.acts = l :: rest → (s.g.words l a).toNat < 2 ^ 13 → (∀ c : Nat, 48 ≤ c → c ≤ 55 → s.g.stream (BitVec.ofNat 6 c) = none) →
    (∀ sl ∈ s.g.slices, sl.stack = []) → (∀ p ∈ s.g.pend, p.discarded = true) → s.g.syms = [] → s.quiet false = true →
    ((s.g.words l a).toNat = s.g.core → exec (.migrate a d) s =
      (let g : Group := if d = 0 then s.g else s.g.write d (s.g.acts.map fun k => (k.no, asData 0))
       let s1 : State := { s with g := g }
       .next (s1.past (.migrate a d) s))) ∧
    ((s.g.words l a).toNat ≠ s.g.core → exec (.migrate a d) s =
      (let s1 : State := { s with g := { s.g with sent := true, answers := [] } }
       .next (s1.waits .fence)))) ∧
  (∀ (s : State) (gid dest : Nat) (g : Group), s.migrating gid = some dest → s.group gid = some g →
    (∀ code, s.reserve g.sp.task dest = .inr code → ∃ t : State, exec (.migrateReserve gid) s = .next t ∧ t.mem = s.mem ∧
      t.group gid = some { g with answers := [(g.lead, .ok (asData (BitVec.ofNat 64 code)))] }) ∧
    (∀ c n h, s.reserve g.sp.task dest = .inl (c, n) → s.all.find? (fun h => h.sp.crew == c.id) = some h →
      let s1 := (s.leave g).mapGroup gid fun g => migrated s g h c n
      exec (.migrateReserve gid) s = .next ((s1.releaseAll g.sp.task).crewEnds g.sp.crew true).tick)) ∧
  (∀ (b a d : BitVec 6) (s : State) (l : Lane) (rest : List Lane) (hp ps : List XPage), s.clear (.ptTrunc b a d) [a, b] →
    s.follower (.ptTrunc b a d) = true → s.g.acts = l :: rest → s.inFlight = false → s.owned = [] → s.g.banked d = false → d.toNat < 56 →
    let v := s.g.read l a
    let need : Need := ⟨true, true, false, false, false⟩
    let header := s.mem.xat hp v 0 8
    let runs := capRuns v 0 (64 + 8 * ptPages header)
    let p := (s.g.words l b).toNat
    let n := (p + ptPer header - 1) / ptPer header
    let s' := s.readLines s.g.core ps (runAddrs runs)
    spanTrap s.g v a [.r, .w] false 1 (capRuns v 0 64) 0 64 = none → s.capture s.g need (fun _ => true) (capRuns v 0 64) = .inl hp →
    s.xbad s.g.core hp (runAddrs (capRuns v 0 64)) = false → spanTrap s.g v a [.r, .w] false 64 runs 0 (64 + 8 * ptPages header : Nat) = none →
    ptPer header ≠ 0 → s.mem.xat hp v 8 56 = 0 → p < 2 ^ 32 → s.capture s.g need (fun _ => true) runs = .inl ps → s.g.unwatched →
    (ptPos header ≤ p → exec (.ptTrunc b a d) s =
      (let g : Group := if d = 0 then s'.g else s'.g.write d (s.g.acts.map fun k => (k.no, asData 0))
       let s1 : State := { s' with g := g }
       .next (s1.past (.ptTrunc b a d) s))) ∧
    (p < ptPos header → (s.core s.g.core).freeCount ≠ 0 →
      let at_ (k : Nat) : Nat := spreadInt (capWalk v.bits) (index v + (k : Int))
      let cut := (upFrom 0 (ptPages header)).filter fun k => decide (n ≤ k) && (s.mem.xat ps v (64 + 8 * k : Nat) 8).testBit 0
      let r := s'.truncate s.g.core ps (truncWrites (fun k => s.mem.xat ps v (64 + 8 * k : Nat) 8) at_ header p n)
      ∃ t : State, exec (.ptTrunc b a d) s = .next t ∧ t.g.pc = s.g.pc + 4 ∧ t.mem = r.1.mem ∧ t.groups = s.groups ∧ s.g.agrees t.g [d] ∧
          (d ≠ 0 → ∀ k ∈ t.g.lanes, k.active = true → k.reg d = asData (BitVec.ofNat 64 (n * 2 ^ 32 + cut.length)))))

/-- Accesses at their homes. An access whose turn it is is performed or refused, and gives its value back; SC operations are performed in
their window; a queued full/empty operation is performed when the word allows it and dropped past its deadline; an acknowledgement frees
its journal entry; a refusal that arrives is delivered or held, and its trap is taken at a boundary; a walk ends with a translation or a
fault (11 R230, R233, R241, R242; 12 R246 to R257; 18 R374, R375). -/
def Obligations.AccessesArePerformedAtTheirHomes : Prop :=
  (∀ (s : State) (n : Nat) (r : Req) (p : Performed), s.net[n]? = some r → s.reqReady n r = true → r.pkg = none →
    s.unreachable (dieOf r.core) (dieOfPA r.pa) = false → r.op.isFe = false → r.op ≠ .evqRd → s.atHome r.op r.pa r.key = p →
    (p.refused = none → ∃ t : State, exec (.homeAccess n) s = .next t ∧ t.net = s.net.eraseIdx n ∧ t.mem = p.mem ∧
      t.g = (s.giveBack r p.val).g ∧ t.groups = (s.giveBack r p.val).groups ∧
      (∀ d c, r.op = .counter d c → c ∈ t.creators)) ∧
    (∀ reason e j, p.refused = some reason → r.entry = some e → (s.core r.core).journal.toList[e]? = some (some j) →
      ∃ t : State, exec (.homeAccess n) s = .next t ∧ t.net = s.net.eraseIdx n ∧ t.mem = p.mem ∧
        (t.core r.core).journal.toList[e]? = some (some { j with addr := r.va, reason := reason }) ∧
        t.g = (s.giveBack r poisonVal).g)) ∧
  (∀ (s : State) (o : ScOp), s.scDue = [o] → 16 * o.window + 112 ≤ s.clk → s.ownedAt o.req.pa o.req.op.size = false → o.req.pkg = none →
    exec .scWindowPerform s =
      (let s1 : State := { s with scq := s.scq.filter fun p => p.window != o.window }
       .next (s1.performReq o.req).tick)) ∧
  (∀ (s : State) (pa : Nat) (w : FeWait) (rest : List FeWait) (h : Group), feFirst s.mem s.clk pa s.fes = some (w, rest) →
    s.group w.gid = some h → ∃ (t : State) (k : Group), exec (.feQueuePerform pa) s = .next t ∧ t.fes = rest ∧ t.mem = (feDo s.mem pa w.op w.data).1 ∧
      t.group w.gid = some k ∧ k.answers = h.answers ++ [(w.lane, .ok (feDo s.mem pa w.op w.data).2)] ∧ k.pc = h.pc) ∧
  (∀ (s : State) (gid : Nat) (w : FeWait) (h : Group), s.fes.find? (fun w => w.gid == gid && decide (w.deadline < s.clk)) = some w →
    s.group gid = some h → ∃ t : State, exec (.feWaitDeadline gid) s = .next t ∧ t.mem = s.mem ∧ t.fes = s.fes.erase w ∧
      t.group gid = some { h with answers := h.answers ++ [(w.lane, .fail 0x14 w.va)] }) ∧
  (∀ (s : State) (core n : Nat) (e : JEntry), (s.core core).journal.toList[n]? = some (some e) → e.st = 1 → s.entryAwaited core n = false →
    (e.reason = 0 → ∃ t : State, exec (.postedAcknowledgement core n) s = .next t ∧ t.mem = s.mem ∧ t.g = s.g ∧ t.groups = s.groups ∧
      (t.core core).journal.toList = (s.core core).journal.toList.set n none) ∧
    (∀ g, e.reason ≠ 0 → s.all.find? (fun g => g.gid == e.gid) = some g →
      let hold : Bool := match g.run with | .parked => true | .stopped true _ => true | _ => g.priv != 0 && e.level == 0
      (hold = false → ∃ t : State, exec (.refusalArrival core n) s = .next t ∧ t.mem = s.mem ∧ t.g = s.g ∧ t.groups = s.groups ∧
        (t.core core).journal.toList = (s.core core).journal.toList.set n (some { e with st := 2 })) ∧
      (hold = true → s.heldRefusals g < 8 → ∃ t : State, exec (.refusalArrival core n) s = .next t ∧ t.mem = s.mem ∧ t.g = s.g ∧ t.groups = s.groups ∧
        (t.core core).journal.toList = (s.core core).journal.toList.set n (some { e with st := 3 })))) ∧
  (∀ (s : State) (gid n : Nat) (g : Group), s.group gid = some g → s.nextRefusal g = some n → s.atBoundary g = true →
    exec (.remoteRefusalTrap gid) s =
      .next (((s.withdraw gid).mapEntry g.core n fun e => { e with taken := true, st := 2 }).onGroup gid fun u =>
        u.takeTrap (eventTrap 0x18 (BitVec.ofNat 64 n)) (s.midRun g)).tick) ∧
  (∀ (s : State) (gid : Nat) (g : Group) (w : Walk) (root : Nat), s.group gid = some g →
    (s.walking (dieOf g.core)).find? (fun w => w.serves g) = some w → w.stale = false → mapGet w.asid s.pkg.roots = some root →
    (∀ e ∈ s.pointers, e.die = dieOf g.core → e.asid ≠ w.asid) →
    (∀ level pte, walkTable s.mem w.va 4 root = some (level, pte) → ∃ t : State, exec (.pageWalkCompletion gid) s = .next t ∧ t.mem = s.mem ∧
      t.g = s.g ∧ t.groups = s.groups ∧ t.walks = s.walks.erase w ∧
      t.tlb =
        (let entry (c : Option Nat) : TlbEntry :=
           ⟨c, quadOf g.core, if pteBit pte 8 then none else some w.asid, level, w.va / 2 ^ pageShift level, pte⟩
         keepFirst (fun e => e.core == some g.core) 64 (keepFirst (fun e => e.core.isNone && e.quad == quadOf g.core) 2048
           (entry (some g.core) :: entry none :: s.tlb)))) ∧
    (walkTable s.mem w.va 4 root = none → ∃ (t : State) (h : Group), exec (.pageWalkCompletion gid) s = .next t ∧ t.mem = s.mem ∧ t.tlb = s.tlb ∧
      t.walks = s.walks.erase w ∧ t.group gid = some h ∧ (g.run ≠ .free → h = { g with walkFault := some (8, BitVec.ofNat 64 w.va) })))

/-- Late values. A symbol whose data has arrived resolves in its group; the result of a local load and of a long instruction is written
when its time has come; the slot of an absent register gives its value; a group at `wait` goes on after a write or at its limit (03 R70;
04 R85; 05 R118; 09 R210; 18 R386). -/
def Obligations.LateValuesReachTheirHolders : Prop :=
  (∀ (s : State) (gid pool id : Nat) (g : Group) (y : Sym), s.group gid = some g →
    g.syms.find? (fun y => y.slice == pool && y.id.toNat == id) = some y → (∀ n ∈ y.want, ∃ p ∈ y.got, p.1 = n) → y.mtag = none →
    ∃ (t : State) (h : Group), exec (.symbolArrival gid pool id) s = .next t ∧ t.mem = s.mem ∧ t.group gid = some h ∧ h.syms = g.syms.erase y ∧ h.pc = g.pc ∧
      ∀ l ∈ g.lanes, l.no / 4 = y.slice → ∀ v ∈ y.got.lookup l.no, ∃ k ∈ h.lanes, k.no = l.no ∧
        ∀ c : BitVec 6, c.toNat < 56 → k.reg c = ((l.reg c).resolve y.id v).1) ∧
  (∀ (s : State) (gid : Nat) (g : Group) (p : Pend) (long : Bool), s.group gid = some g → g.pend.find? (fun p => p.long == long) = some p →
    p.due ≤ s.clk → p.discarded = false → p.banked = false → p.dst ≠ 0 → p.dst.toNat < 56 →
    ∃ (t : State) (h : Group), exec (if long then .longInstructionCompletion gid else .localLoadCompletion gid) s = .next t ∧ t.mem = s.mem ∧
      t.group gid = some h ∧ h.pend = g.pend.erase p ∧ h.pc = g.pc ∧ h.lanes.map (·.no) = g.lanes.map (·.no) ∧
      ∀ l ∈ g.lanes, ∃ k ∈ h.lanes, k.no = l.no ∧ (∀ c : BitVec 6, c.toNat < 56 → c ≠ p.dst → k.reg c = l.reg c) ∧
        k.reg p.dst = (p.vals.lookup l.no).getD (l.reg p.dst)) ∧
  (∀ (s : State) (gid lane reg va : Nat) (g : Group), (gid, lane, reg) ∈ s.misses → s.group gid = some g → g.slotVA lane reg = some va →
    1 ≤ reg → reg < 56 → ∃ (t : State) (h : Group), exec (.registerMissSlotArrival gid lane reg) s = .next t ∧ t.mem = s.mem ∧
      t.misses = s.misses.filter (· != (gid, lane, reg)) ∧ t.group gid = some h ∧ h.pc = g.pc ∧
      h.lanes = g.lanes.map fun l =>
        if l.no = lane ∧ (l.reg (BitVec.ofNat 6 reg)).tag = .absent then l.setReg (BitVec.ofNat 6 reg) (s.getSlot g.sp.asid.toNat va) else l) ∧
  (∀ (i : Instr) (s : State) (gid : Nat) (g : Group) (w : Armed) (x : Wait) (c : Nat), w ∈ s.armed → w.gid = gid → s.group gid = some g →
    g.run = .waiting x c →
    ((i = .waitWake gid ∧ w.hit = true) ∨ (i = .waitTimeLimit gid ∧ w.hit = false ∧ w.deadline ≤ s.clk)) →
    ∃ t : State, exec i s = .next t ∧ t.mem = s.mem ∧ t.armed = s.armed ∧ t.group gid = some { g with run := .ready })

/-- Events that reach groups. A system event kills the crew of a trap at level T, and a machine check of no crew raises vector 3 of function 0; a group asked to stop stops at a boundary; an
instruction-cache miss makes the group go on with its waiting path or wait for the line; the watchdog's expiry traps the longest-waiting
member; a member's sample goes to its port; a reserved encoding traps (01 R34; 04 R94; 07 R163; 18 R367, R377, R378; 19 R407). -/
def Obligations.EventsReachTheirGroups : Prop :=
  (∀ (s : State) (gid : Nat) (e : SysEvent), s.sys.find? (fun e => e.gid == gid) = some e →
    let s0 : State := { s with sys := s.sys.erase e }
    let s1 := s0.rouse e.core
    (∀ c, s1.crew e.crew = some c → exec (.asyncEventEntry gid) s = .next (s1.killCrew e.crew 0x0A e.code e.code c.core).tick) ∧
    (s1.crew e.crew = none → e.code = 0x3F → ∃ t : State, exec (.asyncEventEntry gid) s = .next t ∧ t.mem = s.mem ∧ t.g = s1.g ∧ t.groups = s1.groups ∧
      t.pkg.functions.map (fun f => (f.no, f.vectors)) =
        s.pkg.functions.map fun f => (f.no, if f.no = 0 then f.vectors ||| 8 else f.vectors))) ∧
  (∀ (s : State) (gid : Nat) (g : Group), s.sys.find? (fun e => e.gid == gid) = none → s.group gid = some g → s.stopAsked g = true →
    s.canStop g = true → ∃ (t : State) (h : Group), exec (.asyncEventEntry gid) s = .next t ∧ t.mem = s.mem ∧ t.group gid = some h ∧
      h.pc = (if s.midRun g = true then g.sp.lrun else g.pc) ∧ h.stopReq = 0 ∧
      h.run = .stopped (g.run == .parked) (s.namedFor g)) ∧
  (∀ (s : State) (gid : Nat) (g : Group) (sl : Slice), s.group gid = some g → g.run = .ready → g.slices = [sl] →
    (sl.stack = [] → ∃ t : State, exec (.pathSwitch gid) s = .next t ∧ t.mem = s.mem ∧
      t.group gid = some { g with run := .waiting .icache s.clk }) ∧
    (∀ e rest, sl.stack = e :: rest → e.isJoin = false → s.midRun g = false →
      let on (l : Lane) : Bool := l.live && e.lmask.getLsbD (l.no % 4)
      (∀ l ∈ g.lanes, l.no / 4 = sl.idx) → g.lanes.any on = true →
      ∃ (t : State) (h : Group) (sk : Slice), exec (.pathSwitch gid) s = .next t ∧ t.group gid = some h ∧ h.pc = e.pc ∧ h.codeCap = e.code ∧ h.run = .ready ∧
        h.lanes.map (fun l => (l.no, l.active)) = g.lanes.map (fun l => (l.no, on l)) ∧ h.slices = [sk] ∧
        sk.stack = ⟨false, g.pc, g.codeCap, lmaskOf sl.idx (g.acts.map (·.no)), sl.fmt.extractLsb' 0 6, sl.token⟩ :: rest ∧
        sk.fmt.extractLsb' 0 6 = e.fmt)) ∧
  (∀ (s : State) (gid c : Nat) (g : Group), s.group gid = some g → g.run = .waiting .icache c →
    ∃ t : State, exec (.instructionCacheLineArrival gid) s = .next t ∧ t.mem = s.mem ∧ t.group gid = some { g with run := .ready }) ∧
  (∀ (s : State) (crew k : Nat) (c : Crew) (g : Group), s.crew crew = some c → c.wdog = 0 → c.reload ≠ 0 →
    s.longestWaiting crew = some (g, k) →
    exec (.watchdogExpiry crew) s =
      .next ((s.withdraw g.gid).onGroup g.gid fun u => u.takeTrap (eventTrap 0x30 (BitVec.ofNat 64 k)) (s.midRun g)).tick) ∧
  (∀ (s : State) (gid p : Nat) (g : Group) (sl : Slice), s.group gid = some g → g.slices = [sl] → sl.period = some p →
    sl.sampled + p ≤ s.clk →
    ∃ t : State, exec (.pcSample gid) s = .next t ∧ t.mem = s.mem ∧ t.group gid = some { g with slices := [{ sl with sampled := sl.sampled + p }] } ∧
      ((sl.psamp.getLsbD 62 = true ∧ s.reason g = 0) → t.pkg = s.pkg) ∧
      (¬ (sl.psamp.getLsbD 62 = true ∧ s.reason g = 0) → s.pkg.lamp.ctl.getLsbD (dieOf g.core) = true →
        s.pkg.lamp.ctl.getLsbD 9 = true → ∀ b, s.pkg.lamp.bufs.find? (fun b => b.die == dieOf g.core) = some b → b.recs.length < 256 →
        t.pkg.lamp.bufs.find? (fun b => b.die == dieOf g.core) = some { b with recs := b.recs ++ [s.sampleBits g sl] })) ∧
  (∀ (word : BitVec 32) (n : Nat) (s : State), exec (.reservedEncoding word n) s = .next (s.takeTrap { trapEnc word.toNat 0 with issued := false } false).tick)

/-- Pre-emption. A crew asked for is stopped; once stopped and drained its state is saved and its lowest member enters a switch step; a
saved crew whose areas are valid is placed on a core that has room, and enters the step that restores it (18 R378 to R388). -/
def Obligations.CrewsAreSavedAndRestored : Prop :=
  (∀ (s : State) (crew : Nat) (c : Crew), s.crew crew = some c → c.saved = false → c.switching = 0 →
    ∃ t : State, exec (.preemption crew) s = .next t ∧ t.mem = s.mem ∧ t.g = s.g ∧ t.groups = s.groups ∧
      t.crew crew = some { c with preempt := true, since := s.clk }) ∧
  (∀ (s : State) (crew : Nat) (c : Crew), s.crew crew = some c → c.preempt = true → c.saved = false → c.switching = 0 →
    (∀ g ∈ s.crewGroups crew, g.isStopped = true) → s.drained crew = true → (s.core c.core).redirects.length < 16 → (∀ o ∈ s.groups, o.gid ≠ s.g.gid) →
    ∃ (t : State) (k : Crew), exec (.crewDrain crew) s = .next t ∧ t.crew crew = some k ∧ k.preempt = false ∧ k.switching = 1 ∧
      (∀ m ∈ (t.core c.core).queue, m.crew ≠ crew) ∧
      (∀ e ∈ (t.core c.core).journal.toList, ∀ j, e = some j → j.crew = crew → j.st.getLsbD 1 = false) ∧
      ∀ g ∈ t.all, g.sp.crew = crew → g.switchStep = 0 → g.inArea = true) ∧
  (∀ (s : State) (crew idx : Nat) (rest : List (Nat × Nat)) (c : Crew) (g : Group), s.crew crew = some c →
    s.membersOf crew = (g.gid, idx) :: rest → s.group g.gid = some g → c.switching = 1 ∨ c.switching = 2 →
    (∀ h ∈ s.all, h.sp.crew = crew → h.switchStep = 0) → g.sp.tvec.tag = .cap → capHas g.sp.tvec.bits .x = true →
    ∃ (t : State) (h : Group), exec (.switchStepEntry crew) s = .next t ∧ t.mem = s.mem ∧ t.g = s.g ∧ t.groups = s.groups ++ [h] ∧ h.gid = s.nextId ∧
      h.core = c.core ∧ h.switchStep = c.switching ∧ h.run = .ready ∧ h.pc = (capCursor g.sp.tvec.bits).setWidth 64 ∧
      h.codeCap = g.sp.tvec ∧ h.sp = g.sp.enter (trap 0x33 (BitVec.ofNat 64 (c.switching - 1))) (withCursor g.codeCap g.pc) ∧
      ∀ l ∈ h.lanes, l.reg 1 = flatCap 0x1B (s.regionBase c + c.l0) c.total ∧ l.reg 2 = asData (BitVec.ofNat 64 c.total) ∧
        l.reg 3 = asData (BitVec.ofNat 64 (c.switching - 1)) ∧
        l.reg 4 = flatCap 0x1B (g.sp.mwb.toNat + c.core * 2 ^ 19 + c.lo) c.total) ∧
  (∀ (s : State) (crew core lo : Nat) (slots : List Nat) (c : Crew), s.crew crew = some c → c.saved = true → c.switching = 0 →
    s.areasValid c = true → s.restoreFit c core = some (slots, lo) → (∀ o ∈ s.groups, o.gid ≠ s.g.gid) →
    ∃ (t : State) (k : Crew), exec (.crewRestore crew core) s = .next t ∧ t.mem = s.mem ∧ t.crew crew = some k ∧ k.core = core ∧ k.lo = lo ∧
      k.saved = false ∧ k.switching = 2 ∧ ∀ g ∈ t.groups, g.sp.crew = crew → g.switchStep = 0 → g.run ≠ .free → g.core = core)

/-- Dies and the fabric. A die taken out of service is dead and the others are as they were; a flit whose check fails is counted, and the
sixteenth takes its link down and refuses what its replay buffer holds; a flit ahead of its turn is held and an old one dropped; one that is
the next of its pair is delivered: a read is answered with its
line, a write changes the masked bytes and is acknowledged, an answer gives its request the value (22 R427 to R430). -/
def Obligations.FlitsAreCheckedAndDelivered : Prop :=
  (∀ (s : State) (die : Nat), die < 6 → ∃ t : State, exec (.dieOutOfService die) s = .next t ∧
    (∀ d < 6, t.pkg.deadDies.getLsbD d = (s.pkg.deadDies.getLsbD d || d == die)) ∧
    ((∀ q ∈ s.queues, q.quad / 256 = die → ∀ id, q.who ≠ .crew id) → t.mem = s.mem ∧ t.g = s.g ∧ t.groups = s.groups ∧ t.queues = s.queues)) ∧
  (∀ (s : State) (port : Nat) (f : Flit) (e : BitVec 32), port < 32 → port ∉ s.pkg.fabric.down → flitCrc f ^^^ e ≠ f.lcrc →
    (∀ h ∈ s.pkg.fabric.held, flitPair h.2 = flitPair f → h.2.seq % 2 ^ 32 ≠ f.seq % 2 ^ 32) →
    let key := (port, flitPair f, f.seq % 2 ^ 32)
    let n := (s.pkg.fabric.fails.lookup key).getD 0 + 1
    (n < 16 → ∃ t : State, exec (.flitReceive port f e) s = .next t ∧ t.mem = s.mem ∧ t.g = s.g ∧ t.net = s.net ∧
      t.pkg.fabric = { s.pkg.fabric with fails := (key, n) :: s.pkg.fabric.fails.filter fun q => q.1 != key }) ∧
    (16 ≤ n → (∀ h ∈ s.pkg.fabric.held, h.1 ≠ port) → ∃ t : State, exec (.flitReceive port f e) s = .next t ∧
      t.pkg.fabric.down = setIns port s.pkg.fabric.down ∧ (∀ p ∈ t.pkg.fabric.replay, p.1 ≠ port) ∧
      t.net = s.net.filter fun r => !(s.pkg.fabric.replay.any fun p => p.1 == port && r.flit p.2))) ∧
  (∀ (s : State) (port : Nat) (f : Flit) (e : BitVec 32), port < 32 → port ∉ s.pkg.fabric.down → f.dpkg = s.pkg.pod → s.pkg.fabric.held = [] →
    flitCrc f ^^^ e = f.lcrc →
    let want := s.pkg.fabric.want (flitPair f)
    (f.seq % 2 ^ 32 ≠ want → ∃ t : State, exec (.flitReceive port f e) s = .next t ∧ t.mem = s.mem ∧ t.g = s.g ∧ t.net = s.net ∧
      t.pkg.fabric.out = s.pkg.fabric.out ∧ t.pkg.fabric.held = if seqAhead f.seq want < 2 ^ 31 then [(port, f)] else []) ∧
    (f.seq % 2 ^ 32 = want →
    let a := f.addr.toNat / 64 * 64
    (f.kind = 0 → s.ownedAt a 64 = false → s.scDueAt (homeOf f.addr.toNat) = false → s.refusalFrom (portDie port) (.load 64 false false) a = none →
      s.mem.poisoned a 64 = false → s.mem.mismatch a none = false → (s.routeTo f.spkg).isSome = true →
      ∃ (t : State) (r : Flit), exec (.flitReceive port f e) s = .next t ∧ t.mem = s.mem ∧ t.g = s.g ∧ t.pkg.fabric.out = s.pkg.fabric.out ++ [r] ∧
        r.kind = 1 ∧ r.dpkg = f.spkg ∧ r.spkg = s.pkg.pod ∧ r.dcoord = f.scoord ∧ r.addr = f.addr ∧ r.lines = s.mem.bytes a 64 ∧ flitCrc r = r.lcrc) ∧
    (f.kind = 2 → s.inv → s.ownedAt a 64 = false → s.scDueAt (homeOf f.addr.toNat) = false → s.refusalFrom (portDie port) .zero a = none →
      s.mem.poisoned a 64 = false → s.mem.mismatch a none = false → (s.routeTo f.spkg).isSome = true →
      ∃ (t : State) (r : Flit), exec (.flitReceive port f e) s = .next t ∧ t.g = s.g ∧ t.pkg.fabric.out = s.pkg.fabric.out ++ [r] ∧ r.kind = 3 ∧
        (∀ k < 64, t.mem.byte (a + k) = if f.bmask.getLsbD k then f.lines.getD k 0 else s.mem.byte (a + k)) ∧
        ∀ b, b < a ∨ a + 64 ≤ b → t.mem.byte b = s.mem.byte b) ∧
    (∀ n r, f.kind = 1 → s.outstanding f = some (n, r) → ∃ t : State, exec (.flitReceive port f e) s = .next t ∧ t.mem = s.mem ∧
      t.net = s.net.eraseIdx n ∧ t.g = (s.giveBack r (r.op.fromLine r.pa f.lines)).g ∧
      t.groups = (s.giveBack r (r.op.fromLine r.pa f.lines)).groups)))

/-- The time base and launches that wait for dies and packages. The base steps or slews with each message, locks and falls into holdover
by its rules; a slot of the Light List that is due launches its record or is skipped; a change of a task's dies is kept for the step or
made there; shares are acknowledged and a launch goes on or is aborted; a coordinator decides, and a member without its word aborts (22
R432 to R444). -/
def Obligations.TimeSlotsAndLaunchesAreDecided : Prop :=
  (∀ (s : State) (offset : Int),
    let base := s.nanos - clkNanos s.clk
    let far := 10000000 < offset.natAbs
    let steps := s.pkg.time.state = .free ∨ (far ∧ s.pkg.time.locked = true)
    ∃ t : State, exec (.ptpMessage offset) s = .next t ∧ t.mem = s.mem ∧ t.g = s.g ∧ t.groups = s.groups ∧ t.pkg.time.offset = offset ∧
      t.pkg.time.heard = s.clk ∧ t.pkg.time.locked = s.pkg.time.locked ∧
      t.pkg.time.state = (if s.pkg.time.state = .locked ∧ ¬ far then .locked else .locking) ∧
      (steps → t.pkg.time.ns = base + offset ∧ t.pkg.time.rate = s.pkg.time.rate ∧ t.sys ≠ s.sys) ∧
      (¬ steps → t.pkg.time.ns = base ∧ t.pkg.time.rate.natAbs ≤ 1000000 ∧ 0 ≤ t.pkg.time.rate * offset ∧ t.sys = s.sys)) ∧
  (∀ (s : State) (c : Nat), s.pkg.time.state = .locking → s.pkg.time.good = some c → c + 15040000000 ≤ s.clk →
    ∃ t : State, exec .lockAcquired s = .next t ∧ t.pkg.time = { s.pkg.time with state := .locked, locked := true } ∧ t.g = s.g ∧ t.mem = s.mem) ∧
  (∀ (s : State), s.pkg.time.state = .locked ∨ s.pkg.time.state = .locking → s.pkg.time.heard + 7520000000 ≤ s.clk →
    ∃ t : State, exec .holdoverEntry s = .next t ∧ t.pkg.time = { s.pkg.time with state := .holdover } ∧ t.g = s.g ∧ t.mem = s.mem) ∧
  (∀ (s : State) (n : Nat) (l : Light) (c : Ctx), s.pkg.lights.find? (fun l => l.no == n) = some l → l.armed = true →
    (l.next : Int) ≤ s.nanos → s.ctx l.ctx = some c →
    (l.out = 0 ∨ (l.rule = 1 ∧ l.out < 4) → ∃ (t : State) (x : Task), exec (.lightSlotDue n) s = .next t ∧ t.mem = s.mem ∧ t.g = s.g ∧
      t.tasks = s.tasks ++ [x] ∧ x.record = l.record ∧ x.light = some (n, l.next) ∧ x.ctx = c.id ∧ x.asid = c.asid ∧ x.start = s.clk ∧
      x.group = l.group ∧ x.await = decide (l.npkg ≠ 0) ∧
      t.tenders = s.tenders ++ (s.diesFor l.record.die l.record.dmax).map (shareWalk l.record s.nextId (l.record.die * 256))) ∧
    (l.out ≠ 0 → l.rule = 0 ∨ 4 ≤ l.out → ∃ t : State, exec (.lightSlotDue n) s = .next t ∧ t.mem = s.mem ∧ t.g = s.g ∧ t.tasks = s.tasks ∧
      t.tenders = s.tenders)) ∧
  (∀ (s : State) (task : Nat) (x : Task) (add drop : BitVec 6), s.task task = some x →
    (x.change = none → x.aborted = false → s.changeFits x add drop = true → s.allHold task = false →
      ∃ t : State, exec (.dieMembershipChange task add drop) s = .next t ∧ t.mem = s.mem ∧ t.g = s.g ∧ t.groups = s.groups ∧
        t.task task = some { x with change := some (add, drop) }) ∧
    (∀ a d, x.change = some (a, d) → s.allHold task = true →
      exec (.dieMembershipChange task add drop) s = .next (s.applyChange x a d).tick)) ∧
  (∀ (s : State) (task die : Nat) (x : Task), s.task task = some x → x.decided = false → x.aborted = false → die < 6 →
    (∀ w ∈ s.tenders, w.who ≠ .share task die) → x.asked.getLsbD die = true → x.refused.getLsbD die = false →
    s.pkg.deadDies.getLsbD die = false → s.clk < x.start + 8192 →
    let acked := x.acked ||| BitVec.ofNat 6 (2 ^ die)
    ((acked ||| x.refused) &&& x.asked ≠ x.asked → ∃ t : State, exec (.dieShareAcknowledge task die) s = .next t ∧ t.mem = s.mem ∧ t.g = s.g ∧
      t.task task = some { x with acked := acked }) ∧
    ((acked ||| x.refused) &&& x.asked = x.asked → x.record.dmin ≤ countBits acked → x.await = false →
      ∃ t : State, exec (.dieShareAcknowledge task die) s = .next t ∧ t.mem = s.mem ∧ t.g = s.g ∧
        t.task task = some { x with acked := acked, decided := true, dies := acked })) ∧
  (∀ (s : State) (task : Nat) (x : Task), s.task task = some x → x.decided = false → x.aborted = false → x.start + 8192 ≤ s.clk →
    (x.record.dmin ≤ countBits x.acked → x.await = false → ∃ t : State, exec (.launchAckDeadline task) s = .next t ∧ t.mem = s.mem ∧ t.g = s.g ∧
      t.task task = some { x with decided := true, dies := x.acked }) ∧
    (countBits x.acked < x.record.dmin → exec (.launchAckDeadline task) s = .next (s.abortTask task).tick ∧
      (∀ y ∈ (s.abortTask task).tasks, y.id = task → y.aborted = true) ∧
      ∀ w ∈ (s.abortTask task).tenders, ∀ d, w.who ≠ .share task d)) ∧
  (∀ (s : State) (f : LaunchFlit),
    (f.word = .acknowledge → ∃ t : State, exec (.launchControlFlit f) s = .next t ∧ t.mem = s.mem ∧ t.g = s.g ∧ t.tasks = s.tasks ∧
      ∀ l ∈ s.pkg.lights, ∀ x ∈ l.slots, x.group = f.group → x.time = f.slot → x.coord = s.pkg.pod.toNat → s.clk ≤ x.clk + 65536 →
        ∃ k ∈ t.pkg.lights, k.no = l.no ∧ { x with acks := x.acks ||| BitVec.ofNat 256 (2 ^ f.spkg.toNat) } ∈ k.slots ∧
          (l.slots.getLast? = some x → k.image = (l.setField 896 256 (l.field 896 256 ||| 2 ^ f.spkg.toNat)).image)) ∧
    (∀ x n, f.word = .go → s.tasks = [x] → x.await = true → x.group = f.group → x.light = some (n, f.slot) → s.taskOver x.id = false →
      s.barriers = [] → ∃ t : State, exec (.launchControlFlit f) s = .next t ∧ t.mem = s.mem ∧ t.g = s.g ∧ t.groups = s.groups ∧
        t.tasks = [{ x with await := false, pkgs := f.map &&& ~~~x.pkgs }]) ∧
    (∀ x n, f.word = .abort → s.tasks = [x] → x.await = true → x.group = f.group → x.light = some (n, f.slot) →
      exec (.launchControlFlit f) s = .next (s.abortTask x.id).tick)) ∧
  (∀ (s : State) (n : Nat) (l : Light) (x : LightSlot), s.pkg.lights.find? (fun l => l.no == n) = some l →
    l.slots.find? (fun x => x.coord == s.pkg.pod.toNat && decide (x.clk + 65536 ≤ s.clk)) = some x →
    let acks := (upFrom 0 256).filter fun k => x.acks.getLsbD k
    let word : LaunchWord := if x.pmin + 1 ≤ acks.length then .go else .abort
    exec (.coordAckDeadline n) s =
      .next (acks.foldl (fun u k => u.sendWord x word x.acks k) (s.mapLight n fun l => { l with slots := l.slots.filter (· != x) })).tick) ∧
  (∀ (s : State) (n : Nat) (x : Task), s.tasks.find? (fun t => t.await && !t.aborted && t.light.map (·.1) == some n &&
      decide (t.start + 131072 ≤ s.clk)) = some x → exec (.goTimeout n) s = .next (s.abortTask x.id).tick)

/-- Commands of the host. The command served is replied to once, with its status, its data and vector 0: IDENTIFY, READ_EVENTS, ATTEST,
SET_POWER and RESET_FUNCTION do their work, SET_LIGHT writes or refuses its entry, which a slot due in its clk still uses as it was, LAUNCH starts its task and replies when every die has
answered, and a code that is unknown or of another length gets status 1 (26 R483 to R495). -/
def Obligations.HostCommandsAreServed : Prop :=
  (∀ (s : State) (tag : BitVec 32) (fn : Nat), s.served fn 1 [] tag = true →
    ∃ t : State, exec (.identify fn [] tag) s = .next t ∧ t.mem = s.mem ∧ s.serves t fn tag 0 s.identity) ∧
  (∀ (s : State) (tag : BitVec 32) (fn : Nat) (p : List Byte) (f : PcieFn), s.served fn 10 p tag = true → p.length = 8 →
    zeroAt p 4 4 = true → 1 ≤ field p 0 4 → field p 0 4 ≤ 127 → s.pkg.functions.find? (fun f => f.no == fn) = some f →
    ∃ t : State, exec (.readEvents fn p tag) s = .next t ∧ t.mem = s.mem ∧
      s.serves t fn tag 0 (natBytes 4 (min (field p 0 4) f.events.length) ++ natBytes 4 f.dropped ++ natBytes 8 0 ++
        (f.events.take (field p 0 4)).flatMap fun r => natBytes 16 r.toNat) ∧
      ∀ h ∈ t.pkg.functions, h.no = fn → h.dropped = 0) ∧
  (∀ (s : State) (tag : BitVec 32) (fn : Nat) (p : List Byte), s.served fn 11 p tag = true → p.length = 32 →
    ∃ t : State, exec (.attest fn p tag) s = .next t ∧ t.mem = s.mem ∧
      s.serves t fn tag 0 (s.report fn p ++ beBytes 384 (Config.signature (s.report fn p) s.fresh).toNat)) ∧
  (∀ (s : State) (tag : BitVec 32) (p : List Byte), s.served 0 12 p tag = true → p.length = 8 → zeroAt p 4 4 = true →
    400 ≤ field p 0 4 → field p 0 4 ≤ 2400 →
    ∃ t : State, exec (.setPower 0 p tag) s = .next t ∧ t.mem = s.mem ∧ t.pkg.firmware.cap = field p 0 4 ∧
      s.serves t 0 tag 0 (natBytes 4 (field p 0 4) ++ natBytes 4 s.pkg.firmware.draw)) ∧
  (∀ (s : State) (tag : BitVec 32) (fn : Nat) (p : List Byte), s.served fn 13 p tag = true → p.length = 8 → zeroAt p 1 7 = true →
    field p 0 1 ≤ 15 → fn = 0 ∨ field p 0 1 = fn →
    ∃ t : State, exec (.resetFunction fn p tag) s = .next t ∧ t.mem = (s.resetFn (field p 0 1)).mem ∧ t.replied fn tag 0 [] ∧
      t.pkg.contexts = (s.resetFn (field p 0 1)).pkg.contexts) ∧
  (∀ (s : State) (tag : BitVec 32) (p : List Byte) (c : Ctx) (entry arg tvec : Val), s.served 0 8 p tag = true → p.length = 200 →
    let no := field p 0 2
    let l : Light := ⟨no, BitVec.ofNat 1280 (field p 40 160), entry, arg, tvec, c.id, []⟩
    let s1 := s.slotDue no
    zeroAt p 2 6 = true → no < 512 → l.field 0 256 = 0 → l.field 1152 128 = 0 → l.field 872 24 = 0 → l.field 640 15 = 0 → l.rule ≠ 3 →
    l.pmin ≤ l.npkg → l.period = 0 ∨ 10000 ≤ l.period → s1.descriptor 0 (slice p 8 32) (l.image.getLsbD 256) = .inr (c, entry, arg, tvec) →
    (l.record.code c.event = 0 → ∃ (t : State) (x : Light), exec (.setLight 0 p tag) s = .next t ∧ t.mem = s1.mem ∧ s1.serves t 0 tag 0 [] ∧
      t.pkg.lights = x :: s1.pkg.lights.filter (fun y => y.no != no) ∧ x.no = no ∧ x.entry = entry ∧ x.arg = arg ∧ x.tvec = tvec ∧
      x.ctx = c.id ∧ x.slots = ((s1.pkg.lights.find? fun y => y.no == no).map (·.slots)).getD []) ∧
    (l.record.code c.event ≠ 0 → ∃ t : State, exec (.setLight 0 p tag) s = .next t ∧ t.mem = s1.mem ∧ t.pkg.lights = s1.pkg.lights ∧
      s1.serves t 0 tag (0x300 + l.record.code c.event) [])) ∧
  (∀ (s : State) (tag : BitVec 32) (fn : Nat) (p : List Byte) (c : Ctx) (entry arg tvec : Val), s.served fn 9 p tag = true →
    p.length = 96 → zeroAt p 32 32 = true →
    let r : TaskRec := ⟨BitVec.ofNat 256 (field p 64 32), arg, entry⟩
    s.descriptor fn (slice p 0 32) (r.fields.getLsbD 0) = .inr (c, entry, arg, tvec) →
    (r.code c.event = 0 → ∃ (t : State) (x : Task), exec (.launch fn p tag) s = .next t ∧ t.mem = s.mem ∧ t.g = s.g ∧ t.groups = s.groups ∧
      t.tasks = s.tasks ++ [x] ∧ x.id = s.nextId ∧ x.record = r ∧ x.asid = c.asid ∧ x.mwb = c.mwb ∧ x.swb = c.swb ∧ x.tvec = tvec ∧
      x.fn = fn ∧ x.reply = true ∧ x.launcher = none ∧ t.tenders = s.tenders ++ (s.diesFor r.die r.dmax).map (shareWalk r s.nextId (r.die * 256)) ∧
      ∀ f ∈ t.pkg.functions, f.no = fn → f.waiting = some s.nextId) ∧
    (r.code c.event ≠ 0 → ∃ t : State, exec (.launch fn p tag) s = .next t ∧ t.mem = s.mem ∧ t.tasks = s.tasks ∧
      s.serves t fn tag (0x200 + r.code c.event) [])) ∧
  (∀ (s : State) (task : Nat) (x : Task) (f : PcieFn) (q : Submission), s.task task = some x →
    s.pkg.functions.find? (fun f => f.waiting == some task) = some f → f.busy = some q →
    (x.aborted = false → x.answered = true ∨ x.decided = true → ∃ t : State, exec (.launchReply task) s = .next t ∧ t.mem = s.mem ∧
      s.serves t f.no q.tag 0 (natBytes 4 x.id ++ [x.dies.setWidth 8, 0, 0, 0])) ∧
    (x.aborted = true → ∃ t : State, exec (.launchReply task) s = .next t ∧ t.mem = s.mem ∧ s.serves t f.no q.tag x.status [])) ∧
  (∀ (s : State) (tag : BitVec 32) (fn : Nat) (code : BitVec 16) (p : List Byte), s.served fn code p tag = true →
    paramSize code.toNat ≠ some p.length → ∃ t : State, exec (.unknownCommandCode fn code p tag) s = .next t ∧ t.mem = s.mem ∧ s.serves t fn tag 1 [])

/-- Contexts, mappings, keys and objects. CREATE_CONTEXT of well-formed fields takes the lowest free numbers, or memory is exhausted and
nothing changes; DESTROY_CONTEXT ends what the context holds; MAP answers with the status and the mapping of its fields; UNMAP clears
entries and aperture pages; SET_KEY installs at the lowest free index and removes; LOAD_OBJECT refuses an object that fails a check, and
loads and measures one that passes where memory suffices (26 R488, R490, R492, R499 to R503). -/
def Obligations.ContextsMappingsKeysAndObjects : Prop :=
  (∀ (s : State) (tag : BitVec 32) (fn : Nat) (p : List Byte) (id asid base : Nat), s.served fn 3 p tag = true → p.length = 32 →
    let mwb := field p 0 8
    let swb := field p 8 8
    let spill := if field p 16 4 = 0 then 8192 else field p 16 4
    let size := if field p 24 8 = 0 then 0x4000000 else field p 24 8
    let r := s.createContext fn p
    mwb % 2 ^ 32 = 0 → swb % 2 ^ 35 = 0 → mwb < 2 ^ 56 → swb < 2 ^ 56 → spill % 32 = 0 → 1024 ≤ spill → spill ≤ 1048576 →
    (field p 20 4 = 0 ∨ field p 20 4 = 1040) → size % 65536 = 0 → leastFree (s.pkg.contexts.map (·.id)) 65535 1 = some id →
    leastFree (s.pkg.roots.map (·.1)) 65535 1 = some asid → poolBase mwb swb size = some base →
    ∃ t : State, exec (.createContext fn p tag) s = .next t ∧ s.serves t fn tag r.2.1 r.2.2 ∧ t.mem = r.1.mem ∧
      t.pkg.contexts = r.1.pkg.contexts ∧ (r.2.1 = 4 ∧ r.2.2 = [] ∧ t.pkg.contexts = s.pkg.contexts ∨
        r.2.1 = 0 ∧ r.2.2 = natBytes 2 id ++ natBytes 2 asid ++ natBytes 4 0 ++ natBytes 8 base ∧
        ∃ c ∈ t.pkg.contexts, c.id = id ∧ c.asid = asid ∧ c.fn = fn ∧ c.pool = base ∧ c.mwb = BitVec.ofNat 64 mwb ∧
          c.swb = BitVec.ofNat 64 swb)) ∧
  (∀ (s : State) (tag : BitVec 32) (fn : Nat) (p : List Byte) (c : Ctx), s.served fn 4 p tag = true → p.length = 8 → zeroAt p 2 6 = true →
    s.ownCtx fn (field p 0 2) = some c →
    ∃ t : State, exec (.destroyContext fn p tag) s = .next t ∧ t.replied fn tag 0 [] ∧ t.mem = (s.endContext c).mem ∧
      t.pkg.contexts = (s.endContext c).pkg.contexts ∧ ∀ x ∈ t.pkg.contexts, x.id ≠ c.id) ∧
  (∀ (s : State) (tag : BitVec 32) (fn : Nat) (p : List Byte), s.served fn 5 p tag = true → p.length = 32 →
    let r := s.map fn p
    ∃ t : State, exec (.map fn p tag) s = .next t ∧ t.mem = r.1.mem ∧ t.pkg.contexts = r.1.pkg.contexts ∧ s.serves t fn tag r.2.1 r.2.2) ∧
  (∀ (s : State) (tag : BitVec 32) (fn : Nat) (p : List Byte) (c : Ctx), s.served fn 5 p tag = true → p.length = 32 →
    s.ownCtx fn (field p 0 2) = some c → zeroAt p 10 6 = true → field p 2 1 = 2 → field p 3 1 = 0 →
    let count := field p 4 2
    let va := field p 16 8
    let host := field p 24 8
    1 ≤ count → count ≤ 1024 → field p 7 1 < 128 → field p 8 2 = 0 → host % 4096 = 0 → host + count * 4096 < 2 ^ 64 → host ≠ 2 ^ 64 - 1 →
    va + count ≤ 1048576 → (∀ k < count, c.aperture.lookup (va + k) = none) →
    ∃ (t : State) (x : Ctx), exec (.map fn p tag) s = .next t ∧ t.mem = s.mem ∧ s.serves t fn tag 0 (natBytes 8 host) ∧ t.ctx c.id = some x ∧
      (s.ctx c.id = some c → x.aperture = c.aperture ++ (upFrom 0 count).map fun k => (va + k, host + k * 4096))) ∧
  (∀ (s : State) (tag : BitVec 32) (fn : Nat) (p : List Byte) (c : Ctx), s.served fn 6 p tag = true → p.length = 16 → zeroAt p 2 2 = true →
    s.ownCtx fn (field p 0 2) = some c →
    let count := field p 4 4
    let va := field p 8 8
    ((∀ m ∈ c.maps, m.1 ≠ va) → (∀ k < count, (c.aperture.lookup (va + k)).isSome = true) →
      ∃ t : State, exec (.unmap fn p tag) s = .next t ∧ t.mem = s.mem ∧ s.serves t fn tag 0 [] ∧
        ∀ x ∈ t.pkg.contexts, x.id = c.id → ∀ k < count, x.aperture.lookup (va + k) = none) ∧
    (∀ m, c.maps.find? (fun m => m.1 == va) = some m → count = 1 → s.ctx c.id = some c →
      ∃ t : State, exec (.unmap fn p tag) s = .next t ∧ t.mem = (s.unmapPage c va m.2.1).mem ∧ t.tlb = (s.unmapPage c va m.2.1).tlb ∧
        s.serves t fn tag 0 [])) ∧
  (∀ (s : State) (tag : BitVec 32) (fn : Nat) (p : List Byte) (c : Ctx), s.served fn 7 p tag = true → p.length = 72 → zeroAt p 3 5 = true →
    s.ownCtx fn (field p 0 2) = some c →
    (∀ k, field p 2 1 = 0 → leastFree s.pkg.keys 8192 0 = some k →
      ∃ t : State, exec (.setKeyInstall fn p tag) s = .next t ∧ t.mem = s.mem ∧ s.serves t fn tag 0 (natBytes 2 k ++ natBytes 6 0) ∧
        t.pkg.keys = setIns k s.pkg.keys ∧ t.pkg.keyBytes = s.pkg.keyBytes ++ [(k, BitVec.ofNat 512 (field p 8 64))] ∧
        (∀ x ∈ t.pkg.contexts, x.id = c.id → k ∈ x.keys) ∧
        ∀ f ∈ t.pkg.functions, f.no = fn → ∀ b ∈ f.page, b.1 < 0x40 ∨ 0x800 ≤ b.1) ∧
    (field p 2 1 = 1 → zeroAt p 10 62 = true → field p 8 2 ∈ c.keys →
      ∃ t : State, exec (.setKeyRemove fn p tag) s = .next t ∧ t.mem.cells = s.mem.cells ∧ s.serves t fn tag 0 (natBytes 8 0) ∧
        t.pkg.keys = s.pkg.keys.filter (· != field p 8 2) ∧ (∀ x ∈ t.pkg.contexts, field p 8 2 ∉ x.keys) ∧
        ∀ q ∈ t.mem.keys, q.2 ≠ field p 8 2)) ∧
  (∀ (s : State) (tag : BitVec 32) (fn : Nat) (p : List Byte) (c : Ctx), s.served fn 2 p tag = true → p.length = 32 → zeroAt p 2 6 = true →
    field p 8 8 % 4096 = 0 → field p 24 8 % 65536 = 0 → s.ownCtx fn (field p 0 2) = some c →
    let off := field p 8 8
    let len := field p 16 8
    let load := field p 24 8
    let b := (upFrom off len).map fun a => cellGet (c.hostAddr a) s.pkg.hostMem
    (∀ k ∈ upFrom (off / 4096) ((len + 4095) / 4096), (c.aperture.lookup k).isSome = true) →
    (objectCode b ≠ 0 → ∃ t : State, exec (.loadObject fn p tag) s = .next t ∧ t.mem = s.mem ∧ t.pkg.contexts = s.pkg.contexts ∧
      s.serves t fn tag (objectCode b) []) ∧
    (objectCode b = 0 → (∀ x ∈ loadable b, load + x.load + x.size ≤ 2 ^ 56) →
      (∀ q ∈ loadPages load (loadable b), overlap (q * 65536) 65536 c.pool c.poolSize = false ∧
        ∀ m ∈ c.maps, overlap (q * 65536) 65536 m.1 m.2.1 = false) →
      ∃ t : State, exec (.loadObject fn p tag) s = .next t ∧
        (s.placeObject c load b = none → t.mem = s.mem ∧ t.pkg.contexts = s.pkg.contexts ∧ s.serves t fn tag 4 []) ∧
        ∀ s1 handle entries, s.placeObject c load b = some (s1, handle, entries) → t.mem = s1.mem ∧
          t.pkg.contexts = s1.pkg.contexts ∧ t.replied fn tag 0 (natBytes 4 handle ++ natBytes 4 entries ++ sha256 b) ∧
          t.pkg.firmware.measures.toList[3]? = some (extend (s1.pkg.firmware.measures.toList.getD 3 0) (natBytes 2 c.id ++ sha256 b))))

/-- The host link and the Lamp port. Registers and the command page take the host's writes and GO submits a command; reads and writes
through BAR2 act at the window's places or complete as misses; functions are enabled and reset; power-on measures and starts the
firmware; the duty is set from 1 to 64; frames take the oldest three records and time records come every 2^20 clk (26 R478 to R484, R493 to
R497). -/
def Obligations.HostLinkPowerAndLampPort : Prop :=
  (∀ (s : State) (fn off : Nat) (v : Word), s.reachable fn = true →
    (off = 0x1000 → ∃ t : State, exec (.hostRegisterWrite fn off v) s = .next t ∧ t.mem = s.mem ∧ t.g = s.g ∧
      ∀ f ∈ t.pkg.functions, f.no = fn → f.window = v &&& 0x80FFFFF00000FFFF) ∧
    (off = 0x2000 → fn = 0 → ∃ t : State, exec (.hostRegisterWrite fn off v) s = .next t ∧ t.mem = s.mem ∧ t.g = s.g ∧
      t.pkg.lamp = { s.pkg.lamp with ctl := v &&& 0xFF3F }) ∧
    (∀ f, off = 0 → v = 1 → s.pkg.functions = [f] → f.no = fn → f.busy = none →
      let c := field (f.bytes 8 8) 0 8
      ∃ (t : State) (h : PcieFn), exec (.hostRegisterWrite fn off v) s = .next t ∧ t.mem = s.mem ∧ t.g = s.g ∧ t.pkg.functions = [h] ∧ h.go = true ∧
        h.busy = some ⟨BitVec.ofNat 16 c, f.bytes 0x40 (min 1984 (c / 2 ^ 16 % 2 ^ 16)), BitVec.ofNat 32 (c / 2 ^ 32)⟩ ∧
        t.pkg.firmware.serving = s.pkg.firmware.serving ++ [fn])) ∧
  (∀ (s : State) (fn off size : Nat) (f : PcieFn), s.pkg.functions.find? (fun f => f.no == fn) = some f → s.reachable fn = true →
    off < 2 ^ 36 →
    (s.windowCtx f = none → ∃ t : State, exec (.hostBar2Read fn off size) s = .next t ∧ t.mem = s.mem ∧ t.g = s.g ∧
      ∀ h ∈ t.pkg.functions, h.no = fn → h.read = (List.replicate size 0xFF, false) ∧
        recordBits 8 3 0 0 (BitVec.ofNat 64 (windowAddr f off)) ∈ h.events) ∧
    (∀ c ps, s.windowCtx f = some c → s.hostPlaces c (windowAddr f off) size false = some ps →
      (∀ p ∈ ps, s.refusal (.load 1 false false) p.1 = none ∧ s.mem.poisoned p.1 1 = false ∧
        mapGet (p.1 / 64) s.mem.checks = none ∧ Config.ddrSize ≤ p.1) →
      ∃ t : State, exec (.hostBar2Read fn off size) s = .next t ∧ t.mem = s.mem ∧ t.g = s.g ∧
        ∀ h ∈ t.pkg.functions, h.no = fn → h.read = (ps.map fun p => s.mem.byte p.1, false)) ∧
    (s.windowCtx f = none → ∀ data, ∃ t : State, exec (.hostBar2Write fn off data) s = .next t ∧ t.mem = s.mem ∧ t.g = s.g ∧
      ∀ h ∈ t.pkg.functions, h.no = fn → recordBits 8 3 0 0 (BitVec.ofNat 64 (windowAddr f off)) ∈ h.events) ∧
    (∀ c b p, s.windowCtx f = some c → s.hostPlaces c (windowAddr f off) 1 true = some [(p, none)] →
      s.refusal (.store 1 (BitVec.setWidth 128 b) false) p = none → s.mem.poisoned p 1 = false →
      mapGet (p / 64) s.mem.checks = none → Config.ddrSize ≤ p →
      ∃ t : State, exec (.hostBar2Write fn off [b]) s = .next t ∧ t.mem = s.mem.store p 1 b.toNat ∧ t.g = s.g)) ∧
  (∀ (s : State) (fn : Nat), s.reachable fn = true → exec (.functionLevelReset fn) s = .next (s.resetFn fn).tick ∧
    (∀ f ∈ (s.resetFn fn).pkg.functions, f.no = fn → f.busy = none ∧ f.events = [] ∧ f.window = 0) ∧
    ∀ c ∈ (s.resetFn fn).pkg.contexts, c.fn ≠ fn) ∧
  (∀ (s : State) (vfs : Nat), s.pkg.firmware.booted = true → vfs ≤ 15 → ∃ t : State, exec (.srIovEnable vfs) s = .next t ∧ t.mem = s.mem ∧
    t.g = s.g ∧ (∀ f ∈ t.pkg.functions, f.no ≠ 0 → f.enabled = decide (f.no ≤ vfs)) ∧
    ∀ n, 1 ≤ n → n ≤ vfs → ∃ f ∈ t.pkg.functions, f.no = n ∧ f.enabled = true) ∧
  (∀ (s : State), s.pkg.firmware.booted = false → ∃ t : State, exec .powerOn s = .next t ∧ t.mem = s.mem ∧ t.g = s.g ∧ t.groups = s.groups ∧
    t.pkg.firmware.booted = true ∧ t.pkg.firmware.extension = Config.flashVerified ∧
    t.pkg.firmware.measures.toList[0]? = some Config.romDigest ∧
    t.pkg.firmware.measures.toList[2]? = some (extend (s.pkg.firmware.measures.toList.getD 2 0) (natBytes 32 Config.ownerDigest.toNat))) ∧
  (∀ (s : State) (draw : Nat) (hot : Bool), ∃ t : State, exec (.powerControlTick draw hot) s = .next t ∧ t.mem = s.mem ∧ t.g = s.g ∧
    t.pkg.firmware.draw = draw ∧ 1 ≤ t.pkg.firmware.duty ∧ (hot = false → t.pkg.firmware.duty ≤ 64) ∧
    (hot = true → 1 < s.pkg.firmware.duty → t.pkg.firmware.duty < s.pkg.firmware.duty) ∧
    (hot = true → s.pkg.firmware.duty ≤ 1 → t.pkg.firmware.duty = 1 ∧ ∀ f ∈ t.pkg.functions, f.no = 0 → f.vectors.getLsbD 3 = true)) ∧
  (∀ (s : State) (die : Nat) (b : LampBuf), s.pkg.lamp.bufs.find? (fun b => b.die == die) = some b → 3 ≤ b.recs.length →
    let body := (b.recs.take 3).flatMap fun r => natBytes 16 r.toNat
    ∃ t : State, exec (.lampFrame die) s = .next t ∧ t.mem = s.mem ∧ t.g = s.g ∧ t.pkg.lamp.seq = (s.pkg.lamp.seq + 1) % 2 ^ 32 ∧
      t.pkg.lamp.frames = s.pkg.lamp.frames ++ [natBytes 4 0x504D414C ++ natBytes 4 s.pkg.lamp.seq ++
        natBytes 4 (crc32c body).toNat ++ natBytes 4 0 ++ body] ∧
      t.pkg.lamp.bufs.find? (fun b => b.die == die) = some (if b.lost = 0 then { b with recs := b.recs.drop 3 }
        else { b with recs := b.recs.drop 3 ++ [lossRecord die s.clk b.lost], lost := 0 })) ∧
  (∀ (s : State) (die : Nat) (b : LampBuf), s.timeDue die = true → s.pkg.lamp.bufs.find? (fun b => b.die == die) = some b →
    b.recs.length < 256 → ∃ (t : State) (k : LampBuf), exec (.lampTimeRecord die) s = .next t ∧ t.mem = s.mem ∧ t.g = s.g ∧
      t.pkg.lamp.bufs.find? (fun b => b.die == die) = some k ∧ k.timed = s.clk / 2 ^ 20 ∧ k.recs = b.recs ++
        [(BitVec.ofInt 64 s.nanos ++ BitVec.ofNat 32 s.clk ++ BitVec.ofNat 13 (die * 1024) ++ 0#15 ++ 5#4 : BitVec 128)])

/-- The barrier forms and the state-store instructions complete. `bar.arrive` records its arrival and goes on; `bar` and `bar.max` go on past
the barrier when their own arrival is the last, and when the generation they arrived in has been released, `bar.max` with the barrier's
maxima; each of the eight state-store instructions completes once its unit has answered, with the answer in the destination of those that
have one (09 R203 to R206; 17 R354 to R362). -/
def Obligations.BarrierAndStateStoreFormsComplete : Prop :=
  (∀ (s : State) (n : BitVec 4) (sc : BitVec 3), s.clear (.barArrive n sc) [] → s.follower (.barArrive n sc) = true → s.quiet false = true →
    let k := s.g.barKey sc.toNat n.toNat false
    n.toNat < s.barLimit k → (∃ p ∈ s.g.parts, p ∉ (s.barrier k).arrived) →
    exec (.barArrive n sc) s = .next ((s.arrive k none none).past (.barArrive n sc) s)) ∧
  (∀ (s : State) (n : BitVec 4) (sc : BitVec 3), s.clear (.bar n sc) [] →
    let k := s.g.barKey sc.toNat n.toNat false
    (s.follower (.bar n sc) = true → s.quiet false = true → n.toNat < s.barLimit k → (∃ p ∈ s.g.parts, p ∉ (s.barrier k).arrived) →
      s.g.arrival k = none → (∀ h ∈ s.members k, ∀ p ∈ h.parts, p ∈ (s.barrier k).arrived ∨ p ∈ s.g.parts) → s.joining k = false →
      ¬ s.awaitsPackages (s.barrier k) →
      exec (.bar n sc) s = .next (((s.arrive k none (some s.g.pc)).passed k).past (.bar n sc) s)) ∧
    (∀ x, s.g.arrival k = some x → x.at_ = some s.g.pc → x.gen < (s.barrier k).gen →
      exec (.bar n sc) s = .next ((s.passed k).past (.bar n sc) s))) ∧
  (∀ (s : State) (b a d : BitVec 6) (l : Lane) (rest : List Lane), s.clear (.barMax b a d) [a, b] → s.g.acts = l :: rest →
    ((s.g.words l b).extractLsb' 0 3).toNat ≤ 4 →
    let k := s.g.barKey ((s.g.words l b).extractLsb' 0 3).toNat ((s.g.words l b).extractLsb' 3 4).toNat true
    let i : Instr := .barMax b a d
    let passes (s1 : State) : State :=
      let g : Group := s1.g.write d (s.g.acts.map fun y => (y.no, asData (s1.barrier k).last))
      State.passed { s1 with g := g } k
    (s.follower i = true → s.quiet false = true → k.id < s.barLimit k → (∃ p ∈ s.g.parts, p ∉ (s.barrier k).arrived) →
      s.g.arrival k = none → (∀ h ∈ s.members k, ∀ p ∈ h.parts, p ∈ (s.barrier k).arrived ∨ p ∈ s.g.parts) → s.joining k = false →
      ¬ s.awaitsPackages (s.barrier k) →
      let mine := s.g.acts.foldl (fun m y => maxHalves m (s.g.words y a)) 0
      exec i s = .next ((passes (s.arrive k (some mine) (some s.g.pc))).past i s)) ∧
    (∀ x, s.g.arrival k = some x → x.at_ = some s.g.pc → x.gen < (s.barrier k).gen → exec i s = .next ((passes s).past i s))) ∧
  (∀ (s : State) (l : Lane) (rest : List Lane) (n : Nat) (v : Val) (as : List (Nat × Answer)) (b a d : BitVec 6), s.g.sent = true → s.g.held = [] →
    s.unstepped → s.g.acts = l :: rest → s.g.answers = (n, .ok v) :: as →
    let gets (c : BitVec 6) : State :=
      let g : Group := if c = 0 then s.g else s.g.write c (s.g.acts.map fun y => (y.no, v))
      { s with g := g }
    (s.g.stream d = none → exec (.rsOpen b a d) s = .next ((gets d).past (.rsOpen b a d) s) ∧
      exec (.rsFork b a d) s = .next ((gets d).past (.rsFork b a d) s) ∧ exec (.rsPos a d) s = .next ((gets d).past (.rsPos a d) s)) ∧
    exec (.rsRd b a) s = .next (s.past (.rsRd b a) s) ∧ exec (.rsWr b a) s = .next (s.past (.rsWr b a) s) ∧
    exec (.rsSnap b a) s = .next (s.past (.rsSnap b a) s) ∧ exec (.rsRoll b a) s = .next (s.past (.rsRoll b a) s) ∧
    exec (.rsDrop a) s = .next (s.past (.rsDrop a) s))
end

