-- ==== Sys2Proof/Laws/Issue.lean ====
section
/-! SUPPORT. What the shared operations of an issue do: the checks that let an instruction reach its body, and the state that each way
of ending leaves. -/

namespace Sys2Proof.Machine

/-! ### Checks -/

theorem execs_subset_acts (g : Group) (u : Bool) (l : Lane) (h : l ∈ g.execs u) : l ∈ g.acts := by
  cases u <;> simp only [Group.execs, Bool.false_eq_true, if_true, if_false] at h
  · exact h
  · exact List.mem_of_mem_take h

theorem Val.known_iff (v : Val) : v.known = true ↔ v.tag = .data ∨ v.tag = .cap := by
  simp [Val.known]

theorem known_record (v : Val) (h : v.known = true) : v.record = none := by
  rcases (Val.known_iff v).1 h with h | h <;> simp [Val.record, h]

theorem known_isSym (v : Val) (h : v.known = true) : v.isSym = false := by simp [Val.isSym, known_record v h]

theorem decodeTrap_none (i : Instr) (pre : State → Option Trap) (s : State) (hk : kindOk i s.g.isG = true)
    (hl : minLevel i ≤ s.g.priv.toNat) (hp : pre s = none) (hm : latchMissing i s.g = false) : decodeTrap i pre s = none := by
  have hr : decodeTrap.decodeRest i pre s = none := by
    simp only [decodeTrap.decodeRest, if_neg (Nat.not_lt.2 hl), hp, hm, Bool.false_eq_true, if_false]
  unfold decodeTrap
  cases hkt : kindTrap i with
  | none => exact hr
  | some p =>
    have : s.g.isG ≠ p.1 := by
      intro e; simp [kindOk, hkt, e] at hk
    simp [this, hr]

theorem absent_false (g : Group) (u : Bool) (cs : List (BitVec 6)) (h : ∀ l ∈ g.acts, ∀ c ∈ cs, (g.read l c).known = true) :
    g.absent (g.execs u) cs = false := by
  simp only [Group.absent, List.any_eq_false]
  intro l hl
  simp only [List.any_eq_true, not_exists, not_and]
  intro c hc
  rcases (Val.known_iff _).1 (h l (execs_subset_acts g u l hl) c hc) with e | e <;> simp [e]

theorem anySym_false (g : Group) (lead u : Bool) (cs : List (BitVec 6)) (h : ∀ l ∈ g.acts, ∀ c ∈ cs, (g.read l c).known = true) :
    g.anySym lead u cs = false := by
  have key : ∀ ls : List Lane, (∀ l ∈ ls, l ∈ g.acts) → (ls.any fun l => cs.any fun c => (g.read l c).isSym) = false := by
    intro ls hs
    simp only [List.any_eq_false]
    intro l hl
    simp only [List.any_eq_true, not_exists, not_and]
    intro c hc
    simp [known_isSym _ (h l (hs l hl) c hc)]
  unfold Group.anySym
  apply key
  intro l hl
  cases lead <;> cases u <;> simp only [Bool.false_eq_true, if_true, if_false] at hl
  · exact execs_subset_acts g _ l hl
  · exact hl
  · exact execs_subset_acts g _ l hl
  · exact execs_subset_acts g _ l hl

theorem poisonSrc_none (g : Group) (u : Bool) (cs : List (BitVec 6)) (h : ∀ l ∈ g.acts, ∀ c ∈ cs, (g.read l c).known = true) :
    g.poisonSrc (g.execs u) cs = none := by
  simp only [Group.poisonSrc, List.findSome?_eq_none_iff, List.find?_eq_none]
  intro l hl c hc
  rcases (Val.known_iff _).1 (h l (execs_subset_acts g u l hl) c hc) with e | e <;> simp [e]

theorem popRegs_nil (g : Group) (cs : List (BitVec 6)) (h : ∀ c ∈ cs, g.stream c = none) : g.popRegs cs = [] := by
  have : cs.filter (fun c => (g.stream c).isSome) = [] := by
    rw [List.filter_eq_nil_iff]; intro c hc; simp [h c hc]
  simp [Group.popRegs, this]

theorem lateTrap_none (i : Instr) (m : Mode) (cs : List (BitVec 6)) (s : State) (hr : readsLatch i = true → s.g.runLen < 16)
    (hrole : s.g.isG = true → roleAllows s.g.role (classOf i) = true) (h : s.knows cs) : lateTrap i m cs s = none := by
  unfold lateTrap
  have h1 : (readsLatch i && decide (16 ≤ s.g.runLen)) = false := by
    cases hb : readsLatch i
    · rfl
    · have := hr hb; simp; omega
  have h2 : (s.g.isG && !roleAllows s.g.role (classOf i)) = false := by
    cases hb : s.g.isG
    · rfl
    · simp [hrole hb]
  rw [if_neg (by simp [h1]), if_neg (by simp [h2]), poisonSrc_none _ _ _ h]
  simp

theorem popsSym_false (g : Group) (cs : List (BitVec 6)) (h : ∀ c ∈ cs, g.stream c = none) : g.popsSym cs = false := by
  simp only [Group.popsSym, List.any_eq_false]
  intro c hc
  simp [Group.holds, h c hc]

/-- Where every source is known, the destination awaits no receive and the instruction's own use blocks on nothing, nothing blocks. -/
theorem block_none (g : Group) (i : Instr) (m : Mode) (cs : List (BitVec 6)) (blk : Group → Bool)
    (h : ∀ l ∈ g.acts, ∀ c ∈ cs, (g.read l c).known = true) (hd : g.boundDst (dst i) = false) (hb : blk g = false) :
    g.block i m cs blk = none := by
  simp [Group.block, anySym_false g _ _ cs h, hd, hb]

/-- An instruction that nothing stands in the way of performs its body. -/
theorem issueAct_free (i : Instr) (m : Mode) (cs : List (BitVec 6)) (blk : Group → Bool) (pre : State → Option Trap)
    (body : State → Act) (s : State) (h : s.reaches i cs) (hk : s.knows cs) (hp : pre s = none) (hw : blk s.g = false) :
    issueAct i m cs blk pre body s = body s := by
  obtain ⟨hs, hheld, hkind, hl, hm, hb, ha, hr, hbd, hnw, hrun, hrole, hst⟩ := h
  have hall : cs.all s.g.holds = true := by
    rw [List.all_eq_true]; intro c hc; simp [Group.holds, hst c (by simp [hc])]
  have hpass : ∀ k : State → Act, passBlocks i m cs blk k s = k s := by
    intro k
    simp only [passBlocks, block_none s.g i m cs blk hk hbd hw, lateTrap_none i m cs s hrun hrole hk]
  have hds : (dst i).toList = dsts i := by unfold dsts; cases dst i <;> rfl
  unfold issueAct
  simp only [hs, Bool.false_eq_true, if_false, decodeTrap_none i pre s hkind hl hp hm, hb, absent_false _ _ _ hk, hds, ha, hr, hnw, hpass,
    hall, if_true, popped, hheld, List.isEmpty_nil]

/-- The same for an instruction whose own use of its operands blocks on nothing. -/
theorem issueAct_clear (i : Instr) (m : Mode) (cs : List (BitVec 6)) (pre : State → Option Trap) (body : State → Act) (s : State)
    (h : s.reaches i cs) (hk : s.knows cs) (hp : pre s = none) : issueAct i m cs noBlock pre body s = body s :=
  issueAct_free i m cs noBlock pre body s h hk hp rfl

/-! ### Ends -/

theorem stepTrap_none (s0 s : State) (j : Bool) (h : s0.unstepped) : State.stepTrap s0 s j = s := by
  unfold State.stepTrap
  rw [if_neg]
  rintro ⟨hp, hs, _⟩
  rcases h with h | h
  · simp [h] at hs
  · exact h hp

theorem consume_nil (s : State) (h : s.g.held = []) : s.consume = s := by simp [State.consume, h]

theorem toNat_isShort (b : Bool) : b.toNat = if b = true then 1 else 0 := by cases b <;> rfl

theorem finish_done (i : Instr) (s0 s : State) (hu : s0.unstepped) (hh : s.g.held = []) :
    finish i (effectOf i s0.g) s0 (.done s) = s.past i s0 := by
  have hc : (State.retire s0 s i (effectOf i s0.g)).g.held = [] := by simpa [State.retire] using hh
  simp only [finish, consume_nil _ hc, stepTrap_none _ _ _ hu]
  simp only [State.retire, State.past, Group.past, State.tick, Group.snap, toNat_isShort, beq_iff_eq, Bool.and_eq_true, Bool.not_eq_true']

theorem finish_jump (i : Instr) (s0 s : State) (pc : Word) (hu : s0.unstepped) (hh : s.g.held = []) :
    finish i (effectOf i s0.g) s0 (.jump s pc) = s.went i s0 pc := by
  have hc : (State.retire s0 s i (effectOf i s0.g)).g.held = [] := by simpa [State.retire] using hh
  simp only [finish, consume_nil _ hc, stepTrap_none _ _ _ hu]
  simp only [State.retire, State.went, Group.past, State.tick, Group.snap, toNat_isShort, beq_iff_eq, Bool.and_eq_true,
    Bool.not_eq_true', Group.endRun]

theorem finish_wait (i : Instr) (e : Bool) (s : State) (w : Wait) : finish i e s (.wait s w) = s.waits w := rfl

/-- An instruction that nothing stands in the way of, whose operands do not block it and whose body is done ends past it. -/
theorem issueBlk_done (i : Instr) (m : Mode) (cs : List (BitVec 6)) (blk : Group → Bool) (pre : State → Option Trap)
    (body : State → Act) (s s1 : State) (h : s.clear i cs) (hp : pre s = none) (hw : blk s.g = false) (hb : body s = .done s1)
    (hh : s1.g.held = []) : issueBlk cs i m blk pre body s = .next (s1.past i s) := by
  unfold issueBlk
  rw [issueAct_free i m cs blk pre body s h.1 h.2.1 hp hw, hb, finish_done i s s1 h.2.2 hh]

/-- An instruction that nothing stands in the way of and whose body is done ends past it. -/
theorem issueOn_done (i : Instr) (m : Mode) (cs : List (BitVec 6)) (pre : State → Option Trap) (body : State → Act) (s s1 : State)
    (h : s.clear i cs) (hp : pre s = none) (hb : body s = .done s1) (hh : s1.g.held = []) :
    issueOn cs i m pre body s = .next (s1.past i s) :=
  issueBlk_done i m cs noBlock pre body s s1 h hp rfl hb hh

theorem issueOn_jump (i : Instr) (m : Mode) (cs : List (BitVec 6)) (pre : State → Option Trap) (body : State → Act) (s s1 : State)
    (pc : Word) (h : s.clear i cs) (hp : pre s = none) (hb : body s = .jump s1 pc) (hh : s1.g.held = []) :
    issueOn cs i m pre body s = .next (s1.went i s pc) := by
  unfold issueOn issueBlk
  rw [issueAct_clear i m cs pre body s h.1 h.2.1 hp, hb, finish_jump i s s1 pc h.2.2 hh]

theorem issueOn_wait (i : Instr) (m : Mode) (cs : List (BitVec 6)) (pre : State → Option Trap) (body : State → Act) (s : State)
    (w : Wait) (h : s.reaches i cs) (hk : s.knows cs) (hp : pre s = none) (hb : body s = .wait s w) :
    issueOn cs i m pre body s = .next (s.waits w) := by
  unfold issueOn issueBlk
  rw [issueAct_clear i m cs pre body s h hk hp, hb, finish_wait]

theorem issueOn_trap (i : Instr) (m : Mode) (cs : List (BitVec 6)) (pre : State → Option Trap) (body : State → Act) (s : State)
    (t : Trap) (h : s.reaches i cs) (hk : s.knows cs) (hp : pre s = none) (hb : body s = .trap s t) :
    issueOn cs i m pre body s = .next (s.takeTrap t (readsLatch i)).tick := by
  unfold issueOn issueBlk
  rw [issueAct_clear i m cs pre body s h hk hp, hb]
  rfl

/-! ### Results lane by lane -/

theorem evalLanes_some {α : Type} (f : Lane → Option α) (g : Lane → α) (ls : List Lane) (h : ∀ l ∈ ls, f l = some (g l)) :
    evalLanes f ls = some (ls.map fun l => (l.no, g l)) := by
  induction ls with
  | nil => rfl
  | cons l t ih =>
    simp [evalLanes, h l (by simp), ih fun x hx => h x (by simp [hx])]

theorem spread_results {α : Type} (g : Group) (u : Bool) (f : Lane → α) :
    g.spread u ((g.execs u).map fun l => (l.no, f l)) = g.results u f := by
  cases u
  · simp [Group.spread, Group.execs, Group.results]
  · simp only [Group.spread, Group.execs, Group.results, if_true]
    cases g.acts <;> simp

theorem write_held (g : Group) (c : BitVec 6) (v : List (Nat × Val)) : (g.write c v).held = g.held := by
  unfold Group.write; split <;> rfl

theorem write_stream (g : Group) (c d : BitVec 6) (v : List (Nat × Val)) : (g.write c v).stream d = g.stream d := by
  unfold Group.write; split <;> rfl

theorem gets_held (g : Group) (i : Instr) (v : List (Nat × Val)) (fl : List (Nat × Flags)) : (g.gets i v fl).held = g.held := by
  unfold Group.gets
  cases dst i <;> cases isShort i <;> simp [Group.raise, Group.pushLatch, write_held]

/-- The operands of an instruction that has a result in every active lane do not block it where no stream takes its result. -/
theorem lanesBlock_false (i : Instr) (f : Group → Lane → Option (Val × Flags)) (g : Group) (hst : ∀ c ∈ dsts i, g.stream c = none)
    (h : ∀ l ∈ g.acts, ∃ v, f g l = some v) : lanesBlock i f g = false := by
  simp only [lanesBlock, List.any_eq_false]
  intro l hl
  obtain ⟨v, hv⟩ := h l (execs_subset_acts _ _ l hl)
  cases hd : dst i with
  | none => simp [hv]
  | some d => simp [hv, hst d (by simp [dsts, hd])]

/-- Delivering results where no stream is bound to the destination. -/
theorem deliver_done (i : Instr) (v : List (Nat × Val)) (fl : List (Nat × Flags)) (s : State) (h : ∀ c ∈ dsts i, s.g.stream c = none) :
    deliver i v fl s = .done { s with g := s.g.gets i v fl } := by
  unfold deliver Group.gets
  cases hd : dst i with
  | none => rfl
  | some d =>
    have : s.g.stream d = none := h d (by simp [dsts, hd])
    simp [putReg, this]

/-- A lane-by-lane body whose lanes all have a result. -/
theorem laneAct_done (i : Instr) (f : Group → Lane → Option (Val × Flags)) (r : Lane → Val × Flags) (s : State)
    (hst : ∀ c ∈ dsts i, s.g.stream c = none) (h : ∀ l ∈ s.g.acts, f s.g l = some (r l)) :
    laneAct i f s = .done { s with g := s.g.gets i (s.g.results (isUniform i) fun l => (r l).1) (s.g.results (isUniform i) fun l => (r l).2) } := by
  unfold laneAct
  simp only [evalLanes_some (f s.g) r (s.g.execs (isUniform i)) fun l hl => h l (execs_subset_acts _ _ l hl), List.map_map,
    Function.comp_def]
  rw [deliver_done _ _ _ _ hst, spread_results s.g (isUniform i) fun l => (r l).1, spread_results s.g (isUniform i) fun l => (r l).2]

theorem raise_zero (g : Group) (l : List (Nat × Flags)) (h : ∀ p ∈ l, p.2 = Flags.zero) : g.raise l = g := by
  have hz : Flags.zero.word = 0 := by decide
  have key : ∀ (l : List (Nat × Flags)) (k : Nat) (w : Word), (∀ p ∈ l, p.2 = Flags.zero) →
      l.foldl (fun w p => if p.1 / 4 = k then w ||| p.2.word else w) w = w := by
    intro l
    induction l with
    | nil => intros; rfl
    | cons p t ih =>
      intro k w h
      have hw : (if p.1 / 4 = k then w ||| p.2.word else w) = w := by rw [h p (by simp), hz]; split <;> simp
      rw [List.foldl_cons, hw]
      exact ih k w fun q hq => h q (by simp [hq])
  have hs : g.slices.map (fun s => { s with fmode := l.foldl (fun w p => if p.1 / 4 = s.idx then w ||| p.2.word else w) s.fmode }) =
      g.slices := by
    conv_rhs => rw [← List.map_id g.slices]
    apply List.map_congr_left
    intro s _
    rw [key l s.idx s.fmode h]
    rfl
  simp only [Group.raise, hs]

theorem gets_zero (g : Group) (i : Instr) (u : Bool) (v : List (Nat × Val)) (r : Lane → Flags) (h : ∀ l, r l = Flags.zero) :
    g.gets i v (g.results u r) = g.gets i v [] := by
  have hz : ∀ p ∈ g.results u r, p.2 = Flags.zero := by
    intro p hp
    unfold Group.results at hp
    cases u
    · simp only [Bool.false_eq_true, if_false, List.mem_map] at hp
      obtain ⟨l, _, rfl⟩ := hp
      exact h l
    · simp only [if_true] at hp
      split at hp
      · simp only [List.mem_map] at hp
        obtain ⟨l, _, rfl⟩ := hp
        exact h _
      · simp at hp
  unfold Group.gets
  rw [raise_zero _ _ hz, raise_zero _ [] (by simp)]

/-- An instruction that gives each lane a value and nothing else. -/
theorem lanewise_computes (i : Instr) (m : Mode) (f : Group → Lane → Option (Val × Flags)) (r : Lane → Val) (s : State)
    (h : s.clear i (srcs i)) (hf : ∀ l ∈ s.g.acts, f s.g l = some (r l, Flags.zero)) :
    lanewise i m f s = .next (s.computes i r) := by
  have hst : ∀ c ∈ dsts i, s.g.stream c = none := fun c hc => h.1.2.2.2.2.2.2.2.2.2.2.2.2 c (by simp [hc])
  have hb := laneAct_done i f (fun l => (r l, Flags.zero)) s hst hf
  simp only at hb
  rw [gets_zero _ _ _ _ _ fun _ => rfl] at hb
  exact issueBlk_done i m (srcs i) _ _ _ s _ h rfl (lanesBlock_false i f s.g hst fun l hl => ⟨_, hf l hl⟩) hb
    (by simp [gets_held, h.1.2.1])

end Sys2Proof.Machine
end

