-- ==== Sys2Proof/Laws/Control.lean ====
section
/-! SUPPORT. What the shared operations of control transfer do. -/

namespace Sys2Proof.Machine

theorem results_eq {α : Type} (g : Group) (u : Bool) (f : Lane → α) (v : α) (h : ∀ l ∈ g.execs u, f l = v) :
    ∀ p ∈ g.results u f, p.2 = v := by
  intro p hp
  unfold Group.results at hp
  cases u
  · simp only [Bool.false_eq_true, if_false, List.mem_map] at hp
    obtain ⟨l, hl, rfl⟩ := hp
    exact h l hl
  · simp only [if_true] at hp
    cases ha : g.acts with
    | nil => simp [ha] at hp
    | cons x t =>
      simp only [ha, List.mem_map] at hp
      obtain ⟨l, _, rfl⟩ := hp
      exact h x (by simp [Group.execs, ha])

theorem results_ne_nil {α : Type} (g : Group) (u : Bool) (f : Lane → α) (h : g.acts ≠ []) : g.results u f ≠ [] := by
  unfold Group.results
  cases ha : g.acts with
  | nil => exact absurd ha h
  | cons x t => cases u <;> simp

/-- A transfer whose lanes all go to one target is a jump there. -/
theorem transferAct_agree (i : Instr) (ts : List (Nat × Target)) (s0 s : State) (t : Target) (hn : ts ≠ []) (h : ∀ p ∈ ts, p.2 = t) :
    transferAct i ts s0 s = .jump { s with g := { s.g with codeCap := t.code } } t.pc := by
  cases ts with
  | nil => exact absurd rfl hn
  | cons p r =>
    obtain ⟨n, t0⟩ := p
    have ht : t0 = t := h (n, t0) (by simp)
    subst ht
    have hd : ((n, t0) :: r).filter (fun p => p.2 != t0) = [] := by
      rw [List.filter_eq_nil_iff]
      intro p hp
      simp [h p hp]
    have hs : strays ((n, t0) :: r) = [] := hd
    have htr : s.transferTrap ((n, t0) :: r) = none := by simp [State.transferTrap, hs]
    simp [transferAct, hs, htr]

/-- A branch whose executing lanes agree. -/
theorem branch_agree (i : Instr) (a d : BitVec 6) (off : Word) (c : Word → Word → Bool) (b : Bool) (s : State)
    (hc : s.clear i (srcs i)) (hn : s.g.acts ≠ []) (h : ∀ l ∈ s.g.execs (isUniform i), c (s.g.words l a) (s.g.words l d) = b) :
    branch i a d off c s = .next (s.went i s (if b then s.g.pc + off else s.g.pc + BitVec.ofNat 64 i.len)) := by
  refine issueOn_jump i strict (srcs i) _ _ s s _ hc rfl ?_ hc.1.2.1
  simp only [spread_results s.g (isUniform i) fun l => (⟨s.g.codeCap,
    if c (s.g.read l a).word (s.g.read l d).word then s.g.pc + off else s.g.pc + BitVec.ofNat 64 i.len⟩ : Target)]
  rw [transferAct_agree _ _ _ _ ⟨s.g.codeCap, if b then s.g.pc + off else s.g.pc + BitVec.ofNat 64 i.len⟩
    (results_ne_nil _ _ _ hn) (results_eq _ _ _ _ ?_)]
  intro l hl
  have := h l hl
  simp only [Group.words] at this
  simp only [Val.word, this]

end Sys2Proof.Machine
end

