-- ==== Sys2Proof/Laws/State.lean ====
section
/-! SUPPORT. What each update of the state leaves in each field. -/

namespace Sys2Proof.Machine

/-! ### tick -/

@[simp] theorem tick_g (s : State) : (s.tick).g = s.g := rfl
@[simp] theorem tick_groups (s : State) : (s.tick).groups = s.groups := rfl
@[simp] theorem tick_mem (s : State) : (s.tick).mem = s.mem := rfl
@[simp] theorem tick_cores (s : State) : (s.tick).cores = s.cores := rfl
@[simp] theorem tick_crews (s : State) : (s.tick).crews = s.crews := rfl
@[simp] theorem tick_tasks (s : State) : (s.tick).tasks = s.tasks := rfl
@[simp] theorem tick_barriers (s : State) : (s.tick).barriers = s.barriers := rfl
@[simp] theorem tick_fes (s : State) : (s.tick).fes = s.fes := rfl
@[simp] theorem tick_armed (s : State) : (s.tick).armed = s.armed := rfl
@[simp] theorem tick_net (s : State) : (s.tick).net = s.net := rfl
@[simp] theorem tick_scq (s : State) : (s.tick).scq = s.scq := rfl
@[simp] theorem tick_owned (s : State) : (s.tick).owned = s.owned := rfl
@[simp] theorem tick_mail (s : State) : (s.tick).mail = s.mail := rfl
@[simp] theorem tick_recvs (s : State) : (s.tick).recvs = s.recvs := rfl
@[simp] theorem tick_tlb (s : State) : (s.tick).tlb = s.tlb := rfl
@[simp] theorem tick_pointers (s : State) : (s.tick).pointers = s.pointers := rfl
@[simp] theorem tick_walks (s : State) : (s.tick).walks = s.walks := rfl
@[simp] theorem tick_misses (s : State) : (s.tick).misses = s.misses := rfl
@[simp] theorem tick_sys (s : State) : (s.tick).sys = s.sys := rfl
@[simp] theorem tick_moor (s : State) : (s.tick).moor = s.moor := rfl
@[simp] theorem tick_stalls (s : State) : (s.tick).stalls = s.stalls := rfl
@[simp] theorem tick_returns (s : State) : (s.tick).returns = s.returns := rfl
@[simp] theorem tick_copies (s : State) : (s.tick).copies = s.copies := rfl
@[simp] theorem tick_arrays (s : State) : (s.tick).arrays = s.arrays := rfl
@[simp] theorem tick_punits (s : State) : (s.tick).punits = s.punits := rfl
@[simp] theorem tick_colls (s : State) : (s.tick).colls = s.colls := rfl
@[simp] theorem tick_stores (s : State) : (s.tick).stores = s.stores := rfl
@[simp] theorem tick_creators (s : State) : (s.tick).creators = s.creators := rfl
@[simp] theorem tick_decs (s : State) : (s.tick).decs = s.decs := rfl
@[simp] theorem tick_tenders (s : State) : (s.tick).tenders = s.tenders := rfl
@[simp] theorem tick_queues (s : State) : (s.tick).queues = s.queues := rfl
@[simp] theorem tick_records (s : State) : (s.tick).records = s.records := rfl
@[simp] theorem tick_replicas (s : State) : (s.tick).replicas = s.replicas := rfl
@[simp] theorem tick_btops (s : State) : (s.tick).btops = s.btops := rfl
@[simp] theorem tick_pkg (s : State) : (s.tick).pkg = s.pkg := rfl
@[simp] theorem tick_agenda (s : State) : (s.tick).agenda = s.agenda := rfl
@[simp] theorem tick_turns (s : State) : (s.tick).turns = s.turns := rfl
@[simp] theorem tick_clk (s : State) : (s.tick).clk = s.clk + 1 := rfl
@[simp] theorem tick_fresh (s : State) : (s.tick).fresh = s.fresh := rfl
@[simp] theorem tick_nextId (s : State) : (s.tick).nextId = s.nextId := rfl

/-! ### noticed -/

@[simp] theorem noticed_g (s : State) (writer a n : Nat) : (s.noticed writer a n).g = s.g := rfl
@[simp] theorem noticed_groups (s : State) (writer a n : Nat) : (s.noticed writer a n).groups = s.groups := rfl
@[simp] theorem noticed_mem (s : State) (writer a n : Nat) : (s.noticed writer a n).mem = s.mem := rfl
@[simp] theorem noticed_cores (s : State) (writer a n : Nat) : (s.noticed writer a n).cores = s.cores := rfl
@[simp] theorem noticed_crews (s : State) (writer a n : Nat) : (s.noticed writer a n).crews = s.crews := rfl
@[simp] theorem noticed_tasks (s : State) (writer a n : Nat) : (s.noticed writer a n).tasks = s.tasks := rfl
@[simp] theorem noticed_barriers (s : State) (writer a n : Nat) : (s.noticed writer a n).barriers = s.barriers := rfl
@[simp] theorem noticed_fes (s : State) (writer a n : Nat) : (s.noticed writer a n).fes = s.fes := rfl
@[simp] theorem noticed_net (s : State) (writer a n : Nat) : (s.noticed writer a n).net = s.net := rfl
@[simp] theorem noticed_scq (s : State) (writer a n : Nat) : (s.noticed writer a n).scq = s.scq := rfl
@[simp] theorem noticed_owned (s : State) (writer a n : Nat) : (s.noticed writer a n).owned = s.owned := rfl
@[simp] theorem noticed_mail (s : State) (writer a n : Nat) : (s.noticed writer a n).mail = s.mail := rfl
@[simp] theorem noticed_recvs (s : State) (writer a n : Nat) : (s.noticed writer a n).recvs = s.recvs := rfl
@[simp] theorem noticed_tlb (s : State) (writer a n : Nat) : (s.noticed writer a n).tlb = s.tlb := rfl
@[simp] theorem noticed_pointers (s : State) (writer a n : Nat) : (s.noticed writer a n).pointers = s.pointers := rfl
@[simp] theorem noticed_walks (s : State) (writer a n : Nat) : (s.noticed writer a n).walks = s.walks := rfl
@[simp] theorem noticed_misses (s : State) (writer a n : Nat) : (s.noticed writer a n).misses = s.misses := rfl
@[simp] theorem noticed_sys (s : State) (writer a n : Nat) : (s.noticed writer a n).sys = s.sys := rfl
@[simp] theorem noticed_moor (s : State) (writer a n : Nat) : (s.noticed writer a n).moor = s.moor := rfl
@[simp] theorem noticed_stalls (s : State) (writer a n : Nat) : (s.noticed writer a n).stalls = s.stalls := rfl
@[simp] theorem noticed_returns (s : State) (writer a n : Nat) : (s.noticed writer a n).returns = s.returns := rfl
@[simp] theorem noticed_copies (s : State) (writer a n : Nat) : (s.noticed writer a n).copies = s.copies := rfl
@[simp] theorem noticed_arrays (s : State) (writer a n : Nat) : (s.noticed writer a n).arrays = s.arrays := rfl
@[simp] theorem noticed_punits (s : State) (writer a n : Nat) : (s.noticed writer a n).punits = s.punits := rfl
@[simp] theorem noticed_colls (s : State) (writer a n : Nat) : (s.noticed writer a n).colls = s.colls := rfl
@[simp] theorem noticed_stores (s : State) (writer a n : Nat) : (s.noticed writer a n).stores = s.stores := rfl
@[simp] theorem noticed_creators (s : State) (writer a n : Nat) : (s.noticed writer a n).creators = s.creators := rfl
@[simp] theorem noticed_decs (s : State) (writer a n : Nat) : (s.noticed writer a n).decs = s.decs := rfl
@[simp] theorem noticed_tenders (s : State) (writer a n : Nat) : (s.noticed writer a n).tenders = s.tenders := rfl
@[simp] theorem noticed_queues (s : State) (writer a n : Nat) : (s.noticed writer a n).queues = s.queues := rfl
@[simp] theorem noticed_records (s : State) (writer a n : Nat) : (s.noticed writer a n).records = s.records := rfl
@[simp] theorem noticed_replicas (s : State) (writer a n : Nat) : (s.noticed writer a n).replicas = s.replicas := rfl
@[simp] theorem noticed_btops (s : State) (writer a n : Nat) : (s.noticed writer a n).btops = s.btops := rfl
@[simp] theorem noticed_pkg (s : State) (writer a n : Nat) : (s.noticed writer a n).pkg = s.pkg := rfl
@[simp] theorem noticed_agenda (s : State) (writer a n : Nat) : (s.noticed writer a n).agenda = s.agenda := rfl
@[simp] theorem noticed_turns (s : State) (writer a n : Nat) : (s.noticed writer a n).turns = s.turns := rfl
@[simp] theorem noticed_clk (s : State) (writer a n : Nat) : (s.noticed writer a n).clk = s.clk := rfl
@[simp] theorem noticed_fresh (s : State) (writer a n : Nat) : (s.noticed writer a n).fresh = s.fresh := rfl
@[simp] theorem noticed_nextId (s : State) (writer a n : Nat) : (s.noticed writer a n).nextId = s.nextId := rfl

/-! ### storeAt -/

@[simp] theorem storeAt_g (s : State) (writer a n v : Nat) : (s.storeAt writer a n v).g = s.g := rfl
@[simp] theorem storeAt_groups (s : State) (writer a n v : Nat) : (s.storeAt writer a n v).groups = s.groups := rfl
@[simp] theorem storeAt_mem (s : State) (writer a n v : Nat) : (s.storeAt writer a n v).mem = s.mem.store a n v := rfl
@[simp] theorem storeAt_cores (s : State) (writer a n v : Nat) : (s.storeAt writer a n v).cores = s.cores := rfl
@[simp] theorem storeAt_crews (s : State) (writer a n v : Nat) : (s.storeAt writer a n v).crews = s.crews := rfl
@[simp] theorem storeAt_tasks (s : State) (writer a n v : Nat) : (s.storeAt writer a n v).tasks = s.tasks := rfl
@[simp] theorem storeAt_barriers (s : State) (writer a n v : Nat) : (s.storeAt writer a n v).barriers = s.barriers := rfl
@[simp] theorem storeAt_fes (s : State) (writer a n v : Nat) : (s.storeAt writer a n v).fes = s.fes := rfl
@[simp] theorem storeAt_net (s : State) (writer a n v : Nat) : (s.storeAt writer a n v).net = s.net := rfl
@[simp] theorem storeAt_scq (s : State) (writer a n v : Nat) : (s.storeAt writer a n v).scq = s.scq := rfl
@[simp] theorem storeAt_owned (s : State) (writer a n v : Nat) : (s.storeAt writer a n v).owned = s.owned := rfl
@[simp] theorem storeAt_mail (s : State) (writer a n v : Nat) : (s.storeAt writer a n v).mail = s.mail := rfl
@[simp] theorem storeAt_recvs (s : State) (writer a n v : Nat) : (s.storeAt writer a n v).recvs = s.recvs := rfl
@[simp] theorem storeAt_tlb (s : State) (writer a n v : Nat) : (s.storeAt writer a n v).tlb = s.tlb := rfl
@[simp] theorem storeAt_pointers (s : State) (writer a n v : Nat) : (s.storeAt writer a n v).pointers = s.pointers := rfl
@[simp] theorem storeAt_walks (s : State) (writer a n v : Nat) : (s.storeAt writer a n v).walks = s.walks := rfl
@[simp] theorem storeAt_misses (s : State) (writer a n v : Nat) : (s.storeAt writer a n v).misses = s.misses := rfl
@[simp] theorem storeAt_sys (s : State) (writer a n v : Nat) : (s.storeAt writer a n v).sys = s.sys := rfl
@[simp] theorem storeAt_moor (s : State) (writer a n v : Nat) : (s.storeAt writer a n v).moor = s.moor := rfl
@[simp] theorem storeAt_stalls (s : State) (writer a n v : Nat) : (s.storeAt writer a n v).stalls = s.stalls := rfl
@[simp] theorem storeAt_returns (s : State) (writer a n v : Nat) : (s.storeAt writer a n v).returns = s.returns := rfl
@[simp] theorem storeAt_copies (s : State) (writer a n v : Nat) : (s.storeAt writer a n v).copies = s.copies := rfl
@[simp] theorem storeAt_arrays (s : State) (writer a n v : Nat) : (s.storeAt writer a n v).arrays = s.arrays := rfl
@[simp] theorem storeAt_punits (s : State) (writer a n v : Nat) : (s.storeAt writer a n v).punits = s.punits := rfl
@[simp] theorem storeAt_colls (s : State) (writer a n v : Nat) : (s.storeAt writer a n v).colls = s.colls := rfl
@[simp] theorem storeAt_stores (s : State) (writer a n v : Nat) : (s.storeAt writer a n v).stores = s.stores := rfl
@[simp] theorem storeAt_creators (s : State) (writer a n v : Nat) : (s.storeAt writer a n v).creators = s.creators := rfl
@[simp] theorem storeAt_decs (s : State) (writer a n v : Nat) : (s.storeAt writer a n v).decs = s.decs := rfl
@[simp] theorem storeAt_tenders (s : State) (writer a n v : Nat) : (s.storeAt writer a n v).tenders = s.tenders := rfl
@[simp] theorem storeAt_queues (s : State) (writer a n v : Nat) : (s.storeAt writer a n v).queues = s.queues := rfl
@[simp] theorem storeAt_records (s : State) (writer a n v : Nat) : (s.storeAt writer a n v).records = s.records := rfl
@[simp] theorem storeAt_replicas (s : State) (writer a n v : Nat) : (s.storeAt writer a n v).replicas = s.replicas := rfl
@[simp] theorem storeAt_btops (s : State) (writer a n v : Nat) : (s.storeAt writer a n v).btops = s.btops := rfl
@[simp] theorem storeAt_pkg (s : State) (writer a n v : Nat) : (s.storeAt writer a n v).pkg = s.pkg := rfl
@[simp] theorem storeAt_agenda (s : State) (writer a n v : Nat) : (s.storeAt writer a n v).agenda = s.agenda := rfl
@[simp] theorem storeAt_turns (s : State) (writer a n v : Nat) : (s.storeAt writer a n v).turns = s.turns := rfl
@[simp] theorem storeAt_clk (s : State) (writer a n v : Nat) : (s.storeAt writer a n v).clk = s.clk := rfl
@[simp] theorem storeAt_fresh (s : State) (writer a n v : Nat) : (s.storeAt writer a n v).fresh = s.fresh := rfl
@[simp] theorem storeAt_nextId (s : State) (writer a n v : Nat) : (s.storeAt writer a n v).nextId = s.nextId := rfl

/-! ### shareXM -/

@[simp] theorem shareXM_g (s : State) : s.shareXM.g = { s.g with wx := 0, wm := 0 } := rfl
@[simp] theorem shareXM_mem (s : State) : s.shareXM.mem = s.mem := rfl
@[simp] theorem shareXM_cores (s : State) : s.shareXM.cores = s.cores := rfl
@[simp] theorem shareXM_crews (s : State) : s.shareXM.crews = s.crews := rfl
@[simp] theorem shareXM_tasks (s : State) : s.shareXM.tasks = s.tasks := rfl
@[simp] theorem shareXM_barriers (s : State) : s.shareXM.barriers = s.barriers := rfl
@[simp] theorem shareXM_fes (s : State) : s.shareXM.fes = s.fes := rfl
@[simp] theorem shareXM_armed (s : State) : s.shareXM.armed = s.armed := rfl
@[simp] theorem shareXM_net (s : State) : s.shareXM.net = s.net := rfl
@[simp] theorem shareXM_scq (s : State) : s.shareXM.scq = s.scq := rfl
@[simp] theorem shareXM_owned (s : State) : s.shareXM.owned = s.owned := rfl
@[simp] theorem shareXM_mail (s : State) : s.shareXM.mail = s.mail := rfl
@[simp] theorem shareXM_recvs (s : State) : s.shareXM.recvs = s.recvs := rfl
@[simp] theorem shareXM_tlb (s : State) : s.shareXM.tlb = s.tlb := rfl
@[simp] theorem shareXM_pointers (s : State) : s.shareXM.pointers = s.pointers := rfl
@[simp] theorem shareXM_walks (s : State) : s.shareXM.walks = s.walks := rfl
@[simp] theorem shareXM_misses (s : State) : s.shareXM.misses = s.misses := rfl
@[simp] theorem shareXM_sys (s : State) : s.shareXM.sys = s.sys := rfl
@[simp] theorem shareXM_moor (s : State) : s.shareXM.moor = s.moor := rfl
@[simp] theorem shareXM_stalls (s : State) : s.shareXM.stalls = s.stalls := rfl
@[simp] theorem shareXM_returns (s : State) : s.shareXM.returns = s.returns := rfl
@[simp] theorem shareXM_copies (s : State) : s.shareXM.copies = s.copies := rfl
@[simp] theorem shareXM_arrays (s : State) : s.shareXM.arrays = s.arrays := rfl
@[simp] theorem shareXM_punits (s : State) : s.shareXM.punits = s.punits := rfl
@[simp] theorem shareXM_colls (s : State) : s.shareXM.colls = s.colls := rfl
@[simp] theorem shareXM_stores (s : State) : s.shareXM.stores = s.stores := rfl
@[simp] theorem shareXM_creators (s : State) : s.shareXM.creators = s.creators := rfl
@[simp] theorem shareXM_decs (s : State) : s.shareXM.decs = s.decs := rfl
@[simp] theorem shareXM_tenders (s : State) : s.shareXM.tenders = s.tenders := rfl
@[simp] theorem shareXM_queues (s : State) : s.shareXM.queues = s.queues := rfl
@[simp] theorem shareXM_records (s : State) : s.shareXM.records = s.records := rfl
@[simp] theorem shareXM_replicas (s : State) : s.shareXM.replicas = s.replicas := rfl
@[simp] theorem shareXM_btops (s : State) : s.shareXM.btops = s.btops := rfl
@[simp] theorem shareXM_pkg (s : State) : s.shareXM.pkg = s.pkg := rfl
@[simp] theorem shareXM_agenda (s : State) : s.shareXM.agenda = s.agenda := rfl
@[simp] theorem shareXM_turns (s : State) : s.shareXM.turns = s.turns := rfl
@[simp] theorem shareXM_clk (s : State) : s.shareXM.clk = s.clk := rfl
@[simp] theorem shareXM_fresh (s : State) : s.shareXM.fresh = s.fresh := rfl
@[simp] theorem shareXM_nextId (s : State) : s.shareXM.nextId = s.nextId := rfl

/-! ### shareStreams -/

@[simp] theorem shareStreams_g (s : State) (v : Vector (Option Stream) 8) : (s.shareStreams v).g = { s.g with streams := v } := rfl
@[simp] theorem shareStreams_mem (s : State) (v : Vector (Option Stream) 8) : (s.shareStreams v).mem = s.mem := rfl
@[simp] theorem shareStreams_cores (s : State) (v : Vector (Option Stream) 8) : (s.shareStreams v).cores = s.cores := rfl
@[simp] theorem shareStreams_crews (s : State) (v : Vector (Option Stream) 8) : (s.shareStreams v).crews = s.crews := rfl
@[simp] theorem shareStreams_tasks (s : State) (v : Vector (Option Stream) 8) : (s.shareStreams v).tasks = s.tasks := rfl
@[simp] theorem shareStreams_barriers (s : State) (v : Vector (Option Stream) 8) : (s.shareStreams v).barriers = s.barriers := rfl
@[simp] theorem shareStreams_fes (s : State) (v : Vector (Option Stream) 8) : (s.shareStreams v).fes = s.fes := rfl
@[simp] theorem shareStreams_armed (s : State) (v : Vector (Option Stream) 8) : (s.shareStreams v).armed = s.armed := rfl
@[simp] theorem shareStreams_net (s : State) (v : Vector (Option Stream) 8) : (s.shareStreams v).net = s.net := rfl
@[simp] theorem shareStreams_scq (s : State) (v : Vector (Option Stream) 8) : (s.shareStreams v).scq = s.scq := rfl
@[simp] theorem shareStreams_owned (s : State) (v : Vector (Option Stream) 8) : (s.shareStreams v).owned = s.owned := rfl
@[simp] theorem shareStreams_mail (s : State) (v : Vector (Option Stream) 8) : (s.shareStreams v).mail = s.mail := rfl
@[simp] theorem shareStreams_recvs (s : State) (v : Vector (Option Stream) 8) : (s.shareStreams v).recvs = s.recvs := rfl
@[simp] theorem shareStreams_tlb (s : State) (v : Vector (Option Stream) 8) : (s.shareStreams v).tlb = s.tlb := rfl
@[simp] theorem shareStreams_pointers (s : State) (v : Vector (Option Stream) 8) : (s.shareStreams v).pointers = s.pointers := rfl
@[simp] theorem shareStreams_walks (s : State) (v : Vector (Option Stream) 8) : (s.shareStreams v).walks = s.walks := rfl
@[simp] theorem shareStreams_misses (s : State) (v : Vector (Option Stream) 8) : (s.shareStreams v).misses = s.misses := rfl
@[simp] theorem shareStreams_sys (s : State) (v : Vector (Option Stream) 8) : (s.shareStreams v).sys = s.sys := rfl
@[simp] theorem shareStreams_moor (s : State) (v : Vector (Option Stream) 8) : (s.shareStreams v).moor = s.moor := rfl
@[simp] theorem shareStreams_stalls (s : State) (v : Vector (Option Stream) 8) : (s.shareStreams v).stalls = s.stalls := rfl
@[simp] theorem shareStreams_returns (s : State) (v : Vector (Option Stream) 8) : (s.shareStreams v).returns = s.returns := rfl
@[simp] theorem shareStreams_copies (s : State) (v : Vector (Option Stream) 8) : (s.shareStreams v).copies = s.copies := rfl
@[simp] theorem shareStreams_arrays (s : State) (v : Vector (Option Stream) 8) : (s.shareStreams v).arrays = s.arrays := rfl
@[simp] theorem shareStreams_punits (s : State) (v : Vector (Option Stream) 8) : (s.shareStreams v).punits = s.punits := rfl
@[simp] theorem shareStreams_colls (s : State) (v : Vector (Option Stream) 8) : (s.shareStreams v).colls = s.colls := rfl
@[simp] theorem shareStreams_stores (s : State) (v : Vector (Option Stream) 8) : (s.shareStreams v).stores = s.stores := rfl
@[simp] theorem shareStreams_creators (s : State) (v : Vector (Option Stream) 8) : (s.shareStreams v).creators = s.creators := rfl
@[simp] theorem shareStreams_decs (s : State) (v : Vector (Option Stream) 8) : (s.shareStreams v).decs = s.decs := rfl
@[simp] theorem shareStreams_tenders (s : State) (v : Vector (Option Stream) 8) : (s.shareStreams v).tenders = s.tenders := rfl
@[simp] theorem shareStreams_queues (s : State) (v : Vector (Option Stream) 8) : (s.shareStreams v).queues = s.queues := rfl
@[simp] theorem shareStreams_records (s : State) (v : Vector (Option Stream) 8) : (s.shareStreams v).records = s.records := rfl
@[simp] theorem shareStreams_replicas (s : State) (v : Vector (Option Stream) 8) : (s.shareStreams v).replicas = s.replicas := rfl
@[simp] theorem shareStreams_btops (s : State) (v : Vector (Option Stream) 8) : (s.shareStreams v).btops = s.btops := rfl
@[simp] theorem shareStreams_pkg (s : State) (v : Vector (Option Stream) 8) : (s.shareStreams v).pkg = s.pkg := rfl
@[simp] theorem shareStreams_agenda (s : State) (v : Vector (Option Stream) 8) : (s.shareStreams v).agenda = s.agenda := rfl
@[simp] theorem shareStreams_turns (s : State) (v : Vector (Option Stream) 8) : (s.shareStreams v).turns = s.turns := rfl
@[simp] theorem shareStreams_clk (s : State) (v : Vector (Option Stream) 8) : (s.shareStreams v).clk = s.clk := rfl
@[simp] theorem shareStreams_fresh (s : State) (v : Vector (Option Stream) 8) : (s.shareStreams v).fresh = s.fresh := rfl
@[simp] theorem shareStreams_nextId (s : State) (v : Vector (Option Stream) 8) : (s.shareStreams v).nextId = s.nextId := rfl

/-! ### mapGroup -/

@[simp] theorem mapGroup_mem (s : State) (gid : Nat) (f : Group → Group) : (s.mapGroup gid f).mem = s.mem := by unfold State.mapGroup; split <;> rfl
@[simp] theorem mapGroup_cores (s : State) (gid : Nat) (f : Group → Group) : (s.mapGroup gid f).cores = s.cores := by unfold State.mapGroup; split <;> rfl
@[simp] theorem mapGroup_crews (s : State) (gid : Nat) (f : Group → Group) : (s.mapGroup gid f).crews = s.crews := by unfold State.mapGroup; split <;> rfl
@[simp] theorem mapGroup_tasks (s : State) (gid : Nat) (f : Group → Group) : (s.mapGroup gid f).tasks = s.tasks := by unfold State.mapGroup; split <;> rfl
@[simp] theorem mapGroup_barriers (s : State) (gid : Nat) (f : Group → Group) : (s.mapGroup gid f).barriers = s.barriers := by unfold State.mapGroup; split <;> rfl
@[simp] theorem mapGroup_fes (s : State) (gid : Nat) (f : Group → Group) : (s.mapGroup gid f).fes = s.fes := by unfold State.mapGroup; split <;> rfl
@[simp] theorem mapGroup_armed (s : State) (gid : Nat) (f : Group → Group) : (s.mapGroup gid f).armed = s.armed := by unfold State.mapGroup; split <;> rfl
@[simp] theorem mapGroup_net (s : State) (gid : Nat) (f : Group → Group) : (s.mapGroup gid f).net = s.net := by unfold State.mapGroup; split <;> rfl
@[simp] theorem mapGroup_scq (s : State) (gid : Nat) (f : Group → Group) : (s.mapGroup gid f).scq = s.scq := by unfold State.mapGroup; split <;> rfl
@[simp] theorem mapGroup_owned (s : State) (gid : Nat) (f : Group → Group) : (s.mapGroup gid f).owned = s.owned := by unfold State.mapGroup; split <;> rfl
@[simp] theorem mapGroup_mail (s : State) (gid : Nat) (f : Group → Group) : (s.mapGroup gid f).mail = s.mail := by unfold State.mapGroup; split <;> rfl
@[simp] theorem mapGroup_recvs (s : State) (gid : Nat) (f : Group → Group) : (s.mapGroup gid f).recvs = s.recvs := by unfold State.mapGroup; split <;> rfl
@[simp] theorem mapGroup_tlb (s : State) (gid : Nat) (f : Group → Group) : (s.mapGroup gid f).tlb = s.tlb := by unfold State.mapGroup; split <;> rfl
@[simp] theorem mapGroup_pointers (s : State) (gid : Nat) (f : Group → Group) : (s.mapGroup gid f).pointers = s.pointers := by unfold State.mapGroup; split <;> rfl
@[simp] theorem mapGroup_walks (s : State) (gid : Nat) (f : Group → Group) : (s.mapGroup gid f).walks = s.walks := by unfold State.mapGroup; split <;> rfl
@[simp] theorem mapGroup_misses (s : State) (gid : Nat) (f : Group → Group) : (s.mapGroup gid f).misses = s.misses := by unfold State.mapGroup; split <;> rfl
@[simp] theorem mapGroup_sys (s : State) (gid : Nat) (f : Group → Group) : (s.mapGroup gid f).sys = s.sys := by unfold State.mapGroup; split <;> rfl
@[simp] theorem mapGroup_moor (s : State) (gid : Nat) (f : Group → Group) : (s.mapGroup gid f).moor = s.moor := by unfold State.mapGroup; split <;> rfl
@[simp] theorem mapGroup_stalls (s : State) (gid : Nat) (f : Group → Group) : (s.mapGroup gid f).stalls = s.stalls := by unfold State.mapGroup; split <;> rfl
@[simp] theorem mapGroup_returns (s : State) (gid : Nat) (f : Group → Group) : (s.mapGroup gid f).returns = s.returns := by unfold State.mapGroup; split <;> rfl
@[simp] theorem mapGroup_copies (s : State) (gid : Nat) (f : Group → Group) : (s.mapGroup gid f).copies = s.copies := by unfold State.mapGroup; split <;> rfl
@[simp] theorem mapGroup_arrays (s : State) (gid : Nat) (f : Group → Group) : (s.mapGroup gid f).arrays = s.arrays := by unfold State.mapGroup; split <;> rfl
@[simp] theorem mapGroup_punits (s : State) (gid : Nat) (f : Group → Group) : (s.mapGroup gid f).punits = s.punits := by unfold State.mapGroup; split <;> rfl
@[simp] theorem mapGroup_colls (s : State) (gid : Nat) (f : Group → Group) : (s.mapGroup gid f).colls = s.colls := by unfold State.mapGroup; split <;> rfl
@[simp] theorem mapGroup_stores (s : State) (gid : Nat) (f : Group → Group) : (s.mapGroup gid f).stores = s.stores := by unfold State.mapGroup; split <;> rfl
@[simp] theorem mapGroup_creators (s : State) (gid : Nat) (f : Group → Group) : (s.mapGroup gid f).creators = s.creators := by unfold State.mapGroup; split <;> rfl
@[simp] theorem mapGroup_decs (s : State) (gid : Nat) (f : Group → Group) : (s.mapGroup gid f).decs = s.decs := by unfold State.mapGroup; split <;> rfl
@[simp] theorem mapGroup_tenders (s : State) (gid : Nat) (f : Group → Group) : (s.mapGroup gid f).tenders = s.tenders := by unfold State.mapGroup; split <;> rfl
@[simp] theorem mapGroup_queues (s : State) (gid : Nat) (f : Group → Group) : (s.mapGroup gid f).queues = s.queues := by unfold State.mapGroup; split <;> rfl
@[simp] theorem mapGroup_records (s : State) (gid : Nat) (f : Group → Group) : (s.mapGroup gid f).records = s.records := by unfold State.mapGroup; split <;> rfl
@[simp] theorem mapGroup_replicas (s : State) (gid : Nat) (f : Group → Group) : (s.mapGroup gid f).replicas = s.replicas := by unfold State.mapGroup; split <;> rfl
@[simp] theorem mapGroup_btops (s : State) (gid : Nat) (f : Group → Group) : (s.mapGroup gid f).btops = s.btops := by unfold State.mapGroup; split <;> rfl
@[simp] theorem mapGroup_pkg (s : State) (gid : Nat) (f : Group → Group) : (s.mapGroup gid f).pkg = s.pkg := by unfold State.mapGroup; split <;> rfl
@[simp] theorem mapGroup_agenda (s : State) (gid : Nat) (f : Group → Group) : (s.mapGroup gid f).agenda = s.agenda := by unfold State.mapGroup; split <;> rfl
@[simp] theorem mapGroup_turns (s : State) (gid : Nat) (f : Group → Group) : (s.mapGroup gid f).turns = s.turns := by unfold State.mapGroup; split <;> rfl
@[simp] theorem mapGroup_clk (s : State) (gid : Nat) (f : Group → Group) : (s.mapGroup gid f).clk = s.clk := by unfold State.mapGroup; split <;> rfl
@[simp] theorem mapGroup_fresh (s : State) (gid : Nat) (f : Group → Group) : (s.mapGroup gid f).fresh = s.fresh := by unfold State.mapGroup; split <;> rfl
@[simp] theorem mapGroup_nextId (s : State) (gid : Nat) (f : Group → Group) : (s.mapGroup gid f).nextId = s.nextId := by unfold State.mapGroup; split <;> rfl

/-! ### mapCore -/

@[simp] theorem mapCore_g (s : State) (n : Nat) (f : Core → Core) : (s.mapCore n f).g = s.g := by unfold State.mapCore; split <;> rfl
@[simp] theorem mapCore_groups (s : State) (n : Nat) (f : Core → Core) : (s.mapCore n f).groups = s.groups := by unfold State.mapCore; split <;> rfl
@[simp] theorem mapCore_mem (s : State) (n : Nat) (f : Core → Core) : (s.mapCore n f).mem = s.mem := by unfold State.mapCore; split <;> rfl
@[simp] theorem mapCore_crews (s : State) (n : Nat) (f : Core → Core) : (s.mapCore n f).crews = s.crews := by unfold State.mapCore; split <;> rfl
@[simp] theorem mapCore_tasks (s : State) (n : Nat) (f : Core → Core) : (s.mapCore n f).tasks = s.tasks := by unfold State.mapCore; split <;> rfl
@[simp] theorem mapCore_barriers (s : State) (n : Nat) (f : Core → Core) : (s.mapCore n f).barriers = s.barriers := by unfold State.mapCore; split <;> rfl
@[simp] theorem mapCore_fes (s : State) (n : Nat) (f : Core → Core) : (s.mapCore n f).fes = s.fes := by unfold State.mapCore; split <;> rfl
@[simp] theorem mapCore_armed (s : State) (n : Nat) (f : Core → Core) : (s.mapCore n f).armed = s.armed := by unfold State.mapCore; split <;> rfl
@[simp] theorem mapCore_net (s : State) (n : Nat) (f : Core → Core) : (s.mapCore n f).net = s.net := by unfold State.mapCore; split <;> rfl
@[simp] theorem mapCore_scq (s : State) (n : Nat) (f : Core → Core) : (s.mapCore n f).scq = s.scq := by unfold State.mapCore; split <;> rfl
@[simp] theorem mapCore_owned (s : State) (n : Nat) (f : Core → Core) : (s.mapCore n f).owned = s.owned := by unfold State.mapCore; split <;> rfl
@[simp] theorem mapCore_mail (s : State) (n : Nat) (f : Core → Core) : (s.mapCore n f).mail = s.mail := by unfold State.mapCore; split <;> rfl
@[simp] theorem mapCore_recvs (s : State) (n : Nat) (f : Core → Core) : (s.mapCore n f).recvs = s.recvs := by unfold State.mapCore; split <;> rfl
@[simp] theorem mapCore_tlb (s : State) (n : Nat) (f : Core → Core) : (s.mapCore n f).tlb = s.tlb := by unfold State.mapCore; split <;> rfl
@[simp] theorem mapCore_pointers (s : State) (n : Nat) (f : Core → Core) : (s.mapCore n f).pointers = s.pointers := by unfold State.mapCore; split <;> rfl
@[simp] theorem mapCore_walks (s : State) (n : Nat) (f : Core → Core) : (s.mapCore n f).walks = s.walks := by unfold State.mapCore; split <;> rfl
@[simp] theorem mapCore_misses (s : State) (n : Nat) (f : Core → Core) : (s.mapCore n f).misses = s.misses := by unfold State.mapCore; split <;> rfl
@[simp] theorem mapCore_sys (s : State) (n : Nat) (f : Core → Core) : (s.mapCore n f).sys = s.sys := by unfold State.mapCore; split <;> rfl
@[simp] theorem mapCore_moor (s : State) (n : Nat) (f : Core → Core) : (s.mapCore n f).moor = s.moor := by unfold State.mapCore; split <;> rfl
@[simp] theorem mapCore_stalls (s : State) (n : Nat) (f : Core → Core) : (s.mapCore n f).stalls = s.stalls := by unfold State.mapCore; split <;> rfl
@[simp] theorem mapCore_returns (s : State) (n : Nat) (f : Core → Core) : (s.mapCore n f).returns = s.returns := by unfold State.mapCore; split <;> rfl
@[simp] theorem mapCore_copies (s : State) (n : Nat) (f : Core → Core) : (s.mapCore n f).copies = s.copies := by unfold State.mapCore; split <;> rfl
@[simp] theorem mapCore_arrays (s : State) (n : Nat) (f : Core → Core) : (s.mapCore n f).arrays = s.arrays := by unfold State.mapCore; split <;> rfl
@[simp] theorem mapCore_punits (s : State) (n : Nat) (f : Core → Core) : (s.mapCore n f).punits = s.punits := by unfold State.mapCore; split <;> rfl
@[simp] theorem mapCore_colls (s : State) (n : Nat) (f : Core → Core) : (s.mapCore n f).colls = s.colls := by unfold State.mapCore; split <;> rfl
@[simp] theorem mapCore_stores (s : State) (n : Nat) (f : Core → Core) : (s.mapCore n f).stores = s.stores := by unfold State.mapCore; split <;> rfl
@[simp] theorem mapCore_creators (s : State) (n : Nat) (f : Core → Core) : (s.mapCore n f).creators = s.creators := by unfold State.mapCore; split <;> rfl
@[simp] theorem mapCore_decs (s : State) (n : Nat) (f : Core → Core) : (s.mapCore n f).decs = s.decs := by unfold State.mapCore; split <;> rfl
@[simp] theorem mapCore_tenders (s : State) (n : Nat) (f : Core → Core) : (s.mapCore n f).tenders = s.tenders := by unfold State.mapCore; split <;> rfl
@[simp] theorem mapCore_queues (s : State) (n : Nat) (f : Core → Core) : (s.mapCore n f).queues = s.queues := by unfold State.mapCore; split <;> rfl
@[simp] theorem mapCore_records (s : State) (n : Nat) (f : Core → Core) : (s.mapCore n f).records = s.records := by unfold State.mapCore; split <;> rfl
@[simp] theorem mapCore_replicas (s : State) (n : Nat) (f : Core → Core) : (s.mapCore n f).replicas = s.replicas := by unfold State.mapCore; split <;> rfl
@[simp] theorem mapCore_btops (s : State) (n : Nat) (f : Core → Core) : (s.mapCore n f).btops = s.btops := by unfold State.mapCore; split <;> rfl
@[simp] theorem mapCore_pkg (s : State) (n : Nat) (f : Core → Core) : (s.mapCore n f).pkg = s.pkg := by unfold State.mapCore; split <;> rfl
@[simp] theorem mapCore_agenda (s : State) (n : Nat) (f : Core → Core) : (s.mapCore n f).agenda = s.agenda := by unfold State.mapCore; split <;> rfl
@[simp] theorem mapCore_turns (s : State) (n : Nat) (f : Core → Core) : (s.mapCore n f).turns = s.turns := by unfold State.mapCore; split <;> rfl
@[simp] theorem mapCore_clk (s : State) (n : Nat) (f : Core → Core) : (s.mapCore n f).clk = s.clk := by unfold State.mapCore; split <;> rfl
@[simp] theorem mapCore_fresh (s : State) (n : Nat) (f : Core → Core) : (s.mapCore n f).fresh = s.fresh := by unfold State.mapCore; split <;> rfl
@[simp] theorem mapCore_nextId (s : State) (n : Nat) (f : Core → Core) : (s.mapCore n f).nextId = s.nextId := by unfold State.mapCore; split <;> rfl

/-! ### mapCrew -/

@[simp] theorem mapCrew_g (s : State) (id : Nat) (f : Crew → Crew) : (s.mapCrew id f).g = s.g := rfl
@[simp] theorem mapCrew_groups (s : State) (id : Nat) (f : Crew → Crew) : (s.mapCrew id f).groups = s.groups := rfl
@[simp] theorem mapCrew_mem (s : State) (id : Nat) (f : Crew → Crew) : (s.mapCrew id f).mem = s.mem := rfl
@[simp] theorem mapCrew_cores (s : State) (id : Nat) (f : Crew → Crew) : (s.mapCrew id f).cores = s.cores := rfl
@[simp] theorem mapCrew_crews (s : State) (id : Nat) (f : Crew → Crew) : (s.mapCrew id f).crews = s.crews.map fun c => if c.id = id then f c else c := rfl
@[simp] theorem mapCrew_tasks (s : State) (id : Nat) (f : Crew → Crew) : (s.mapCrew id f).tasks = s.tasks := rfl
@[simp] theorem mapCrew_barriers (s : State) (id : Nat) (f : Crew → Crew) : (s.mapCrew id f).barriers = s.barriers := rfl
@[simp] theorem mapCrew_fes (s : State) (id : Nat) (f : Crew → Crew) : (s.mapCrew id f).fes = s.fes := rfl
@[simp] theorem mapCrew_armed (s : State) (id : Nat) (f : Crew → Crew) : (s.mapCrew id f).armed = s.armed := rfl
@[simp] theorem mapCrew_net (s : State) (id : Nat) (f : Crew → Crew) : (s.mapCrew id f).net = s.net := rfl
@[simp] theorem mapCrew_scq (s : State) (id : Nat) (f : Crew → Crew) : (s.mapCrew id f).scq = s.scq := rfl
@[simp] theorem mapCrew_owned (s : State) (id : Nat) (f : Crew → Crew) : (s.mapCrew id f).owned = s.owned := rfl
@[simp] theorem mapCrew_mail (s : State) (id : Nat) (f : Crew → Crew) : (s.mapCrew id f).mail = s.mail := rfl
@[simp] theorem mapCrew_recvs (s : State) (id : Nat) (f : Crew → Crew) : (s.mapCrew id f).recvs = s.recvs := rfl
@[simp] theorem mapCrew_tlb (s : State) (id : Nat) (f : Crew → Crew) : (s.mapCrew id f).tlb = s.tlb := rfl
@[simp] theorem mapCrew_pointers (s : State) (id : Nat) (f : Crew → Crew) : (s.mapCrew id f).pointers = s.pointers := rfl
@[simp] theorem mapCrew_walks (s : State) (id : Nat) (f : Crew → Crew) : (s.mapCrew id f).walks = s.walks := rfl
@[simp] theorem mapCrew_misses (s : State) (id : Nat) (f : Crew → Crew) : (s.mapCrew id f).misses = s.misses := rfl
@[simp] theorem mapCrew_sys (s : State) (id : Nat) (f : Crew → Crew) : (s.mapCrew id f).sys = s.sys := rfl
@[simp] theorem mapCrew_moor (s : State) (id : Nat) (f : Crew → Crew) : (s.mapCrew id f).moor = s.moor := rfl
@[simp] theorem mapCrew_stalls (s : State) (id : Nat) (f : Crew → Crew) : (s.mapCrew id f).stalls = s.stalls := rfl
@[simp] theorem mapCrew_returns (s : State) (id : Nat) (f : Crew → Crew) : (s.mapCrew id f).returns = s.returns := rfl
@[simp] theorem mapCrew_copies (s : State) (id : Nat) (f : Crew → Crew) : (s.mapCrew id f).copies = s.copies := rfl
@[simp] theorem mapCrew_arrays (s : State) (id : Nat) (f : Crew → Crew) : (s.mapCrew id f).arrays = s.arrays := rfl
@[simp] theorem mapCrew_punits (s : State) (id : Nat) (f : Crew → Crew) : (s.mapCrew id f).punits = s.punits := rfl
@[simp] theorem mapCrew_colls (s : State) (id : Nat) (f : Crew → Crew) : (s.mapCrew id f).colls = s.colls := rfl
@[simp] theorem mapCrew_stores (s : State) (id : Nat) (f : Crew → Crew) : (s.mapCrew id f).stores = s.stores := rfl
@[simp] theorem mapCrew_creators (s : State) (id : Nat) (f : Crew → Crew) : (s.mapCrew id f).creators = s.creators := rfl
@[simp] theorem mapCrew_decs (s : State) (id : Nat) (f : Crew → Crew) : (s.mapCrew id f).decs = s.decs := rfl
@[simp] theorem mapCrew_tenders (s : State) (id : Nat) (f : Crew → Crew) : (s.mapCrew id f).tenders = s.tenders := rfl
@[simp] theorem mapCrew_queues (s : State) (id : Nat) (f : Crew → Crew) : (s.mapCrew id f).queues = s.queues := rfl
@[simp] theorem mapCrew_records (s : State) (id : Nat) (f : Crew → Crew) : (s.mapCrew id f).records = s.records := rfl
@[simp] theorem mapCrew_replicas (s : State) (id : Nat) (f : Crew → Crew) : (s.mapCrew id f).replicas = s.replicas := rfl
@[simp] theorem mapCrew_btops (s : State) (id : Nat) (f : Crew → Crew) : (s.mapCrew id f).btops = s.btops := rfl
@[simp] theorem mapCrew_pkg (s : State) (id : Nat) (f : Crew → Crew) : (s.mapCrew id f).pkg = s.pkg := rfl
@[simp] theorem mapCrew_agenda (s : State) (id : Nat) (f : Crew → Crew) : (s.mapCrew id f).agenda = s.agenda := rfl
@[simp] theorem mapCrew_turns (s : State) (id : Nat) (f : Crew → Crew) : (s.mapCrew id f).turns = s.turns := rfl
@[simp] theorem mapCrew_clk (s : State) (id : Nat) (f : Crew → Crew) : (s.mapCrew id f).clk = s.clk := rfl
@[simp] theorem mapCrew_fresh (s : State) (id : Nat) (f : Crew → Crew) : (s.mapCrew id f).fresh = s.fresh := rfl
@[simp] theorem mapCrew_nextId (s : State) (id : Nat) (f : Crew → Crew) : (s.mapCrew id f).nextId = s.nextId := rfl

/-! ### mapTask -/

@[simp] theorem mapTask_g (s : State) (id : Nat) (f : Task → Task) : (s.mapTask id f).g = s.g := rfl
@[simp] theorem mapTask_groups (s : State) (id : Nat) (f : Task → Task) : (s.mapTask id f).groups = s.groups := rfl
@[simp] theorem mapTask_mem (s : State) (id : Nat) (f : Task → Task) : (s.mapTask id f).mem = s.mem := rfl
@[simp] theorem mapTask_cores (s : State) (id : Nat) (f : Task → Task) : (s.mapTask id f).cores = s.cores := rfl
@[simp] theorem mapTask_crews (s : State) (id : Nat) (f : Task → Task) : (s.mapTask id f).crews = s.crews := rfl
@[simp] theorem mapTask_barriers (s : State) (id : Nat) (f : Task → Task) : (s.mapTask id f).barriers = s.barriers := rfl
@[simp] theorem mapTask_fes (s : State) (id : Nat) (f : Task → Task) : (s.mapTask id f).fes = s.fes := rfl
@[simp] theorem mapTask_armed (s : State) (id : Nat) (f : Task → Task) : (s.mapTask id f).armed = s.armed := rfl
@[simp] theorem mapTask_net (s : State) (id : Nat) (f : Task → Task) : (s.mapTask id f).net = s.net := rfl
@[simp] theorem mapTask_scq (s : State) (id : Nat) (f : Task → Task) : (s.mapTask id f).scq = s.scq := rfl
@[simp] theorem mapTask_owned (s : State) (id : Nat) (f : Task → Task) : (s.mapTask id f).owned = s.owned := rfl
@[simp] theorem mapTask_mail (s : State) (id : Nat) (f : Task → Task) : (s.mapTask id f).mail = s.mail := rfl
@[simp] theorem mapTask_recvs (s : State) (id : Nat) (f : Task → Task) : (s.mapTask id f).recvs = s.recvs := rfl
@[simp] theorem mapTask_tlb (s : State) (id : Nat) (f : Task → Task) : (s.mapTask id f).tlb = s.tlb := rfl
@[simp] theorem mapTask_pointers (s : State) (id : Nat) (f : Task → Task) : (s.mapTask id f).pointers = s.pointers := rfl
@[simp] theorem mapTask_walks (s : State) (id : Nat) (f : Task → Task) : (s.mapTask id f).walks = s.walks := rfl
@[simp] theorem mapTask_misses (s : State) (id : Nat) (f : Task → Task) : (s.mapTask id f).misses = s.misses := rfl
@[simp] theorem mapTask_sys (s : State) (id : Nat) (f : Task → Task) : (s.mapTask id f).sys = s.sys := rfl
@[simp] theorem mapTask_moor (s : State) (id : Nat) (f : Task → Task) : (s.mapTask id f).moor = s.moor := rfl
@[simp] theorem mapTask_stalls (s : State) (id : Nat) (f : Task → Task) : (s.mapTask id f).stalls = s.stalls := rfl
@[simp] theorem mapTask_returns (s : State) (id : Nat) (f : Task → Task) : (s.mapTask id f).returns = s.returns := rfl
@[simp] theorem mapTask_copies (s : State) (id : Nat) (f : Task → Task) : (s.mapTask id f).copies = s.copies := rfl
@[simp] theorem mapTask_arrays (s : State) (id : Nat) (f : Task → Task) : (s.mapTask id f).arrays = s.arrays := rfl
@[simp] theorem mapTask_punits (s : State) (id : Nat) (f : Task → Task) : (s.mapTask id f).punits = s.punits := rfl
@[simp] theorem mapTask_colls (s : State) (id : Nat) (f : Task → Task) : (s.mapTask id f).colls = s.colls := rfl
@[simp] theorem mapTask_stores (s : State) (id : Nat) (f : Task → Task) : (s.mapTask id f).stores = s.stores := rfl
@[simp] theorem mapTask_creators (s : State) (id : Nat) (f : Task → Task) : (s.mapTask id f).creators = s.creators := rfl
@[simp] theorem mapTask_decs (s : State) (id : Nat) (f : Task → Task) : (s.mapTask id f).decs = s.decs := rfl
@[simp] theorem mapTask_tenders (s : State) (id : Nat) (f : Task → Task) : (s.mapTask id f).tenders = s.tenders := rfl
@[simp] theorem mapTask_queues (s : State) (id : Nat) (f : Task → Task) : (s.mapTask id f).queues = s.queues := rfl
@[simp] theorem mapTask_records (s : State) (id : Nat) (f : Task → Task) : (s.mapTask id f).records = s.records := rfl
@[simp] theorem mapTask_replicas (s : State) (id : Nat) (f : Task → Task) : (s.mapTask id f).replicas = s.replicas := rfl
@[simp] theorem mapTask_btops (s : State) (id : Nat) (f : Task → Task) : (s.mapTask id f).btops = s.btops := rfl
@[simp] theorem mapTask_pkg (s : State) (id : Nat) (f : Task → Task) : (s.mapTask id f).pkg = s.pkg := rfl
@[simp] theorem mapTask_agenda (s : State) (id : Nat) (f : Task → Task) : (s.mapTask id f).agenda = s.agenda := rfl
@[simp] theorem mapTask_turns (s : State) (id : Nat) (f : Task → Task) : (s.mapTask id f).turns = s.turns := rfl
@[simp] theorem mapTask_clk (s : State) (id : Nat) (f : Task → Task) : (s.mapTask id f).clk = s.clk := rfl
@[simp] theorem mapTask_fresh (s : State) (id : Nat) (f : Task → Task) : (s.mapTask id f).fresh = s.fresh := rfl
@[simp] theorem mapTask_nextId (s : State) (id : Nat) (f : Task → Task) : (s.mapTask id f).nextId = s.nextId := rfl

/-! ### mapCtx -/

@[simp] theorem mapCtx_g (s : State) (id : Nat) (f : Ctx → Ctx) : (s.mapCtx id f).g = s.g := rfl
@[simp] theorem mapCtx_groups (s : State) (id : Nat) (f : Ctx → Ctx) : (s.mapCtx id f).groups = s.groups := rfl
@[simp] theorem mapCtx_mem (s : State) (id : Nat) (f : Ctx → Ctx) : (s.mapCtx id f).mem = s.mem := rfl
@[simp] theorem mapCtx_cores (s : State) (id : Nat) (f : Ctx → Ctx) : (s.mapCtx id f).cores = s.cores := rfl
@[simp] theorem mapCtx_crews (s : State) (id : Nat) (f : Ctx → Ctx) : (s.mapCtx id f).crews = s.crews := rfl
@[simp] theorem mapCtx_tasks (s : State) (id : Nat) (f : Ctx → Ctx) : (s.mapCtx id f).tasks = s.tasks := rfl
@[simp] theorem mapCtx_barriers (s : State) (id : Nat) (f : Ctx → Ctx) : (s.mapCtx id f).barriers = s.barriers := rfl
@[simp] theorem mapCtx_fes (s : State) (id : Nat) (f : Ctx → Ctx) : (s.mapCtx id f).fes = s.fes := rfl
@[simp] theorem mapCtx_armed (s : State) (id : Nat) (f : Ctx → Ctx) : (s.mapCtx id f).armed = s.armed := rfl
@[simp] theorem mapCtx_net (s : State) (id : Nat) (f : Ctx → Ctx) : (s.mapCtx id f).net = s.net := rfl
@[simp] theorem mapCtx_scq (s : State) (id : Nat) (f : Ctx → Ctx) : (s.mapCtx id f).scq = s.scq := rfl
@[simp] theorem mapCtx_owned (s : State) (id : Nat) (f : Ctx → Ctx) : (s.mapCtx id f).owned = s.owned := rfl
@[simp] theorem mapCtx_mail (s : State) (id : Nat) (f : Ctx → Ctx) : (s.mapCtx id f).mail = s.mail := rfl
@[simp] theorem mapCtx_recvs (s : State) (id : Nat) (f : Ctx → Ctx) : (s.mapCtx id f).recvs = s.recvs := rfl
@[simp] theorem mapCtx_tlb (s : State) (id : Nat) (f : Ctx → Ctx) : (s.mapCtx id f).tlb = s.tlb := rfl
@[simp] theorem mapCtx_pointers (s : State) (id : Nat) (f : Ctx → Ctx) : (s.mapCtx id f).pointers = s.pointers := rfl
@[simp] theorem mapCtx_walks (s : State) (id : Nat) (f : Ctx → Ctx) : (s.mapCtx id f).walks = s.walks := rfl
@[simp] theorem mapCtx_misses (s : State) (id : Nat) (f : Ctx → Ctx) : (s.mapCtx id f).misses = s.misses := rfl
@[simp] theorem mapCtx_sys (s : State) (id : Nat) (f : Ctx → Ctx) : (s.mapCtx id f).sys = s.sys := rfl
@[simp] theorem mapCtx_moor (s : State) (id : Nat) (f : Ctx → Ctx) : (s.mapCtx id f).moor = s.moor := rfl
@[simp] theorem mapCtx_stalls (s : State) (id : Nat) (f : Ctx → Ctx) : (s.mapCtx id f).stalls = s.stalls := rfl
@[simp] theorem mapCtx_returns (s : State) (id : Nat) (f : Ctx → Ctx) : (s.mapCtx id f).returns = s.returns := rfl
@[simp] theorem mapCtx_copies (s : State) (id : Nat) (f : Ctx → Ctx) : (s.mapCtx id f).copies = s.copies := rfl
@[simp] theorem mapCtx_arrays (s : State) (id : Nat) (f : Ctx → Ctx) : (s.mapCtx id f).arrays = s.arrays := rfl
@[simp] theorem mapCtx_punits (s : State) (id : Nat) (f : Ctx → Ctx) : (s.mapCtx id f).punits = s.punits := rfl
@[simp] theorem mapCtx_colls (s : State) (id : Nat) (f : Ctx → Ctx) : (s.mapCtx id f).colls = s.colls := rfl
@[simp] theorem mapCtx_stores (s : State) (id : Nat) (f : Ctx → Ctx) : (s.mapCtx id f).stores = s.stores := rfl
@[simp] theorem mapCtx_creators (s : State) (id : Nat) (f : Ctx → Ctx) : (s.mapCtx id f).creators = s.creators := rfl
@[simp] theorem mapCtx_decs (s : State) (id : Nat) (f : Ctx → Ctx) : (s.mapCtx id f).decs = s.decs := rfl
@[simp] theorem mapCtx_tenders (s : State) (id : Nat) (f : Ctx → Ctx) : (s.mapCtx id f).tenders = s.tenders := rfl
@[simp] theorem mapCtx_queues (s : State) (id : Nat) (f : Ctx → Ctx) : (s.mapCtx id f).queues = s.queues := rfl
@[simp] theorem mapCtx_records (s : State) (id : Nat) (f : Ctx → Ctx) : (s.mapCtx id f).records = s.records := rfl
@[simp] theorem mapCtx_replicas (s : State) (id : Nat) (f : Ctx → Ctx) : (s.mapCtx id f).replicas = s.replicas := rfl
@[simp] theorem mapCtx_btops (s : State) (id : Nat) (f : Ctx → Ctx) : (s.mapCtx id f).btops = s.btops := rfl
@[simp] theorem mapCtx_agenda (s : State) (id : Nat) (f : Ctx → Ctx) : (s.mapCtx id f).agenda = s.agenda := rfl
@[simp] theorem mapCtx_turns (s : State) (id : Nat) (f : Ctx → Ctx) : (s.mapCtx id f).turns = s.turns := rfl
@[simp] theorem mapCtx_clk (s : State) (id : Nat) (f : Ctx → Ctx) : (s.mapCtx id f).clk = s.clk := rfl
@[simp] theorem mapCtx_fresh (s : State) (id : Nat) (f : Ctx → Ctx) : (s.mapCtx id f).fresh = s.fresh := rfl
@[simp] theorem mapCtx_nextId (s : State) (id : Nat) (f : Ctx → Ctx) : (s.mapCtx id f).nextId = s.nextId := rfl

/-! ### mapFn -/

@[simp] theorem mapFn_g (s : State) (n : Nat) (f : PcieFn → PcieFn) : (s.mapFn n f).g = s.g := rfl
@[simp] theorem mapFn_groups (s : State) (n : Nat) (f : PcieFn → PcieFn) : (s.mapFn n f).groups = s.groups := rfl
@[simp] theorem mapFn_mem (s : State) (n : Nat) (f : PcieFn → PcieFn) : (s.mapFn n f).mem = s.mem := rfl
@[simp] theorem mapFn_cores (s : State) (n : Nat) (f : PcieFn → PcieFn) : (s.mapFn n f).cores = s.cores := rfl
@[simp] theorem mapFn_crews (s : State) (n : Nat) (f : PcieFn → PcieFn) : (s.mapFn n f).crews = s.crews := rfl
@[simp] theorem mapFn_tasks (s : State) (n : Nat) (f : PcieFn → PcieFn) : (s.mapFn n f).tasks = s.tasks := rfl
@[simp] theorem mapFn_barriers (s : State) (n : Nat) (f : PcieFn → PcieFn) : (s.mapFn n f).barriers = s.barriers := rfl
@[simp] theorem mapFn_fes (s : State) (n : Nat) (f : PcieFn → PcieFn) : (s.mapFn n f).fes = s.fes := rfl
@[simp] theorem mapFn_armed (s : State) (n : Nat) (f : PcieFn → PcieFn) : (s.mapFn n f).armed = s.armed := rfl
@[simp] theorem mapFn_net (s : State) (n : Nat) (f : PcieFn → PcieFn) : (s.mapFn n f).net = s.net := rfl
@[simp] theorem mapFn_scq (s : State) (n : Nat) (f : PcieFn → PcieFn) : (s.mapFn n f).scq = s.scq := rfl
@[simp] theorem mapFn_owned (s : State) (n : Nat) (f : PcieFn → PcieFn) : (s.mapFn n f).owned = s.owned := rfl
@[simp] theorem mapFn_mail (s : State) (n : Nat) (f : PcieFn → PcieFn) : (s.mapFn n f).mail = s.mail := rfl
@[simp] theorem mapFn_recvs (s : State) (n : Nat) (f : PcieFn → PcieFn) : (s.mapFn n f).recvs = s.recvs := rfl
@[simp] theorem mapFn_tlb (s : State) (n : Nat) (f : PcieFn → PcieFn) : (s.mapFn n f).tlb = s.tlb := rfl
@[simp] theorem mapFn_pointers (s : State) (n : Nat) (f : PcieFn → PcieFn) : (s.mapFn n f).pointers = s.pointers := rfl
@[simp] theorem mapFn_walks (s : State) (n : Nat) (f : PcieFn → PcieFn) : (s.mapFn n f).walks = s.walks := rfl
@[simp] theorem mapFn_misses (s : State) (n : Nat) (f : PcieFn → PcieFn) : (s.mapFn n f).misses = s.misses := rfl
@[simp] theorem mapFn_sys (s : State) (n : Nat) (f : PcieFn → PcieFn) : (s.mapFn n f).sys = s.sys := rfl
@[simp] theorem mapFn_moor (s : State) (n : Nat) (f : PcieFn → PcieFn) : (s.mapFn n f).moor = s.moor := rfl
@[simp] theorem mapFn_stalls (s : State) (n : Nat) (f : PcieFn → PcieFn) : (s.mapFn n f).stalls = s.stalls := rfl
@[simp] theorem mapFn_returns (s : State) (n : Nat) (f : PcieFn → PcieFn) : (s.mapFn n f).returns = s.returns := rfl
@[simp] theorem mapFn_copies (s : State) (n : Nat) (f : PcieFn → PcieFn) : (s.mapFn n f).copies = s.copies := rfl
@[simp] theorem mapFn_arrays (s : State) (n : Nat) (f : PcieFn → PcieFn) : (s.mapFn n f).arrays = s.arrays := rfl
@[simp] theorem mapFn_punits (s : State) (n : Nat) (f : PcieFn → PcieFn) : (s.mapFn n f).punits = s.punits := rfl
@[simp] theorem mapFn_colls (s : State) (n : Nat) (f : PcieFn → PcieFn) : (s.mapFn n f).colls = s.colls := rfl
@[simp] theorem mapFn_stores (s : State) (n : Nat) (f : PcieFn → PcieFn) : (s.mapFn n f).stores = s.stores := rfl
@[simp] theorem mapFn_creators (s : State) (n : Nat) (f : PcieFn → PcieFn) : (s.mapFn n f).creators = s.creators := rfl
@[simp] theorem mapFn_decs (s : State) (n : Nat) (f : PcieFn → PcieFn) : (s.mapFn n f).decs = s.decs := rfl
@[simp] theorem mapFn_tenders (s : State) (n : Nat) (f : PcieFn → PcieFn) : (s.mapFn n f).tenders = s.tenders := rfl
@[simp] theorem mapFn_queues (s : State) (n : Nat) (f : PcieFn → PcieFn) : (s.mapFn n f).queues = s.queues := rfl
@[simp] theorem mapFn_records (s : State) (n : Nat) (f : PcieFn → PcieFn) : (s.mapFn n f).records = s.records := rfl
@[simp] theorem mapFn_replicas (s : State) (n : Nat) (f : PcieFn → PcieFn) : (s.mapFn n f).replicas = s.replicas := rfl
@[simp] theorem mapFn_btops (s : State) (n : Nat) (f : PcieFn → PcieFn) : (s.mapFn n f).btops = s.btops := rfl
@[simp] theorem mapFn_agenda (s : State) (n : Nat) (f : PcieFn → PcieFn) : (s.mapFn n f).agenda = s.agenda := rfl
@[simp] theorem mapFn_turns (s : State) (n : Nat) (f : PcieFn → PcieFn) : (s.mapFn n f).turns = s.turns := rfl
@[simp] theorem mapFn_clk (s : State) (n : Nat) (f : PcieFn → PcieFn) : (s.mapFn n f).clk = s.clk := rfl
@[simp] theorem mapFn_fresh (s : State) (n : Nat) (f : PcieFn → PcieFn) : (s.mapFn n f).fresh = s.fresh := rfl
@[simp] theorem mapFn_nextId (s : State) (n : Nat) (f : PcieFn → PcieFn) : (s.mapFn n f).nextId = s.nextId := rfl

/-! ### mapLight -/

@[simp] theorem mapLight_g (s : State) (n : Nat) (f : Light → Light) : (s.mapLight n f).g = s.g := rfl
@[simp] theorem mapLight_groups (s : State) (n : Nat) (f : Light → Light) : (s.mapLight n f).groups = s.groups := rfl
@[simp] theorem mapLight_mem (s : State) (n : Nat) (f : Light → Light) : (s.mapLight n f).mem = s.mem := rfl
@[simp] theorem mapLight_cores (s : State) (n : Nat) (f : Light → Light) : (s.mapLight n f).cores = s.cores := rfl
@[simp] theorem mapLight_crews (s : State) (n : Nat) (f : Light → Light) : (s.mapLight n f).crews = s.crews := rfl
@[simp] theorem mapLight_tasks (s : State) (n : Nat) (f : Light → Light) : (s.mapLight n f).tasks = s.tasks := rfl
@[simp] theorem mapLight_barriers (s : State) (n : Nat) (f : Light → Light) : (s.mapLight n f).barriers = s.barriers := rfl
@[simp] theorem mapLight_fes (s : State) (n : Nat) (f : Light → Light) : (s.mapLight n f).fes = s.fes := rfl
@[simp] theorem mapLight_armed (s : State) (n : Nat) (f : Light → Light) : (s.mapLight n f).armed = s.armed := rfl
@[simp] theorem mapLight_net (s : State) (n : Nat) (f : Light → Light) : (s.mapLight n f).net = s.net := rfl
@[simp] theorem mapLight_scq (s : State) (n : Nat) (f : Light → Light) : (s.mapLight n f).scq = s.scq := rfl
@[simp] theorem mapLight_owned (s : State) (n : Nat) (f : Light → Light) : (s.mapLight n f).owned = s.owned := rfl
@[simp] theorem mapLight_mail (s : State) (n : Nat) (f : Light → Light) : (s.mapLight n f).mail = s.mail := rfl
@[simp] theorem mapLight_recvs (s : State) (n : Nat) (f : Light → Light) : (s.mapLight n f).recvs = s.recvs := rfl
@[simp] theorem mapLight_tlb (s : State) (n : Nat) (f : Light → Light) : (s.mapLight n f).tlb = s.tlb := rfl
@[simp] theorem mapLight_pointers (s : State) (n : Nat) (f : Light → Light) : (s.mapLight n f).pointers = s.pointers := rfl
@[simp] theorem mapLight_walks (s : State) (n : Nat) (f : Light → Light) : (s.mapLight n f).walks = s.walks := rfl
@[simp] theorem mapLight_misses (s : State) (n : Nat) (f : Light → Light) : (s.mapLight n f).misses = s.misses := rfl
@[simp] theorem mapLight_sys (s : State) (n : Nat) (f : Light → Light) : (s.mapLight n f).sys = s.sys := rfl
@[simp] theorem mapLight_moor (s : State) (n : Nat) (f : Light → Light) : (s.mapLight n f).moor = s.moor := rfl
@[simp] theorem mapLight_stalls (s : State) (n : Nat) (f : Light → Light) : (s.mapLight n f).stalls = s.stalls := rfl
@[simp] theorem mapLight_returns (s : State) (n : Nat) (f : Light → Light) : (s.mapLight n f).returns = s.returns := rfl
@[simp] theorem mapLight_copies (s : State) (n : Nat) (f : Light → Light) : (s.mapLight n f).copies = s.copies := rfl
@[simp] theorem mapLight_arrays (s : State) (n : Nat) (f : Light → Light) : (s.mapLight n f).arrays = s.arrays := rfl
@[simp] theorem mapLight_punits (s : State) (n : Nat) (f : Light → Light) : (s.mapLight n f).punits = s.punits := rfl
@[simp] theorem mapLight_colls (s : State) (n : Nat) (f : Light → Light) : (s.mapLight n f).colls = s.colls := rfl
@[simp] theorem mapLight_stores (s : State) (n : Nat) (f : Light → Light) : (s.mapLight n f).stores = s.stores := rfl
@[simp] theorem mapLight_creators (s : State) (n : Nat) (f : Light → Light) : (s.mapLight n f).creators = s.creators := rfl
@[simp] theorem mapLight_decs (s : State) (n : Nat) (f : Light → Light) : (s.mapLight n f).decs = s.decs := rfl
@[simp] theorem mapLight_tenders (s : State) (n : Nat) (f : Light → Light) : (s.mapLight n f).tenders = s.tenders := rfl
@[simp] theorem mapLight_queues (s : State) (n : Nat) (f : Light → Light) : (s.mapLight n f).queues = s.queues := rfl
@[simp] theorem mapLight_records (s : State) (n : Nat) (f : Light → Light) : (s.mapLight n f).records = s.records := rfl
@[simp] theorem mapLight_replicas (s : State) (n : Nat) (f : Light → Light) : (s.mapLight n f).replicas = s.replicas := rfl
@[simp] theorem mapLight_btops (s : State) (n : Nat) (f : Light → Light) : (s.mapLight n f).btops = s.btops := rfl
@[simp] theorem mapLight_agenda (s : State) (n : Nat) (f : Light → Light) : (s.mapLight n f).agenda = s.agenda := rfl
@[simp] theorem mapLight_turns (s : State) (n : Nat) (f : Light → Light) : (s.mapLight n f).turns = s.turns := rfl
@[simp] theorem mapLight_clk (s : State) (n : Nat) (f : Light → Light) : (s.mapLight n f).clk = s.clk := rfl
@[simp] theorem mapLight_fresh (s : State) (n : Nat) (f : Light → Light) : (s.mapLight n f).fresh = s.fresh := rfl
@[simp] theorem mapLight_nextId (s : State) (n : Nat) (f : Light → Light) : (s.mapLight n f).nextId = s.nextId := rfl

/-! ### mapTime -/

@[simp] theorem mapTime_g (s : State) (f : TimeBase → TimeBase) : (s.mapTime f).g = s.g := rfl
@[simp] theorem mapTime_groups (s : State) (f : TimeBase → TimeBase) : (s.mapTime f).groups = s.groups := rfl
@[simp] theorem mapTime_mem (s : State) (f : TimeBase → TimeBase) : (s.mapTime f).mem = s.mem := rfl
@[simp] theorem mapTime_cores (s : State) (f : TimeBase → TimeBase) : (s.mapTime f).cores = s.cores := rfl
@[simp] theorem mapTime_crews (s : State) (f : TimeBase → TimeBase) : (s.mapTime f).crews = s.crews := rfl
@[simp] theorem mapTime_tasks (s : State) (f : TimeBase → TimeBase) : (s.mapTime f).tasks = s.tasks := rfl
@[simp] theorem mapTime_barriers (s : State) (f : TimeBase → TimeBase) : (s.mapTime f).barriers = s.barriers := rfl
@[simp] theorem mapTime_fes (s : State) (f : TimeBase → TimeBase) : (s.mapTime f).fes = s.fes := rfl
@[simp] theorem mapTime_armed (s : State) (f : TimeBase → TimeBase) : (s.mapTime f).armed = s.armed := rfl
@[simp] theorem mapTime_net (s : State) (f : TimeBase → TimeBase) : (s.mapTime f).net = s.net := rfl
@[simp] theorem mapTime_scq (s : State) (f : TimeBase → TimeBase) : (s.mapTime f).scq = s.scq := rfl
@[simp] theorem mapTime_owned (s : State) (f : TimeBase → TimeBase) : (s.mapTime f).owned = s.owned := rfl
@[simp] theorem mapTime_mail (s : State) (f : TimeBase → TimeBase) : (s.mapTime f).mail = s.mail := rfl
@[simp] theorem mapTime_recvs (s : State) (f : TimeBase → TimeBase) : (s.mapTime f).recvs = s.recvs := rfl
@[simp] theorem mapTime_tlb (s : State) (f : TimeBase → TimeBase) : (s.mapTime f).tlb = s.tlb := rfl
@[simp] theorem mapTime_pointers (s : State) (f : TimeBase → TimeBase) : (s.mapTime f).pointers = s.pointers := rfl
@[simp] theorem mapTime_walks (s : State) (f : TimeBase → TimeBase) : (s.mapTime f).walks = s.walks := rfl
@[simp] theorem mapTime_misses (s : State) (f : TimeBase → TimeBase) : (s.mapTime f).misses = s.misses := rfl
@[simp] theorem mapTime_sys (s : State) (f : TimeBase → TimeBase) : (s.mapTime f).sys = s.sys := rfl
@[simp] theorem mapTime_moor (s : State) (f : TimeBase → TimeBase) : (s.mapTime f).moor = s.moor := rfl
@[simp] theorem mapTime_stalls (s : State) (f : TimeBase → TimeBase) : (s.mapTime f).stalls = s.stalls := rfl
@[simp] theorem mapTime_returns (s : State) (f : TimeBase → TimeBase) : (s.mapTime f).returns = s.returns := rfl
@[simp] theorem mapTime_copies (s : State) (f : TimeBase → TimeBase) : (s.mapTime f).copies = s.copies := rfl
@[simp] theorem mapTime_arrays (s : State) (f : TimeBase → TimeBase) : (s.mapTime f).arrays = s.arrays := rfl
@[simp] theorem mapTime_punits (s : State) (f : TimeBase → TimeBase) : (s.mapTime f).punits = s.punits := rfl
@[simp] theorem mapTime_colls (s : State) (f : TimeBase → TimeBase) : (s.mapTime f).colls = s.colls := rfl
@[simp] theorem mapTime_stores (s : State) (f : TimeBase → TimeBase) : (s.mapTime f).stores = s.stores := rfl
@[simp] theorem mapTime_creators (s : State) (f : TimeBase → TimeBase) : (s.mapTime f).creators = s.creators := rfl
@[simp] theorem mapTime_decs (s : State) (f : TimeBase → TimeBase) : (s.mapTime f).decs = s.decs := rfl
@[simp] theorem mapTime_tenders (s : State) (f : TimeBase → TimeBase) : (s.mapTime f).tenders = s.tenders := rfl
@[simp] theorem mapTime_queues (s : State) (f : TimeBase → TimeBase) : (s.mapTime f).queues = s.queues := rfl
@[simp] theorem mapTime_records (s : State) (f : TimeBase → TimeBase) : (s.mapTime f).records = s.records := rfl
@[simp] theorem mapTime_replicas (s : State) (f : TimeBase → TimeBase) : (s.mapTime f).replicas = s.replicas := rfl
@[simp] theorem mapTime_btops (s : State) (f : TimeBase → TimeBase) : (s.mapTime f).btops = s.btops := rfl
@[simp] theorem mapTime_agenda (s : State) (f : TimeBase → TimeBase) : (s.mapTime f).agenda = s.agenda := rfl
@[simp] theorem mapTime_turns (s : State) (f : TimeBase → TimeBase) : (s.mapTime f).turns = s.turns := rfl
@[simp] theorem mapTime_clk (s : State) (f : TimeBase → TimeBase) : (s.mapTime f).clk = s.clk := rfl
@[simp] theorem mapTime_fresh (s : State) (f : TimeBase → TimeBase) : (s.mapTime f).fresh = s.fresh := rfl
@[simp] theorem mapTime_nextId (s : State) (f : TimeBase → TimeBase) : (s.mapTime f).nextId = s.nextId := rfl

/-! ### mapArray -/

@[simp] theorem mapArray_g (s : State) (core : Nat) (f : MArray → MArray) : (s.mapArray core f).g = s.g := by unfold State.mapArray; split <;> rfl
@[simp] theorem mapArray_groups (s : State) (core : Nat) (f : MArray → MArray) : (s.mapArray core f).groups = s.groups := by unfold State.mapArray; split <;> rfl
@[simp] theorem mapArray_mem (s : State) (core : Nat) (f : MArray → MArray) : (s.mapArray core f).mem = s.mem := by unfold State.mapArray; split <;> rfl
@[simp] theorem mapArray_cores (s : State) (core : Nat) (f : MArray → MArray) : (s.mapArray core f).cores = s.cores := by unfold State.mapArray; split <;> rfl
@[simp] theorem mapArray_crews (s : State) (core : Nat) (f : MArray → MArray) : (s.mapArray core f).crews = s.crews := by unfold State.mapArray; split <;> rfl
@[simp] theorem mapArray_tasks (s : State) (core : Nat) (f : MArray → MArray) : (s.mapArray core f).tasks = s.tasks := by unfold State.mapArray; split <;> rfl
@[simp] theorem mapArray_barriers (s : State) (core : Nat) (f : MArray → MArray) : (s.mapArray core f).barriers = s.barriers := by unfold State.mapArray; split <;> rfl
@[simp] theorem mapArray_fes (s : State) (core : Nat) (f : MArray → MArray) : (s.mapArray core f).fes = s.fes := by unfold State.mapArray; split <;> rfl
@[simp] theorem mapArray_armed (s : State) (core : Nat) (f : MArray → MArray) : (s.mapArray core f).armed = s.armed := by unfold State.mapArray; split <;> rfl
@[simp] theorem mapArray_net (s : State) (core : Nat) (f : MArray → MArray) : (s.mapArray core f).net = s.net := by unfold State.mapArray; split <;> rfl
@[simp] theorem mapArray_scq (s : State) (core : Nat) (f : MArray → MArray) : (s.mapArray core f).scq = s.scq := by unfold State.mapArray; split <;> rfl
@[simp] theorem mapArray_owned (s : State) (core : Nat) (f : MArray → MArray) : (s.mapArray core f).owned = s.owned := by unfold State.mapArray; split <;> rfl
@[simp] theorem mapArray_mail (s : State) (core : Nat) (f : MArray → MArray) : (s.mapArray core f).mail = s.mail := by unfold State.mapArray; split <;> rfl
@[simp] theorem mapArray_recvs (s : State) (core : Nat) (f : MArray → MArray) : (s.mapArray core f).recvs = s.recvs := by unfold State.mapArray; split <;> rfl
@[simp] theorem mapArray_tlb (s : State) (core : Nat) (f : MArray → MArray) : (s.mapArray core f).tlb = s.tlb := by unfold State.mapArray; split <;> rfl
@[simp] theorem mapArray_pointers (s : State) (core : Nat) (f : MArray → MArray) : (s.mapArray core f).pointers = s.pointers := by unfold State.mapArray; split <;> rfl
@[simp] theorem mapArray_walks (s : State) (core : Nat) (f : MArray → MArray) : (s.mapArray core f).walks = s.walks := by unfold State.mapArray; split <;> rfl
@[simp] theorem mapArray_misses (s : State) (core : Nat) (f : MArray → MArray) : (s.mapArray core f).misses = s.misses := by unfold State.mapArray; split <;> rfl
@[simp] theorem mapArray_sys (s : State) (core : Nat) (f : MArray → MArray) : (s.mapArray core f).sys = s.sys := by unfold State.mapArray; split <;> rfl
@[simp] theorem mapArray_moor (s : State) (core : Nat) (f : MArray → MArray) : (s.mapArray core f).moor = s.moor := by unfold State.mapArray; split <;> rfl
@[simp] theorem mapArray_stalls (s : State) (core : Nat) (f : MArray → MArray) : (s.mapArray core f).stalls = s.stalls := by unfold State.mapArray; split <;> rfl
@[simp] theorem mapArray_returns (s : State) (core : Nat) (f : MArray → MArray) : (s.mapArray core f).returns = s.returns := by unfold State.mapArray; split <;> rfl
@[simp] theorem mapArray_copies (s : State) (core : Nat) (f : MArray → MArray) : (s.mapArray core f).copies = s.copies := by unfold State.mapArray; split <;> rfl
@[simp] theorem mapArray_punits (s : State) (core : Nat) (f : MArray → MArray) : (s.mapArray core f).punits = s.punits := by unfold State.mapArray; split <;> rfl
@[simp] theorem mapArray_colls (s : State) (core : Nat) (f : MArray → MArray) : (s.mapArray core f).colls = s.colls := by unfold State.mapArray; split <;> rfl
@[simp] theorem mapArray_stores (s : State) (core : Nat) (f : MArray → MArray) : (s.mapArray core f).stores = s.stores := by unfold State.mapArray; split <;> rfl
@[simp] theorem mapArray_creators (s : State) (core : Nat) (f : MArray → MArray) : (s.mapArray core f).creators = s.creators := by unfold State.mapArray; split <;> rfl
@[simp] theorem mapArray_decs (s : State) (core : Nat) (f : MArray → MArray) : (s.mapArray core f).decs = s.decs := by unfold State.mapArray; split <;> rfl
@[simp] theorem mapArray_tenders (s : State) (core : Nat) (f : MArray → MArray) : (s.mapArray core f).tenders = s.tenders := by unfold State.mapArray; split <;> rfl
@[simp] theorem mapArray_queues (s : State) (core : Nat) (f : MArray → MArray) : (s.mapArray core f).queues = s.queues := by unfold State.mapArray; split <;> rfl
@[simp] theorem mapArray_records (s : State) (core : Nat) (f : MArray → MArray) : (s.mapArray core f).records = s.records := by unfold State.mapArray; split <;> rfl
@[simp] theorem mapArray_replicas (s : State) (core : Nat) (f : MArray → MArray) : (s.mapArray core f).replicas = s.replicas := by unfold State.mapArray; split <;> rfl
@[simp] theorem mapArray_btops (s : State) (core : Nat) (f : MArray → MArray) : (s.mapArray core f).btops = s.btops := by unfold State.mapArray; split <;> rfl
@[simp] theorem mapArray_pkg (s : State) (core : Nat) (f : MArray → MArray) : (s.mapArray core f).pkg = s.pkg := by unfold State.mapArray; split <;> rfl
@[simp] theorem mapArray_agenda (s : State) (core : Nat) (f : MArray → MArray) : (s.mapArray core f).agenda = s.agenda := by unfold State.mapArray; split <;> rfl
@[simp] theorem mapArray_turns (s : State) (core : Nat) (f : MArray → MArray) : (s.mapArray core f).turns = s.turns := by unfold State.mapArray; split <;> rfl
@[simp] theorem mapArray_clk (s : State) (core : Nat) (f : MArray → MArray) : (s.mapArray core f).clk = s.clk := by unfold State.mapArray; split <;> rfl
@[simp] theorem mapArray_fresh (s : State) (core : Nat) (f : MArray → MArray) : (s.mapArray core f).fresh = s.fresh := by unfold State.mapArray; split <;> rfl
@[simp] theorem mapArray_nextId (s : State) (core : Nat) (f : MArray → MArray) : (s.mapArray core f).nextId = s.nextId := by unfold State.mapArray; split <;> rfl

/-! ### setStore -/

@[simp] theorem setStore_g (s : State) (u : StoreUnit) : (s.setStore u).g = s.g := rfl
@[simp] theorem setStore_groups (s : State) (u : StoreUnit) : (s.setStore u).groups = s.groups := rfl
@[simp] theorem setStore_mem (s : State) (u : StoreUnit) : (s.setStore u).mem = s.mem := rfl
@[simp] theorem setStore_cores (s : State) (u : StoreUnit) : (s.setStore u).cores = s.cores := rfl
@[simp] theorem setStore_crews (s : State) (u : StoreUnit) : (s.setStore u).crews = s.crews := rfl
@[simp] theorem setStore_tasks (s : State) (u : StoreUnit) : (s.setStore u).tasks = s.tasks := rfl
@[simp] theorem setStore_barriers (s : State) (u : StoreUnit) : (s.setStore u).barriers = s.barriers := rfl
@[simp] theorem setStore_fes (s : State) (u : StoreUnit) : (s.setStore u).fes = s.fes := rfl
@[simp] theorem setStore_armed (s : State) (u : StoreUnit) : (s.setStore u).armed = s.armed := rfl
@[simp] theorem setStore_net (s : State) (u : StoreUnit) : (s.setStore u).net = s.net := rfl
@[simp] theorem setStore_scq (s : State) (u : StoreUnit) : (s.setStore u).scq = s.scq := rfl
@[simp] theorem setStore_owned (s : State) (u : StoreUnit) : (s.setStore u).owned = s.owned := rfl
@[simp] theorem setStore_mail (s : State) (u : StoreUnit) : (s.setStore u).mail = s.mail := rfl
@[simp] theorem setStore_recvs (s : State) (u : StoreUnit) : (s.setStore u).recvs = s.recvs := rfl
@[simp] theorem setStore_tlb (s : State) (u : StoreUnit) : (s.setStore u).tlb = s.tlb := rfl
@[simp] theorem setStore_pointers (s : State) (u : StoreUnit) : (s.setStore u).pointers = s.pointers := rfl
@[simp] theorem setStore_walks (s : State) (u : StoreUnit) : (s.setStore u).walks = s.walks := rfl
@[simp] theorem setStore_misses (s : State) (u : StoreUnit) : (s.setStore u).misses = s.misses := rfl
@[simp] theorem setStore_sys (s : State) (u : StoreUnit) : (s.setStore u).sys = s.sys := rfl
@[simp] theorem setStore_moor (s : State) (u : StoreUnit) : (s.setStore u).moor = s.moor := rfl
@[simp] theorem setStore_stalls (s : State) (u : StoreUnit) : (s.setStore u).stalls = s.stalls := rfl
@[simp] theorem setStore_returns (s : State) (u : StoreUnit) : (s.setStore u).returns = s.returns := rfl
@[simp] theorem setStore_copies (s : State) (u : StoreUnit) : (s.setStore u).copies = s.copies := rfl
@[simp] theorem setStore_arrays (s : State) (u : StoreUnit) : (s.setStore u).arrays = s.arrays := rfl
@[simp] theorem setStore_punits (s : State) (u : StoreUnit) : (s.setStore u).punits = s.punits := rfl
@[simp] theorem setStore_colls (s : State) (u : StoreUnit) : (s.setStore u).colls = s.colls := rfl
@[simp] theorem setStore_creators (s : State) (u : StoreUnit) : (s.setStore u).creators = s.creators := rfl
@[simp] theorem setStore_decs (s : State) (u : StoreUnit) : (s.setStore u).decs = s.decs := rfl
@[simp] theorem setStore_tenders (s : State) (u : StoreUnit) : (s.setStore u).tenders = s.tenders := rfl
@[simp] theorem setStore_queues (s : State) (u : StoreUnit) : (s.setStore u).queues = s.queues := rfl
@[simp] theorem setStore_records (s : State) (u : StoreUnit) : (s.setStore u).records = s.records := rfl
@[simp] theorem setStore_replicas (s : State) (u : StoreUnit) : (s.setStore u).replicas = s.replicas := rfl
@[simp] theorem setStore_btops (s : State) (u : StoreUnit) : (s.setStore u).btops = s.btops := rfl
@[simp] theorem setStore_agenda (s : State) (u : StoreUnit) : (s.setStore u).agenda = s.agenda := rfl
@[simp] theorem setStore_turns (s : State) (u : StoreUnit) : (s.setStore u).turns = s.turns := rfl
@[simp] theorem setStore_clk (s : State) (u : StoreUnit) : (s.setStore u).clk = s.clk := rfl
@[simp] theorem setStore_fresh (s : State) (u : StoreUnit) : (s.setStore u).fresh = s.fresh := rfl
@[simp] theorem setStore_nextId (s : State) (u : StoreUnit) : (s.setStore u).nextId = s.nextId := rfl

/-! ### setPunit -/

@[simp] theorem setPunit_g (s : State) (p : PUnit) : (s.setPunit p).g = s.g := rfl
@[simp] theorem setPunit_groups (s : State) (p : PUnit) : (s.setPunit p).groups = s.groups := rfl
@[simp] theorem setPunit_mem (s : State) (p : PUnit) : (s.setPunit p).mem = s.mem := rfl
@[simp] theorem setPunit_cores (s : State) (p : PUnit) : (s.setPunit p).cores = s.cores := rfl
@[simp] theorem setPunit_crews (s : State) (p : PUnit) : (s.setPunit p).crews = s.crews := rfl
@[simp] theorem setPunit_tasks (s : State) (p : PUnit) : (s.setPunit p).tasks = s.tasks := rfl
@[simp] theorem setPunit_barriers (s : State) (p : PUnit) : (s.setPunit p).barriers = s.barriers := rfl
@[simp] theorem setPunit_fes (s : State) (p : PUnit) : (s.setPunit p).fes = s.fes := rfl
@[simp] theorem setPunit_armed (s : State) (p : PUnit) : (s.setPunit p).armed = s.armed := rfl
@[simp] theorem setPunit_net (s : State) (p : PUnit) : (s.setPunit p).net = s.net := rfl
@[simp] theorem setPunit_scq (s : State) (p : PUnit) : (s.setPunit p).scq = s.scq := rfl
@[simp] theorem setPunit_owned (s : State) (p : PUnit) : (s.setPunit p).owned = s.owned := rfl
@[simp] theorem setPunit_mail (s : State) (p : PUnit) : (s.setPunit p).mail = s.mail := rfl
@[simp] theorem setPunit_recvs (s : State) (p : PUnit) : (s.setPunit p).recvs = s.recvs := rfl
@[simp] theorem setPunit_tlb (s : State) (p : PUnit) : (s.setPunit p).tlb = s.tlb := rfl
@[simp] theorem setPunit_pointers (s : State) (p : PUnit) : (s.setPunit p).pointers = s.pointers := rfl
@[simp] theorem setPunit_walks (s : State) (p : PUnit) : (s.setPunit p).walks = s.walks := rfl
@[simp] theorem setPunit_misses (s : State) (p : PUnit) : (s.setPunit p).misses = s.misses := rfl
@[simp] theorem setPunit_sys (s : State) (p : PUnit) : (s.setPunit p).sys = s.sys := rfl
@[simp] theorem setPunit_moor (s : State) (p : PUnit) : (s.setPunit p).moor = s.moor := rfl
@[simp] theorem setPunit_stalls (s : State) (p : PUnit) : (s.setPunit p).stalls = s.stalls := rfl
@[simp] theorem setPunit_returns (s : State) (p : PUnit) : (s.setPunit p).returns = s.returns := rfl
@[simp] theorem setPunit_copies (s : State) (p : PUnit) : (s.setPunit p).copies = s.copies := rfl
@[simp] theorem setPunit_arrays (s : State) (p : PUnit) : (s.setPunit p).arrays = s.arrays := rfl
@[simp] theorem setPunit_punits (s : State) (p : PUnit) : (s.setPunit p).punits = p :: s.punits.filter fun q => q.core != p.core := rfl
@[simp] theorem setPunit_colls (s : State) (p : PUnit) : (s.setPunit p).colls = s.colls := rfl
@[simp] theorem setPunit_stores (s : State) (p : PUnit) : (s.setPunit p).stores = s.stores := rfl
@[simp] theorem setPunit_creators (s : State) (p : PUnit) : (s.setPunit p).creators = s.creators := rfl
@[simp] theorem setPunit_decs (s : State) (p : PUnit) : (s.setPunit p).decs = s.decs := rfl
@[simp] theorem setPunit_tenders (s : State) (p : PUnit) : (s.setPunit p).tenders = s.tenders := rfl
@[simp] theorem setPunit_queues (s : State) (p : PUnit) : (s.setPunit p).queues = s.queues := rfl
@[simp] theorem setPunit_records (s : State) (p : PUnit) : (s.setPunit p).records = s.records := rfl
@[simp] theorem setPunit_replicas (s : State) (p : PUnit) : (s.setPunit p).replicas = s.replicas := rfl
@[simp] theorem setPunit_btops (s : State) (p : PUnit) : (s.setPunit p).btops = s.btops := rfl
@[simp] theorem setPunit_pkg (s : State) (p : PUnit) : (s.setPunit p).pkg = s.pkg := rfl
@[simp] theorem setPunit_agenda (s : State) (p : PUnit) : (s.setPunit p).agenda = s.agenda := rfl
@[simp] theorem setPunit_turns (s : State) (p : PUnit) : (s.setPunit p).turns = s.turns := rfl
@[simp] theorem setPunit_clk (s : State) (p : PUnit) : (s.setPunit p).clk = s.clk := rfl
@[simp] theorem setPunit_fresh (s : State) (p : PUnit) : (s.setPunit p).fresh = s.fresh := rfl
@[simp] theorem setPunit_nextId (s : State) (p : PUnit) : (s.setPunit p).nextId = s.nextId := rfl

/-! ### setBarrier -/

@[simp] theorem setBarrier_g (s : State) (b : Barrier) : (s.setBarrier b).g = s.g := rfl
@[simp] theorem setBarrier_groups (s : State) (b : Barrier) : (s.setBarrier b).groups = s.groups := rfl
@[simp] theorem setBarrier_mem (s : State) (b : Barrier) : (s.setBarrier b).mem = s.mem := rfl
@[simp] theorem setBarrier_cores (s : State) (b : Barrier) : (s.setBarrier b).cores = s.cores := rfl
@[simp] theorem setBarrier_crews (s : State) (b : Barrier) : (s.setBarrier b).crews = s.crews := rfl
@[simp] theorem setBarrier_tasks (s : State) (b : Barrier) : (s.setBarrier b).tasks = s.tasks := rfl
@[simp] theorem setBarrier_fes (s : State) (b : Barrier) : (s.setBarrier b).fes = s.fes := rfl
@[simp] theorem setBarrier_armed (s : State) (b : Barrier) : (s.setBarrier b).armed = s.armed := rfl
@[simp] theorem setBarrier_net (s : State) (b : Barrier) : (s.setBarrier b).net = s.net := rfl
@[simp] theorem setBarrier_scq (s : State) (b : Barrier) : (s.setBarrier b).scq = s.scq := rfl
@[simp] theorem setBarrier_owned (s : State) (b : Barrier) : (s.setBarrier b).owned = s.owned := rfl
@[simp] theorem setBarrier_mail (s : State) (b : Barrier) : (s.setBarrier b).mail = s.mail := rfl
@[simp] theorem setBarrier_recvs (s : State) (b : Barrier) : (s.setBarrier b).recvs = s.recvs := rfl
@[simp] theorem setBarrier_tlb (s : State) (b : Barrier) : (s.setBarrier b).tlb = s.tlb := rfl
@[simp] theorem setBarrier_pointers (s : State) (b : Barrier) : (s.setBarrier b).pointers = s.pointers := rfl
@[simp] theorem setBarrier_walks (s : State) (b : Barrier) : (s.setBarrier b).walks = s.walks := rfl
@[simp] theorem setBarrier_misses (s : State) (b : Barrier) : (s.setBarrier b).misses = s.misses := rfl
@[simp] theorem setBarrier_sys (s : State) (b : Barrier) : (s.setBarrier b).sys = s.sys := rfl
@[simp] theorem setBarrier_moor (s : State) (b : Barrier) : (s.setBarrier b).moor = s.moor := rfl
@[simp] theorem setBarrier_stalls (s : State) (b : Barrier) : (s.setBarrier b).stalls = s.stalls := rfl
@[simp] theorem setBarrier_returns (s : State) (b : Barrier) : (s.setBarrier b).returns = s.returns := rfl
@[simp] theorem setBarrier_copies (s : State) (b : Barrier) : (s.setBarrier b).copies = s.copies := rfl
@[simp] theorem setBarrier_arrays (s : State) (b : Barrier) : (s.setBarrier b).arrays = s.arrays := rfl
@[simp] theorem setBarrier_punits (s : State) (b : Barrier) : (s.setBarrier b).punits = s.punits := rfl
@[simp] theorem setBarrier_colls (s : State) (b : Barrier) : (s.setBarrier b).colls = s.colls := rfl
@[simp] theorem setBarrier_stores (s : State) (b : Barrier) : (s.setBarrier b).stores = s.stores := rfl
@[simp] theorem setBarrier_creators (s : State) (b : Barrier) : (s.setBarrier b).creators = s.creators := rfl
@[simp] theorem setBarrier_decs (s : State) (b : Barrier) : (s.setBarrier b).decs = s.decs := rfl
@[simp] theorem setBarrier_tenders (s : State) (b : Barrier) : (s.setBarrier b).tenders = s.tenders := rfl
@[simp] theorem setBarrier_queues (s : State) (b : Barrier) : (s.setBarrier b).queues = s.queues := rfl
@[simp] theorem setBarrier_records (s : State) (b : Barrier) : (s.setBarrier b).records = s.records := rfl
@[simp] theorem setBarrier_replicas (s : State) (b : Barrier) : (s.setBarrier b).replicas = s.replicas := rfl
@[simp] theorem setBarrier_btops (s : State) (b : Barrier) : (s.setBarrier b).btops = s.btops := rfl
@[simp] theorem setBarrier_pkg (s : State) (b : Barrier) : (s.setBarrier b).pkg = s.pkg := rfl
@[simp] theorem setBarrier_agenda (s : State) (b : Barrier) : (s.setBarrier b).agenda = s.agenda := rfl
@[simp] theorem setBarrier_turns (s : State) (b : Barrier) : (s.setBarrier b).turns = s.turns := rfl
@[simp] theorem setBarrier_clk (s : State) (b : Barrier) : (s.setBarrier b).clk = s.clk := rfl
@[simp] theorem setBarrier_fresh (s : State) (b : Barrier) : (s.setBarrier b).fresh = s.fresh := rfl
@[simp] theorem setBarrier_nextId (s : State) (b : Barrier) : (s.setBarrier b).nextId = s.nextId := rfl

/-! ### send -/

@[simp] theorem send_g (s : State) (r : Req) : (s.send r).g = s.g := rfl
@[simp] theorem send_groups (s : State) (r : Req) : (s.send r).groups = s.groups := rfl
@[simp] theorem send_mem (s : State) (r : Req) : (s.send r).mem = s.mem := rfl
@[simp] theorem send_cores (s : State) (r : Req) : (s.send r).cores = s.cores := rfl
@[simp] theorem send_crews (s : State) (r : Req) : (s.send r).crews = s.crews := rfl
@[simp] theorem send_tasks (s : State) (r : Req) : (s.send r).tasks = s.tasks := rfl
@[simp] theorem send_barriers (s : State) (r : Req) : (s.send r).barriers = s.barriers := rfl
@[simp] theorem send_fes (s : State) (r : Req) : (s.send r).fes = s.fes := rfl
@[simp] theorem send_armed (s : State) (r : Req) : (s.send r).armed = s.armed := rfl
@[simp] theorem send_net (s : State) (r : Req) : (s.send r).net = s.net ++ [r] := rfl
@[simp] theorem send_scq (s : State) (r : Req) : (s.send r).scq = s.scq := rfl
@[simp] theorem send_owned (s : State) (r : Req) : (s.send r).owned = s.owned := rfl
@[simp] theorem send_mail (s : State) (r : Req) : (s.send r).mail = s.mail := rfl
@[simp] theorem send_recvs (s : State) (r : Req) : (s.send r).recvs = s.recvs := rfl
@[simp] theorem send_tlb (s : State) (r : Req) : (s.send r).tlb = s.tlb := rfl
@[simp] theorem send_pointers (s : State) (r : Req) : (s.send r).pointers = s.pointers := rfl
@[simp] theorem send_walks (s : State) (r : Req) : (s.send r).walks = s.walks := rfl
@[simp] theorem send_misses (s : State) (r : Req) : (s.send r).misses = s.misses := rfl
@[simp] theorem send_sys (s : State) (r : Req) : (s.send r).sys = s.sys := rfl
@[simp] theorem send_moor (s : State) (r : Req) : (s.send r).moor = s.moor := rfl
@[simp] theorem send_stalls (s : State) (r : Req) : (s.send r).stalls = s.stalls := rfl
@[simp] theorem send_returns (s : State) (r : Req) : (s.send r).returns = s.returns := rfl
@[simp] theorem send_copies (s : State) (r : Req) : (s.send r).copies = s.copies := rfl
@[simp] theorem send_arrays (s : State) (r : Req) : (s.send r).arrays = s.arrays := rfl
@[simp] theorem send_punits (s : State) (r : Req) : (s.send r).punits = s.punits := rfl
@[simp] theorem send_colls (s : State) (r : Req) : (s.send r).colls = s.colls := rfl
@[simp] theorem send_stores (s : State) (r : Req) : (s.send r).stores = s.stores := rfl
@[simp] theorem send_creators (s : State) (r : Req) : (s.send r).creators = s.creators := rfl
@[simp] theorem send_decs (s : State) (r : Req) : (s.send r).decs = s.decs := rfl
@[simp] theorem send_tenders (s : State) (r : Req) : (s.send r).tenders = s.tenders := rfl
@[simp] theorem send_queues (s : State) (r : Req) : (s.send r).queues = s.queues := rfl
@[simp] theorem send_records (s : State) (r : Req) : (s.send r).records = s.records := rfl
@[simp] theorem send_replicas (s : State) (r : Req) : (s.send r).replicas = s.replicas := rfl
@[simp] theorem send_btops (s : State) (r : Req) : (s.send r).btops = s.btops := rfl
@[simp] theorem send_pkg (s : State) (r : Req) : (s.send r).pkg = s.pkg := rfl
@[simp] theorem send_agenda (s : State) (r : Req) : (s.send r).agenda = s.agenda := rfl
@[simp] theorem send_turns (s : State) (r : Req) : (s.send r).turns = s.turns := rfl
@[simp] theorem send_clk (s : State) (r : Req) : (s.send r).clk = s.clk := rfl
@[simp] theorem send_fresh (s : State) (r : Req) : (s.send r).fresh = s.fresh := rfl
@[simp] theorem send_nextId (s : State) (r : Req) : (s.send r).nextId = s.nextId := rfl

/-! ### own -/

@[simp] theorem own_g (s : State) (op : Nat) (lines : List Nat) : (s.own op lines).g = s.g := rfl
@[simp] theorem own_groups (s : State) (op : Nat) (lines : List Nat) : (s.own op lines).groups = s.groups := rfl
@[simp] theorem own_mem (s : State) (op : Nat) (lines : List Nat) : (s.own op lines).mem = s.mem := rfl
@[simp] theorem own_cores (s : State) (op : Nat) (lines : List Nat) : (s.own op lines).cores = s.cores := rfl
@[simp] theorem own_crews (s : State) (op : Nat) (lines : List Nat) : (s.own op lines).crews = s.crews := rfl
@[simp] theorem own_tasks (s : State) (op : Nat) (lines : List Nat) : (s.own op lines).tasks = s.tasks := rfl
@[simp] theorem own_barriers (s : State) (op : Nat) (lines : List Nat) : (s.own op lines).barriers = s.barriers := rfl
@[simp] theorem own_fes (s : State) (op : Nat) (lines : List Nat) : (s.own op lines).fes = s.fes := rfl
@[simp] theorem own_armed (s : State) (op : Nat) (lines : List Nat) : (s.own op lines).armed = s.armed := rfl
@[simp] theorem own_net (s : State) (op : Nat) (lines : List Nat) : (s.own op lines).net = s.net := rfl
@[simp] theorem own_scq (s : State) (op : Nat) (lines : List Nat) : (s.own op lines).scq = s.scq := rfl
@[simp] theorem own_owned (s : State) (op : Nat) (lines : List Nat) : (s.own op lines).owned = s.owned ++ lines.map fun l => (l, op) := rfl
@[simp] theorem own_mail (s : State) (op : Nat) (lines : List Nat) : (s.own op lines).mail = s.mail := rfl
@[simp] theorem own_recvs (s : State) (op : Nat) (lines : List Nat) : (s.own op lines).recvs = s.recvs := rfl
@[simp] theorem own_tlb (s : State) (op : Nat) (lines : List Nat) : (s.own op lines).tlb = s.tlb := rfl
@[simp] theorem own_pointers (s : State) (op : Nat) (lines : List Nat) : (s.own op lines).pointers = s.pointers := rfl
@[simp] theorem own_walks (s : State) (op : Nat) (lines : List Nat) : (s.own op lines).walks = s.walks := rfl
@[simp] theorem own_misses (s : State) (op : Nat) (lines : List Nat) : (s.own op lines).misses = s.misses := rfl
@[simp] theorem own_sys (s : State) (op : Nat) (lines : List Nat) : (s.own op lines).sys = s.sys := rfl
@[simp] theorem own_moor (s : State) (op : Nat) (lines : List Nat) : (s.own op lines).moor = s.moor := rfl
@[simp] theorem own_stalls (s : State) (op : Nat) (lines : List Nat) : (s.own op lines).stalls = s.stalls := rfl
@[simp] theorem own_returns (s : State) (op : Nat) (lines : List Nat) : (s.own op lines).returns = s.returns := rfl
@[simp] theorem own_copies (s : State) (op : Nat) (lines : List Nat) : (s.own op lines).copies = s.copies := rfl
@[simp] theorem own_arrays (s : State) (op : Nat) (lines : List Nat) : (s.own op lines).arrays = s.arrays := rfl
@[simp] theorem own_punits (s : State) (op : Nat) (lines : List Nat) : (s.own op lines).punits = s.punits := rfl
@[simp] theorem own_colls (s : State) (op : Nat) (lines : List Nat) : (s.own op lines).colls = s.colls := rfl
@[simp] theorem own_stores (s : State) (op : Nat) (lines : List Nat) : (s.own op lines).stores = s.stores := rfl
@[simp] theorem own_creators (s : State) (op : Nat) (lines : List Nat) : (s.own op lines).creators = s.creators := rfl
@[simp] theorem own_decs (s : State) (op : Nat) (lines : List Nat) : (s.own op lines).decs = s.decs := rfl
@[simp] theorem own_tenders (s : State) (op : Nat) (lines : List Nat) : (s.own op lines).tenders = s.tenders := rfl
@[simp] theorem own_queues (s : State) (op : Nat) (lines : List Nat) : (s.own op lines).queues = s.queues := rfl
@[simp] theorem own_records (s : State) (op : Nat) (lines : List Nat) : (s.own op lines).records = s.records := rfl
@[simp] theorem own_replicas (s : State) (op : Nat) (lines : List Nat) : (s.own op lines).replicas = s.replicas := rfl
@[simp] theorem own_btops (s : State) (op : Nat) (lines : List Nat) : (s.own op lines).btops = s.btops := rfl
@[simp] theorem own_pkg (s : State) (op : Nat) (lines : List Nat) : (s.own op lines).pkg = s.pkg := rfl
@[simp] theorem own_agenda (s : State) (op : Nat) (lines : List Nat) : (s.own op lines).agenda = s.agenda := rfl
@[simp] theorem own_turns (s : State) (op : Nat) (lines : List Nat) : (s.own op lines).turns = s.turns := rfl
@[simp] theorem own_clk (s : State) (op : Nat) (lines : List Nat) : (s.own op lines).clk = s.clk := rfl
@[simp] theorem own_fresh (s : State) (op : Nat) (lines : List Nat) : (s.own op lines).fresh = s.fresh := rfl
@[simp] theorem own_nextId (s : State) (op : Nat) (lines : List Nat) : (s.own op lines).nextId = s.nextId := rfl

/-! ### disown -/

@[simp] theorem disown_g (s : State) (op : Nat) : (s.disown op).g = s.g := rfl
@[simp] theorem disown_groups (s : State) (op : Nat) : (s.disown op).groups = s.groups := rfl
@[simp] theorem disown_mem (s : State) (op : Nat) : (s.disown op).mem = s.mem := rfl
@[simp] theorem disown_cores (s : State) (op : Nat) : (s.disown op).cores = s.cores := rfl
@[simp] theorem disown_crews (s : State) (op : Nat) : (s.disown op).crews = s.crews := rfl
@[simp] theorem disown_tasks (s : State) (op : Nat) : (s.disown op).tasks = s.tasks := rfl
@[simp] theorem disown_barriers (s : State) (op : Nat) : (s.disown op).barriers = s.barriers := rfl
@[simp] theorem disown_fes (s : State) (op : Nat) : (s.disown op).fes = s.fes := rfl
@[simp] theorem disown_armed (s : State) (op : Nat) : (s.disown op).armed = s.armed := rfl
@[simp] theorem disown_net (s : State) (op : Nat) : (s.disown op).net = s.net := rfl
@[simp] theorem disown_scq (s : State) (op : Nat) : (s.disown op).scq = s.scq := rfl
@[simp] theorem disown_owned (s : State) (op : Nat) : (s.disown op).owned = s.owned.filter fun o => o.2 != op := rfl
@[simp] theorem disown_mail (s : State) (op : Nat) : (s.disown op).mail = s.mail := rfl
@[simp] theorem disown_recvs (s : State) (op : Nat) : (s.disown op).recvs = s.recvs := rfl
@[simp] theorem disown_tlb (s : State) (op : Nat) : (s.disown op).tlb = s.tlb := rfl
@[simp] theorem disown_pointers (s : State) (op : Nat) : (s.disown op).pointers = s.pointers := rfl
@[simp] theorem disown_walks (s : State) (op : Nat) : (s.disown op).walks = s.walks := rfl
@[simp] theorem disown_misses (s : State) (op : Nat) : (s.disown op).misses = s.misses := rfl
@[simp] theorem disown_sys (s : State) (op : Nat) : (s.disown op).sys = s.sys := rfl
@[simp] theorem disown_moor (s : State) (op : Nat) : (s.disown op).moor = s.moor := rfl
@[simp] theorem disown_stalls (s : State) (op : Nat) : (s.disown op).stalls = s.stalls := rfl
@[simp] theorem disown_returns (s : State) (op : Nat) : (s.disown op).returns = s.returns := rfl
@[simp] theorem disown_copies (s : State) (op : Nat) : (s.disown op).copies = s.copies := rfl
@[simp] theorem disown_arrays (s : State) (op : Nat) : (s.disown op).arrays = s.arrays := rfl
@[simp] theorem disown_punits (s : State) (op : Nat) : (s.disown op).punits = s.punits := rfl
@[simp] theorem disown_colls (s : State) (op : Nat) : (s.disown op).colls = s.colls := rfl
@[simp] theorem disown_stores (s : State) (op : Nat) : (s.disown op).stores = s.stores := rfl
@[simp] theorem disown_creators (s : State) (op : Nat) : (s.disown op).creators = s.creators := rfl
@[simp] theorem disown_decs (s : State) (op : Nat) : (s.disown op).decs = s.decs := rfl
@[simp] theorem disown_tenders (s : State) (op : Nat) : (s.disown op).tenders = s.tenders := rfl
@[simp] theorem disown_queues (s : State) (op : Nat) : (s.disown op).queues = s.queues := rfl
@[simp] theorem disown_records (s : State) (op : Nat) : (s.disown op).records = s.records := rfl
@[simp] theorem disown_replicas (s : State) (op : Nat) : (s.disown op).replicas = s.replicas := rfl
@[simp] theorem disown_btops (s : State) (op : Nat) : (s.disown op).btops = s.btops := rfl
@[simp] theorem disown_pkg (s : State) (op : Nat) : (s.disown op).pkg = s.pkg := rfl
@[simp] theorem disown_agenda (s : State) (op : Nat) : (s.disown op).agenda = s.agenda := rfl
@[simp] theorem disown_turns (s : State) (op : Nat) : (s.disown op).turns = s.turns := rfl
@[simp] theorem disown_clk (s : State) (op : Nat) : (s.disown op).clk = s.clk := rfl
@[simp] theorem disown_fresh (s : State) (op : Nat) : (s.disown op).fresh = s.fresh := rfl
@[simp] theorem disown_nextId (s : State) (op : Nat) : (s.disown op).nextId = s.nextId := rfl

/-! ### flushVA -/

@[simp] theorem flushVA_g (s : State) (asid va : Nat) : (s.flushVA asid va).g = s.g := rfl
@[simp] theorem flushVA_groups (s : State) (asid va : Nat) : (s.flushVA asid va).groups = s.groups := rfl
@[simp] theorem flushVA_mem (s : State) (asid va : Nat) : (s.flushVA asid va).mem = s.mem := rfl
@[simp] theorem flushVA_cores (s : State) (asid va : Nat) : (s.flushVA asid va).cores = s.cores := rfl
@[simp] theorem flushVA_crews (s : State) (asid va : Nat) : (s.flushVA asid va).crews = s.crews := rfl
@[simp] theorem flushVA_tasks (s : State) (asid va : Nat) : (s.flushVA asid va).tasks = s.tasks := rfl
@[simp] theorem flushVA_barriers (s : State) (asid va : Nat) : (s.flushVA asid va).barriers = s.barriers := rfl
@[simp] theorem flushVA_fes (s : State) (asid va : Nat) : (s.flushVA asid va).fes = s.fes := rfl
@[simp] theorem flushVA_armed (s : State) (asid va : Nat) : (s.flushVA asid va).armed = s.armed := rfl
@[simp] theorem flushVA_net (s : State) (asid va : Nat) : (s.flushVA asid va).net = s.net := rfl
@[simp] theorem flushVA_scq (s : State) (asid va : Nat) : (s.flushVA asid va).scq = s.scq := rfl
@[simp] theorem flushVA_owned (s : State) (asid va : Nat) : (s.flushVA asid va).owned = s.owned := rfl
@[simp] theorem flushVA_mail (s : State) (asid va : Nat) : (s.flushVA asid va).mail = s.mail := rfl
@[simp] theorem flushVA_recvs (s : State) (asid va : Nat) : (s.flushVA asid va).recvs = s.recvs := rfl
@[simp] theorem flushVA_misses (s : State) (asid va : Nat) : (s.flushVA asid va).misses = s.misses := rfl
@[simp] theorem flushVA_sys (s : State) (asid va : Nat) : (s.flushVA asid va).sys = s.sys := rfl
@[simp] theorem flushVA_moor (s : State) (asid va : Nat) : (s.flushVA asid va).moor = s.moor := rfl
@[simp] theorem flushVA_stalls (s : State) (asid va : Nat) : (s.flushVA asid va).stalls = s.stalls := rfl
@[simp] theorem flushVA_returns (s : State) (asid va : Nat) : (s.flushVA asid va).returns = s.returns := rfl
@[simp] theorem flushVA_copies (s : State) (asid va : Nat) : (s.flushVA asid va).copies = s.copies := rfl
@[simp] theorem flushVA_arrays (s : State) (asid va : Nat) : (s.flushVA asid va).arrays = s.arrays := rfl
@[simp] theorem flushVA_punits (s : State) (asid va : Nat) : (s.flushVA asid va).punits = s.punits := rfl
@[simp] theorem flushVA_colls (s : State) (asid va : Nat) : (s.flushVA asid va).colls = s.colls := rfl
@[simp] theorem flushVA_stores (s : State) (asid va : Nat) : (s.flushVA asid va).stores = s.stores := rfl
@[simp] theorem flushVA_creators (s : State) (asid va : Nat) : (s.flushVA asid va).creators = s.creators := rfl
@[simp] theorem flushVA_decs (s : State) (asid va : Nat) : (s.flushVA asid va).decs = s.decs := rfl
@[simp] theorem flushVA_tenders (s : State) (asid va : Nat) : (s.flushVA asid va).tenders = s.tenders := rfl
@[simp] theorem flushVA_queues (s : State) (asid va : Nat) : (s.flushVA asid va).queues = s.queues := rfl
@[simp] theorem flushVA_records (s : State) (asid va : Nat) : (s.flushVA asid va).records = s.records := rfl
@[simp] theorem flushVA_replicas (s : State) (asid va : Nat) : (s.flushVA asid va).replicas = s.replicas := rfl
@[simp] theorem flushVA_btops (s : State) (asid va : Nat) : (s.flushVA asid va).btops = s.btops := rfl
@[simp] theorem flushVA_pkg (s : State) (asid va : Nat) : (s.flushVA asid va).pkg = s.pkg := rfl
@[simp] theorem flushVA_agenda (s : State) (asid va : Nat) : (s.flushVA asid va).agenda = s.agenda := rfl
@[simp] theorem flushVA_turns (s : State) (asid va : Nat) : (s.flushVA asid va).turns = s.turns := rfl
@[simp] theorem flushVA_clk (s : State) (asid va : Nat) : (s.flushVA asid va).clk = s.clk := rfl
@[simp] theorem flushVA_fresh (s : State) (asid va : Nat) : (s.flushVA asid va).fresh = s.fresh := rfl
@[simp] theorem flushVA_nextId (s : State) (asid va : Nat) : (s.flushVA asid va).nextId = s.nextId := rfl

/-! ### machineCheck -/

@[simp] theorem machineCheck_g (s : State) (die : Nat) (tval : Word) : (s.machineCheck die tval).g = s.g := rfl
@[simp] theorem machineCheck_groups (s : State) (die : Nat) (tval : Word) : (s.machineCheck die tval).groups = s.groups := rfl
@[simp] theorem machineCheck_mem (s : State) (die : Nat) (tval : Word) : (s.machineCheck die tval).mem = s.mem := rfl
@[simp] theorem machineCheck_cores (s : State) (die : Nat) (tval : Word) : (s.machineCheck die tval).cores = s.cores := rfl
@[simp] theorem machineCheck_crews (s : State) (die : Nat) (tval : Word) : (s.machineCheck die tval).crews = s.crews := rfl
@[simp] theorem machineCheck_tasks (s : State) (die : Nat) (tval : Word) : (s.machineCheck die tval).tasks = s.tasks := rfl
@[simp] theorem machineCheck_barriers (s : State) (die : Nat) (tval : Word) : (s.machineCheck die tval).barriers = s.barriers := rfl
@[simp] theorem machineCheck_fes (s : State) (die : Nat) (tval : Word) : (s.machineCheck die tval).fes = s.fes := rfl
@[simp] theorem machineCheck_armed (s : State) (die : Nat) (tval : Word) : (s.machineCheck die tval).armed = s.armed := rfl
@[simp] theorem machineCheck_net (s : State) (die : Nat) (tval : Word) : (s.machineCheck die tval).net = s.net := rfl
@[simp] theorem machineCheck_scq (s : State) (die : Nat) (tval : Word) : (s.machineCheck die tval).scq = s.scq := rfl
@[simp] theorem machineCheck_owned (s : State) (die : Nat) (tval : Word) : (s.machineCheck die tval).owned = s.owned := rfl
@[simp] theorem machineCheck_mail (s : State) (die : Nat) (tval : Word) : (s.machineCheck die tval).mail = s.mail := rfl
@[simp] theorem machineCheck_recvs (s : State) (die : Nat) (tval : Word) : (s.machineCheck die tval).recvs = s.recvs := rfl
@[simp] theorem machineCheck_tlb (s : State) (die : Nat) (tval : Word) : (s.machineCheck die tval).tlb = s.tlb := rfl
@[simp] theorem machineCheck_pointers (s : State) (die : Nat) (tval : Word) : (s.machineCheck die tval).pointers = s.pointers := rfl
@[simp] theorem machineCheck_walks (s : State) (die : Nat) (tval : Word) : (s.machineCheck die tval).walks = s.walks := rfl
@[simp] theorem machineCheck_misses (s : State) (die : Nat) (tval : Word) : (s.machineCheck die tval).misses = s.misses := rfl
@[simp] theorem machineCheck_moor (s : State) (die : Nat) (tval : Word) : (s.machineCheck die tval).moor = s.moor := rfl
@[simp] theorem machineCheck_stalls (s : State) (die : Nat) (tval : Word) : (s.machineCheck die tval).stalls = s.stalls := rfl
@[simp] theorem machineCheck_returns (s : State) (die : Nat) (tval : Word) : (s.machineCheck die tval).returns = s.returns := rfl
@[simp] theorem machineCheck_copies (s : State) (die : Nat) (tval : Word) : (s.machineCheck die tval).copies = s.copies := rfl
@[simp] theorem machineCheck_arrays (s : State) (die : Nat) (tval : Word) : (s.machineCheck die tval).arrays = s.arrays := rfl
@[simp] theorem machineCheck_punits (s : State) (die : Nat) (tval : Word) : (s.machineCheck die tval).punits = s.punits := rfl
@[simp] theorem machineCheck_colls (s : State) (die : Nat) (tval : Word) : (s.machineCheck die tval).colls = s.colls := rfl
@[simp] theorem machineCheck_stores (s : State) (die : Nat) (tval : Word) : (s.machineCheck die tval).stores = s.stores := rfl
@[simp] theorem machineCheck_creators (s : State) (die : Nat) (tval : Word) : (s.machineCheck die tval).creators = s.creators := rfl
@[simp] theorem machineCheck_decs (s : State) (die : Nat) (tval : Word) : (s.machineCheck die tval).decs = s.decs := rfl
@[simp] theorem machineCheck_tenders (s : State) (die : Nat) (tval : Word) : (s.machineCheck die tval).tenders = s.tenders := rfl
@[simp] theorem machineCheck_queues (s : State) (die : Nat) (tval : Word) : (s.machineCheck die tval).queues = s.queues := rfl
@[simp] theorem machineCheck_records (s : State) (die : Nat) (tval : Word) : (s.machineCheck die tval).records = s.records := rfl
@[simp] theorem machineCheck_replicas (s : State) (die : Nat) (tval : Word) : (s.machineCheck die tval).replicas = s.replicas := rfl
@[simp] theorem machineCheck_btops (s : State) (die : Nat) (tval : Word) : (s.machineCheck die tval).btops = s.btops := rfl
@[simp] theorem machineCheck_pkg (s : State) (die : Nat) (tval : Word) : (s.machineCheck die tval).pkg = s.pkg := rfl
@[simp] theorem machineCheck_agenda (s : State) (die : Nat) (tval : Word) : (s.machineCheck die tval).agenda = s.agenda := rfl
@[simp] theorem machineCheck_turns (s : State) (die : Nat) (tval : Word) : (s.machineCheck die tval).turns = s.turns := rfl
@[simp] theorem machineCheck_clk (s : State) (die : Nat) (tval : Word) : (s.machineCheck die tval).clk = s.clk := rfl
@[simp] theorem machineCheck_fresh (s : State) (die : Nat) (tval : Word) : (s.machineCheck die tval).fresh = s.fresh := rfl
@[simp] theorem machineCheck_nextId (s : State) (die : Nat) (tval : Word) : (s.machineCheck die tval).nextId = s.nextId := rfl
@[simp] theorem machineCheck_sys (s : State) (die : Nat) (tval : Word) : (s.machineCheck die tval).sys = s.sys ++ [⟨die * 1024, 0, 0, 0, 0x3F, tval⟩] := rfl

/-! ### errorAt -/

@[simp] theorem errorAt_g (s : State) (pa : Nat) (key : Option Nat) : (s.errorAt pa key).g = s.g := by unfold State.errorAt; split <;> rfl
@[simp] theorem errorAt_groups (s : State) (pa : Nat) (key : Option Nat) : (s.errorAt pa key).groups = s.groups := by unfold State.errorAt; split <;> rfl
@[simp] theorem errorAt_mem (s : State) (pa : Nat) (key : Option Nat) : (s.errorAt pa key).mem = s.mem := by unfold State.errorAt; split <;> rfl
@[simp] theorem errorAt_cores (s : State) (pa : Nat) (key : Option Nat) : (s.errorAt pa key).cores = s.cores := by unfold State.errorAt; split <;> rfl
@[simp] theorem errorAt_crews (s : State) (pa : Nat) (key : Option Nat) : (s.errorAt pa key).crews = s.crews := by unfold State.errorAt; split <;> rfl
@[simp] theorem errorAt_tasks (s : State) (pa : Nat) (key : Option Nat) : (s.errorAt pa key).tasks = s.tasks := by unfold State.errorAt; split <;> rfl
@[simp] theorem errorAt_barriers (s : State) (pa : Nat) (key : Option Nat) : (s.errorAt pa key).barriers = s.barriers := by unfold State.errorAt; split <;> rfl
@[simp] theorem errorAt_fes (s : State) (pa : Nat) (key : Option Nat) : (s.errorAt pa key).fes = s.fes := by unfold State.errorAt; split <;> rfl
@[simp] theorem errorAt_armed (s : State) (pa : Nat) (key : Option Nat) : (s.errorAt pa key).armed = s.armed := by unfold State.errorAt; split <;> rfl
@[simp] theorem errorAt_net (s : State) (pa : Nat) (key : Option Nat) : (s.errorAt pa key).net = s.net := by unfold State.errorAt; split <;> rfl
@[simp] theorem errorAt_scq (s : State) (pa : Nat) (key : Option Nat) : (s.errorAt pa key).scq = s.scq := by unfold State.errorAt; split <;> rfl
@[simp] theorem errorAt_owned (s : State) (pa : Nat) (key : Option Nat) : (s.errorAt pa key).owned = s.owned := by unfold State.errorAt; split <;> rfl
@[simp] theorem errorAt_mail (s : State) (pa : Nat) (key : Option Nat) : (s.errorAt pa key).mail = s.mail := by unfold State.errorAt; split <;> rfl
@[simp] theorem errorAt_recvs (s : State) (pa : Nat) (key : Option Nat) : (s.errorAt pa key).recvs = s.recvs := by unfold State.errorAt; split <;> rfl
@[simp] theorem errorAt_tlb (s : State) (pa : Nat) (key : Option Nat) : (s.errorAt pa key).tlb = s.tlb := by unfold State.errorAt; split <;> rfl
@[simp] theorem errorAt_pointers (s : State) (pa : Nat) (key : Option Nat) : (s.errorAt pa key).pointers = s.pointers := by unfold State.errorAt; split <;> rfl
@[simp] theorem errorAt_walks (s : State) (pa : Nat) (key : Option Nat) : (s.errorAt pa key).walks = s.walks := by unfold State.errorAt; split <;> rfl
@[simp] theorem errorAt_misses (s : State) (pa : Nat) (key : Option Nat) : (s.errorAt pa key).misses = s.misses := by unfold State.errorAt; split <;> rfl
@[simp] theorem errorAt_moor (s : State) (pa : Nat) (key : Option Nat) : (s.errorAt pa key).moor = s.moor := by unfold State.errorAt; split <;> rfl
@[simp] theorem errorAt_stalls (s : State) (pa : Nat) (key : Option Nat) : (s.errorAt pa key).stalls = s.stalls := by unfold State.errorAt; split <;> rfl
@[simp] theorem errorAt_returns (s : State) (pa : Nat) (key : Option Nat) : (s.errorAt pa key).returns = s.returns := by unfold State.errorAt; split <;> rfl
@[simp] theorem errorAt_copies (s : State) (pa : Nat) (key : Option Nat) : (s.errorAt pa key).copies = s.copies := by unfold State.errorAt; split <;> rfl
@[simp] theorem errorAt_arrays (s : State) (pa : Nat) (key : Option Nat) : (s.errorAt pa key).arrays = s.arrays := by unfold State.errorAt; split <;> rfl
@[simp] theorem errorAt_punits (s : State) (pa : Nat) (key : Option Nat) : (s.errorAt pa key).punits = s.punits := by unfold State.errorAt; split <;> rfl
@[simp] theorem errorAt_colls (s : State) (pa : Nat) (key : Option Nat) : (s.errorAt pa key).colls = s.colls := by unfold State.errorAt; split <;> rfl
@[simp] theorem errorAt_stores (s : State) (pa : Nat) (key : Option Nat) : (s.errorAt pa key).stores = s.stores := by unfold State.errorAt; split <;> rfl
@[simp] theorem errorAt_creators (s : State) (pa : Nat) (key : Option Nat) : (s.errorAt pa key).creators = s.creators := by unfold State.errorAt; split <;> rfl
@[simp] theorem errorAt_decs (s : State) (pa : Nat) (key : Option Nat) : (s.errorAt pa key).decs = s.decs := by unfold State.errorAt; split <;> rfl
@[simp] theorem errorAt_tenders (s : State) (pa : Nat) (key : Option Nat) : (s.errorAt pa key).tenders = s.tenders := by unfold State.errorAt; split <;> rfl
@[simp] theorem errorAt_queues (s : State) (pa : Nat) (key : Option Nat) : (s.errorAt pa key).queues = s.queues := by unfold State.errorAt; split <;> rfl
@[simp] theorem errorAt_records (s : State) (pa : Nat) (key : Option Nat) : (s.errorAt pa key).records = s.records := by unfold State.errorAt; split <;> rfl
@[simp] theorem errorAt_replicas (s : State) (pa : Nat) (key : Option Nat) : (s.errorAt pa key).replicas = s.replicas := by unfold State.errorAt; split <;> rfl
@[simp] theorem errorAt_btops (s : State) (pa : Nat) (key : Option Nat) : (s.errorAt pa key).btops = s.btops := by unfold State.errorAt; split <;> rfl
@[simp] theorem errorAt_pkg (s : State) (pa : Nat) (key : Option Nat) : (s.errorAt pa key).pkg = s.pkg := by unfold State.errorAt; split <;> rfl
@[simp] theorem errorAt_agenda (s : State) (pa : Nat) (key : Option Nat) : (s.errorAt pa key).agenda = s.agenda := by unfold State.errorAt; split <;> rfl
@[simp] theorem errorAt_turns (s : State) (pa : Nat) (key : Option Nat) : (s.errorAt pa key).turns = s.turns := by unfold State.errorAt; split <;> rfl
@[simp] theorem errorAt_clk (s : State) (pa : Nat) (key : Option Nat) : (s.errorAt pa key).clk = s.clk := by unfold State.errorAt; split <;> rfl
@[simp] theorem errorAt_fresh (s : State) (pa : Nat) (key : Option Nat) : (s.errorAt pa key).fresh = s.fresh := by unfold State.errorAt; split <;> rfl
@[simp] theorem errorAt_nextId (s : State) (pa : Nat) (key : Option Nat) : (s.errorAt pa key).nextId = s.nextId := by unfold State.errorAt; split <;> rfl

/-! ### inspected -/

@[simp] theorem inspected_g (s : State) (op : MemOp) (pa : Nat) (key : Option Nat) : (s.inspected op pa key).g = s.g := by unfold State.inspected; split <;> simp
@[simp] theorem inspected_groups (s : State) (op : MemOp) (pa : Nat) (key : Option Nat) : (s.inspected op pa key).groups = s.groups := by unfold State.inspected; split <;> simp
@[simp] theorem inspected_mem (s : State) (op : MemOp) (pa : Nat) (key : Option Nat) : (s.inspected op pa key).mem = s.mem := by unfold State.inspected; split <;> simp
@[simp] theorem inspected_cores (s : State) (op : MemOp) (pa : Nat) (key : Option Nat) : (s.inspected op pa key).cores = s.cores := by unfold State.inspected; split <;> simp
@[simp] theorem inspected_crews (s : State) (op : MemOp) (pa : Nat) (key : Option Nat) : (s.inspected op pa key).crews = s.crews := by unfold State.inspected; split <;> simp
@[simp] theorem inspected_tasks (s : State) (op : MemOp) (pa : Nat) (key : Option Nat) : (s.inspected op pa key).tasks = s.tasks := by unfold State.inspected; split <;> simp
@[simp] theorem inspected_barriers (s : State) (op : MemOp) (pa : Nat) (key : Option Nat) : (s.inspected op pa key).barriers = s.barriers := by unfold State.inspected; split <;> simp
@[simp] theorem inspected_fes (s : State) (op : MemOp) (pa : Nat) (key : Option Nat) : (s.inspected op pa key).fes = s.fes := by unfold State.inspected; split <;> simp
@[simp] theorem inspected_armed (s : State) (op : MemOp) (pa : Nat) (key : Option Nat) : (s.inspected op pa key).armed = s.armed := by unfold State.inspected; split <;> simp
@[simp] theorem inspected_net (s : State) (op : MemOp) (pa : Nat) (key : Option Nat) : (s.inspected op pa key).net = s.net := by unfold State.inspected; split <;> simp
@[simp] theorem inspected_scq (s : State) (op : MemOp) (pa : Nat) (key : Option Nat) : (s.inspected op pa key).scq = s.scq := by unfold State.inspected; split <;> simp
@[simp] theorem inspected_owned (s : State) (op : MemOp) (pa : Nat) (key : Option Nat) : (s.inspected op pa key).owned = s.owned := by unfold State.inspected; split <;> simp
@[simp] theorem inspected_mail (s : State) (op : MemOp) (pa : Nat) (key : Option Nat) : (s.inspected op pa key).mail = s.mail := by unfold State.inspected; split <;> simp
@[simp] theorem inspected_recvs (s : State) (op : MemOp) (pa : Nat) (key : Option Nat) : (s.inspected op pa key).recvs = s.recvs := by unfold State.inspected; split <;> simp
@[simp] theorem inspected_tlb (s : State) (op : MemOp) (pa : Nat) (key : Option Nat) : (s.inspected op pa key).tlb = s.tlb := by unfold State.inspected; split <;> simp
@[simp] theorem inspected_pointers (s : State) (op : MemOp) (pa : Nat) (key : Option Nat) : (s.inspected op pa key).pointers = s.pointers := by unfold State.inspected; split <;> simp
@[simp] theorem inspected_walks (s : State) (op : MemOp) (pa : Nat) (key : Option Nat) : (s.inspected op pa key).walks = s.walks := by unfold State.inspected; split <;> simp
@[simp] theorem inspected_misses (s : State) (op : MemOp) (pa : Nat) (key : Option Nat) : (s.inspected op pa key).misses = s.misses := by unfold State.inspected; split <;> simp
@[simp] theorem inspected_moor (s : State) (op : MemOp) (pa : Nat) (key : Option Nat) : (s.inspected op pa key).moor = s.moor := by unfold State.inspected; split <;> simp
@[simp] theorem inspected_stalls (s : State) (op : MemOp) (pa : Nat) (key : Option Nat) : (s.inspected op pa key).stalls = s.stalls := by unfold State.inspected; split <;> simp
@[simp] theorem inspected_returns (s : State) (op : MemOp) (pa : Nat) (key : Option Nat) : (s.inspected op pa key).returns = s.returns := by unfold State.inspected; split <;> simp
@[simp] theorem inspected_copies (s : State) (op : MemOp) (pa : Nat) (key : Option Nat) : (s.inspected op pa key).copies = s.copies := by unfold State.inspected; split <;> simp
@[simp] theorem inspected_arrays (s : State) (op : MemOp) (pa : Nat) (key : Option Nat) : (s.inspected op pa key).arrays = s.arrays := by unfold State.inspected; split <;> simp
@[simp] theorem inspected_punits (s : State) (op : MemOp) (pa : Nat) (key : Option Nat) : (s.inspected op pa key).punits = s.punits := by unfold State.inspected; split <;> simp
@[simp] theorem inspected_colls (s : State) (op : MemOp) (pa : Nat) (key : Option Nat) : (s.inspected op pa key).colls = s.colls := by unfold State.inspected; split <;> simp
@[simp] theorem inspected_stores (s : State) (op : MemOp) (pa : Nat) (key : Option Nat) : (s.inspected op pa key).stores = s.stores := by unfold State.inspected; split <;> simp
@[simp] theorem inspected_creators (s : State) (op : MemOp) (pa : Nat) (key : Option Nat) : (s.inspected op pa key).creators = s.creators := by unfold State.inspected; split <;> simp
@[simp] theorem inspected_decs (s : State) (op : MemOp) (pa : Nat) (key : Option Nat) : (s.inspected op pa key).decs = s.decs := by unfold State.inspected; split <;> simp
@[simp] theorem inspected_tenders (s : State) (op : MemOp) (pa : Nat) (key : Option Nat) : (s.inspected op pa key).tenders = s.tenders := by unfold State.inspected; split <;> simp
@[simp] theorem inspected_queues (s : State) (op : MemOp) (pa : Nat) (key : Option Nat) : (s.inspected op pa key).queues = s.queues := by unfold State.inspected; split <;> simp
@[simp] theorem inspected_records (s : State) (op : MemOp) (pa : Nat) (key : Option Nat) : (s.inspected op pa key).records = s.records := by unfold State.inspected; split <;> simp
@[simp] theorem inspected_replicas (s : State) (op : MemOp) (pa : Nat) (key : Option Nat) : (s.inspected op pa key).replicas = s.replicas := by unfold State.inspected; split <;> simp
@[simp] theorem inspected_btops (s : State) (op : MemOp) (pa : Nat) (key : Option Nat) : (s.inspected op pa key).btops = s.btops := by unfold State.inspected; split <;> simp
@[simp] theorem inspected_pkg (s : State) (op : MemOp) (pa : Nat) (key : Option Nat) : (s.inspected op pa key).pkg = s.pkg := by unfold State.inspected; split <;> simp
@[simp] theorem inspected_agenda (s : State) (op : MemOp) (pa : Nat) (key : Option Nat) : (s.inspected op pa key).agenda = s.agenda := by unfold State.inspected; split <;> simp
@[simp] theorem inspected_turns (s : State) (op : MemOp) (pa : Nat) (key : Option Nat) : (s.inspected op pa key).turns = s.turns := by unfold State.inspected; split <;> simp
@[simp] theorem inspected_clk (s : State) (op : MemOp) (pa : Nat) (key : Option Nat) : (s.inspected op pa key).clk = s.clk := by unfold State.inspected; split <;> simp
@[simp] theorem inspected_fresh (s : State) (op : MemOp) (pa : Nat) (key : Option Nat) : (s.inspected op pa key).fresh = s.fresh := by unfold State.inspected; split <;> simp
@[simp] theorem inspected_nextId (s : State) (op : MemOp) (pa : Nat) (key : Option Nat) : (s.inspected op pa key).nextId = s.nextId := by unfold State.inspected; split <;> simp

/-! ### takesPort -/

@[simp] theorem takesPort_g (s : State) (pa : Nat) : (s.takesPort pa).g = s.g := by unfold State.takesPort; split <;> simp
@[simp] theorem takesPort_groups (s : State) (pa : Nat) : (s.takesPort pa).groups = s.groups := by unfold State.takesPort; split <;> simp
@[simp] theorem takesPort_mem (s : State) (pa : Nat) : (s.takesPort pa).mem = s.mem := by unfold State.takesPort; split <;> simp
@[simp] theorem takesPort_crews (s : State) (pa : Nat) : (s.takesPort pa).crews = s.crews := by unfold State.takesPort; split <;> simp
@[simp] theorem takesPort_tasks (s : State) (pa : Nat) : (s.takesPort pa).tasks = s.tasks := by unfold State.takesPort; split <;> simp
@[simp] theorem takesPort_barriers (s : State) (pa : Nat) : (s.takesPort pa).barriers = s.barriers := by unfold State.takesPort; split <;> simp
@[simp] theorem takesPort_fes (s : State) (pa : Nat) : (s.takesPort pa).fes = s.fes := by unfold State.takesPort; split <;> simp
@[simp] theorem takesPort_armed (s : State) (pa : Nat) : (s.takesPort pa).armed = s.armed := by unfold State.takesPort; split <;> simp
@[simp] theorem takesPort_net (s : State) (pa : Nat) : (s.takesPort pa).net = s.net := by unfold State.takesPort; split <;> simp
@[simp] theorem takesPort_scq (s : State) (pa : Nat) : (s.takesPort pa).scq = s.scq := by unfold State.takesPort; split <;> simp
@[simp] theorem takesPort_owned (s : State) (pa : Nat) : (s.takesPort pa).owned = s.owned := by unfold State.takesPort; split <;> simp
@[simp] theorem takesPort_mail (s : State) (pa : Nat) : (s.takesPort pa).mail = s.mail := by unfold State.takesPort; split <;> simp
@[simp] theorem takesPort_recvs (s : State) (pa : Nat) : (s.takesPort pa).recvs = s.recvs := by unfold State.takesPort; split <;> simp
@[simp] theorem takesPort_tlb (s : State) (pa : Nat) : (s.takesPort pa).tlb = s.tlb := by unfold State.takesPort; split <;> simp
@[simp] theorem takesPort_pointers (s : State) (pa : Nat) : (s.takesPort pa).pointers = s.pointers := by unfold State.takesPort; split <;> simp
@[simp] theorem takesPort_walks (s : State) (pa : Nat) : (s.takesPort pa).walks = s.walks := by unfold State.takesPort; split <;> simp
@[simp] theorem takesPort_misses (s : State) (pa : Nat) : (s.takesPort pa).misses = s.misses := by unfold State.takesPort; split <;> simp
@[simp] theorem takesPort_sys (s : State) (pa : Nat) : (s.takesPort pa).sys = s.sys := by unfold State.takesPort; split <;> simp
@[simp] theorem takesPort_moor (s : State) (pa : Nat) : (s.takesPort pa).moor = s.moor := by unfold State.takesPort; split <;> simp
@[simp] theorem takesPort_stalls (s : State) (pa : Nat) : (s.takesPort pa).stalls = s.stalls := by unfold State.takesPort; split <;> simp
@[simp] theorem takesPort_returns (s : State) (pa : Nat) : (s.takesPort pa).returns = s.returns := by unfold State.takesPort; split <;> simp
@[simp] theorem takesPort_copies (s : State) (pa : Nat) : (s.takesPort pa).copies = s.copies := by unfold State.takesPort; split <;> simp
@[simp] theorem takesPort_arrays (s : State) (pa : Nat) : (s.takesPort pa).arrays = s.arrays := by unfold State.takesPort; split <;> simp
@[simp] theorem takesPort_punits (s : State) (pa : Nat) : (s.takesPort pa).punits = s.punits := by unfold State.takesPort; split <;> simp
@[simp] theorem takesPort_colls (s : State) (pa : Nat) : (s.takesPort pa).colls = s.colls := by unfold State.takesPort; split <;> simp
@[simp] theorem takesPort_stores (s : State) (pa : Nat) : (s.takesPort pa).stores = s.stores := by unfold State.takesPort; split <;> simp
@[simp] theorem takesPort_creators (s : State) (pa : Nat) : (s.takesPort pa).creators = s.creators := by unfold State.takesPort; split <;> simp
@[simp] theorem takesPort_decs (s : State) (pa : Nat) : (s.takesPort pa).decs = s.decs := by unfold State.takesPort; split <;> simp
@[simp] theorem takesPort_tenders (s : State) (pa : Nat) : (s.takesPort pa).tenders = s.tenders := by unfold State.takesPort; split <;> simp
@[simp] theorem takesPort_queues (s : State) (pa : Nat) : (s.takesPort pa).queues = s.queues := by unfold State.takesPort; split <;> simp
@[simp] theorem takesPort_records (s : State) (pa : Nat) : (s.takesPort pa).records = s.records := by unfold State.takesPort; split <;> simp
@[simp] theorem takesPort_replicas (s : State) (pa : Nat) : (s.takesPort pa).replicas = s.replicas := by unfold State.takesPort; split <;> simp
@[simp] theorem takesPort_btops (s : State) (pa : Nat) : (s.takesPort pa).btops = s.btops := by unfold State.takesPort; split <;> simp
@[simp] theorem takesPort_pkg (s : State) (pa : Nat) : (s.takesPort pa).pkg = s.pkg := by unfold State.takesPort; split <;> simp
@[simp] theorem takesPort_agenda (s : State) (pa : Nat) : (s.takesPort pa).agenda = s.agenda := by unfold State.takesPort; split <;> simp
@[simp] theorem takesPort_turns (s : State) (pa : Nat) : (s.takesPort pa).turns = s.turns := by unfold State.takesPort; split <;> simp
@[simp] theorem takesPort_clk (s : State) (pa : Nat) : (s.takesPort pa).clk = s.clk := by unfold State.takesPort; split <;> simp
@[simp] theorem takesPort_fresh (s : State) (pa : Nat) : (s.takesPort pa).fresh = s.fresh := by unfold State.takesPort; split <;> simp
@[simp] theorem takesPort_nextId (s : State) (pa : Nat) : (s.takesPort pa).nextId = s.nextId := by unfold State.takesPort; split <;> simp

/-! ### markReady -/

@[simp] theorem markReady_mem (s : State) : (s.markReady).mem = s.mem := rfl
@[simp] theorem markReady_cores (s : State) : (s.markReady).cores = s.cores := rfl
@[simp] theorem markReady_crews (s : State) : (s.markReady).crews = s.crews := rfl
@[simp] theorem markReady_tasks (s : State) : (s.markReady).tasks = s.tasks := rfl
@[simp] theorem markReady_barriers (s : State) : (s.markReady).barriers = s.barriers := rfl
@[simp] theorem markReady_fes (s : State) : (s.markReady).fes = s.fes := rfl
@[simp] theorem markReady_armed (s : State) : (s.markReady).armed = s.armed := rfl
@[simp] theorem markReady_net (s : State) : (s.markReady).net = s.net := rfl
@[simp] theorem markReady_scq (s : State) : (s.markReady).scq = s.scq := rfl
@[simp] theorem markReady_owned (s : State) : (s.markReady).owned = s.owned := rfl
@[simp] theorem markReady_mail (s : State) : (s.markReady).mail = s.mail := rfl
@[simp] theorem markReady_recvs (s : State) : (s.markReady).recvs = s.recvs := rfl
@[simp] theorem markReady_tlb (s : State) : (s.markReady).tlb = s.tlb := rfl
@[simp] theorem markReady_pointers (s : State) : (s.markReady).pointers = s.pointers := rfl
@[simp] theorem markReady_walks (s : State) : (s.markReady).walks = s.walks := rfl
@[simp] theorem markReady_misses (s : State) : (s.markReady).misses = s.misses := rfl
@[simp] theorem markReady_sys (s : State) : (s.markReady).sys = s.sys := rfl
@[simp] theorem markReady_moor (s : State) : (s.markReady).moor = s.moor := rfl
@[simp] theorem markReady_stalls (s : State) : (s.markReady).stalls = s.stalls := rfl
@[simp] theorem markReady_returns (s : State) : (s.markReady).returns = s.returns := rfl
@[simp] theorem markReady_copies (s : State) : (s.markReady).copies = s.copies := rfl
@[simp] theorem markReady_arrays (s : State) : (s.markReady).arrays = s.arrays := rfl
@[simp] theorem markReady_punits (s : State) : (s.markReady).punits = s.punits := rfl
@[simp] theorem markReady_colls (s : State) : (s.markReady).colls = s.colls := rfl
@[simp] theorem markReady_stores (s : State) : (s.markReady).stores = s.stores := rfl
@[simp] theorem markReady_creators (s : State) : (s.markReady).creators = s.creators := rfl
@[simp] theorem markReady_decs (s : State) : (s.markReady).decs = s.decs := rfl
@[simp] theorem markReady_tenders (s : State) : (s.markReady).tenders = s.tenders := rfl
@[simp] theorem markReady_queues (s : State) : (s.markReady).queues = s.queues := rfl
@[simp] theorem markReady_records (s : State) : (s.markReady).records = s.records := rfl
@[simp] theorem markReady_replicas (s : State) : (s.markReady).replicas = s.replicas := rfl
@[simp] theorem markReady_btops (s : State) : (s.markReady).btops = s.btops := rfl
@[simp] theorem markReady_pkg (s : State) : (s.markReady).pkg = s.pkg := rfl
@[simp] theorem markReady_agenda (s : State) : (s.markReady).agenda = s.agenda := rfl
@[simp] theorem markReady_turns (s : State) : (s.markReady).turns = s.turns := rfl
@[simp] theorem markReady_clk (s : State) : (s.markReady).clk = s.clk := rfl
@[simp] theorem markReady_fresh (s : State) : (s.markReady).fresh = s.fresh := rfl
@[simp] theorem markReady_nextId (s : State) : (s.markReady).nextId = s.nextId := rfl

end Sys2Proof.Machine
end

