-- ==== Sys2Proof/Laws/Memory.lean ====
section
/-! SUPPORT. What the operations over memory do: each keeps the canonical form, a read after a write at the same place gives what was
written, and a write leaves every other byte alone. -/

namespace Sys2Proof.Machine

/-! ### Rising keys -/

theorem rising_iff (l : List Nat) : rising l = true ↔ l.Pairwise (· < ·) := by
  induction l with
  | nil => simp [rising]
  | cons x t ih =>
    cases t with
    | nil => simp [rising]
    | cons y t =>
      simp only [rising, Bool.and_eq_true, decide_eq_true_eq, ih]
      constructor
      · rintro ⟨h, hp⟩
        refine List.pairwise_cons.2 ⟨?_, hp⟩
        intro z hz
        rcases List.mem_cons.1 hz with rfl | hz
        · exact h
        · exact h.trans ((List.pairwise_cons.1 hp).1 z hz)
      · intro hp
        have := List.pairwise_cons.1 hp
        exact ⟨this.1 y (by simp), this.2⟩

theorem rising_filter (l : List Nat) (p : Nat → Bool) (h : rising l = true) : rising (l.filter p) = true :=
  (rising_iff _).2 (((rising_iff _).1 h).filter _)

theorem mem_setIns (a x : Nat) (l : List Nat) : x ∈ setIns a l ↔ x = a ∨ x ∈ l := by
  induction l with
  | nil => simp [setIns]
  | cons y t ih =>
    simp only [setIns]
    split
    · simp
    · split
      · next h => subst h; simp
      · simp only [List.mem_cons, ih]; tauto

theorem rising_setIns (a : Nat) (l : List Nat) (h : rising l = true) : rising (setIns a l) = true := by
  rw [rising_iff] at *
  induction l with
  | nil => simp [setIns]
  | cons y t ih =>
    have ⟨h1, h2⟩ := List.pairwise_cons.1 h
    simp only [setIns]
    split
    · next hay =>
      refine List.pairwise_cons.2 ⟨?_, h⟩
      intro z hz
      rcases List.mem_cons.1 hz with rfl | hz
      · exact hay
      · exact hay.trans (h1 z hz)
    · split
      · exact h
      · next hay hne =>
        refine List.pairwise_cons.2 ⟨?_, ih h2⟩
        intro z hz
        rcases (mem_setIns a z t).1 hz with rfl | hz
        · omega
        · exact h1 z hz

theorem rising_keys_filter {α : Type} (l : List (Nat × α)) (p : Nat × α → Bool) (h : rising (l.map (·.1)) = true) :
    rising ((l.filter p).map (·.1)) = true :=
  (rising_iff _).2 (((rising_iff _).1 h).sublist (List.filter_sublist.map _))

theorem mem_mapSet {α : Type} (a x : Nat) (v : α) (l : List (Nat × α)) (h : x ∈ (mapSet a v l).map (·.1)) : x = a ∨ x ∈ l.map (·.1) := by
  induction l with
  | nil => simpa [mapSet] using h
  | cons y t ih =>
    obtain ⟨y, w⟩ := y
    simp only [mapSet] at h
    split at h
    · simpa using h
    · split at h
      · next e => subst e; right; simpa using h
      · simp only [List.map_cons, List.mem_cons] at h ⊢
        rcases h with h | h
        · exact .inr (.inl h)
        · rcases ih h with h | h
          · exact .inl h
          · exact .inr (.inr h)

theorem rising_mapSet {α : Type} (a : Nat) (v : α) (l : List (Nat × α)) (h : rising (l.map (·.1)) = true) :
    rising ((mapSet a v l).map (·.1)) = true := by
  rw [rising_iff] at *
  induction l with
  | nil => simp [mapSet]
  | cons y t ih =>
    obtain ⟨y, w⟩ := y
    simp only [List.map_cons] at h
    have ⟨h1, h2⟩ := List.pairwise_cons.1 h
    simp only [mapSet]
    split
    · next hay =>
      simp only [List.map_cons]
      refine List.pairwise_cons.2 ⟨?_, h⟩
      intro z hz
      rcases List.mem_cons.1 hz with rfl | hz
      · exact hay
      · exact hay.trans (h1 z hz)
    · split
      · next e => subst e; exact h
      · next hay hne =>
        simp only [List.map_cons]
        refine List.pairwise_cons.2 ⟨?_, ih h2⟩
        intro z hz
        rcases mem_mapSet a z v t hz with rfl | hz
        · omega
        · exact h1 z hz

theorem mem_mapDel {α : Type} (a x : Nat) (l : List (Nat × α)) (h : x ∈ (mapDel a l).map (·.1)) : x ∈ l.map (·.1) := by
  induction l with
  | nil => exact h
  | cons y t ih =>
    simp only [mapDel] at h
    split at h
    · exact List.mem_cons_of_mem _ h
    · rcases List.mem_cons.1 h with h | h
      · exact List.mem_cons.2 (.inl h)
      · exact List.mem_cons_of_mem _ (ih h)

theorem rising_mapDel {α : Type} (a : Nat) (l : List (Nat × α)) (h : rising (l.map (·.1)) = true) : rising ((mapDel a l).map (·.1)) = true := by
  rw [rising_iff] at *
  induction l with
  | nil => exact h
  | cons y t ih =>
    have ⟨h1, h2⟩ := List.pairwise_cons.1 h
    simp only [mapDel]
    split
    · exact h2
    · exact List.pairwise_cons.2 ⟨fun z hz => h1 z (mem_mapDel a z t hz), ih h2⟩

/-! ### Cells -/

theorem mem_cellSet (a x : Nat) (b : Byte) (l : List Host.Cell) (h : x ∈ (cellSet a b l).map (·.1)) : x = a ∨ x ∈ l.map (·.1) := by
  induction l with
  | nil => simp only [cellSet] at h; split at h <;> simp_all
  | cons y t ih =>
    obtain ⟨y, w⟩ := y
    simp only [cellSet] at h
    split at h
    · split at h <;> simp_all
    · split at h
      · split at h <;> simp_all
      · simp only [List.map_cons, List.mem_cons] at h ⊢
        rcases h with h | h
        · exact .inr (.inl h)
        · rcases ih h with h | h
          · exact .inl h
          · exact .inr (.inr h)

theorem rising_cellSet (a : Nat) (b : Byte) (l : List Host.Cell) (h : rising (l.map (·.1)) = true) :
    rising ((cellSet a b l).map (·.1)) = true := by
  rw [rising_iff] at *
  induction l with
  | nil => simp only [cellSet]; split <;> simp
  | cons y t ih =>
    obtain ⟨y, w⟩ := y
    simp only [List.map_cons] at h
    have ⟨h1, h2⟩ := List.pairwise_cons.1 h
    simp only [cellSet]
    split
    · next hay =>
      split
      · exact h
      · simp only [List.map_cons]
        refine List.pairwise_cons.2 ⟨?_, h⟩
        intro z hz
        rcases List.mem_cons.1 hz with rfl | hz
        · exact hay
        · exact hay.trans (h1 z hz)
    · split
      · next e => subst e; split <;> first | exact h2 | exact h
      · next hay hne =>
        simp only [List.map_cons]
        refine List.pairwise_cons.2 ⟨?_, ih h2⟩
        intro z hz
        rcases mem_cellSet a z b t hz with rfl | hz
        · omega
        · exact h1 z hz

theorem cellSet_nonzero (a : Nat) (b : Byte) (l : List Host.Cell) (h : ∀ c ∈ l, c.2 ≠ 0) : ∀ c ∈ cellSet a b l, c.2 ≠ 0 := by
  induction l with
  | nil => intro c hc; simp only [cellSet] at hc; split at hc <;> simp_all
  | cons y t ih =>
    obtain ⟨y, w⟩ := y
    intro c hc
    simp only [cellSet] at hc
    have ht : ∀ c ∈ t, c.2 ≠ 0 := fun c hc => h c (by simp [hc])
    split at hc
    · split at hc
      · exact h c hc
      · rcases List.mem_cons.1 hc with rfl | hc
        · assumption
        · exact h c hc
    · split at hc
      · split at hc
        · exact ht c hc
        · rcases List.mem_cons.1 hc with rfl | hc
          · assumption
          · exact ht c hc
      · rcases List.mem_cons.1 hc with rfl | hc
        · exact h _ (by simp)
        · exact ih ht c hc

theorem cellGet_out (x : Nat) (l : List Host.Cell) (h : ∀ y ∈ l.map (·.1), x < y) : cellGet x l = 0 := by
  induction l with
  | nil => rfl
  | cons y t ih =>
    obtain ⟨y, w⟩ := y
    have hx : x < y := h y (by simp)
    simp only [cellGet, if_neg (by omega : ¬ x = y)]
    exact ih fun z hz => h z (by simp only [List.map_cons, List.mem_cons]; exact .inr hz)

/-- A byte read after a byte is written. -/
theorem cellGet_cellSet (x a : Nat) (b : Byte) (l : List Host.Cell) (h : rising (l.map (·.1)) = true) :
    cellGet x (cellSet a b l) = if x = a then b else cellGet x l := by
  rw [rising_iff] at h
  induction l with
  | nil => simp only [cellSet]; split <;> simp_all [cellGet]
  | cons y t ih =>
    obtain ⟨y, w⟩ := y
    simp only [List.map_cons] at h
    have ⟨h1, h2⟩ := List.pairwise_cons.1 h
    simp only [cellSet]
    by_cases hay : a < y
    · have out : cellGet a ((y, w) :: t) = 0 := by
        refine cellGet_out a _ fun z hz => ?_
        rcases List.mem_cons.1 hz with rfl | hz
        · exact hay
        · exact hay.trans (h1 z hz)
      rw [if_pos hay]
      by_cases hb : b = 0
      · rw [if_pos hb]
        by_cases hx : x = a
        · rw [if_pos hx, hx, out, hb]
        · rw [if_neg hx]
      · rw [if_neg hb]; simp only [cellGet]
    · rw [if_neg hay]
      by_cases e : a = y
      · subst e
        rw [if_pos rfl]
        by_cases hb : b = 0
        · rw [if_pos hb]
          by_cases hx : x = a
          · rw [if_pos hx, hx, cellGet_out a t h1, hb]
          · rw [if_neg hx]; simp only [cellGet, if_neg hx]
        · rw [if_neg hb]
          by_cases hx : x = a <;> simp only [cellGet, hx, if_true, if_false]
      · rw [if_neg e]
        simp only [cellGet, ih h2]
        by_cases hx : x = y
        · subst hx; simp [Ne.symm e]
        · simp [hx]

/-! ### The canonical form -/

/-- The canonical form, part by part. -/
theorem wf_iff (m : Memory) : m.wf = true ↔
    rising (m.cells.map (·.1)) = true ∧ (∀ c ∈ m.cells, c.2 ≠ 0) ∧ rising m.tags = true ∧ rising m.empties = true ∧
      rising m.poison = true ∧ rising (m.keys.map (·.1)) = true ∧ rising (m.checks.map (·.1)) = true := by
  simp only [Memory.wf, Bool.and_eq_true, List.all_eq_true, decide_eq_true_eq]
  tauto

theorem setByte_wf (m : Memory) (a : Nat) (b : Byte) (h : m.wf = true) : (m.setByte a b).wf = true := by
  rw [wf_iff] at *
  exact ⟨rising_cellSet a b _ h.1, cellSet_nonzero a b _ h.2.1, h.2.2⟩

theorem setBytes_wf (m : Memory) (a : Nat) (l : List Byte) (h : m.wf = true) : (m.setBytes a l).wf = true := by
  induction l generalizing m a with
  | nil => exact h
  | cons b t ih => exact ih _ _ (setByte_wf m a b h)

theorem clearTags_wf (m : Memory) (a n : Nat) (h : m.wf = true) : (m.clearTags a n).wf = true := by
  rw [wf_iff] at *
  exact ⟨h.1, h.2.1, rising_filter _ _ h.2.2.1, h.2.2.2⟩

theorem setTag_wf (m : Memory) (a : Nat) (h : m.wf = true) : (m.setTag a).wf = true := by
  rw [wf_iff] at *
  exact ⟨h.1, h.2.1, rising_setIns _ _ h.2.2.1, h.2.2.2⟩

theorem store_wf (m : Memory) (a n v : Nat) (h : m.wf = true) : (m.store a n v).wf = true :=
  clearTags_wf _ _ _ (setBytes_wf _ _ _ h)

theorem heal_wf (m : Memory) (a : Nat) (h : m.wf = true) : (m.heal a).wf = true := by
  rw [wf_iff] at *
  exact ⟨h.1, h.2.1, h.2.2.1, h.2.2.2.1, rising_filter _ _ h.2.2.2.2.1, h.2.2.2.2.2.1, rising_mapDel _ _ h.2.2.2.2.2.2⟩

theorem poisonLine_wf (m : Memory) (a : Nat) (h : m.wf = true) : (m.poisonLine a).wf = true := by
  rw [wf_iff] at *
  exact ⟨h.1, h.2.1, h.2.2.1, h.2.2.2.1, rising_setIns _ _ h.2.2.2.2.1, h.2.2.2.2.2⟩

theorem setFull_wf (m : Memory) (a : Nat) (full : Bool) (h : m.wf = true) : (m.setFull a full).wf = true := by
  rw [wf_iff] at *
  refine ⟨h.1, h.2.1, h.2.2.1, ?_, h.2.2.2.2⟩
  cases full
  · exact rising_setIns _ _ h.2.2.2.1
  · exact rising_filter _ _ h.2.2.2.1

theorem rising_mapSets {α : Type} (v : α) (xs : List Nat) (l : List (Nat × α)) (h : rising (l.map (·.1)) = true) :
    rising ((xs.foldl (fun l x => mapSet x v l) l).map (·.1)) = true := by
  induction xs generalizing l with
  | nil => exact h
  | cons x t ih => exact ih _ (rising_mapSet _ _ _ h)

theorem renew_wf (m : Memory) (a n : Nat) (key : Option Nat) (h : m.wf = true) : (m.renew a n key).wf = true := by
  rw [wf_iff] at *
  have hk := rising_keys_filter m.keys (fun p => !decide (a / 64 ≤ p.1 ∧ p.1 < (a + n + 63) / 64)) h.2.2.2.2.2.1
  refine ⟨h.1, h.2.1, h.2.2.1, h.2.2.2.1, rising_filter _ _ h.2.2.2.2.1, ?_, rising_keys_filter _ _ h.2.2.2.2.2.2⟩
  cases key with
  | none => exact hk
  | some k => exact rising_mapSets _ _ _ hk

theorem setKey_wf (m : Memory) (a k : Nat) (h : m.wf = true) : ({ m with keys := mapSet a k m.keys } : Memory).wf = true := by
  rw [wf_iff] at *
  exact ⟨h.1, h.2.1, h.2.2.1, h.2.2.2.1, h.2.2.2.2.1, rising_mapSet _ _ _ h.2.2.2.2.2.1, h.2.2.2.2.2.2⟩

theorem underKey_wf (m : Memory) (a : Nat) (key : Option Nat) (h : m.wf = true) : (m.underKey a key).wf = true := by
  unfold Memory.underKey
  split
  · rw [wf_iff] at *
    refine ⟨h.1, h.2.1, h.2.2.1, h.2.2.2.1, h.2.2.2.2.1, ?_, h.2.2.2.2.2.2⟩
    cases key with
    | none => exact rising_mapDel _ _ h.2.2.2.2.2.1
    | some k => exact rising_mapSet _ _ _ h.2.2.2.2.2.1
  · exact h

/-- The check of a handed-over line changes poison and the failed check value alone. -/
theorem checked_wf (m : Memory) (a : Nat) (key : Option Nat) (h : m.wf = true) : (m.checked a key).wf = true := by
  unfold Memory.checked
  split
  · have h1 := poisonLine_wf m a h
    rw [wf_iff] at h1 ⊢
    exact ⟨h1.1, h1.2.1, h1.2.2.1, h1.2.2.2.1, h1.2.2.2.2.1, h1.2.2.2.2.2.1, rising_mapDel _ _ h1.2.2.2.2.2.2⟩
  · exact h

theorem moveKeys_wf (m : Memory) (f : Nat × Nat → Nat) (h : m.wf = true) :
    ({ m with keys := m.keys.map fun p => (p.1, f p) } : Memory).wf = true := by
  rw [wf_iff] at *
  have : (m.keys.map fun p => (p.1, f p)).map (·.1) = m.keys.map (·.1) := by simp [List.map_map, Function.comp_def]
  exact ⟨h.1, h.2.1, h.2.2.1, h.2.2.2.1, h.2.2.2.2.1, by simpa only [this] using h.2.2.2.2.2.1, h.2.2.2.2.2.2⟩

/-- A fold of operations that each keep the form keeps it. -/
theorem foldl_wf {α : Type} (f : Memory → α → Memory) (hf : ∀ m x, m.wf = true → (f m x).wf = true) (l : List α) (m : Memory)
    (h : m.wf = true) : (l.foldl f m).wf = true := by
  induction l generalizing m with
  | nil => exact h
  | cons x t ih => exact ih _ (hf m x h)

theorem bankQuarter_wf (k alpha w : Nat) (m : Memory) (a data n : Nat) (h : m.wf = true) : (bankQuarter k alpha w m a data n).wf = true := by
  induction n generalizing m a data with
  | zero => exact h
  | succ n ih => exact ih _ _ _ (setBytes_wf _ _ _ h)

theorem bankLine_wf (k alpha : Nat) (m : Memory) (a : Nat) (l : List (Option Quad)) (h : m.wf = true) : (bankLine k alpha m a l).wf = true := by
  induction l generalizing m a with
  | nil => exact h
  | cons d t ih =>
    cases d with
    | none => exact ih _ _ h
    | some d => exact ih _ _ (bankQuarter_wf _ _ _ _ _ _ _ h)

theorem clearQuarters_wf (m : Memory) (a : Nat) (l : List (Option Quad)) (h : m.wf = true) : (clearQuarters m a l).wf = true := by
  induction l generalizing m a with
  | nil => exact h
  | cons d t ih =>
    cases d with
    | none => exact ih _ _ h
    | some _ => exact ih _ _ (clearTags_wf _ _ _ h)

/-! ### Reads after writes -/

theorem byte_setByte (m : Memory) (x a : Nat) (b : Byte) (h : m.wf = true) : (m.setByte a b).byte x = if x = a then b else m.byte x :=
  cellGet_cellSet x a b m.cells ((wf_iff m).1 h).1

theorem byte_setBytes (m : Memory) (x a : Nat) (l : List Byte) (h : m.wf = true) :
    (m.setBytes a l).byte x = if a ≤ x ∧ x < a + l.length then l.getD (x - a) 0 else m.byte x := by
  induction l generalizing m a with
  | nil => simp [Memory.setBytes]
  | cons b t ih =>
    rw [Memory.setBytes, ih _ _ (setByte_wf m a b h), byte_setByte m x a b h]
    by_cases hx : x = a
    · subst hx; simp
    · simp only [List.length_cons, if_neg hx]
      by_cases hr : a + 1 ≤ x ∧ x < a + 1 + t.length
      · rw [if_pos hr, if_pos (by omega), show x - a = (x - (a + 1)) + 1 by omega, List.getD_cons_succ]
      · rw [if_neg hr, if_neg (by omega)]

theorem natBytes_length (n v : Nat) : (natBytes n v).length = n := by
  induction n generalizing v with
  | zero => rfl
  | succ n ih => simp [natBytes, ih]

/-- A byte outside a store is as it was. -/
theorem byte_store_out (m : Memory) (a n v x : Nat) (h : m.wf = true) (hx : x < a ∨ a + n ≤ x) : (m.store a n v).byte x = m.byte x := by
  show (m.setBytes a (natBytes n v)).byte x = _
  rw [byte_setBytes m x a _ h, natBytes_length, if_neg (by omega)]

/-- A byte inside a store is the stored number's. -/
theorem byte_store_in (m : Memory) (a n v x : Nat) (h : m.wf = true) (h1 : a ≤ x) (h2 : x < a + n) :
    (m.store a n v).byte x = (natBytes n v).getD (x - a) 0 := by
  show (m.setBytes a (natBytes n v)).byte x = _
  rw [byte_setBytes m x a _ h, natBytes_length, if_pos ⟨h1, h2⟩]

theorem leNat_natBytes (n v : Nat) : leNat (natBytes n v) = v % 2 ^ (8 * n) := by
  induction n generalizing v with
  | zero => simp [natBytes, leNat, Nat.mod_one]
  | succ n ih =>
    simp only [natBytes, leNat, ih, BitVec.toNat_ofNat]
    have : 2 ^ (8 * (n + 1)) = 256 * 2 ^ (8 * n) := by rw [show 8 * (n + 1) = 8 * n + 8 by omega, pow_add]; omega
    rw [this, Nat.mod_mul]

theorem bytes_eq (m : Memory) (a n : Nat) : m.bytes a n = (upFrom a n).map m.byte := by
  induction n generalizing a with
  | zero => rfl
  | succ n ih => simp [Memory.bytes, upFrom, ih]

theorem bytes_append (m : Memory) (a : Nat) (l : List Byte) (h : ∀ k < l.length, m.byte (a + k) = l.getD k 0) : m.bytes a l.length = l := by
  induction l generalizing a with
  | nil => rfl
  | cons b t ih =>
    have h0 := h 0 (by simp)
    simp only [List.length_cons, Memory.bytes]
    rw [show m.byte a = b by simpa using h0, ih (a + 1) fun k hk => ?_]
    have := h (k + 1) (by simp; omega)
    rw [show a + 1 + k = a + (k + 1) by omega, this]
    simp

/-- What a store wrote is read at its place. -/
theorem nat_store (m : Memory) (a n v : Nat) (h : m.wf = true) : (m.store a n v).nat a n = v % 2 ^ (8 * n) := by
  have hb : (m.store a n v).bytes a n = natBytes n v := by
    have := bytes_append (m.store a n v) a (natBytes n v) fun k hk => by
      rw [natBytes_length] at hk
      rw [byte_store_in m a n v (a + k) h (by omega) (by omega), show a + k - a = k by omega]
    rwa [natBytes_length] at this
  rw [Memory.nat, hb, leNat_natBytes]

/-- A store clears the tags of the granules it writes and no others. -/
theorem tagAt_store (m : Memory) (a n v x : Nat) :
    (m.store a n v).tagAt x = (m.tagAt x && decide (x / 16 < a / 16 ∨ (a + n - 1) / 16 < x / 16)) := by
  have ht : (m.setBytes a (natBytes n v)).tags = m.tags := by
    generalize natBytes n v = l
    induction l generalizing m a with
    | nil => rfl
    | cons b t ih => exact ih _ _
  rw [Bool.eq_iff_iff]
  simp only [Memory.store, Memory.clearTags, Memory.tagAt, ht, List.contains_iff_mem, List.mem_filter, Bool.and_eq_true, decide_eq_true_eq]

/-! ### An operation performed at its home -/

/-- A property that the operations over memory keep holds after an operation is performed. -/
theorem perform_keeps (P : Memory → Prop) (hstore : ∀ m a n v, P m → P (m.store a n v)) (htag : ∀ m a, P m → P (m.setTag a))
    (hheal : ∀ m a, P m → P (m.heal a)) (hcheck : ∀ m a key, P m → P (m.checked a key)) (hkey : ∀ m a key, P m → P (m.underKey a key))
    (hbank : ∀ k al m a (l : List (Option Quad)), P m → P (clearQuarters (bankLine k al m a l) a l))
    (op : MemOp) (a : Nat) (key : Option Nat) (m : Memory) (h : P m) : P (perform op a key m).mem := by
  unfold perform
  extract_lets m1 mk bad
  have h1 : P m1 := hcheck _ _ _ h
  have hmk : ∀ m, P m → P (mk m) := fun m h => hkey _ _ _ h
  clear_value m1 mk bad
  have hst := fun b n v => hstore m1 b n v h1
  cases op <;> dsimp only <;> (repeat' split) <;> (try dsimp only) <;> (try with_reducible exact h1)
  all_goals with_reducible
    first
      | exact htag _ _ (hmk _ (hst _ _ _))
      | exact hmk _ (hheal _ _ (hst _ _ _))
      | exact hheal _ _ (hst _ _ _)
      | exact hmk _ (hbank _ _ _ _ _ h1)
      | exact hmk _ (hst _ _ _)

/-- Performing an operation keeps the canonical form. -/
theorem perform_wf (op : MemOp) (a : Nat) (key : Option Nat) (m : Memory) (h : m.wf = true) : (perform op a key m).mem.wf = true :=
  perform_keeps (·.wf = true) store_wf setTag_wf heal_wf checked_wf underKey_wf
    (fun _ _ _ _ _ h => clearQuarters_wf _ _ _ (bankLine_wf _ _ _ _ _ h)) op a key m h

/-- A store by a group or an agent keeps the canonical form. -/
theorem storeAt_wf (s : State) (w a n v : Nat) (h : s.mem.wf = true) : (s.storeAt w a n v).mem.wf = true := store_wf _ _ _ _ h

/-- An access at its home keeps the canonical form, and a refused one leaves memory as it was. -/
theorem atHome_wf (s : State) (op : MemOp) (pa : Nat) (key : Option Nat) (h : s.mem.wf = true) : (s.atHome op pa key).mem.wf = true := by
  unfold State.atHome
  split
  · exact h
  · exact perform_wf op pa key s.mem h

theorem atHome_refused (s : State) (op : MemOp) (pa : Nat) (key : Option Nat) (r : BitVec 4) (h : s.refusal op pa = some r) :
    s.atHome op pa key = ⟨s.mem, poisonVal, none, some r⟩ := by
  simp only [State.atHome, h]

/-! ### Spans of engines, queues and units -/

theorem poke_wf (s : State) (pa n v : Nat) (h : s.mem.wf = true) : (s.poke pa n v).mem.wf = true := store_wf _ _ _ _ h

theorem poke_mem (s : State) (pa n v : Nat) : (s.poke pa n v).mem = s.mem.store pa n v := rfl

theorem spillWrites_wf (core a n : Nat) (l : List StackEntry) (m : Memory) (h : m.wf = true) : (spillWrites core a n l m).wf = true := by
  induction l generalizing n m with
  | nil => exact h
  | cons e t ih =>
    refine ih _ _ ?_
    split
    · exact store_wf _ _ _ _ h
    · exact h

theorem putPage_wf (m : Memory) (page v : Nat) (poison : Bool) (h : m.wf = true) : (m.putPage page v poison).wf = true := by
  refine foldl_wf _ (fun m k hm => ?_) _ _ (store_wf _ _ _ _ h)
  cases poison
  · exact heal_wf _ _ hm
  · exact poisonLine_wf _ _ hm

theorem evqWrite_wf (s : State) (pa : Nat) (bits : Quad) (h : s.mem.wf = true) : (s.evqWrite pa bits).mem.wf = true :=
  poke_wf _ _ _ _ (poke_wf _ _ _ _ (by rw [takesPort_mem]; exact h))

/-- A line handed over keeps the canonical form. -/
theorem handOver_wf (s : State) (op : MemOp) (pa : Nat) (key : Option Nat) (h : s.mem.wf = true) : (s.handOver op pa key).mem.wf = true :=
  checked_wf _ _ _ h

/-- Noticing a list of writes leaves memory as it is. -/
theorem noticed_foldl_mem (l : List (Nat × Byte)) (s : State) : (l.foldl (fun s b => s.noticed 0 b.1 1) s).mem = s.mem := by
  induction l generalizing s with
  | nil => rfl
  | cons b t ih => exact ih _

/-- A line that an engine writes at its home, or that the home refuses, keeps the canonical form. -/
theorem writeLine_wf (s : State) (core line : Nat) (bytes : List (Nat × Byte)) (poison : Bool) (key : Option Nat) (h : s.mem.wf = true) :
    (s.writeLine core line bytes poison key).1.mem.wf = true := by
  unfold State.writeLine
  dsimp only
  split
  · exact h
  · have hs : ∀ b : Bool, (if b = true then s else s.handOver (.load 64 false false) (line * 64) key).mem.wf = true := by
      intro b; cases b
      · exact handOver_wf _ _ _ _ h
      · exact h
    have h0 := hs (decide (64 ≤ (bytes.map (·.1)).eraseDups.length))
    generalize (if decide (64 ≤ (bytes.map (·.1)).eraseDups.length) = true then s
      else s.handOver (.load 64 false false) (line * 64) key) = s1 at h0
    split
    · exact h0
    · show (List.foldl (fun (s : State) b => s.noticed 0 b.1 1) _ bytes).mem.wf = true
      rw [noticed_foldl_mem]
      refine underKey_wf _ _ _ ?_
      have h1 : (bytes.foldl (fun m b => (m.setByte b.1 b.2).clearTags b.1 1) (s1.takesPort (line * 64)).mem).wf = true :=
        foldl_wf _ (fun m b hm => clearTags_wf _ _ _ (setByte_wf _ _ _ hm)) _ _ (by rw [takesPort_mem]; exact h0)
      split
      · exact poisonLine_wf _ _ h1
      · split
        · exact heal_wf _ _ h1
        · exact h1

/-- A removed key leaves memory's bytes, and its canonical form, as they were. -/
theorem removeKey_wf (s : State) (k : Nat) (h : s.mem.wf = true) : (s.removeKey k).mem.wf = true := by
  have e : (s.removeKey k).mem = { s.mem with keys := s.mem.keys.map fun p => (p.1, if p.2 = k then 2 ^ 16 + s.nextId else p.2) } := by
    have : (fun p : Nat × Nat => if p.2 = k then (p.1, 2 ^ 16 + s.nextId) else p) = fun p => (p.1, if p.2 = k then 2 ^ 16 + s.nextId else p.2) := by
      funext p; split <;> rfl
    simp only [State.removeKey, this]
  rw [e]
  exact moveKeys_wf _ _ h

/-- Memory after reset is in the canonical form (log 1). -/
theorem upset_wf (s : State) (line : Nat) (diff : BitVec 32) (h : s.mem.wf = true) : (s.upset line diff).mem.wf = true := by
  unfold State.upset
  split
  · exact h
  · rw [wf_iff] at h ⊢
    exact ⟨h.1, h.2.1, h.2.2.1, h.2.2.2.1, h.2.2.2.2.1, h.2.2.2.2.2.1, rising_mapSet _ _ _ h.2.2.2.2.2.2⟩

/-- A write of the route table leaves memory, groups, cores, crews and tasks alone. -/
theorem setRoute_frame (s : State) (pod : BitVec 8) (port : Option Nat) :
    (s.setRoute pod port).mem = s.mem ∧ (s.setRoute pod port).all = s.all ∧ (s.setRoute pod port).cores = s.cores ∧
      (s.setRoute pod port).crews = s.crews ∧ (s.setRoute pod port).tasks = s.tasks := ⟨rfl, rfl, rfl, rfl, rfl⟩

theorem mapGet_mapSet {α : Type} (a : Nat) (v : α) (l : List (Nat × α)) : mapGet a (mapSet a v l) = some v := by
  induction l with
  | nil => simp [mapSet, mapGet]
  | cons x l ih => unfold mapSet; (repeat' split) <;> simp_all [mapGet]

/-- Traffic to a package leaves through the port that its entry names, while that port is up and its die in service (22 R428). -/
theorem setRoute_routeTo (s : State) (pod : BitVec 8) (p : Nat) (h : p < 32) (hd : s.pkg.fabric.down.contains p = false)
    (hs : s.pkg.deadDies.getLsbD (portDie p) = false) : (s.setRoute pod (some p)).routeTo pod = some p := by
  simp only [State.routeTo, State.setRoute, if_pos h, mapGet_mapSet, hd, hs]
  exact if_neg (by simp [h])

theorem reset_wf : State.reset.mem.wf = true := by decide

end Sys2Proof.Machine
end

