-- ==== Sys2Proof/Tests/Slice0.lean ====
section
/-! SUPPORT. Tests: small states, states and operands that meet the hypotheses of each statement, ill-formed instructions, words written out
from the spec's encodings, and worked examples of the spec. -/

set_option maxRecDepth 100000
set_option Elab.async false

namespace Sys2Proof.Machine

/-! ### Small states -/


/-- The state after an outcome, or another. -/
def nextOf (o : Host.Outcome State Fault Refusal) (s : State) : State := match o with | .next t => t | _ => s
/-- Whether an outcome is a next state. -/
def isNext (o : Host.Outcome State Fault Refusal) : Bool := match o with | .next _ => true | _ => false
theorem nextOf_eq (o : Host.Outcome State Fault Refusal) (s : State) (h : isNext o = true) : o = .next (nextOf o s) := by
  cases o <;> first | rfl | cases h


/-- A strand on core 0, and a gang of one slice with four lanes on core 2, as a launch leaves them. -/
def strandAt : State := { State.reset with g := Group.probe false, clk := 1000, nextId := 7 }
def gangAt : State := { State.reset with g := Group.probe true, clk := 1000, nextId := 7 }

/-- The group's lanes with a register. -/
def State.put (s : State) (c : BitVec 6) (v : Val) : State := { s with g := { s.g with lanes := s.g.lanes.map fun l => l.setReg c v } }
/-- One lane with a register. -/
def State.putLane (s : State) (no : Nat) (c : BitVec 6) (v : Val) : State :=
  { s with g := { s.g with lanes := s.g.lanes.map fun l => if l.no = no then l.setReg c v else l } }
/-- The group changed. -/
def State.grp (s : State) (f : Group → Group) : State := { s with g := f s.g }
/-- A number as DATA. -/
def num (n : Nat) : Val := asData (BitVec.ofNat 64 n)

/-- A flat executable capability over the first strand's code. -/
def codeAt : Val := flatCap 0x24 (2 ^ 40 + 0x1000) 0x1000
/-- A gang whose lanes 1 and 2 differ from lane 0 in k6. -/
def apart : State := (gangAt.putLane 1 6 (num 1)).putLane 2 6 (num 1)
/-- The gang inside a split whose join point is 40 bytes past its pc. -/
def State.inSplit (s : State) : State :=
  s.grp fun g => { g with slices := g.slices.map fun sl => { sl with stack := [⟨true, g.pc + 40, g.codeCap, 15, 0, 3⟩] } }

/-- The slices of a group with stacks. -/
def State.stacked (s : State) (l : List StackEntry) : State := s.grp fun g => { g with slices := g.slices.map fun sl => { sl with stack := l } }
/-- The first slice of a group. -/
def State.slice0 (s : State) : Slice := s.g.slices.headD (startSlice 0 0 0 Val.zero)
/-- A JOIN entry whose join point is the gang's pc, and a PENDING one. -/
def joinHere : StackEntry := ⟨true, gangAt.g.pc, gangAt.g.codeCap, 15, 0, 3⟩
def pathHere : StackEntry := ⟨false, gangAt.g.pc + 8, gangAt.g.codeCap, 6, 1, 3⟩
/-- Another part of the gang: its slice 1. -/
def otherPart : Group :=
  let g := (gangAt.stacked [joinHere]).g
  { g with gid := 2, first := 1, lanes := (upFrom 4 4).map fun n => startLane n [], slices := g.slices.map fun sl => { sl with idx := 1, num := 1 } }

/-- The group's slices with the element type of sr.fmt (02 R51). -/
def State.inFormat (s : State) : State := s.grp fun g => { g with slices := g.slices.map fun sl => { sl with fmt := 2 } }

/-- The state with an instruction that reads no latch in the two words after the pc. -/
def State.coded (s : State) : State := { s with mem := (s.mem.store (localPA s.g.core 0x1000) 8 0x0000002D0000002D) }
/-- The first lane of the group. -/
def State.lane0 (s : State) : Lane := s.g.lanes.headD (startLane 0 [])
/-- A capability over data of the first strand's core, and one over data of core 5. -/
def dataAt : Val := flatCap 0x9B (2 ^ 40 + 0x2000) 0x1000
def awayAt : Val := flatCap 0xFF (2 ^ 40 + 5 * 2 ^ 19 + 0x2000) 0x1000

/-- The place of an access of the first lane that its checks allow. -/
def State.placeAt (s : State) (a : BitVec 6) (ix : Int) (n align : Nat) (ps : List Perm) (need : Need) : Place :=
  match checkAccess s s.g (s.g.read s.lane0 a) a ix n align ps need with | .ok p => p | _ => ⟨0, false, none, none, false⟩
/-- The index of the first lane's register. -/
def State.at0 (s : State) (a : BitVec 6) : Int := index (s.g.read s.lane0 a)

/-- A strand with a capability over core 5's memory in k5; over shared memory; over a page of LP-DDR-5X that the TLB knows. -/
def away : State := strandAt.coded.put 5 awayAt
def banked : State := (strandAt.coded.put 5 (flatCap 0xFF 0x10000 0x1000)).put 6 (num 0x3F800000)
def farMem : State := { strandAt.coded.put 5 (flatCap 0xFF (2 ^ 50) 0x1000) with
  tlb := [⟨none, 0, none, 4, 2 ^ 50 / 2 ^ 16, 0x80000000DB⟩] }
/-- One of the strand's stores is not acknowledged. -/
def State.posting (s : State) : State :=
  s.mapCore s.g.core fun c => { c with journal := c.journal.set 0 (some ⟨0, 0, 0, 1, 0, 0, 0, 3, 0, s.g.gid, 0, 0, 0, s.g.srcOf 0, false⟩) }
/-- The registers of `ag.bind`, and the stream it binds. -/
def streaming : State := strandAt.coded.grp fun g => { g with x := ((g.x.set 0 8).set 1 4).set 3 16 }
def stream0 : Stream := ⟨dataAt, 8, 4, 0, 16, 2, 2⟩
def bound : State := streaming.grp fun g => { g with streams := g.streams.set 0 (some stream0) }

/-- A crew of task 1 on core 0, and the strand as its member, with or without a second member of the task. -/
def crew0 : Crew :=
  { id := 1, task := 1, core := 0, isG := false, ctx := 1, lo := 0x1000, len := 0x2000, total := 0x3000, evq := some 0x3000, limit := 16,
    members := 1, matrix := false, rings := Vector.replicate 4 0, wdog := 0, seen := 0, reload := 0, spillBytes := 64, spillHead := 0, spilled := [],
    preempt := false, atStep := false, since := 0, saved := false, withdrawn := false, switching := 0, area := 0, callers := [], pins := [] }
def crewed : State :=
  { strandAt.coded.grp (fun g => { g with sp := { g.sp with crew := 1, task := 1, asid := 1 } }) with crews := [crew0] }
def mate : Group := { crewed.g with gid := 2, gang := 2, first := 1, slices := crewed.g.slices.map fun sl => { sl with num := 1 } }
def mated : State := { crewed with groups := [mate] }
/-- A handler at level S with translations of two quads and a global one, and the registers of `tlb.inval`. -/
def translated : State :=
  (({ strandAt.coded.grp (fun g => { g with sp := { g.sp with status := 2, crew := 1, task := 1, asid := 1 } }) with
      crews := [crew0]
      tlb := [⟨none, 0, some 1, 4, 16, 0xDB⟩, ⟨none, 9, some 1, 4, 16, 0xDB⟩, ⟨none, 0, none, 4, 17, 0xDB⟩] } : State).put 6
    (num 0x100000)).put 7 (num 0x10000)
/-- A semaphore of core 0. -/
def State.withSem (s : State) (n : Nat) (x : Sem) : State := s.mapCore 0 fun c => c.setSem n x
/-- A partition of die 0 that lets each task have no barrier and no ring. -/
def State.parted (s : State) : State :=
  { s with pkg := { s.pkg with firmware := { s.pkg.firmware with parts := [⟨[0], 0, 0, 0, none⟩] } } }

/-- A task launched on die 0 alone, with no data in its record. -/
def task1 : Task :=
  { id := 1, record := ⟨0, Val.zero, codeAt⟩, addr := 0, asid := 1, mwb := BitVec.ofNat 64 (2 ^ 40), swb := 0, tvec := Val.zero, ctx := 1, fn := 0,
    launcher := none, light := none, dies := 1, epoch := 0, asked := 1, acked := 1, refused := 0, decided := true, aborted := false,
    start := 0, relaunches := 0, added := 0, src := 0, core := 0, killed := false, change := none, done := none, reply := false, status := 0, await := false,
    group := 0, pkgs := 0 }
/-- The first strand's barrier 2 of scope 1 in generation 4, after some arrivals, and the strand's own outstanding arrival. -/
def State.withBarrier (s : State) (arrived : List (Nat × Nat)) : State :=
  s.setBarrier ⟨s.g.barKey 1 2 false, 4, arrived, [], 0, [], false⟩
def State.arrivedAt (s : State) (gen : Nat) (pc : Option Word) : State :=
  s.grp fun g => { g with arrivals := [⟨g.barKey 1 2 false, gen, pc⟩] }

/-- A read of the strand on its way to its own core. -/
def ownRead : Req :=
  ⟨crewed.g.srcOf 0, 1, 1, 0, homeOf (localPA 0 0x2000), localPA 0 0x2000, BitVec.ofNat 64 (2 ^ 40 + 0x2000), .load 8 false false, [0], [(0, 5)],
    none, false, none, none, 0, false⟩

/-- The group with a trap handler, at a level, or with a saved capability in sr.epc. -/
def State.handled (s : State) : State := s.grp fun g => { g with sp := { g.sp with tvec := codeAt } }
def State.atLevel (s : State) (n : Nat) : State := s.grp fun g => { g with sp := { g.sp with status := BitVec.ofNat 64 n } }
def State.leaving (s : State) : State := s.grp fun g => { g with sp := { g.sp with epc := advance codeAt 8 } }
/-- A handler of the strand's crew, with its own gang number, at level T, and a stopped member of that crew. -/
def stoppedMate : Group := { mate with sp := { mate.sp with status := 0 }, run := .stopped false none }
def handler : State := { crewed.atLevel 1 with groups := [stoppedMate] }


/-- A strand about to call a gang with two arguments, and a Mooring entry of its quad. -/
def calling : State := (crewed.put 6 codeAt).put 7 (num 2)
def parkedCaller : Caller := ⟨2, 1, 0, 1, [num 5, num 6]⟩
def entry0 : MoorEntry :=
  { quad := 0, idx := 0, state := .filling, asid := 1, target := codeAt, n := 2, callers := [parkedCaller], opened := 999, mtime := 512,
    task := 1, tvec := Val.zero, mwb := BitVec.ofNat 64 (2 ^ 40), swb := 0, flushed := false, mthr := 32, pri := 0, localBytes := 0, limit := 16, wdog := 0, ctxId := 1, fn := 0,
    full := false, gang := 0 }
def State.withMoor (s : State) (l : List MoorEntry) : State := { s with moor := l }
/-- The gang as one launched by the Mooring for one caller on its lane 1. -/
def called : State :=
  { gangAt.coded.grp (fun g => { g with sp := { g.sp with crew := 1, task := 1, asid := 1 }, mooring := true }) with
    crews := [{ crew0 with core := 2, isG := true, callers := [⟨1, 9, 0, 0⟩] }] }

/-- A context with ASID 1 and a pool of 16 MiB, and its state. -/
def ctx1 : Ctx :=
  { id := 1, fn := 0, asid := 1, mwb := BitVec.ofNat 64 (2 ^ 40), swb := BitVec.ofNat 64 (2 ^ 41), spill := 64, event := 64,
    pool := 2 ^ 37, poolSize := 2 ^ 24, areas := [], objects := [], aperture := [], maps := [], keys := [], nextObj := 1, given := [] }
def State.inCtx (s : State) : State := { s with tasks := [task1], pkg := { s.pkg with contexts := [ctx1] } }
/-- The entry as a gang to be placed, on a quad whose G-cores are free or stopped. -/
def placing0 : MoorEntry := { entry0 with state := .placing }
def State.stopG (s : State) : State := (s.mapCore 2 fun c => { c with stopped := true }).mapCore 3 fun c => { c with stopped := true }

/-- A strand with a capability over core 5 for a message, and a message to its own crew. -/
def sending : State := { (away.put 6 (num 9)) with clk := 1000 }
def mail0 : Msg := ⟨77, 9, 64, 12, 3, 4, .host 0, 0, 0, 0x1000, BitVec.ofNat 64 (2 ^ 40 + 0x1000), 0, none, 9, 900⟩
def toReg : Msg := { mail0 with reg := some (8, 0, 0) }
def State.queued (s : State) (l : List Msg) : State := s.mapCore 0 fun c => { c with queue := l }
def State.mailed (s : State) (l : List Msg) : State := { s with mail := l }
def recv0 : Recv := ⟨1, 1, 0, 0, 9, 8, [0], [(0, 3)], 990⟩

/-- A matrix gang with a descriptor of mode 0 and depth 16 over operands in shared memory, and a paired one; capabilities for an
accumulator form in k16 and k22. -/
def desc (sp pair : Bool) : Vector Word 8 :=
  #v[BitVec.ofNat 64 (20 + 21 * 64 + (if sp then 23 * 2 ^ 36 + 2 ^ 46 else 0) + 2 ^ 50 + 2 ^ 51 + 5 * 2 ^ 52),
    BitVec.ofNat 64 (16 + if pair then 2 ^ 18 else 0), BitVec.ofNat 64 (32 + (if pair then 128 else 64) * 2 ^ 32), 0,
    BitVec.ofNat 64 (if sp then 2 * 2 ^ 32 else 0), 0, BitVec.ofNat 64 128, 0]
def matrixG (sp pair : Bool) : State :=
  ((((gangAt.coded.grp fun g => { g with role := 2, x := desc sp pair, sp := { g.sp with asid := 1, crew := 1, task := 1 } }).put 20
    (flatCap 0xFF 0x10000 0x4000)).put 21 (flatCap 0xFF 0x20000 0x4000)).put 23 (flatCap 0xFF 0x30000 0x4000)).put 22
      (flatCap 0xFF (2 ^ 40 + 2 * 2 ^ 19 + 0x4000) 0x1000)
/-- The elected lane, and the pages of the product's operands. -/
def State.opPages (s : State) : List XPage :=
  match s.captureAll s.g needR ((mmaOperands s.g.x7).map fun (c, rs, k, _) => (k, capRuns (s.g.read s.lane0 (BitVec.ofNat 6 c)) 0 (runsEnd rs))) with
  | .inl ps => ps | .inr _ => []
def State.formXs (s : State) (p : Perm) (need : Need) (spans : List (Nat × List (Nat × Nat) × Nat)) : List XPage :=
  match s.formPages s.lane0 p need spans with | .inl ps => ps | .inr _ => []
/-- An operation in the order of core 2. -/
def State.op0 (s : State) (kind : ArrayKind) (c : Nat) (pages : List XPage) : ArrayOp := { s.arrayOp kind 3 s.lane0 [c] pages none with id := 5 }
def State.ordered (s : State) (l : List ArrayOp) : State := s.mapArray 2 fun a => { a with order := l }

/-- A strand with a copy descriptor of 64 bytes from k5 to k6, with a tag. -/
def copying (tag : Nat) : State :=
  (((crewed.grp fun g => { g with x := #v[BitVec.ofNat 64 (5 + 6 * 64 + tag * 2 ^ 52), BitVec.ofNat 64 (64 + 2 ^ 32), 0, 0, 0, 0, 0, 0] }).put 5 dataAt).put 6
    (flatCap 0x9B (2 ^ 40 + 0x2800) 0x100)).put 7 (num tag)
def State.sideXs (s : State) (c : BitVec 6) (need : Need) : List XPage :=
  match s.sidePages (s.g.read s.lane0 c) need false 1 64 0 with | .inl ps => ps | .inr _ => []
/-- A copy in the engine of quad 0, and one that owns its line. -/
def copy0 (tag : Nat) (running : Bool) : CopyOp :=
  { id := 6, quad := 0, gang := 1, crew := 1, core := 0, tag := BitVec.ofNat 12 tag, dest := .host 0, ctx := 1, src := dataAt,
    dst := flatCap 0x9B (2 ^ 40 + 0x2800) 0x100, rows := 1, len := 64, sstr := 0, dstr := 0, fill := false, hsrc := false, hdst := false,
    spages := (copying 0).sideXs 5 needR, dpages := (copying 0).sideXs 6 needW, running := running, poisoned := false, refused := none,
    finished := false }
def State.copied (s : State) (o : CopyOp) : State :=
  ({ s with copies := [o] } : State).own 6 (xlines o.dpages (rowRuns o.dst 1 64 0))

/-- A copy gang with a kernel of one word in its memory and a bound pop stream, and a unit armed on the stream with an element due. -/
def gangData : Nat := 2 ^ 40 + 2 * 2 ^ 19 + 0x2000
def stream1 : Stream := ⟨flatCap 0xFF gangData 0x1000, 8, 4, 0, 16, 2, 2⟩
def kernels : State :=
  let s := ((gangAt.coded.grp fun g =>
    { g with role := 1, streams := g.streams.set 0 (some stream1), sp := { g.sp with asid := 1, crew := 1, task := 1 } }).put 5
      (flatCap 0xFF gangData 0x1000)).put 6 (num 1)
  { s with mem := s.mem.store (localPA 2 0x2000) 4 0x0C20C001, crews := [crew0] }
def arming0 : Arming := ⟨1, 1, 48, 7, List.replicate 5 Val.zero, .host 0, 1, 0, 0, true, 4⟩
def State.armed1 (s : State) (kernel : List (BitVec 32)) : State := s.setPunit ⟨2, kernel, some arming0, [(3, num 9)], none, 0⟩
/-- The unit with a run under way, before an instruction of its kernel. -/
def run0 (ix count : Nat) : KernelRun := ⟨3, kernelStart arming0 3 (num 9), ix, count⟩
def State.runs (s : State) (kernel : List (BitVec 32)) (r : KernelRun) : State := s.setPunit ⟨2, kernel, some arming0, [], some r, 0⟩

/-- A strand with its event queue empty, or with one record in it. -/
def evqAt : State := crewed.grp fun g => { g with sp := { g.sp with evq := flatCap 0x9B (2 ^ 40 + 0x3000) 0x410, felim := 100 } }
def evqOne : State := { evqAt with mem := evqAt.mem.store (localPA 0 0x3000) 4 1 }
def evqPlace (w : Bool) : Place := match evqAt.evqChk w with | .ok p => p | _ => ⟨0, false, none, none, false⟩
/-- A strand whose event queue lies in package 2. -/
def evqFar : State :=
  { evqAt.grp fun g => { g with sp := { g.sp with evq := flatCap 0xFF (2 ^ 50) 0x410 } } with tlb := [⟨none, 0, none, 4, 2 ^ 50 / 2 ^ 16, 0x80020000DB⟩] }
/-- A strand with the descriptor of an all-reduce of two participants from k5 to k6, and a collective it may join. -/
def colling : State :=
  ((crewed.grp fun g => { g with x := #v[BitVec.ofNat 64 (5 + 6 * 64 + 2 * 2 ^ 28 + 2 * 2 ^ 38), BitVec.ofNat 64 (64 + 500 * 2 ^ 32), 0, 0, 0, 0, 0, 0] }).put 5
    dataAt).put 6 (flatCap 0x9B (2 ^ 40 + 0x2800) 0x100)
def partner (crew op : Nat) : Participant :=
  { pkg := 0, die := 1, gang := 9, crew := crew, core := 1024, dest := .host 0, tag := 4, src := dataAt, dst := dataAt, spages := [], dpages := [],
    deadline := 900, matching := true, late := false, op := op, away := false }
def coll0 (ps : List Participant) : Coll :=
  { task := 1, group := 2, op := 0, et := 0, max := false, np := 2, root := 0, len := 64, parts := ps, closed := false, lost := 0 }
def State.collXs (s : State) (c : BitVec 6) (need : Need) : List XPage :=
  match s.capture s.g need (fun _ => true) (capRuns (s.g.read s.lane0 c) 0 64) with | .inl ps => ps | .inr _ => []

/-- A record of one strand with LOCAL 256, as its fields, and a strand with such a record at its k5, or with an empty one. -/
def recFields : Nat := 2 ^ 12 + 2 ^ 20 + 2 ^ 52 + 2 ^ 80 + 2 ^ 83
def tasked : Task := { task1 with record := ⟨BitVec.ofNat 256 recFields, Val.zero, codeAt⟩ }
def spawning (good : Bool) : State :=
  let m := crewed.mem.store (localPA 0 0x2000) 64 (if good then codeAt.bits.toNat + recFields * 2 ^ 256 else 0)
  { (crewed.put 5 dataAt).inCtx with mem := if good then m.setTag (localPA 0 0x2000) else m, tasks := [tasked] }
/-- A share of task 1 on its way on die 0, and one in a quad's queue. -/
def walk0 (stage : Stage) (qx : Nat) : Tender := ⟨.share 1 0, 0, qx, 0, 0, 0, 1, 1, 0, stage⟩
def waiting0 (passed : Option Nat) : QEntry := ⟨.share 1 0, 0, 0, 1, 0, 900, passed, false, false, false⟩
/-- A counter of task 1 in shared memory, with its creator word, and decrements of it. -/
def counterPA : Nat := Config.sharedBase + 0x10000
def creator0 : Creator := ⟨counterPA, 1, BitVec.ofNat 64 (2 ^ 40), BitVec.ofNat 64 (2 ^ 41), Val.zero, 1, 1, 0⟩
def decr0 (r : Option Answer) : Decr := ⟨some counterPA, 0x10000, 64, some 1, some 0, 1, 0, none, 0, 900, r⟩
def counting (n : Nat) : State :=
  { crewed with mem := crewed.mem.store counterPA 4 n, creators := [creator0], decs := [decr0 none], tasks := [tasked] }

/-- A strand that asks the state store of die 0, an open slot of its ASID, and requests to it. -/
def asking : State := (((crewed.put 6 (num 0x10000)).put 7 (num 3)).grp fun g => { g with x := #v[1, 0, 0, 0, 0, 0, 0, 0] }).put 5 (flatCap 0x9B (2 ^ 40 + 0x4000) 0x1000)
def slot0 : Slot := ⟨0, 1, 1, 5, 4, [poolPage 0 0], [(2, [poolPage 0 0])]⟩
def ssReq0 (ask : SsAsk) (accepted asked : Bool) (answer : Option Answer) : SsReq :=
  { asking.ssReq 0 0x10000 ask Val.zero [] 0 with op := 6, accepted := accepted, asked := asked, answer := answer }
def State.stored (s : State) (slots : List Slot) (rs : List SsReq) : State := s.setStore ⟨0, slots, [], rs⟩
def State.localXs (s : State) (need : Need) : List XPage :=
  match s.capture s.g need isLocalPA (capRuns (s.g.read s.lane0 5) 0 4096) with | .inl ps => ps | .inr _ => []

/-- A strand with a batching table of one replica in shared memory at its k5 and a staging list of one record at its k6. -/
def replicaPA : Nat := Config.sharedBase + 0x10000
def replica0 : Replica := ⟨0, replicaPA, [], none, 0, none, 0⟩
def staged0 (order : Option Bool) (phase : Nat) : Replica := ⟨0, replicaPA, [(3, 5, false)], some (1, 1), 100, order, phase⟩
def batching (state : Nat) (r : Replica) : State :=
  let s := (((crewed.put 5 (flatCap 0xFF 0x10000 0x100000)).put 6 (flatCap 0xFF (2 ^ 40 + 0x2000) 0x1000)).grp fun g =>
    { g with x := #v[BitVec.ofNat 64 (7 + 2 ^ 32), 100, 0, 0, 0, 0, 0, 0] })
  { s with mem := (s.mem.store replicaPA 4 (state + 2 ^ 16)).store (replicaPA + 8) 4 6, replicas := [r] }
def State.stagePages (s : State) : List XPage :=
  match s.capture s.g needR (fun _ => true) (capRuns (s.g.read s.lane0 6) 0 144) with | .inl ps => ps | .inr _ => []
def btOp0 (commit : Bool) (answers : List (Nat × Bool)) : BtOp := ⟨1, 1, 1, commit, 7, 100, 1050, [(3, 5, false)], 1, answers, 900, 0⟩
/-- A strand with a page table of 3 pages of 16 tokens at its k5 and a position in k6; and another strand with a crew of the same task. -/
def paging (p : Nat) : State :=
  let s := (crewed.put 5 dataAt).put 6 (num p)
  { s with mem := ((s.mem.store (localPA 0 0x2000) 8 0x000300100000002D).store (localPA 0 0x2040) 24 (1 + 2 ^ 64 + 2 ^ 128)) }
def State.tablePages (s : State) (n : Nat) : List XPage :=
  match s.capture s.g ⟨true, true, false, false, false⟩ (fun _ => true) (capRuns (s.g.read s.lane0 5) 0 n) with | .inl ps => ps | .inr _ => []
def elsewhere : Group := { mate with gid := 3, gang := 3, core := 1, sp := { mate.sp with crew := 2 } }
def crew2 : Crew := { crew0 with id := 2, core := 1 }
/-- A strand that waits at `migrate k7, k10` for the core of its k10. -/
def migrating (dest : Nat) : State :=
  let s := (crewed.put 10 (num dest)).grp fun g => { g with sent := true, run := .waiting .fence 900 }
  { s with mem := s.mem.store (localPA 0 0x1000) 4 0x00A0FEA1, tasks := [tasked] }

/-- An access of the strand on its way, with or without a journal entry that awaits it; and one in the SC order. -/
def write0 (pa : Nat) : Req :=
  ⟨crewed.g.srcOf 0, 1, 1, 0, homeOf pa, pa, 0x10000, .store 8 77 false, [0], [], some 0, false, none, none, 0, false⟩
def entry1 (st : BitVec 2) (reason : BitVec 4) : JEntry := ⟨0x10000, 77, 990, st, reason, 0, 0, 3, 0, 1, 1, 1, 0, crewed.g.srcOf 0, false⟩
def State.logged (s : State) (e : JEntry) : State := s.mapCore 0 fun c => { c with journal := c.journal.set 0 (some e) }
def fe0 : FeWait := ⟨localPA 0 0x2000, 1, 0, 0, 0, 0x2000, 900, 8⟩
/-- The strand behind another group, so that it is found among the groups. -/
def tables : State :=
  { crewed with
    mem := ((crewed.mem.store 0x100000 8 (1 + 129 * 2 ^ 32)).store 0x102010 8 0xDB)
    pkg := { crewed.pkg with roots := [(1, 0x100000)], contexts := [ctx1] } }
def walk1 (va : Nat) : Walk := ⟨0, 1, va, false⟩
/-- A crew whose state lies in its pool, and its member. -/
def savedMember : Group :=
  { crewed.g with run := .saved false, slices := crewed.g.slices.map fun sl => { sl with save := moveTo (flatCap 0x1B (2 ^ 37) 0x8000) (2 ^ 37 + 0x800 : Nat) } }
def inPool : State :=
  { tables with
    g := savedMember
    crews := [{ crew0 with saved := true }]
    mem := (tables.mem.store 0x18 4 (1 + 2 ^ 24)).store 0x800 2 (1 + 2 ^ 9) }

/-- A package with a route to package 2, and flits from it. -/
def linked : State := { crewed with pkg := { crewed.pkg with fabric := { crewed.pkg.fabric with routes := [(2, 1)] } } }
def flit0 (kind : BitVec 6) : Flit :=
  let f : Flit := ⟨0, 0, 2, 0, 5, kind, BitVec.ofNat 56 (Config.sharedBase + 0x10000), 0xFF, 0, List.replicate 64 7, 0⟩
  { f with lcrc := flitCrc f }
def awaitedReq : Req :=
  ⟨crewed.g.srcOf 0, 1, 1, 0, 2 ^ 40 + 5, Config.sharedBase + 0x10000, 0x10000, .load 8 false false, [0], [(0, 5)], none, false, some 2, none, 0, false⟩
/-- The time base in a state. -/
def timed (t : TimeState) : State :=
  { crewed with clk := 20000000000, pkg := { crewed.pkg with time := { crewed.pkg.time with state := t, good := some 5, heard := 7 } } }
/-- A Light List entry that is armed, with its outstanding instances, packages and acknowledgements, and a task it launched. -/
def light0 (out rule npkg acks : Nat) (slots : List LightSlot) : Light :=
  ⟨4, BitVec.ofNat 1280 (recFields * 2 ^ 256 + 2 ^ 655 * 9 + 2 ^ 679 * npkg + 2 ^ 695 + 2 ^ 698 + 2 ^ 701 * rule + 2 ^ 703 + 2 ^ 704 * 900 + 2 ^ 864 * out +
    2 ^ 896 * acks), codeAt, Val.zero, Val.zero, 1, slots⟩
def lit (l : Light) (x : Task) : State :=
  { crewed with tasks := [x], pkg := { crewed.pkg with contexts := [ctx1], lights := [l] } }
def shared0 : Task := { tasked with decided := false, acked := 0, asked := 3, dies := 3 }

/-- A context with an object of one strand entry, an aperture page and a key; and a package whose function 0 submitted a command. -/
def ctx2 : Ctx :=
  { ctx1 with objects := [⟨1, 2 ^ 36, 0x1000, [(0, 0x40), (2, 0x80)], []⟩], aperture := [(0, 0x7000)], keys := [3] }
def hosted : State :=
  { crewed with pkg := { crewed.pkg with
      contexts := [ctx2], functions := [PcieFn.reset 0], keys := [3], firmware := { crewed.pkg.firmware with booted := true } } }
def commanded (code : BitVec 16) (p : List Byte) : State :=
  { hosted with pkg := { hosted.pkg with
      functions := [{ PcieFn.reset 0 with busy := some ⟨code, p, 7⟩, go := true, events := [5, 6], dropped := 2 }]
      firmware := { hosted.pkg.firmware with serving := [0] } } }
/-- A launch descriptor of the context's entry, and the parameters of LAUNCH and of SET_LIGHT. -/
def descriptor0 : List Byte := [1, 0, 255, 255, 1, 0, 0, 0, 0, 0, 0, 0, 0x1B, 0, 0, 0] ++ natBytes 8 (2 ^ 40 + 0x2000) ++ natBytes 8 0x1000
def launchAt (r : Nat) : List Byte := descriptor0 ++ natBytes 32 0 ++ natBytes 32 r
def lightAt (r : Nat) : List Byte := [4, 0, 0, 0, 0, 0, 0, 0] ++ descriptor0 ++ natBytes 160 (r * 2 ^ 256 + 2 ^ 695 + 2 ^ 698)
def hostEntry : Val := textCap (2 ^ 36) 0x1000 0x40
def hostArg : Val := flatCap 0x1B (2 ^ 40 + 0x2000) 0x1000

/-- An object of 200 bytes with a profile note, eight bytes of text and one entry, and a package whose host holds it. -/
def object0 : Nat := 0x1FA10C20C00100000000000000000000000200000001000000080000000000000000000000000000001000000000000000B80000000C000000080000000000000000000000000000000800000000000000B000060002000000080000000000000000000000000000001000000000000000A0000000010000000000000000000000000000000009EFE832A73DAEB257944D23E831145DDD0E173E0D16BDB71A7AA61B38A29A2E00000040000000030000000152564241
def objected (p : List Byte) : State :=
  let s := commanded 2 p
  { s with
    mem := tables.mem
    pkg := { s.pkg with
      roots := [(1, 0x100000)]
      hostMem := (upFrom 0 200).foldl (fun m k => cellSet (0x7000 + k) (BitVec.ofNat 8 (object0 / 256 ^ k)) m) [] } }
/-- A command's state with a context that has a page table and a page mapped. -/
def mapping (code : BitVec 16) (p : List Byte) : State :=
  let s := commanded code p
  { s with mem := tables.mem, pkg := { s.pkg with roots := [(1, 0x100000)], contexts := [{ ctx2 with maps := [(2 ^ 37, 2 ^ 36, false)] }] } }
/-- The parameters of MAP. -/
def mapAt (kind count va phys : Nat) : List Byte := [1, 0, BitVec.ofNat 8 kind, 0] ++ natBytes 2 count ++ [0, 0x23, 0, 0, 0, 0, 0, 0, 0, 0] ++ natBytes 8 va ++ natBytes 8 phys

/-- A package whose host sees the mesh window of its context, and one with a buffer of the Lamp port. -/
def windowFn : PcieFn := { PcieFn.reset 0 with window := BitVec.ofNat 64 (2 ^ 63 + 16 * 2 ^ 36 + 1) }
def windowed : State := { hosted with pkg := { hosted.pkg with functions := [windowFn] } }
def lamped (clk lost : Nat) : State :=
  { hosted with clk := clk, pkg := { hosted.pkg with lamp := { hosted.pkg.lamp with ctl := 0xFF3F, bufs := [⟨1, [5, 6, 7], lost, 0⟩] } } }

/-- What a share or a gang asks for, and where its crew fits. -/
def State.specAt (s : State) (w : Placing) : CrewSpec :=
  match s.specOf w with
  | some c => c
  | none => ⟨0, false, 0, 0, false, 0, fun _ => 0, 0, 0, 0, 0, 0, 0, Val.zero, 0, 0, Val.zero, Val.zero, [], 0⟩
def State.fitAt (s : State) (w : Placing) (cores : List Nat) : Fit :=
  match s.firstFit (s.specAt w) 1 cores with | some f => f.2 | none => ⟨0, [], 0, 0, 0, 0⟩

/-- The entry that SET_LIGHT's parameters name, and the record that LAUNCH's do. -/
def lightOf (p : List Byte) (entry arg tvec : Val) (ctx : Nat) : Light := ⟨field p 0 2, BitVec.ofNat 1280 (field p 40 160), entry, arg, tvec, ctx, []⟩
def recordOf (p : List Byte) (entry arg : Val) : TaskRec := ⟨BitVec.ofNat 256 (field p 64 32), arg, entry⟩

/-! ### What meets the hypotheses of the statements -/

theorem witness_DerivationsNeverWidenAuthority :
    (∃ (v : Val) (w : Val),
      v.tag = Tag.cap ∧
      ((∃ (m : BitVec 8), w = cand v m) ∨ (∃ (n : ℕ), w = cbound v n) ∨ (∃ (x : Word), w = cset v x) ∨ ∃ (x : Word), w = cinc v x) ∧
      w.tag = Tag.cap) :=
  ⟨dataAt, cbound dataAt 100, by decide +kernel, .inr (.inl ⟨100, rfl⟩), by decide +kernel⟩

/-- The strand with `add k6,k2,k3` at its pc. -/
def fetching : State := State.reset.withFetchWord 32 0x0C20C001

theorem witness_StepKeepsMemoryCanonical : ∃ (s t : State), s.inv ∧ step s = .next t :=
  ⟨fetching, nextOf (step fetching) fetching, by decide +kernel, nextOf_eq _ _ (by decide +kernel)⟩

theorem witness_DecodeOfEncode : ∃ (i : Instr), i.wf = true ∧ i.len ≠ 0 := ⟨.add 3 2 false 6 false, by decide +kernel⟩

theorem witness_AStepRunsTheDecodedInstruction :
    (∃ (s : Machine.State) (h : ℕ) (h2 : ℕ) (i : Instr) (rest : List Byte) (t : Machine.State),
      s.countdown.markReady.agenda = [] ∧
      s.countdown.markReady.due = none ∧
      s.countdown.markReady.offDuty = false ∧
      s.countdown.markReady.choose = some s.countdown.markReady.g.gid ∧
      s.countdown.markReady.mayIssue s.countdown.markReady.g = true ∧
      s.countdown.markReady.g.stepDue = none ∧
      (s.countdown.markReady.passes s.countdown.markReady.g = true → (s.countdown.markReady.attempt s.countdown.markReady.g.gid).wentOn s.countdown.markReady.g.gid = false) ∧
      fetchHalf s.countdown.markReady s.countdown.markReady.g s.countdown.markReady.g.pc s.countdown.markReady.g.pc = Sum.inl h ∧
      (h % 2 = 1 → fetchHalf s.countdown.markReady s.countdown.markReady.g s.countdown.markReady.g.pc (s.countdown.markReady.g.pc + 2) = Sum.inl h2) ∧
      decode (natBytes 2 h ++ natBytes 2 h2) = Except.ok (i, rest) ∧
      exec i s.countdown.markReady = Host.Outcome.next t) ∧
    (∃ (s : Machine.State) (h : ℕ) (h2 : ℕ) (w : ℕ) (n : ℕ) (t : Machine.State),
      s.countdown.markReady.agenda = [] ∧
      s.countdown.markReady.due = none ∧
      s.countdown.markReady.offDuty = false ∧
      s.countdown.markReady.choose = some s.countdown.markReady.g.gid ∧
      s.countdown.markReady.mayIssue s.countdown.markReady.g = true ∧
      s.countdown.markReady.g.stepDue = none ∧
      (s.countdown.markReady.passes s.countdown.markReady.g = true → (s.countdown.markReady.attempt s.countdown.markReady.g.gid).wentOn s.countdown.markReady.g.gid = false) ∧
      fetchHalf s.countdown.markReady s.countdown.markReady.g s.countdown.markReady.g.pc s.countdown.markReady.g.pc = Sum.inl h ∧
      (h % 2 = 1 → fetchHalf s.countdown.markReady s.countdown.markReady.g s.countdown.markReady.g.pc (s.countdown.markReady.g.pc + 2) = Sum.inl h2) ∧
      decode (natBytes 2 h ++ natBytes 2 h2) = Except.error (DecodeError.reserved w n) ∧
      exec (Instr.reservedEncoding (BitVec.ofNat 32 w) n) s.countdown.markReady = Host.Outcome.next t) ∧
    (∃ (s : Machine.State) (i : Instr),
      s.countdown.markReady.agenda = [] ∧
      s.countdown.markReady.due = some i) ∧
    (∃ (s : Machine.State) (i : Instr) (t : List Turn),
      s.countdown.markReady.agenda = Turn.event i :: t ∧
      isEvent i = true) ∧
    (∃ (s : Machine.State),
      s.countdown.markReady.offDuty = true ∧
      (s.countdown.markReady.agenda = [] ∧ s.countdown.markReady.due = none ∨ ∃ (gid : ℕ) (t : List Turn), s.countdown.markReady.agenda = Turn.issue gid :: t)) :=
  ⟨⟨fetching, 0xC001, 0x0C20, .add 3 2 false 6 false, [], nextOf (exec (.add 3 2 false 6 false) fetching.countdown.markReady) fetching,
      by and_intros <;> first | exact nextOf_eq _ _ (by decide +kernel) | decide +kernel⟩,
    ⟨(State.reset.withFetchWord 32 0x241), 0x241, 0, 0x241, 4, nextOf (exec (.reservedEncoding 0x241 4) (State.reset.withFetchWord 32 0x241).countdown.markReady) (State.reset.withFetchWord 32 0x241),
      by and_intros <;> first | exact nextOf_eq _ _ (by decide +kernel) | decide +kernel⟩,
    ⟨{ fetching with fes := [fe0] }, .feQueuePerform (localPA 0 0x2000), by decide +kernel⟩,
    ⟨{ State.reset with agenda := [.event .powerOn] }, .powerOn, [], by decide +kernel⟩,
    ⟨{ fetching with clk := 5, pkg := { fetching.pkg with firmware := { fetching.pkg.firmware with duty := 1 } } }, by decide +kernel, .inl (by decide +kernel)⟩⟩

/-- The parameters of CREATE_CONTEXT and of LOAD_OBJECT. -/
def createAt : List Byte := natBytes 8 (2 ^ 40) ++ natBytes 8 (2 ^ 41) ++ natBytes 8 0 ++ natBytes 8 0x10000
def loadAt : List Byte := natBytes 16 1 ++ natBytes 8 200 ++ natBytes 8 0x10000

/-- The object passes every check where the owner has enrolled no key. -/
theorem object0_passes (h : Config.ownerKeys = 0) : objectCode (natBytes 200 object0) = 0 := by
  unfold objectCode
  rw [h]
  decide +kernel

/-- The host's bytes of the object, as LOAD_OBJECT reads them. -/
theorem object0_read : ((upFrom (field loadAt 8 8) (field loadAt 16 8)).map fun a => cellGet (ctx2.hostAddr a) (objected loadAt).pkg.hostMem) =
    natBytes 200 object0 := by decide +kernel

theorem witness_ContextsMappingsKeysAndObjects_loaded (h : Config.ownerKeys = 0) :
    (∃ (s : Machine.State) (tag : BitVec 32) (fn : ℕ) (p : List Byte) (c : Ctx),
      s.served fn 2 p tag = true ∧
      p.length = 32 ∧
      zeroAt p 2 6 = true ∧
      field p 8 8 % 4096 = 0 ∧
      field p 24 8 % 65536 = 0 ∧
      s.ownCtx fn (field p 0 2) = some c ∧
      (∀ k ∈ upFrom (field p 8 8 / 4096) ((field p 16 8 + 4095) / 4096), (List.lookup k c.aperture).isSome = true) ∧
      (objectCode (List.map (fun (a : ℕ) => cellGet (c.hostAddr a) s.pkg.hostMem) (upFrom (field p 8 8) (field p 16 8))) = 0) ∧
      (∀ x ∈ loadable (List.map (fun (a : ℕ) => cellGet (c.hostAddr a) s.pkg.hostMem) (upFrom (field p 8 8) (field p 16 8))), field p 24 8 + x.load + x.size ≤ 2 ^ 56) ∧
      (∀ q ∈ loadPages (field p 24 8) (loadable (List.map (fun (a : ℕ) => cellGet (c.hostAddr a) s.pkg.hostMem) (upFrom (field p 8 8) (field p 16 8)))), overlap (q * 65536) 65536 c.pool c.poolSize = false ∧ ∀ m ∈ c.maps, overlap (q * 65536) 65536 m.1 m.2.1 = false)) := by
  refine ⟨objected loadAt, 7, 0, loadAt, ctx2, ?_⟩
  simp only [object0_read, object0_passes h]
  decide +kernel

theorem witness_BranchesGoWhereTheirConditionSays :
    ∃ (i : Instr) (s : State) (a : BitVec 6) (d : BitVec 6) (off : ℤ) (c : Word → Word → Bool) (b : Bool),
      branchForm i = some (a, d, off, c) ∧
      s.clear i (srcs i) ∧
      s.g.acts ≠ [] ∧
      (∀ l ∈ s.g.execs (isUniform i), c (s.g.words l a) (s.g.words l d) = b) :=
  ⟨.bNe 0x3FC 6 0 false, strandAt.put 6 (num 5), 6, 0, -8, (fun a b => a != b), true, rfl, by decide +kernel⟩

theorem witness_JumpsAndCallsAreRelative :
    (∃ (imm : BitVec 25) (s : State),
      s.clear (Instr.j imm) []) ∧
    (∃ (lo : BitVec 5) (hi : BitVec 5) (s : State),
      s.clear (Instr.jS lo hi) []) ∧
    (∃ (imm : BitVec 25) (s : State),
      s.clear (Instr.call imm) []) :=
  ⟨⟨0x1FFFFFC, strandAt, by decide +kernel⟩,
    ⟨5, 31, strandAt, by decide +kernel⟩,
    ⟨0x1FFFFFC, strandAt, by decide +kernel⟩⟩

theorem witness_JumpsThroughACapability :
    (∃ (i : Instr) (s : State) (a : BitVec 6) (link : Bool) (exits : Bool) (v : Val),
      jumpReg i = some (a, link, exits) ∧
      s.clear i (srcs i) ∧
      s.g.acts ≠ [] ∧
      (∀ l ∈ s.g.execs (isUniform i), s.g.read l a = v) ∧
      v.tag = Tag.cap ∧
      capHas v.bits Perm.x = true ∧
      capWalk v.bits = 0 ∧
      (capCursor v.bits).getLsbD 0 = false ∧
      (exits = true → isExit v = false)) ∧
    (∃ (i : Instr) (s : State) (a : BitVec 6) (link : Bool) (exits : Bool) (l : Lane) (t : List Lane),
      jumpReg i = some (a, link, exits) ∧
      s.reaches i (srcs i) ∧
      s.knows (srcs i) ∧
      s.g.execs (isUniform i) = l :: t ∧
      (s.g.read l a).tag ≠ Tag.cap) ∧
    (∃ (i : Instr) (s : State) (a : BitVec 6) (link : Bool) (exits : Bool) (l : Lane) (t : List Lane),
      jumpReg i = some (a, link, exits) ∧
      s.reaches i (srcs i) ∧
      s.knows (srcs i) ∧
      s.g.execs (isUniform i) = l :: t ∧
      (s.g.read l a).tag = Tag.cap ∧
      (capHas (s.g.read l a).bits Perm.x = false ∨ capWalk (s.g.read l a).bits ≠ 0)) ∧
    (∃ (i : Instr) (s : State) (a : BitVec 6) (link : Bool) (exits : Bool) (l : Lane) (t : List Lane),
      jumpReg i = some (a, link, exits) ∧
      s.reaches i (srcs i) ∧
      s.knows (srcs i) ∧
      s.g.execs (isUniform i) = l :: t ∧
      (s.g.read l a).tag = Tag.cap ∧
      capHas (s.g.read l a).bits Perm.x = true ∧
      capWalk (s.g.read l a).bits = 0 ∧
      (capCursor (s.g.read l a).bits).getLsbD 0 = true) ∧
    (∃ (i : Instr) (s : State) (a : BitVec 6) (v : Val),
      jumpReg i = some (a, false, true) ∧
      s.clear i (srcs i) ∧
      s.g.acts ≠ [] ∧
      (∀ l ∈ s.g.execs (isUniform i), s.g.read l a = v) ∧
      isExit v = true ∧
      (capCursor v.bits).getLsbD 0 = false ∧
      (s.settled (List.map (fun (x : Lane) => x.no) s.g.acts) = false)) ∧
    (∃ (i : Instr) (s : State) (a : BitVec 6) (v : Val),
      jumpReg i = some (a, false, true) ∧
      s.clear i (srcs i) ∧
      s.g.acts ≠ [] ∧
      (∀ l ∈ s.g.execs (isUniform i), s.g.read l a = v) ∧
      isExit v = true ∧
      (capCursor v.bits).getLsbD 0 = false ∧
      (s.settled (List.map (fun (x : Lane) => x.no) s.g.acts) = true) ∧
      ((s.endLanes (List.map (fun (x : Lane) => x.no) s.g.acts) []).g.gid ≠ s.g.gid)) :=
  ⟨⟨.callr 20 false, strandAt.put 20 codeAt, 20, true, false, codeAt, by and_intros <;> decide +kernel⟩,
    ⟨.jr 20 false, strandAt, 20, false, false, strandAt.g.lanes.headD (startLane 0 []), [], by decide +kernel⟩,
    ⟨.jr 4 false, strandAt, 4, false, false, strandAt.g.lanes.headD (startLane 0 []), [], by decide +kernel⟩,
    ⟨.jr 20 false, strandAt.put 20 (advance codeAt 1), 20, false, false, (strandAt.put 20 (advance codeAt 1)).g.lanes.headD (startLane 0 []), [], by decide +kernel⟩,
    ⟨.ret 55 false, strandAt.grp (fun g => { g with pend := [⟨1003, false, 5, false, [(0, num 1)], [], [], false, false⟩] }), 55, exitCap, by decide +kernel⟩,
    ⟨.ret 55 false, gangAt, 55, exitCap, by decide +kernel⟩⟩

theorem witness_DivergenceFollowsTheLowestLane :
    (∃ (i : Instr) (s : State) (a : BitVec 6) (d : BitVec 6) (off : ℤ) (c : Word → Word → Bool) (l0 : Lane) (m : Lane) (t : List Lane),
      branchForm i = some (a, d, off, c) ∧
      s.clear i (srcs i) ∧
      isUniform i = false ∧
      s.g.acts = l0 :: t ∧
      m ∈ t ∧
      branchTarget i s.g a d off c m ≠ branchTarget i s.g a d off c l0 ∧
      s.g.openSplit = false) ∧
    (∃ (i : Instr) (s : State) (a : BitVec 6) (d : BitVec 6) (off : ℤ) (c : Word → Word → Bool) (l0 : Lane) (m : Lane) (t : List Lane),
      branchForm i = some (a, d, off, c) ∧
      s.clear i (srcs i) ∧
      isUniform i = false ∧
      s.g.acts = l0 :: t ∧
      m ∈ t ∧
      branchTarget i s.g a d off c m ≠ branchTarget i s.g a d off c l0 ∧
      s.g.openSplit = true ∧
      (∃ x ∈ s.g.acts, ∃ y ∈ s.g.acts, x.no / 4 = y.no / 4 ∧ branchTarget i s.g a d off c x ≠ branchTarget i s.g a d off c y) ∧
      (∀ sl ∈ s.g.slices, sl.stack.length < s.g.limit ∧ sl.stack.length < 16) ∧
      ((List.map (fun (x : Lane) => x.no) s.g.lanes).Nodup)) :=
  ⟨⟨.bZ 9 6, apart, 6, 0, 18, (fun x y => x == y), apart.g.lanes.headD (startLane 0 []), apart.g.lanes.getD 1 (startLane 0 []), apart.g.lanes.tail, rfl, by decide +kernel⟩,
    ⟨.bZ 9 6, apart.inSplit, 6, 0, 18, (fun x y => x == y), apart.g.lanes.headD (startLane 0 []), apart.g.lanes.getD 1 (startLane 0 []), apart.g.lanes.tail, rfl, by and_intros <;> decide +kernel⟩⟩

theorem witness_SplitJoinAndRegang :
    (∃ (imm : BitVec 10) (s : State) (n : ℕ),
      s.clear (Instr.split imm) [] ∧
      s.freshToken = some n ∧
      (∀ sl ∈ s.g.slices, sl.stack.length < s.g.limit)) ∧
    (∃ (imm : BitVec 10) (s : State),
      s.clear (Instr.split imm) [] ∧
      (∃ sl ∈ s.g.slices, s.g.limit ≤ sl.stack.length)) ∧
    (∃ (s : State) (sl : Slice),
      s.clear Instr.join [] ∧
      s.g.slices = [sl] ∧
      (List.find? (fun (x : StackEntry) => x.isJoin) sl.stack = none)) ∧
    (∃ (s : State) (sl : Slice) (e : StackEntry),
      s.clear Instr.join [] ∧
      s.g.slices = [sl] ∧
      (List.find? (fun (x : StackEntry) => x.isJoin) sl.stack = some e) ∧
      e.pc ≠ s.g.pc) ∧
    (∃ (s : State) (sl : Slice) (e : StackEntry) (p : StackEntry) (rest : List StackEntry),
      s.clear Instr.join [] ∧
      s.g.slices = [sl] ∧
      (List.find? (fun (x : StackEntry) => x.isJoin) sl.stack = some e) ∧
      e.pc = s.g.pc ∧
      sl.stack = p :: rest ∧
      p.isJoin = false ∧
      (∀ l ∈ s.g.lanes, l.no / 4 = sl.idx) ∧
      (∃ l ∈ s.g.lanes, l.live = true ∧ p.lmask.getLsbD (l.no % 4) = true)) ∧
    (∃ (s : State) (sl : Slice) (e : StackEntry) (rest : List StackEntry),
      s.clear Instr.join [] ∧
      s.g.slices = [sl] ∧
      sl.stack = e :: rest ∧
      e.isJoin = true ∧
      e.pc = s.g.pc ∧
      s.otherParts = [] ∧
      (∀ l ∈ s.g.lanes, l.no / 4 = sl.idx)) ∧
    (∃ (s : State) (sl : Slice) (e : StackEntry) (rest : List StackEntry) (h : Machine.Group),
      s.clear Instr.join [] ∧
      s.g.slices = [sl] ∧
      sl.stack = e :: rest ∧
      e.isJoin = true ∧
      e.pc = s.g.pc ∧
      h ∈ s.otherParts ∧
      (∃ x ∈ h.slices, ∃ y ∈ x.stack, y.isJoin = true ∧ y.token = e.token) ∧
      h.atJoin e.pc e.token = false) ∧
    (∃ (s : State),
      s.clear Instr.regang [] ∧
      s.otherParts = []) ∧
    (∃ (s : State),
      s.clear Instr.regang [] ∧
      (∃ h ∈ s.otherParts, (match h.run with | Run.waiting Wait.regang since => true | Run.waiting Wait.join since => true | x => false) = false)) ∧
    (∃ (s : State) (h : Machine.Group) (c : ℕ),
      s.clear Instr.regang [] ∧
      s.otherParts = [h] ∧
      h.run = Run.waiting Wait.regang c ∧
      h.pc = s.g.pc ∧
      h.topToken = s.g.topToken) ∧
    (∃ (s : State),
      s.clear Instr.regang [] ∧
      (∃ h ∈ s.otherParts, (match h.run with | Run.waiting Wait.regang since => true | Run.waiting Wait.join since => true | x => false) = false)) :=
  ⟨⟨10, gangAt, 0, by decide +kernel⟩,
    ⟨10, gangAt.grp fun g => { g with limit := 0 }, by decide +kernel⟩,
    ⟨gangAt, gangAt.slice0, by decide +kernel⟩,
    ⟨gangAt.inSplit, gangAt.inSplit.slice0, ⟨true, gangAt.g.pc + 40, gangAt.g.codeCap, 15, 0, 3⟩, by decide +kernel⟩,
    ⟨gangAt.stacked [pathHere, joinHere], (gangAt.stacked [pathHere, joinHere]).slice0, joinHere, pathHere, [joinHere], by decide +kernel⟩,
    ⟨gangAt.stacked [joinHere], (gangAt.stacked [joinHere]).slice0, joinHere, [], by decide +kernel⟩,
    ⟨{ gangAt.stacked [joinHere] with groups := [otherPart] }, (gangAt.stacked [joinHere]).slice0, joinHere, [], otherPart, by decide +kernel⟩,
    ⟨gangAt, by decide +kernel⟩,
    ⟨{ gangAt with groups := [otherPart] }, by decide +kernel⟩,
    ⟨{ gangAt.stacked [joinHere] with groups := [{ otherPart with run := .waiting .regang 900 }] }, { otherPart with run := .waiting .regang 900 }, 900, by decide +kernel⟩,
    ⟨{ gangAt with groups := [otherPart] }, by decide +kernel⟩⟩

theorem witness_SymbolsAreTestedAndCopied :
    (∃ (i : Instr) (s : State),
      ((∃ (a : BitVec 6) (u : Bool), i = Instr.symWait a u) ∨ ∃ (p : BitVec 5), i = Instr.compactSymWait p) ∧
      s.clear i (srcs i)) ∧
    (∃ (i : Instr) (s : State),
      ((∃ (a : BitVec 6) (u : Bool), i = Instr.symWait a u) ∨ ∃ (p : BitVec 5), i = Instr.compactSymWait p) ∧
      s.reaches i (srcs i) ∧
      s.present (srcs i) ∧
      (∃ l ∈ s.g.execs (isUniform i), ∃ c ∈ srcs i, (s.g.read l c).isSym = true)) ∧
    (∃ (a : BitVec 6) (d : BitVec 6) (u : Bool) (s : State),
      s.reaches (Instr.symTest a d u) [a] ∧
      s.present [a] ∧
      s.unstepped) ∧
    (∃ (a : BitVec 6) (d : BitVec 6) (n : Bool) (s : State),
      s.reaches (Instr.mov a n d false) [a] ∧
      s.present [a] ∧
      s.unstepped) :=
  ⟨⟨.symWait 6 false, strandAt, by decide +kernel⟩,
    ⟨.compactSymWait 6, strandAt.put 6 (pureSym 9), by decide +kernel⟩,
    ⟨6, 7, false, strandAt.put 6 (pureSym 9), by decide +kernel⟩,
    ⟨6, 7, false, strandAt.put 6 (pureSym 9), by decide +kernel⟩⟩

theorem witness_OperandExtensionRegisters :
    (∃ (imm : BitVec 22) (xi : BitVec 3) (s : State),
      s.clear (Instr.xset imm xi) []) ∧
    (∃ (imm : BitVec 22) (xi : BitVec 3) (s : State),
      s.clear (Instr.xcat imm xi) []) ∧
    (∃ (a : BitVec 6) (xi : BitVec 6) (s : State) (l : Lane) (t : List Lane),
      xi.toNat < 8 ∧
      s.clear (Instr.xput a xi) [a] ∧
      s.g.acts = l :: t) ∧
    (∃ (xi : BitVec 6) (d : BitVec 6) (s : State),
      xi.toNat < 8 ∧
      s.clear (Instr.xget xi d) []) :=
  ⟨⟨0x200000, 3, strandAt, by decide +kernel⟩,
    ⟨0x3FFFFF, 7, gangAt, by decide +kernel⟩,
    ⟨6, 7, strandAt.put 6 (num 5), (strandAt.put 6 (num 5)).g.lanes.headD (startLane 0 []), [], by decide +kernel⟩,
    ⟨7, 6, strandAt, by decide +kernel⟩⟩

theorem witness_IntegerFormsWriteTheirResults :
    (∃ (i : Instr) (s : State) (f : (BitVec 6 → Word) → Word),
      integerResult i = some f ∧
      s.clear i (srcs i)) ∧
    (∃ (i : Instr) (s : State) (a : BitVec 6) (b : BitVec 6) (d : BitVec 6) (f : Word → Word → Word),
      divisionResult i = some (a, b, d, f) ∧
      s.clear i (srcs i)) :=
  ⟨⟨.mulhI 7 6 false 8 false, (gangAt.put 6 (num (2^64-1))).put 7 (num 1), (integerResult (.mulhI 7 6 false 8 false)).getD fun _ => 0, rfl, by decide +kernel⟩,
    ⟨.divI 7 6 8 false, (gangAt.put 6 (num (2^64-7))).put 7 (num 2), 6, 7, 8, fun x y => if y = 0 then BitVec.allOnes 64 else BitVec.ofInt 64 (x.toInt.tdiv y.toInt), rfl, by decide +kernel⟩⟩

theorem witness_CapabilityFormsWriteTheirResults :
    ∃ (i : Instr) (s : State) (f : Word → (BitVec 6 → Val) → Val),
      capabilityResult i = some f ∧
      s.clear i (srcs i) :=
  ⟨.cbound 7 4 false 8 false, strandAt.put 7 (num 64), (capabilityResult (.cbound 7 4 false 8 false)).getD fun _ _ => Val.zero, rfl, by decide +kernel⟩

theorem witness_FloatFormsWriteTheirResults :
    (∃ (i : Instr) (s : State) (f : FloatForm),
      floatResult i = some f ∧
      s.clear i (srcs i)) ∧
    (∃ (imm : BitVec 3) (a : BitVec 6) (d : BitVec 6) (n : Bool) (t : BitVec 2) (u : Bool) (s : State),
      s.clear (Instr.fcvtIf imm a n d t u) [a]) ∧
    (∃ (i : Instr) (s : State) (f : FloatForm) (d : BitVec 6) (n : ℕ),
      longFloatResult i = some (f, d, n) ∧
      s.clear i (srcs i)) :=
  ⟨⟨.fadd 7 6 false 8 1 false, (strandAt.put 6 (num 0x4B800000)).put 7 (num 0x3F800000), ⟨[(1, 6), (1, 7)], fun m v => fpAdd (fpFmt 1) m false (v.getD 0 0) (v.getD 1 0), true⟩, rfl, by decide +kernel⟩,
    ⟨0, 6, 8, false, 1, false, gangAt.put 6 (num 0x1000001), by decide +kernel⟩,
    ⟨.fsqrt 6 8 1 false, strandAt.put 6 (num 0x40800000), ⟨[(1, 6)], fun m v => fpSqrt (fpFmt 1) m (v.getD 0 0), true⟩, 8, 14, rfl, by decide +kernel⟩⟩

theorem witness_SymbolicArithmeticCommutesWithArrival :
    (∃ (x : Val) (y : Val) (r : Val) (id : BitVec 6) (arrived : Val),
      x.linear.isSome = true ∧
      y.linear.isSome = true ∧
      arrived.tag = Tag.data ∧
      (∀ (q : SymRec), x.record = some q → q.id = id) ∧
      (∀ (q : SymRec), y.record = some q → q.id = id) ∧
      linAdd x y = some r) ∧
    (∃ (x : Val) (y : Val) (r : Val) (id : BitVec 6) (arrived : Val),
      x.linear.isSome = true ∧
      y.linear.isSome = true ∧
      arrived.tag = Tag.data ∧
      (∀ (q : SymRec), x.record = some q → q.id = id) ∧
      (∀ (q : SymRec), y.record = some q → q.id = id) ∧
      linSub x y = some r) ∧
    (∃ (x : Val) (y : Val) (r : Val) (id : BitVec 6) (arrived : Val),
      x.linear.isSome = true ∧
      y.linear.isSome = true ∧
      arrived.tag = Tag.data ∧
      (∀ (q : SymRec), x.record = some q → q.id = id) ∧
      (∀ (q : SymRec), y.record = some q → q.id = id) ∧
      linMul x y = some r) ∧
    (∃ (x : Val) (y : Val) (r : Val) (id : BitVec 6) (arrived : Val) (n : Word),
      x.linear.isSome = true ∧
      y.linear.isSome = true ∧
      arrived.tag = Tag.data ∧
      (∀ (q : SymRec), x.record = some q → q.id = id) ∧
      (∀ (q : SymRec), y.record = some q → q.id = id) ∧
      linShl x n = some r) ∧
    (∃ (op : BitVec 2) (t : BitVec 2) (a : BitVec 6) (b : BitVec 6) (g : Machine.Group) (l : Lane) (q : SymRec) (r : Val) (arrived : Val) (fl : Flags) (sub : Bool),
      op ≠ 3 ∧
      (g.read l a).record = some q ∧
      (g.read l b).record = none ∧
      arrived.tag = Tag.data ∧
      fpStepTwo op t a b g l = some (r, fl, sub)) ∧
    (∃ (i : Instr) (s : Machine.State) (f : (BitVec 6 → Val) → Option Val) (r : Lane → Val),
      linearForm i = some f ∧
      isUniform i = false ∧
      s.reaches i (srcs i) ∧
      s.unstepped ∧
      s.present (srcs i) ∧
      (∀ l ∈ s.g.acts, ∀ c ∈ srcs i, (s.g.read l c).tag ≠ Tag.poison) ∧
      (∀ l ∈ s.g.acts, f (s.g.read l) = some (r l))) :=
  ⟨⟨⟨9, .sym ⟨9, none, .int 3 5⟩⟩, num 4, ⟨0, .sym ⟨9, none, .int 3 9⟩⟩, 9, num 7, by decide +kernel⟩,
    ⟨pureSym 9, num 4, (linSub (pureSym 9) (num 4)).getD Val.zero, 9, num 5, by decide +kernel, by decide +kernel, by decide +kernel,
      fun q h => (by cases h; rfl), fun q h => (by cases h), by decide +kernel⟩,
    ⟨pureSym 9, num 4, (linMul (pureSym 9) (num 4)).getD Val.zero, 9, num 5, by decide +kernel, by decide +kernel, by decide +kernel,
      fun q h => (by cases h; rfl), fun q h => (by cases h), by decide +kernel⟩,
    ⟨pureSym 9, num 4, (linShl (pureSym 9) 4).getD Val.zero, 9, num 5, 4, by decide +kernel, by decide +kernel, by decide +kernel,
      fun q h => (by cases h; rfl), fun q h => (by cases h), by decide +kernel⟩,
    let g := ((strandAt.put 6 (pureSym 9)).put 7 (num 0x3F800000)).g
    let l := ((strandAt.put 6 (pureSym 9)).put 7 (num 0x3F800000)).lane0
    let r := (fpStepTwo 0 1 6 7 g l).getD (Val.zero, Flags.zero, false)
    ⟨0, 1, 6, 7, g, l, ⟨9, none, .pure⟩, r.1, num 5, r.2.1, r.2.2, by decide +kernel⟩,
    ⟨.addi 5 6 false 8 false, strandAt.put 6 (pureSym 9), (linearForm (.addi 5 6 false 8 false)).getD fun _ => none, fun l => (linAdd (l.reg 6) (num 5)).getD Val.zero, rfl, by decide +kernel⟩⟩

theorem witness_RegisterFormsTouchNoMemory :
    ∃ (i : Instr) (s : State),
      ((integerResult i).isSome = true ∨ (capabilityResult i).isSome = true ∨ (floatResult i).isSome = true) ∧
      s.clear i (srcs i) :=
  ⟨.add 7 6 false 8 false, gangAt.put 6 (num 3), by decide +kernel⟩

theorem witness_LaneFormsCombineTheActiveLanes :
    (∃ (i : Instr) (s : State) (f : Machine.Group → List (ℕ × Val)),
      laneResult i = some f ∧
      s.clear i (srcs i) ∧
      s.g.acts ≠ [] ∧
      ((List.map (fun (x : Lane) => x.no) s.g.acts).Nodup) ∧
      (∀ l ∈ s.g.acts, l.no < 32)) ∧
    (∃ (i : Instr) (s : State) (a : BitVec 6) (op : BitVec 2 → ℕ → ℕ → FpRes) (v : ℕ) (fl : Flags) (sub : Bool),
      reduceForm i = some (a, op) ∧
      s.clear i [a] ∧
      (reduceTree (op (BitVec.extractLsb' 0 2 (s.g.fmode s.g.lead))) (fun (n : ℕ) => Option.map (fun (l : Lane) => BitVec.toNat (s.g.read l a).bits % 2 ^ 32) (List.find? (fun (l : Lane) => l.no == n) s.g.acts)) 5 0 = some (v, fl, sub))) :=
  ⟨⟨.scanAddI 6 8, apart, (laneResult (.scanAddI 6 8)).getD fun _ => [], rfl, by decide +kernel⟩,
    ⟨.redAddF32 6 8, gangAt.put 6 (num 0x3F800000), 6, fun m x y => fpAdd (fpFmt 1) m false x y, 0x40800000, ⟨false, false, false, false, false⟩, false, rfl, by decide +kernel⟩⟩

theorem witness_MaskRegistersBelongToTheGang :
    (∃ (i : Instr) (s : Machine.State) (d : BitVec 6) (f : Machine.Group → BitVec 32),
      d.toNat < 8 ∧
      maskResult i = some (d, f) ∧
      s.clear i []) ∧
    (∃ (a : BitVec 6) (d : BitVec 6) (s : Machine.State) (l : Lane) (t : List Lane),
      d.toNat < 8 ∧
      s.clear (Instr.mMovFromK a d) [a] ∧
      s.g.acts = l :: t) ∧
    (∃ (s : Machine.State) (h : Machine.Group),
      s.g.isG = true ∧
      s.midRun s.g = false ∧
      h ∈ s.groups ∧
      h.isG = true ∧
      h.gang = s.g.gang) ∧
    (∃ (s : Machine.State),
      s.midRun s.g = true) :=
  ⟨⟨.mNot 1 2, gangAt, 2, fun g => ~~~(g.m.toList.getD 1 0), by decide +kernel, rfl, by decide +kernel⟩,
    ⟨6, 2, gangAt.put 6 (num 9), (gangAt.put 6 (num 9)).g.lanes.headD (startLane 0 []), (gangAt.put 6 (num 9)).g.lanes.tail, by decide +kernel⟩,
    ⟨{ gangAt with groups := [otherPart] }, otherPart, by decide +kernel⟩,
    ⟨({ gangAt with mem := gangAt.mem.store (localPA 2 0x1000) 4 (Instr.word (.add 56 2 false 6 false)) } : State).grp fun g => { g with runLen := 2 }, by decide +kernel⟩⟩

theorem witness_QuantisationForms :
    (∃ (i : Instr) (s : Machine.State) (et : Bool) (f : Word → (BitVec 6 → Word) → Word),
      quantResult i = some (et, f) ∧
      s.clear i (srcs i) ∧
      (et = true → ∀ l ∈ s.g.execs (isUniform i), BitVec.extractLsb' 0 2 (s.g.fmt l.no) ≠ 0)) ∧
    (∃ (i : Instr) (s : Machine.State) (et : Bool) (f : Word → (BitVec 6 → Word) → Word),
      quantResult i = some (et, f) ∧
      s.clear i (srcs i) ∧
      et = true ∧
      (∃ l ∈ s.g.execs (isUniform i), BitVec.extractLsb' 0 2 (s.g.fmt l.no) = 0)) ∧
    (∃ (z : ℕ) (b : ℕ),
      z < 2 ^ b) ∧
    (∃ (b : ℕ),
      0 < b) ∧
    (∃ (a : BitVec 6) (s : Machine.State),
      s.clear (Instr.fmtSet a) [a] ∧
      s.follower (Instr.fmtSet a) = true ∧
      (∀ sl ∈ s.g.slices, ∀ (l : Lane), List.find? (fun (l : Lane) => l.no / 4 == sl.idx) s.g.acts = some l → fmtReserved (s.g.words l a) = false) ∧
      ((List.map (fun (x : Slice) => x.idx) s.g.slices).Nodup)) ∧
    (∃ (a : BitVec 6) (s : Machine.State),
      s.clear (Instr.fmtSet a) [a] ∧
      (∃ sl ∈ s.g.slices, ∃ (l : Lane), List.find? (fun (l : Lane) => l.no / 4 == sl.idx) s.g.acts = some l ∧ fmtReserved (s.g.words l a) = true)) :=
  ⟨⟨.quant 7 6 8 false, gangAt.inFormat, true, fun fmt r => BitVec.ofNat 64 (quantise ((r 6).toNat % 2 ^ 32) ((r 7).toNat % 2 ^ 16) ((r 7).toNat / 2 ^ 16 % 2 ^ 8) (if fmtET fmt = 2 then 4 else 8) (fmtSF fmt)), rfl, by decide +kernel⟩,
    ⟨.qscale 6 8 false, gangAt, true, fun fmt r => packedScale (r 6) fmt, rfl, by decide +kernel⟩,
    ⟨3, 4, by decide +kernel⟩,
    ⟨4, by decide +kernel⟩,
    ⟨6, strandAt.put 6 (num 2), by decide +kernel⟩,
    ⟨6, strandAt.put 6 (num 64), by decide +kernel⟩⟩

theorem witness_LocalLoadsReadTheirBytes :
    (∃ (i : Instr) (s : Machine.State) (f : AccessForm),
      accessForm i = some f ∧
      f.store = false ∧
      s.clear i (srcs i) ∧
      s.scPending = false ∧
      s.g.unwatched ∧
      (∀ l ∈ s.g.execs (isUniform i), s.g.mayAccess f.base f.disp f.size [Perm.r] l ∧ s.atOnce l (ownPA s.g f.base f.disp l) f.size) ∧
      f.reg = 0) ∧
    (∃ (i : Instr) (s : Machine.State) (f : AccessForm) (ids : List (ℕ × BitVec 6)),
      accessForm i = some f ∧
      f.store = false ∧
      s.clear i (srcs i) ∧
      s.scPending = false ∧
      s.g.unwatched ∧
      (∀ l ∈ s.g.execs (isUniform i), s.g.mayAccess f.base f.disp f.size [Perm.r] l ∧ s.atOnce l (ownPA s.g f.base f.disp l) f.size) ∧
      f.reg ≠ 0 ∧
      s.g.acts ≠ [] ∧
      (s.freshIds (slicesOf (List.map (fun (x : Lane) => x.no) s.g.acts)) = some ids)) :=
  ⟨⟨.ld64 1 false 4 0 false, strandAt, ⟨4, 0, 8, false, false, false, 8, none⟩, by decide +kernel⟩,
    ⟨.ld64 1 true 4 6 false, strandAt, ⟨4, 6, 8, false, false, false, 0, some 8⟩, [(0, 0)], by and_intros <;> decide +kernel⟩⟩

theorem witness_LocalStoresWriteTheirBytes :
    (∃ (i : Instr) (s : Machine.State) (f : AccessForm) (t : Machine.State) (l : Lane) (n : ℕ),
      s.inv ∧
      accessForm i = some f ∧
      f.store = true ∧
      s.clear i (srcs i) ∧
      s.scPending = false ∧
      s.g.unwatched ∧
      s.follower i = true ∧
      (s.g.priv = 0 → s.g.sp.done = 0) ∧
      (∀ l ∈ s.g.execs (isUniform i), s.g.mayAccess f.base f.disp f.size (if (f.cap && (s.g.read l f.reg).tag == Tag.cap) = true then [Perm.w, Perm.sc] else [Perm.w]) l ∧ s.atOnce l (ownPA s.g f.base f.disp l) f.size ∧ s.mem.poisoned (ownPA s.g f.base f.disp l) f.size = false) ∧
      exec i s = Host.Outcome.next t ∧
      s.g.execs (isUniform i) = [l] ∧
      n < f.size) :=
  ⟨.st64 1 true 4 6 false, strandAt.coded.put 6 (num 0x123456789), ⟨4, 6, 8, true, false, false, 0, some 8⟩,
    nextOf (exec (.st64 1 true 4 6 false) (strandAt.coded.put 6 (num 0x123456789))) strandAt, (strandAt.coded.put 6 (num 0x123456789)).lane0, 3,
    by and_intros <;> first | exact nextOf_eq _ _ (by decide +kernel) | decide +kernel⟩

theorem witness_AccessChecksTrapInOrder :
    (∃ (i : Instr) (s : State) (f : AccessForm) (l : Lane) (t : List Lane),
      accessForm i = some f ∧
      s.reaches i (srcs i) ∧
      s.knows (srcs i) ∧
      s.scPending = false ∧
      ((if f.store = true then s.g.todo (s.g.execs (isUniform i)) else s.g.execs (isUniform i)) = l :: t) ∧
      (s.g.read l f.base).tag ≠ Tag.cap) ∧
    (∃ (i : Instr) (s : State) (f : AccessForm) (l : Lane) (t : List Lane),
      accessForm i = some f ∧
      s.reaches i (srcs i) ∧
      s.knows (srcs i) ∧
      s.scPending = false ∧
      ((if f.store = true then s.g.todo (s.g.execs (isUniform i)) else s.g.execs (isUniform i)) = l :: t) ∧
      (s.g.read l f.base).tag = Tag.cap ∧
      (capHas (s.g.read l f.base).bits (if f.store = true then Perm.w else Perm.r) = false ∨ f.store = true ∧ f.cap = true ∧ (s.g.read l f.reg).tag = Tag.cap ∧ capHas (s.g.read l f.base).bits Perm.sc = false ∨ ownAddr s.g (accessAddr s.g f.base f.disp l) = false ∧ capHas (s.g.read l f.base).bits Perm.m = false)) ∧
    (∃ (i : Instr) (s : State) (f : AccessForm) (l : Lane) (t : List Lane),
      accessForm i = some f ∧
      s.reaches i (srcs i) ∧
      s.knows (srcs i) ∧
      s.scPending = false ∧
      ((if f.store = true then s.g.todo (s.g.execs (isUniform i)) else s.g.execs (isUniform i)) = l :: t) ∧
      (s.g.read l f.base).tag = Tag.cap ∧
      (¬(capHas (s.g.read l f.base).bits (if f.store = true then Perm.w else Perm.r) = false ∨ f.store = true ∧ f.cap = true ∧ (s.g.read l f.reg).tag = Tag.cap ∧ capHas (s.g.read l f.base).bits Perm.sc = false ∨ ownAddr s.g (accessAddr s.g f.base f.disp l) = false ∧ capHas (s.g.read l f.base).bits Perm.m = false)) ∧
      inBounds (s.g.read l f.base).bits (accessIndex s.g f.base f.disp l) f.size = false) ∧
    (∃ (i : Instr) (s : State) (f : AccessForm) (l : Lane) (t : List Lane),
      accessForm i = some f ∧
      s.reaches i (srcs i) ∧
      s.knows (srcs i) ∧
      s.scPending = false ∧
      ((if f.store = true then s.g.todo (s.g.execs (isUniform i)) else s.g.execs (isUniform i)) = l :: t) ∧
      (s.g.read l f.base).tag = Tag.cap ∧
      (¬(capHas (s.g.read l f.base).bits (if f.store = true then Perm.w else Perm.r) = false ∨ f.store = true ∧ f.cap = true ∧ (s.g.read l f.reg).tag = Tag.cap ∧ capHas (s.g.read l f.base).bits Perm.sc = false ∨ ownAddr s.g (accessAddr s.g f.base f.disp l) = false ∧ capHas (s.g.read l f.base).bits Perm.m = false)) ∧
      inBounds (s.g.read l f.base).bits (accessIndex s.g f.base f.disp l) f.size = true ∧
      accessAddr s.g f.base f.disp l % f.size ≠ 0) :=
  ⟨⟨.ld64 1 false 6 7 false, strandAt, ⟨6, 7, 8, false, false, false, 8, none⟩, strandAt.lane0, [], by decide +kernel⟩,
    ⟨.ld64 1 false 55 7 false, strandAt, ⟨55, 7, 8, false, false, false, 8, none⟩, strandAt.lane0, [], by decide +kernel⟩,
    ⟨.ld64 0x200 false 4 7 false, strandAt, ⟨4, 7, 8, false, false, false, 4096, none⟩, strandAt.lane0, [], by decide +kernel⟩,
    ⟨.ld64 1 false 6 7 false, strandAt.put 6 (advance dataAt 3), ⟨6, 7, 8, false, false, false, 8, none⟩, (strandAt.put 6 (advance dataAt 3)).lane0, [], by and_intros <;> decide +kernel⟩⟩

theorem witness_RemoteAccessesTravelToTheirHome :
    (∃ (i : Instr) (s : Machine.State) (f : AccessForm) (l : Lane) (p : Place) (id : BitVec 6),
      accessForm i = some f ∧
      s.clear i (srcs i) ∧
      s.scPending = false ∧
      s.g.unwatched ∧
      s.g.acts = [l] ∧
      f.advance = none ∧
      (checkAccess s s.g (s.g.read l f.base) f.base (accessIndex s.g f.base f.disp l) f.size f.size [if f.store = true then Perm.w else Perm.r] { r := !f.store, w := f.store, x := false, a := false, cap := f.store && (f.cap && (s.g.read l f.reg).tag == Tag.cap) } = Chk.ok p) ∧
      p.own = false ∧
      f.store = false ∧
      f.reg ≠ 0 ∧
      f.reg.toNat < 56 ∧
      s.g.banked f.reg = false ∧
      s.freshId (l.no / 4) = some id) ∧
    (∃ (i : Instr) (s : Machine.State) (f : AccessForm) (l : Lane) (p : Place) (n : ℕ),
      accessForm i = some f ∧
      s.clear i (srcs i) ∧
      s.scPending = false ∧
      s.g.unwatched ∧
      s.g.acts = [l] ∧
      f.advance = none ∧
      (checkAccess s s.g (s.g.read l f.base) f.base (accessIndex s.g f.base f.disp l) f.size f.size [if f.store = true then Perm.w else Perm.r] { r := !f.store, w := f.store, x := false, a := false, cap := f.store && (f.cap && (s.g.read l f.reg).tag == Tag.cap) } = Chk.ok p) ∧
      p.own = false ∧
      f.store = true ∧
      s.follower i = true ∧
      (s.g.priv = 0 → s.g.sp.done = 0) ∧
      (s.core s.g.core).freeEntry = some n) :=
  ⟨⟨.ld64 1 false 5 7 false, away, ⟨5, 7, 8, false, false, false, 8, none⟩, away.lane0, away.placeAt 5 (away.at0 5 + 8) 8 8 [.r] needR, 0, by and_intros <;> decide +kernel⟩,
    ⟨.st64 1 false 5 4 false, away, ⟨5, 4, 8, true, false, false, 8, none⟩, away.lane0, away.placeAt 5 (away.at0 5 + 8) 8 8 [.w] needW, 0, by and_intros <;> decide +kernel⟩⟩

theorem witness_LocalAtomicsReplaceTheirWord :
    ∃ (i : Instr) (s : State) (a : BitVec 6) (b : BitVec 6) (d : BitVec 6) (n : ℕ) (new : ℕ → ℕ → ℕ → Option ℕ) (l : Lane) (id : BitVec 6),
      atomicForm i = some (a, b, d, n, new) ∧
      s.clear i (srcs i) ∧
      s.scPending = false ∧
      s.g.unwatched ∧
      s.follower i = true ∧
      (s.g.priv = 0 → s.g.sp.done = 0) ∧
      s.g.acts = [l] ∧
      s.g.mayAccess a 0 n [Perm.r, Perm.w, Perm.a] l ∧
      s.atOnce l (ownPA s.g a 0 l) n ∧
      s.mem.poisoned (ownPA s.g a 0 l) n = false ∧
      d.toNat < 56 ∧
      s.g.run = Run.ready ∧
      (d ≠ 0 → s.freshId (l.no / 4) = some id ∧ s.g.banked d = false) :=
  ⟨.amoAdd 6 4 8 true false, strandAt.coded.put 6 (num 5), 4, 6, 8, 8, fun v x _ => some ((v + x) % 2 ^ (8 * 8)), (strandAt.coded.put 6 (num 5)).lane0, 0, rfl, by and_intros <;> decide +kernel⟩

theorem witness_FullEmptyOperationsFollowTheWord :
    (∃ (i : Instr) (s : State) (f : FullEmptyForm) (l : Lane),
      fullEmptyForm i = some f ∧
      s.clear i (srcs i) ∧
      s.scPending = false ∧
      s.g.unwatched ∧
      s.follower i = true ∧
      (s.g.priv = 0 → s.g.sp.done = 0) ∧
      s.g.acts = [l] ∧
      s.g.run = Run.ready ∧
      f.dst.toNat < 56 ∧
      (s.g.mayAccess f.base 0 8 [if f.reads = true then Perm.r else Perm.w, Perm.a] l) ∧
      s.atOnce l (ownPA s.g f.base 0 l) 8 ∧
      s.mem.poisoned (ownPA s.g f.base 0 l) 8 = false ∧
      (∀ w ∈ s.fes, w.pa ≠ ownPA s.g f.base 0 l) ∧
      s.g.banked f.dst = false ∧
      (∀ (b : Bool), f.needs = some b → s.mem.isFull (ownPA s.g f.base 0 l) = b)) ∧
    (∃ (i : Instr) (s : State) (f : FullEmptyForm) (l : Lane) (b : Bool),
      fullEmptyForm i = some f ∧
      s.clear i (srcs i) ∧
      s.scPending = false ∧
      s.g.unwatched ∧
      s.follower i = true ∧
      (s.g.priv = 0 → s.g.sp.done = 0) ∧
      s.g.acts = [l] ∧
      s.g.run = Run.ready ∧
      f.dst.toNat < 56 ∧
      (s.g.mayAccess f.base 0 8 [if f.reads = true then Perm.r else Perm.w, Perm.a] l) ∧
      s.atOnce l (ownPA s.g f.base 0 l) 8 ∧
      s.mem.poisoned (ownPA s.g f.base 0 l) 8 = false ∧
      (∀ w ∈ s.fes, w.pa ≠ ownPA s.g f.base 0 l) ∧
      s.g.banked f.dst = false ∧
      f.needs = some b ∧
      s.mem.isFull (ownPA s.g f.base 0 l) ≠ b) :=
  ⟨⟨.ldFe 4 8 false, strandAt.coded, ⟨4, 0, 8, some true, some false, true, false⟩, strandAt.lane0, by and_intros <;> decide +kernel⟩,
    ⟨.stEf 6 4 false, strandAt.coded, ⟨4, 6, 0, some false, some true, false, true⟩, strandAt.lane0, false, by and_intros <;> decide +kernel⟩⟩

theorem witness_BankOperationsGoToTheirBank :
    (∃ (i : Instr) (s : Machine.State) (a : BitVec 6) (b : BitVec 6) (d : BitVec 6) (k : ℕ) (l : Lane) (p : Place) (n : ℕ),
      s.scPending = false ∧
      s.g.unwatched ∧
      s.follower i = true ∧
      (s.g.priv = 0 → s.g.sp.done = 0) ∧
      s.g.acts = [l] ∧
      (checkAccess s s.g (s.g.read l a) a (↑(index (s.g.read l a))) 64 64 [if i = Instr.bankSumF32 a d then Perm.r else Perm.w, Perm.a] { r := decide (i = Instr.bankSumF32 a d), w := !decide (i = Instr.bankSumF32 a d), x := false, a := true, cap := false } = Chk.ok p) ∧
      isSharedPA p.pa = true ∧
      p.own = false ∧
      [Instr.bankAddF32 b a, Instr.bankAddBf16 b a, Instr.bankMaxF32 b a, Instr.bankAxpyF32 b a][k]? = some i ∧
      s.clear i (bankSrcs i s) ∧
      (s.g.isG = false → 1 ≤ b.toNat ∧ b.toNat ≤ 52) ∧
      (s.core s.g.core).freeEntry = some n) ∧
    (∃ (i : Instr) (s : Machine.State) (a : BitVec 6) (d : BitVec 6) (l : Lane) (p : Place) (id : BitVec 6),
      s.scPending = false ∧
      s.g.unwatched ∧
      s.follower i = true ∧
      (s.g.priv = 0 → s.g.sp.done = 0) ∧
      s.g.acts = [l] ∧
      (checkAccess s s.g (s.g.read l a) a (↑(index (s.g.read l a))) 64 64 [if i = Instr.bankSumF32 a d then Perm.r else Perm.w, Perm.a] { r := decide (i = Instr.bankSumF32 a d), w := !decide (i = Instr.bankSumF32 a d), x := false, a := true, cap := false } = Chk.ok p) ∧
      isSharedPA p.pa = true ∧
      p.own = false ∧
      i = Instr.bankSumF32 a d ∧
      s.clear i [a] ∧
      d ≠ 0 ∧
      d.toNat < 56 ∧
      s.g.banked d = false ∧
      s.freshId (l.no / 4) = some id) :=
  ⟨⟨.bankAddF32 6 5, banked, 5, 6, 0, 0, banked.lane0, banked.placeAt 5 (banked.at0 5) 64 64 [.w, .a] ⟨false, true, false, true, false⟩, 0, by and_intros <;> decide +kernel⟩,
    ⟨.bankSumF32 5 8, banked, 5, 8, banked.lane0, banked.placeAt 5 (banked.at0 5) 64 64 [.r, .a] ⟨true, false, false, true, false⟩, 0, by and_intros <;> decide +kernel⟩⟩

theorem witness_FencesScAndCacheOperations :
    (∃ (sc : BitVec 6) (s : Machine.State),
      s.clear (Instr.fence sc) [] ∧
      s.follower (Instr.fence sc) = true ∧
      s.quiet (sc == 7) = true) ∧
    (∃ (sc : BitVec 6) (s : Machine.State),
      s.clear (Instr.fence sc) [] ∧
      s.follower (Instr.fence sc) = true ∧
      s.quiet (sc == 7) = false) ∧
    (∃ (i : Instr) (s : Machine.State) (a : BitVec 6) (b : BitVec 6) (d : BitVec 6) (u : Bool) (load : Bool) (l : Lane) (p : Place) (id : BitVec 6),
      (i = if load = true then Instr.ldSc a d u else Instr.stSc b a u) ∧
      s.clear i (srcs i) ∧
      s.g.unwatched ∧
      s.follower i = true ∧
      (s.g.priv = 0 → s.g.sp.done = 0) ∧
      s.g.acts = [l] ∧
      d ≠ 0 ∧
      d.toNat < 56 ∧
      s.g.banked d = false ∧
      s.freshId (l.no / 4) = some id ∧
      (checkAccess s s.g (s.g.read l a) a (↑(index (s.g.read l a))) 8 8 [if load = true then Perm.r else Perm.w] { r := load, w := !load, x := false, a := false, cap := false } = Chk.ok p) ∧
      (p.own = true → s.locked p.pa 8 = false ∧ s.mem.poisoned p.pa 8 = false) ∧
      s.quiet false = false) ∧
    (∃ (i : Instr) (s : Machine.State) (a : BitVec 6) (b : BitVec 6) (d : BitVec 6) (u : Bool) (load : Bool) (l : Lane) (p : Place) (id : BitVec 6),
      (i = if load = true then Instr.ldSc a d u else Instr.stSc b a u) ∧
      s.clear i (srcs i) ∧
      s.g.unwatched ∧
      s.follower i = true ∧
      (s.g.priv = 0 → s.g.sp.done = 0) ∧
      s.g.acts = [l] ∧
      d ≠ 0 ∧
      d.toNat < 56 ∧
      s.g.banked d = false ∧
      s.freshId (l.no / 4) = some id ∧
      (checkAccess s s.g (s.g.read l a) a (↑(index (s.g.read l a))) 8 8 [if load = true then Perm.r else Perm.w] { r := load, w := !load, x := false, a := false, cap := false } = Chk.ok p) ∧
      (p.own = true → s.locked p.pa 8 = false ∧ s.mem.poisoned p.pa 8 = false) ∧
      s.quiet false = true) ∧
    (∃ (a : BitVec 6) (u : Bool) (s : Machine.State),
      s.clear (Instr.pf a u) [a]) ∧
    (∃ (a : BitVec 6) (u : Bool) (s : Machine.State) (l : Lane),
      s.inv ∧
      s.clear (Instr.ccZero a u) [a] ∧
      s.scPending = false ∧
      s.g.unwatched ∧
      s.follower (Instr.ccZero a u) = true ∧
      (s.g.priv = 0 → s.g.sp.done = 0) ∧
      s.g.acts = [l] ∧
      s.g.mayAccess a 0 64 [Perm.w] l ∧
      s.atOnce l (ownPA s.g a 0 l) 64) ∧
    (∃ (i : Instr) (a : BitVec 6) (u : Bool) (s : Machine.State) (l : Lane) (p : Place),
      (i = Instr.ccClean a u ∨ i = Instr.ccInval a u) ∧
      s.clear i [a] ∧
      s.scPending = false ∧
      s.g.unwatched ∧
      s.follower i = true ∧
      (s.g.priv = 0 → s.g.sp.done = 0) ∧
      s.g.acts = [l] ∧
      checkAccess s s.g (s.g.read l a) a (↑(index (s.g.read l a))) 1 1 [Perm.r] { r := true, w := false, x := false, a := false, cap := false } = Chk.ok p ∧
      Config.ddrSize ≤ p.pa) ∧
    (∃ (i : Instr) (a : BitVec 6) (u : Bool) (s : Machine.State) (l : Lane) (p : Place) (n : ℕ),
      (i = Instr.ccClean a u ∨ i = Instr.ccInval a u) ∧
      s.clear i [a] ∧
      s.scPending = false ∧
      s.g.unwatched ∧
      s.follower i = true ∧
      (s.g.priv = 0 → s.g.sp.done = 0) ∧
      s.g.acts = [l] ∧
      checkAccess s s.g (s.g.read l a) a (↑(index (s.g.read l a))) 1 1 [Perm.r] { r := true, w := false, x := false, a := false, cap := false } = Chk.ok p ∧
      p.pa < Config.ddrSize ∧
      p.own = false ∧
      (s.core s.g.core).freeEntry = some n) :=
  ⟨⟨4, strandAt.coded, by decide +kernel⟩,
    ⟨4, strandAt.coded.posting, by decide +kernel⟩,
    ⟨.ldSc 4 8 false, strandAt.coded.posting, 4, 6, 8, false, true, strandAt.lane0, strandAt.placeAt 4 (strandAt.at0 4) 8 8 [.r] needR, 0, by and_intros <;> decide +kernel⟩,
    ⟨.ldSc 4 8 false, strandAt.coded, 4, 6, 8, false, true, strandAt.lane0, strandAt.placeAt 4 (strandAt.at0 4) 8 8 [.r] needR, 0, by and_intros <;> decide +kernel⟩,
    ⟨4, false, strandAt, by decide +kernel⟩,
    ⟨4, false, strandAt.coded, strandAt.lane0, by decide +kernel⟩,
    ⟨.ccClean 4 false, 4, false, strandAt.coded, strandAt.lane0, strandAt.placeAt 4 (strandAt.at0 4) 1 1 [.r] needR, by and_intros <;> decide +kernel⟩,
    ⟨.ccInval 5 false, 5, false, farMem, farMem.lane0, farMem.placeAt 5 (farMem.at0 5) 1 1 [.r] needR, 0, by and_intros <;> decide +kernel⟩⟩

theorem witness_StreamsAreBoundReadAndEnded :
    (∃ (b : BitVec 6) (kk : BitVec 6) (s : State) (l : Lane) (t : List Lane),
      s.clear (Instr.agBind b kk) [b] ∧
      s.follower (Instr.agBind b kk) = true ∧
      s.g.acts = l :: t ∧
      48 ≤ kk.toNat ∧
      kk.toNat < 56 ∧
      s.g.streams[streamNo kk] = none ∧
      (s.g.read l b).tag = Tag.cap ∧
      s.g.boundDst (some kk) = false ∧
      (capHas (s.g.read l b).bits (if BitVec.getLsbD s.g.x[1] 36 = true then Perm.w else Perm.r) = true) ∧
      BitVec.extractLsb' 39 25 s.g.x[1] = 0 ∧
      BitVec.extractLsb' 6 58 s.g.x[3] = 0 ∧
      (BitVec.extractLsb' 32 4 s.g.x[1]).toNat ≤ 4) ∧
    (∃ (kk : BitVec 6) (s : State) (st : Machine.Stream),
      s.clear (Instr.agUnbind kk) [] ∧
      s.follower (Instr.agUnbind kk) = true ∧
      s.g.streams[streamNo kk] = some st) ∧
    (∃ (kk : BitVec 6) (d : BitVec 6) (s : State) (st : Machine.Stream),
      s.clear (Instr.agPos kk d) [] ∧
      s.g.streams[streamNo kk] = some st) ∧
    (∃ (kk : BitVec 6) (s : State) (st : Machine.Stream),
      s.clear (Instr.agDrain kk) [] ∧
      s.follower (Instr.agDrain kk) = true ∧
      s.g.streams[streamNo kk] = some st ∧
      (st.append && s.storesOut) = false) ∧
    (∃ (kk : BitVec 6) (s : State) (st : Machine.Stream),
      s.clear (Instr.agDrain kk) [] ∧
      s.follower (Instr.agDrain kk) = true ∧
      s.g.streams[streamNo kk] = some st ∧
      (st.append && s.storesOut) = true) ∧
    (∃ (i : Instr) (kk : BitVec 6) (d : BitVec 6) (s : State),
      (i = Instr.agUnbind kk ∨ i = Instr.agPos kk d ∨ i = Instr.agDrain kk) ∧
      s.clear i [] ∧
      s.g.streams[streamNo kk] = none) :=
  ⟨⟨4, 48, streaming, streaming.lane0, [], by and_intros <;> decide +kernel⟩,
    ⟨48, bound, stream0, by decide +kernel⟩,
    ⟨48, 8, bound, stream0, by decide +kernel⟩,
    ⟨48, bound, stream0, by decide +kernel⟩,
    ⟨48, (bound.grp fun g => { g with streams := g.streams.set 0 (some { stream0 with ctl := 0x1000000000 }) }).posting, { stream0 with ctl := 0x1000000000 }, by decide +kernel⟩,
    ⟨.agPos 48 8, 48, 8, strandAt, by decide +kernel⟩⟩

theorem witness_SemaphoresAndSharedRegisters :
    (∃ (n : BitVec 6) (s : State),
      s.clear (Instr.semP n) [] ∧
      s.follower (Instr.semP n) = true ∧
      ((s.core s.g.core).sem n.toNat).count ≠ 0) ∧
    (∃ (n : BitVec 6) (s : State),
      s.clear (Instr.semP n) [] ∧
      s.follower (Instr.semP n) = true ∧
      ((s.core s.g.core).sem n.toNat).count = 0) ∧
    (∃ (n : BitVec 6) (s : State),
      s.clear (Instr.semV n) [] ∧
      s.follower (Instr.semV n) = true ∧
      s.quiet false = false) ∧
    (∃ (n : BitVec 6) (s : State),
      s.clear (Instr.semV n) [] ∧
      s.follower (Instr.semV n) = true ∧
      s.quiet false = true ∧
      ((s.core s.g.core).sem n.toNat).sleepers = []) ∧
    (∃ (n : BitVec 6) (s : State) (gid : ℕ) (rest : List ℕ) (h : Machine.Group),
      s.clear (Instr.semV n) [] ∧
      s.follower (Instr.semV n) = true ∧
      s.quiet false = true ∧
      ((s.core s.g.core).sem n.toNat).sleepers = gid :: rest ∧
      n.toNat < 16 ∧
      gid ≠ s.g.gid ∧
      (List.find? (fun (o : Machine.Group) => o.gid == gid) s.groups = some h) ∧
      ((List.map (fun (x : Machine.Group) => x.gid) s.groups).Nodup) ∧
      (∀ o ∈ s.groups, o.gid ≠ s.g.gid) ∧
      (statusSStep h.sp.status = false ∨ h.priv ≠ 0)) ∧
    (∃ (n : BitVec 6) (d : BitVec 6) (s : State),
      s.clear (Instr.sregRd n d) []) ∧
    (∃ (n : BitVec 6) (a : BitVec 6) (s : State) (l : Lane) (t : List Lane),
      s.clear (Instr.sregWr n a) [a] ∧
      s.follower (Instr.sregWr n a) = true ∧
      s.g.acts = l :: t) :=
  ⟨⟨3, strandAt.coded.withSem 3 ⟨2, []⟩, by decide +kernel⟩,
    ⟨3, strandAt.coded.withSem 3 ⟨0, [9]⟩, by decide +kernel⟩,
    ⟨3, strandAt.coded.posting, by decide +kernel⟩,
    ⟨3, strandAt.coded.withSem 3 ⟨65535, []⟩, by decide +kernel⟩,
    ⟨3, mated.withSem 3 ⟨0, [2, 9]⟩, 2, [9], mate, by and_intros <;> decide +kernel⟩,
    ⟨1, 8, strandAt, by decide +kernel⟩,
    ⟨1, 6, strandAt.coded, strandAt.lane0, [], by decide +kernel⟩⟩

theorem witness_BarriersReleaseByGeneration :
    (∃ (i : Instr) (s : Machine.State) (n : BitVec 4) (sc : BitVec 3),
      (i = Instr.bar n sc ∨ i = Instr.barArrive n sc) ∧
      s.clear i [] ∧
      s.barLimit (s.g.barKey sc.toNat n.toNat false) ≤ n.toNat ∧
      (∀ (a : Arrival), s.g.arrival (s.g.barKey sc.toNat n.toNat false) = some a → a.at_ ≠ some s.g.pc)) ∧
    (∃ (i : Instr) (s : Machine.State) (n : BitVec 4) (sc : BitVec 3),
      (i = Instr.bar n sc ∨ i = Instr.barArrive n sc) ∧
      s.clear i [] ∧
      n.toNat < s.barLimit (s.g.barKey sc.toNat n.toNat false) ∧
      ((s.g.parts.all fun (p : ℕ × ℕ) => (s.barrier (s.g.barKey sc.toNat n.toNat false)).arrived.contains p) = true) ∧
      (∀ (a : Arrival), s.g.arrival (s.g.barKey sc.toNat n.toNat false) = some a → a.at_ ≠ some s.g.pc)) ∧
    (∃ (i : Instr) (s : Machine.State) (n : BitVec 4) (sc : BitVec 3),
      (i = Instr.bar n sc ∨ i = Instr.barArrive n sc) ∧
      s.clear i [] ∧
      n.toNat < s.barLimit (s.g.barKey sc.toNat n.toNat false) ∧
      ((s.g.parts.all fun (p : ℕ × ℕ) => (s.barrier (s.g.barKey sc.toNat n.toNat false)).arrived.contains p) = false) ∧
      s.follower i = true ∧
      s.quiet false = true ∧
      (∀ (a : Arrival), s.g.arrival (s.g.barKey sc.toNat n.toNat false) = some a → a.at_ ≠ some s.g.pc) ∧
      (∀ h ∈ s.members (s.g.barKey sc.toNat n.toNat false), ∀ p ∈ h.parts, p ∈ ((s.barrier (s.g.barKey sc.toNat n.toNat false)).arrived ++ s.g.parts).eraseDups) ∧
      s.joining (s.g.barKey sc.toNat n.toNat false) = false ∧
      ¬s.awaitsPackages (s.barrier (s.g.barKey sc.toNat n.toNat false))) ∧
    (∃ (i : Instr) (s : Machine.State) (n : BitVec 4) (sc : BitVec 3),
      (i = Instr.bar n sc ∨ i = Instr.barArrive n sc) ∧
      s.clear i [] ∧
      n.toNat < s.barLimit (s.g.barKey sc.toNat n.toNat false) ∧
      ((s.g.parts.all fun (p : ℕ × ℕ) => (s.barrier (s.g.barKey sc.toNat n.toNat false)).arrived.contains p) = false) ∧
      s.follower i = true ∧
      s.quiet false = true ∧
      (∀ (a : Arrival), s.g.arrival (s.g.barKey sc.toNat n.toNat false) = some a → a.at_ ≠ some s.g.pc) ∧
      ((∃ h ∈ s.members (s.g.barKey sc.toNat n.toNat false), ∃ p ∈ h.parts, p ∉ ((s.barrier (s.g.barKey sc.toNat n.toNat false)).arrived ++ s.g.parts).eraseDups) ∨ s.joining (s.g.barKey sc.toNat n.toNat false) = true ∨ s.awaitsPackages (s.barrier (s.g.barKey sc.toNat n.toNat false)))) ∧
    (∃ (s : Machine.State) (n : BitVec 4) (sc : BitVec 3) (a : Arrival),
      s.clear (Instr.bar n sc) [] ∧
      s.g.arrival (s.g.barKey sc.toNat n.toNat false) = some a ∧
      a.at_ = some s.g.pc ∧
      a.gen < (s.barrier (s.g.barKey sc.toNat n.toNat false)).gen) ∧
    (∃ (s : Machine.State) (n : BitVec 4) (sc : BitVec 3) (a : Arrival),
      s.clear (Instr.bar n sc) [] ∧
      s.g.arrival (s.g.barKey sc.toNat n.toNat false) = some a ∧
      a.at_ = some s.g.pc ∧
      (s.barrier (s.g.barKey sc.toNat n.toNat false)).gen ≤ a.gen) ∧
    (∃ (s : Machine.State) (n : BitVec 4) (sc : BitVec 3),
      s.clear (Instr.barWait n sc) [] ∧
      s.follower (Instr.barWait n sc) = true ∧
      n.toNat < s.barLimit (s.g.barKey sc.toNat n.toNat false) ∧
      s.g.arrival (s.g.barKey sc.toNat n.toNat false) = none) ∧
    (∃ (s : Machine.State) (n : BitVec 4) (sc : BitVec 3) (a : Arrival),
      s.clear (Instr.barWait n sc) [] ∧
      s.follower (Instr.barWait n sc) = true ∧
      n.toNat < s.barLimit (s.g.barKey sc.toNat n.toNat false) ∧
      s.g.arrival (s.g.barKey sc.toNat n.toNat false) = some a ∧
      a.gen < (s.barrier (s.g.barKey sc.toNat n.toNat false)).gen) ∧
    (∃ (s : Machine.State) (n : BitVec 4) (sc : BitVec 3) (a : Arrival),
      s.clear (Instr.barWait n sc) [] ∧
      s.follower (Instr.barWait n sc) = true ∧
      n.toNat < s.barLimit (s.g.barKey sc.toNat n.toNat false) ∧
      s.g.arrival (s.g.barKey sc.toNat n.toNat false) = some a ∧
      (s.barrier (s.g.barKey sc.toNat n.toNat false)).gen ≤ a.gen) ∧
    (∃ (s : Machine.State) (b : BitVec 6) (a : BitVec 6) (d : BitVec 6) (l : Lane) (rest : List Lane),
      s.clear (Instr.barMax b a d) [a, b] ∧
      s.follower (Instr.barMax b a d) = true ∧
      s.quiet false = true ∧
      s.g.acts = l :: rest ∧
      (BitVec.extractLsb' 0 3 (s.g.words l b)).toNat ≤ 4 ∧
      (s.g.barKey (BitVec.extractLsb' 0 3 (s.g.words l b)).toNat (BitVec.extractLsb' 3 4 (s.g.words l b)).toNat true).id < s.barLimit (s.g.barKey (BitVec.extractLsb' 0 3 (s.g.words l b)).toNat (BitVec.extractLsb' 3 4 (s.g.words l b)).toNat true) ∧
      ((s.g.parts.all fun (p : ℕ × ℕ) => (s.barrier (s.g.barKey (BitVec.extractLsb' 0 3 (s.g.words l b)).toNat (BitVec.extractLsb' 3 4 (s.g.words l b)).toNat true)).arrived.contains p) = false) ∧
      (∀ (a : Arrival), s.g.arrival (s.g.barKey (BitVec.extractLsb' 0 3 (s.g.words l b)).toNat (BitVec.extractLsb' 3 4 (s.g.words l b)).toNat true) = some a → a.at_ ≠ some s.g.pc) ∧
      s.g.banked d = false ∧
      d ≠ 0 ∧
      d.toNat < 56 ∧
      (∀ h ∈ s.members (s.g.barKey (BitVec.extractLsb' 0 3 (s.g.words l b)).toNat (BitVec.extractLsb' 3 4 (s.g.words l b)).toNat true), ∀ p ∈ h.parts, p ∈ ((s.barrier (s.g.barKey (BitVec.extractLsb' 0 3 (s.g.words l b)).toNat (BitVec.extractLsb' 3 4 (s.g.words l b)).toNat true)).arrived ++ s.g.parts).eraseDups) ∧
      s.joining (s.g.barKey (BitVec.extractLsb' 0 3 (s.g.words l b)).toNat (BitVec.extractLsb' 3 4 (s.g.words l b)).toNat true) = false ∧
      ¬s.awaitsPackages (s.barrier (s.g.barKey (BitVec.extractLsb' 0 3 (s.g.words l b)).toNat (BitVec.extractLsb' 3 4 (s.g.words l b)).toNat true))) :=
  ⟨⟨.bar 2 1, crewed.parted, 2, 1, by decide +kernel⟩,
    ⟨.barArrive 2 1, mated.withBarrier [(1, 0)], 2, 1, by decide +kernel⟩,
    ⟨.bar 2 1, mated.withBarrier [(2, 0)], 2, 1, by and_intros <;> first | exact fun h => absurd h.1 (by decide +kernel) | decide +kernel⟩,
    ⟨.bar 2 1, mated, 2, 1, .inl rfl, by decide +kernel, by decide +kernel, by decide +kernel, by decide +kernel, by decide +kernel, by decide +kernel, .inl (by decide +kernel)⟩,
    ⟨(crewed.withBarrier []).arrivedAt 3 (some crewed.g.pc), 2, 1, ⟨crewed.g.barKey 1 2 false, 3, some crewed.g.pc⟩, by decide +kernel⟩,
    ⟨(crewed.withBarrier []).arrivedAt 4 (some crewed.g.pc), 2, 1, ⟨crewed.g.barKey 1 2 false, 4, some crewed.g.pc⟩, by decide +kernel⟩,
    ⟨crewed, 2, 1, by decide +kernel⟩,
    ⟨(crewed.withBarrier []).arrivedAt 3 none, 2, 1, ⟨crewed.g.barKey 1 2 false, 3, none⟩, by decide +kernel⟩,
    ⟨(crewed.withBarrier []).arrivedAt 4 none, 2, 1, ⟨crewed.g.barKey 1 2 false, 4, none⟩, by decide +kernel⟩,
    ⟨(crewed.put 6 (num 7)).put 7 (num 17), 7, 6, 8, ((crewed.put 6 (num 7)).put 7 (num 17)).lane0, [], by and_intros <;> decide +kernel⟩⟩

theorem witness_RingsStepsAndWaits :
    (∃ (r : BitVec 2) (st : BitVec 3) (s : Machine.State),
      s.clear (Instr.ringArrive r st) [] ∧
      s.follower (Instr.ringArrive r st) = true ∧
      s.quiet false = true ∧
      r.toNat < s.ringLimit ∧
      (s.ringSleepers s.g.sp.crew r.toNat st.toNat !s.phase r.toNat st.toNat) = []) ∧
    (∃ (r : BitVec 2) (st : BitVec 3) (s : Machine.State) (gid : ℕ) (h : Machine.Group),
      s.clear (Instr.ringArrive r st) [] ∧
      s.follower (Instr.ringArrive r st) = true ∧
      s.quiet false = true ∧
      r.toNat < s.ringLimit ∧
      (s.ringSleepers s.g.sp.crew r.toNat st.toNat !s.phase r.toNat st.toNat) = [gid] ∧
      gid ≠ s.g.gid ∧
      (List.find? (fun (o : Machine.Group) => o.gid == gid) s.groups = some h) ∧
      ((List.map (fun (x : Machine.Group) => x.gid) s.groups).Nodup) ∧
      (∀ o ∈ s.groups, o.gid ≠ s.g.gid) ∧
      (statusSStep h.sp.status = false ∨ h.priv ≠ 0)) ∧
    (∃ (p : Bool) (r : BitVec 2) (st : BitVec 3) (s : Machine.State),
      s.clear (Instr.ringWait p r st) [] ∧
      s.follower (Instr.ringWait p r st) = true ∧
      r.toNat < s.ringLimit ∧
      s.phase r.toNat st.toNat = p) ∧
    (∃ (p : Bool) (r : BitVec 2) (st : BitVec 3) (s : Machine.State),
      s.clear (Instr.ringWait p r st) [] ∧
      s.follower (Instr.ringWait p r st) = true ∧
      r.toNat < s.ringLimit ∧
      s.phase r.toNat st.toNat ≠ p) ∧
    (∃ (i : Instr) (r : BitVec 2) (st : BitVec 3) (s : Machine.State),
      (i = Instr.ringArrive r st ∨ ∃ (p : Bool), i = Instr.ringWait p r st) ∧
      s.clear i [] ∧
      s.ringLimit ≤ r.toNat) ∧
    (∃ (s : Machine.State),
      s.clear Instr.step [] ∧
      s.follower Instr.step = true ∧
      (Option.any (fun (t : Machine.Task) => t.withdrawn (dieOf s.g.core)) (s.task s.g.sp.task) = false) ∧
      s.quiet true = false) ∧
    (∃ (s : Machine.State),
      s.clear Instr.step [] ∧
      s.follower Instr.step = true ∧
      (Option.any (fun (t : Machine.Task) => t.withdrawn (dieOf s.g.core)) (s.task s.g.sp.task) = false) ∧
      s.quiet true = true ∧
      (((s.task s.g.sp.task).bind fun (x : Machine.Task) => x.change).isSome = true)) ∧
    (∃ (s : Machine.State),
      s.clear Instr.step [] ∧
      s.follower Instr.step = true ∧
      (Option.any (fun (t : Machine.Task) => t.withdrawn (dieOf s.g.core)) (s.task s.g.sp.task) = false) ∧
      s.quiet true = true ∧
      (((s.task s.g.sp.task).bind fun (x : Machine.Task) => x.change) = none)) ∧
    (∃ (b : BitVec 6) (a : BitVec 6) (d : BitVec 6) (s : Machine.State) (l : Lane) (rest : List Lane) (runs : List (ℕ × ℕ)),
      s.clear (Instr.wait b a d) [a, b] ∧
      s.follower (Instr.wait b a d) = true ∧
      s.g.acts = l :: rest ∧
      (s.g.read l a).tag = Tag.cap ∧
      capHas (s.g.read l a).bits Perm.r = true ∧
      inBounds (s.g.read l a).bits (↑(index (s.g.read l a))) (BitVec.toNat (s.g.words l b)) = true ∧
      1 ≤ BitVec.toNat (s.g.words l b) ∧
      BitVec.toNat (s.g.words l b) ≤ 65536 ∧
      (localRuns s.g (capWalk (s.g.read l a).bits) (if walkOrder (capWalk (s.g.read l a).bits) = 0 then 2 ^ 20 else 64 * 2 ^ walkGran (capWalk (s.g.read l a).bits)) 1026 (index (s.g.read l a)) (BitVec.toNat (s.g.words l b)) = some runs)) ∧
    (∃ (d : BitVec 6) (s : Machine.State) (w : Armed),
      s.g.sent = true ∧
      s.g.held = [] ∧
      s.unstepped ∧
      s.g.stream d = none ∧
      (List.find? (fun (w : Armed) => w.gid == s.g.gid) s.armed = some w) ∧
      (w.hit = true ∨ w.deadline ≤ s.clk)) ∧
    (∃ (d : BitVec 6) (s : Machine.State) (w : Armed),
      s.g.sent = true ∧
      s.g.held = [] ∧
      s.unstepped ∧
      s.g.stream d = none ∧
      (List.find? (fun (w : Armed) => w.gid == s.g.gid) s.armed = some w) ∧
      w.hit = false ∧
      s.clk < w.deadline) :=
  ⟨⟨1, 2, crewed, by decide +kernel⟩,
    ⟨1, 2, { crewed with groups := [{ mate with run := .waiting (.ring 1 2 true) 900, sent := true }] }, 2, { mate with run := .waiting (.ring 1 2 true) 900, sent := true }, by decide +kernel⟩,
    ⟨false, 1, 2, crewed, by decide +kernel⟩,
    ⟨true, 1, 2, crewed, by decide +kernel⟩,
    ⟨.ringArrive 1 2, 1, 2, crewed.parted, by decide +kernel⟩,
    ⟨{ crewed with net := [ownRead] }, by decide +kernel⟩,
    ⟨{ crewed with tasks := [{ task1 with change := some (2, 0) }] }, by decide +kernel⟩,
    ⟨{ crewed with tasks := [task1], crews := [{ crew0 with atStep := true }] }, by decide +kernel⟩,
    ⟨6, 4, 8, crewed.put 6 (num 64), (crewed.put 6 (num 64)).lane0, [], [(localPA 0 0x2000, 64)], by and_intros <;> decide +kernel⟩,
    ⟨8, { crewed.grp (fun g => { g with sent := true }) with armed := [⟨1, [], 5000, true⟩] }, ⟨1, [], 5000, true⟩, by decide +kernel⟩,
    ⟨8, { crewed.grp (fun g => { g with sent := true }) with armed := [⟨1, [], 5000, false⟩] }, ⟨1, [], 5000, false⟩, by decide +kernel⟩⟩

theorem witness_TakingAnException :
    (∃ (s : Machine.State) (t : Trap),
      t.keep = [] ∧
      s.g.priv = 0 ∧
      t.performed = 0) ∧
    (∃ (s : Machine.State) (t : Trap),
      t.keep = [] ∧
      s.g.priv = 0 ∧
      t.performed ≠ 0 ∧
      t.flane < 32) ∧
    (∃ (s : Machine.State) (t : Trap) (inRun : Bool) (l : Lane),
      t.keep = [] ∧
      s.g.priv = 0 ∧
      l ∈ (s.takeTrap t inRun).g.lanes) ∧
    (∃ (s : Machine.State) (t : Trap) (inRun : Bool) (b : Shadow),
      t.keep = [] ∧
      s.g.priv = 0 ∧
      inRun = true ∧
      s.g.shadow = some b) ∧
    (∃ (s : Machine.State) (t : Trap),
      t.keep = [] ∧
      s.g.priv = 0 ∧
      s.g.sp.tvec.tag = Tag.cap ∧
      capHas s.g.sp.tvec.bits Perm.x = true) ∧
    (∃ (s : Machine.State) (t : Trap),
      t.keep = [] ∧
      s.g.priv = 0 ∧
      (s.g.sp.tvec.tag ≠ Tag.cap ∨ capHas s.g.sp.tvec.bits Perm.x = false)) ∧
    (∃ (s : Machine.State) (t : Trap) (inRun : Bool),
      t.keep = [] ∧
      s.g.priv = 0 ∧
      inRun = false ∧
      t.issued = true) ∧
    (∃ (s : Machine.State) (t : Trap),
      t.keep = [] ∧
      s.g.priv = 1) ∧
    (∃ (s : Machine.State) (t : Trap),
      t.keep = [] ∧
      s.g.priv = 2) :=
  ⟨⟨crewed.handled, trap 0x12 5, by decide +kernel⟩,
    ⟨crewed.handled, { trap 0x12 5 with performed := 1, flane := 2 }, by decide +kernel⟩,
    ⟨crewed.handled, trap 0x12 5, false, (crewed.handled.takeTrap (trap 0x12 5) false).lane0, by decide +kernel⟩,
    ⟨crewed.grp fun g => { g with shadow := some (g.snap) }, trap 0x12 5, true, crewed.g.snap, by decide +kernel⟩,
    ⟨crewed.handled, trap 0x12 5, by decide +kernel⟩,
    ⟨crewed, trap 0x12 5, by decide +kernel⟩,
    ⟨crewed.handled, trap 0x12 5, false, by decide +kernel⟩,
    ⟨crewed.atLevel 1, trap 0x12 5, by decide +kernel⟩,
    ⟨crewed.atLevel 2, trap 0x12 5, by decide +kernel⟩⟩

theorem witness_ReturnsFromTraps :
    (∃ (s : State),
      s.g.sent = false ∧
      s.g.priv = 0) ∧
    (∃ (s : State),
      s.g.sent = false ∧
      s.reaches Instr.rett [] ∧
      s.g.switchStep = 0 ∧
      (s.g.sp.epc.tag ≠ Tag.cap ∨ capHas s.g.sp.epc.bits Perm.x = false)) ∧
    (∃ (s : State),
      s.g.sent = false ∧
      s.reaches Instr.rett [] ∧
      s.g.switchStep = 0 ∧
      s.g.sp.epc.tag = Tag.cap ∧
      capHas s.g.sp.epc.bits Perm.x = true) :=
  ⟨⟨strandAt, by decide +kernel⟩,
    ⟨strandAt.atLevel 1, by decide +kernel⟩,
    ⟨(strandAt.atLevel 0x81).leaving, by decide +kernel⟩⟩

theorem witness_SoftwareTraps :
    (∃ (lo : BitVec 6) (hi : BitVec 6) (s : State),
      s.reaches (Instr.trap lo hi) [] ∧
      s.follower (Instr.trap lo hi) = true ∧
      s.g.priv = 0 ∧
      s.g.sp.tvec.tag = Tag.cap ∧
      capHas s.g.sp.tvec.bits Perm.x = true) ∧
    (∃ (lo : BitVec 6) (hi : BitVec 6) (s : State),
      s.reaches (Instr.trap lo hi) [] ∧
      s.follower (Instr.trap lo hi) = true ∧
      s.g.priv = 1) ∧
    (∃ (lo : BitVec 6) (hi : BitVec 6) (s : State),
      s.reaches (Instr.trap lo hi) [] ∧
      s.follower (Instr.trap lo hi) = true ∧
      s.g.priv = 2) :=
  ⟨⟨0x23, 4, strandAt.coded.handled, by decide +kernel⟩,
    ⟨0x23, 4, strandAt.coded.atLevel 1, by decide +kernel⟩,
    ⟨0x23, 4, strandAt.coded.atLevel 2, by decide +kernel⟩⟩

theorem witness_ChecksBeforeAnInstructionActs :
    (∃ (i : Instr) (s : State) (c : ℕ),
      isEvent i = false ∧
      s.g.sent = false ∧
      kindTrap i = some (s.g.isG, c) ∧
      (∀ (w : BitVec 32) (n : ℕ), i ≠ Instr.reservedEncoding w n)) ∧
    (∃ (i : Instr) (s : State),
      isEvent i = false ∧
      s.g.sent = false ∧
      kindOk i s.g.isG = true ∧
      s.g.priv.toNat < minLevel i ∧
      (∀ (w : BitVec 32) (n : ℕ), i ≠ Instr.reservedEncoding w n)) ∧
    (∃ (i : Instr) (s : State) (f : (BitVec 6 → Word) → Word) (n : ℕ),
      integerResult i = some f ∧
      s.g.sent = false ∧
      latchMissing i s.g = false ∧
      s.g.breakpoint = some n) ∧
    (∃ (i : Instr) (s : State) (f : (BitVec 6 → Word) → Word) (l : Lane) (t : List Lane) (c : BitVec 6),
      integerResult i = some f ∧
      s.reaches i (srcs i) ∧
      s.present (srcs i) ∧
      ¬s.symbolic (srcs i) ∧
      s.g.execs (isUniform i) = l :: t ∧
      (List.find? (fun (c : BitVec 6) => (s.g.read l c).tag == Tag.poison) (srcs i) = some c)) ∧
    (∃ (i : Instr) (s : State) (a : BitVec 6) (b : BitVec 6) (d : BitVec 6) (f : Word → Word → Word),
      divisionResult i = some (a, b, d, f) ∧
      s.reaches i (srcs i) ∧
      s.present (srcs i) ∧
      s.symbolic (srcs i)) :=
  ⟨⟨.regang, strandAt, 0x20, by decide +kernel, by decide +kernel, by decide +kernel, fun _ _ h => by cases h⟩,
    ⟨.crewKill 6, strandAt, by decide +kernel, by decide +kernel, by decide +kernel, by decide +kernel, fun _ _ h => by cases h⟩,
    ⟨.add 7 6 false 8 false, strandAt.grp (fun g => { g with slices := g.slices.map fun sl => { sl with bp := sl.bp.set 1 (BitVec.ofNat 64 (2 ^ 63 + 2 ^ 40 + 0x1000)) } }), fun r => r 6 + r 7, 1, rfl, by decide +kernel⟩,
    ⟨.add 7 6 false 8 false, strandAt.put 7 poisonVal, fun r => r 6 + r 7, (strandAt.put 7 poisonVal).lane0, [], 7, rfl, by decide +kernel⟩,
    ⟨.divI 7 6 8 false, strandAt.put 7 (pureSym 9), 6, 7, 8, ((divisionResult (.divI 7 6 8 false)).getD (0, 0, 0, fun _ _ => 0)).2.2.2, rfl, by decide +kernel⟩⟩

theorem witness_SpecialRegistersAreReadAndWritten :
    (∃ (sc : BitVec 6) (d : BitVec 6) (s : State),
      s.clear (Instr.srRd sc d) [] ∧
      sc.toNat < 36 ∧
      1 ≤ srAccess sc.toNat s.g.priv ∧
      (sc = 6 → s.g.fpBusy = none)) ∧
    (∃ (sc : BitVec 6) (a : BitVec 6) (s : State) (l : Lane) (rest : List Lane),
      s.clear (Instr.srWr sc a) [a] ∧
      s.follower (Instr.srWr sc a) = true ∧
      sc.toNat < 36 ∧
      srAccess sc.toNat s.g.priv = 2 ∧
      srPerSlice sc.toNat = false ∧
      sc ≠ 18 ∧
      sc ≠ 20 ∧
      sc ≠ 23 ∧
      s.g.acts = l :: rest ∧
      (if srCap sc.toNat = true then (s.g.read l a).tag = Tag.cap else srRule sc.toNat s.g.sp.status (s.g.read l a).word = none)) ∧
    (∃ (sc : BitVec 6) (a : BitVec 6) (s : State),
      s.clear (Instr.srWr sc a) [a] ∧
      s.follower (Instr.srWr sc a) = true ∧
      srPerSlice sc.toNat = true ∧
      srAccess sc.toNat s.g.priv = 2 ∧
      (sc = 6 → s.g.fpBusy = none) ∧
      ((List.map (fun (x : Slice) => x.idx) s.g.slices).Nodup) ∧
      (∀ l ∈ s.g.acts, if sc = 22 then (s.g.read l a).tag = Tag.cap else srRule sc.toNat s.g.sp.status (s.g.words l a) = none)) ∧
    (∃ (i : Instr) (sc : BitVec 6) (x : BitVec 6) (s : State),
      (i = Instr.srRd sc x ∨ i = Instr.srWr sc x) ∧
      s.g.sent = false ∧
      36 ≤ sc.toNat) ∧
    (∃ (i : Instr) (sc : BitVec 6) (x : BitVec 6) (s : State),
      (i = Instr.srRd sc x ∨ i = Instr.srWr sc x) ∧
      s.g.sent = false ∧
      sc.toNat < 36 ∧
      (srAccess sc.toNat s.g.priv < if i = Instr.srRd sc x then 1 else 2)) ∧
    (∃ (sc : BitVec 6) (a : BitVec 6) (s : State) (l : Lane) (rest : List Lane),
      s.clear (Instr.srWr sc a) [a] ∧
      sc.toNat < 36 ∧
      srAccess sc.toNat s.g.priv = 2 ∧
      srPerSlice sc.toNat = false ∧
      s.g.acts = l :: rest ∧
      a.toNat < 56 ∧
      srCap sc.toNat = true ∧
      (s.g.read l a).tag ≠ Tag.cap) ∧
    (∃ (sc : BitVec 6) (a : BitVec 6) (s : State) (l : Lane) (rest : List Lane),
      s.clear (Instr.srWr sc a) [a] ∧
      sc.toNat < 36 ∧
      srAccess sc.toNat s.g.priv = 2 ∧
      srPerSlice sc.toNat = false ∧
      s.g.acts = l :: rest ∧
      a.toNat < 56 ∧
      srCap sc.toNat = false ∧
      srRule sc.toNat s.g.sp.status (s.g.words l a) = some 56) ∧
    (∃ (sc : BitVec 6) (a : BitVec 6) (s : State) (l : Lane) (rest : List Lane),
      s.clear (Instr.srWr sc a) [a] ∧
      sc.toNat < 36 ∧
      srAccess sc.toNat s.g.priv = 2 ∧
      srPerSlice sc.toNat = false ∧
      s.g.acts = l :: rest ∧
      a.toNat < 56 ∧
      srCap sc.toNat = false ∧
      srRule sc.toNat s.g.sp.status (s.g.words l a) = some 1) :=
  ⟨⟨7, 8, strandAt, by decide +kernel⟩,
    ⟨2, 6, (strandAt.atLevel 1).put 6 (num 77), ((strandAt.atLevel 1).put 6 (num 77)).lane0, [], by and_intros <;> decide +kernel⟩,
    ⟨6, 6, strandAt.put 6 (num 3), by decide +kernel⟩,
    ⟨.srRd 40 8, 40, 8, strandAt, by decide +kernel⟩,
    ⟨.srWr 2 8, 2, 8, strandAt, by decide +kernel⟩,
    ⟨21, 6, strandAt.atLevel 2, strandAt.lane0, [], by decide +kernel⟩,
    ⟨0, 6, (strandAt.atLevel 1).put 6 (num 2), (strandAt.put 6 (num 2)).lane0, [], by decide +kernel⟩,
    ⟨12, 6, (strandAt.atLevel 2).put 6 (num 0x10000), (strandAt.put 6 (num 0x10000)).lane0, [], by decide +kernel⟩⟩

theorem witness_HandlersReachTheirCrew :
    (∃ (a : BitVec 6) (d : BitVec 6) (s : Machine.State) (l : Lane) (rest : List Lane) (h : Machine.Group) (n : ℕ) (x : Lane),
      s.clear (Instr.crewPeek a d) [a] ∧
      s.g.acts = l :: rest ∧
      s.select (selector (s.g.words l a)) = Sum.inr (h, n) ∧
      (selector (s.g.words l a)).space = 0 ∧
      x ∈ h.lanes ∧
      (List.find? (fun (y : Lane) => y.no == n) h.lanes = some x) ∧
      (x.reg (BitVec.ofNat 6 (selector (s.g.words l a)).index)).known = true) ∧
    (∃ (a : BitVec 6) (d : BitVec 6) (s : Machine.State) (l : Lane) (rest : List Lane) (h : Machine.Group) (n : ℕ),
      s.clear (Instr.crewPeek a d) [a] ∧
      s.g.acts = l :: rest ∧
      s.select (selector (s.g.words l a)) = Sum.inr (h, n) ∧
      (selector (s.g.words l a)).space = 2) ∧
    (∃ (a : BitVec 6) (d : BitVec 6) (s : Machine.State) (l : Lane) (rest : List Lane) (h : Machine.Group) (n : ℕ),
      s.clear (Instr.crewPeek a d) [a] ∧
      s.g.acts = l :: rest ∧
      s.select (selector (s.g.words l a)) = Sum.inr (h, n) ∧
      (selector (s.g.words l a)).space = 3) ∧
    (∃ (a : BitVec 6) (d : BitVec 6) (s : Machine.State) (l : Lane) (rest : List Lane) (h : Machine.Group) (n : ℕ),
      s.clear (Instr.crewPeek a d) [a] ∧
      s.g.acts = l :: rest ∧
      s.select (selector (s.g.words l a)) = Sum.inr (h, n) ∧
      (selector (s.g.words l a)).space = 4) ∧
    (∃ (a : BitVec 6) (d : BitVec 6) (s : Machine.State) (l : Lane) (rest : List Lane) (h : Machine.Group) (n : ℕ),
      s.clear (Instr.crewPeek a d) [a] ∧
      s.g.acts = l :: rest ∧
      s.select (selector (s.g.words l a)) = Sum.inr (h, n) ∧
      (selector (s.g.words l a)).space = 6) ∧
    (∃ (a : BitVec 6) (b : BitVec 6) (s : Machine.State) (l : Lane) (rest : List Lane) (h : Machine.Group) (n : ℕ),
      s.clear (Instr.crewPoke b a) [a, b] ∧
      s.follower (Instr.crewPoke b a) = true ∧
      s.g.acts = l :: rest ∧
      s.select (selector (s.g.words l a)) = Sum.inr (h, n) ∧
      (selector (s.g.words l a)).space = 0 ∧
      h.isStopped = true ∧
      h.gid ≠ s.g.gid ∧
      s.group h.gid = some h ∧
      (∀ (r : SymRec), (h.program n (selector (s.g.words l a)).index).record = some r → r.bound = none)) ∧
    (∃ (a : BitVec 6) (b : BitVec 6) (s : Machine.State) (l : Lane) (rest : List Lane) (h : Machine.Group) (n : ℕ) (p : Bool) (w : Option Wait),
      s.clear (Instr.crewResume b a) [a, b] ∧
      s.follower (Instr.crewResume b a) = true ∧
      s.g.acts = l :: rest ∧
      s.select (selector (s.g.words l a)) = Sum.inr (h, n) ∧
      h.gid ≠ s.g.gid ∧
      s.group h.gid = some h ∧
      h.run = Run.stopped p w ∧
      (s.g.words l b = 0 ∨ s.g.words l b = 2)) ∧
    (∃ (a : BitVec 6) (b : BitVec 6) (s : Machine.State) (l : Lane) (rest : List Lane) (h : Machine.Group) (n : ℕ),
      s.clear (Instr.crewResume b a) [a, b] ∧
      s.follower (Instr.crewResume b a) = true ∧
      s.g.acts = l :: rest ∧
      s.select (selector (s.g.words l a)) = Sum.inr (h, n) ∧
      h.gid ≠ s.g.gid ∧
      s.group h.gid = some h ∧
      h.isStopped = false ∧
      s.g.words l b = 1 ∧
      (selector (s.g.words l a)).member ≠ 63) ∧
    (∃ (a : BitVec 6) (b : BitVec 6) (s : Machine.State) (l : Lane) (rest : List Lane) (h : Machine.Group) (n : ℕ),
      s.clear (Instr.crewResume b a) [a, b] ∧
      s.follower (Instr.crewResume b a) = true ∧
      s.g.acts = l :: rest ∧
      s.select (selector (s.g.words l a)) = Sum.inr (h, n) ∧
      h.gid ≠ s.g.gid ∧
      s.group h.gid = some h ∧
      2 < BitVec.toNat (s.g.words l b)) ∧
    (∃ (a : BitVec 6) (s : Machine.State) (l : Lane) (rest : List Lane),
      s.clear (Instr.crewKill a) [a] ∧
      s.follower (Instr.crewKill a) = true ∧
      s.g.acts = l :: rest ∧
      s.g.gid ≠ 0 ∧
      s.g.run = Run.ready ∧
      (s.g.priv = 1 → (if (BitVec.extractLsb' 0 32 (s.g.words l a)).toNat = 0 then s.g.sp.crew else (BitVec.extractLsb' 0 32 (s.g.words l a)).toNat) = s.g.sp.crew) ∧
      (∃ c ∈ s.crews, (c.id = if (BitVec.extractLsb' 0 32 (s.g.words l a)).toNat = 0 then s.g.sp.crew else (BitVec.extractLsb' 0 32 (s.g.words l a)).toNat) ∧ c.core = s.g.core ∧ c.saved = false)) ∧
    (∃ (a : BitVec 6) (s : Machine.State) (l : Lane) (rest : List Lane),
      s.clear (Instr.crewKill a) [a] ∧
      s.g.acts = l :: rest ∧
      s.g.priv = 1 ∧
      (BitVec.extractLsb' 0 32 (s.g.words l a)).toNat ≠ 0 ∧
      (BitVec.extractLsb' 0 32 (s.g.words l a)).toNat ≠ s.g.sp.crew) :=
  ⟨⟨6, 8, handler.put 6 (num 5242912), (handler.put 6 (num 5242912)).lane0, [], stoppedMate, 0, stoppedMate.lanes.headD (startLane 0 []), by decide +kernel⟩,
    ⟨6, 8, handler.put 6 (num 1179680), (handler.put 6 (num 1179680)).lane0, [], stoppedMate, 0, by decide +kernel⟩,
    ⟨6, 8, handler.put 6 (num 2293792), (handler.put 6 (num 2293792)).lane0, [], stoppedMate, 0, by decide +kernel⟩,
    ⟨6, 8, handler.put 6 (num 3407904), (handler.put 6 (num 3407904)).lane0, [], stoppedMate, 0, by decide +kernel⟩,
    ⟨6, 8, handler.put 6 (num 393248), (handler.put 6 (num 393248)).lane0, [], stoppedMate, 0, by decide +kernel⟩,
    ⟨6, 7, (handler.put 6 (num 5242912)).put 7 (num 99), ((handler.put 6 (num 5242912)).put 7 (num 99)).lane0, [], stoppedMate, 0, by and_intros <;> decide +kernel⟩,
    ⟨6, 7, ((handler : State).put 6 (num 32)).put 7 (num 2), (((handler : State).put 6 (num 32)).put 7 (num 2)).lane0, [], stoppedMate, 0, false, none, by decide +kernel⟩,
    ⟨6, 7, (({ handler with groups := [{ stoppedMate with run := .ready }] } : State).put 6 (num 32)).put 7 (num 1), ((({ handler with groups := [{ stoppedMate with run := .ready }] } : State).put 6 (num 32)).put 7 (num 1)).lane0, [], { stoppedMate with run := .ready }, 0, by and_intros <;> decide +kernel⟩,
    ⟨6, 7, ((handler : State).put 6 (num 32)).put 7 (num 3), (((handler : State).put 6 (num 32)).put 7 (num 3)).lane0, [], stoppedMate, 0, by decide +kernel⟩,
    ⟨6, { crewed.atLevel 1 with groups := [mate] }, crewed.lane0, [], by decide +kernel⟩,
    ⟨6, (crewed.atLevel 1).put 6 (num 9), (crewed.put 6 (num 9)).lane0, [], by decide +kernel⟩⟩

theorem witness_TranslationsBreakpointsAndHalt :
    (∃ (a : BitVec 6) (b : BitVec 6) (s : Machine.State) (l : Lane) (rest : List Lane),
      s.clear (Instr.tlbInval b a) [a, b] ∧
      s.follower (Instr.tlbInval b a) = true ∧
      s.g.acts = l :: rest ∧
      (BitVec.extractLsb' 0 2 (s.g.words l b)).toNat < 3 ∧
      (BitVec.extractLsb' 2 2 (s.g.words l b)).toNat < 3 ∧
      BitVec.extractLsb' 4 12 (s.g.words l b) = 0 ∧
      BitVec.extractLsb' 32 32 (s.g.words l b) = 0 ∧
      s.quiet false = false) ∧
    (∃ (a : BitVec 6) (b : BitVec 6) (s : Machine.State) (l : Lane) (rest : List Lane),
      s.clear (Instr.tlbInval b a) [a, b] ∧
      s.follower (Instr.tlbInval b a) = true ∧
      s.g.acts = l :: rest ∧
      (BitVec.extractLsb' 0 2 (s.g.words l b)).toNat < 3 ∧
      (BitVec.extractLsb' 2 2 (s.g.words l b)).toNat < 3 ∧
      BitVec.extractLsb' 4 12 (s.g.words l b) = 0 ∧
      BitVec.extractLsb' 32 32 (s.g.words l b) = 0 ∧
      s.quiet false = true) ∧
    (∃ (s : Machine.State),
      s.reaches Instr.brk [] ∧
      s.follower Instr.brk = true) ∧
    (∃ (s : Machine.State),
      s.clear Instr.halt [] ∧
      s.follower Instr.halt = true ∧
      s.g.switchStep = 0 ∧
      s.g.priv = 2) ∧
    (∃ (s : Machine.State),
      s.clear Instr.halt [] ∧
      s.follower Instr.halt = true ∧
      s.g.switchStep = 0 ∧
      s.g.priv = 1 ∧
      (s.settled (List.map (fun (x : Lane) => x.no) s.g.acts) = false)) ∧
    (∃ (s : Machine.State),
      s.clear Instr.halt [] ∧
      s.follower Instr.halt = true ∧
      s.g.switchStep = 0 ∧
      s.g.priv = 1 ∧
      (s.settled (List.map (fun (x : Lane) => x.no) s.g.acts) = true) ∧
      ((s.endLanes (List.map (fun (x : Lane) => x.no) s.g.acts) []).g.gid ≠ s.g.gid)) ∧
    (∃ (s : Machine.State),
      s.g.sent = true ∧
      s.unstepped ∧
      s.g.held = [] ∧
      s.g.answers = []) ∧
    (∃ (s : Machine.State),
      s.g.sent = true ∧
      s.unstepped ∧
      s.g.held = [] ∧
      s.g.answers ≠ []) :=
  ⟨⟨6, 7, translated.posting, translated.lane0, [], by decide +kernel⟩,
    ⟨6, 7, translated, translated.lane0, [], by decide +kernel⟩,
    ⟨crewed, by decide +kernel⟩,
    ⟨crewed.atLevel 2, by decide +kernel⟩,
    ⟨(crewed.atLevel 1).grp fun g => { g with pend := [⟨1003, false, 5, false, [(0, num 1)], [], [], false, false⟩] }, by decide +kernel⟩,
    ⟨crewed.atLevel 1, by decide +kernel⟩,
    ⟨(crewed.atLevel 2).grp fun g => { g with sent := true, run := .waiting .systemEvent 900 }, by decide +kernel⟩,
    ⟨(crewed.atLevel 2).grp fun g => { g with sent := true, run := .waiting .systemEvent 900, answers := [(0, .ok Val.zero)] }, by decide +kernel⟩⟩

theorem witness_TheMooringParksLaunchesAndReturns :
    (∃ (a : BitVec 6) (b : BitVec 6) (s : Machine.State) (l : Lane) (rest : List Lane) (n : ℕ),
      s.clear (Instr.gcall b a) [a, b] ∧
      s.follower (Instr.gcall b a) = true ∧
      s.quiet false = true ∧
      s.g.acts = l :: rest ∧
      BitVec.toNat (s.g.words l b) = n ∧
      1 ≤ n ∧
      n ≤ 8 ∧
      s.g.argsTrap l n = none ∧
      (s.g.read l a).tag = Tag.cap ∧
      capHas (s.g.read l a).bits Perm.x = true ∧
      capHas (s.g.read l a).bits Perm.g = true ∧
      capWalk (s.g.read l a).bits = 0 ∧
      (capCursor (s.g.read l a).bits).getLsbD 0 = false ∧
      s.g.held = [] ∧
      (∀ e ∈ s.filling (quadOf s.g.core) s.g.sp.asid (s.g.read l a), e.n = n) ∧
      (∃ e ∈ s.filling (quadOf s.g.core) s.g.sp.asid (s.g.read l a), e.callers.length < 32)) ∧
    (∃ (a : BitVec 6) (b : BitVec 6) (s : Machine.State) (l : Lane) (rest : List Lane) (n : ℕ),
      s.clear (Instr.gcall b a) [a, b] ∧
      s.follower (Instr.gcall b a) = true ∧
      s.quiet false = true ∧
      s.g.acts = l :: rest ∧
      BitVec.toNat (s.g.words l b) = n ∧
      1 ≤ n ∧
      n ≤ 8 ∧
      s.g.argsTrap l n = none ∧
      (s.g.read l a).tag = Tag.cap ∧
      capHas (s.g.read l a).bits Perm.x = true ∧
      capHas (s.g.read l a).bits Perm.g = true ∧
      capWalk (s.g.read l a).bits = 0 ∧
      (capCursor (s.g.read l a).bits).getLsbD 0 = false ∧
      s.g.held = [] ∧
      (∀ e ∈ s.filling (quadOf s.g.core) s.g.sp.asid (s.g.read l a), e.n = n ∧ 32 ≤ e.callers.length) ∧
      (∃ i < 16, ∀ e ∈ s.moor, e.quad = quadOf s.g.core → e.idx ≠ i) ∧
      (∀ p ∈ (List.filter (fun (p : ℕ × ℕ) => p.1 == quadOf s.g.core) s.stalls).head?, p.2 = s.g.gid)) ∧
    (∃ (a : BitVec 6) (b : BitVec 6) (s : Machine.State) (l : Lane) (rest : List Lane) (n : ℕ),
      s.clear (Instr.gcall b a) [a, b] ∧
      s.follower (Instr.gcall b a) = true ∧
      s.quiet false = true ∧
      s.g.acts = l :: rest ∧
      BitVec.toNat (s.g.words l b) = n ∧
      1 ≤ n ∧
      n ≤ 8 ∧
      s.g.argsTrap l n = none ∧
      (s.g.read l a).tag = Tag.cap ∧
      capHas (s.g.read l a).bits Perm.x = true ∧
      capHas (s.g.read l a).bits Perm.g = true ∧
      capWalk (s.g.read l a).bits = 0 ∧
      (capCursor (s.g.read l a).bits).getLsbD 0 = false ∧
      s.g.held = [] ∧
      (∀ e ∈ s.filling (quadOf s.g.core) s.g.sp.asid (s.g.read l a), e.n = n ∧ 32 ≤ e.callers.length) ∧
      ((∀ i < 16, ∃ e ∈ s.moor, e.quad = quadOf s.g.core ∧ e.idx = i) ∨ ∃ p ∈ (List.filter (fun (p : ℕ × ℕ) => p.1 == quadOf s.g.core) s.stalls).head?, p.2 ≠ s.g.gid)) ∧
    (∃ (a : BitVec 6) (b : BitVec 6) (s : Machine.State) (l : Lane) (rest : List Lane) (n : ℕ) (e : MoorEntry) (es : List MoorEntry),
      s.clear (Instr.gcall b a) [a, b] ∧
      s.follower (Instr.gcall b a) = true ∧
      s.quiet false = true ∧
      s.g.acts = l :: rest ∧
      BitVec.toNat (s.g.words l b) = n ∧
      1 ≤ n ∧
      n ≤ 8 ∧
      s.g.argsTrap l n = none ∧
      (s.g.read l a).tag = Tag.cap ∧
      capHas (s.g.read l a).bits Perm.x = true ∧
      capHas (s.g.read l a).bits Perm.g = true ∧
      capWalk (s.g.read l a).bits = 0 ∧
      (capCursor (s.g.read l a).bits).getLsbD 0 = false ∧
      s.g.held = [] ∧
      s.filling (quadOf s.g.core) s.g.sp.asid (s.g.read l a) = e :: es ∧
      e.n ≠ n) ∧
    (∃ (a : BitVec 6) (s : Machine.State) (c : Crew) (r : CallerRef) (v : List Val),
      s.clear (Instr.gret a) [a] ∧
      s.follower (Instr.gret a) = true ∧
      s.quiet false = true ∧
      s.g.mooring = true ∧
      (∀ l ∈ s.g.acts, gretStop s.g a l = none) ∧
      (s.settled (List.map (fun (x : Lane) => x.no) s.g.acts) = true) ∧
      s.crew s.g.sp.crew = some c ∧
      ((s.endLanes (List.map (fun (x : Lane) => x.no) s.g.acts) (List.map (fun (l : Lane) => (l.no, List.map (fun (j : ℕ) => s.g.read l (BitVec.ofNat 6 j)) (upFrom 1 (BitVec.toNat (s.g.words l a))))) s.g.acts)).g.gid ≠ s.g.gid) ∧
      r ∈ c.callers ∧
      (List.lookup r.lane (List.map (fun (l : Lane) => (l.no, List.map (fun (j : ℕ) => s.g.read l (BitVec.ofNat 6 j)) (upFrom 1 (BitVec.toNat (s.g.words l a))))) s.g.acts) = some v)) ∧
    (∃ (a : BitVec 6) (s : Machine.State) (l : Lane) (rest : List Lane),
      s.clear (Instr.gflush a) [a] ∧
      s.follower (Instr.gflush a) = true ∧
      s.g.acts = l :: rest) ∧
    (∃ (s : Machine.State) (e : MoorEntry),
      e ∈ s.moor ∧
      e.state = MoorState.filling ∧
      (e.opened + e.mtime ≤ s.clk ∨ e.mthr ≤ e.callers.length ∨ 32 ≤ e.callers.length ∨ e.flushed = true) ∧
      (∀ x ∈ s.moor, x.quad = e.quad → x.idx = e.idx → x = e)) ∧
    (∃ (s : Machine.State) (e : MoorEntry) (c : CrewSpec) (core : ℕ) (f : Fit),
      (List.find? (fun (x : MoorEntry) => x.quad == e.quad && x.idx == e.idx) s.moor = some e) ∧
      e.state = MoorState.placing ∧
      (∀ t ∈ s.tenders, t.who ≠ Placing.gang e.quad e.idx) ∧
      (∀ q ∈ s.queues, q.who ≠ Placing.gang e.quad e.idx) ∧
      s.specOf (Placing.gang e.quad e.idx) = some c ∧
      s.firstFit c 1 [e.quad * 4 + 2, e.quad * 4 + 3] = some (core, f)) ∧
    (∃ (s : Machine.State) (e : MoorEntry) (c : CrewSpec),
      (List.find? (fun (x : MoorEntry) => x.quad == e.quad && x.idx == e.idx) s.moor = some e) ∧
      e.state = MoorState.placing ∧
      (∀ t ∈ s.tenders, t.who ≠ Placing.gang e.quad e.idx) ∧
      (∀ q ∈ s.queues, q.who ≠ Placing.gang e.quad e.idx) ∧
      s.specOf (Placing.gang e.quad e.idx) = some c ∧
      s.firstFit c 1 [e.quad * 4 + 2, e.quad * 4 + 3] = none) ∧
    (∃ (s : Machine.State) (e : MoorEntry) (h : Machine.Group),
      (List.find? (fun (x : MoorEntry) => x.quad == e.quad && x.idx == e.idx && x.state == MoorState.loading) s.moor = some e) ∧
      s.group e.gang = some h ∧
      h.run = Run.parked) ∧
    (∃ (s : Machine.State) (n : ℕ) (r : GangRet) (h : Machine.Group),
      s.returns[n]? = some r ∧
      s.group r.caller = some h ∧
      h.run = Run.parked ∧
      r.vals.length ≤ 4 ∧
      ((List.map (fun (x : Machine.Group) => x.gid) s.groups).Nodup) ∧
      (∀ o ∈ s.groups, o.gid ≠ s.g.gid) ∧
      (statusSStep h.sp.status = false ∨ h.priv ≠ 0)) :=
  ⟨⟨6, 7, calling.withMoor [entry0], (calling.withMoor [entry0]).lane0, [], 2, by and_intros <;> decide +kernel⟩,
    ⟨6, 7, calling, (calling).lane0, [], 2, by and_intros <;> decide +kernel⟩,
    ⟨6, 7, calling.withMoor ((upFrom 0 16).map fun i => { entry0 with idx := i, state := .queued }), (calling.withMoor ((upFrom 0 16).map fun i => { entry0 with idx := i, state := .queued })).lane0, [], 2, by and_intros <;> decide +kernel⟩,
    ⟨6, 7, calling.withMoor [{ entry0 with n := 3 }], (calling.withMoor [{ entry0 with n := 3 }]).lane0, [], 2, { entry0 with n := 3 }, [], by and_intros <;> decide +kernel⟩,
    ⟨6, ((called.put 6 (num 1)).put 1 (num 77)), ((called.put 6 (num 1)).put 1 (num 77)).crews.getLastD crew0, ⟨1, 9, 0, 0⟩, ((((called.put 6 (num 1)).put 1 (num 77)).g.acts.map fun l => (l.no, (upFrom 1 (((called.put 6 (num 1)).put 1 (num 77)).g.words l 6).toNat).map fun j => ((called.put 6 (num 1)).put 1 (num 77)).g.read l (BitVec.ofNat 6 j))).lookup 1).getD [], by and_intros <;> decide +kernel⟩,
    ⟨6, calling, calling.lane0, [], by decide +kernel⟩,
    ⟨calling.withMoor [{ entry0 with flushed := true }], { entry0 with flushed := true }, by decide +kernel⟩,
    ⟨(calling.withMoor [placing0]).inCtx, placing0, ((calling.withMoor [placing0]).inCtx).specAt (.gang 0 0), 2, ((calling.withMoor [placing0]).inCtx).fitAt (.gang 0 0) [2, 3], by decide +kernel, by decide +kernel, by decide +kernel, by decide +kernel, rfl, by decide +kernel⟩,
    ⟨(calling.withMoor [placing0]).inCtx.stopG, placing0, ((calling.withMoor [placing0]).inCtx.stopG).specAt (.gang 0 0), by decide +kernel, by decide +kernel, by decide +kernel, by decide +kernel, rfl, by decide +kernel⟩,
    ⟨{ calling.withMoor [{ entry0 with state := .loading, gang := 2 }] with groups := [{ mate with run := .parked }] }, { entry0 with state := .loading, gang := 2 }, { mate with run := .parked }, by decide +kernel⟩,
    ⟨{ calling with groups := [{ mate with run := .parked }], returns := [⟨2, 9, [num 5, num 6], 0, 0⟩] }, 0, ⟨2, 9, [num 5, num 6], 0, 0⟩, { mate with run := .parked }, by decide +kernel⟩⟩

theorem witness_MessagesAreSentQueuedAndReceived :
    (∃ (i : Instr) (a : BitVec 6) (b : BitVec 6) (u : Bool) (r : Bool) (s : Machine.State) (l : Lane) (p : Place),
      (i = if r = true then Instr.sendR b a u else Instr.send b a u) ∧
      s.clear i (srcs i) ∧
      s.follower i = true ∧
      s.g.unwatched ∧
      (s.g.priv = 0 → s.g.sp.done = 0) ∧
      s.g.acts = [l] ∧
      checkAccess s s.g (s.g.read l a) a (↑(index (s.g.read l a))) 1 1 [Perm.w] { r := false, w := false, x := false, a := false, cap := false } = Chk.ok p ∧
      (BitVec.toNat s.g.sp.mwb ≤ spreadInt (capWalk (s.g.read l a).bits) ↑(index (s.g.read l a)) ∧ spreadInt (capWalk (s.g.read l a).bits) ↑(index (s.g.read l a)) < BitVec.toNat s.g.sp.mwb + 2 ^ 32) ∧
      (r = true → x6Bad s.g.x[6] = false)) ∧
    (∃ (i : Instr) (a : BitVec 6) (b : BitVec 6) (u : Bool) (r : Bool) (s : Machine.State) (l : Lane) (v : Val),
      (i = if r = true then Instr.sendR b a u else Instr.send b a u) ∧
      s.g.sent = true ∧
      s.g.held = [] ∧
      s.unstepped ∧
      (s.g.priv = 0 → s.g.sp.done = 0) ∧
      s.g.acts = [l] ∧
      List.lookup l.no s.g.answers = some (Answer.ok v)) ∧
    (∃ (i : Instr) (a : BitVec 6) (b : BitVec 6) (u : Bool) (r : Bool) (s : Machine.State) (l : Lane) (c : ℕ) (w : Word),
      (i = if r = true then Instr.sendR b a u else Instr.send b a u) ∧
      s.g.sent = true ∧
      s.g.held = [] ∧
      s.unstepped ∧
      (s.g.priv = 0 → s.g.sp.done = 0) ∧
      s.g.acts = [l] ∧
      List.lookup l.no s.g.answers = some (Answer.fail c w)) ∧
    (∃ (i : Instr) (a : BitVec 6) (b : BitVec 6) (u : Bool) (r : Bool) (s : Machine.State) (l : Lane),
      (i = if r = true then Instr.sendR b a u else Instr.send b a u) ∧
      s.g.sent = true ∧
      s.g.held = [] ∧
      s.unstepped ∧
      (s.g.priv = 0 → s.g.sp.done = 0) ∧
      s.g.acts = [l] ∧
      List.lookup l.no s.g.answers = none) ∧
    (∃ (a : BitVec 6) (d : BitVec 6) (u : Bool) (s : Machine.State) (l : Lane) (m : Msg) (q : List Msg),
      s.clear (Instr.recv a d u) [a] ∧
      s.follower (Instr.recv a d u) = true ∧
      s.g.acts = [l] ∧
      d ≠ 0 ∧
      d.toNat < 56 ∧
      s.g.banked d = false ∧
      takeMsg s.g.sp.crew (BitVec.extractLsb' 0 16 (s.g.read l a).bits) (s.core s.g.core).queue = some (m, q)) ∧
    (∃ (a : BitVec 6) (d : BitVec 6) (u : Bool) (s : Machine.State) (l : Lane) (id : BitVec 6),
      s.clear (Instr.recv a d u) [a] ∧
      s.follower (Instr.recv a d u) = true ∧
      s.g.acts = [l] ∧
      d ≠ 0 ∧
      d.toNat < 56 ∧
      s.g.banked d = false ∧
      takeMsg s.g.sp.crew (BitVec.extractLsb' 0 16 (s.g.read l a).bits) (s.core s.g.core).queue = none ∧
      s.freshId (l.no / 4) = some id) ∧
    (∃ (a : BitVec 6) (d : BitVec 6) (u : Bool) (s : Machine.State),
      s.clear (Instr.poll a d u) [a]) ∧
    (∃ (s : Machine.State) (n : ℕ) (m : Msg),
      s.mail[n]? = some m ∧
      (∀ x ∈ List.take n s.mail, x.core = m.core → x.src ≠ m.src ∧ (x.sender = m.sender → x.since ≠ m.since)) ∧
      ((s.core m.core).fenced = true ∨ s.pkg.deadDies.getLsbD (m.core / 1024) = true ∨ m.cutOff s = true ∨ s.crewAt m.core m.off = none)) ∧
    (∃ (s : Machine.State) (n : ℕ) (m : Msg) (c : Crew),
      s.mail[n]? = some m ∧
      (∀ x ∈ List.take n s.mail, x.core = m.core → x.src ≠ m.src ∧ (x.sender = m.sender → x.since ≠ m.since)) ∧
      (s.core m.core).fenced = false ∧
      s.pkg.deadDies.getLsbD (m.core / 1024) = false ∧
      m.cutOff s = false ∧
      s.crewAt m.core m.off = some c ∧
      c.inAreas = false ∧
      (∀ x ∈ c.spilled, x.src ≠ m.src) ∧
      m.reg = none ∧
      (s.core m.core).queue.length < 16 ∧
      (List.find? (fun (r : Recv) => r.crew == c.id && r.tag == m.tag) s.recvs = none)) ∧
    (∃ (s : Machine.State) (n : ℕ) (m : Msg) (c : Crew) (r : Recv),
      s.mail[n]? = some m ∧
      (∀ x ∈ List.take n s.mail, x.core = m.core → x.src ≠ m.src ∧ (x.sender = m.sender → x.since ≠ m.since)) ∧
      (s.core m.core).fenced = false ∧
      s.pkg.deadDies.getLsbD (m.core / 1024) = false ∧
      m.cutOff s = false ∧
      s.crewAt m.core m.off = some c ∧
      c.inAreas = false ∧
      (∀ x ∈ c.spilled, x.src ≠ m.src) ∧
      m.reg = none ∧
      (s.core m.core).queue.length < 16 ∧
      (List.find? (fun (r : Recv) => r.crew == c.id && r.tag == m.tag) s.recvs = some r)) ∧
    (∃ (s : Machine.State) (n : ℕ) (m : Msg) (c : Crew),
      s.mail[n]? = some m ∧
      (∀ x ∈ List.take n s.mail, x.core = m.core → x.src ≠ m.src ∧ (x.sender = m.sender → x.since ≠ m.since)) ∧
      (s.core m.core).fenced = false ∧
      s.pkg.deadDies.getLsbD (m.core / 1024) = false ∧
      m.cutOff s = false ∧
      s.crewAt m.core m.off = some c ∧
      c.inAreas = false ∧
      (∀ x ∈ c.spilled, x.src ≠ m.src) ∧
      m.reg = none ∧
      16 ≤ (s.core m.core).queue.length ∧
      m.since + 64 ≤ s.clk ∧
      s.crew c.id = some c ∧
      c.spilled.length < c.spillBytes / 32) ∧
    (∃ (s : Machine.State) (c : Crew) (m : Msg) (q : List Msg),
      s.crew c.id = some c ∧
      c.spilled = m :: q ∧
      c.inAreas = false ∧
      (s.core c.core).queue.length < 16 ∧
      (m.reg.isSome = true ∨ ∀ r ∈ s.recvs, r.crew = m.crew → r.tag ≠ (s.headRecord c m).tag)) ∧
    (∃ (s : Machine.State) (core : ℕ) (m : Msg) (q : List Msg) (reg : ℕ) (ctx : ℕ) (lane : ℕ) (gid : ℕ) (no : ℕ) (h : Machine.Group),
      (s.core core).queue = m :: q ∧
      m.reg = some (reg, ctx, lane) ∧
      s.target m.crew ctx lane = some (gid, no) ∧
      s.group gid = some h ∧
      1 ≤ reg ∧
      reg < 56 ∧
      (∀ r ∈ s.recvs, ¬(r.gang = h.gang ∧ r.dst = BitVec.ofNat 6 reg ∧ no ∈ r.lanes)) ∧
      (48 ≤ reg → h.streams.toList.getD (reg - 48) none = none)) :=
  ⟨⟨.send 6 5 false, 5, 6, false, false, sending, sending.lane0, sending.placeAt 5 (sending.at0 5) 1 1 [.w] ⟨false, false, false, false, false⟩, by and_intros <;> decide +kernel⟩,
    ⟨.send 6 5 false, 5, 6, false, false, (sending.grp fun g => { g with sent := true, answers := [(0, .ok (num 0))] }), (sending.grp fun g => { g with sent := true, answers := [(0, .ok (num 0))] }).lane0, num 0, by decide +kernel⟩,
    ⟨.send 6 5 false, 5, 6, false, false, (sending.grp fun g => { g with sent := true, answers := [(0, .fail 9 5)] }), (sending.grp fun g => { g with sent := true, answers := [(0, .fail 9 5)] }).lane0, 9, 5, by decide +kernel⟩,
    ⟨.send 6 5 false, 5, 6, false, false, (sending.grp fun g => { g with sent := true, answers := [] }), (sending.grp fun g => { g with sent := true, answers := [] }).lane0, by decide +kernel⟩,
    ⟨6, 8, false, ((crewed.put 6 (num 9)).queued [{ mail0 with crew := 1 }]), ((crewed.put 6 (num 9)).queued [{ mail0 with crew := 1 }]).lane0, { mail0 with crew := 1 }, [], by decide +kernel⟩,
    ⟨6, 8, false, (crewed.put 6 (num 9)), (crewed.put 6 (num 9)).lane0, ((crewed.put 6 (num 9)).freshId 0).get!, by decide +kernel⟩,
    ⟨6, 8, false, ((crewed.put 6 (num 9)).queued [{ mail0 with crew := 1 }]), by decide +kernel⟩,
    ⟨strandAt.mailed [mail0], 0, mail0, by decide +kernel⟩,
    ⟨crewed.mailed [mail0], 0, mail0, crew0, by and_intros <;> decide +kernel⟩,
    ⟨{ crewed.mailed [mail0] with recvs := [recv0] }, 0, mail0, crew0, recv0, by and_intros <;> decide +kernel⟩,
    ⟨((crewed.mailed [mail0]).queued (List.replicate 16 { mail0 with crew := 1, tag := 3 })), 0, mail0, crew0, by and_intros <;> decide +kernel⟩,
    ⟨{ crewed with crews := [{ crew0 with spilled := [{ mail0 with crew := 1 }] }] }, { crew0 with spilled := [{ mail0 with crew := 1 }] }, { mail0 with crew := 1 }, [], by decide +kernel⟩,
    ⟨{ mated.queued [{ toReg with crew := 1 }] with g := mate, groups := [crewed.g] }, 0, { toReg with crew := 1 }, [], 8, 0, 0, 1, 0, crewed.g, by decide +kernel⟩⟩

theorem witness_TheArrayPerformsItsOrder :
    (∃ (i : Instr) (kind : ArrayKind) (b : BitVec 6) (s : Machine.State) (l : Lane) (rest : List Lane) (ps : List XPage),
      (i, kind) ∈ [(Instr.mma b, ArrayKind.mma false false), (Instr.mmaPair b, ArrayKind.mma true false), (Instr.mmaPack b, ArrayKind.mma false true)] ∧
      s.clear i [] ∧
      s.follower i = true ∧
      b.toNat < 16 ∧
      descBad kind s.g.x7 (fmtET s.g.leadFmt).toNat = false ∧
      (s.array s.g.core).nFenced < 3 ∧
      s.g.acts = l :: rest ∧
      (i = Instr.mmaPair b → s.g.core % 4 ≠ 3 ∧ ∀ c ∈ s.crews, c.core = followerOf s.g.core → c.matrix = true → c.saved = false → c.task = s.g.sp.task) ∧
      (∀ c ∈ List.map (fun (p : ℕ × List (ℕ × ℕ) × Option ℕ × ℕ) => BitVec.ofNat 6 p.1) (mmaOperands s.g.x7), (s.g.read l c).tag = Tag.cap) ∧
      mmaTrap s.g l s.g.x7 = none ∧
      (s.captureAll s.g needR     (List.map       (fun (x : ℕ × List (ℕ × ℕ) × Option ℕ × ℕ) =>         match x with         | (c, rs, k, snd) => (k, capRuns (s.g.read l (BitVec.ofNat 6 c)) 0 (runsEnd rs)))       (mmaOperands s.g.x7)) =   Sum.inl ps) ∧
      (s.array s.g.core).waiting < 4) ∧
    (∃ (i : Instr) (kind : ArrayKind) (b : BitVec 6) (s : Machine.State) (l : Lane) (rest : List Lane) (ps : List XPage),
      (i, kind) ∈ [(Instr.mma b, ArrayKind.mma false false), (Instr.mmaPair b, ArrayKind.mma true false), (Instr.mmaPack b, ArrayKind.mma false true)] ∧
      s.clear i [] ∧
      s.follower i = true ∧
      b.toNat < 16 ∧
      descBad kind s.g.x7 (fmtET s.g.leadFmt).toNat = false ∧
      (s.array s.g.core).nFenced < 3 ∧
      s.g.acts = l :: rest ∧
      (i = Instr.mmaPair b → s.g.core % 4 ≠ 3 ∧ ∀ c ∈ s.crews, c.core = followerOf s.g.core → c.matrix = true → c.saved = false → c.task = s.g.sp.task) ∧
      (∀ c ∈ List.map (fun (p : ℕ × List (ℕ × ℕ) × Option ℕ × ℕ) => BitVec.ofNat 6 p.1) (mmaOperands s.g.x7), (s.g.read l c).tag = Tag.cap) ∧
      mmaTrap s.g l s.g.x7 = none ∧
      (s.captureAll s.g needR     (List.map       (fun (x : ℕ × List (ℕ × ℕ) × Option ℕ × ℕ) =>         match x with         | (c, rs, k, snd) => (k, capRuns (s.g.read l (BitVec.ofNat 6 c)) 0 (runsEnd rs)))       (mmaOperands s.g.x7)) =   Sum.inl ps) ∧
      4 ≤ (s.array s.g.core).waiting) ∧
    (∃ (b : BitVec 6) (s : Machine.State) (l : Lane) (rest : List Lane),
      s.clear (Instr.accZero b) [] ∧
      s.follower (Instr.accZero b) = true ∧
      b.toNat < 16 ∧
      s.g.acts = l :: rest) ∧
    (∃ (i : Instr) (kind : ArrayKind) (b : BitVec 6) (n : BitVec 6) (s : Machine.State) (l : Lane) (rest : List Lane) (ps : List XPage),
      (i, kind) ∈ [(Instr.accLd b n, ArrayKind.ld), (Instr.accSt b n, ArrayKind.st), (Instr.accOut b n, ArrayKind.out)] ∧
      s.clear i (srcs i) ∧
      s.follower i = true ∧
      n.toNat < 16 ∧
      s.g.acts = l :: rest ∧
      (i = Instr.accOut b n → outBad s.g.x7 s.g.leadFmt = false) ∧
      (∀ c ∈ List.map (fun (p : ℕ × List (ℕ × ℕ) × ℕ) => BitVec.ofNat 6 p.1) (storeSpans kind b.toNat s.g.x7 (s.g.fmt l.no)), (s.g.read l c).tag = Tag.cap) ∧
      (s.formPages l (if i = Instr.accLd b n then Perm.r else Perm.w) (if i = Instr.accLd b n then needR else needW) (storeSpans kind b.toNat s.g.x7 (s.g.fmt l.no)) = Sum.inl ps) ∧
      i = Instr.accLd b n) ∧
    (∃ (i : Instr) (kind : ArrayKind) (b : BitVec 6) (n : BitVec 6) (s : Machine.State) (l : Lane) (rest : List Lane) (ps : List XPage) (e : ℕ),
      (i, kind) ∈ [(Instr.accLd b n, ArrayKind.ld), (Instr.accSt b n, ArrayKind.st), (Instr.accOut b n, ArrayKind.out)] ∧
      s.clear i (srcs i) ∧
      s.follower i = true ∧
      n.toNat < 16 ∧
      s.g.acts = l :: rest ∧
      (i = Instr.accOut b n → outBad s.g.x7 s.g.leadFmt = false) ∧
      (∀ c ∈ List.map (fun (p : ℕ × List (ℕ × ℕ) × ℕ) => BitVec.ofNat 6 p.1) (storeSpans kind b.toNat s.g.x7 (s.g.fmt l.no)), (s.g.read l c).tag = Tag.cap) ∧
      (s.formPages l (if i = Instr.accLd b n then Perm.r else Perm.w) (if i = Instr.accLd b n then needR else needW) (storeSpans kind b.toNat s.g.x7 (s.g.fmt l.no)) = Sum.inl ps) ∧
      i ≠ Instr.accLd b n ∧
      (s.core s.g.core).freeEntry = some e) ∧
    (∃ (i : Instr) (kind : ArrayKind) (b : BitVec 6) (n : BitVec 6) (s : Machine.State) (l : Lane) (rest : List Lane) (ps : List XPage),
      (i, kind) ∈ [(Instr.accLd b n, ArrayKind.ld), (Instr.accSt b n, ArrayKind.st), (Instr.accOut b n, ArrayKind.out)] ∧
      s.clear i (srcs i) ∧
      s.follower i = true ∧
      n.toNat < 16 ∧
      s.g.acts = l :: rest ∧
      (i = Instr.accOut b n → outBad s.g.x7 s.g.leadFmt = false) ∧
      (∀ c ∈ List.map (fun (p : ℕ × List (ℕ × ℕ) × ℕ) => BitVec.ofNat 6 p.1) (storeSpans kind b.toNat s.g.x7 (s.g.fmt l.no)), (s.g.read l c).tag = Tag.cap) ∧
      (s.formPages l (if i = Instr.accLd b n then Perm.r else Perm.w) (if i = Instr.accLd b n then needR else needW) (storeSpans kind b.toNat s.g.x7 (s.g.fmt l.no)) = Sum.inl ps) ∧
      i ≠ Instr.accLd b n ∧
      (s.core s.g.core).freeEntry = none) ∧
    (∃ (b : BitVec 6) (n : BitVec 6) (s : Machine.State) (l : Lane) (rest : List Lane) (ps : List XPage),
      s.clear (Instr.mskLd b n) [b] ∧
      s.follower (Instr.mskLd b n) = true ∧
      n.toNat < 4 ∧
      s.g.acts = l :: rest ∧
      s.formPages l Perm.r needR [(b.toNat, [(0, 272)], 16)] = Sum.inl ps ∧
      s.inFlight = false ∧
      (∀ x ∈ xlines ps (capRuns (s.g.read l b) 0 272), s.ownedAt (x * 64) 64 = false) ∧
      s.xbad s.g.core ps (runAddrs (capRuns (s.g.read l b) 0 272)) = false ∧
      s.g.unwatched ∧
      s.mem.xat ps (s.g.read l b) 0 272 / 2 ^ 32 % 2 ^ 96 = 0) ∧
    (∃ (b : BitVec 6) (s : Machine.State),
      s.clear (Instr.mmaWait b) [] ∧
      s.follower (Instr.mmaWait b) = true ∧
      b.toNat ≤ 16 ∧
      s.g.run = Run.ready ∧
      (∀ o ∈ (s.array s.g.core).order, o.id < s.nextId → o.writesTile b.toNat = false)) ∧
    (∃ (b : BitVec 6) (s : Machine.State),
      s.clear (Instr.mmaWait b) [] ∧
      s.follower (Instr.mmaWait b) = true ∧
      b.toNat ≤ 16 ∧
      s.g.run = Run.ready ∧
      (∃ o ∈ (s.array s.g.core).order, o.id < s.nextId ∧ o.writesTile b.toNat = true)) ∧
    (∃ (s : Machine.State) (core : ℕ) (o : ArrayOp) (q : List ArrayOp) (sp : Bool),
      (s.array core).order = o :: q ∧
      o.kind = ArrayKind.mma false sp ∧
      o.started = false ∧
      o.leader = none ∧
      (s.array core).testing = false ∧
      (s.array core).testDue s.clk = false ∧
      s.unitHeld (EngineUnit.array core) = false) ∧
    (∃ (s : Machine.State) (core : ℕ) (o : ArrayOp) (q : List ArrayOp) (sp : Bool),
      (s.array core).order = o :: q ∧
      o.kind = ArrayKind.mma false sp ∧
      o.started = true ∧
      o.leader = none ∧
      s.xbad core o.pages o.reads = false ∧
      (rising (List.map (fun (x : ℕ × ℕ) => x.1) (s.array core).tiles) = true)) ∧
    (∃ (s : Machine.State) (core : ℕ) (o : ArrayOp) (q : List ArrayOp),
      (s.array core).order = o :: q ∧
      (s.array core).testing = false ∧
      (rising (List.map (fun (x : ℕ × ℕ) => x.1) (s.array core).tiles) = true) ∧
      o.kind = ArrayKind.zero) ∧
    (∃ (s : Machine.State) (core : ℕ) (o : ArrayOp) (q : List ArrayOp) (v : Val) (c : ℕ),
      (s.array core).order = o :: q ∧
      (s.array core).testing = false ∧
      (rising (List.map (fun (x : ℕ × ℕ) => x.1) (s.array core).tiles) = true) ∧
      o.kind = ArrayKind.ld ∧
      o.caps = [(c, v)] ∧
      s.xbad core o.pages (capAddrs v 0 4096) = false) ∧
    (∃ (s : Machine.State) (core : ℕ) (o : ArrayOp) (q : List ArrayOp) (n : ℕ) (image : ℕ),
      (s.array core).order = o :: q ∧
      (s.array core).testing = false ∧
      (rising (List.map (fun (x : ℕ × ℕ) => x.1) (s.array core).tiles) = true) ∧
      o.kind = ArrayKind.msk n image ∧
      n < 4) ∧
    (∃ (s : Machine.State) (core : ℕ) (o : ArrayOp) (q : List ArrayOp),
      (s.array core).order = o :: q ∧
      (s.array core).testing = false ∧
      (rising (List.map (fun (x : ℕ × ℕ) => x.1) (s.array core).tiles) = true) ∧
      (o.kind = ArrayKind.st ∨ o.kind = ArrayKind.out) ∧
      ((State.writeLines core o.id o.pages (o.bytes (s.array core)) (fun (x : ℕ) => (s.array core).bad o.t) (s.ownedLines o.id) s).2 = none) ∧
      awayByte o.pages (o.bytes (s.array core)) = none) ∧
    (∃ (s : Machine.State) (core : ℕ),
      s.testStarts core = true) ∧
    (∃ (s : Machine.State) (core : ℕ),
      (s.array core).testing = true) :=
  ⟨⟨.mma 3, (.mma false false), 3, (matrixG false false), (matrixG false false).lane0, (matrixG false false).g.acts.tail, (matrixG false false).opPages, by and_intros <;> decide +kernel⟩,
    ⟨.mma 3, .mma false false, 3, ((matrixG false false).ordered (List.replicate 4 ((matrixG false false).op0 (.mma false false) 20 []))), ((matrixG false false).ordered (List.replicate 4 ((matrixG false false).op0 (.mma false false) 20 []))).lane0, ((matrixG false false).ordered (List.replicate 4 ((matrixG false false).op0 (.mma false false) 20 []))).g.acts.tail, ((matrixG false false).ordered (List.replicate 4 ((matrixG false false).op0 (.mma false false) 20 []))).opPages, by and_intros <;> decide +kernel⟩,
    ⟨3, (matrixG false false), (matrixG false false).lane0, (matrixG false false).g.acts.tail, by decide +kernel⟩,
    ⟨.accLd 22 3, .ld, 22, 3, (matrixG false false), (matrixG false false).lane0, (matrixG false false).g.acts.tail, (matrixG false false).formXs .r needR (storeSpans .ld 22 (matrixG false false).g.x7 ((matrixG false false).g.fmt (matrixG false false).lane0.no)), by and_intros <;> decide +kernel⟩,
    ⟨.accSt 22 3, .st, 22, 3, (matrixG false false), (matrixG false false).lane0, (matrixG false false).g.acts.tail, (matrixG false false).formXs .w needW (storeSpans .st 22 (matrixG false false).g.x7 ((matrixG false false).g.fmt (matrixG false false).lane0.no)), (((matrixG false false).core 2).freeEntry).get!, by and_intros <;> decide +kernel⟩,
    ⟨.accSt 22 3, .st, 22, 3, ((matrixG false false).mapCore 2 fun c => { c with journal := Vector.replicate 64 (some ⟨0, 0, 0, 1, 0, 0, 0, 3, 0, 1, 0, 0, 0, 0, false⟩) }), ((matrixG false false).mapCore 2 fun c => { c with journal := Vector.replicate 64 (some ⟨0, 0, 0, 1, 0, 0, 0, 3, 0, 1, 0, 0, 0, 0, false⟩) }).lane0, ((matrixG false false).mapCore 2 fun c => { c with journal := Vector.replicate 64 (some ⟨0, 0, 0, 1, 0, 0, 0, 3, 0, 1, 0, 0, 0, 0, false⟩) }).g.acts.tail, ((matrixG false false).mapCore 2 fun c => { c with journal := Vector.replicate 64 (some ⟨0, 0, 0, 1, 0, 0, 0, 3, 0, 1, 0, 0, 0, 0, false⟩) }).formXs .w needW (storeSpans .st 22 ((matrixG false false).mapCore 2 fun c => { c with journal := Vector.replicate 64 (some ⟨0, 0, 0, 1, 0, 0, 0, 3, 0, 1, 0, 0, 0, 0, false⟩) }).g.x7 (((matrixG false false).mapCore 2 fun c => { c with journal := Vector.replicate 64 (some ⟨0, 0, 0, 1, 0, 0, 0, 3, 0, 1, 0, 0, 0, 0, false⟩) }).g.fmt ((matrixG false false).mapCore 2 fun c => { c with journal := Vector.replicate 64 (some ⟨0, 0, 0, 1, 0, 0, 0, 3, 0, 1, 0, 0, 0, 0, false⟩) }).lane0.no)), by and_intros <;> decide +kernel⟩,
    ⟨22, 1, (matrixG false false), (matrixG false false).lane0, (matrixG false false).g.acts.tail, (matrixG false false).formXs .r needR [(22, [(0, 272)], 16)], by and_intros <;> decide +kernel⟩,
    ⟨3, (matrixG false false), by decide +kernel⟩,
    ⟨3, ((matrixG false false).ordered [((matrixG false false).op0 (.mma false false) 20 [])]), by decide +kernel⟩,
    ⟨((matrixG false false).ordered [((matrixG false false).op0 (.mma false false) 20 [])]), 2, ((matrixG false false).op0 (.mma false false) 20 []), [], false, by decide +kernel⟩,
    ⟨((matrixG false false).ordered [{ (matrixG false false).op0 (.mma false false) 20 (matrixG false false).opPages with started := true, caps := [20, 21].map fun c => (c, (matrixG false false).g.read (matrixG false false).lane0 (BitVec.ofNat 6 c)) }]), 2, { (matrixG false false).op0 (.mma false false) 20 (matrixG false false).opPages with started := true, caps := [20, 21].map fun c => (c, (matrixG false false).g.read (matrixG false false).lane0 (BitVec.ofNat 6 c)) }, [], false, by decide +kernel⟩,
    ⟨((matrixG false false).ordered [((matrixG false false).op0 .zero 22 [])]), 2, ((matrixG false false).op0 .zero 22 []), [], by decide +kernel⟩,
    ⟨((matrixG false false).ordered [((matrixG false false).op0 .ld 22 ((matrixG false false).formXs .r needR (storeSpans .ld 22 (matrixG false false).g.x7 0)))]), 2, ((matrixG false false).op0 .ld 22 ((matrixG false false).formXs .r needR (storeSpans .ld 22 (matrixG false false).g.x7 0))), [], (matrixG false false).g.read (matrixG false false).lane0 22, 22, by decide +kernel⟩,
    ⟨((matrixG false false).ordered [((matrixG false false).op0 (.msk 1 99) 22 [])]), 2, ((matrixG false false).op0 (.msk 1 99) 22 []), [], 1, 99, by decide +kernel⟩,
    ⟨(((matrixG false false).ordered [((matrixG false false).op0 .st 22 ((matrixG false false).formXs .w needW (storeSpans .st 22 (matrixG false false).g.x7 0)))]).own 5 (((matrixG false false).formXs .w needW (storeSpans .st 22 (matrixG false false).g.x7 0)).map fun p => p.ppage * 64)), 2, ((matrixG false false).op0 .st 22 ((matrixG false false).formXs .w needW (storeSpans .st 22 (matrixG false false).g.x7 0))), [], by decide +kernel⟩,
    ⟨((matrixG false false).mapArray 2 fun a => { a with held := [⟨.array 2, .host 0, 0, 0, 1, 1, 0⟩] }), 2, by decide +kernel⟩,
    ⟨((matrixG false false).mapArray 2 fun a => { a with testing := true }), 2, by decide +kernel⟩⟩

theorem witness_CopiesGoThroughTheirEngine :
    (∃ (s : Machine.State) (l : Lane) (rest : List Lane) (sp : List XPage) (dp : List XPage),
      s.clear Instr.cpy [] ∧
      s.follower Instr.cpy = true ∧
      copyBad s.g.x7 = false ∧
      s.g.acts = l :: rest ∧
      (∀ c ∈ (if cFill s.g.x7 = true then [] else [cSrc s.g.x7]) ++ [cDst s.g.x7], (s.g.read l c).known = true) ∧
      (cFill s.g.x7 = false → s.sideTrap (s.g.read l (cSrc s.g.x7)) (cSrc s.g.x7) Perm.r (cHsrc s.g.x7) (Machine.cRows s.g.x7) (cLen s.g.x7) (cSstr s.g.x7) = none) ∧
      s.sideTrap (s.g.read l (cDst s.g.x7)) (cDst s.g.x7) Perm.w (cHdst s.g.x7) (Machine.cRows s.g.x7) (cLen s.g.x7) (cDstr s.g.x7) = none ∧
      s.sidePages (s.g.read l (cSrc s.g.x7)) needR (cFill s.g.x7 || cHsrc s.g.x7) (Machine.cRows s.g.x7) (cLen s.g.x7) (cSstr s.g.x7) = Sum.inl sp ∧
      s.sidePages (s.g.read l (cDst s.g.x7)) needW (cHdst s.g.x7) (Machine.cRows s.g.x7) (cLen s.g.x7) (cDstr s.g.x7) = Sum.inl dp ∧
      (s.quadCopies (quadOf s.g.core)).length < 8) ∧
    (∃ (s : Machine.State) (l : Lane) (rest : List Lane) (sp : List XPage) (dp : List XPage),
      s.clear Instr.cpy [] ∧
      s.follower Instr.cpy = true ∧
      copyBad s.g.x7 = false ∧
      s.g.acts = l :: rest ∧
      (∀ c ∈ (if cFill s.g.x7 = true then [] else [cSrc s.g.x7]) ++ [cDst s.g.x7], (s.g.read l c).known = true) ∧
      (cFill s.g.x7 = false → s.sideTrap (s.g.read l (cSrc s.g.x7)) (cSrc s.g.x7) Perm.r (cHsrc s.g.x7) (Machine.cRows s.g.x7) (cLen s.g.x7) (cSstr s.g.x7) = none) ∧
      s.sideTrap (s.g.read l (cDst s.g.x7)) (cDst s.g.x7) Perm.w (cHdst s.g.x7) (Machine.cRows s.g.x7) (cLen s.g.x7) (cDstr s.g.x7) = none ∧
      s.sidePages (s.g.read l (cSrc s.g.x7)) needR (cFill s.g.x7 || cHsrc s.g.x7) (Machine.cRows s.g.x7) (cLen s.g.x7) (cSstr s.g.x7) = Sum.inl sp ∧
      s.sidePages (s.g.read l (cDst s.g.x7)) needW (cHdst s.g.x7) (Machine.cRows s.g.x7) (cLen s.g.x7) (cDstr s.g.x7) = Sum.inl dp ∧
      8 ≤ (s.quadCopies (quadOf s.g.core)).length) ∧
    (∃ (a : BitVec 6) (s : Machine.State) (l : Lane) (rest : List Lane),
      s.clear (Instr.cpyWait a) [a] ∧
      s.follower (Instr.cpyWait a) = true ∧
      s.g.acts = l :: rest ∧
      s.g.run = Run.ready ∧
      (∀ o ∈ s.copies, ¬(o.quad = quadOf s.g.core ∧ o.gang = s.g.gang ∧ o.id < s.nextId ∧ (BitVec.extractLsb' 0 12 (s.g.read l a).bits = 0 ∨ o.tag = BitVec.extractLsb' 0 12 (s.g.read l a).bits)))) ∧
    (∃ (a : BitVec 6) (s : Machine.State) (l : Lane) (rest : List Lane),
      s.clear (Instr.cpyWait a) [a] ∧
      s.follower (Instr.cpyWait a) = true ∧
      s.g.acts = l :: rest ∧
      s.g.run = Run.ready ∧
      (∃ o ∈ s.copies, o.quad = quadOf s.g.core ∧ o.gang = s.g.gang ∧ o.id < s.nextId ∧ (BitVec.extractLsb' 0 12 (s.g.read l a).bits = 0 ∨ o.tag = BitVec.extractLsb' 0 12 (s.g.read l a).bits))) ∧
    (∃ (s : Machine.State) (quad : ℕ) (o : CopyOp) (q : List CopyOp),
      s.quadCopies quad = o :: q ∧
      o.running = false ∧
      s.unitHeld (EngineUnit.copy quad) = false) ∧
    (∃ (s : Machine.State) (quad : ℕ) (o : CopyOp) (q : List CopyOp),
      s.quadCopies quad = o :: q ∧
      o.running = true ∧
      o.finished = false ∧
      o.refused = none ∧
      o.hdst = false ∧
      s.unitHeld (EngineUnit.copy quad) = false ∧
      (∀ p ∈ s.copies, p.id = o.id → p = o) ∧
      s.copyRefusals o = [] ∧
      (awayByte o.dpages (List.map (fun (b : ℕ × Byte × Bool) => (b.1, b.2.1)) (s.copyBytes o)) = none) ∧
      ((State.writeLines o.core o.id o.dpages (List.map (fun (b : ℕ × Byte × Bool) => (b.1, b.2.1)) (s.copyBytes o)) (badLine o.dpages (s.copyBytes o)) (s.ownedLines o.id)       (s.readSources o fun (b : ℕ) =>         match xpa o.dpages b with         | some (pa, snd) => (s.ownedLines o.id).contains (pa / 64)         | none => false)).2 =   none) ∧
      o.tag = 0) ∧
    (∃ (s : Machine.State) (quad : ℕ) (o : CopyOp) (q : List CopyOp) (fn : ℕ),
      s.quadCopies quad = o :: q ∧
      o.running = true ∧
      o.finished = false ∧
      o.refused = none ∧
      o.hdst = false ∧
      s.unitHeld (EngineUnit.copy quad) = false ∧
      (∀ p ∈ s.copies, p.id = o.id → p = o) ∧
      s.copyRefusals o = [] ∧
      (awayByte o.dpages (List.map (fun (b : ℕ × Byte × Bool) => (b.1, b.2.1)) (s.copyBytes o)) = none) ∧
      ((State.writeLines o.core o.id o.dpages (List.map (fun (b : ℕ × Byte × Bool) => (b.1, b.2.1)) (s.copyBytes o)) (badLine o.dpages (s.copyBytes o)) (s.ownedLines o.id)       (s.readSources o fun (b : ℕ) =>         match xpa o.dpages b with         | some (pa, snd) => (s.ownedLines o.id).contains (pa / 64)         | none => false)).2 =   none) ∧
      o.tag ≠ 0 ∧
      o.dest = RecDest.host fn) ∧
    (∃ (s : Machine.State) (o : CopyOp) (n : ℕ),
      (List.find? (fun (p : CopyOp) => p.id == o.id) s.copies = some o) ∧
      o.running = true ∧
      o.refused = none ∧
      o.hdst = false ∧
      n ∈ s.ownedLines o.id ∧
      s.lineWaits n = false ∧
      s.copyRefusals o = [] ∧
      (((s.readSources o fun (b : ℕ) =>           match xpa o.dpages b with           | some (pa, snd) => pa / 64 == n           | none => false).writeOwned       o.core o.id o.dpages (List.map (fun (b : ℕ × Byte × Bool) => (b.1, b.2.1)) (s.copyBytes o)) (badLine o.dpages (s.copyBytes o) n) n).2 =   none)) :=
  ⟨⟨(copying 3), (copying 3).lane0, [], (copying 3).sideXs 5 needR, (copying 3).sideXs 6 needW, by and_intros <;> decide +kernel⟩,
    ⟨({ copying 3 with copies := List.replicate 8 (copy0 3 false) } : State), ({ copying 3 with copies := List.replicate 8 (copy0 3 false) } : State).lane0, [], ({ copying 3 with copies := List.replicate 8 (copy0 3 false) } : State).sideXs 5 needR, ({ copying 3 with copies := List.replicate 8 (copy0 3 false) } : State).sideXs 6 needW, by and_intros <;> decide +kernel⟩,
    ⟨7, (copying 3), (copying 3).lane0, [], by decide +kernel⟩,
    ⟨7, ({ copying 3 with copies := [copy0 3 false] } : State).put 7 Val.zero, (({ copying 3 with copies := [copy0 3 false] } : State).put 7 Val.zero).lane0, [], by and_intros <;> decide +kernel⟩,
    ⟨((copying 3).copied (copy0 3 false)), 0, copy0 3 false, [], by decide +kernel⟩,
    ⟨((copying 0).copied (copy0 0 true)), 0, copy0 0 true, [], by decide +kernel⟩,
    ⟨((copying 3).copied (copy0 3 true)), 0, copy0 3 true, [], 0, by decide +kernel⟩,
    ⟨((copying 3).copied (copy0 3 true)), copy0 3 true, (((copying 3).copied (copy0 3 true)).ownedLines 6).headD 0, by decide +kernel⟩⟩

theorem witness_PrefetchUnitsRunTheirKernels :
    (∃ (b : BitVec 6) (a : BitVec 6) (s : Machine.State) (l : Lane) (rest : List Lane) (ps : List XPage) (n : ℕ),
      s.clear (Instr.pfkLd b a) [a, b] ∧
      s.follower (Instr.pfkLd b a) = true ∧
      s.g.acts = l :: rest ∧
      BitVec.toNat (s.g.words l b) = n ∧
      1 ≤ n ∧
      n ≤ 64 ∧
      spanTrap s.g (s.g.read l a) a [Perm.r] true 4 [] 0 (4 * ↑n) = none ∧
      (s.capture s.g needR (fun (x : ℕ) => true) (capRuns (s.g.read l a) 0 (4 * n)) = Sum.inl ps) ∧
      s.inFlight = false ∧
      (∀ x ∈ xlines ps (capRuns (s.g.read l a) 0 (4 * n)), s.ownedAt (x * 64) 64 = false) ∧
      s.g.unwatched ∧
      (∀ j < n, s.xbad s.g.core ps (capAddrs (s.g.read l a) (4 * j) 4) = false ∧ kernelOk (BitVec.ofNat 32 (s.mem.xat ps (s.g.read l a) (4 * ↑j) 4)) = true) ∧
      (s.punit s.g.core).busy = false) ∧
    (∃ (b : BitVec 6) (a : BitVec 6) (s : Machine.State) (l : Lane) (rest : List Lane) (st : Machine.Stream),
      s.clear (Instr.pfkArm b a) [a, b] ∧
      s.follower (Instr.pfkArm b a) = true ∧
      s.g.acts = l :: rest ∧
      48 ≤ (BitVec.extractLsb' 0 6 (s.g.words l a)).toNat ∧
      (BitVec.extractLsb' 0 6 (s.g.words l a)).toNat ≤ 55 ∧
      s.g.stream (BitVec.extractLsb' 0 6 (s.g.words l a)) = some st ∧
      st.append = false ∧
      (s.punit s.g.core).kernel ≠ [] ∧
      (s.punit s.g.core).busy = false) ∧
    (∃ (s : Machine.State) (core : ℕ) (a : Arming) (r : KernelRun) (rest : List (ℕ × Val)),
      (s.punit core).arm = some a ∧
      s.pkg.lamp.ctl = 0 ∧
      ((s.punit core).run = some r ∧ rest = (s.punit core).due ∨ ∃ (n : ℕ) (v : Val), (s.punit core).run = none ∧ (s.punit core).due = (n, v) :: rest ∧ r = { n := n, regs := kernelStart a n v, ix := 0, count := 0 } ∧ s.unitHeld (EngineUnit.prefetch core) = false) ∧
      r.ix = (s.punit core).kernel.length) ∧
    (∃ (s : Machine.State) (core : ℕ) (a : Arming) (r : KernelRun) (rest : List (ℕ × Val)) (w : BitVec 32) (i : Instr),
      (s.punit core).arm = some a ∧
      s.pkg.lamp.ctl = 0 ∧
      ((s.punit core).run = some r ∧ rest = (s.punit core).due ∨ ∃ (n : ℕ) (v : Val), (s.punit core).run = none ∧ (s.punit core).due = (n, v) :: rest ∧ r = { n := n, regs := kernelStart a n v, ix := 0, count := 0 } ∧ s.unitHeld (EngineUnit.prefetch core) = false) ∧
      (s.punit core).kernel[r.ix]? = some w ∧
      kernelOk w = true ∧
      decode32 w.toNat = some i ∧
      r.ix < 2 ^ 32 ∧
      r.count < 255 ∧
      (∃ (x : BitVec 6) (y : Bool), i = Instr.pf x y)) ∧
    (∃ (s : Machine.State) (core : ℕ) (a : Arming) (r : KernelRun) (rest : List (ℕ × Val)) (w : BitVec 32) (i : Instr),
      (s.punit core).arm = some a ∧
      s.pkg.lamp.ctl = 0 ∧
      ((s.punit core).run = some r ∧ rest = (s.punit core).due ∨ ∃ (n : ℕ) (v : Val), (s.punit core).run = none ∧ (s.punit core).due = (n, v) :: rest ∧ r = { n := n, regs := kernelStart a n v, ix := 0, count := 0 } ∧ s.unitHeld (EngineUnit.prefetch core) = false) ∧
      (s.punit core).kernel[r.ix]? = some w ∧
      kernelOk w = true ∧
      decode32 w.toNat = some i ∧
      r.ix < 2 ^ 32 ∧
      r.count < 255 ∧
      (∃ (x : BitVec 6) (y : Bool), i = Instr.ret x y)) ∧
    (∃ (s : Machine.State) (core : ℕ) (a : Arming) (r : KernelRun) (rest : List (ℕ × Val)) (w : BitVec 32) (i : Instr) (f : (BitVec 6 → Word) → Word),
      (s.punit core).arm = some a ∧
      s.pkg.lamp.ctl = 0 ∧
      ((s.punit core).run = some r ∧ rest = (s.punit core).due ∨ ∃ (n : ℕ) (v : Val), (s.punit core).run = none ∧ (s.punit core).due = (n, v) :: rest ∧ r = { n := n, regs := kernelStart a n v, ix := 0, count := 0 } ∧ s.unitHeld (EngineUnit.prefetch core) = false) ∧
      (s.punit core).kernel[r.ix]? = some w ∧
      kernelOk w = true ∧
      decode32 w.toNat = some i ∧
      r.ix < 2 ^ 32 ∧
      r.count < 255 ∧
      integerResult i = some f ∧
      (∀ c ∈ srcs i, (({ no := 0, k := r.regs, latch := [], active := true, live := true } : Lane).reg c).known = true)) ∧
    (∃ (s : Machine.State) (core : ℕ) (a : Arming) (r : KernelRun) (rest : List (ℕ × Val)) (fn : ℕ),
      (s.punit core).arm = some a ∧
      s.pkg.lamp.ctl = 0 ∧
      ((s.punit core).run = some r ∧ rest = (s.punit core).due ∨ ∃ (n : ℕ) (v : Val), (s.punit core).run = none ∧ (s.punit core).due = (n, v) :: rest ∧ r = { n := n, regs := kernelStart a n v, ix := 0, count := 0 } ∧ s.unitHeld (EngineUnit.prefetch core) = false) ∧
      r.ix ≠ (s.punit core).kernel.length ∧
      255 ≤ r.count ∧
      a.dest = RecDest.host fn) ∧
    (∃ (s : Machine.State) (c : BitVec 6) (st : Machine.Stream) (p : Place),
      s.g.stream c = some st ∧
      st.append = false ∧
      max st.fetched st.count < st.limit ∧
      max st.fetched st.count < st.count + st.ahead ∧
      checkAccess s s.g st.base c (st.at_ (max st.fetched st.count)) st.size st.size [Perm.r] { r := true, w := false, x := false, a := false, cap := false } = Chk.ok p) :=
  ⟨⟨6, 5, kernels, kernels.lane0, kernels.g.acts.tail,
      (match kernels.capture kernels.g needR (fun _ => true) (capRuns (kernels.g.read kernels.lane0 5) 0 4) with | .inl ps => ps | .inr _ => []), 1,
      by and_intros <;> decide +kernel⟩,
    ⟨4, 6, ((kernels.setPunit ⟨2, [0x0C20C001], none, [], none, 0⟩).put 6 (num 48)), ((kernels.setPunit ⟨2, [0x0C20C001], none, [], none, 0⟩).put 6 (num 48)).lane0, ((kernels.setPunit ⟨2, [0x0C20C001], none, [], none, 0⟩).put 6 (num 48)).g.acts.tail, stream1, by and_intros <;> decide +kernel⟩,
    ⟨kernels.runs [0x0C20C001] (run0 1 1), 2, arming0, run0 1 1, [], by decide +kernel, by decide +kernel,
      .inl (by decide +kernel), by decide +kernel⟩,
    ⟨kernels.armed1 [(BitVec.ofNat 32 (Instr.word (.pf 5 false)))], 2, arming0, run0 0 0, [], (BitVec.ofNat 32 (Instr.word (.pf 5 false))), .pf 5 false, by decide +kernel, by decide +kernel,
      .inr ⟨3, num 9, by decide +kernel⟩, by decide +kernel, by decide +kernel, by decide +kernel, by decide +kernel, by decide +kernel, 5, false, rfl⟩,
    ⟨kernels.armed1 [(BitVec.ofNat 32 (Instr.word (.ret 0 false)))], 2, arming0, run0 0 0, [], (BitVec.ofNat 32 (Instr.word (.ret 0 false))), .ret 0 false, by decide +kernel, by decide +kernel,
      .inr ⟨3, num 9, by decide +kernel⟩, by decide +kernel, by decide +kernel, by decide +kernel, by decide +kernel, by decide +kernel, 0, false, rfl⟩,
    ⟨kernels.armed1 [(BitVec.ofNat 32 (Instr.word (.add 3 2 false 6 false)))], 2, arming0, run0 0 0, [], (BitVec.ofNat 32 (Instr.word (.add 3 2 false 6 false))), .add 3 2 false 6 false, fun r => r 2 + r 3, by decide +kernel, by decide +kernel,
      .inr ⟨3, num 9, by decide +kernel⟩, by decide +kernel, by decide +kernel, by decide +kernel, by decide +kernel, by decide +kernel, rfl, by decide +kernel⟩,
    ⟨kernels.runs [0x0C20C001] (run0 0 255), 2, arming0, run0 0 255, [], 0, by decide +kernel, by decide +kernel,
      .inl (by decide +kernel), by decide +kernel, by decide +kernel, rfl⟩,
    ⟨kernels, 48, stream1, (match checkAccess kernels kernels.g stream1.base 48 (stream1.at_ 2) stream1.size stream1.size [.r] ⟨true, false, false, false, false⟩ with | .ok p => p | _ => ⟨0, false, none, none, false⟩), by decide +kernel⟩⟩

theorem witness_EventQueuesAndCollectives :
    (∃ (d : BitVec 6) (s : Machine.State) (p : Place),
      s.clear (Instr.evqRd d) [] ∧
      s.follower (Instr.evqRd d) = true ∧
      s.g.unwatched ∧
      s.scPending = false ∧
      s.evqChk true = Chk.ok p ∧
      p.own = true ∧
      s.ownedAt p.pa 64 = false ∧
      s.displaced = false ∧
      s.scDueAt (homeOf p.pa) = false ∧
      (∀ r ∈ s.net, r.src = s.g.srcOf s.g.lead ∨ r.gid = s.g.gid ∧ r.since = s.clk → r.home ≠ homeOf p.pa) ∧
      s.refusal MemOp.evqRd p.pa = none ∧
      Config.ddrSize ≤ p.pa ∧
      mapGet (p.pa / 64) s.mem.checks = none ∧
      s.mem.poisoned p.pa 16 = false ∧
      s.mem.poisoned (p.pa + 16 + 16 * (s.evqRD p.pa % 64)) 16 = false ∧
      (∀ r ∈ s.records, s.waitsAt p.pa r = false) ∧
      s.g.banked d = false ∧
      d.toNat < 56 ∧
      s.evqWR p.pa = s.evqRD p.pa) ∧
    (∃ (d : BitVec 6) (s : Machine.State) (p : Place),
      s.clear (Instr.evqRd d) [] ∧
      s.follower (Instr.evqRd d) = true ∧
      s.g.unwatched ∧
      s.scPending = false ∧
      s.evqChk true = Chk.ok p ∧
      p.own = true ∧
      s.ownedAt p.pa 64 = false ∧
      s.displaced = false ∧
      s.scDueAt (homeOf p.pa) = false ∧
      (∀ r ∈ s.net, r.src = s.g.srcOf s.g.lead ∨ r.gid = s.g.gid ∧ r.since = s.clk → r.home ≠ homeOf p.pa) ∧
      s.refusal MemOp.evqRd p.pa = none ∧
      Config.ddrSize ≤ p.pa ∧
      mapGet (p.pa / 64) s.mem.checks = none ∧
      s.mem.poisoned p.pa 16 = false ∧
      s.mem.poisoned (p.pa + 16 + 16 * (s.evqRD p.pa % 64)) 16 = false ∧
      (∀ r ∈ s.records, s.waitsAt p.pa r = false) ∧
      s.g.banked d = false ∧
      d.toNat < 56 ∧
      s.evqWR p.pa ≠ s.evqRD p.pa) ∧
    (∃ (d : BitVec 6) (s : Machine.State) (p : Place),
      s.clear (Instr.evqWait d) [] ∧
      s.follower (Instr.evqWait d) = true ∧
      s.evqChk false = Chk.ok p ∧
      s.g.answers = [] ∧
      s.g.unwatched ∧
      p.pkg = none ∧
      s.evqWR p.pa ≠ s.evqRD p.pa) ∧
    (∃ (d : BitVec 6) (s : Machine.State) (p : Place),
      s.clear (Instr.evqWait d) [] ∧
      s.follower (Instr.evqWait d) = true ∧
      s.evqChk false = Chk.ok p ∧
      s.g.answers = [] ∧
      s.g.unwatched ∧
      p.pkg = none ∧
      s.evqWR p.pa = s.evqRD p.pa) ∧
    (∃ (d : BitVec 6) (s : Machine.State) (p : Place),
      s.clear (Instr.evqWait d) [] ∧
      s.follower (Instr.evqWait d) = true ∧
      s.evqChk false = Chk.ok p ∧
      s.g.answers = [] ∧
      s.g.unwatched ∧
      p.pkg ≠ none) ∧
    (∃ (d : BitVec 6) (s : Machine.State) (p : Place),
      s.g.sent = true ∧
      s.g.held = [] ∧
      s.unstepped ∧
      s.evqChk false = Chk.ok p ∧
      s.g.stream d = none ∧
      s.g.answers = [] ∧
      s.evqHolds p = true) ∧
    (∃ (d : BitVec 6) (s : Machine.State) (p : Place),
      s.g.sent = true ∧
      s.g.held = [] ∧
      s.unstepped ∧
      s.evqChk false = Chk.ok p ∧
      s.g.stream d = none ∧
      s.g.answers = [] ∧
      s.evqHolds p = false) ∧
    (∃ (s : Machine.State) (c : ℕ),
      s.g.run = Run.waiting Wait.evq c ∧
      c + BitVec.toNat s.g.sp.felim ≤ s.clk ∧
      s.g.answers = []) ∧
    (∃ (d : BitVec 6) (s : Machine.State) (p : Place) (n : ℕ) (v : Val) (as : List (ℕ × Answer)),
      s.g.sent = true ∧
      s.g.held = [] ∧
      s.unstepped ∧
      s.evqChk false = Chk.ok p ∧
      s.g.stream d = none ∧
      s.g.answers = (n, Answer.ok v) :: as) ∧
    (∃ (s : Machine.State) (n : ℕ) (r : OutRec) (pa : ℕ) (crew : ℕ),
      s.records[n]? = some r ∧
      r.dest = RecDest.queue pa crew ∧
      s.evqSaved crew = false ∧
      r.since + 65536 ≤ s.clk) ∧
    (∃ (s : Machine.State) (l : Lane) (rest : List Lane) (sp : List XPage) (dp : List XPage),
      s.clear Instr.coll [] ∧
      s.follower Instr.coll = true ∧
      collBad s.g.x7 = false ∧
      s.g.acts = l :: rest ∧
      (s.g.read l (kSrc s.g.x7)).known = true ∧
      (s.g.read l (kDst s.g.x7)).known = true ∧
      spanTrap s.g (s.g.read l (kSrc s.g.x7)) (kSrc s.g.x7) [Perm.r] false (etSize (kEt s.g.x7)) (capRuns (s.g.read l (kSrc s.g.x7)) 0 (kLen s.g.x7)) 0 ↑(kLen s.g.x7) = none ∧
      spanTrap s.g (s.g.read l (kDst s.g.x7)) (kDst s.g.x7) [Perm.w] false (etSize (kEt s.g.x7)) (capRuns (s.g.read l (kDst s.g.x7)) 0 (kDstLen s.g.x7)) 0 ↑(kDstLen s.g.x7) = none ∧
      (s.capture s.g needR (fun (x : ℕ) => true) (capRuns (s.g.read l (kSrc s.g.x7)) 0 (kLen s.g.x7)) = Sum.inl sp) ∧
      (s.capture s.g needW (fun (x : ℕ) => true) (capRuns (s.g.read l (kDst s.g.x7)) 0 (kDstLen s.g.x7)) = Sum.inl dp) ∧
      s.coll s.g.sp.task (kGid s.g.x7) = none) ∧
    (∃ (s : Machine.State) (l : Lane) (rest : List Lane) (sp : List XPage) (dp : List XPage) (c : Coll),
      s.clear Instr.coll [] ∧
      s.follower Instr.coll = true ∧
      collBad s.g.x7 = false ∧
      s.g.acts = l :: rest ∧
      (s.g.read l (kSrc s.g.x7)).known = true ∧
      (s.g.read l (kDst s.g.x7)).known = true ∧
      spanTrap s.g (s.g.read l (kSrc s.g.x7)) (kSrc s.g.x7) [Perm.r] false (etSize (kEt s.g.x7)) (capRuns (s.g.read l (kSrc s.g.x7)) 0 (kLen s.g.x7)) 0 ↑(kLen s.g.x7) = none ∧
      spanTrap s.g (s.g.read l (kDst s.g.x7)) (kDst s.g.x7) [Perm.w] false (etSize (kEt s.g.x7)) (capRuns (s.g.read l (kDst s.g.x7)) 0 (kDstLen s.g.x7)) 0 ↑(kDstLen s.g.x7) = none ∧
      (s.capture s.g needR (fun (x : ℕ) => true) (capRuns (s.g.read l (kSrc s.g.x7)) 0 (kLen s.g.x7)) = Sum.inl sp) ∧
      (s.capture s.g needW (fun (x : ℕ) => true) (capRuns (s.g.read l (kDst s.g.x7)) 0 (kDstLen s.g.x7)) = Sum.inl dp) ∧
      s.coll s.g.sp.task (kGid s.g.x7) = some c ∧
      c.closed = false ∧
      (∀ q ∈ c.parts, q.crew ≠ s.g.sp.crew ∧ s.clk < q.deadline) ∧
      (∀ q ∈ c.parts, q.pkg = s.pkg.pod.toNat → q.die ≠ s.g.core / 1024) ∧
      (c.op = kOp s.g.x7 ∧ c.et = kEt s.g.x7 ∧ c.max = kMax s.g.x7 ∧ c.np = kNP s.g.x7 ∧ c.root = kRoot s.g.x7 ∧ c.len = kLen s.g.x7)) ∧
    (∃ (s : Machine.State) (l : Lane) (rest : List Lane) (sp : List XPage) (dp : List XPage) (c : Coll),
      s.clear Instr.coll [] ∧
      s.follower Instr.coll = true ∧
      collBad s.g.x7 = false ∧
      s.g.acts = l :: rest ∧
      (s.g.read l (kSrc s.g.x7)).known = true ∧
      (s.g.read l (kDst s.g.x7)).known = true ∧
      spanTrap s.g (s.g.read l (kSrc s.g.x7)) (kSrc s.g.x7) [Perm.r] false (etSize (kEt s.g.x7)) (capRuns (s.g.read l (kSrc s.g.x7)) 0 (kLen s.g.x7)) 0 ↑(kLen s.g.x7) = none ∧
      spanTrap s.g (s.g.read l (kDst s.g.x7)) (kDst s.g.x7) [Perm.w] false (etSize (kEt s.g.x7)) (capRuns (s.g.read l (kDst s.g.x7)) 0 (kDstLen s.g.x7)) 0 ↑(kDstLen s.g.x7) = none ∧
      (s.capture s.g needR (fun (x : ℕ) => true) (capRuns (s.g.read l (kSrc s.g.x7)) 0 (kLen s.g.x7)) = Sum.inl sp) ∧
      (s.capture s.g needW (fun (x : ℕ) => true) (capRuns (s.g.read l (kDst s.g.x7)) 0 (kDstLen s.g.x7)) = Sum.inl dp) ∧
      s.coll s.g.sp.task (kGid s.g.x7) = some c ∧
      (∃ q ∈ c.parts, q.crew = s.g.sp.crew)) ∧
    (∃ (i : Instr) (s : Machine.State) (n : ℕ) (c : Coll),
      s.colls[n]? = some c ∧
      c.closed = false ∧
      s.collHeld c = false ∧
      (i = Instr.collectiveCompletion n ∧ c.np ≤ c.givers.length ∨ i = Instr.collectiveTimeLimit n ∧ c.givers.length < c.np ∧ ∃ p ∈ c.parts, p.deadline ≤ s.clk)) ∧
    (∃ (s : Machine.State),
      s.clear Instr.engFence [] ∧
      s.follower Instr.engFence = true ∧
      s.g.run = Run.ready ∧
      s.quiet false = true ∧
      s.enginesOut s.nextId = false) ∧
    (∃ (s : Machine.State),
      s.clear Instr.engFence [] ∧
      s.follower Instr.engFence = true ∧
      s.g.run = Run.ready ∧
      (s.quiet false = false ∨ s.enginesOut s.nextId = true)) :=
  ⟨⟨8, evqAt, evqPlace true, by and_intros <;> decide +kernel⟩,
    ⟨8, evqOne, evqPlace true, by and_intros <;> decide +kernel⟩,
    ⟨8, evqOne, evqPlace false, by decide +kernel⟩,
    ⟨8, evqAt, evqPlace false, by decide +kernel⟩,
    ⟨8, evqFar, (match evqFar.evqChk false with | .ok p => p | _ => ⟨0, false, none, none, false⟩), by and_intros <;> decide +kernel⟩,
    ⟨8, (evqOne.grp fun g => { g with run := .waiting .evq 990, sent := true }), evqPlace false, by decide +kernel⟩,
    ⟨8, (evqAt.grp fun g => { g with run := .waiting .evq 990, sent := true }), evqPlace false, by decide +kernel⟩,
    ⟨(evqAt.grp fun g => { g with run := .waiting .evq 100, sent := true }), 100, by decide +kernel⟩,
    ⟨8, (evqOne.grp fun g => { g with run := .waiting .evq 990, sent := true, answers := [(0, .ok (num 1))] }), evqPlace false, 0, num 1, [], by decide +kernel⟩,
    ⟨{ evqAt with records := [⟨.copy 0, .queue (localPA 0 0x3000) 1, 5, 0, 1, 1, 0⟩], clk := 70000 }, 0, ⟨.copy 0, .queue (localPA 0 0x3000) 1, 5, 0, 1, 1, 0⟩,
      localPA 0 0x3000, 1, by decide +kernel⟩,
    ⟨colling, colling.lane0, [], colling.collXs 5 needR, colling.collXs 6 needW, by and_intros <;> decide +kernel⟩,
    ⟨({ colling with clk := 800, colls := [coll0 [partner 9 3]] } : State), colling.lane0, [], colling.collXs 5 needR, colling.collXs 6 needW,
      coll0 [partner 9 3], by and_intros <;> decide +kernel⟩,
    ⟨{ colling with colls := [coll0 [partner 1 3]] }, colling.lane0, [], colling.collXs 5 needR, colling.collXs 6 needW, coll0 [partner 1 3], by and_intros <;> decide +kernel⟩,
    ⟨.collectiveCompletion 0, { colling with colls := [coll0 [partner 9 3, { partner 1 4 with die := 0, core := 0 }]] }, 0, coll0 [partner 9 3, { partner 1 4 with die := 0, core := 0 }], by decide +kernel⟩,
    ⟨colling, by decide +kernel⟩,
    ⟨{ colling with colls := [{ coll0 [partner 1 3] with parts := [{ partner 1 3 with gang := 1 }] }] }, by decide +kernel⟩⟩

theorem witness_TaskRecordsAreLaunchedAndPlaced :
    (∃ (a : BitVec 6) (d : BitVec 6) (s : Machine.State) (l : Lane) (rest : List Lane) (ps : List XPage),
      s.clear (Instr.spawn a d) (srcs (Instr.spawn a d)) ∧
      s.follower (Instr.spawn a d) = true ∧
      s.quiet false = true ∧
      s.g.acts = l :: rest ∧
      s.g.banked d = false ∧
      d.toNat < 56 ∧
      spanTrap s.g (s.g.read l a) a [Perm.r] false 16 (capRuns (s.g.read l a) 0 64) 0 64 = none ∧
      (s.capture s.g needR (fun (x : ℕ) => true) (capRuns (s.g.read l a) 0 64) = Sum.inl ps) ∧
      (∀ n ∈ xlines ps (capRuns (s.g.read l a) 0 64), s.ownedAt (n * 64) 64 = false) ∧
      s.xbad s.g.core ps (runAddrs (capRuns (s.g.read l a) 0 64)) = false ∧
      s.g.unwatched) ∧
    (∃ (s : Machine.State) (n : ℕ) (w : Tender) (task : ℕ) (die : ℕ) (c : CrewSpec),
      s.tenders[n]? = some w ∧
      w.stage = Stage.start ∧
      w.who = Placing.share task die ∧
      die < 6 ∧
      s.specOf w.who = some c ∧
      s.pkg.deadDies.getLsbD die = false ∧
      s.unitHeld EngineUnit.scheduler = false) ∧
    (∃ (s : Machine.State) (n : ℕ) (w : Tender),
      s.tenders[n]? = some w ∧
      w.stage = Stage.route ∧
      s.offeredAfter w = false ∧
      w.radius < ringDist w.qx w.qy w.bx w.by_ ∧
      w.left ≠ 0) ∧
    (∃ (s : Machine.State) (n : ℕ) (w : Tender) (c : CrewSpec),
      s.tenders[n]? = some w ∧
      w.stage = Stage.route ∧
      s.offeredAfter w = false ∧
      ringDist w.qx w.qy w.bx w.by_ ≤ w.radius ∧
      w.left ≠ 0 ∧
      s.specOf w.who = some c ∧
      s.firstFit c w.left (quadCores (quadAt w.die w.qx w.qy) c.isG) = none) ∧
    (∃ (s : Machine.State) (n : ℕ) (w : Tender) (c : CrewSpec) (core : ℕ) (f : Fit),
      s.tenders[n]? = some w ∧
      w.stage = Stage.route ∧
      s.offeredAfter w = false ∧
      ringDist w.qx w.qy w.bx w.by_ ≤ w.radius ∧
      w.left ≠ 0 ∧
      s.specOf w.who = some c ∧
      s.firstFit c w.left (quadCores (quadAt w.die w.qx w.qy) c.isG) = some (core, f) ∧
      f.n = w.left) ∧
    (∃ (s : Machine.State) (n : ℕ) (k : ℕ) (pos : ℕ) (x : ℕ) (y : ℕ) (w : Tender),
      s.tenders[n]? = some w ∧
      w.stage = Stage.ring k pos ∧
      s.offeredAfter w = false ∧
      (ringQuads w.bx w.by_ k)[pos]? = some (x, y)) ∧
    (∃ (s : Machine.State) (n : ℕ) (w : Tender),
      s.tenders[n]? = some w ∧
      w.stage ≠ Stage.start ∧
      s.offeredAfter w = true) ∧
    (∃ (s : Machine.State) (quad : ℕ) (e : QEntry),
      s.unitHeld EngineUnit.scheduler = false ∧
      (List.filter (fun (q : QEntry) => q.quad == quad && !q.overflow) s.queues = [e]) ∧
      (List.filter (fun (q : QEntry) => q.quad == quad && q.overflow) s.queues = [])) ∧
    (∃ (s : Machine.State) (quad : ℕ) (n : ℕ) (e : QEntry) (c : ℕ),
      ((serviceOrder (List.filter (fun (q : QEntry) => q.quad == quad && !q.overflow) s.queues))[n]? = some e) ∧
      e.passed = some c ∧
      c + 4096 ≤ s.clk) :=
  ⟨⟨5, 8, (spawning true), (spawning true).lane0, [], (spawning true).collXs 5 needR, by and_intros <;> decide +kernel⟩,
    ⟨({ spawning true with tenders := [walk0 .start 0] } : State), 0, walk0 .start 0, 1, 0, tasked.spec, by decide +kernel, by decide +kernel, by decide +kernel, by decide +kernel, rfl, by decide +kernel⟩,
    ⟨({ spawning true with tenders := [walk0 .route 2] } : State), 0, walk0 .route 2, by decide +kernel⟩,
    ⟨((({ spawning true with tenders := [walk0 .route 1] } : State).mapCore 4 fun c => { c with stopped := true }).mapCore 5 fun c => { c with stopped := true }), 0, walk0 .route 1, tasked.spec, by decide +kernel, rfl, by decide +kernel, by decide +kernel, by decide +kernel, rfl, by decide +kernel⟩,
    ⟨({ spawning true with tenders := [walk0 .route 1] } : State), 0, walk0 .route 1, tasked.spec, 4,
      ({ spawning true with tenders := [walk0 .route 1] } : State).fitAt (.share 1 0) (quadCores (quadAt 0 1 0) false), by decide +kernel, rfl, by decide +kernel, by decide +kernel, by decide +kernel, rfl, by and_intros <;> decide +kernel⟩,
    ⟨({ spawning true with tenders := [walk0 (.ring 1 0) 0] } : State), 0, 1, 0, ((ringQuads 0 0 1).headD (0, 0)).1, ((ringQuads 0 0 1).headD (0, 0)).2, walk0 (.ring 1 0) 0, by decide +kernel⟩,
    ⟨({ spawning true with tasks := [tasked, { tasked with id := 2, addr := 64 }], tenders := [walk0 .route 2, { walk0 .route 2 with who := .share 2 0 }] } : State), 1, { walk0 .route 2 with who := .share 2 0 }, by decide +kernel⟩,
    ⟨({ spawning true with queues := [waiting0 none] } : State), 0, waiting0 none, by decide +kernel⟩,
    ⟨{ crewed with queues := [waiting0 (some 10)], clk := 5000 }, 0, 0, waiting0 (some 10), 10, by decide +kernel⟩⟩

theorem witness_CountersCountDownAndFire :
    (∃ (a : BitVec 6) (s : Machine.State) (l : Lane) (rest : List Lane) (p : Place) (e : ℕ),
      s.clear (Instr.taskCtr a) [a] ∧
      s.follower (Instr.taskCtr a) = true ∧
      s.g.unwatched ∧
      s.scPending = false ∧
      s.g.acts = l :: rest ∧
      BitVec.extractLsb' 1 63 (s.g.xr 2) = 0 ∧
      BitVec.extractLsb' 56 8 (s.g.xr 0) = 0 ∧
      s.counterChk [Perm.w, Perm.a, Perm.m] (s.g.read l a) a = Chk.ok p ∧
      (s.core s.g.core).freeEntry = some e) ∧
    (∃ (a : BitVec 6) (s : Machine.State) (l : Lane) (rest : List Lane) (p : Place) (e : ℕ),
      s.clear (Instr.taskDec a) [a] ∧
      s.follower (Instr.taskDec a) = true ∧
      s.g.unwatched ∧
      s.g.acts = l :: rest ∧
      s.counterChk [Perm.w, Perm.a] (s.g.read l a) a = Chk.ok p ∧
      (s.core s.g.core).freeEntry = some e) ∧
    (∃ (a : BitVec 6) (s : Machine.State) (l : Lane) (rest : List Lane) (p : Place),
      s.clear (Instr.taskDec a) [a] ∧
      s.follower (Instr.taskDec a) = true ∧
      s.g.unwatched ∧
      s.g.acts = l :: rest ∧
      s.counterChk [Perm.w, Perm.a] (s.g.read l a) a = Chk.ok p ∧
      (s.core s.g.core).freeEntry = none) ∧
    (∃ (s : Machine.State) (l : Lane) (rest : List Lane) (n : ℕ) (v : Val) (as : List (ℕ × Answer)),
      s.g.sent = true ∧
      s.g.held = [] ∧
      s.unstepped ∧
      s.g.acts = l :: rest ∧
      s.g.answers = (n, Answer.ok v) :: as) ∧
    (∃ (s : Machine.State) (l : Lane) (rest : List Lane) (n : ℕ) (c : ℕ) (x : Word) (as : List (ℕ × Answer)),
      s.g.sent = true ∧
      s.g.held = [] ∧
      s.unstepped ∧
      s.g.acts = l :: rest ∧
      s.g.answers = (n, Answer.fail c x) :: as) ∧
    (∃ (s : Machine.State) (l : Lane) (rest : List Lane),
      s.g.sent = true ∧
      s.g.held = [] ∧
      s.unstepped ∧
      s.g.acts = l :: rest ∧
      s.g.answers = [] ∧
      (s.decsOf s.g.gid = true ∨ s.decEntry = none ∨ s.quiet false = false)) ∧
    (∃ (a : BitVec 6) (s : Machine.State) (l : Lane) (rest : List Lane) (e : ℕ) (p : Place),
      s.g.sent = true ∧
      s.g.held = [] ∧
      s.unstepped ∧
      s.g.acts = l :: rest ∧
      s.g.answers = [] ∧
      s.decsOf s.g.gid = false ∧
      s.decEntry = some e ∧
      s.quiet false = true ∧
      s.counterChk [Perm.w, Perm.a] (s.g.read l a) a = Chk.ok p) ∧
    (∃ (s : Machine.State) (n : ℕ) (pa : ℕ) (gid : ℕ) (d : Decr) (c : Creator) (k : ℕ),
      s.decs[n]? = some d ∧
      d.result = none ∧
      d.gid = some gid ∧
      d.pa = some pa ∧
      s.decReady n d = true ∧
      s.unreachable (dieOf d.core) (dieOfPA pa) = false ∧
      s.refusal (MemOp.load 1 false false) pa = none ∧
      s.mem.poisoned pa 32 = false ∧
      s.mem.mismatch pa none = false ∧
      (List.find? (fun (c : Creator) => c.pa == pa) s.creators = some c) ∧
      s.mem.nat pa 4 = k + 2) ∧
    (∃ (s : Machine.State) (n : ℕ) (pa : ℕ) (gid : ℕ) (d : Decr) (c : Creator),
      s.decs[n]? = some d ∧
      d.result = none ∧
      d.gid = some gid ∧
      d.pa = some pa ∧
      s.decReady n d = true ∧
      s.unreachable (dieOf d.core) (dieOfPA pa) = false ∧
      s.refusal (MemOp.load 1 false false) pa = none ∧
      s.mem.poisoned pa 32 = false ∧
      s.mem.mismatch pa none = false ∧
      (List.find? (fun (c : Creator) => c.pa == pa) s.creators = some c) ∧
      s.mem.nat pa 4 = 1) ∧
    (∃ (s : Machine.State) (n : ℕ) (pa : ℕ) (gid : ℕ) (d : Decr) (c : Creator),
      s.decs[n]? = some d ∧
      d.result = none ∧
      d.gid = some gid ∧
      d.pa = some pa ∧
      s.decReady n d = true ∧
      s.unreachable (dieOf d.core) (dieOfPA pa) = false ∧
      s.refusal (MemOp.load 1 false false) pa = none ∧
      s.mem.poisoned pa 32 = false ∧
      s.mem.mismatch pa none = false ∧
      (List.find? (fun (c : Creator) => c.pa == pa) s.creators = some c) ∧
      s.mem.nat pa 4 = 0) ∧
    (∃ (s : Machine.State) (d : Decr) (x : Answer),
      (List.find? (fun (d : Decr) => d.gid == some s.g.gid && d.result.isSome) s.decs = some d) ∧
      d.result = some x) ∧
    (∃ (s : Machine.State) (task : ℕ) (core : ℕ) (x : Machine.Task),
      s.task task = some x ∧
      x.done = some core ∧
      s.storesDone task = true ∧
      (x.decided = true ∨ x.killed = true) ∧
      x.await = false) :=
  ⟨⟨5, ((crewed.put 5 (flatCap 0xFF 0x10000 0x1000)).grp fun g => { g with x := #v[0x1000, 3, 0, 0, 0, 0, 0, 0] }), ((crewed.put 5 (flatCap 0xFF 0x10000 0x1000)).grp fun g => { g with x := #v[0x1000, 3, 0, 0, 0, 0, 0, 0] }).lane0, [],
      (match ((crewed.put 5 (flatCap 0xFF 0x10000 0x1000)).grp fun g => { g with x := #v[0x1000, 3, 0, 0, 0, 0, 0, 0] }).counterChk [.w, .a, .m] (flatCap 0xFF 0x10000 0x1000) 5 with | .ok p => p | _ => ⟨0, false, none, none, false⟩),
      ((((crewed.put 5 (flatCap 0xFF 0x10000 0x1000)).grp fun g => { g with x := #v[0x1000, 3, 0, 0, 0, 0, 0, 0] }).core 0).freeEntry.getD 0), by decide +kernel⟩,
    ⟨5, ((crewed.put 5 (flatCap 0xFF 0x10000 0x1000)).grp fun g => { g with x := #v[0x1000, 3, 0, 0, 0, 0, 0, 0] }), (((crewed.put 5 (flatCap 0xFF 0x10000 0x1000)).grp fun g => { g with x := #v[0x1000, 3, 0, 0, 0, 0, 0, 0] })).lane0, [], (match (((crewed.put 5 (flatCap 0xFF 0x10000 0x1000)).grp fun g => { g with x := #v[0x1000, 3, 0, 0, 0, 0, 0, 0] })).counterChk [.w, .a] (flatCap 0xFF 0x10000 0x1000) 5 with | .ok p => p | _ => ⟨0, false, none, none, false⟩), ((((crewed.put 5 (flatCap 0xFF 0x10000 0x1000)).grp fun g => { g with x := #v[0x1000, 3, 0, 0, 0, 0, 0, 0] })).core 0).freeEntry.getD 0, by and_intros <;> decide +kernel⟩,
    ⟨5, ((((crewed.put 5 (flatCap 0xFF 0x10000 0x1000)).grp fun g => { g with x := #v[0x1000, 3, 0, 0, 0, 0, 0, 0] })).mapCore 0 fun c => { c with journal := Vector.replicate 64 (some ⟨0, 0, 0, 1, 0, 0, 0, 3, 0, 9, 0, 0, 0, 0, false⟩) }), (((((crewed.put 5 (flatCap 0xFF 0x10000 0x1000)).grp fun g => { g with x := #v[0x1000, 3, 0, 0, 0, 0, 0, 0] })).mapCore 0 fun c => { c with journal := Vector.replicate 64 (some ⟨0, 0, 0, 1, 0, 0, 0, 3, 0, 9, 0, 0, 0, 0, false⟩) })).lane0, [], (match (((((crewed.put 5 (flatCap 0xFF 0x10000 0x1000)).grp fun g => { g with x := #v[0x1000, 3, 0, 0, 0, 0, 0, 0] })).mapCore 0 fun c => { c with journal := Vector.replicate 64 (some ⟨0, 0, 0, 1, 0, 0, 0, 3, 0, 9, 0, 0, 0, 0, false⟩) })).counterChk [.w, .a] (flatCap 0xFF 0x10000 0x1000) 5 with | .ok p => p | _ => ⟨0, false, none, none, false⟩), by and_intros <;> decide +kernel⟩,
    ⟨(crewed.grp fun g => { g with sent := true, run := .waiting .fence 900, answers := [(0, .ok Val.zero)] }), crewed.lane0, [], 0, Val.zero, [], by decide +kernel⟩,
    ⟨(crewed.grp fun g => { g with sent := true, run := .waiting .fence 900, answers := [(0, .fail 9 7)] }), crewed.lane0, [], 0, 9, 7, [], by decide +kernel⟩,
    ⟨(((crewed.put 5 (flatCap 0xFF 0x10000 0x1000)).grp fun g => { g with x := #v[0x1000, 3, 0, 0, 0, 0, 0, 0] }).grp fun g => { g with sent := true, run := .waiting .fence 900 }), ((((crewed.put 5 (flatCap 0xFF 0x10000 0x1000)).grp fun g => { g with x := #v[0x1000, 3, 0, 0, 0, 0, 0, 0] }).grp fun g => { g with sent := true, run := .waiting .fence 900 })).lane0, [], by and_intros <;> decide +kernel⟩,
    ⟨5, (((((crewed.put 5 (flatCap 0xFF 0x10000 0x1000)).grp fun g => { g with x := #v[0x1000, 3, 0, 0, 0, 0, 0, 0] }).grp fun g => { g with sent := true, run := .waiting .fence 900 })).mapCore 0 fun c => { c with journal := c.journal.set 5 (some ⟨0, 0, 990, 1, 0, 0, 0, 5, decOpc, 1, 1, 1, 0, 0, false⟩) }), ((((((crewed.put 5 (flatCap 0xFF 0x10000 0x1000)).grp fun g => { g with x := #v[0x1000, 3, 0, 0, 0, 0, 0, 0] }).grp fun g => { g with sent := true, run := .waiting .fence 900 })).mapCore 0 fun c => { c with journal := c.journal.set 5 (some ⟨0, 0, 990, 1, 0, 0, 0, 5, decOpc, 1, 1, 1, 0, 0, false⟩) })).lane0, [], 5, (match ((((((crewed.put 5 (flatCap 0xFF 0x10000 0x1000)).grp fun g => { g with x := #v[0x1000, 3, 0, 0, 0, 0, 0, 0] }).grp fun g => { g with sent := true, run := .waiting .fence 900 })).mapCore 0 fun c => { c with journal := c.journal.set 5 (some ⟨0, 0, 990, 1, 0, 0, 0, 5, decOpc, 1, 1, 1, 0, 0, false⟩) })).counterChk [.w, .a] (flatCap 0xFF 0x10000 0x1000) 5 with | .ok p => p | _ => ⟨0, false, none, none, false⟩), by and_intros <;> decide +kernel⟩,
    ⟨counting 3, 0, counterPA, 1, decr0 none, creator0, 1, by and_intros <;> decide +kernel⟩,
    ⟨counting 1, 0, counterPA, 1, decr0 none, creator0, by and_intros <;> decide +kernel⟩,
    ⟨counting 0, 0, counterPA, 1, decr0 none, creator0, by and_intros <;> decide +kernel⟩,
    ⟨{ crewed with decs := [decr0 (some (.ok Val.zero))] }, decr0 (some (.ok Val.zero)), .ok Val.zero, by decide +kernel⟩,
    ⟨({ spawning true with tasks := [{ tasked with done := some 0 }], crews := [] } : State), 1, 0, { tasked with done := some 0 }, by decide +kernel⟩⟩

theorem witness_TheStateStoreAnswersInOrder :
    (∃ (i : Instr) (s : Machine.State) (l : Lane) (rest : List Lane) (ask : SsAsk) (h : Word) (die : ℕ),
      s.clear i (srcs i) ∧
      s.follower i = true ∧
      s.g.acts = l :: rest ∧
      storeRequest s l i = some (ask, h, die) ∧
      die ≤ 5 ∧
      ((List.filter (fun (q : SsReq) => !q.ended) (s.store_ die).reqs).length < 256)) ∧
    (∃ (i : Instr) (wr : Bool) (b : BitVec 6) (a : BitVec 6) (s : Machine.State) (l : Lane) (rest : List Lane) (ps : List XPage),
      (i, wr) ∈ [(Instr.rsRd b a, false), (Instr.rsWr b a, true)] ∧
      s.clear i (srcs i) ∧
      s.follower i = true ∧
      s.g.acts = l :: rest ∧
      xferBad (s.g.xr 0) = false ∧
      (spanTrap s.g (s.g.read l b) b [if wr = true then Perm.r else Perm.w] false 64 (capRuns (s.g.read l b) 0 (xferCount (s.g.xr 0) * 4096)) 0 ↑(xferCount (s.g.xr 0) * 4096) = none) ∧
      (s.capture s.g (if wr = true then needR else needW) isLocalPA (capRuns (s.g.read l b) 0 (xferCount (s.g.xr 0) * 4096)) = Sum.inl ps) ∧
      (∀ r ∈ capRuns (s.g.read l b) 0 (xferCount (s.g.xr 0) * 4096), (xpa ps r.1).isSome = true) ∧
      handleDie (s.g.words l a) ≤ 5 ∧
      ((List.filter (fun (q : SsReq) => !q.ended) (s.store_ (handleDie (s.g.words l a))).reqs).length < 256)) ∧
    (∃ (i : Instr) (s : Machine.State) (l : Lane) (rest : List Lane) (b : BitVec 6) (a : BitVec 6) (d : BitVec 6),
      i ∈ [Instr.rsOpen b a d, Instr.rsRd b a, Instr.rsWr b a, Instr.rsSnap b a, Instr.rsRoll b a, Instr.rsFork b a d, Instr.rsDrop a, Instr.rsPos a d] ∧
      s.g.sent = true ∧
      s.g.acts = l :: rest ∧
      s.g.answers = []) ∧
    (∃ (i : Instr) (s : Machine.State) (l : Lane) (rest : List Lane) (b : BitVec 6) (a : BitVec 6) (d : BitVec 6) (n : ℕ) (c : ℕ) (x : Word) (as : List (ℕ × Answer)),
      i ∈ [Instr.rsOpen b a d, Instr.rsRd b a, Instr.rsWr b a, Instr.rsSnap b a, Instr.rsRoll b a, Instr.rsFork b a d, Instr.rsDrop a, Instr.rsPos a d] ∧
      s.g.sent = true ∧
      s.g.acts = l :: rest ∧
      s.g.answers = (n, Answer.fail c x) :: as) ∧
    (∃ (s : Machine.State) (die : ℕ) (n : ℕ) (r : SsReq) (seq : ℕ) (size : ℕ) (depth : ℕ) (no : ℕ) (ps : List ℕ),
      (s.store_ die).reqs[n]? = some r ∧
      r.ended = false ∧
      s.unitHeld (EngineUnit.store die) = false ∧
      r.accepted = false ∧
      r.ask = SsAsk.open_ seq size depth ∧
      (∀ sl ∈ (s.store_ die).slots, sl.asid = r.asid → sl.seq ≠ seq) ∧
      (s.store_ die).freeSlot = some no ∧
      s.freePages die size = some ps) ∧
    (∃ (s : Machine.State) (die : ℕ) (n : ℕ) (r : SsReq) (sl : Slot),
      (s.store_ die).reqs[n]? = some r ∧
      r.ended = false ∧
      s.unitHeld (EngineUnit.store die) = false ∧
      r.accepted = false ∧
      (match r.ask with   | SsAsk.open_ seq size depth => true   | x => false) =   false ∧
      r.moves = none ∧
      (∀ q ∈ List.take n (s.store_ die).reqs, q.src = r.src → q.handle = r.handle → q.accepted = true) ∧
      (s.store_ die).named r.handle r.asid = some sl ∧
      (∀ q ∈ (s.store_ die).reqs, q.accepted = true → q.ended = false → q.handle = r.handle → q.ask ≠ SsAsk.drop)) ∧
    (∃ (s : Machine.State) (die : ℕ) (n : ℕ) (r : SsReq) (sl : Slot),
      (s.store_ die).reqs[n]? = some r ∧
      r.ended = false ∧
      s.unitHeld (EngineUnit.store die) = false ∧
      r.accepted = true ∧
      r.moves = none ∧
      (s.store_ die).firstOf r = true ∧
      (s.store_ die).named r.handle r.asid = some sl) ∧
    (∃ (s : Machine.State) (u : StoreUnit) (r : SsReq) (x : Answer),
      (List.findSome? (fun (u : StoreUnit) => Option.map (fun (r : SsReq) => (u, r)) (List.find? (fun (r : SsReq) => r.gid == s.g.gid && r.asked && r.answer.isSome) u.reqs)) s.stores = some (u, r)) ∧
      r.answer = some x) ∧
    (∃ (s : Machine.State) (die : ℕ) (slot : ℕ) (first : ℕ) (n : ℕ) (sl : Slot) (r : SsReq),
      (List.find? (fun (x : Slot) => x.no == slot) (s.store_ die).slots = some sl) ∧
      (List.find? (fun (q : SsReq) => q.accepted && !q.ended && q.handle == (s.store_ die).handle slot) (s.store_ die).reqs = some r) ∧
      s.unitHeld (EngineUnit.store die) = false ∧
      r.ask = SsAsk.rd first n) ∧
    (∃ (s : Machine.State) (die : ℕ) (slot : ℕ) (first : ℕ) (n : ℕ) (sl : Slot) (r : SsReq),
      (List.find? (fun (x : Slot) => x.no == slot) (s.store_ die).slots = some sl) ∧
      (List.find? (fun (q : SsReq) => q.accepted && !q.ended && q.handle == (s.store_ die).handle slot) (s.store_ die).reqs = some r) ∧
      s.unitHeld (EngineUnit.store die) = false ∧
      r.ask = SsAsk.wr first n) :=
  ⟨⟨.rsOpen 7 6 8, asking, asking.lane0, [], .open_ 0x10000 3 1, 0, 0, by decide +kernel⟩,
    ⟨.rsRd 5 6, false, 5, 6, asking, asking.lane0, [], asking.localXs needW, by and_intros <;> decide +kernel⟩,
    ⟨.rsRd 7 6, asking.grp fun g => { g with sent := true, run := .waiting .stateStore 900, answers := [] }, asking.lane0, [], 7, 6, 8, by decide +kernel⟩,
    ⟨.rsOpen 7 6 8, asking.grp fun g => { g with sent := true, run := .waiting .stateStore 900, answers := [(0, .fail 9 7)] }, asking.lane0, [], 7, 6, 8, 0, 9, 7, [], by decide +kernel⟩,
    ⟨(asking.stored [] [(ssReq0 (.open_ 7 1 2) false true none)]), 0, 0, (ssReq0 (.open_ 7 1 2) false true none), 7, 1, 2, 0, [poolPage 0 0], by decide +kernel⟩,
    ⟨(asking.stored [slot0] [(ssReq0 (.snap 3) false true none)]), 0, 0, (ssReq0 (.snap 3) false true none), slot0, by and_intros <;> decide +kernel⟩,
    ⟨(asking.stored [slot0] [(ssReq0 (.snap 3) true true none)]), 0, 0, (ssReq0 (.snap 3) true true none), slot0, by decide +kernel⟩,
    ⟨asking.stored [slot0] [{ ssReq0 (.snap 3) true true (some (.ok Val.zero)) with ended := true }], ⟨0, [slot0], [], [{ ssReq0 (.snap 3) true true (some (.ok Val.zero)) with ended := true }]⟩, { ssReq0 (.snap 3) true true (some (.ok Val.zero)) with ended := true }, .ok Val.zero, by decide +kernel⟩,
    ⟨((asking.stored [slot0] [{ ssReq0 (.rd 0 1) true true (some (.ok Val.zero)) with base := asking.g.read asking.lane0 5, pages := asking.localXs needW }]).own 6 (xlines (asking.localXs needW) (capRuns (asking.g.read asking.lane0 5) 0 4096) |>.take 2)), 0, 0, 0, 1, slot0, { ssReq0 (.rd 0 1) true true (some (.ok Val.zero)) with base := asking.g.read asking.lane0 5, pages := asking.localXs needW }, by decide +kernel⟩,
    ⟨(asking.stored [slot0] [{ ssReq0 (.wr 0 1) true true (some (.ok Val.zero)) with base := asking.g.read asking.lane0 5, pages := asking.localXs needR }]), 0, 0, 0, 1, slot0, { ssReq0 (.wr 0 1) true true (some (.ok Val.zero)) with base := asking.g.read asking.lane0 5, pages := asking.localXs needR }, by decide +kernel⟩⟩

theorem witness_ReplicasMigrationAndTruncation :
    (∃ (b : BitVec 6) (a : BitVec 6) (d : BitVec 6) (s : Machine.State) (l : Lane) (rest : List Lane) (r : Replica) (ps : List XPage),
      s.clear (Instr.btPrep b a d) [a, b] ∧
      s.follower (Instr.btPrep b a d) = true ∧
      s.g.acts = l :: rest ∧
      prepBad (s.g.xr 0) (s.g.xr 1) = false ∧
      s.tableOf l a = Sum.inl r ∧
      spanTrap s.g (s.g.read l b) b [Perm.r] false 16 (capRuns (s.g.read l b) 0 (144 * (BitVec.extractLsb' 32 7 (s.g.xr 0)).toNat)) 0 ↑(144 * (BitVec.extractLsb' 32 7 (s.g.xr 0)).toNat) = none ∧
      (s.capture s.g needR (fun (x : ℕ) => true) (capRuns (s.g.read l b) 0 (144 * (BitVec.extractLsb' 32 7 (s.g.xr 0)).toNat)) = Sum.inl ps) ∧
      s.inFlight = false ∧
      s.g.unwatched ∧
      (∀ x ∈ xlines ps (capRuns (s.g.read l b) 0 (144 * (BitVec.extractLsb' 32 7 (s.g.xr 0)).toNat)), s.ownedAt (x * 64) 64 = false) ∧
      (∀ k < (BitVec.extractLsb' 32 7 (s.g.xr 0)).toNat, s.xbad s.g.core ps (runAddrs (capRuns (s.g.read l b) (↑(144 * k)) 144)) = false)) ∧
    (∃ (a : BitVec 6) (d : BitVec 6) (s : Machine.State) (l : Lane) (rest : List Lane) (r : Replica),
      s.clear (Instr.btCommit a d) [a] ∧
      s.follower (Instr.btCommit a d) = true ∧
      s.g.acts = l :: rest ∧
      s.tableOf l a = Sum.inl r ∧
      (s.repState r = 1 ∧ r.issuer = some (s.g.gang, s.g.sp.crew) ∧ r.order = none)) ∧
    (∃ (a : BitVec 6) (d : BitVec 6) (s : Machine.State) (l : Lane) (rest : List Lane) (r : Replica),
      s.clear (Instr.btCommit a d) [a] ∧
      s.follower (Instr.btCommit a d) = true ∧
      s.g.acts = l :: rest ∧
      s.tableOf l a = Sum.inl r ∧
      (¬(s.repState r = 1 ∧ r.issuer = some (s.g.gang, s.g.sp.crew) ∧ r.order = none))) ∧
    (∃ (i : Instr) (s : Machine.State) (l : Lane) (rest : List Lane) (b : BitVec 6) (a : BitVec 6) (d : BitVec 6),
      i ∈ [Instr.btPrep b a d, Instr.btCommit a d, Instr.migrate a d] ∧
      s.g.sent = true ∧
      s.g.held = [] ∧
      s.unstepped ∧
      s.g.acts = l :: rest ∧
      s.g.stream d = none ∧
      s.g.answers = []) ∧
    (∃ (i : Instr) (s : Machine.State) (l : Lane) (rest : List Lane) (b : BitVec 6) (a : BitVec 6) (d : BitVec 6) (n : ℕ) (v : Val) (as : List (ℕ × Answer)),
      i ∈ [Instr.btPrep b a d, Instr.btCommit a d, Instr.migrate a d] ∧
      s.g.sent = true ∧
      s.g.held = [] ∧
      s.unstepped ∧
      s.g.acts = l :: rest ∧
      s.g.stream d = none ∧
      s.g.answers = (n, Answer.ok v) :: as) ∧
    (∃ (s : Machine.State) (die : ℕ) (r : Replica) (o : BtOp),
      die < 8 ∧
      s.replica die = some r ∧
      s.nextList die = some o ∧
      s.pkg.deadDies.getLsbD die = false) ∧
    (∃ (s : Machine.State) (die : ℕ) (r : Replica),
      s.replica die = some r ∧
      r.order = some false) ∧
    (∃ (s : Machine.State) (die : ℕ) (r : Replica),
      die < 8 ∧
      s.replica die = some r ∧
      r.order = some true ∧
      s.awaited r = none) ∧
    (∃ (s : Machine.State) (die : ℕ) (r : Replica),
      die < 8 ∧
      s.replica die = some r ∧
      r.order = some true ∧
      r.phase = 0 ∧
      s.awaited r ≠ none ∧
      s.unitHeld (EngineUnit.collective die) = false ∧
      (∀ x ∈ r.lines r.staged, s.ownedAt (x * 64) 64 = false)) ∧
    (∃ (s : Machine.State) (die : ℕ) (r : Replica),
      die < 8 ∧
      s.replica die = some r ∧
      r.order = some true ∧
      r.phase = 0 ∧
      s.awaited r ≠ none ∧
      (s.unitHeld (EngineUnit.collective die) = true ∨ ∃ x ∈ r.lines r.staged, s.ownedAt (x * 64) 64 = true)) ∧
    (∃ (s : Machine.State) (die : ℕ) (r : Replica),
      die < 8 ∧
      s.replica die = some r ∧
      r.order = some true ∧
      r.phase = 1 ∧
      s.awaited r ≠ none) ∧
    (∃ (s : Machine.State) (die : ℕ) (r : Replica) (o : BtOp),
      die < 8 ∧
      s.replica die = some r ∧
      r.order = some true ∧
      r.phase = 2 ∧
      s.awaited r = some o) ∧
    (∃ (i : Instr) (n : ℕ),
      8 ≤ n ∧
      i ∈ [Instr.replicaStage n, Instr.replicaCommitApply n]) ∧
    (∃ (s : Machine.State) (o : BtOp),
      (List.find? (fun (o : BtOp) => o.gid == s.g.gid && !o.commit) s.btops = some o) ∧
      o.gid = s.g.gid ∧
      (o.nrep ≤ o.answers.length ∨ o.deadline ≤ s.clk)) ∧
    (∃ (s : Machine.State) (o : BtOp),
      (List.find? (fun (o : BtOp) => o.gid == s.g.gid && o.commit) s.btops = some o) ∧
      o.gid = s.g.gid ∧
      o.answers.length = o.nrep) ∧
    (∃ (s : Machine.State) (o : BtOp),
      (List.find? (fun (o : BtOp) => o.gid == s.g.gid && o.commit) s.btops = some o) ∧
      o.gid = s.g.gid ∧
      o.answers.length ≠ o.nrep ∧
      o.deadline ≤ s.clk) ∧
    (∃ (s : Machine.State) (die : ℕ) (src : ℕ) (r : Replica) (c : Replica),
      s.inv ∧
      s.replica die = some r ∧
      s.replica src = some c ∧
      s.repState r = 2 ∧
      s.repState c = 0) ∧
    (∃ (a : BitVec 6) (d : BitVec 6) (s : Machine.State) (l : Lane) (rest : List Lane),
      s.clear (Instr.migrate a d) [a] ∧
      s.follower (Instr.migrate a d) = true ∧
      s.g.isG = false ∧
      s.g.acts = l :: rest ∧
      BitVec.toNat (s.g.words l a) < 2 ^ 13 ∧
      (∀ (c : ℕ), 48 ≤ c → c ≤ 55 → s.g.stream (BitVec.ofNat 6 c) = none) ∧
      (∀ sl ∈ s.g.slices, sl.stack = []) ∧
      (∀ p ∈ s.g.pend, p.discarded = true) ∧
      s.g.syms = [] ∧
      s.quiet false = true ∧
      BitVec.toNat (s.g.words l a) = s.g.core) ∧
    (∃ (a : BitVec 6) (d : BitVec 6) (s : Machine.State) (l : Lane) (rest : List Lane),
      s.clear (Instr.migrate a d) [a] ∧
      s.follower (Instr.migrate a d) = true ∧
      s.g.isG = false ∧
      s.g.acts = l :: rest ∧
      BitVec.toNat (s.g.words l a) < 2 ^ 13 ∧
      (∀ (c : ℕ), 48 ≤ c → c ≤ 55 → s.g.stream (BitVec.ofNat 6 c) = none) ∧
      (∀ sl ∈ s.g.slices, sl.stack = []) ∧
      (∀ p ∈ s.g.pend, p.discarded = true) ∧
      s.g.syms = [] ∧
      s.quiet false = true ∧
      BitVec.toNat (s.g.words l a) ≠ s.g.core) ∧
    (∃ (s : Machine.State) (gid : ℕ) (dest : ℕ) (g : Machine.Group) (code : ℕ),
      s.migrating gid = some dest ∧
      s.group gid = some g ∧
      s.reserve g.sp.task dest = Sum.inr code) ∧
    (∃ (s : Machine.State) (gid : ℕ) (dest : ℕ) (g : Machine.Group) (c : Crew) (n : ℕ) (h : Machine.Group),
      s.migrating gid = some dest ∧
      s.group gid = some g ∧
      s.reserve g.sp.task dest = Sum.inl (c, n) ∧
      (List.find? (fun (h : Machine.Group) => h.sp.crew == c.id) s.all = some h)) ∧
    (∃ (b : BitVec 6) (a : BitVec 6) (d : BitVec 6) (s : Machine.State) (l : Lane) (rest : List Lane) (hp : List XPage) (ps : List XPage),
      s.clear (Instr.ptTrunc b a d) [a, b] ∧
      s.follower (Instr.ptTrunc b a d) = true ∧
      s.g.acts = l :: rest ∧
      s.inFlight = false ∧
      s.owned = [] ∧
      s.g.banked d = false ∧
      d.toNat < 56 ∧
      spanTrap s.g (s.g.read l a) a [Perm.r, Perm.w] false 1 (capRuns (s.g.read l a) 0 64) 0 64 = none ∧
      (s.capture s.g { r := true, w := true, x := false, a := false, cap := false } (fun (x : ℕ) => true) (capRuns (s.g.read l a) 0 64) = Sum.inl hp) ∧
      s.xbad s.g.core hp (runAddrs (capRuns (s.g.read l a) 0 64)) = false ∧
      spanTrap s.g (s.g.read l a) a [Perm.r, Perm.w] false 64 (capRuns (s.g.read l a) 0 (64 + 8 * ptPages (s.mem.xat hp (s.g.read l a) 0 8))) 0 ↑(64 + 8 * ptPages (s.mem.xat hp (s.g.read l a) 0 8)) = none ∧
      ptPer (s.mem.xat hp (s.g.read l a) 0 8) ≠ 0 ∧
      s.mem.xat hp (s.g.read l a) 8 56 = 0 ∧
      BitVec.toNat (s.g.words l b) < 2 ^ 32 ∧
      (s.capture s.g { r := true, w := true, x := false, a := false, cap := false } (fun (x : ℕ) => true) (capRuns (s.g.read l a) 0 (64 + 8 * ptPages (s.mem.xat hp (s.g.read l a) 0 8))) = Sum.inl ps) ∧
      s.g.unwatched ∧
      ptPos (s.mem.xat hp (s.g.read l a) 0 8) ≤ BitVec.toNat (s.g.words l b)) ∧
    (∃ (b : BitVec 6) (a : BitVec 6) (d : BitVec 6) (s : Machine.State) (l : Lane) (rest : List Lane) (hp : List XPage) (ps : List XPage),
      s.clear (Instr.ptTrunc b a d) [a, b] ∧
      s.follower (Instr.ptTrunc b a d) = true ∧
      s.g.acts = l :: rest ∧
      s.inFlight = false ∧
      s.owned = [] ∧
      s.g.banked d = false ∧
      d.toNat < 56 ∧
      spanTrap s.g (s.g.read l a) a [Perm.r, Perm.w] false 1 (capRuns (s.g.read l a) 0 64) 0 64 = none ∧
      (s.capture s.g { r := true, w := true, x := false, a := false, cap := false } (fun (x : ℕ) => true) (capRuns (s.g.read l a) 0 64) = Sum.inl hp) ∧
      s.xbad s.g.core hp (runAddrs (capRuns (s.g.read l a) 0 64)) = false ∧
      spanTrap s.g (s.g.read l a) a [Perm.r, Perm.w] false 64 (capRuns (s.g.read l a) 0 (64 + 8 * ptPages (s.mem.xat hp (s.g.read l a) 0 8))) 0 ↑(64 + 8 * ptPages (s.mem.xat hp (s.g.read l a) 0 8)) = none ∧
      ptPer (s.mem.xat hp (s.g.read l a) 0 8) ≠ 0 ∧
      s.mem.xat hp (s.g.read l a) 8 56 = 0 ∧
      BitVec.toNat (s.g.words l b) < 2 ^ 32 ∧
      (s.capture s.g { r := true, w := true, x := false, a := false, cap := false } (fun (x : ℕ) => true) (capRuns (s.g.read l a) 0 (64 + 8 * ptPages (s.mem.xat hp (s.g.read l a) 0 8))) = Sum.inl ps) ∧
      s.g.unwatched ∧
      BitVec.toNat (s.g.words l b) < ptPos (s.mem.xat hp (s.g.read l a) 0 8) ∧
      (s.core s.g.core).freeCount ≠ 0) :=
  ⟨⟨6, 5, 8, (batching 0 replica0), (batching 0 replica0).lane0, [], replica0, (batching 0 replica0).stagePages, by and_intros <;> decide +kernel⟩,
    ⟨5, 8, (batching 1 (staged0 none 0)), (batching 1 (staged0 none 0)).lane0, [], staged0 none 0, by decide +kernel⟩,
    ⟨5, 8, (batching 0 replica0), (batching 0 replica0).lane0, [], replica0, by decide +kernel⟩,
    ⟨.btPrep 6 5 8, crewed.grp fun g => { g with sent := true, run := .waiting .batch 900, answers := [] }, crewed.lane0, [], 6, 5, 8, by decide +kernel⟩,
    ⟨.btPrep 6 5 8, crewed.grp fun g => { g with sent := true, run := .waiting .batch 900, answers := [(0, .ok (num 4))] }, crewed.lane0, [], 6, 5, 8, 0, num 4, [], by decide +kernel⟩,
    ⟨({ batching 0 replica0 with btops := [btOp0 false []] } : State), 0, replica0, btOp0 false [], by decide +kernel⟩,
    ⟨batching 1 (staged0 (some false) 0), 0, staged0 (some false) 0, by decide +kernel⟩,
    ⟨batching 1 (staged0 (some true) 0), 0, staged0 (some true) 0, by decide +kernel⟩,
    ⟨{ batching 1 (staged0 (some true) 0) with btops := [btOp0 true []] }, 0, staged0 (some true) 0, by decide +kernel⟩,
    ⟨({ batching 1 (staged0 (some true) 0) with btops := [btOp0 true []], records := [⟨.collective 0, .host 0, 0, 900, 1, 1, 0⟩] } : State), 0, staged0 (some true) 0, by decide +kernel⟩,
    ⟨{ batching 1 (staged0 (some true) 1) with btops := [btOp0 true []] }, 0, staged0 (some true) 1, by decide +kernel⟩,
    ⟨{ batching 1 (staged0 (some true) 2) with btops := [btOp0 true []] }, 0, staged0 (some true) 2, btOp0 true [], by decide +kernel⟩,
    ⟨.replicaStage 8, 8, by decide +kernel, by decide +kernel⟩,
    ⟨{ batching 1 (staged0 none 0) with btops := [btOp0 false [(0, true)]] }, btOp0 false [(0, true)], by decide +kernel⟩,
    ⟨{ batching 1 (staged0 none 0) with btops := [btOp0 true [(0, true)]] }, btOp0 true [(0, true)], by decide +kernel⟩,
    ⟨{ batching 1 (staged0 (some true) 0) with btops := [btOp0 true []], clk := 1050 }, btOp0 true [], by decide +kernel⟩,
    ⟨({ batching 2 replica0 with replicas := [replica0, { replica0 with die := 1, pa := replicaPA + 2 ^ 20 }] } : State), 0, 1, replica0, { replica0 with die := 1, pa := replicaPA + 2 ^ 20 }, by decide +kernel⟩,
    ⟨10, 7, (crewed.put 10 (num 0)), (crewed.put 10 (num 0)).lane0, [], by and_intros <;> decide +kernel⟩,
    ⟨10, 7, (crewed.put 10 (num 1)), (crewed.put 10 (num 1)).lane0, [], by and_intros <;> decide +kernel⟩,
    ⟨migrating 1, 1, 1, (migrating 1).g, 2, by decide +kernel⟩,
    ⟨({ migrating 1 with crews := [crew0, crew2], groups := [elsewhere] } : State), 1, 1, (migrating 1).g, crew2, (({ migrating 1 with crews := [crew0, crew2], groups := [elsewhere] } : State).freeSlots 1 false).headD 0, elsewhere, by decide +kernel⟩,
    ⟨6, 5, 8, (paging 45), (paging 45).lane0, [], (paging 45).tablePages 64, (paging 45).tablePages 88, by and_intros <;> decide +kernel⟩,
    ⟨6, 5, 8, paging 32, (paging 32).lane0, [], (paging 32).tablePages 64, (paging 32).tablePages 88, by and_intros <;> decide +kernel⟩⟩

theorem witness_AccessesArePerformedAtTheirHomes :
    (∃ (s : Machine.State) (n : ℕ) (r : Req) (p : Performed),
      s.net[n]? = some r ∧
      s.reqReady n r = true ∧
      r.pkg = none ∧
      s.unreachable (dieOf r.core) (dieOfPA r.pa) = false ∧
      r.op.isFe = false ∧
      r.op ≠ MemOp.evqRd ∧
      s.atHome r.op r.pa r.key = p ∧
      p.refused = none) ∧
    (∃ (s : Machine.State) (n : ℕ) (r : Req) (p : Performed) (reason : BitVec 4) (e : ℕ) (j : JEntry),
      s.net[n]? = some r ∧
      s.reqReady n r = true ∧
      r.pkg = none ∧
      s.unreachable (dieOf r.core) (dieOfPA r.pa) = false ∧
      r.op.isFe = false ∧
      r.op ≠ MemOp.evqRd ∧
      s.atHome r.op r.pa r.key = p ∧
      p.refused = some reason ∧
      r.entry = some e ∧
      (s.core r.core).journal.toList[e]? = some (some j)) ∧
    (∃ (s : Machine.State) (o : ScOp),
      s.scDue = [o] ∧
      16 * o.window + 112 ≤ s.clk ∧
      s.ownedAt o.req.pa o.req.op.size = false ∧
      o.req.pkg = none) ∧
    (∃ (s : Machine.State) (pa : ℕ) (w : FeWait) (rest : List FeWait) (h : Machine.Group),
      feFirst s.mem s.clk pa s.fes = some (w, rest) ∧
      s.group w.gid = some h) ∧
    (∃ (s : Machine.State) (gid : ℕ) (w : FeWait) (h : Machine.Group),
      (List.find? (fun (w : FeWait) => w.gid == gid && decide (w.deadline < s.clk)) s.fes = some w) ∧
      s.group gid = some h) ∧
    (∃ (s : Machine.State) (core : ℕ) (n : ℕ) (e : JEntry),
      (s.core core).journal.toList[n]? = some (some e) ∧
      e.st = 1 ∧
      s.entryAwaited core n = false ∧
      e.reason = 0) ∧
    (∃ (s : Machine.State) (core : ℕ) (n : ℕ) (e : JEntry) (g : Machine.Group),
      (s.core core).journal.toList[n]? = some (some e) ∧
      e.st = 1 ∧
      s.entryAwaited core n = false ∧
      e.reason ≠ 0 ∧
      (List.find? (fun (g : Machine.Group) => g.gid == e.gid) s.all = some g) ∧
      (match g.run with   | Run.parked => true   | Run.stopped true w => true   | x => g.priv != 0 && e.level == 0) =   false) ∧
    (∃ (s : Machine.State) (core : ℕ) (n : ℕ) (e : JEntry) (g : Machine.Group),
      (s.core core).journal.toList[n]? = some (some e) ∧
      e.st = 1 ∧
      s.entryAwaited core n = false ∧
      e.reason ≠ 0 ∧
      (List.find? (fun (g : Machine.Group) => g.gid == e.gid) s.all = some g) ∧
      (match g.run with   | Run.parked => true   | Run.stopped true w => true   | x => g.priv != 0 && e.level == 0) =   true ∧
      s.heldRefusals g < 8) ∧
    (∃ (s : Machine.State) (gid : ℕ) (n : ℕ) (g : Machine.Group),
      s.group gid = some g ∧
      s.nextRefusal g = some n ∧
      s.atBoundary g = true) ∧
    (∃ (s : Machine.State) (gid : ℕ) (g : Machine.Group) (w : Walk) (root : ℕ) (level : ℕ) (pte : Word),
      s.group gid = some g ∧
      (List.find? (fun (w : Walk) => w.serves g) (s.walking (dieOf g.core)) = some w) ∧
      w.stale = false ∧
      mapGet w.asid s.pkg.roots = some root ∧
      (∀ e ∈ s.pointers, e.die = dieOf g.core → e.asid ≠ w.asid) ∧
      walkTable s.mem w.va 4 root = some (level, pte)) ∧
    (∃ (s : Machine.State) (gid : ℕ) (g : Machine.Group) (w : Walk) (root : ℕ),
      s.group gid = some g ∧
      (List.find? (fun (w : Walk) => w.serves g) (s.walking (dieOf g.core)) = some w) ∧
      w.stale = false ∧
      mapGet w.asid s.pkg.roots = some root ∧
      (∀ e ∈ s.pointers, e.die = dieOf g.core → e.asid ≠ w.asid) ∧
      walkTable s.mem w.va 4 root = none) :=
  ⟨⟨({ crewed with net := [write0 (Config.sharedBase + 0x10000)] } : State), 0, (write0 (Config.sharedBase + 0x10000)), ({ crewed with net := [write0 (Config.sharedBase + 0x10000)] } : State).atHome (write0 (Config.sharedBase + 0x10000)).op (write0 (Config.sharedBase + 0x10000)).pa (write0 (Config.sharedBase + 0x10000)).key, by decide +kernel⟩,
    ⟨({ crewed.logged (entry1 1 0) with net := [write0 0], pkg := { crewed.pkg with deadDies := 1 } } : State), 0, (write0 0), ({ crewed.logged (entry1 1 0) with net := [write0 0], pkg := { crewed.pkg with deadDies := 1 } } : State).atHome (write0 0).op (write0 0).pa (write0 0).key, 2, 0, entry1 1 0, by and_intros <;> decide +kernel⟩,
    ⟨{ crewed with scq := [⟨55, 0, 0, 0, 0, write0 (Config.sharedBase + 0x10000)⟩] }, ⟨55, 0, 0, 0, 0, write0 (Config.sharedBase + 0x10000)⟩, by decide +kernel⟩,
    ⟨({ crewed with clk := 800, fes := [fe0] } : State), localPA 0 0x2000, fe0, [], crewed.g, by decide +kernel⟩,
    ⟨({ crewed with fes := [fe0] } : State), 1, fe0, crewed.g, by decide +kernel⟩,
    ⟨crewed.logged (entry1 1 0), 0, 0, entry1 1 0, by decide +kernel⟩,
    ⟨crewed.logged (entry1 1 3), 0, 0, entry1 1 3, crewed.g, by decide +kernel⟩,
    ⟨(crewed.atLevel 1).logged (entry1 1 3), 0, 0, entry1 1 3, (crewed.atLevel 1).g, by decide +kernel⟩,
    ⟨crewed.logged (entry1 2 3), 1, 0, crewed.g, by decide +kernel⟩,
    ⟨({ tables with walks := [walk1 (2 ^ 37)] } : State), 1, tables.g, walk1 (2 ^ 37), 0x100000, 2, 0xDB, by decide +kernel⟩,
    ⟨({ tables with walks := [walk1 (2 ^ 36)] } : State), 1, tables.g, walk1 (2 ^ 36), 0x100000, by decide +kernel⟩⟩

theorem witness_LateValuesReachTheirHolders :
    (∃ (s : State) (gid : ℕ) (pool : ℕ) (id : ℕ) (g : Machine.Group) (y : Machine.Sym),
      s.group gid = some g ∧
      (List.find? (fun (y : Machine.Sym) => y.slice == pool && y.id.toNat == id) g.syms = some y) ∧
      (∀ n ∈ y.want, ∃ p ∈ y.got, p.1 = n) ∧
      y.mtag = none) ∧
    (∃ (s : State) (gid : ℕ) (g : Machine.Group) (p : Pend) (long : Bool),
      s.group gid = some g ∧
      (List.find? (fun (p : Pend) => p.long == long) g.pend = some p) ∧
      p.due ≤ s.clk ∧
      p.discarded = false ∧
      p.banked = false ∧
      p.dst ≠ 0 ∧
      p.dst.toNat < 56) ∧
    (∃ (s : State) (gid : ℕ) (g : Machine.Group) (p : Pend) (long : Bool),
      s.group gid = some g ∧
      (List.find? (fun (p : Pend) => p.long == long) g.pend = some p) ∧
      p.due ≤ s.clk ∧
      p.discarded = false ∧
      p.banked = false ∧
      p.dst ≠ 0 ∧
      p.dst.toNat < 56) ∧
    (∃ (s : State) (gid : ℕ) (lane : ℕ) (reg : ℕ) (va : ℕ) (g : Machine.Group),
      (gid, lane, reg) ∈ s.misses ∧
      s.group gid = some g ∧
      g.slotVA lane reg = some va ∧
      1 ≤ reg ∧
      reg < 56) ∧
    (∃ (i : Instr) (s : State) (gid : ℕ) (g : Machine.Group) (w : Armed) (x : Wait) (c : ℕ),
      w ∈ s.armed ∧
      w.gid = gid ∧
      s.group gid = some g ∧
      g.run = Run.waiting x c ∧
      (i = Instr.waitWake gid ∧ w.hit = true ∨ i = Instr.waitTimeLimit gid ∧ w.hit = false ∧ w.deadline ≤ s.clk)) ∧
    (∃ (i : Instr) (s : State) (gid : ℕ) (g : Machine.Group) (w : Armed) (x : Wait) (c : ℕ),
      w ∈ s.armed ∧
      w.gid = gid ∧
      s.group gid = some g ∧
      g.run = Run.waiting x c ∧
      (i = Instr.waitWake gid ∧ w.hit = true ∨ i = Instr.waitTimeLimit gid ∧ w.hit = false ∧ w.deadline ≤ s.clk)) :=
  ⟨⟨((crewed.put 8 ⟨0, .sym ⟨5, none, .pure⟩⟩).grp fun g => { g with syms := [⟨0, 5, [0], [(0, num 9)], none, 900, false⟩] }), 1, 0, 5, ((crewed.put 8 ⟨0, .sym ⟨5, none, .pure⟩⟩).grp fun g => { g with syms := [⟨0, 5, [0], [(0, num 9)], none, 900, false⟩] }).g, ⟨0, 5, [0], [(0, num 9)], none, 900, false⟩, by decide +kernel⟩,
    ⟨(crewed.grp fun g => { g with pend := [⟨950, false, 8, false, [(0, num 9)], [], [], false, false⟩] }), 1, (crewed.grp fun g => { g with pend := [⟨950, false, 8, false, [(0, num 9)], [], [], false, false⟩] }).g, ⟨950, false, 8, false, [(0, num 9)], [], [], false, false⟩, false, by decide +kernel⟩,
    ⟨(crewed.grp fun g => { g with pend := [⟨950, true, 8, false, [(0, num 9)], [], [], false, false⟩] }), 1, (crewed.grp fun g => { g with pend := [⟨950, true, 8, false, [(0, num 9)], [], [], false, false⟩] }).g, ⟨950, true, 8, false, [(0, num 9)], [], [], false, false⟩, true, by decide +kernel⟩,
    ⟨({ tables.put 8 ⟨0, .absent⟩ with misses := [(1, 0, 8)] } : State), 1, 0, 8, (({ tables.put 8 ⟨0, .absent⟩ with misses := [(1, 0, 8)] } : State).g.slotVA 0 8).get!, ({ tables.put 8 ⟨0, .absent⟩ with misses := [(1, 0, 8)] } : State).g, by decide +kernel⟩,
    ⟨.waitWake 1, ({ crewed.grp (fun g => { g with run := .waiting .watch 800 }) with armed := [⟨1, [(localPA 0 0x2000, 8)], 900, true⟩] } : State), 1, ({ crewed.grp (fun g => { g with run := .waiting .watch 800 }) with armed := [⟨1, [(localPA 0 0x2000, 8)], 900, true⟩] } : State).g, ⟨1, [(localPA 0 0x2000, 8)], 900, true⟩, .watch, 800, by decide +kernel⟩,
    ⟨.waitTimeLimit 1, ({ crewed.grp (fun g => { g with run := .waiting .watch 800 }) with armed := [⟨1, [(localPA 0 0x2000, 8)], 900, false⟩] } : State), 1, ({ crewed.grp (fun g => { g with run := .waiting .watch 800 }) with armed := [⟨1, [(localPA 0 0x2000, 8)], 900, false⟩] } : State).g, ⟨1, [(localPA 0 0x2000, 8)], 900, false⟩, .watch, 800, by decide +kernel⟩⟩

theorem witness_EventsReachTheirGroups :
    (∃ (s : Machine.State) (gid : ℕ) (e : SysEvent) (c : Crew),
      (List.find? (fun (e : SysEvent) => e.gid == gid) s.sys = some e) ∧
      (({ s with sys := s.sys.erase e } : State).rouse e.core).crew e.crew = some c) ∧
    (∃ (s : Machine.State) (gid : ℕ) (e : SysEvent),
      (List.find? (fun (e : SysEvent) => e.gid == gid) s.sys = some e) ∧
      (({ s with sys := s.sys.erase e } : State).rouse e.core).crew e.crew = none ∧
      e.code = 63) ∧
    (∃ (s : Machine.State) (gid : ℕ) (g : Machine.Group),
      (List.find? (fun (e : SysEvent) => e.gid == gid) s.sys = none) ∧
      s.group gid = some g ∧
      s.stopAsked g = true ∧
      s.canStop g = true) ∧
    (∃ (s : Machine.State) (gid : ℕ) (g : Machine.Group) (sl : Slice),
      s.group gid = some g ∧
      g.run = Run.ready ∧
      g.slices = [sl] ∧
      sl.stack = []) ∧
    (∃ (s : Machine.State) (gid : ℕ) (g : Machine.Group) (sl : Slice) (e : StackEntry) (rest : List StackEntry),
      s.group gid = some g ∧
      g.run = Run.ready ∧
      g.slices = [sl] ∧
      sl.stack = e :: rest ∧
      e.isJoin = false ∧
      s.midRun g = false ∧
      (∀ l ∈ g.lanes, l.no / 4 = sl.idx) ∧
      ((g.lanes.any fun (l : Lane) => l.live && e.lmask.getLsbD (l.no % 4)) = true)) ∧
    (∃ (s : Machine.State) (gid : ℕ) (c : ℕ) (g : Machine.Group),
      s.group gid = some g ∧
      g.run = Run.waiting Wait.icache c) ∧
    (∃ (s : Machine.State) (crew : ℕ) (k : ℕ) (c : Crew) (g : Machine.Group),
      s.crew crew = some c ∧
      c.wdog = 0 ∧
      c.reload ≠ 0 ∧
      s.longestWaiting crew = some (g, k)) ∧
    (∃ (s : Machine.State) (gid : ℕ) (p : ℕ) (g : Machine.Group) (sl : Slice),
      s.group gid = some g ∧
      g.slices = [sl] ∧
      sl.period = some p ∧
      sl.sampled + p ≤ s.clk) :=
  ⟨⟨{ crewed with sys := [⟨0, 1, 1, 0, 9, 7⟩] }, 1, ⟨0, 1, 1, 0, 9, 7⟩, crew0, by decide +kernel⟩,
    ⟨{ crewed with sys := [⟨0, 9, 1, 0, 0x3F, 7⟩] }, 1, ⟨0, 9, 1, 0, 0x3F, 7⟩, by decide +kernel⟩,
    ⟨(({ crewed with crews := [{ crew0 with preempt := true }] } : State).atLevel 4), 1, (({ crewed with crews := [{ crew0 with preempt := true }] } : State).atLevel 4).g, by decide +kernel⟩,
    ⟨gangAt, 1, gangAt.g, gangAt.slice0, by decide +kernel⟩,
    ⟨(gangAt.stacked [pathHere]), 1, (gangAt.stacked [pathHere]).g, (gangAt.stacked [pathHere]).slice0, pathHere, [], by decide +kernel⟩,
    ⟨(crewed.grp fun g => { g with run := .waiting .icache 900 }), 1, 900, (crewed.grp fun g => { g with run := .waiting .icache 900 }).g, by decide +kernel⟩,
    ⟨({ crewed.grp (fun g => { g with run := .waiting (.sem 3) 900 }) with crews := [{ crew0 with reload := 50 }] } : State), 1, 1, { crew0 with reload := 50 }, ({ crewed.grp (fun g => { g with run := .waiting (.sem 3) 900 }) with crews := [{ crew0 with reload := 50 }] } : State).g, by decide +kernel⟩,
    ⟨({ (strandAt.grp fun g => { g with slices := g.slices.map fun sl => { sl with psamp := BitVec.ofNat 64 (2 ^ 62 + 2 ^ 63 + 100) } }).grp (fun g => { g with lastIssue := 999 }) with clk := 1000 } : State), 1, 100, ({ (strandAt.grp fun g => { g with slices := g.slices.map fun sl => { sl with psamp := BitVec.ofNat 64 (2 ^ 62 + 2 ^ 63 + 100) } }).grp (fun g => { g with lastIssue := 999 }) with clk := 1000 } : State).g, ({ (strandAt.grp fun g => { g with slices := g.slices.map fun sl => { sl with psamp := BitVec.ofNat 64 (2 ^ 62 + 2 ^ 63 + 100) } }).grp (fun g => { g with lastIssue := 999 }) with clk := 1000 } : State).slice0, by decide +kernel⟩⟩

theorem witness_CrewsAreSavedAndRestored :
    (∃ (s : Machine.State) (crew : ℕ) (c : Crew),
      s.crew crew = some c ∧
      c.preempt = true ∧
      c.saved = false ∧
      c.switching = 0 ∧
      (∀ g ∈ s.crewGroups crew, g.isStopped = true) ∧
      s.drained crew = true ∧
      (s.core c.core).redirects.length < 16 ∧
      (∀ o ∈ s.groups, o.gid ≠ s.g.gid)) ∧
    (∃ (s : Machine.State) (crew : ℕ) (idx : ℕ) (rest : List (ℕ × ℕ)) (c : Crew) (g : Machine.Group),
      s.crew crew = some c ∧
      s.membersOf crew = (g.gid, idx) :: rest ∧
      s.group g.gid = some g ∧
      (c.switching = 1 ∨ c.switching = 2) ∧
      (∀ h ∈ s.all, h.sp.crew = crew → h.switchStep = 0) ∧
      g.sp.tvec.tag = Tag.cap ∧
      capHas g.sp.tvec.bits Perm.x = true) ∧
    (∃ (s : Machine.State) (crew : ℕ) (core : ℕ) (lo : ℕ) (slots : List ℕ) (c : Crew),
      s.crew crew = some c ∧
      c.saved = true ∧
      c.switching = 0 ∧
      s.areasValid c = true ∧
      s.restoreFit c core = some (slots, lo) ∧
      (∀ o ∈ s.groups, o.gid ≠ s.g.gid)) :=
  ⟨⟨({ (tables.grp fun g => { g with run := .stopped false none, slices := savedMember.slices }) with crews := [{ crew0 with preempt := true }] } : State), 1, { crew0 with preempt := true }, by decide +kernel⟩,
    ⟨({ (tables.handled) with crews := [{ crew0 with switching := 2 }] } : State), 1, 0, [], { crew0 with switching := 2 }, ({ (tables.handled) with crews := [{ crew0 with switching := 2 }] } : State).g, by decide +kernel⟩,
    ⟨inPool, 1, 1, ((inPool.restoreFit { crew0 with saved := true } 1).get!).2, ((inPool.restoreFit { crew0 with saved := true } 1).get!).1, { crew0 with saved := true }, by decide +kernel⟩⟩

theorem witness_FlitsAreCheckedAndDelivered :
    (∃ (die : ℕ),
      die < 6) ∧
    (∃ (s : Machine.State) (port : ℕ) (f : Flit) (e : BitVec 32),
      port < 32 ∧
      port ∉ s.pkg.fabric.down ∧
      flitCrc f ^^^ e ≠ f.lcrc ∧
      (∀ h ∈ s.pkg.fabric.held, flitPair h.2 = flitPair f → h.2.seq % 2 ^ 32 ≠ f.seq % 2 ^ 32) ∧
      (List.lookup (port, flitPair f, f.seq % 2 ^ 32) s.pkg.fabric.fails).getD 0 + 1 < 16) ∧
    (∃ (s : Machine.State) (port : ℕ) (f : Flit) (e : BitVec 32),
      port < 32 ∧
      port ∉ s.pkg.fabric.down ∧
      flitCrc f ^^^ e ≠ f.lcrc ∧
      (∀ h ∈ s.pkg.fabric.held, flitPair h.2 = flitPair f → h.2.seq % 2 ^ 32 ≠ f.seq % 2 ^ 32) ∧
      16 ≤ (List.lookup (port, flitPair f, f.seq % 2 ^ 32) s.pkg.fabric.fails).getD 0 + 1 ∧
      (∀ h ∈ s.pkg.fabric.held, h.1 ≠ port)) ∧
    (∃ (s : Machine.State) (port : ℕ) (f : Flit) (e : BitVec 32),
      port < 32 ∧
      port ∉ s.pkg.fabric.down ∧
      f.dpkg = s.pkg.pod ∧
      s.pkg.fabric.held = [] ∧
      flitCrc f ^^^ e = f.lcrc ∧
      f.seq % 2 ^ 32 ≠ s.pkg.fabric.want (flitPair f)) ∧
    (∃ (s : Machine.State) (port : ℕ) (f : Flit) (e : BitVec 32),
      port < 32 ∧
      port ∉ s.pkg.fabric.down ∧
      f.dpkg = s.pkg.pod ∧
      s.pkg.fabric.held = [] ∧
      flitCrc f ^^^ e = f.lcrc ∧
      f.seq % 2 ^ 32 = s.pkg.fabric.want (flitPair f) ∧
      f.kind = 0 ∧
      s.ownedAt (f.addr.toNat / 64 * 64) 64 = false ∧
      s.scDueAt (homeOf f.addr.toNat) = false ∧
      s.refusalFrom (portDie port) (MemOp.load 64 false false) (f.addr.toNat / 64 * 64) = none ∧
      s.mem.poisoned (f.addr.toNat / 64 * 64) 64 = false ∧
      s.mem.mismatch (f.addr.toNat / 64 * 64) none = false ∧
      (s.routeTo f.spkg).isSome = true) ∧
    (∃ (s : Machine.State) (port : ℕ) (f : Flit) (e : BitVec 32),
      port < 32 ∧
      port ∉ s.pkg.fabric.down ∧
      f.dpkg = s.pkg.pod ∧
      s.pkg.fabric.held = [] ∧
      flitCrc f ^^^ e = f.lcrc ∧
      f.seq % 2 ^ 32 = s.pkg.fabric.want (flitPair f) ∧
      f.kind = 2 ∧
      s.inv ∧
      s.ownedAt (f.addr.toNat / 64 * 64) 64 = false ∧
      s.scDueAt (homeOf f.addr.toNat) = false ∧
      s.refusalFrom (portDie port) MemOp.zero (f.addr.toNat / 64 * 64) = none ∧
      s.mem.poisoned (f.addr.toNat / 64 * 64) 64 = false ∧
      s.mem.mismatch (f.addr.toNat / 64 * 64) none = false ∧
      (s.routeTo f.spkg).isSome = true) ∧
    (∃ (s : Machine.State) (port : ℕ) (f : Flit) (e : BitVec 32) (n : ℕ) (r : Req),
      port < 32 ∧
      port ∉ s.pkg.fabric.down ∧
      f.dpkg = s.pkg.pod ∧
      s.pkg.fabric.held = [] ∧
      flitCrc f ^^^ e = f.lcrc ∧
      f.seq % 2 ^ 32 = s.pkg.fabric.want (flitPair f) ∧
      f.kind = 1 ∧
      s.outstanding f = some (n, r)) :=
  ⟨⟨3, by decide +kernel⟩,
    ⟨linked, 1, flit0 0, 4, by and_intros <;> decide +kernel⟩,
    ⟨{ linked with pkg := { linked.pkg with fabric := { linked.pkg.fabric with fails := [((1, flitPair (flit0 0), 0), 15)] } } }, 1, flit0 0, 4, by and_intros <;> decide +kernel⟩,
    ⟨linked, 1, { flit0 0 with seq := 2, lcrc := flitCrc { flit0 0 with seq := 2 } }, 0, by and_intros <;> decide +kernel⟩,
    ⟨linked, 1, flit0 0, 0, by and_intros <;> decide +kernel⟩,
    ⟨linked, 1, flit0 2, 0, by and_intros <;> decide +kernel⟩,
    ⟨{ linked with net := [awaitedReq] }, 1, flit0 1, 0, 0, awaitedReq, by and_intros <;> decide +kernel⟩⟩

theorem witness_TimeSlotsAndLaunchesAreDecided :
    (∃ (s : Machine.State) (c : ℕ),
      s.pkg.time.state = TimeState.locking ∧
      s.pkg.time.good = some c ∧
      c + 15040000000 ≤ s.clk) ∧
    (∃ (s : Machine.State),
      (s.pkg.time.state = TimeState.locked ∨ s.pkg.time.state = TimeState.locking) ∧
      s.pkg.time.heard + 7520000000 ≤ s.clk) ∧
    (∃ (s : Machine.State) (n : ℕ) (l : Light) (c : Ctx),
      (List.find? (fun (l : Light) => l.no == n) s.pkg.lights = some l) ∧
      l.armed = true ∧
      ↑l.next ≤ s.nanos ∧
      s.ctx l.ctx = some c ∧
      (l.out = 0 ∨ l.rule = 1 ∧ l.out < 4)) ∧
    (∃ (s : Machine.State) (n : ℕ) (l : Light) (c : Ctx),
      (List.find? (fun (l : Light) => l.no == n) s.pkg.lights = some l) ∧
      l.armed = true ∧
      ↑l.next ≤ s.nanos ∧
      s.ctx l.ctx = some c ∧
      l.out ≠ 0 ∧
      (l.rule = 0 ∨ 4 ≤ l.out)) ∧
    (∃ (s : Machine.State) (task : ℕ) (x : Machine.Task) (add : BitVec 6) (drop : BitVec 6),
      s.task task = some x ∧
      x.change = none ∧
      x.aborted = false ∧
      s.changeFits x add drop = true ∧
      s.allHold task = false) ∧
    (∃ (s : Machine.State) (task : ℕ) (x : Machine.Task) (a : BitVec 6) (d : BitVec 6),
      s.task task = some x ∧
      x.change = some (a, d) ∧
      s.allHold task = true) ∧
    (∃ (s : Machine.State) (task : ℕ) (die : ℕ) (x : Machine.Task),
      s.task task = some x ∧
      x.decided = false ∧
      x.aborted = false ∧
      die < 6 ∧
      (∀ w ∈ s.tenders, w.who ≠ Placing.share task die) ∧
      x.asked.getLsbD die = true ∧
      x.refused.getLsbD die = false ∧
      s.pkg.deadDies.getLsbD die = false ∧
      s.clk < x.start + 8192 ∧
      (x.acked ||| BitVec.ofNat 6 (2 ^ die) ||| x.refused) &&& x.asked ≠ x.asked) ∧
    (∃ (s : Machine.State) (task : ℕ) (die : ℕ) (x : Machine.Task),
      s.task task = some x ∧
      x.decided = false ∧
      x.aborted = false ∧
      die < 6 ∧
      (∀ w ∈ s.tenders, w.who ≠ Placing.share task die) ∧
      x.asked.getLsbD die = true ∧
      x.refused.getLsbD die = false ∧
      s.pkg.deadDies.getLsbD die = false ∧
      s.clk < x.start + 8192 ∧
      (x.acked ||| BitVec.ofNat 6 (2 ^ die) ||| x.refused) &&& x.asked = x.asked ∧
      x.record.dmin ≤ countBits (x.acked ||| BitVec.ofNat 6 (2 ^ die)) ∧
      x.await = false) ∧
    (∃ (s : Machine.State) (task : ℕ) (x : Machine.Task),
      s.task task = some x ∧
      x.decided = false ∧
      x.aborted = false ∧
      x.start + 8192 ≤ s.clk ∧
      x.record.dmin ≤ countBits x.acked ∧
      x.await = false) ∧
    (∃ (s : Machine.State) (task : ℕ) (x : Machine.Task) (y : Machine.Task),
      s.task task = some x ∧
      x.decided = false ∧
      x.aborted = false ∧
      x.start + 8192 ≤ s.clk ∧
      countBits x.acked < x.record.dmin ∧
      y ∈ (s.abortTask task).tasks ∧
      y.id = task) ∧
    (∃ (s : Machine.State) (task : ℕ) (x : Machine.Task) (w : Tender),
      s.task task = some x ∧
      x.decided = false ∧
      x.aborted = false ∧
      x.start + 8192 ≤ s.clk ∧
      countBits x.acked < x.record.dmin ∧
      w ∈ (s.abortTask task).tenders) ∧
    (∃ (f : LaunchFlit),
      f.word = LaunchWord.acknowledge) ∧
    (∃ (s : Machine.State) (f : LaunchFlit) (x : Machine.Task) (n : ℕ),
      f.word = LaunchWord.go ∧
      s.tasks = [x] ∧
      x.await = true ∧
      x.group = f.group ∧
      x.light = some (n, f.slot) ∧
      s.taskOver x.id = false ∧
      s.barriers = []) ∧
    (∃ (s : Machine.State) (f : LaunchFlit) (x : Machine.Task) (n : ℕ),
      f.word = LaunchWord.abort ∧
      s.tasks = [x] ∧
      x.await = true ∧
      x.group = f.group ∧
      x.light = some (n, f.slot)) ∧
    (∃ (s : Machine.State) (n : ℕ) (l : Light) (x : LightSlot),
      (List.find? (fun (l : Light) => l.no == n) s.pkg.lights = some l) ∧
      (List.find? (fun (x : LightSlot) => x.coord == s.pkg.pod.toNat && decide (x.clk + 65536 ≤ s.clk)) l.slots = some x)) ∧
    (∃ (s : Machine.State) (n : ℕ) (x : Machine.Task),
      (List.find? (fun (t : Machine.Task) => t.await && !t.aborted && Option.map (fun (x : ℕ × ℕ) => x.1) t.light == some n && decide (t.start + 131072 ≤ s.clk)) s.tasks = some x)) :=
  ⟨⟨timed .locking, 5, by decide +kernel⟩,
    ⟨timed .locked, by decide +kernel⟩,
    ⟨(lit (light0 0 0 0 0 []) tasked), 4, light0 0 0 0 0 [], ctx1, by decide +kernel⟩,
    ⟨(lit (light0 1 0 0 0 []) tasked), 4, light0 1 0 0 0 [], ctx1, by decide +kernel⟩,
    ⟨lit (light0 0 0 0 0 []) ({ shared0 with dies := 1, record := ⟨BitVec.ofNat 256 (recFields + 2 ^ 84), Val.zero, codeAt⟩ }), 1, { shared0 with dies := 1, record := ⟨BitVec.ofNat 256 (recFields + 2 ^ 84), Val.zero, codeAt⟩ }, 2, 0, by decide +kernel⟩,
    ⟨(lit (light0 0 0 0 0 []) ({ tasked with change := some (2, 0) })).grp (fun g => { g with run := .waiting .stepHold 900 }), 1, { tasked with change := some (2, 0) }, 2, 0, by decide +kernel⟩,
    ⟨lit (light0 0 0 0 0 []) shared0, 1, 0, shared0, by and_intros <;> decide +kernel⟩,
    ⟨lit (light0 0 0 0 0 []) ({ shared0 with acked := 2 }), 1, 0, { shared0 with acked := 2 }, by and_intros <;> decide +kernel⟩,
    ⟨{ lit (light0 0 0 0 0 []) ({ shared0 with acked := 2 }) with clk := 9000 }, 1, { shared0 with acked := 2 }, by decide +kernel⟩,
    ⟨({ lit (light0 0 0 0 0 []) shared0 with clk := 9000 } : State), 1, shared0, (({ lit (light0 0 0 0 0 []) shared0 with clk := 9000 } : State).abortTask 1).tasks.headD shared0, by decide +kernel⟩,
    ⟨({ lit (light0 0 0 0 0 []) shared0 with clk := 9000, tenders := [⟨.share 9 0, 0, 0, 0, 0, 0, 1, 1, 0, .route⟩] } : State), 1, shared0, (({ lit (light0 0 0 0 0 []) shared0 with clk := 9000, tenders := [⟨.share 9 0, 0, 0, 0, 0, 0, 1, 1, 0, .route⟩] } : State).abortTask 1).tenders.headD ⟨.share 9 0, 0, 0, 0, 0, 0, 1, 1, 0, .route⟩, by decide +kernel⟩,
    ⟨⟨.acknowledge, 9, 900, 3, 0⟩, by decide +kernel⟩,
    ⟨lit (light0 1 0 1 0 [⟨900, 10, 1, 1, 1, 0, 9, 0⟩]) ({ tasked with await := true, light := some (4, 900), group := 9 }), ⟨.go, 9, 900, 3, 0⟩, { tasked with await := true, light := some (4, 900), group := 9 }, 4, by and_intros <;> decide +kernel⟩,
    ⟨lit (light0 1 0 1 0 [⟨900, 10, 1, 1, 1, 0, 9, 0⟩]) ({ tasked with await := true, light := some (4, 900), group := 9 }), ⟨.abort, 9, 900, 3, 0⟩, { tasked with await := true, light := some (4, 900), group := 9 }, 4, by decide +kernel⟩,
    ⟨{ lit (light0 1 0 1 1 [⟨900, 10, 1, 1, 1, 0, 9, 0⟩]) ({ tasked with await := true, light := some (4, 900) }) with clk := 70000 }, 4, light0 1 0 1 1 [⟨900, 10, 1, 1, 1, 0, 9, 0⟩], ⟨900, 10, 1, 1, 1, 0, 9, 0⟩, by and_intros <;> decide +kernel⟩,
    ⟨{ lit (light0 1 0 1 1 [⟨900, 10, 1, 1, 1, 0, 9, 0⟩]) ({ tasked with await := true, light := some (4, 900) }) with clk := 140000 }, 4, { tasked with await := true, light := some (4, 900) }, by decide +kernel⟩⟩

theorem witness_HostCommandsAreServed :
    (∃ (s : Machine.State) (tag : BitVec 32) (fn : ℕ),
      s.served fn 1 [] tag = true) ∧
    (∃ (s : Machine.State) (tag : BitVec 32) (fn : ℕ) (p : List Byte) (f : PcieFn),
      s.served fn 10 p tag = true ∧
      p.length = 8 ∧
      zeroAt p 4 4 = true ∧
      1 ≤ field p 0 4 ∧
      field p 0 4 ≤ 127 ∧
      (List.find? (fun (f : PcieFn) => f.no == fn) s.pkg.functions = some f)) ∧
    (∃ (s : Machine.State) (tag : BitVec 32) (fn : ℕ) (p : List Byte),
      s.served fn 11 p tag = true ∧
      p.length = 32) ∧
    (∃ (s : Machine.State) (tag : BitVec 32) (p : List Byte),
      s.served 0 12 p tag = true ∧
      p.length = 8 ∧
      zeroAt p 4 4 = true ∧
      400 ≤ field p 0 4 ∧
      field p 0 4 ≤ 2400) ∧
    (∃ (s : Machine.State) (tag : BitVec 32) (fn : ℕ) (p : List Byte),
      s.served fn 13 p tag = true ∧
      p.length = 8 ∧
      zeroAt p 1 7 = true ∧
      field p 0 1 ≤ 15 ∧
      (fn = 0 ∨ field p 0 1 = fn)) ∧
    (∃ (s : Machine.State) (tag : BitVec 32) (p : List Byte) (c : Ctx) (entry : Val) (arg : Val) (tvec : Val),
      s.served 0 8 p tag = true ∧
      p.length = 200 ∧
      zeroAt p 2 6 = true ∧
      field p 0 2 < 512 ∧
      (lightOf p entry arg tvec c.id).field 0 256 = 0 ∧
      (lightOf p entry arg tvec c.id).field 1152 128 = 0 ∧
      (lightOf p entry arg tvec c.id).field 872 24 = 0 ∧
      (lightOf p entry arg tvec c.id).field 640 15 = 0 ∧
      (lightOf p entry arg tvec c.id).rule ≠ 3 ∧
      (lightOf p entry arg tvec c.id).pmin ≤ (lightOf p entry arg tvec c.id).npkg ∧
      ((lightOf p entry arg tvec c.id).period = 0 ∨ 10000 ≤ (lightOf p entry arg tvec c.id).period) ∧
      (s.slotDue (field p 0 2)).descriptor 0 (slice p 8 32) ((lightOf p entry arg tvec c.id).image.getLsbD 256) = Sum.inr (c, entry, arg, tvec) ∧
      (lightOf p entry arg tvec c.id).record.code c.event = 0) ∧
    (∃ (s : Machine.State) (tag : BitVec 32) (p : List Byte) (c : Ctx) (entry : Val) (arg : Val) (tvec : Val),
      s.served 0 8 p tag = true ∧
      p.length = 200 ∧
      zeroAt p 2 6 = true ∧
      field p 0 2 < 512 ∧
      (lightOf p entry arg tvec c.id).field 0 256 = 0 ∧
      (lightOf p entry arg tvec c.id).field 1152 128 = 0 ∧
      (lightOf p entry arg tvec c.id).field 872 24 = 0 ∧
      (lightOf p entry arg tvec c.id).field 640 15 = 0 ∧
      (lightOf p entry arg tvec c.id).rule ≠ 3 ∧
      (lightOf p entry arg tvec c.id).pmin ≤ (lightOf p entry arg tvec c.id).npkg ∧
      ((lightOf p entry arg tvec c.id).period = 0 ∨ 10000 ≤ (lightOf p entry arg tvec c.id).period) ∧
      (s.slotDue (field p 0 2)).descriptor 0 (slice p 8 32) ((lightOf p entry arg tvec c.id).image.getLsbD 256) = Sum.inr (c, entry, arg, tvec) ∧
      (lightOf p entry arg tvec c.id).record.code c.event ≠ 0) ∧
    (∃ (s : Machine.State) (tag : BitVec 32) (fn : ℕ) (p : List Byte) (c : Ctx) (entry : Val) (arg : Val) (tvec : Val),
      s.served fn 9 p tag = true ∧
      p.length = 96 ∧
      zeroAt p 32 32 = true ∧
      s.descriptor fn (slice p 0 32) ((recordOf p entry arg).fields.getLsbD 0) = Sum.inr (c, entry, arg, tvec) ∧
      (recordOf p entry arg).code c.event = 0) ∧
    (∃ (s : Machine.State) (tag : BitVec 32) (fn : ℕ) (p : List Byte) (c : Ctx) (entry : Val) (arg : Val) (tvec : Val),
      s.served fn 9 p tag = true ∧
      p.length = 96 ∧
      zeroAt p 32 32 = true ∧
      s.descriptor fn (slice p 0 32) ((recordOf p entry arg).fields.getLsbD 0) = Sum.inr (c, entry, arg, tvec) ∧
      (recordOf p entry arg).code c.event ≠ 0) ∧
    (∃ (s : Machine.State) (task : ℕ) (x : Machine.Task) (f : PcieFn) (q : Submission),
      s.task task = some x ∧
      (List.find? (fun (f : PcieFn) => f.waiting == some task) s.pkg.functions = some f) ∧
      f.busy = some q ∧
      x.aborted = false ∧
      (x.answered = true ∨ x.decided = true)) ∧
    (∃ (s : Machine.State) (task : ℕ) (x : Machine.Task) (f : PcieFn) (q : Submission),
      s.task task = some x ∧
      (List.find? (fun (f : PcieFn) => f.waiting == some task) s.pkg.functions = some f) ∧
      f.busy = some q ∧
      x.aborted = true) ∧
    (∃ (s : Machine.State) (tag : BitVec 32) (fn : ℕ) (code : BitVec 16) (p : List Byte),
      s.served fn code p tag = true ∧
      paramSize code.toNat ≠ some p.length) :=
  ⟨⟨commanded 1 [], 7, 0, by decide +kernel⟩,
    ⟨commanded 10 (natBytes 8 1), 7, 0, natBytes 8 1, { PcieFn.reset 0 with busy := some ⟨10, natBytes 8 1, 7⟩, go := true, events := [5, 6], dropped := 2 }, by decide +kernel⟩,
    ⟨commanded 11 (natBytes 32 9), 7, 0, natBytes 32 9, by decide +kernel⟩,
    ⟨commanded 12 (natBytes 8 1000), 7, natBytes 8 1000, by decide +kernel⟩,
    ⟨commanded 13 (natBytes 8 0), 7, 0, natBytes 8 0, by decide +kernel⟩,
    ⟨commanded 8 (lightAt recFields), 7, lightAt recFields, ctx2, hostEntry, hostArg, Val.zero, by and_intros <;> decide +kernel⟩,
    ⟨commanded 8 (lightAt 0), 7, lightAt 0, ctx2, hostEntry, hostArg, Val.zero, by and_intros <;> decide +kernel⟩,
    ⟨commanded 9 (launchAt recFields), 7, 0, launchAt recFields, ctx2, hostEntry, hostArg, Val.zero, by decide +kernel⟩,
    ⟨commanded 9 (launchAt 0), 7, 0, launchAt 0, ctx2, hostEntry, hostArg, Val.zero, by decide +kernel⟩,
    ⟨({ commanded 9 [] with tasks := [{ tasked with reply := true }], pkg := { (commanded 9 []).pkg with functions := [{ PcieFn.reset 0 with busy := some ⟨9, [], 7⟩, go := true, waiting := some 1 }] } } : State), 1, { tasked with reply := true }, { PcieFn.reset 0 with busy := some ⟨9, [], 7⟩, go := true, waiting := some 1 }, ⟨9, [], 7⟩, by decide +kernel⟩,
    ⟨({ commanded 9 [] with tasks := [{ tasked with reply := true, aborted := true, status := 0x202 }], pkg := { (commanded 9 []).pkg with functions := [{ PcieFn.reset 0 with busy := some ⟨9, [], 7⟩, go := true, waiting := some 1 }] } } : State), 1, { tasked with reply := true, aborted := true, status := 0x202 }, { PcieFn.reset 0 with busy := some ⟨9, [], 7⟩, go := true, waiting := some 1 }, ⟨9, [], 7⟩, by decide +kernel⟩,
    ⟨commanded 14 [], 7, 0, 14, [], by decide +kernel⟩⟩

theorem witness_ContextsMappingsKeysAndObjects :
    (∃ (s : Machine.State) (tag : BitVec 32) (fn : ℕ) (p : List Byte) (id : ℕ) (asid : ℕ) (base : ℕ),
      s.served fn 3 p tag = true ∧
      p.length = 32 ∧
      field p 0 8 % 2 ^ 32 = 0 ∧
      field p 8 8 % 2 ^ 35 = 0 ∧
      field p 0 8 < 2 ^ 56 ∧
      field p 8 8 < 2 ^ 56 ∧
      ((if field p 16 4 = 0 then 8192 else field p 16 4) % 32 = 0) ∧
      (1024 ≤ if field p 16 4 = 0 then 8192 else field p 16 4) ∧
      ((if field p 16 4 = 0 then 8192 else field p 16 4) ≤ 1048576) ∧
      (field p 20 4 = 0 ∨ field p 20 4 = 1040) ∧
      ((if field p 24 8 = 0 then 67108864 else field p 24 8) % 65536 = 0) ∧
      (leastFree (List.map (fun (x : Ctx) => x.id) s.pkg.contexts) 65535 1 = some id) ∧
      (leastFree (List.map (fun (x : ℕ × ℕ) => x.1) s.pkg.roots) 65535 1 = some asid) ∧
      (poolBase (field p 0 8) (field p 8 8) (if field p 24 8 = 0 then 67108864 else field p 24 8) = some base)) ∧
    (∃ (s : Machine.State) (tag : BitVec 32) (fn : ℕ) (p : List Byte) (c : Ctx),
      s.served fn 4 p tag = true ∧
      p.length = 8 ∧
      zeroAt p 2 6 = true ∧
      s.ownCtx fn (field p 0 2) = some c) ∧
    (∃ (s : Machine.State) (tag : BitVec 32) (fn : ℕ) (p : List Byte) (c : Ctx),
      s.served fn 5 p tag = true ∧
      p.length = 32 ∧
      s.ownCtx fn (field p 0 2) = some c ∧
      zeroAt p 10 6 = true ∧
      field p 2 1 = 2 ∧
      field p 3 1 = 0 ∧
      1 ≤ field p 4 2 ∧
      field p 4 2 ≤ 1024 ∧
      field p 7 1 < 128 ∧
      field p 8 2 = 0 ∧
      field p 24 8 % 4096 = 0 ∧
      field p 24 8 + field p 4 2 * 4096 < 2 ^ 64 ∧
      field p 24 8 ≠ 2 ^ 64 - 1 ∧
      field p 16 8 + field p 4 2 ≤ 1048576 ∧
      (∀ k < field p 4 2, List.lookup (field p 16 8 + k) c.aperture = none)) ∧
    (∃ (s : Machine.State) (tag : BitVec 32) (fn : ℕ) (p : List Byte) (c : Ctx),
      s.served fn 6 p tag = true ∧
      p.length = 16 ∧
      zeroAt p 2 2 = true ∧
      s.ownCtx fn (field p 0 2) = some c ∧
      (∀ m ∈ c.maps, m.1 ≠ field p 8 8) ∧
      (∀ k < field p 4 4, (List.lookup (field p 8 8 + k) c.aperture).isSome = true)) ∧
    (∃ (s : Machine.State) (tag : BitVec 32) (fn : ℕ) (p : List Byte) (c : Ctx) (m : ℕ × ℕ × Bool),
      s.served fn 6 p tag = true ∧
      p.length = 16 ∧
      zeroAt p 2 2 = true ∧
      s.ownCtx fn (field p 0 2) = some c ∧
      (List.find? (fun (m : ℕ × ℕ × Bool) => m.1 == field p 8 8) c.maps = some m) ∧
      field p 4 4 = 1 ∧
      s.ctx c.id = some c) ∧
    (∃ (s : Machine.State) (tag : BitVec 32) (fn : ℕ) (p : List Byte) (c : Ctx) (k : ℕ),
      s.served fn 7 p tag = true ∧
      p.length = 72 ∧
      zeroAt p 3 5 = true ∧
      s.ownCtx fn (field p 0 2) = some c ∧
      field p 2 1 = 0 ∧
      leastFree s.pkg.keys 8192 0 = some k) ∧
    (∃ (s : Machine.State) (tag : BitVec 32) (fn : ℕ) (p : List Byte) (c : Ctx),
      s.served fn 7 p tag = true ∧
      p.length = 72 ∧
      zeroAt p 3 5 = true ∧
      s.ownCtx fn (field p 0 2) = some c ∧
      field p 2 1 = 1 ∧
      zeroAt p 10 62 = true ∧
      field p 8 2 ∈ c.keys) ∧
    (∃ (s : Machine.State) (tag : BitVec 32) (fn : ℕ) (p : List Byte) (c : Ctx),
      s.served fn 2 p tag = true ∧
      p.length = 32 ∧
      zeroAt p 2 6 = true ∧
      field p 8 8 % 4096 = 0 ∧
      field p 24 8 % 65536 = 0 ∧
      s.ownCtx fn (field p 0 2) = some c ∧
      (∀ k ∈ upFrom (field p 8 8 / 4096) ((field p 16 8 + 4095) / 4096), (List.lookup k c.aperture).isSome = true) ∧
      (objectCode (List.map (fun (a : ℕ) => cellGet (c.hostAddr a) s.pkg.hostMem) (upFrom (field p 8 8) (field p 16 8))) ≠ 0)) :=
  ⟨⟨commanded 3 createAt, 7, 0, createAt, 2, 1, 65536, by decide +kernel⟩,
    ⟨commanded 4 (natBytes 8 1), 7, 0, natBytes 8 1, ctx2, by decide +kernel⟩,
    ⟨commanded 5 (mapAt 2 2 5 0x9000), 7, 0, (mapAt 2 2 5 0x9000), ctx2, by and_intros <;> decide +kernel⟩,
    ⟨commanded 6 (natBytes 4 1 ++ natBytes 4 1 ++ natBytes 8 0), 7, 0, (natBytes 4 1 ++ natBytes 4 1 ++ natBytes 8 0), ctx2, by decide +kernel⟩,
    ⟨mapping 6 (natBytes 4 1 ++ natBytes 4 1 ++ natBytes 8 (2 ^ 37)), 7, 0, (natBytes 4 1 ++ natBytes 4 1 ++ natBytes 8 (2 ^ 37)), { ctx2 with maps := [(2 ^ 37, 2 ^ 36, false)] }, (2 ^ 37, 2 ^ 36, false), by decide +kernel⟩,
    ⟨commanded 7 (natBytes 8 1 ++ natBytes 64 99), 7, 0, (natBytes 8 1 ++ natBytes 64 99), ctx2, 0, by decide +kernel⟩,
    ⟨commanded 7 (natBytes 8 0x10001 ++ natBytes 64 3), 7, 0, (natBytes 8 0x10001 ++ natBytes 64 3), ctx2, by decide +kernel⟩,
    ⟨objected (natBytes 32 1), 7, 0, (natBytes 32 1), ctx2, by decide +kernel⟩⟩

theorem witness_HostLinkPowerAndLampPort :
    (∃ (s : Machine.State) (fn : ℕ) (off : ℕ),
      s.reachable fn = true ∧
      off = 4096) ∧
    (∃ (s : Machine.State) (fn : ℕ) (off : ℕ),
      s.reachable fn = true ∧
      off = 8192 ∧
      fn = 0) ∧
    (∃ (s : Machine.State) (fn : ℕ) (off : ℕ) (v : Word) (f : PcieFn),
      s.reachable fn = true ∧
      off = 0 ∧
      v = 1 ∧
      (s.pkg.functions = [f]) ∧
      f.no = fn ∧
      f.busy = none) ∧
    (∃ (s : Machine.State) (fn : ℕ) (off : ℕ) (f : PcieFn),
      (List.find? (fun (f : PcieFn) => f.no == fn) s.pkg.functions = some f) ∧
      s.reachable fn = true ∧
      off < 2 ^ 36 ∧
      s.windowCtx f = none) ∧
    (∃ (s : Machine.State) (fn : ℕ) (off : ℕ) (size : ℕ) (f : PcieFn) (c : Ctx) (ps : List (ℕ × Option ℕ)),
      (List.find? (fun (f : PcieFn) => f.no == fn) s.pkg.functions = some f) ∧
      s.reachable fn = true ∧
      off < 2 ^ 36 ∧
      s.windowCtx f = some c ∧
      s.hostPlaces c (windowAddr f off) size false = some ps ∧
      (∀ p ∈ ps, s.refusal (MemOp.load 1 false false) p.1 = none ∧ s.mem.poisoned p.1 1 = false ∧ mapGet (p.1 / 64) s.mem.checks = none ∧ Config.ddrSize ≤ p.1)) ∧
    (∃ (s : Machine.State) (fn : ℕ) (off : ℕ) (f : PcieFn) (c : Ctx) (b : BitVec 8) (p : ℕ),
      (List.find? (fun (f : PcieFn) => f.no == fn) s.pkg.functions = some f) ∧
      s.reachable fn = true ∧
      off < 2 ^ 36 ∧
      s.windowCtx f = some c ∧
      s.hostPlaces c (windowAddr f off) 1 true = some [(p, none)] ∧
      s.refusal (MemOp.store 1 (BitVec.setWidth 128 b) false) p = none ∧
      s.mem.poisoned p 1 = false ∧
      mapGet (p / 64) s.mem.checks = none ∧
      Config.ddrSize ≤ p) ∧
    (∃ (s : Machine.State) (fn : ℕ) (f : PcieFn),
      s.reachable fn = true ∧
      (f ∈ (s.resetFn fn).pkg.functions) ∧
      f.no = fn) ∧
    (∃ (s : Machine.State) (fn : ℕ) (c : Ctx),
      s.reachable fn = true ∧
      c ∈ (s.resetFn fn).pkg.contexts) ∧
    (∃ (s : Machine.State) (vfs : ℕ),
      s.pkg.firmware.booted = true ∧
      vfs ≤ 15) ∧
    (∃ (s : Machine.State),
      s.pkg.firmware.booted = false) ∧
    (∃ (s : Machine.State) (die : ℕ) (b : LampBuf),
      (List.find? (fun (b : LampBuf) => b.die == die) s.pkg.lamp.bufs = some b) ∧
      3 ≤ b.recs.length) ∧
    (∃ (s : Machine.State) (die : ℕ) (b : LampBuf),
      s.timeDue die = true ∧
      (List.find? (fun (b : LampBuf) => b.die == die) s.pkg.lamp.bufs = some b) ∧
      b.recs.length < 256) :=
  ⟨⟨hosted, 0, 0x1000, by decide +kernel⟩,
    ⟨hosted, 0, 0x2000, by decide +kernel⟩,
    ⟨hosted, 0, 0, 1, PcieFn.reset 0, by decide +kernel⟩,
    ⟨hosted, 0, 8, PcieFn.reset 0, by decide +kernel⟩,
    ⟨windowed, 0, 0x20010000, 2, windowFn, ctx2, ((windowed.hostPlaces ctx2 (windowAddr windowFn 0x20010000) 2 false).getD []), by decide +kernel⟩,
    ⟨windowed, 0, 0x20010000, windowFn, ctx2, 77, (((windowed.hostPlaces ctx2 (windowAddr windowFn 0x20010000) 1 true).getD []).headD (0, none)).1, by decide +kernel⟩,
    ⟨windowed, 0, (windowed.resetFn 0).pkg.functions.headD windowFn, by decide +kernel⟩,
    ⟨{ windowed with pkg := { windowed.pkg with contexts := [{ ctx2 with fn := 1 }] } }, 0,
      (({ windowed with pkg := { windowed.pkg with contexts := [{ ctx2 with fn := 1 }] } } : State).resetFn 0).pkg.contexts.headD ctx2, by decide +kernel⟩,
    ⟨hosted, 3, by decide +kernel⟩,
    ⟨crewed, by decide +kernel⟩,
    ⟨lamped 0 2, 1, ⟨1, [5, 6, 7], 2, 0⟩, by decide +kernel⟩,
    ⟨lamped 2000000 0, 1, ⟨1, [5, 6, 7], 0, 0⟩, by decide +kernel⟩⟩

theorem witness_BarrierAndStateStoreFormsComplete :
    (∃ (s : Machine.State) (n : BitVec 4) (sc : BitVec 3),
      s.clear (Instr.barArrive n sc) [] ∧
      s.follower (Instr.barArrive n sc) = true ∧
      s.quiet false = true ∧
      n.toNat < s.barLimit (s.g.barKey sc.toNat n.toNat false) ∧
      (∃ p ∈ s.g.parts, p ∉ (s.barrier (s.g.barKey sc.toNat n.toNat false)).arrived)) ∧
    (∃ (s : Machine.State) (n : BitVec 4) (sc : BitVec 3),
      s.clear (Instr.bar n sc) [] ∧
      s.follower (Instr.bar n sc) = true ∧
      s.quiet false = true ∧
      n.toNat < s.barLimit (s.g.barKey sc.toNat n.toNat false) ∧
      (∃ p ∈ s.g.parts, p ∉ (s.barrier (s.g.barKey sc.toNat n.toNat false)).arrived) ∧
      s.g.arrival (s.g.barKey sc.toNat n.toNat false) = none ∧
      (∀ h ∈ s.members (s.g.barKey sc.toNat n.toNat false), ∀ p ∈ h.parts, p ∈ (s.barrier (s.g.barKey sc.toNat n.toNat false)).arrived ∨ p ∈ s.g.parts) ∧
      s.joining (s.g.barKey sc.toNat n.toNat false) = false ∧
      ¬s.awaitsPackages (s.barrier (s.g.barKey sc.toNat n.toNat false))) ∧
    (∃ (s : Machine.State) (n : BitVec 4) (sc : BitVec 3) (x : Arrival),
      s.clear (Instr.bar n sc) [] ∧
      s.g.arrival (s.g.barKey sc.toNat n.toNat false) = some x ∧
      x.at_ = some s.g.pc ∧
      x.gen < (s.barrier (s.g.barKey sc.toNat n.toNat false)).gen) ∧
    (∃ (s : Machine.State) (b : BitVec 6) (a : BitVec 6) (d : BitVec 6) (l : Lane) (rest : List Lane),
      s.clear (Instr.barMax b a d) [a, b] ∧
      s.g.acts = l :: rest ∧
      (BitVec.extractLsb' 0 3 (s.g.words l b)).toNat ≤ 4 ∧
      s.follower (Instr.barMax b a d) = true ∧
      s.quiet false = true ∧
      (s.g.barKey (BitVec.extractLsb' 0 3 (s.g.words l b)).toNat (BitVec.extractLsb' 3 4 (s.g.words l b)).toNat true).id < s.barLimit (s.g.barKey (BitVec.extractLsb' 0 3 (s.g.words l b)).toNat (BitVec.extractLsb' 3 4 (s.g.words l b)).toNat true) ∧
      (∃ p ∈ s.g.parts, p ∉ (s.barrier (s.g.barKey (BitVec.extractLsb' 0 3 (s.g.words l b)).toNat (BitVec.extractLsb' 3 4 (s.g.words l b)).toNat true)).arrived) ∧
      s.g.arrival (s.g.barKey (BitVec.extractLsb' 0 3 (s.g.words l b)).toNat (BitVec.extractLsb' 3 4 (s.g.words l b)).toNat true) = none ∧
      (∀ h ∈ s.members (s.g.barKey (BitVec.extractLsb' 0 3 (s.g.words l b)).toNat (BitVec.extractLsb' 3 4 (s.g.words l b)).toNat true), ∀ p ∈ h.parts, p ∈ (s.barrier (s.g.barKey (BitVec.extractLsb' 0 3 (s.g.words l b)).toNat (BitVec.extractLsb' 3 4 (s.g.words l b)).toNat true)).arrived ∨ p ∈ s.g.parts) ∧
      s.joining (s.g.barKey (BitVec.extractLsb' 0 3 (s.g.words l b)).toNat (BitVec.extractLsb' 3 4 (s.g.words l b)).toNat true) = false ∧
      ¬s.awaitsPackages (s.barrier (s.g.barKey (BitVec.extractLsb' 0 3 (s.g.words l b)).toNat (BitVec.extractLsb' 3 4 (s.g.words l b)).toNat true))) ∧
    (∃ (s : Machine.State) (b : BitVec 6) (a : BitVec 6) (d : BitVec 6) (l : Lane) (rest : List Lane) (x : Arrival),
      s.clear (Instr.barMax b a d) [a, b] ∧
      s.g.acts = l :: rest ∧
      (BitVec.extractLsb' 0 3 (s.g.words l b)).toNat ≤ 4 ∧
      s.g.arrival (s.g.barKey (BitVec.extractLsb' 0 3 (s.g.words l b)).toNat (BitVec.extractLsb' 3 4 (s.g.words l b)).toNat true) = some x ∧
      x.at_ = some s.g.pc ∧
      x.gen < (s.barrier (s.g.barKey (BitVec.extractLsb' 0 3 (s.g.words l b)).toNat (BitVec.extractLsb' 3 4 (s.g.words l b)).toNat true)).gen) ∧
    (∃ (s : Machine.State) (l : Lane) (rest : List Lane) (n : ℕ) (v : Val) (as : List (ℕ × Answer)) (d : BitVec 6),
      s.g.sent = true ∧
      s.g.held = [] ∧
      s.unstepped ∧
      s.g.acts = l :: rest ∧
      s.g.answers = (n, Answer.ok v) :: as ∧
      s.g.stream d = none) :=
  ⟨⟨crewed, 2, 1, by decide +kernel⟩,
    ⟨crewed, 2, 1, by and_intros <;> first | exact fun h => absurd h.1 (by decide +kernel) | decide +kernel⟩,
    ⟨(crewed.withBarrier []).arrivedAt 3 (some crewed.g.pc), 2, 1, ⟨crewed.g.barKey 1 2 false, 3, some crewed.g.pc⟩, by decide +kernel⟩,
    ⟨((crewed.put 6 (num 7)).put 7 (num 17)), 7, 6, 8, ((crewed.put 6 (num 7)).put 7 (num 17)).lane0, [], by and_intros <;> decide +kernel⟩,
    ⟨(((crewed.put 6 (num 7)).put 7 (num 17)).setBarrier ⟨(((crewed.put 6 (num 7)).put 7 (num 17)).g.barKey 1 2 true), 4, [], [], 0, [], false⟩).grp fun g => { g with arrivals := [⟨(((crewed.put 6 (num 7)).put 7 (num 17)).g.barKey 1 2 true), 3, some g.pc⟩] }, 7, 6, 8, ((crewed.put 6 (num 7)).put 7 (num 17)).lane0, [], ⟨(((crewed.put 6 (num 7)).put 7 (num 17)).g.barKey 1 2 true), 3, some crewed.g.pc⟩, by and_intros <;> decide +kernel⟩,
    ⟨asking.grp fun g => { g with sent := true, run := .waiting .stateStore 900, answers := [(0, .ok (num 4))] }, asking.lane0, [], 0, num 4, [], 8, by decide +kernel⟩⟩

theorem witness_ResetLeavesTheStatedValues :
    (∃ (die : ℕ) (slot : ℕ),
      die < 6 ∧
      slot < 8192) :=
  ⟨5, 8191, by decide +kernel⟩

/-! ### Ill-formed instructions: one for each check (a latch or no register written, a width, formats, a rounding, the numbers of extension,
mask and shared registers, semaphores, full/empty values, fences, streams, tiles, banks, special registers, barriers, post-indexed bases, and a
branch to itself) -/

theorem test_ill_formed_terms_are_refused :
    Instr.wf (.add 1 2 false 56 false) = false ∧
    Instr.wf (.add 1 2 true 6 false) = false ∧
    Instr.wf (.fma 1 2 false 60 1 false) = false ∧
    Instr.wf (.sext 3 5 false 6 false) = false ∧
    Instr.wf (.fcvtFf 1 5 false 6 1 false) = false ∧
    Instr.wf (.fcvtFi 5 0 5 false 6 1 false) = false ∧
    Instr.wf (.xput 5 8) = false ∧
    Instr.wf (.mAnd 8 1 2) = false ∧
    Instr.wf (.semP 16) = false ∧
    Instr.wf (.sregWr 8 5) = false ∧
    Instr.wf (.feSet 2 5 false) = false ∧
    Instr.wf (.fence 5) = false ∧
    Instr.wf (.agDrain 47) = false ∧
    Instr.wf (.mma 16) = false ∧
    Instr.wf (.mmaWait 17) = false ∧
    Instr.wf (.mskLd 5 4) = false ∧
    Instr.wf (.srRd 36 7) = false ∧
    Instr.wf (.bar 0 5) = false ∧
    Instr.wf (.ld64 1 true 5 5 false) = false ∧
    Instr.wf (.st64 1 true 56 5 false) = false ∧
    Instr.wf (.bZ 0 5) = false := by decide +kernel

/-! ### Words of the spec -/

theorem test_decode_int :
    decode32 0x0C20C001 = some (.add 3 2 false 6 false) ∧
    decode32 0xE780E001 = some (.add 57 56 false 7 false) := by decide +kernel

theorem test_decode_imm :
    decode32 0x01388045 = some (.shli 4 56 true 0 false) ∧
    decode32 0x00781005 = some (.addi 1 56 false 8 false) ∧
    decode32 0xFF790E05 = some (.addi 1021 57 false 7 false) := by decide +kernel

theorem test_decode_mem :
    decode32 0x00224769 = some (.ld64 1 false 9 7 false) ∧
    decode32 0x000138B9 = some (.st64 0 false 4 56 false) ∧
    decode32 0x00324749 = some (.ldI32 1 true 9 7 false) := by decide +kernel

theorem test_decode_float :
    decode32 0x0F8928D1 = some (.fma 3 56 true 9 1 false) ∧
    decode32 0x04610D61 = some (.fcvtFf 1 6 false 8 2 false) := by decide +kernel

theorem test_decode_branch :
    decode32 0xFF0600C5 = some (.bNe 1020 6 0 false) ∧
    decode32 0xFFFFFE0D = some (.j 33554428) ∧
    decode32 0xFFFFFE1D = some (.call 33554428) := by decide +kernel

theorem test_decode_lane :
    decode32 0x000010F1 = some .join ∧
    decode32 0x00001101 = some .regang ∧
    decode32 0x00611091 = some (.redAddF32 6 8) := by decide +kernel

theorem test_decode_sync :
    decode32 0x04400135 = some (.bar 2 1) ∧
    decode32 0x00301401 = some (.semP 3) ∧
    decode32 0x04701431 = some (.sregWr 1 7) ∧
    decode32 0x02A01461 = some (.ringWait true 1 2) ∧
    decode32 0x55401151 = some (.gcall 21 20) := by decide +kernel

theorem test_decode_fe :
    decode32 0x00C0F601 = some (.ldFe 12 7 false) ∧
    decode32 0x1CC01621 = some (.stEf 7 12 false) ∧
    decode32 0x00201881 = some (.fence 2) ∧
    decode32 0x1890B7B1 = some (.amoCas 6 9 5 true false) := by decide +kernel

theorem test_decode_msg :
    decode32 0x55401981 = some (.send 21 20 false) ∧
    decode32 0x0060B9A1 = some (.recv 6 5 false) ∧
    decode32 0x27001901 = some (.agBind 9 48) := by decide +kernel

theorem test_decode_oxr :
    decode32 0x00706651 = some (.xput 7 3) ∧
    decode32 0x0030E661 = some (.xget 3 7) ∧
    decode32 0x0400002D = some (.xset 65536 0) := by decide +kernel

theorem test_decode_cap :
    decode32 0x28912461 = some (.cbound 10 9 false 9 false) := by decide +kernel

theorem test_decode_matrix :
    decode32 0x00301A41 = some (.accZero 3) ∧
    decode32 0x00301A01 = some (.mma 3) ∧
    decode32 0x00301A31 = some (.mmaWait 3) ∧
    decode32 0x50301A61 = some (.accSt 20 3) := by decide +kernel

theorem test_decode_quant :
    decode32 0x1850AE21 = some (.qmax 6 5 5 false) ∧
    decode32 0x0050EE31 = some (.qscale 5 7 false) ∧
    decode32 0x1C610E41 = some (.quant 7 6 8 false) ∧
    decode32 0x1C812E51 = some (.dequant 7 8 9 false) ∧
    decode32 0x1850EE61 = some (.salient 6 5 7 false) := by decide +kernel

theorem test_decode_task :
    decode32 0x00901C21 = some (.taskCtr 9) ∧
    decode32 0x00901C11 = some (.taskDec 9) := by decide +kernel

theorem test_decode_store :
    decode32 0x18513E01 = some (.rsOpen 6 5 9) ∧
    decode32 0x30901E11 = some (.rsRd 12 9) ∧
    decode32 0x30901E21 = some (.rsWr 12 9) ∧
    decode32 0x28901E31 = some (.rsSnap 10 9) ∧
    decode32 0x28901E41 = some (.rsRoll 10 9) ∧
    decode32 0x28917E51 = some (.rsFork 10 9 11) ∧
    decode32 0x00901E61 = some (.rsDrop 9) ∧
    decode32 0x0090FE71 = some (.rsPos 9 7) := by decide +kernel

theorem test_decode_gen :
    decode32 0x2480BE81 = some (.btPrep 9 8 5) ∧
    decode32 0x0080DE91 = some (.btCommit 8 6) ∧
    decode32 0x00A0FEA1 = some (.migrate 10 7) ∧
    decode32 0x34C17EB1 = some (.ptTrunc 13 12 11) := by decide +kernel

theorem test_decode_sys :
    decode32 0x8C401F01 = some (.trap 35 4) ∧
    decode32 0x00001F11 = some .rett ∧
    decode32 0x00001F71 = some (.crewKill 0) ∧
    decode32 0x00001F91 = some .brk ∧
    decode32 0x00001FA1 = some .halt ∧
    decode32 0x4C00FF21 = some (.srRd 19 7) ∧
    decode32 0x0346DF41 = some (.crewPeek 52 54) ∧
    decode32 0xDB501F51 = some (.crewPoke 54 53) ∧
    decode32 0x3D001F31 = some (.srWr 15 16) ∧
    decode32 0x0F501F31 = some (.srWr 3 53) := by decide +kernel

theorem test_decode_compact :
    decode16 0x38C4 = some (.compactAdd 7 3) ∧
    decode16 0x3262 = some (.bZ 6 9) ∧
    decode16 0x0028 = some .compactRet := by decide +kernel

/-- Opcode 36 of the two-source format is not assigned (04 R94, R95): the word is refused by its value and length. -/
theorem test_decode_reserved : decode (natBytes 4 0x00000241) = .error (.reserved 0x241 4) := by decide +kernel

/-! ### Worked examples of the spec -/

/-- The value a strand's register has after an instruction, with k5, k6 and k7 as given. -/
noncomputable def after (i : Instr) (k5 k6 k7 : Nat) (c : BitVec 6) : Word :=
  let s := ((strandAt.put 5 (num k5)).put 6 (num k6)).put 7 (num k7)
  (nextOf (exec i s) s).lane0.reg c |>.word
/-- What it adds to the exception flags: the bits of sr.fmode that it sets. -/
noncomputable def flagsAfter (i : Instr) (k5 k6 k7 : Nat) : Word :=
  let s := ((strandAt.put 5 (num k5)).put 6 (num k6)).put 7 (num k7)
  (nextOf (exec i s) s).g.fmode 0 ^^^ s.g.fmode 0
/-- The value that a long form brings. -/
noncomputable def brought (i : Instr) (k5 k6 : Nat) : Option Word :=
  let s := (strandAt.put 5 (num k5)).put 6 (num k6)
  (nextOf (exec i s) s).g.pend.head?.bind fun p => p.vals.head?.map fun v => v.2.word

theorem test_add_wraps : after (.add 6 5 false 8 false) (2 ^ 64 - 1) 2 0 8 = 1 := by decide +kernel
theorem test_bfx : after (.bfx 6 5 false 8 false) 0x12345678 0x2C8 0 8 = 0x456 := by decide +kernel
theorem test_bfi : after (.bfi 6 5 false 7 false) 0xABC 0x1C4 0xFFFFFFFF 7 = 0xFFFFFBCF := by decide +kernel
theorem test_mulh_i : after (.mulhI 6 5 false 8 false) (2 ^ 64 - 1) 1 0 8 = 0xFFFFFFFFFFFFFFFF := by decide +kernel
theorem test_mulh_n : after (.mulhN 6 5 false 8 false) (2 ^ 64 - 1) 2 0 8 = 1 := by decide +kernel
theorem test_sar : after (.sar 6 5 false 8 false) (2 ^ 63) 65 0 8 = 0xC000000000000000 := by decide +kernel
theorem test_div_i : brought (.divI 6 5 8 false) (2 ^ 64 - 7) 2 = some (2 ^ 64 - 3) := by decide +kernel
theorem test_rem_i : brought (.remI 6 5 8 false) (2 ^ 64 - 7) 2 = some (2 ^ 64 - 1) := by decide +kernel
theorem test_fma : after (.fma 5 5 false 7 1 false) 0x3F800800 0 0xBF801000 7 = 0x33800000 := by decide +kernel
theorem test_fadd_tie : after (.fadd 6 5 false 8 1 false) 0x4B800000 0x3F800000 0 8 = 0x4B800000 ∧
    flagsAfter (.fadd 6 5 false 8 1 false) 0x4B800000 0x3F800000 0 ≠ 0 := by decide +kernel
theorem test_fround : after (.fround 5 false 8 1 false) 0x40200000 0 0 8 = 0x40000000 := by decide +kernel
theorem test_fcvt_fi_rdn : after (.fcvtFi 3 2 5 false 8 1 false) 0xC0200000 0 0 8 = 0xFFFFFFFFFFFFFFFD := by decide +kernel
theorem test_fcvt_fi_saturates : after (.fcvtFi 1 2 5 false 8 1 false) 0x4F800000 0 0 8 = 0x7FFFFFFF := by decide +kernel
theorem test_fcvt_ff_overflow : after (.fcvtFf 1 5 false 8 2 false) 0x477FF000 0 0 8 = 0x7C00 := by decide +kernel
theorem test_salient : after (.salient 6 5 8 false) 0x40003F00C0403F80 0x3F8040803F804000 0 8 = 0x00000003C0403F80 := by decide +kernel
theorem test_qscale : (fun s : State => (nextOf (exec (.qscale 5 8 false) s) s).lane0.reg 8 |>.word)
    (((strandAt.put 5 (num 0xC0400000BFC00000)).grp fun g => { g with slices := g.slices.map fun sl => { sl with fmt := 0x22 } })) = 0x534CD := by
  decide +kernel
theorem test_quant : (fun s : State => (nextOf (exec (.quant 7 6 8 false) s) s).lane0.reg 8 |>.word)
    ((((strandAt.put 6 (num 0x3F800000)).put 7 (num 0x534CD)).grp fun g =>
      { g with slices := g.slices.map fun sl => { sl with fmt := 0x22 } })) = 8 := by decide +kernel
theorem test_red_add_f32 : (fun s : State => (nextOf (exec (.redAddF32 6 8) s) s).g.lanes.map fun l => (l.reg 8).word)
    ((((gangAt.putLane 0 6 (num 0x4B800000)).putLane 1 6 (num 0x3F800000)).putLane 2 6 (num 0x3F800000)).putLane 3 6 (num 0xCB800000)) =
      List.replicate 4 0x3F800000 := by decide +kernel
theorem test_cbound : (fun v : Val => (v.tag, capTop v.bits - capBase v.bits)) (cbound (flatCap 0x9B (2 ^ 40) (2 ^ 30)) 10000001) = (.cap, 10000004) := by
  decide +kernel
theorem test_nibble_bf16_chunk : (chunkAdd (fpFmt bf16) 0x4B800000 [(0x3F80, 0x3F80), (0x3F80, 0x3F80)]).1 = 0x4B800001 := by decide +kernel
theorem test_home_of_far_line : homeOf 0x5234567890 = 512 + 371 := by decide +kernel
theorem test_places_of_far_line : (ddrChannel 0x5234567890, homeQuad 0x5234567890, quadXY 185) = (7, (1, 185), (9, 11)) := by decide +kernel
theorem test_places_of_shared_line : (bankOf 0x287654320, bankOffset 0x287654320, homeQuad (Config.sharedBase + 0x287654320), quadXY 202) =
    (1620, 0x10E320, (2, 202), (10, 12)) := by decide +kernel
theorem test_trap_cause : (fun s : State => (nextOf (exec (.trap 35 4) s) s).g.sp.tval) strandAt.handled = 0x123 := by decide +kernel
theorem test_sha256_of_nothing : (sha256 []).take 4 = [0xE3, 0xB0, 0xC4, 0x42] := by decide +kernel
theorem test_crc32c : crc32c ((List.range 9).map fun k => BitVec.ofNat 8 (0x31 + k)) = 0xE3069283 := by decide +kernel

/-- The host's probe runs `add k6,k2,k3` as the first instruction: the pc moves past it. -/
theorem test_probe : (nextOf (step fetching) fetching).g.pc = fetching.g.pc + 4 := by decide +kernel

end Sys2Proof.Machine
end

section
/-! SUPPORT. The checks of a load or store (00 R6; 05 R114; 13 R260; 18 R371): every load and store is one of two bodies, and where the
first lane that it is performed for fails a check, its trap is the instruction's. -/

namespace Sys2Proof.Machine

/-! ### Every load and store by its table -/

/-- What a load or store asks of its lanes, as its table says (05 R114, R116). -/
def AccessForm.ask (f : AccessForm) (s : State) : Ask :=
  if f.store then storeAsk s f.size f.cap f.disp false f.base f.reg else loadAsk f.size f.sx f.cap f.disp false f.base

/-- The post-increment of a load or store, as its table says (05 R114). -/
def AccessForm.bump (f : AccessForm) : Bump := f.advance.map fun n => (f.base, intWord n)

/-- The body of a load or store, with the OPC of the journal entries of a store. -/
noncomputable def AccessForm.body (f : AccessForm) (i : Instr) (opc : Nat) (s : State) : Act :=
  if f.store then postAct i (f.ask s) (fun l => (s.g.read l f.reg).bits) opc f.bump s
  else loadAct i (f.ask s) f.reg f.bump false s

theorem loadForm_body (i : Instr) (imm : BitVec 11) (p : Bool) (a d : BitVec 6) (size : Nat) (sx cap : Bool) (s : State) (f : AccessForm)
    (h : mForm imm p a d size false sx cap = some f) :
    loadForm i size sx cap (dispBytes imm size) p a d s = issue i strict (fun _ => none) (f.body i 0) s := by
  cases h
  cases p <;> rfl

theorem storeForm_body (i : Instr) (imm : BitVec 11) (p : Bool) (a d : BitVec 6) (size op4 : Nat) (sx cap : Bool) (s : State)
    (f : AccessForm) (h : mForm imm p a d size true sx cap = some f) :
    storeForm i size op4 cap (dispBytes imm size) p a d s = issue i strict (fun _ => none) (f.body i (0x200 + op4)) s := by
  cases h
  cases p <;> rfl

/-- Every load and store issues with the body that its table gives. -/
theorem exec_accessForm (i : Instr) (s : State) (f : AccessForm) (h : accessForm i = some f) :
    ∃ opc, exec i s = issue i strict (fun _ => none) (f.body i opc) s := by
  unfold accessForm at h
  split at h
  -- the loads of the M format
  iterate 9 · exact ⟨0, loadForm_body _ _ _ _ _ _ _ _ s f h⟩
  -- its stores
  iterate 6 · exact ⟨_, storeForm_body _ _ _ _ _ _ _ false _ s f h⟩
  -- the compact forms
  iterate 2 · cases h; exact ⟨0, rfl⟩
  · cases h; exact ⟨0x200 + 11, rfl⟩
  · cases h; exact ⟨0x200 + 10, rfl⟩
  · cases h

/-- A load writes the register of its table. -/
theorem dst_of_load (i : Instr) (f : AccessForm) (h : accessForm i = some f) (hs : f.store = false) : dst i = some f.reg := by
  unfold accessForm at h
  split at h
  iterate 9 · cases h; rfl
  iterate 6 · cases h; cases hs
  iterate 2 · cases h; rfl
  iterate 2 · cases h; cases hs
  · cases h

/-- Where no stream stands in an instruction's way, none is bound to its destination. -/
theorem reaches_dst_stream (i : Instr) (s : State) (cs : List (BitVec 6)) (d : BitVec 6) (h : s.reaches i cs) (hd : dst i = some d) :
    s.g.stream d = none := by
  obtain ⟨-, -, -, -, -, -, -, -, -, -, -, -, hst⟩ := h
  exact hst d (by simp [dsts, hd])

end Sys2Proof.Machine
end

section
/-! SUPPORT. The first failed check of an access, and the trap that the instruction takes for it (18 R371). -/

namespace Sys2Proof.Machine

/-! ### The checks of one lane -/

theorem checkAccess_tag (s : State) (g : Group) (v : Val) (c : BitVec 6) (ix : Int) (size align : Nat) (ps : List Perm) (n : Need)
    (ht : v.tag ≠ .cap) : checkAccess s g v c ix size align ps n = .trap (trapReg 0x03 c) := by
  unfold checkAccess
  rw [if_pos ht]

theorem checkAccess_permission (s : State) (g : Group) (v : Val) (c : BitVec 6) (ix : Int) (size align : Nat) (ps : List Perm) (n : Need)
    (ht : v.tag = .cap)
    (hp : (lacks v.bits ps || (n.cap && !capHas v.bits .sc) || (!ownAddr g (spreadInt (capWalk v.bits) ix) && !capHas v.bits .m)) = true) :
    checkAccess s g v c ix size align ps n = .trap (trapReg 0x05 c) := by
  unfold checkAccess
  rw [if_neg (not_not.2 ht)]
  exact if_pos hp

theorem checkAccess_bounds (s : State) (g : Group) (v : Val) (c : BitVec 6) (ix : Int) (size align : Nat) (ps : List Perm) (n : Need)
    (ht : v.tag = .cap)
    (hp : (lacks v.bits ps || (n.cap && !capHas v.bits .sc) || (!ownAddr g (spreadInt (capWalk v.bits) ix) && !capHas v.bits .m)) = false)
    (hb : inBounds v.bits ix size = false) : checkAccess s g v c ix size align ps n = .trap (trapReg 0x04 c) := by
  unfold checkAccess
  rw [if_neg (not_not.2 ht)]
  dsimp only
  rw [hp, hb]
  rfl

theorem checkAccess_alignment (s : State) (g : Group) (v : Val) (c : BitVec 6) (ix : Int) (size align : Nat) (ps : List Perm) (n : Need)
    (ht : v.tag = .cap)
    (hp : (lacks v.bits ps || (n.cap && !capHas v.bits .sc) || (!ownAddr g (spreadInt (capWalk v.bits) ix) && !capHas v.bits .m)) = false)
    (hb : inBounds v.bits ix size = true) (ha : spreadInt (capWalk v.bits) ix % align ≠ 0) :
    checkAccess s g v c ix size align ps n = .trap (trap 0x0C (BitVec.ofNat 64 (spreadInt (capWalk v.bits) ix))) := by
  unfold checkAccess
  rw [if_neg (not_not.2 ht)]
  dsimp only
  rw [hp, hb]
  exact if_pos ha

/-- The permission checks of a lane of a load or store, those that 13 R260 names. -/
def AccessForm.lacking (f : AccessForm) (g : Group) (l : Lane) : Prop :=
  capHas (g.read l f.base).bits (if f.store then .w else .r) = false ∨
  (f.store = true ∧ f.cap = true ∧ (g.read l f.reg).tag = .cap ∧ capHas (g.read l f.base).bits .sc = false) ∨
  (ownAddr g (accessAddr g f.base f.disp l) = false ∧ capHas (g.read l f.base).bits .m = false)

/-- The checks of a lane of a load or store. -/
def AccessForm.check (f : AccessForm) (s : State) (l : Lane) : Chk :=
  checkAccess s s.g (s.g.read l f.base) f.base (accessIndex s.g f.base f.disp l) f.size f.size [if f.store then .w else .r]
    ⟨!f.store, f.store, false, false, f.store && (f.cap && (s.g.read l f.reg).tag == .cap)⟩

theorem AccessForm.lacking_iff (f : AccessForm) (g : Group) (l : Lane) :
    (lacks (g.read l f.base).bits [if f.store then .w else .r] ||
      ((f.store && (f.cap && (g.read l f.reg).tag == .cap)) && !capHas (g.read l f.base).bits .sc) ||
      (!ownAddr g (accessAddr g f.base f.disp l) && !capHas (g.read l f.base).bits .m)) = true ↔ f.lacking g l := by
  simp only [lacks, List.any_cons, List.any_nil, Bool.or_false, Bool.or_eq_true, Bool.and_eq_true, Bool.not_eq_true', beq_iff_eq,
    AccessForm.lacking, and_assoc, or_assoc]

/-- A trap of a lane's checks is that of its access as the body asks for it. -/
theorem AccessForm.ask_chk (f : AccessForm) (s : State) (l : Lane) (t : Trap) (h : f.check s l = .trap t) :
    ((f.ask s).chk s l).1 = .trap t := by
  unfold AccessForm.check at h
  cases hs : f.store <;> rw [hs] at h <;> simp only [AccessForm.ask, hs]
  · exact h
  · have hc : ((storeAsk s f.size f.cap f.disp false f.base f.reg).chk s l).1 =
      ownWrite s (accessAddr s.g f.base f.disp l) f.size (.trap t) := congrArg (ownWrite s (accessAddr s.g f.base f.disp l) f.size) h
    exact hc

/-! ### The first lane -/

/-- Where the first lane fails a check, nothing has passed. -/
theorem checkLanes_first (f : Lane → Chk × Nat × MemOp) (l : Lane) (ls : List Lane) (t : Trap) (h : (f l).1 = .trap t) :
    checkLanes f (l :: ls) = ([], some (l.no, .trap t)) := by
  cases hf : f l with
  | mk c r =>
    rw [hf] at h
    cases h
    simp only [checkLanes, hf]

theorem journalFull_nil (s : State) : s.journalFull [] = false := by
  simp [State.journalFull]

theorem loadAct_first (i : Instr) (q : Ask) (d : BitVec 6) (b : Bump) (s : State) (l : Lane) (ls : List Lane) (t : Trap)
    (hsent : s.g.sent = false) (hsc : s.scPending = false) (hst : s.g.stream d = none) (hls : s.g.execs (isUniform i) = l :: ls)
    (h : (q.chk s l).1 = .trap t) : loadAct i q d b false s = .trap s t := by
  have hres : ∀ u ls, s.resultChk d u ls (q.chk s) = q.chk s := by
    intro u ls; funext k; simp [State.resultChk, hst]
  have hap : ∀ got, s.appendAccs d got = [] := by
    intro got; simp [State.appendAccs, hst]
  unfold loadAct
  simp [hsent, hsc, hst, hls, hres, hap, checkLanes_first _ _ _ _ h, journalFull_nil]

/-- Only a trap for a poisoned value hands a line over. -/
theorem metAt_self (s : State) (t : Trap) (h : t.code ≠ 0x12) : s.metAt t = s := if_neg fun ht => h ht.1

/-- The trap of a store's first lane: as no lane has been performed, its post-increment keeps nothing. -/
theorem postAct_first (i : Instr) (q : Ask) (data : Lane → Quad) (opc : Nat) (b : Bump) (s : State) (l : Lane) (ls : List Lane)
    (c : Nat) (tval : Word) (hc : c ≠ 0x12) (hsc : s.scPending = false) (hls : s.g.todo (s.g.execs (isUniform i)) = l :: ls)
    (h : (q.chk s l).1 = .trap (trap c tval)) :
    postAct i q data opc b s = .trap s { trap c tval with keep := s.g.bumped false b [] } := by
  unfold postAct
  simp [hsc, hls, checkLanes_first _ _ _ _ h, journalFull_nil, partialAct, stopAct, metAt_self, hc, partialTrap, trap]

/-! ### Traps that keep nothing -/

theorem write_nil (g : Group) (c : BitVec 6) : g.write c [] = g := by
  unfold Group.write
  split <;> simp

theorem bumped_nil (g : Group) (b : Bump) : ∀ p ∈ g.bumped false b [], p.2 = [] := by
  cases b <;> simp [Group.bumped, Group.spread]

theorem foldl_write_nil (k : List (BitVec 6 × List (Nat × Val))) (g : Group) (h : ∀ p ∈ k, p.2 = []) :
    k.foldl (fun g p => g.write p.1 p.2) g = g := by
  induction k with
  | nil => rfl
  | cons p k ih =>
    rw [List.foldl_cons, h p (by simp), write_nil]
    exact ih fun q hq => h q (by simp [hq])

/-- What a trap keeps is written to registers: one that keeps no value of any lane is as one that keeps nothing. -/
theorem takeTrap_keep (s : State) (t : Trap) (k : List (BitVec 6 × List (Nat × Val))) (inRun : Bool) (h : ∀ p ∈ k, p.2 = []) :
    s.takeTrap { t with keep := k } inRun = s.takeTrap { t with keep := [] } inRun := by
  unfold State.takeTrap
  rw [foldl_write_nil k _ h]
  rfl

/-! ### The trap of the instruction -/

/-- A load or store whose first lane fails a check takes the trap of that check. -/
theorem exec_first_trap (i : Instr) (s : State) (f : AccessForm) (l : Lane) (ls : List Lane) (c : Nat) (tval : Word)
    (hf : accessForm i = some f) (hr : s.reaches i (srcs i)) (hk : s.knows (srcs i)) (hsc : s.scPending = false)
    (hls : (if f.store then s.g.todo (s.g.execs (isUniform i)) else s.g.execs (isUniform i)) = l :: ls) (hc : c ≠ 0x12)
    (h : f.check s l = .trap (trap c tval)) : exec i s = .next (s.takeTrap (trap c tval) (readsLatch i)).tick := by
  obtain ⟨opc, he⟩ := exec_accessForm i s f hf
  have hq := f.ask_chk s l _ h
  rw [he]
  cases hs : f.store
  case false =>
    rw [hs] at hls
    have hst : s.g.stream f.reg = none := reaches_dst_stream i s _ _ hr (dst_of_load i f hf hs)
    refine issueOn_trap i strict (srcs i) _ _ s _ hr hk rfl ?_
    rw [AccessForm.body, if_neg (by simp [hs])]
    exact loadAct_first i _ _ _ s l ls _ hr.1 hsc hst hls hq
  case true =>
    rw [hs] at hls
    have hb : f.body i opc s = .trap s { trap c tval with keep := s.g.bumped false f.bump [] } := by
      rw [AccessForm.body, if_pos hs]
      exact postAct_first i _ _ _ _ s l ls c tval hc hsc hls hq
    have hi := issueOn_trap i strict (srcs i) (fun _ => none) (f.body i opc) s _ hr hk rfl hb
    rw [takeTrap_keep s (trap c tval) _ _ (bumped_nil s.g f.bump)] at hi
    exact hi

/-- Settles O24: each clause is one check of `checkAccess` that fails first, in the first lane that the instruction is performed for. -/
theorem accessChecksTrapInOrder : Obligations.AccessChecksTrapInOrder := by
  unfold Obligations.AccessChecksTrapInOrder
  intro i s f l ls hf hr hk hsc hls v ix va lacking traps
  have htrap (c : Nat) (tval : Word) (hc : c ≠ 0x12) (h : f.check s l = .trap (trap c tval)) : traps c tval :=
    exec_first_trap i s f l ls c tval hf hr hk hsc hls hc h
  have hlack : lacking ↔ f.lacking s.g l := Iff.rfl
  have hno (h : ¬ lacking) := Bool.eq_false_iff.2 (mt (f.lacking_iff s.g l).1 (mt hlack.2 h))
  refine ⟨fun ht => ?_, fun ht hl => ?_, fun ht hl hb => ?_, fun ht hl hb ha => ?_⟩
  · exact htrap _ _ (by decide) (checkAccess_tag _ _ _ _ _ _ _ _ _ ht)
  · exact htrap _ _ (by decide) (checkAccess_permission _ _ _ _ _ _ _ _ _ ht ((f.lacking_iff s.g l).2 (hlack.1 hl)))
  · exact htrap _ _ (by decide) (checkAccess_bounds _ _ _ _ _ _ _ _ _ ht (hno hl) hb)
  · exact htrap _ _ (by decide) (checkAccess_alignment _ _ _ _ _ _ _ _ _ ht (hno hl) hb ha)

end Sys2Proof.Machine
end

section
/-! SUPPORT. The contexts of a package (26 R488): the end of a context removes its id and no other, and every operation on the way keeps
each context's id and function. -/

namespace Sys2Proof.Machine

/-- The contexts by id and function. -/
def State.ctxIds (s : State) : List (Nat × Nat) := s.pkg.contexts.map fun c => (c.id, c.fn)

theorem foldl_ctxIds {α : Type} (f : State → α → State) (h : ∀ s a, (f s a).ctxIds = s.ctxIds) (l : List α) (s : State) :
    (l.foldl f s).ctxIds = s.ctxIds := by
  induction l generalizing s with
  | nil => rfl
  | cons a l ih => rw [List.foldl_cons, ih, h]

theorem ctxIds_of_pkg (s t : State) (h : t.pkg = s.pkg) : t.ctxIds = s.ctxIds := by simp only [State.ctxIds, h]

theorem mapCtx_ctxIds (s : State) (id : Nat) (f : Ctx → Ctx) (h : ∀ c, ((f c).id, (f c).fn) = (c.id, c.fn)) :
    (s.mapCtx id f).ctxIds = s.ctxIds := by
  simp only [State.ctxIds, State.mapCtx, List.map_map]
  apply List.map_congr_left
  intro c _
  rw [Function.comp_apply]
  split
  · exact h c
  · rfl

/-! ### Records, flits and refusals -/

@[simp] theorem mapFn_ctxIds (s : State) (n : Nat) (f : PcieFn → PcieFn) : (s.mapFn n f).ctxIds = s.ctxIds := rfl

@[simp] theorem hostEvent_ctxIds (s : State) (fn : Nat) (bits : Quad) : (s.hostEvent fn bits).ctxIds = s.ctxIds := rfl

@[simp] theorem evqWrite_ctxIds (s : State) (pa : Nat) (bits : Quad) : (s.evqWrite pa bits).ctxIds = s.ctxIds :=
  ctxIds_of_pkg _ _ (by simp [State.evqWrite, State.poke])

@[simp] theorem emit_ctxIds (s : State) (u : EngineUnit) (d : RecDest) (bits : Quad) : (s.emit u d bits).ctxIds = s.ctxIds := by
  unfold State.emit State.emitBy
  split
  · rfl
  · split
    · exact evqWrite_ctxIds _ _ _
    · rfl

@[simp] theorem sendFlit_ctxIds (s : State) (kind : Nat) (dpkg : BitVec 8) (src dst addr : Nat) (bmask : BitVec 64) (opf : Nat)
    (lines : List Byte) : (s.sendFlit kind dpkg src dst addr bmask opf lines).ctxIds = s.ctxIds := by
  unfold State.sendFlit
  dsimp only
  split <;> rfl

@[simp] theorem tellPeers_ctxIds (s : State) (t : Task) (k : BarKey) (gen : Nat) (v : Word) (gone : Bool) :
    (s.tellPeers t k gen v gone).ctxIds = s.ctxIds :=
  foldl_ctxIds _ (fun s _ => sendFlit_ctxIds s _ _ _ _ _ _ _ _) _ s

@[simp] theorem lampPut_ctxIds (s : State) (die kind : Nat) (bits : Quad) : (s.lampPut die kind bits).ctxIds = s.ctxIds := by
  unfold State.lampPut
  dsimp only
  split
  · rfl
  · split <;> rfl

@[simp] theorem freeEntries_ctxIds (s : State) (core : Nat) (ns : List Nat) : (s.freeEntries core ns).ctxIds = s.ctxIds :=
  ctxIds_of_pkg _ _ (mapCore_pkg s core _)

@[simp] theorem dropRefusals_ctxIds (s : State) (core : Nat) (mine : JEntry → Bool) (dest : JEntry → RecDest) :
    (s.dropRefusals core mine dest).ctxIds = s.ctxIds := by
  refine foldl_ctxIds _ (fun s p => ?_) _ s
  split
  · split
    · rfl
    · split
      · exact freeEntries_ctxIds _ _ _
      · simp [State.reportRefusal]
  · rfl

/-! ### Barriers, groups, crews and tasks -/

@[simp] theorem release_ctxIds (s : State) (b : Barrier) : (s.release b).ctxIds = s.ctxIds := by
  unfold State.release
  extract_lets ms pod s0 of_ far s1 core id
  have h0 : s0.ctxIds = s.ctxIds := by
    simp only [s0]
    clear_value pod
    cases pod with
    | none => rfl
    | some t =>
      dsimp only
      split
      · rfl
      · exact tellPeers_ctxIds _ _ _ _ _ _
  split
  · rfl
  · split
    · exact h0
    · exact (lampPut_ctxIds _ _ _ _).trans h0

@[simp] theorem releaseAll_ctxIds (s : State) (task : Nat) : (s.releaseAll task).ctxIds = s.ctxIds :=
  foldl_ctxIds _ (fun s _ => release_ctxIds s _) _ s

@[simp] theorem dropGroup_ctxIds (s : State) (gid : Nat) : (s.dropGroup gid).ctxIds = s.ctxIds := by
  unfold State.dropGroup
  extract_lets s1 sem s2
  have h1 : s1.ctxIds = s.ctxIds := by
    simp only [s1]
    split
    · exact dropRefusals_ctxIds _ _ _ _
    · rfl
  split
  · exact h1
  · exact h1

@[simp] theorem lightEnds_ctxIds (s : State) (t : Task) : (s.lightEnds t).ctxIds = s.ctxIds := by
  unfold State.lightEnds
  split <;> rfl

@[simp] theorem leavePeers_ctxIds (s : State) (t : Task) : (s.leavePeers t).ctxIds = s.ctxIds := by
  unfold State.leavePeers
  split
  · rfl
  · exact tellPeers_ctxIds _ _ _ _ _ _

@[simp] theorem taskEnds_ctxIds (s : State) (id core : Nat) (drives : Bool) : (s.taskEnds id core drives).ctxIds = s.ctxIds := by
  unfold State.taskEnds
  split
  · rfl
  · next t _ =>
    have h1 : ((s.lightEnds t).leavePeers t).ctxIds = s.ctxIds := by simp
    split
    · rfl
    · split <;> exact h1

@[simp] theorem freeArea_ctxIds (s : State) (c : Crew) : (s.freeArea c).ctxIds = s.ctxIds := mapCtx_ctxIds s c.ctx _ fun _ => rfl

@[simp] theorem crewEnds_ctxIds (s : State) (crew : Nat) (drives : Bool) : (s.crewEnds crew drives).ctxIds = s.ctxIds := by
  unfold State.crewEnds
  split
  · rfl
  · next c _ =>
    split
    · rfl
    · rw [taskEnds_ctxIds]
      refine (freeArea_ctxIds _ c).trans ?_
      split <;> rfl

/-! ### Kills -/

@[simp] theorem killEngines_ctxIds (s : State) (c : Crew) : (s.killEngines c).ctxIds = s.ctxIds := freeEntries_ctxIds s c.core _

@[simp] theorem killOne_ctxIds (s : State) (crew cause : Nat) (drives : Bool) : (s.killOne crew cause drives).ctxIds = s.ctxIds := by
  unfold State.killOne
  split
  · rfl
  · next c _ =>
    extract_lets gids s0 s1 s2 s3 s4
    have h1 : s1.ctxIds = s.ctxIds := (foldl_ctxIds (fun s r => s.returnTo r [] 2 cause) (fun _ _ => rfl) c.callers s0).trans
      (dropRefusals_ctxIds s _ _ _)
    have h2 : s2.ctxIds = s.ctxIds := (killEngines_ctxIds s1 c).trans h1
    have h3 : s3.ctxIds = s.ctxIds := (foldl_ctxIds _ dropGroup_ctxIds _ _).trans h2
    have h4 : s4.ctxIds = s.ctxIds := by
      simp only [s4]
      split <;> exact h3
    rw [crewEnds_ctxIds, releaseAll_ctxIds, h4]

@[simp] theorem killTask_ctxIds (s : State) (task cause : Nat) : (s.killTask task cause).ctxIds = s.ctxIds := by
  unfold State.killTask
  extract_lets s0 withdrawn s1 dead s2
  have h1 : s1.ctxIds = s.ctxIds := by
    refine (foldl_ctxIds _ (fun s e => foldl_ctxIds _ (fun s p => ?_) _ s) _ s0).trans rfl
    split <;> rfl
  exact (foldl_ctxIds _ (fun s c => killOne_ctxIds s _ _ _) _ s2).trans h1

@[simp] theorem relaunch_ctxIds (s : State) (t : Task) (core : Nat) : (s.relaunch t core).ctxIds = s.ctxIds := by
  unfold State.relaunch
  split
  · rfl
  · exact emit_ctxIds _ _ _ _

@[simp] theorem killCrew_ctxIds (s : State) (crew status cause recCause core : Nat) :
    (s.killCrew crew status cause recCause core).ctxIds = s.ctxIds := by
  unfold State.killCrew
  split
  · rfl
  · extract_lets bits
    split
    · simp
    · next c _ _ t _ =>
      split
      · extract_lets s0 s1
        have h0 : s0.ctxIds = s.ctxIds := by
          simp only [s0]
          split <;> rfl
        rw [relaunch_ctxIds, emit_ctxIds, killTask_ctxIds, h0]
      · exact (emit_ctxIds _ _ _ _).trans (killOne_ctxIds s _ _ _)

/-! ### The end of a context and the reset of a function (26 R478, R488) -/

@[simp] theorem removeKey_ctxIds (s : State) (k : Nat) : (s.removeKey k).ctxIds = s.ctxIds := by
  simp only [State.ctxIds, State.removeKey, List.map_map]
  rfl

@[simp] theorem takePages_ctxIds (s : State) (ctx : Nat) (gone : List (Nat × Nat × Bool)) :
    (s.takePages ctx gone).ctxIds = s.ctxIds := mapCtx_ctxIds _ ctx _ fun _ => rfl

theorem endContext_ctxIds (s : State) (c : Ctx) : (s.endContext c).ctxIds = s.ctxIds.filter fun p => p.1 != c.id := by
  unfold State.endContext
  extract_lets crews s1 tasks s2 s3 s4 s5
  have h1 : s1.ctxIds = s.ctxIds := foldl_ctxIds _ (fun s k => killCrew_ctxIds s _ _ _ _ _) _ s
  have h2 : s2.ctxIds = s.ctxIds := by
    refine (foldl_ctxIds _ (fun s t => ?_) _ s1).trans h1
    rw [killTask_ctxIds]
    split
    · rfl
    · exact lightEnds_ctxIds s t
  have h4 : s4.ctxIds = s.ctxIds := (foldl_ctxIds _ removeKey_ctxIds _ s3).trans h2
  have h5 : s5.ctxIds = s.ctxIds := (takePages_ctxIds s4 _ _).trans h4
  rw [← h5]
  simp only [State.ctxIds, List.filter_map]
  rfl

/-- The contexts that are left when some have ended stood before, and none has the id of one that has ended. -/
theorem endContexts_ctxIds (cs : List Ctx) (s : State) (p : Nat × Nat) (h : p ∈ (cs.foldl (fun s c => s.endContext c) s).ctxIds) :
    p ∈ s.ctxIds ∧ ∀ c ∈ cs, p.1 ≠ c.id := by
  induction cs generalizing s with
  | nil => exact ⟨h, by simp⟩
  | cons c cs ih =>
    obtain ⟨hp, hcs⟩ := ih _ h
    rw [endContext_ctxIds, List.mem_filter] at hp
    exact ⟨hp.1, List.forall_mem_cons.2 ⟨by simpa using hp.2, hcs⟩⟩

/-- A function that is reset has no context. -/
theorem resetFn_contexts (s : State) (fn : Nat) : ∀ c ∈ (s.resetFn fn).pkg.contexts, c.fn ≠ fn := by
  intro c hc hfn
  have hmem : (c.id, c.fn) ∈ (s.resetFn fn).ctxIds := List.mem_map_of_mem hc
  obtain ⟨hold, hids⟩ := endContexts_ctxIds _ s _ hmem
  obtain ⟨x, hx, hxc⟩ := List.mem_map.1 hold
  obtain ⟨hid, hxf⟩ := Prod.mk.inj hxc
  exact hids x (List.mem_filter.2 ⟨hx, by simp [hxf, hfn]⟩) hid.symm

end Sys2Proof.Machine
end

section
/-! SUPPORT. The host link (26 R478 to R484): registers, the window, and the functions. -/

namespace Sys2Proof.Machine

/-! ### Changes of a function -/

/-- What a change makes of the functions of its number holds of each function of that number. -/
theorem mapFn_all (s : State) (n : Nat) (f : PcieFn → PcieFn) (P : PcieFn → Prop)
    (h : ∀ x ∈ s.pkg.functions, x.no = n → P (f x)) : ∀ y ∈ (s.mapFn n f).pkg.functions, y.no = n → P y := by
  intro y hy hn
  obtain ⟨x, hx, rfl⟩ := List.mem_map.1 hy
  by_cases hxn : x.no = n
  · rw [if_pos hxn]
    exact h x hx hxn
  · rw [if_neg hxn] at hn
    exact absurd hn hxn

/-- A record that joins a function's event list is in it, full as the list may be (26 R491). -/
theorem mem_event (f : PcieFn) (bits : Quad) : bits ∈ (f.event bits).events := by simp [PcieFn.event]

theorem hostMiss_recorded (s : State) (fn va : Nat) :
    ∀ h ∈ (s.hostMiss fn va).pkg.functions, h.no = fn → recordBits 8 3 0 0 (BitVec.ofNat 64 va) ∈ h.events :=
  mapFn_all s fn _ _ fun _ _ _ => mem_event _ _

/-- A function that is reset is ready, with no event and its window off (26 R478). -/
theorem resetFn_functions (s : State) (fn : Nat) :
    ∀ f ∈ (s.resetFn fn).pkg.functions, f.no = fn → f.busy = none ∧ f.events = [] ∧ f.window = 0 :=
  mapFn_all _ fn _ _ fun _ _ _ => ⟨rfl, rfl, rfl⟩

/-! ### Register writes (26 R479, R484) -/

theorem hostWrite_window (s : State) (fn : Nat) (v : Word) (h : s.reachable fn = true) :
    s.hostWrite fn 0x1000 v = s.mapFn fn fun f => { f with window := v &&& 0x80FFFFF00000FFFF } := by
  simp [State.hostWrite, h]

theorem hostWrite_lamp (s : State) (v : Word) (h : s.reachable 0 = true) :
    s.hostWrite 0 0x2000 v = { s with pkg := { s.pkg with lamp := { s.pkg.lamp with ctl := v &&& 0xFF3F } } } := by
  simp [State.hostWrite, h]

theorem hostWrite_go (s : State) (fn : Nat) (h : s.reachable fn = true) : s.hostWrite fn 0 1 = s.submit fn := by
  simp [State.hostWrite, h]

/-- The command that stands in a function's page. -/
def PcieFn.command (f : PcieFn) : Nat := field (f.bytes 8 8) 0 8

/-- A function whose command is submitted. -/
def PcieFn.submitted (f : PcieFn) : PcieFn :=
  { f with
    go := true
    busy := some ⟨BitVec.ofNat 16 f.command, f.bytes 0x40 (min 1984 (f.command / 2 ^ 16 % 2 ^ 16)), BitVec.ofNat 32 (f.command / 2 ^ 32)⟩ }

theorem submit_ready (s : State) (fn : Nat) (h : (s.pkg.functions.any fun f => f.no == fn && f.busy.isNone) = true) :
    s.submit fn =
      (let s1 := s.mapFn fn PcieFn.submitted
       { s1 with pkg := { s1.pkg with firmware := { s1.pkg.firmware with serving := s1.pkg.firmware.serving ++ [fn] } } }) :=
  if_pos h

/-! ### The window (26 R480) -/

/-- No guard turns away an access of a reachable function within its BAR2. -/
theorem windowGuard_false (s : State) (fn off : Nat) (hr : s.reachable fn = true) (ho : off < 2 ^ 36) :
    (!s.reachable fn || decide (2 ^ 36 ≤ off)) = false := by
  simp only [hr, Nat.not_le.2 ho, Bool.not_true, decide_false, Bool.or_false]

theorem bar2Read_miss (s : State) (fn off size : Nat) (f : PcieFn) (hf : s.pkg.functions.find? (fun f => f.no == fn) = some f)
    (hr : s.reachable fn = true) (ho : off < 2 ^ 36) (hw : s.windowCtx f = none) :
    s.bar2Read fn off size =
      (s.hostMiss fn (windowAddr f off)).mapFn fn fun f => { f with read := (List.replicate size 0xFF, false) } := by
  simp only [State.bar2Read, hf, windowGuard_false s fn off hr ho, hw, Bool.false_eq_true, if_false]

theorem bar2Write_miss (s : State) (fn off : Nat) (data : List Byte) (f : PcieFn)
    (hf : s.pkg.functions.find? (fun f => f.no == fn) = some f) (hr : s.reachable fn = true) (ho : off < 2 ^ 36)
    (hw : s.windowCtx f = none) : s.bar2Write fn off data = s.hostMiss fn (windowAddr f off) := by
  simp only [State.bar2Write, hf, windowGuard_false s fn off hr ho, hw, Bool.false_eq_true, if_false]

/-- The line of a byte outside LP-DDR-5X whose check value is that of its bytes reads under every key. -/
theorem mismatch_false (m : Memory) (pa : Nat) (key : Option Nat) (hc : mapGet (pa / 64) m.checks = none) (hd : Config.ddrSize ≤ pa) :
    m.mismatch pa key = false := by
  simp [Memory.mismatch, hc, Nat.not_lt.2 hd]

theorem checked_self (m : Memory) (pa : Nat) (key : Option Nat) (h : m.mismatch pa key = false) : m.checked pa key = m := by
  simp [Memory.checked, h]

theorem inspected_self (s : State) (op : MemOp) (pa : Nat) (key : Option Nat) (h : s.mem.mismatch pa key = false) :
    s.inspected op pa key = s := by
  have he : s.errorAt pa key = s := by simp [State.errorAt, h]
  unfold State.inspected
  rw [he, ite_self]

theorem nat_one (m : Memory) (pa : Nat) : m.nat pa 1 = (m.byte pa).toNat := by simp [Memory.nat, Memory.bytes, leNat]

/-- A byte loaded at its home. -/
theorem atHome_loadByte (s : State) (pa : Nat) (key : Option Nat) (hr : s.refusal (.load 1 false false) pa = none)
    (hp : s.mem.poisoned pa 1 = false) (hm : s.mem.mismatch pa key = false) :
    s.atHome (.load 1 false false) pa key = ⟨s.mem, ⟨(s.mem.byte pa).setWidth 128, .data⟩, none, none⟩ := by
  simp [State.atHome, hr, perform, checked_self _ _ _ hm, hp, nat_one, BitVec.ofNat_toNat]

/-- A byte stored at its home outside LP-DDR-5X. -/
theorem atHome_storeByte (s : State) (pa : Nat) (key : Option Nat) (b : Byte)
    (hr : s.refusal (.store 1 (b.setWidth 128) false) pa = none) (hp : s.mem.poisoned pa 1 = false)
    (hm : s.mem.mismatch pa key = false) (hd : Config.ddrSize ≤ pa) :
    s.atHome (.store 1 (b.setWidth 128) false) pa key = ⟨s.mem.store pa 1 b.toNat, Val.zero, some (pa, 1), none⟩ := by
  have hb : (b.setWidth 128).toNat = b.toNat := by rw [BitVec.toNat_setWidth]; omega
  simp [State.atHome, hr, perform, checked_self _ _ _ hm, hp, Memory.underKey, Nat.not_lt.2 hd, hb]

/-- Reads of sound bytes leave the state as it is. -/
theorem foldl_inspected_self (op : MemOp) (ps : List (Nat × Option Nat)) (s : State)
    (h : ∀ p ∈ ps, s.inspected op p.1 p.2 = s ∧ (s.atHome op p.1 p.2).mem = s.mem) :
    ps.foldl (fun s p => { s.inspected op p.1 p.2 with mem := (s.atHome op p.1 p.2).mem }) s = s := by
  induction ps with
  | nil => rfl
  | cons p ps ih =>
    obtain ⟨hi, hm⟩ := h p (by simp)
    rw [List.foldl_cons, hi, hm]
    exact ih fun q hq => h q (by simp [hq])

/-- A read through the window of bytes that lie outside LP-DDR-5X, unpoisoned and with their check values. -/
theorem bar2Read_hit (s : State) (fn off size : Nat) (f : PcieFn) (c : Ctx) (ps : List (Nat × Option Nat))
    (hf : s.pkg.functions.find? (fun f => f.no == fn) = some f) (hr : s.reachable fn = true) (ho : off < 2 ^ 36)
    (hw : s.windowCtx f = some c) (hps : s.hostPlaces c (windowAddr f off) size false = some ps)
    (h : ∀ p ∈ ps, s.refusal (.load 1 false false) p.1 = none ∧ s.mem.poisoned p.1 1 = false ∧
      mapGet (p.1 / 64) s.mem.checks = none ∧ Config.ddrSize ≤ p.1) :
    s.bar2Read fn off size = s.mapFn fn fun f => { f with read := (ps.map fun p => s.mem.byte p.1, false) } := by
  have hload : ∀ p ∈ ps, s.atHome (.load 1 false false) p.1 p.2 = ⟨s.mem, ⟨(s.mem.byte p.1).setWidth 128, .data⟩, none, none⟩ := by
    intro p hp
    obtain ⟨href, hpois, hchk, hddr⟩ := h p hp
    exact atHome_loadByte s p.1 p.2 href hpois (mismatch_false _ _ _ hchk hddr)
  have hstate : ps.foldl (fun s p => { s.inspected (.load 1 false false) p.1 p.2 with
      mem := (s.atHome (.load 1 false false) p.1 p.2).mem }) s = s := by
    refine foldl_inspected_self _ ps s fun p hp => ⟨?_, by rw [hload p hp]⟩
    obtain ⟨-, -, hchk, hddr⟩ := h p hp
    exact inspected_self s _ _ _ (mismatch_false _ _ _ hchk hddr)
  have hvals : ps.map (fun p => (s.atHome (.load 1 false false) p.1 p.2).val) =
      ps.map fun p => (⟨(s.mem.byte p.1).setWidth 128, .data⟩ : Val) :=
    List.map_congr_left fun p hp => by rw [hload p hp]
  simp only [State.bar2Read, hf, windowGuard_false s fn off hr ho, hw, hps, hstate, hvals, Bool.false_eq_true, if_false, List.map_map,
    List.any_map]
  congr
  funext x
  simp [Function.comp_def]

/-- A byte written through the window outside LP-DDR-5X. -/
theorem bar2Write_byte (s : State) (fn off p : Nat) (f : PcieFn) (c : Ctx) (b : Byte)
    (hf : s.pkg.functions.find? (fun f => f.no == fn) = some f) (hr : s.reachable fn = true) (ho : off < 2 ^ 36)
    (hw : s.windowCtx f = some c) (hps : s.hostPlaces c (windowAddr f off) 1 true = some [(p, none)])
    (href : s.refusal (.store 1 (b.setWidth 128) false) p = none) (hp : s.mem.poisoned p 1 = false)
    (hchk : mapGet (p / 64) s.mem.checks = none) (hd : Config.ddrSize ≤ p) :
    (s.bar2Write fn off [b]).mem = s.mem.store p 1 b.toNat ∧ (s.bar2Write fn off [b]).g = s.g := by
  have hm := mismatch_false s.mem p none hchk hd
  have hst := atHome_storeByte s p none b href hp hm hd
  simp only [State.bar2Write, hf, windowGuard_false s fn off hr ho, hw, List.length_singleton, hps, List.zip_cons_cons, List.zip_nil_left,
    List.foldl_cons, List.foldl_nil, hst, Option.isSome_none, Bool.false_eq_true, if_false, noticed_mem, noticed_g,
    inspected_self s _ p none hm, and_self]

/-! ### Virtual functions (26 R478) -/

theorem mem_upFrom_iff (a n x : Nat) : x ∈ upFrom a n ↔ a ≤ x ∧ x < a + n := by
  induction n generalizing a with
  | zero => simp [upFrom]
  | succ n ih =>
    rw [upFrom, List.mem_cons, ih]
    omega

/-- A function after the host has enabled virtual functions 1 to `vfs`. -/
def PcieFn.enabledBy (vfs : Nat) (f : PcieFn) : PcieFn := if f.no = 0 then f else { f with enabled := decide (f.no ≤ vfs) }

theorem enabledBy_no (vfs : Nat) (f : PcieFn) : (f.enabledBy vfs).no = f.no := by
  unfold PcieFn.enabledBy
  split <;> rfl

theorem enabledBy_enabled (vfs : Nat) (f : PcieFn) (h : f.no ≠ 0) : (f.enabledBy vfs).enabled = decide (f.no ≤ vfs) := by
  rw [PcieFn.enabledBy, if_neg h]

theorem enableVfs_functions (s : State) (vfs : Nat) (h : s.pkg.firmware.booted = true) :
    (s.enableVfs vfs).pkg.functions = s.pkg.functions.map (PcieFn.enabledBy vfs) ++
      ((upFrom 1 (min vfs 15)).filter fun n => !((s.pkg.functions.map (PcieFn.enabledBy vfs)).any fun f => f.no == n)).map
        fun n => { PcieFn.reset n with enabled := true } := by
  simp only [State.enableVfs, h, Bool.not_true, Bool.false_eq_true, if_false]
  rfl

theorem enableVfs_frame (s : State) (vfs : Nat) : (s.enableVfs vfs).mem = s.mem ∧ (s.enableVfs vfs).g = s.g := by
  unfold State.enableVfs
  split <;> exact ⟨rfl, rfl⟩

theorem enableVfs_enabled (s : State) (vfs : Nat) (h : s.pkg.firmware.booted = true) :
    ∀ f ∈ (s.enableVfs vfs).pkg.functions, f.no ≠ 0 → f.enabled = decide (f.no ≤ vfs) := by
  intro f hf h0
  rw [enableVfs_functions s vfs h, List.mem_append] at hf
  rcases hf with hf | hf
  · obtain ⟨x, -, rfl⟩ := List.mem_map.1 hf
    rw [enabledBy_no] at h0 ⊢
    exact enabledBy_enabled vfs x h0
  · obtain ⟨n, hn, rfl⟩ := List.mem_map.1 hf
    have hle := (mem_upFrom_iff _ _ _).1 (List.mem_filter.1 hn).1
    exact (decide_eq_true (by omega : n ≤ vfs)).symm

theorem enableVfs_exists (s : State) (vfs n : Nat) (h : s.pkg.firmware.booted = true) (hv : vfs ≤ 15) (h1 : 1 ≤ n) (hn : n ≤ vfs) :
    ∃ f ∈ (s.enableVfs vfs).pkg.functions, f.no = n ∧ f.enabled = true := by
  have hex : ∃ f ∈ (s.enableVfs vfs).pkg.functions, f.no = n := by
    rw [enableVfs_functions s vfs h]
    by_cases ha : ∃ f ∈ s.pkg.functions.map (PcieFn.enabledBy vfs), f.no = n
    · obtain ⟨f, hf, hfn⟩ := ha
      exact ⟨f, List.mem_append_left _ hf, hfn⟩
    · refine ⟨{ PcieFn.reset n with enabled := true }, List.mem_append_right _ (List.mem_map.2 ⟨n, ?_, rfl⟩), rfl⟩
      rw [List.mem_filter, mem_upFrom_iff]
      refine ⟨by omega, ?_⟩
      simpa using ha
  obtain ⟨f, hf, rfl⟩ := hex
  exact ⟨f, hf, rfl, (enableVfs_enabled s vfs h f hf (by omega)).trans (decide_eq_true hn)⟩

end Sys2Proof.Machine
end

section
/-! SUPPORT. Power (26 R493, R495) and the Lamp port (26 R496, R497). -/

namespace Sys2Proof.Machine

/-! ### Power-on (26 R493) -/

/-- The measurement registers as the ROM leaves them. -/
def Firmware.measured (f : Firmware) : Vector (BitVec 256) 16 :=
  let m0 := f.measures.setIfInBounds 0 Config.romDigest
  let m1 := if Config.flashVerified then m0.setIfInBounds 1 (extend (m0.toList.getD 1 0) (natBytes 32 Config.flashDigest.toNat)) else m0
  m1.setIfInBounds 2 (extend (m1.toList.getD 2 0) (natBytes 32 Config.ownerDigest.toNat))

theorem boot_first (s : State) (h : s.pkg.firmware.booted = false) :
    s.boot = { s with pkg := { s.pkg with firmware := { s.pkg.firmware with
      booted := true, extension := Config.flashVerified, measures := s.pkg.firmware.measured } } } := by
  simp only [State.boot, h, Bool.false_eq_true, if_false]
  rfl

theorem measured_rom (f : Firmware) : f.measured.toList[0]? = some Config.romDigest := by
  unfold Firmware.measured
  split <;> simp

theorem measured_owner (f : Firmware) :
    f.measured.toList[2]? = some (extend (f.measures.toList.getD 2 0) (natBytes 32 Config.ownerDigest.toNat)) := by
  unfold Firmware.measured
  split <;> simp

/-! ### The issue duty (26 R495) -/

/-- The duty that the firmware sets. -/
def State.nextDuty (s : State) (hot : Bool) : Nat :=
  let free := (Config.freeWord s.fresh).toNat
  if hot then (if s.pkg.firmware.duty ≤ 1 then 1 else 1 + free % (s.pkg.firmware.duty - 1)) else 1 + free % 64

/-- The state once the firmware has set the duty. -/
def State.powered (s : State) (draw : Nat) (hot : Bool) : State :=
  { s with
    fresh := s.fresh + 1
    pkg := { s.pkg with firmware := { s.pkg.firmware with duty := s.nextDuty hot, draw := draw } } }

/-- A hot junction at the least duty raises vector 3 of the physical function; nothing else follows the duty. -/
theorem powerTick_eq (s : State) (draw : Nat) (hot : Bool) :
    s.powerTick draw hot =
      if hot && s.nextDuty hot == 1 then (s.powered draw hot).mapFn 0 fun f => { f with vectors := f.vectors ||| 8 }
      else s.powered draw hot := rfl

theorem powerTick_firmware (s : State) (draw : Nat) (hot : Bool) :
    (s.powerTick draw hot).pkg.firmware = { s.pkg.firmware with duty := s.nextDuty hot, draw := draw } := by
  rw [powerTick_eq]
  split <;> rfl

theorem powerTick_frame (s : State) (draw : Nat) (hot : Bool) :
    (s.powerTick draw hot).mem = s.mem ∧ (s.powerTick draw hot).g = s.g := by
  rw [powerTick_eq]
  split <;> exact ⟨rfl, rfl⟩

theorem nextDuty_pos (s : State) (hot : Bool) : 1 ≤ s.nextDuty hot := by
  unfold State.nextDuty
  dsimp only
  split
  · split <;> omega
  · omega

theorem nextDuty_cool (s : State) : s.nextDuty false ≤ 64 := by
  simp only [State.nextDuty, Bool.false_eq_true, if_false]
  omega

theorem nextDuty_hot (s : State) (h : 1 < s.pkg.firmware.duty) : s.nextDuty true < s.pkg.firmware.duty := by
  simp only [State.nextDuty, if_true, if_neg (Nat.not_le.2 h)]
  have := Nat.mod_lt (Config.freeWord s.fresh).toNat (Nat.sub_pos_of_lt h)
  omega

theorem nextDuty_least (s : State) (h : s.pkg.firmware.duty ≤ 1) : s.nextDuty true = 1 := by simp [State.nextDuty, h]

/-- A junction at its limit whose duty is least raises vector 3 of the physical function (26 R478, R495). -/
theorem powerTick_alarm (s : State) (draw : Nat) (h : s.pkg.firmware.duty ≤ 1) :
    ∀ f ∈ (s.powerTick draw true).pkg.functions, f.no = 0 → f.vectors.getLsbD 3 = true := by
  rw [powerTick_eq, nextDuty_least s h]
  exact mapFn_all _ 0 _ _ fun f _ _ => by simp

/-! ### The Lamp port (26 R496, R497) -/

theorem length_records (l : List Quad) : (l.flatMap fun r => natBytes 16 r.toNat).length = 16 * l.length := by
  induction l with
  | nil => rfl
  | cons r l ih =>
    rw [List.flatMap_cons, List.length_append, natBytes_length, ih, List.length_cons]
    omega

/-- A die's buffer once a frame has taken its oldest three records. -/
def LampBuf.framed (b : LampBuf) (die clk : Nat) : LampBuf :=
  if b.lost = 0 then { b with recs := b.recs.drop 3 } else { b with recs := b.recs.drop 3 ++ [lossRecord die clk b.lost], lost := 0 }

theorem framed_die (b : LampBuf) (die clk : Nat) : (b.framed die clk).die = b.die := by
  unfold LampBuf.framed
  split <;> rfl

/-- Three records are sent as they are, with nothing after them. -/
theorem lampFrame_three (s : State) (die : Nat) (b : LampBuf) (hb : s.pkg.lamp.bufs.find? (fun b => b.die == die) = some b)
    (h3 : 3 ≤ b.recs.length) :
    s.lampFrame die =
      (let body := (b.recs.take 3).flatMap fun r => natBytes 16 r.toNat
       { s with pkg := { s.pkg with lamp := { s.pkg.lamp with
          seq := (s.pkg.lamp.seq + 1) % 2 ^ 32
          frames := s.pkg.lamp.frames ++ [natBytes 4 0x504D414C ++ natBytes 4 s.pkg.lamp.seq ++ natBytes 4 (crc32c body).toNat ++
            natBytes 4 0 ++ body]
          bufs := b.framed die s.clk :: s.pkg.lamp.bufs.filter fun x => x.die != die } } }) := by
  have hne : b.recs.isEmpty = false := by
    rw [List.isEmpty_eq_false_iff]
    rintro h
    simp [h] at h3
  have hlen : ((b.recs.take 3).flatMap fun r => natBytes 16 r.toNat).length = 48 := by
    rw [length_records, List.length_take, Nat.min_eq_left h3]
  simp only [State.lampFrame, hb, hne, Bool.false_eq_true, if_false, hlen, Nat.sub_self, List.replicate_zero, List.append_nil]
  rfl

/-- The buffer with a time record joined (26 R497). -/
def LampBuf.timedAt (b : LampBuf) (bits : Quad) (n : Nat) : LampBuf := { b with recs := b.recs ++ [bits], timed := n }

/-- A record joins the buffer of its die while that has room. -/
theorem lampPut_room (s : State) (die kind : Nat) (bits : Quad) (b : LampBuf) (hen : s.pkg.lamp.ctl.getLsbD die = true)
    (hk : s.pkg.lamp.ctl.getLsbD (8 + kind) = true) (hb : s.pkg.lamp.bufs.find? (fun b => b.die == die) = some b)
    (hroom : b.recs.length < 256) :
    s.lampPut die kind bits = { s with pkg := { s.pkg with lamp := { s.pkg.lamp with
      bufs := { b with recs := b.recs ++ [bits] } :: s.pkg.lamp.bufs.filter fun x => x.die != die } } } := by
  simp [State.lampPut, hen, hk, hb, Nat.not_le.2 hroom]

theorem timeDue_enabled (s : State) (die : Nat) (h : s.timeDue die = true) :
    s.pkg.lamp.ctl.getLsbD die = true ∧ s.pkg.lamp.ctl.getLsbD 13 = true := by
  unfold State.timeDue at h
  dsimp only at h
  simp only [Bool.and_eq_true] at h
  exact ⟨h.1.1.2, h.1.2⟩

/-- The time record of a die (26 R497). -/
def State.timeRecord (s : State) (die : Nat) : Quad :=
  (BitVec.ofInt 64 s.nanos ++ BitVec.ofNat 32 s.clk ++ BitVec.ofNat 13 (die * 1024) ++ 0#15 ++ 5#4 : BitVec 128)

theorem lampTime_due (s : State) (die : Nat) (b : LampBuf) (h : s.timeDue die = true)
    (hb : s.pkg.lamp.bufs.find? (fun b => b.die == die) = some b) (hroom : b.recs.length < 256) :
    (s.lampTime die).mem = s.mem ∧ (s.lampTime die).g = s.g ∧
      (s.lampTime die).pkg.lamp.bufs.find? (fun b => b.die == die) = some (b.timedAt (s.timeRecord die) (s.clk / 2 ^ 20)) := by
  obtain ⟨hen, hk⟩ := timeDue_enabled s die h
  have hdie : b.die = die := by simpa using List.find?_some hb
  have hput := lampPut_room s die 5 (s.timeRecord die) b hen hk hb hroom
  have ht : s.lampTime die =
      (let s1 := s.lampPut die 5 (s.timeRecord die)
       { s1 with pkg := { s1.pkg with lamp := { s1.pkg.lamp with bufs := s1.pkg.lamp.bufs.map fun b =>
          if b.die = die then { b with timed := s.clk / 2 ^ 20 } else b } } }) := by
    simp only [State.lampTime, h, Bool.not_true, Bool.false_eq_true, if_false]
    rfl
  rw [ht, hput]
  refine ⟨rfl, rfl, ?_⟩
  simp [hdie, LampBuf.timedAt]

end Sys2Proof.Machine
end

section
/-! The host link, power and the Lamp port (26 R478 to R484, R493 to R497). -/

namespace Sys2Proof.Machine

/-- GO submits the command of the page when the function is the only one and ready (26 R484). -/
theorem go_submits (s : State) (fn : Nat) (f : PcieFn) (hr : s.reachable fn = true) (hfs : s.pkg.functions = [f]) (hno : f.no = fn)
    (hb : f.busy = none) :
    (s.hostWrite fn 0 1).mem = s.mem ∧ (s.hostWrite fn 0 1).g = s.g ∧ (s.hostWrite fn 0 1).pkg.functions = [f.submitted] ∧
      (s.hostWrite fn 0 1).pkg.firmware.serving = s.pkg.firmware.serving ++ [fn] := by
  rw [hostWrite_go s fn hr, submit_ready s fn (by simp [hfs, hno, hb])]
  exact ⟨rfl, rfl, by simp [State.mapFn, hfs, hno], rfl⟩

/-- A read through a window that is off completes with ones, and is recorded (26 R480). -/
theorem bar2Read_miss_functions (s : State) (fn off size : Nat) (f : PcieFn)
    (hf : s.pkg.functions.find? (fun f => f.no == fn) = some f) (hr : s.reachable fn = true) (ho : off < 2 ^ 36)
    (hw : s.windowCtx f = none) :
    ∀ h ∈ (s.bar2Read fn off size).pkg.functions, h.no = fn → h.read = (List.replicate size 0xFF, false) ∧
      recordBits 8 3 0 0 (BitVec.ofNat 64 (windowAddr f off)) ∈ h.events := by
  rw [bar2Read_miss s fn off size f hf hr ho hw]
  exact mapFn_all _ fn _ _ fun x hx hn => ⟨rfl, hostMiss_recorded s fn _ x hx hn⟩

/-- Settles O59, clause by clause from the lemma about the operation that each event performs. -/
theorem hostLinkPowerAndLampPort : Obligations.HostLinkPowerAndLampPort := by
  unfold Obligations.HostLinkPowerAndLampPort
  refine ⟨fun s fn off v hr => ⟨?_, ?_, ?_⟩, fun s fn off size f hf hr ho => ⟨?_, ?_, ?_, ?_⟩, fun s fn hr => ⟨?_, ?_, ?_⟩,
    fun s vfs hb hv => ?_, fun s hb => ?_, fun s draw hot => ?_, fun s die b hb h3 => ?_, fun s die b hd hb hroom => ?_⟩
  -- the window register
  · rintro rfl
    refine ⟨_, rfl, ?_⟩
    rw [hostWrite_window s fn v hr]
    exact ⟨rfl, rfl, mapFn_all s fn _ _ fun _ _ _ => rfl⟩
  -- the Lamp control register
  · rintro rfl rfl
    refine ⟨_, rfl, ?_⟩
    rw [hostWrite_lamp s v hr]
    exact ⟨rfl, rfl, rfl⟩
  -- GO
  · rintro f rfl rfl hfs hno hb
    obtain ⟨hmem, hg, hfns, hserv⟩ := go_submits s fn f hr hfs hno hb
    exact ⟨_, f.submitted, rfl, hmem, hg, hfns, rfl, rfl, hserv⟩
  -- a read through a window that is off
  · intro hw
    refine ⟨_, rfl, ?_, ?_, bar2Read_miss_functions s fn off size f hf hr ho hw⟩ <;>
      rw [bar2Read_miss s fn off size f hf hr ho hw] <;> rfl
  -- a read of sound bytes
  · intro c ps hw hps hgood
    refine ⟨_, rfl, ?_⟩
    rw [bar2Read_hit s fn off size f c ps hf hr ho hw hps hgood]
    exact ⟨rfl, rfl, mapFn_all s fn _ _ fun _ _ _ => rfl⟩
  -- a write through a window that is off
  · intro hw data
    refine ⟨_, rfl, ?_⟩
    rw [bar2Write_miss s fn off data f hf hr ho hw]
    exact ⟨rfl, rfl, hostMiss_recorded s fn _⟩
  -- a write of a sound byte
  · intro c b p hw hps href hp hchk hd
    exact ⟨_, rfl, bar2Write_byte s fn off p f c b hf hr ho hw hps href hp hchk hd⟩
  -- a function-level reset
  · exact congrArg (fun t : State => Host.Outcome.next t.tick) (if_pos hr)
  · exact resetFn_functions s fn
  · exact resetFn_contexts s fn
  -- SR-IOV
  · obtain ⟨hmem, hg⟩ := enableVfs_frame s vfs
    exact ⟨_, rfl, hmem, hg, enableVfs_enabled s vfs hb, fun n h1 hn => enableVfs_exists s vfs n hb hv h1 hn⟩
  -- power-on
  · refine ⟨_, rfl, ?_⟩
    rw [boot_first s hb]
    exact ⟨rfl, rfl, rfl, rfl, rfl, measured_rom _, measured_owner _⟩
  -- the duty
  · obtain ⟨hmem, hg⟩ := powerTick_frame s draw hot
    have hfw := powerTick_firmware s draw hot
    have hduty : (s.powerTick draw hot).pkg.firmware.duty = s.nextDuty hot := by rw [hfw]
    refine ⟨_, rfl, hmem, hg, by rw [tick_pkg, hfw], hduty ▸ nextDuty_pos s hot, ?_, ?_, ?_⟩
    · rintro rfl
      exact hduty ▸ nextDuty_cool s
    · rintro rfl h
      exact hduty ▸ nextDuty_hot s h
    · rintro rfl h
      exact ⟨hduty.trans (nextDuty_least s h), powerTick_alarm s draw h⟩
  -- a frame
  · have hdie : b.die = die := by simpa using List.find?_some hb
    refine ⟨_, rfl, ?_⟩
    rw [lampFrame_three s die b hb h3]
    refine ⟨rfl, rfl, rfl, rfl, ?_⟩
    exact List.find?_cons_of_pos (by simp [framed_die, hdie])
  -- a time record
  · obtain ⟨hmem, hg, hbufs⟩ := lampTime_due s die b hd hb hroom
    exact ⟨_, _, rfl, hmem, hg, hbufs, rfl, rfl⟩

end Sys2Proof.Machine
end

section
/-! SUPPORT. Taking an exception (01 R32; 18 R366, R367): the fields of sr.status, the group that enters its handler, and what a trap
leaves of the state at each level. -/

namespace Sys2Proof.Machine

/-! ### The fields of sr.status (01 R26) -/

section
variable (w : Word) (sstep pie : Bool) (ppriv : BitVec 2) (ie : Bool) (priv : BitVec 2)

theorem statusWith_getLsbD (k : Nat) : (statusWith w sstep pie ppriv ie priv).getLsbD k =
    if k < 2 then priv.getLsbD k else if k = 2 then ie else if k < 5 then ppriv.getLsbD (k - 3) else if k = 5 then pie
    else if k = 6 then sstep else decide (k < 9) && w.getLsbD k := by
  have h : (statusWith w sstep pie ppriv ie priv).getLsbD k = BitVec.getLsbD (w := 55 + 2 + 1 + 1 + 2 + 1 + 2)
    (0#55 ++ w.extractLsb' 7 2 ++ BitVec.ofBool sstep ++ BitVec.ofBool pie ++ ppriv ++ BitVec.ofBool ie ++ priv) k := rfl
  rw [h]
  simp only [BitVec.getLsbD_append]
  rcases k with _ | _ | _ | _ | _ | _ | _ | _ | _ | k <;> simp

@[simp] theorem statusPriv_statusWith : statusPriv (statusWith w sstep pie ppriv ie priv) = priv := by
  refine BitVec.eq_of_getLsbD_eq fun k hk => ?_
  rw [statusPriv, BitVec.getLsbD_extractLsb', Nat.zero_add, statusWith_getLsbD, if_pos hk, decide_eq_true hk, Bool.true_and]

@[simp] theorem statusIE_statusWith : statusIE (statusWith w sstep pie ppriv ie priv) = ie :=
  statusWith_getLsbD w sstep pie ppriv ie priv 2

@[simp] theorem statusPIE_statusWith : statusPIE (statusWith w sstep pie ppriv ie priv) = pie :=
  statusWith_getLsbD w sstep pie ppriv ie priv 5

@[simp] theorem statusPPriv_statusWith : statusPPriv (statusWith w sstep pie ppriv ie priv) = ppriv := by
  refine BitVec.eq_of_getLsbD_eq fun k hk => ?_
  rw [statusPPriv, BitVec.getLsbD_extractLsb', statusWith_getLsbD]
  simp [hk, show ¬ 3 + k < 2 by omega, show ¬ 3 + k = 2 by omega, show 3 + k < 5 by omega]

/-- SSTEP, KIND and SAMP are kept where SSTEP is given as it was. -/
theorem statusWith_kept : (statusWith w (statusSStep w) pie ppriv ie priv).extractLsb' 6 3 = w.extractLsb' 6 3 := by
  refine BitVec.eq_of_getLsbD_eq fun k hk => ?_
  rw [BitVec.getLsbD_extractLsb', BitVec.getLsbD_extractLsb', statusWith_getLsbD]
  rcases k with _ | _ | _ | k
  · simp [statusSStep]
  · simp
  · simp
  · omega

/-- The same with PIE. -/
theorem statusWith_kept_pie : (statusWith w (statusSStep w) (statusPIE w) ppriv ie priv).extractLsb' 5 4 = w.extractLsb' 5 4 := by
  refine BitVec.eq_of_getLsbD_eq fun k hk => ?_
  rw [BitVec.getLsbD_extractLsb', BitVec.getLsbD_extractLsb', statusWith_getLsbD]
  rcases k with _ | _ | _ | _ | k
  · simp [statusPIE]
  · simp [statusSStep]
  · simp
  · simp
  · omega

end

/-! ### The registers a run discards (04 R88) -/

section
variable (g : Group)

@[simp] theorem discard_gid : g.discard.gid = g.gid := by unfold Group.discard; split <;> rfl
@[simp] theorem discard_core : g.discard.core = g.core := by unfold Group.discard; split <;> rfl
@[simp] theorem discard_sp : g.discard.sp = g.sp := by unfold Group.discard; split <;> rfl
@[simp] theorem discard_pc : g.discard.pc = g.pc := by unfold Group.discard; split <;> rfl
@[simp] theorem discard_codeCap : g.discard.codeCap = g.codeCap := by unfold Group.discard; split <;> rfl
@[simp] theorem discard_stopReq : g.discard.stopReq = g.stopReq := by unfold Group.discard; split <;> rfl

end

/-! ### The group that takes a trap at level U -/

/-- The group as a trap at level U leaves it, but for where it goes on: with the registers before its run where the instruction reads a
latch, its latches empty, and the trap registers written (01 R32; 18 R366). -/
def Group.entered (g : Group) (t : Trap) (inRun : Bool) : Group :=
  { (if inRun then g.discard else g).endRun with
    sp := { g.sp.enter t (withCursor g.codeCap (g.trapPc t inRun)) with lrun := if t.issued && !inRun then g.pc else g.sp.lrun }
    sent := false
    answers := []
    walkFault := none
    held := []
    suppress := false
    stopReq := if g.stopReq = 2 then 0 else g.stopReq }

/-- Where a group goes on after a trap at level U: at its handler's capability, or in the resident handler's hands. -/
def Group.delivered (g : Group) : Group :=
  if g.sp.tvec.tag ≠ .cap ∨ capHas g.sp.tvec.bits .x = false then { g with run := .resident }
  else { g with codeCap := g.sp.tvec, pc := (capCursor g.sp.tvec.bits).setWidth 64, run := .ready }

/-- The event for the resident handler of a crew without a valid handler (18 R367). -/
def Group.handlerless (g : Group) : List SysEvent :=
  if g.sp.tvec.tag ≠ .cap ∨ capHas g.sp.tvec.bits .x = false then [⟨g.core, g.sp.crew, g.gid, g.pc, 3, 21⟩] else []

/-- A trap at level U that keeps no register changes its group, the group's stalled call, its crew's watchdog where that is the cause,
and what the resident handler is told. -/
theorem takeTrap_user (s : State) (t : Trap) (inRun : Bool) (hp : s.g.priv = 0) (hk : t.keep = []) :
    s.takeTrap t inRun =
      { s with
        g := (s.g.entered t inRun).delivered
        crews := if t.code = 0x30 then s.crews.map (fun c => if c.id = s.g.sp.crew then { c with wdog := c.reload } else c) else s.crews
        stalls := s.stalls.filter fun p => p.2 != s.g.gid
        sys := s.sys ++ s.g.handlerless } := by
  have hb : (if inRun then s.g.discard else s.g).sp = s.g.sp ∧ (if inRun then s.g.discard else s.g).gid = s.g.gid ∧
      (if inRun then s.g.discard else s.g).core = s.g.core ∧ (if inRun then s.g.discard else s.g).pc = s.g.pc ∧
      (if inRun then s.g.discard else s.g).codeCap = s.g.codeCap ∧ (if inRun then s.g.discard else s.g).stopReq = s.g.stopReq := by
    cases inRun <;> simp
  obtain ⟨hsp, hgid, hcore, hpc, hcode, hstop⟩ := hb
  unfold State.takeTrap
  rw [if_neg (not_not.2 hp), hk]
  simp only [List.foldl_nil, Group.trapPc, Group.delivered, Group.handlerless, Group.entered, Specials.enter, State.unstall,
    State.mapCrew, hsp, hgid, hcore, hpc, hcode, hstop, Group.endRun]
  split <;> split <;> simp

section
variable (g : Group)

@[simp] theorem delivered_sp : g.delivered.sp = g.sp := by unfold Group.delivered; split <;> rfl
@[simp] theorem delivered_lanes : g.delivered.lanes = g.lanes := by unfold Group.delivered; split <;> rfl
@[simp] theorem delivered_x : g.delivered.x = g.x := by unfold Group.delivered; split <;> rfl
@[simp] theorem delivered_m : g.delivered.m = g.m := by unfold Group.delivered; split <;> rfl
@[simp] theorem delivered_held : g.delivered.held = g.held := by unfold Group.delivered; split <;> rfl
@[simp] theorem delivered_sent : g.delivered.sent = g.sent := by unfold Group.delivered; split <;> rfl

end

theorem delivered_valid (g : Group) (ht : g.sp.tvec.tag = .cap) (hx : capHas g.sp.tvec.bits .x = true) :
    g.delivered = { g with codeCap := g.sp.tvec, pc := (capCursor g.sp.tvec.bits).setWidth 64, run := .ready } :=
  if_neg (by simp [ht, hx])

theorem delivered_invalid (g : Group) (h : g.sp.tvec.tag ≠ .cap ∨ capHas g.sp.tvec.bits .x = false) :
    g.delivered = { g with run := .resident } := if_pos h

/-- The registers of a group, as a program sees them: OXRs, mask registers, and each lane's. -/
theorem entered_registers (g : Group) (t : Trap) :
    (g.entered t false).x = g.x ∧ (g.entered t false).m = g.m ∧
      (g.entered t false).lanes.map (fun l => (l.no, l.active, l.live, l.k)) = g.lanes.map fun l => (l.no, l.active, l.live, l.k) :=
  ⟨rfl, rfl, by simp [Group.entered, Group.endRun]⟩

/-- A trap in a run gives back the registers from before it (04 R88). -/
theorem entered_restored (g : Group) (t : Trap) (b : Shadow) (h : g.shadow = some b) :
    (g.entered t true).x = b.x ∧ (g.entered t true).m = b.m ∧
      (g.entered t true).lanes.map (fun l => (l.no, l.active, l.live, l.k)) = b.lanes.map fun l => (l.no, l.active, l.live, l.k) := by
  simp [Group.entered, Group.endRun, Group.discard, h]

theorem entered_latch (g : Group) (t : Trap) (inRun : Bool) : ∀ l ∈ (g.entered t inRun).lanes, l.latch = [] := by
  simp [Group.entered, Group.endRun]

theorem entered_status (g : Group) (t : Trap) (inRun : Bool) : (g.entered t inRun).sp.status = statusTrap g.sp.status := rfl

theorem entered_pc (g : Group) (t : Trap) (inRun : Bool) : (g.entered t inRun).pc = g.pc := by
  cases inRun
  · rfl
  · exact discard_pc g

theorem entered_lrun (g : Group) (t : Trap) (h : t.issued = true) : (g.entered t false).sp.lrun = g.pc := by
  simp [Group.entered, h]

/-! ### sr.done of a lane-partial trap (18 R371, R372) -/

theorem doneWord_getLsbD (lane : BitVec 5) (mask : BitVec 32) (k : Nat) : (0#27 ++ lane ++ mask : BitVec 64).getLsbD k =
    if k < 32 then mask.getLsbD k else decide (k < 37) && lane.getLsbD (k - 32) := by
  have h : (0#27 ++ lane ++ mask : BitVec 64).getLsbD k = BitVec.getLsbD (w := 27 + 5 + 32) (0#27 ++ lane ++ mask) k := rfl
  rw [h, BitVec.getLsbD_append, BitVec.getLsbD_append]
  grind

theorem doneWord_lanes (lane : BitVec 5) (mask : BitVec 32) : (0#27 ++ lane ++ mask : BitVec 64).extractLsb' 0 32 = mask := by
  refine BitVec.eq_of_getLsbD_eq fun k hk => ?_
  rw [BitVec.getLsbD_extractLsb', doneWord_getLsbD, Nat.zero_add, if_pos hk, decide_eq_true hk, Bool.true_and]

theorem doneWord_lane (lane : BitVec 5) (mask : BitVec 32) : (0#27 ++ lane ++ mask : BitVec 64).extractLsb' 32 5 = lane := by
  refine BitVec.eq_of_getLsbD_eq fun k hk => ?_
  rw [BitVec.getLsbD_extractLsb', doneWord_getLsbD, if_neg (by omega), Nat.add_sub_cancel_left]
  simp [hk, show 32 + k < 37 by omega]

theorem entered_done_kept (g : Group) (t : Trap) (inRun : Bool) (h : t.performed = 0) : (g.entered t inRun).sp.done = g.sp.done :=
  if_pos h

theorem entered_done (g : Group) (t : Trap) (inRun : Bool) (h : t.performed ≠ 0) (hl : t.flane < 32) :
    (g.entered t inRun).sp.done.extractLsb' 0 32 = g.sp.done.extractLsb' 0 32 ||| t.performed ∧
      ((g.entered t inRun).sp.done.extractLsb' 32 5).toNat = t.flane := by
  have hd : (g.entered t inRun).sp.done = 0#27 ++ BitVec.ofNat 5 t.flane ++ (g.sp.done.extractLsb' 0 32 ||| t.performed) := if_neg h
  rw [hd, doneWord_lanes, doneWord_lane, BitVec.toNat_ofNat, Nat.mod_eq_of_lt hl]
  exact ⟨rfl, rfl⟩

/-! ### Traps at levels T and S (18 R367) -/

theorem takeTrap_level (s : State) (t : Trap) (inRun : Bool) (hp : s.g.priv ≠ 0) : s.takeTrap t inRun = s.resident t.code t.tval :=
  if_pos hp

theorem resident_task (s : State) (code : Nat) (tval : Word) (hp : s.g.priv ≠ 2) :
    s.resident code tval = { s with
      g := { s.g with run := .resident }, stalls := s.stalls.filter (fun p => p.2 != s.g.gid),
      sys := s.sys ++ [⟨s.g.core, s.g.sp.crew, s.g.gid, s.g.pc, code, tval⟩] } :=
  if_neg hp

/-- A trap at level S stops the core, and a machine check of no crew reports it (18 R367). -/
theorem resident_system (s : State) (code : Nat) (tval : Word) (hp : s.g.priv = 2) :
    s.resident code tval = ({ s with
      g := { s.g with run := .resident }, stalls := s.stalls.filter (fun p => p.2 != s.g.gid),
      sys := s.sys ++ [⟨s.g.core, 0, 0, s.g.pc, 0x3F, BitVec.ofNat 64 code⟩] } : State).mapCore s.g.core fun c => { c with stopped := true } :=
  if_pos hp

/-- What a change makes of a core, where it keeps the core's place. -/
theorem mapCore_core (s : State) (n : Nat) (f : Core → Core) (hf : ∀ c, (f c).coord = c.coord) : (s.mapCore n f).core n = f (s.core n) := by
  unfold State.mapCore State.core
  split
  next h =>
    have hp : ((fun c : Core => c.coord == n) ∘ fun c => if c.coord = n then f c else c) = fun c => c.coord == n := by
      funext c
      simp only [Function.comp_apply]
      split <;> simp [hf]
    obtain ⟨c, hc⟩ : ∃ c, s.cores.find? (fun c => c.coord == n) = some c := by
      rw [← Option.isSome_iff_exists, List.find?_isSome]
      simpa using h
    have hn : c.coord = n := by simpa using List.find?_some hc
    simp only [List.find?_map, hp, hc, Option.map_some, Option.getD_some, if_pos hn]
  next h =>
    have hn : s.cores.find? (fun c => c.coord == n) = none := by simpa using h
    rw [List.find?_cons_of_pos (by simp [hf, Core.fresh]), hn]
    rfl

/-- No trap changes memory or another group. -/
theorem takeTrap_frame (s : State) (t : Trap) (inRun : Bool) (hk : t.keep = []) :
    (s.takeTrap t inRun).mem = s.mem ∧ (s.takeTrap t inRun).groups = s.groups := by
  by_cases hp : s.g.priv = 0
  · rw [takeTrap_user s t inRun hp hk]
    exact ⟨rfl, rfl⟩
  · rw [takeTrap_level s t inRun hp]
    by_cases h2 : s.g.priv = 2
    · rw [resident_system s _ _ h2]
      simp
    · rw [resident_task s _ _ h2]
      exact ⟨rfl, rfl⟩

/-- Settles O34: the three levels, each by what `takeTrap` is there. -/
theorem takingAnException : Obligations.TakingAnException := by
  unfold Obligations.TakingAnException
  intro s t inRun hk
  obtain ⟨hmem, hgroups⟩ := takeTrap_frame s t inRun hk
  refine ⟨hmem, fun hp => ?_, fun hp => ?_, fun hp => ?_⟩
  · have hg : (s.takeTrap t inRun).g = (s.g.entered t inRun).delivered := by rw [takeTrap_user s t inRun hp hk]
    have hsys : (s.takeTrap t inRun).sys = s.sys ++ s.g.handlerless := by rw [takeTrap_user s t inRun hp hk]
    simp only [hg, hsys, hgroups, delivered_sp, delivered_lanes, delivered_x, delivered_m, delivered_held, delivered_sent]
    refine ⟨rfl, rfl, rfl, entered_done_kept _ _ _, entered_done _ _ _, ?_, ?_, ?_, ?_, ?_, entered_latch _ _ _, rfl, rfl, trivial, ?_, ?_, ?_,
      ?_, ?_⟩
    -- the fields of sr.status
    · simp [entered_status, statusTrap]
    · simp [entered_status, statusTrap]
    · simp [entered_status, statusTrap]
    · simp [entered_status, statusTrap]
    · exact statusWith_kept _ _ _ _ _
    -- the registers
    · rintro rfl
      exact entered_registers _ _
    · rintro b rfl hb
      exact entered_restored _ _ b hb
    -- where the group goes on
    · intro ht hx
      rw [delivered_valid (s.g.entered t inRun) ht hx]
      exact ⟨rfl, rfl, rfl, by simp [Group.handlerless, ht, hx]⟩
    · intro h
      rw [delivered_invalid (s.g.entered t inRun) h]
      exact ⟨rfl, entered_pc s.g t inRun, congrArg (s.sys ++ ·) (if_pos h)⟩
    · rintro rfl
      exact entered_lrun _ _
  · rw [takeTrap_level s t inRun (by rw [hp]; decide), resident_task s _ _ (by rw [hp]; decide)]
  · rw [takeTrap_level s t inRun (by rw [hp]; decide), resident_system s _ _ hp]
    refine ⟨by simp, ?_, by simp, by simp⟩
    exact congrArg Core.stopped (mapCore_core _ s.g.core (fun c => { c with stopped := true }) fun _ => rfl)

end Sys2Proof.Machine
end

section
/-! SUPPORT. How an issue ends that the laws of `Issue` do not say: by a check at decode, by handing over to another place, and past the
check of the follower (04 R89; 18 R370). -/

namespace Sys2Proof.Machine

theorem knows_nil (s : State) : s.knows [] := fun _ _ _ hc => absurd hc List.not_mem_nil

/-- A trap decided at decode is the instruction's (18 R370). -/
theorem issueOn_decodeTrap (i : Instr) (m : Mode) (cs : List (BitVec 6)) (pre : State → Option Trap) (body : State → Act) (s : State)
    (t : Trap) (hs : s.g.sent = false) (h : decodeTrap i pre s = some t) :
    issueOn cs i m pre body s = .next (s.takeTrap t (readsLatch i)).tick := by
  unfold issueOn issueBlk issueAct
  simp only [hs, Bool.false_eq_true, if_false, h]
  rfl

theorem issueOn_over (i : Instr) (m : Mode) (cs : List (BitVec 6)) (pre : State → Option Trap) (body : State → Act) (s s1 : State)
    (h : s.reaches i cs) (hk : s.knows cs) (hp : pre s = none) (hb : body s = .over s1) : issueOn cs i m pre body s = .next s1.tick := by
  unfold issueOn issueBlk
  rw [issueAct_clear i m cs pre body s h hk hp, hb]
  rfl

/-- Where nothing has been popped, no popped element is watched. -/
theorem poppedAccs_nil (g : Group) (h : g.held = []) : g.poppedAccs = [] := by simp [Group.poppedAccs, h]

theorem watchTrap_nil (g : Group) : g.watchTrap [] = none := by
  unfold Group.watchTrap
  split <;> simp

/-- An instruction that accesses nothing goes on past a follower that reads no latch (04 R89). -/
theorem withFollower_go (i : Instr) (s : State) (k : State → Act) (hf : s.follower i = true) (hh : s.g.held = []) :
    withFollower i s k = k s := by
  have hw : watchedAct s [] k = k s := by
    unfold watchedAct
    rw [poppedAccs_nil s.g hh, List.nil_append, watchTrap_nil]
  unfold withFollower withWatch
  unfold State.follower at hf
  split at hf
  next j w n hj =>
    simp only [hj]
    rw [if_neg (by simpa using hf), hw]
  next hj => simp only [hj, hw]
  next => cases hf

end Sys2Proof.Machine
end

section
/-! The return from a trap (01 R33; 19 R393). -/

namespace Sys2Proof.Machine

/-- The group after `rett` (01 R33). -/
def Group.afterRett (g : Group) (now : Nat) : Group :=
  { g.returned with run := .ready, lastIssue := now, lastPc := g.pc, walkFault := none, sent := false, answers := [] }

theorem rettAct_invalid (s : State) (hsw : s.g.switchStep = 0) (h : s.g.sp.epc.tag ≠ .cap ∨ capHas s.g.sp.epc.bits .x = false) :
    rettAct s = .trap s (trap 0x03 3) := by
  unfold rettAct
  rw [if_neg (not_not.2 hsw), if_pos h]

/-- With a valid sr.epc `rett` returns, and frees journal entries of its core alone (18 R374). -/
theorem rettAct_valid (s : State) (hsw : s.g.switchStep = 0) (ht : s.g.sp.epc.tag = .cap) (hx : capHas s.g.sp.epc.bits .x = true) :
    ∃ f : Core → Core, rettAct s = .over { s.mapCore s.g.core f with g := s.g.afterRett s.clk } := by
  unfold rettAct
  rw [if_neg (not_not.2 hsw), if_neg (by simp [ht, hx])]
  dsimp only
  rw [mapCore_g]
  exact ⟨_, rfl⟩

theorem rett_privilege (s : State) (hp : s.g.priv = 0) : decodeTrap .rett (fun _ => none) s = some (trap 0x38 0) := by
  have hk : kindTrap .rett = none := rfl
  have hl : minLevel .rett = 1 := rfl
  unfold decodeTrap decodeTrap.decodeRest
  rw [hk, hl, hp]
  rfl

/-- Settles O35, by the branches of `rettAct`. -/
theorem returnsFromTraps : Obligations.ReturnsFromTraps := by
  unfold Obligations.ReturnsFromTraps
  intro s hs
  refine ⟨fun hp => issueOn_decodeTrap .rett strict [] _ rettAct s _ hs (rett_privilege s hp), fun hr hsw => ⟨fun h => ?_, fun ht hx => ?_⟩⟩
  · exact issueOn_trap .rett strict [] _ rettAct s _ hr (knows_nil s) rfl (rettAct_invalid s hsw h)
  · obtain ⟨f, hf⟩ := rettAct_valid s hsw ht hx
    refine ⟨_, issueOn_over .rett strict [] _ rettAct s _ hr (knows_nil s) rfl hf, rfl, rfl, rfl, ?_, ?_, ?_, ?_, rfl, rfl, rfl, rfl, rfl, ?_, ?_, ?_⟩
    · simp [Group.afterRett, Group.returned, statusRett]
    · simp [Group.afterRett, Group.returned, statusRett]
    · simp [Group.afterRett, Group.returned, statusRett]
    · exact statusWith_kept_pie _ _ _ _
    · simp
    · simp
    · simp

end Sys2Proof.Machine
end

section
/-! The state after reset (00 R3; 01 R22; 07 R153; 11 R241; 17 R347; 22 R434; 26 R493). -/

namespace Sys2Proof.Machine

/-- No core is listed after reset, so each is as nothing has changed it. -/
theorem reset_core (n : Nat) : State.reset.core n = Core.fresh n := rfl

theorem fresh_sem (core n : Nat) : (Core.fresh core).sem n = ⟨0, []⟩ := by
  simp only [Core.sem, Core.fresh, Vector.toList_replicate, List.getD_eq_getElem?_getD, List.getElem?_replicate]
  split <;> rfl

/-- A handle's GEN stands above the die and the slot (17 R347). -/
theorem handle_gen (u : StoreUnit) (slot : Nat) (hd : u.die < 8) (hs : slot < 8192) :
    (u.handle slot).extractLsb' 16 16 = BitVec.ofNat 16 (u.gen slot) := by
  apply BitVec.eq_of_toNat_eq
  simp only [StoreUnit.handle, BitVec.extractLsb'_toNat, BitVec.toNat_ofNat, Nat.shiftRight_eq_div_pow]
  omega

/-- Settles O1: reset lists nothing, and what is not listed is as power-on leaves it. -/
theorem resetLeavesTheStatedValues : Obligations.ResetLeavesTheStatedValues := by
  unfold Obligations.ResetLeavesTheStatedValues
  refine ⟨rfl, fun a => ⟨rfl, rfl, rfl⟩, fun a n => rfl, fun core n => ?_, fun core => rfl, fun core => ?_, rfl, rfl, rfl, rfl,
    fun die slot hd hs => ?_, fun core => rfl, rfl, rfl, rfl, rfl⟩
  · rw [reset_core, fresh_sem]
  · rw [reset_core]
    exact Vector.toList_replicate
  · rw [handle_gen _ slot (Nat.lt_trans hd (by decide)) hs]
    rfl

end Sys2Proof.Machine
end

section
/-! SUPPORT. The special registers by number (01 R24; 19 R394, R395): those a group holds and those a slice holds, what each reads after a
write of the same and of another number. -/

namespace Sys2Proof.Machine

/-! ### The registers a group holds -/

/-- The special registers that a group holds as it holds them, by number. -/
def Specials.reg (sp : Specials) : Nat → Val
  | 0 => dataWord sp.status
  | 1 => dataWord sp.cause
  | 2 => dataWord sp.tval
  | 3 => sp.epc
  | 4 => dataWord sp.lrun
  | 5 => dataWord sp.done
  | 12 => dataWord sp.asid
  | 13 => dataWord sp.mwb
  | 14 => dataWord sp.swb
  | 15 => dataWord sp.mtime
  | 16 => dataWord sp.felim
  | 17 => dataWord sp.gstat
  | 21 => sp.tvec
  | 24 => sp.spill
  | 25 => sp.evq
  | _ => Val.zero

/-- Their numbers. -/
def groupHeld : List Nat := [0, 1, 2, 3, 4, 5, 12, 13, 14, 15, 16, 17, 21, 24, 25]

theorem special_groupHeld (s : State) (g : Group) (lane n : Nat) (h : n ∈ groupHeld) : s.special g lane n = g.sp.reg n := by
  simp only [groupHeld, List.mem_cons, List.not_mem_nil, or_false] at h
  rcases h with rfl | rfl | rfl | rfl | rfl | rfl | rfl | rfl | rfl | rfl | rfl | rfl | rfl | rfl | rfl <;> rfl

theorem srPerSlice_iff (n : Nat) : srPerSlice n = true ↔ n = 6 ∨ n = 7 ∨ n = 22 ∨ (26 ≤ n ∧ n ≤ 34) := by
  simp [srPerSlice, or_assoc]

/-- What `sr.wr` may write and no slice holds is held by the group, but for the time, the journal's NEXT and the watchdog (01 R25). -/
theorem writable_groupHeld (n : Nat) (priv : BitVec 2) (ha : srAccess n priv = 2) (hs : srPerSlice n = false) (hn : n < 36)
    (h18 : n ≠ 18) (h20 : n ≠ 20) (h23 : n ≠ 23) : n ∈ groupHeld := by
  have hread : ∀ k ∈ [8, 9, 10, 11, 19, 35], srAccess k priv = 1 := by simp [srAccess]
  have hw : n ∉ [8, 9, 10, 11, 19, 35] := fun hm => by simp [hread n hm] at ha
  have hg := mt (srPerSlice_iff n).2 (by simp [hs])
  simp only [groupHeld, List.mem_cons, List.not_mem_nil, or_false] at hw ⊢
  omega

/-- A special register of a group written: the whole of a capability register, or a word. -/
def Specials.put (sp : Specials) (n : Nat) (v : Val) : Specials := if srCap n then sp.setCap n v else sp.setWord n v.word

theorem reg_put_same (sp : Specials) (n : Nat) (v : Val) (h : n ∈ groupHeld) : (sp.put n v).reg n =
    if srCap n then v else dataWord (if n = 5 ∧ sp.status.getLsbD 8 = false then v.word &&& ~~~(0xFFFFFFFF#64) else v.word) := by
  simp only [groupHeld, List.mem_cons, List.not_mem_nil, or_false] at h
  rcases h with rfl | rfl | rfl | rfl | rfl | rfl | rfl | rfl | rfl | rfl | rfl | rfl | rfl | rfl | rfl
  case inr.inr.inr.inr.inr.inl =>
    cases h : sp.status.getLsbD 8 <;>
      simp only [Specials.put, srCap, Specials.setWord, Specials.reg, h] <;> rfl
  all_goals rfl

theorem reg_setWord_other (sp : Specials) (n k : Nat) (w : Word) (h : k ≠ n) : (sp.setWord n w).reg k = sp.reg k := by
  unfold Specials.reg
  split
  case h_16 => rfl
  all_goals
    unfold Specials.setWord
    split <;> simp_all

theorem reg_setCap_other (sp : Specials) (n k : Nat) (v : Val) (h : k ≠ n) : (sp.setCap n v).reg k = sp.reg k := by
  unfold Specials.reg
  split
  case h_16 => rfl
  all_goals
    unfold Specials.setCap
    split <;> simp_all

theorem reg_put_other (sp : Specials) (n k : Nat) (v : Val) (h : k ≠ n) : (sp.put n v).reg k = sp.reg k := by
  unfold Specials.put
  split
  · exact reg_setCap_other sp n k v h
  · exact reg_setWord_other sp n k v.word h

theorem put_crew (sp : Specials) (n : Nat) (v : Val) : (sp.put n v).crew = sp.crew ∧ (sp.put n v).task = sp.task := by
  unfold Specials.put Specials.setCap Specials.setWord
  split <;> split <;> exact ⟨rfl, rfl⟩

/-- sr.lrun and sr.done are registers 4 and 5. -/
theorem reg_counted (sp : Specials) (lrun done : Word) (k : Nat) (h4 : k ≠ 4) (h5 : k ≠ 5) :
    ({ sp with lrun := lrun, done := done } : Specials).reg k = sp.reg k := by
  unfold Specials.reg
  split <;> simp_all

/-- What a register below 26 reads, but for the clock, comes from the group's place and specials, its slices, and the crews, tasks and
cores. -/
theorem special_congr (s t : State) (g h : Group) (lane n : Nat) (hn : n < 26) (h18 : n ≠ 18) (h19 : n ≠ 19) (htasks : t.tasks = s.tasks)
    (hcores : t.cores = s.cores) (hcrews : t.crews = s.crews) (hcore : h.core = g.core) (hgid : h.gid = g.gid)
    (hslices : h.slices = g.slices) (hcrew : h.sp.crew = g.sp.crew) (htask : h.sp.task = g.sp.task) (hreg : h.sp.reg n = g.sp.reg n) :
    t.special h lane n = s.special g lane n := by
  by_cases hm : n ∈ groupHeld
  · rw [special_groupHeld t h lane n hm, special_groupHeld s g lane n hm, hreg]
  · have hc : n ∈ [6, 7, 8, 9, 10, 11, 20, 22, 23] := by
      simp only [groupHeld, List.mem_cons, List.not_mem_nil, or_false] at hm ⊢
      omega
    simp only [List.mem_cons, List.not_mem_nil, or_false] at hc
    rcases hc with rfl | rfl | rfl | rfl | rfl | rfl | rfl | rfl | rfl <;>
      simp [State.special, State.taskWord, State.task, State.jhead, State.core, State.crew, Group.sliceOf, htasks, hcores, hcrews, hcore, hgid,
        hslices, hcrew, htask]

/-! ### The registers a slice holds -/

/-- A slice's special registers by number. -/
def Slice.reg (sl : Slice) (n : Nat) : Val :=
  match n with
  | 6 => dataWord sl.fmode
  | 7 => dataWord sl.fmt
  | 22 => sl.save
  | 34 => dataWord sl.psamp
  | _ => if n < 30 then dataWord (sl.bp.toList.getD (n - 26) 0) else dataWord (sl.wp.toList.getD (n - 30) 0)

theorem special_slice (s : State) (g : Group) (lane n : Nat) (sl : Slice) (h : srPerSlice n = true) (hs : g.sliceOf lane = some sl) :
    s.special g lane n = sl.reg n := by
  rcases (srPerSlice_iff n).1 h with rfl | rfl | rfl | ⟨h1, h2⟩
  case inr.inr.inr =>
    interval_cases n <;> simp only [State.special, hs] <;> rfl
  all_goals
    simp only [State.special, hs]
    rfl

/-- A special register of a slice written at a clk. -/
def Slice.put (sl : Slice) (n clk : Nat) (v : Val) : Slice := if n = 22 then { sl with save := v } else sl.setWord n clk v.word

@[simp] theorem slicePut_idx (sl : Slice) (n clk : Nat) (v : Val) : (sl.put n clk v).idx = sl.idx := by
  unfold Slice.put Slice.setWord
  repeat' split
  all_goals rfl

theorem slicePut_reg (sl : Slice) (n clk : Nat) (v : Val) (h : srPerSlice n = true) :
    (sl.put n clk v).reg n = if n = 22 then v else dataWord v.word := by
  rcases (srPerSlice_iff n).1 h with rfl | rfl | rfl | ⟨h1, h2⟩
  case inr.inr.inr =>
    interval_cases n <;> simp [Slice.put, Slice.setWord, Slice.reg]
  all_goals rfl

end Sys2Proof.Machine
end

section
/-! SUPPORT. `sr.rd` and `sr.wr` (19 R394, R395): the checks of access, and what a write of the issuing group's registers leaves. -/

namespace Sys2Proof.Machine

/-! ### Access -/

theorem srTrap_none (i : Instr) (n need : Nat) (s : State) (hn : n < 36) (ha : need ≤ srAccess n s.g.priv) : srTrap i n need s = none := by
  unfold srTrap
  rw [if_neg (Nat.not_le.2 hn), if_neg (Nat.not_lt.2 ha)]

theorem srTrap_number (i : Instr) (n need : Nat) (s : State) (hn : 36 ≤ n) :
    srTrap i n need s = some (trapEnc i.word (s.g.encDist (readsLatch i))) := if_pos hn

theorem srTrap_level (i : Instr) (n need : Nat) (s : State) (hn : n < 36) (ha : srAccess n s.g.priv < need) :
    srTrap i n need s = some (trap 0x38 (BitVec.ofNat 64 n)) := by
  unfold srTrap
  rw [if_neg (Nat.not_le.2 hn), if_pos ha]

/-- The low half of the trap value of an encoding trap is the instruction (04 R92). -/
theorem encTval_low (word dist : Nat) : (encTval word dist).toNat % 2 ^ 32 = word % 2 ^ 32 := by
  rw [encTval, BitVec.toNat_ofNat]
  omega

theorem encTval_zero (word : Nat) : encTval word 0 = BitVec.ofNat 64 (word % 2 ^ 32) := rfl

/-- The own check of an instruction that needs no level and no kind of core is decided at decode. -/
theorem decodeTrap_pre (i : Instr) (pre : State → Option Trap) (s : State) (t : Trap) (hk : kindTrap i = none) (hl : minLevel i = 0)
    (h : pre s = some t) : decodeTrap i pre s = some t := by
  unfold decodeTrap decodeTrap.decodeRest
  rw [hk, hl, h]
  rfl

theorem exec_sr_trap (i : Instr) (sc x : BitVec 6) (s : State) (t : Trap) (hi : i = .srRd sc x ∨ i = .srWr sc x) (hs : s.g.sent = false)
    (h : srTrap i sc.toNat (if i = .srRd sc x then 1 else 2) s = some t) : exec i s = .next (s.takeTrap t (readsLatch i)).tick := by
  rcases hi with rfl | rfl
  · exact issueOn_decodeTrap _ _ _ _ _ s t hs (decodeTrap_pre _ _ s t rfl rfl (by simpa using h))
  · exact issueOn_decodeTrap _ _ _ _ _ s t hs (decodeTrap_pre _ _ s t rfl rfl (by simpa using h))

/-! ### Reading -/

theorem srRdAct_done (i : Instr) (n : Nat) (s : State) (hb : n = 6 → s.g.fpBusy = none) (hst : ∀ c ∈ dsts i, s.g.stream c = none) :
    srRdAct i n s = .done { s with g := s.g.gets i (s.g.acts.map fun l => (l.no, s.special s.g l.no n)) [] } := by
  have hn : (if n = 6 then s.g.fpBusy else none) = none := by
    split
    · exact hb ‹_›
    · rfl
  unfold srRdAct
  rw [hn]
  exact deliver_done i _ _ s hst

/-! ### Writing -/

theorem srCheck_none (s : State) (level : BitVec 2) (g : Group) (n : Nat) (v : Val) (code : BitVec 6) (enc : Word)
    (h : if srCap n then v.tag = .cap else srRuleAt level n g.sp.status v.word = none) : s.srCheck level g n v code enc = none := by
  unfold State.srCheck
  split at h
  next hc => rw [if_pos hc, if_pos h]
  next hc => rw [if_neg hc, h]; rfl

/-- A write whose values all pass goes on, past the check of its follower, to the registers (19 R395). -/
theorem srWrAct_done (i : Instr) (n : Nat) (a : BitVec 6) (s : State) (hb : n = 6 → s.g.fpBusy = none) (hf : s.follower i = true)
    (hh : s.g.held = [])
    (hc : ∀ l ∈ s.g.writers (srPerSlice n),
      if srCap n then (s.g.read l a).tag = .cap else srRule n s.g.sp.status (s.g.read l a).word = none) :
    srWrAct i n a s = .done (s.setSpecials s.g.gid n ((s.g.writers (srPerSlice n)).map fun l => (l.no, s.g.read l a))) := by
  have hn : (if n = 6 then s.g.fpBusy else none) = none := by
    split
    · exact hb ‹_›
    · rfl
  unfold srWrAct
  rw [hn]
  dsimp only
  rw [List.findSome?_eq_none_iff.2]
  · exact withFollower_go i s _ hf hh
  · intro p hp
    obtain ⟨l, hl, rfl⟩ := List.mem_map.1 hp
    exact srCheck_none s _ s.g n _ a _ (hc l hl)

/-- A write of one value that is refused takes the trap of the check (19 R395). -/
theorem srWrAct_refused (i : Instr) (n : Nat) (a : BitVec 6) (s : State) (l : Lane) (rest : List Lane) (t : Trap)
    (hp : srPerSlice n = false) (hl : s.g.acts = l :: rest)
    (hc : s.srCheck (statusPriv s.g.sp.status) s.g n (s.g.read l a) a (encTval i.word (s.g.encDist (readsLatch i))) = some t) :
    srWrAct i n a s = .trap s t := by
  have h6 : n ≠ 6 := by rintro rfl; cases hp
  unfold srWrAct
  rw [if_neg h6]
  simp only [hp, Group.writers, Bool.false_eq_true, if_false, hl, List.take_succ_cons, List.take_zero, List.map_cons, List.map_nil,
    List.findSome?_cons, hc]

/-- The state with a special register that the issuing group holds written. -/
def State.srPut (s : State) (n : Nat) (v : Val) : State := { s with g := { s.g with sp := s.g.sp.put n v } }

theorem setSpecial_group (s : State) (lane n : Nat) (v : Val) (hp : srPerSlice n = false) (h18 : n ≠ 18) (h20 : n ≠ 20) (h23 : n ≠ 23) :
    s.setSpecial s.g.gid lane n v = s.srPut n v := by
  have h22 : n ≠ 22 := by rintro rfl; cases hp
  unfold State.srPut State.setSpecial State.group Specials.put State.mapGroup
  rw [if_pos rfl]
  dsimp only
  rw [if_neg h18, if_neg h20, if_neg h23, if_neg h22, if_neg (by simp [hp])]
  split <;> rw [if_pos rfl]

/-- A write of a register that each slice holds. -/
theorem setSpecial_slice (s : State) (lane n : Nat) (v : Val) (hp : srPerSlice n = true) :
    s.setSpecial s.g.gid lane n v = { s with g := s.g.mapSlice (lane / 4) fun sl => sl.put n s.clk v } := by
  have hn := (srPerSlice_iff n).1 hp
  unfold State.setSpecial State.group Slice.put State.mapGroup
  rw [if_pos rfl]
  dsimp only
  rw [if_neg (by omega), if_neg (by omega), if_neg (by omega)]
  by_cases h22 : n = 22
  · simp only [if_pos h22, if_true]
  · simp only [if_neg h22, hp, if_true]

/-- A slice after the writes of some lanes, each of which goes to its own slice. -/
def Slice.puts (sl : Slice) (n clk : Nat) (vals : List (Nat × Val)) : Slice :=
  vals.foldl (fun sl p => if sl.idx = p.1 / 4 then sl.put n clk p.2 else sl) sl

/-- The state with a special register of the issuing group's slices written from some lanes. -/
def State.srPuts (s : State) (n : Nat) (vals : List (Nat × Val)) : State :=
  { s with g := { s.g with slices := s.g.slices.map (·.puts n s.clk vals) } }

theorem setSpecials_slices (n : Nat) (hp : srPerSlice n = true) (vals : List (Nat × Val)) (s : State) :
    s.setSpecials s.g.gid n vals = s.srPuts n vals := by
  induction vals generalizing s with
  | nil => simp [State.setSpecials, State.srPuts, Slice.puts]
  | cons p t ih =>
    obtain ⟨lane, v⟩ := p
    rw [State.setSpecials, setSpecial_slice s lane n v hp]
    refine (ih _).trans ?_
    simp [State.srPuts, Group.mapSlice, Slice.puts]

@[simp] theorem puts_idx (sl : Slice) (n clk : Nat) (vals : List (Nat × Val)) : (sl.puts n clk vals).idx = sl.idx := by
  induction vals generalizing sl with
  | nil => rfl
  | cons p t ih =>
    rw [Slice.puts, List.foldl_cons]
    refine (ih _).trans ?_
    split
    · exact slicePut_idx sl n clk p.2
    · rfl

/-- Where all the writes that reach a slice give one value, the register reads as that value if any of them does, or as it did. -/
theorem puts_reg (n clk : Nat) (hp : srPerSlice n = true) (v : Val) (vals : List (Nat × Val)) (sl : Slice)
    (hv : ∀ p ∈ vals, sl.idx = p.1 / 4 → p.2 = v)
    (h : (∃ p ∈ vals, sl.idx = p.1 / 4) ∨ sl.reg n = if n = 22 then v else dataWord v.word) :
    (sl.puts n clk vals).reg n = if n = 22 then v else dataWord v.word := by
  induction vals generalizing sl with
  | nil =>
    rcases h with ⟨p, hm, -⟩ | h
    · cases hm
    · exact h
  | cons p t ih =>
    rw [Slice.puts, List.foldl_cons]
    by_cases hi : sl.idx = p.1 / 4
    · rw [if_pos hi, hv p (by simp) hi]
      exact ih _ (by simpa using fun a b hm => hv (a, b) (by simp [hm])) (.inr (slicePut_reg sl n clk v hp))
    · rw [if_neg hi]
      refine ih sl (fun q hq => hv q (by simp [hq])) (h.imp_left ?_)
      rintro ⟨q, hq, hqi⟩
      rcases List.mem_cons.1 hq with rfl | hq
      · exact absurd hqi hi
      · exact ⟨q, hq, hqi⟩

end Sys2Proof.Machine
end

section
/-! Special registers (01 R24 to R27; 19 R394, R395). -/

namespace Sys2Proof.Machine

/-- An instruction past its work counts no register of its group but sr.lrun and sr.done, and those at level U alone. -/
theorem past_reg (i : Instr) (s1 s : State) (k : Nat) (h : s.g.priv ≠ 0 ∨ (k ≠ 4 ∧ k ≠ 5)) :
    (s1.past i s).g.sp.reg k = s1.g.sp.reg k := by
  rcases h with h | ⟨h4, h5⟩
  · have hsp : (s1.past i s).g.sp = s1.g.sp := by simp only [State.past, Group.past, h, and_false, if_false]
    rw [hsp]
  · exact reg_counted _ _ _ k h4 h5

theorem exec_srWr (sc a : BitVec 6) (s s1 : State) (hc : s.clear (.srWr sc a) [a]) (hn : sc.toNat < 36)
    (ha : srAccess sc.toNat s.g.priv = 2) (hb : srWrAct (.srWr sc a) sc.toNat a s = .done s1) (hh : s1.g.held = []) :
    exec (.srWr sc a) s = .next (s1.past (.srWr sc a) s) :=
  issueOn_done _ _ [a] _ _ s s1 hc (srTrap_none _ _ _ s hn (Nat.le_of_eq ha.symm)) hb hh

/-- `sr.rd` gives each active lane its slice's register (19 R394). -/
theorem exec_srRd (sc d : BitVec 6) (s : State) (hc : s.clear (.srRd sc d) []) (hn : sc.toNat < 36) (ha : 1 ≤ srAccess sc.toNat s.g.priv)
    (hb : sc.toNat = 6 → s.g.fpBusy = none) :
    exec (.srRd sc d) s = .next (s.computes (.srRd sc d) fun l => s.special s.g l.no sc.toNat) := by
  have hst : ∀ c ∈ dsts (.srRd sc d), s.g.stream c = none := by
    obtain ⟨⟨-, -, -, -, -, -, -, -, -, -, -, -, hst⟩, -, -⟩ := hc
    exact fun c hm => hst c (by simpa using hm)
  refine issueOn_done _ _ [] _ _ s _ hc (srTrap_none _ _ _ s hn ha) (srRdAct_done _ _ s hb hst) ?_
  obtain ⟨⟨-, hheld, -⟩, -, -⟩ := hc
  exact (gets_held _ _ _ _).trans hheld

/-- `sr.wr` of a register that the group holds (19 R395; log 15). -/
theorem exec_srWr_group (sc a : BitVec 6) (s : State) (l : Lane) (rest : List Lane) (hc : s.clear (.srWr sc a) [a])
    (hf : s.follower (.srWr sc a) = true) (hn : sc.toNat < 36) (ha : srAccess sc.toNat s.g.priv = 2) (hp : srPerSlice sc.toNat = false)
    (h18 : sc.toNat ≠ 18) (h20 : sc.toNat ≠ 20) (h23 : sc.toNat ≠ 23) (hl : s.g.acts = l :: rest)
    (hv : if srCap sc.toNat then (s.g.read l a).tag = .cap else srRule sc.toNat s.g.sp.status (s.g.read l a).word = none) :
    exec (.srWr sc a) s = .next
      ((s.srPut sc.toNat (s.g.read l a)).past (.srWr sc a) s) := by
  have h6 : sc.toNat ≠ 6 := by
    intro h
    rw [h] at hp
    cases hp
  have hw : s.g.writers (srPerSlice sc.toNat) = [l] := by simp [hp, Group.writers, hl]
  refine exec_srWr sc a s _ hc hn ha ?_ hc.1.2.1
  rw [srWrAct_done _ _ a s (fun h => absurd h h6) hf hc.1.2.1 (by simpa [hw] using hv), hw]
  exact congrArg Act.done (setSpecial_group s l.no sc.toNat _ hp h18 h20 h23)

/-- `sr.wr` of a register that each slice holds (19 R395; log 15). -/
theorem exec_srWr_slice (sc a : BitVec 6) (s : State) (hc : s.clear (.srWr sc a) [a]) (hf : s.follower (.srWr sc a) = true)
    (hp : srPerSlice sc.toNat = true) (ha : srAccess sc.toNat s.g.priv = 2) (hb : sc.toNat = 6 → s.g.fpBusy = none)
    (hv : ∀ l ∈ s.g.acts, if srCap sc.toNat then (s.g.read l a).tag = .cap else srRule sc.toNat s.g.sp.status (s.g.read l a).word = none) :
    exec (.srWr sc a) s = .next
      ((s.srPuts sc.toNat ((s.g.writers true).map fun l => (l.no, s.g.read l a))).past (.srWr sc a) s) := by
  have hn : sc.toNat < 36 := by
    have := (srPerSlice_iff _).1 hp
    omega
  have hw : ∀ l ∈ s.g.writers (srPerSlice sc.toNat), l ∈ s.g.acts := by
    intro l hl
    rw [hp, Group.writers, if_pos rfl, List.mem_filterMap] at hl
    obtain ⟨sl, -, hf⟩ := hl
    exact List.mem_of_find?_eq_some hf
  refine exec_srWr sc a s _ hc hn ha ?_ hc.1.2.1
  rw [srWrAct_done _ _ a s hb hf hc.1.2.1 fun l hl => hv l (hw l hl), hp]
  exact congrArg Act.done (setSpecials_slices _ hp _ s)

/-- A slice whose lowest active lane is `l` has that lane's value in the register after such a write. -/
theorem puts_writers (g : Group) (a : BitVec 6) (n clk : Nat) (hp : srPerSlice n = true) (sl : Slice) (hs : sl ∈ g.slices) (l : Lane)
    (hl : g.acts.find? (fun l => l.no / 4 == sl.idx) = some l) :
    (sl.puts n clk ((g.writers true).map fun l => (l.no, g.read l a))).reg n =
      if n = 22 then g.read l a else dataWord (g.read l a).word := by
  have hno : l.no / 4 = sl.idx := by simpa using List.find?_some hl
  refine puts_reg n clk hp (g.read l a) _ sl ?_ (.inl ⟨(l.no, g.read l a), ?_, hno.symm⟩)
  · intro p hm hi
    obtain ⟨k, hk, rfl⟩ := List.mem_map.1 hm
    rw [Group.writers, if_pos rfl, List.mem_filterMap] at hk
    obtain ⟨sk, -, hf⟩ := hk
    have hkn : k.no / 4 = sk.idx := by simpa using List.find?_some hf
    rw [← hkn, ← hi, hl] at hf
    cases hf
    rfl
  · refine List.mem_map.2 ⟨l, ?_, rfl⟩
    rw [Group.writers, if_pos rfl, List.mem_filterMap]
    exact ⟨sl, hs, hl⟩

/-- What a register of the group reads after `sr.wr` of it, and every other register below 26 but the counted ones and the clock. -/
theorem special_after_put (i : Instr) (s : State) (lane n : Nat) (v : Val) (hn : n ∈ groupHeld) (ha : s.g.priv ≠ 0 ∨ (n ≠ 4 ∧ n ≠ 5)) :
    let t := (s.srPut n v).past i s
    t.special t.g lane n =
        (if srCap n then v else asData (if n = 5 ∧ s.g.sp.status.getLsbD 8 = false then v.word &&& ~~~(0xFFFFFFFF#64) else v.word)) ∧
      ∀ k, k < 26 → k ≠ n → k ≠ 4 → k ≠ 5 → k ≠ 18 → k ≠ 19 → t.special t.g lane k = s.special s.g lane k := by
  refine ⟨?_, fun k hk hkn h4 h5 h18 h19 => ?_⟩
  · rw [special_groupHeld _ _ _ _ hn, past_reg _ _ _ _ ha]
    exact reg_put_same s.g.sp n v hn
  · obtain ⟨hcrew, htask⟩ := put_crew s.g.sp n v
    refine special_congr s _ s.g _ lane k hk h18 h19 rfl rfl rfl rfl rfl rfl hcrew htask ?_
    exact (past_reg _ _ _ _ (.inr ⟨h4, h5⟩)).trans (reg_put_other _ _ _ _ hkn)

/-- Of the registers that a slice holds, sr.save alone holds a capability (01 R24). -/
theorem srCap_slice (n : Nat) (h : srPerSlice n = true) : srCap n = true ↔ n = 22 := by
  rcases (srPerSlice_iff n).1 h with rfl | rfl | rfl | ⟨h1, h2⟩
  case inr.inr.inr => interval_cases n <;> decide
  all_goals decide

/-- What a register of a slice reads, in the slice's lowest active lane, after `sr.wr` of it. -/
theorem special_after_puts (i : Instr) (s : State) (a : BitVec 6) (n : Nat) (hp : srPerSlice n = true) (sl : Slice) (hs : sl ∈ s.g.slices)
    (l : Lane) (hl : s.g.acts.find? (fun l => l.no / 4 == sl.idx) = some l) :
    let t := (s.srPuts n ((s.g.writers true).map fun l => (l.no, s.g.read l a))).past i s
    t.special t.g l.no n = if n = 22 then s.g.read l a else dataWord (s.g.words l a) := by
  intro t
  have hno : l.no / 4 = sl.idx := by simpa using List.find?_some hl
  let vals := (s.g.writers true).map fun l => (l.no, s.g.read l a)
  obtain ⟨sk, hfind⟩ : ∃ sk, s.g.sliceOf l.no = some sk := by
    refine Option.isSome_iff_exists.1 (List.find?_isSome.2 ⟨sl, hs, ?_⟩)
    simp [hno]
  have hidx : sk.idx = l.no / 4 := by simpa using List.find?_some hfind
  have hsk : t.g.sliceOf l.no = some (sk.puts n s.clk vals) := by
    have hm : t.g.sliceOf l.no = (s.g.slices.map (·.puts n s.clk vals)).find? (·.idx == l.no / 4) := rfl
    rw [hm, List.find?_map]
    have hf : ((fun x : Slice => x.idx == l.no / 4) ∘ fun x : Slice => x.puts n s.clk vals) = fun x => x.idx == l.no / 4 := by
      funext x
      simp
    rw [hf]
    exact congrArg _ hfind
  rw [special_slice _ _ _ _ _ hp hsk]
  refine puts_writers s.g a n s.clk hp sk (List.mem_of_find?_eq_some hfind) l ?_
  rw [hidx, hno]
  exact hl

/-- sr.lrun and sr.done are not written at level U (01 R25). -/
theorem counted_not_user (g : Group) (n : Nat) (ha : srAccess n g.priv = 2) : g.priv ≠ 0 ∨ (n ≠ 4 ∧ n ≠ 5) := by
  refine or_iff_not_imp_left.2 fun h0 => ?_
  rw [not_not.1 h0] at ha
  constructor <;> rintro rfl <;> cases ha

/-- The trap of a refused `sr.wr` (19 R395). -/
theorem exec_srWr_refused (sc a : BitVec 6) (s : State) (l : Lane) (rest : List Lane) (t : Trap) (hc : s.clear (.srWr sc a) [a])
    (hn : sc.toNat < 36) (ha : srAccess sc.toNat s.g.priv = 2) (hp : srPerSlice sc.toNat = false) (hl : s.g.acts = l :: rest)
    (h56 : a.toNat < 56)
    (ht : s.srCheck (statusPriv s.g.sp.status) s.g sc.toNat (s.g.read l a) a (BitVec.ofNat 64 ((Instr.srWr sc a).word % 2 ^ 32)) = some t) :
    exec (.srWr sc a) s = .next (s.takeTrap t false).tick := by
  have hr : readsLatch (.srWr sc a) = false := by
    have hs : srcs (.srWr sc a) = [a] := rfl
    unfold readsLatch
    rw [hs]
    simpa using h56
  have hb : srWrAct (.srWr sc a) sc.toNat a s = .trap s t := srWrAct_refused _ _ a s l rest t hp hl (by
    rw [hr, show s.g.encDist false = 0 from rfl, encTval_zero]
    exact ht)
  have hx := issueOn_trap (.srWr sc a) (if srPerSlice sc.toNat then strict else elected) [a] (srTrap (.srWr sc a) sc.toNat 2) _ s t hc.1 hc.2.1
    (srTrap_none _ _ _ s hn (Nat.le_of_eq ha.symm)) hb
  rw [hr] at hx
  exact hx

/-- Settles O38: the reads and writes from their bodies, the traps from the checks of access and of values. -/
theorem specialRegistersAreReadAndWritten : Obligations.SpecialRegistersAreReadAndWritten := by
  unfold Obligations.SpecialRegistersAreReadAndWritten
  refine ⟨?_, ?_, ?_, ?_, ?_⟩
  -- sr.rd
  · intro sc d s hc hn ha hb
    exact exec_srRd sc d s hc hn ha fun h => hb (BitVec.eq_of_toNat_eq h)
  -- sr.wr of a group's register
  · intro sc a s l rest hc hf hn ha hp h18 h20 h23 hl v hv
    have hne (k : BitVec 6) (h : sc ≠ k) : sc.toNat ≠ k.toNat := fun e => h (BitVec.eq_of_toNat_eq e)
    have hheld := writable_groupHeld sc.toNat s.g.priv ha hp hn (hne 18 h18) (hne 20 h20) (hne 23 h23)
    obtain ⟨hsame, hother⟩ := special_after_put (.srWr sc a) s l.no sc.toNat v hheld (counted_not_user s.g sc.toNat ha)
    refine ⟨_, exec_srWr_group sc a s l rest hc hf hn ha hp (hne 18 h18) (hne 20 h20) (hne 23 h23) hl hv, rfl, rfl, rfl, rfl, rfl, ?_,
      hother, rfl⟩
    have h5 : (sc = 5) = (sc.toNat = 5) := propext BitVec.toNat_inj.symm
    simp only [h5]
    exact hsame
  -- sr.wr of a slice's register
  · intro sc a s hc hf hp ha hb hnd hv
    have hb6 (h : sc.toNat = 6) : s.g.fpBusy = none := hb (BitVec.eq_of_toNat_eq h)
    have h22 : (sc = 22) = (sc.toNat = 22) := propext BitVec.toNat_inj.symm
    simp only [h22] at hv ⊢
    refine ⟨_, exec_srWr_slice sc a s hc hf hp ha hb6 fun l hl => ?_, rfl, rfl, rfl, fun sl hsl l hl => ?_⟩
    · have hcap : (srCap sc.toNat = true) = (sc.toNat = 22) := propext (srCap_slice _ hp)
      simp only [hcap]
      exact hv l hl
    · exact (special_after_puts (.srWr sc a) s a sc.toNat hp sl hsl l hl).trans rfl
  -- a number beyond 35, and a level below the register's
  · intro i sc x s hi hs need
    refine ⟨fun hn => ⟨_, exec_sr_trap i sc x s _ hi hs (srTrap_number _ _ _ s hn), encTval_low _ _⟩, fun hn ha => ?_⟩
    have hx := exec_sr_trap i sc x s _ hi hs (srTrap_level _ _ _ s hn ha)
    rw [BitVec.ofNat_toNat] at hx
    exact hx
  -- refused values
  · intro sc a s l rest hc hn ha hp hl h56
    refine ⟨fun hcap ht => ?_, fun hcap hr => ?_, fun hcap hr => ?_⟩ <;>
      refine exec_srWr_refused sc a s l rest _ hc hn ha hp hl h56 ?_
    · simp [State.srCheck, hcap, ht, trapReg]
    · simp [State.srCheck, hcap, show srRuleAt (statusPriv s.g.sp.status) sc.toNat s.g.sp.status (s.g.read l a).word = some 0x38 from hr]
    · simp [State.srCheck, hcap, show srRuleAt (statusPriv s.g.sp.status) sc.toNat s.g.sp.status (s.g.read l a).word = some 0x01 from hr]

end Sys2Proof.Machine
end

section
/-! Forms that name registers only (04 R84; 05 R102): the integer, capability and floating-point forms of the tables. -/

namespace Sys2Proof.Machine

/-! ### What is left of a group that takes results -/

theorem reg_setReg_other (l : Lane) (d c : BitVec 6) (v : Val) (h : d ≠ c) : (l.setReg d v).reg c = l.reg c := by
  have hn : d.toNat ≠ c.toNat := fun e => h (BitVec.eq_of_toNat_eq e)
  unfold Lane.setReg
  split
  next hd =>
    split
    · rfl
    · unfold Lane.reg
      split
      next hc => rw [Vector.getElem_set_ne hd hc hn]
      next => rfl
  next => rfl

theorem setReg_no (l : Lane) (d : BitVec 6) (v : Val) : (l.setReg d v).no = l.no := by
  unfold Lane.setReg
  split
  · split <;> rfl
  · rfl

/-- Each lane is a lane of `g` by number, with one register as it was there. -/
def Group.keepsReg (c : BitVec 6) (g h : Group) : Prop := ∀ l ∈ h.lanes, ∃ k ∈ g.lanes, k.no = l.no ∧ l.reg c = k.reg c

theorem keepsReg_refl (c : BitVec 6) (g : Group) : g.keepsReg c g := fun l hl => ⟨l, hl, rfl, rfl⟩

theorem keepsReg_trans {c : BitVec 6} {g h k : Group} (h1 : g.keepsReg c h) (h2 : h.keepsReg c k) : g.keepsReg c k := by
  intro l hl
  obtain ⟨m, hm, hmn, hmr⟩ := h2 l hl
  obtain ⟨n, hn, hnn, hnr⟩ := h1 m hm
  exact ⟨n, hn, hnn.trans hmn, hmr.trans hnr⟩

/-- A change lane by lane that keeps each lane's number and register. -/
theorem keepsReg_map (c : BitVec 6) (g h : Group) (f : Lane → Lane) (hl : h.lanes = g.lanes.map f)
    (hf : ∀ l, (f l).no = l.no ∧ (f l).reg c = l.reg c) : g.keepsReg c h := by
  intro l hm
  rw [hl] at hm
  obtain ⟨k, hk, rfl⟩ := List.mem_map.1 hm
  exact ⟨k, hk, (hf k).1.symm, (hf k).2⟩

theorem write_keepsReg (g : Group) (d c : BitVec 6) (v : List (Nat × Val)) (h : d ≠ c) : g.keepsReg c (g.write d v) := by
  unfold Group.write
  split
  · exact keepsReg_refl c g
  · refine keepsReg_map c g _ _ rfl fun l => ?_
    split
    · exact ⟨setReg_no l d _, reg_setReg_other l d c _ h⟩
    · exact ⟨rfl, rfl⟩

theorem pushLatch_keepsReg (g : Group) (c : BitVec 6) (v : List (Nat × Val)) : g.keepsReg c (g.pushLatch v) := by
  refine keepsReg_map c g _ _ rfl fun l => ?_
  split <;> exact ⟨rfl, rfl⟩

/-- Results change no register but the destination. -/
theorem gets_keepsReg (g : Group) (i : Instr) (v : List (Nat × Val)) (fl : List (Nat × Flags)) (c : BitVec 6) (h : dst i ≠ some c) :
    g.keepsReg c (g.gets i v fl) := by
  unfold Group.gets
  have hw : g.keepsReg c (match dst i with | some d => g.write d v | none => g) := by
    cases hd : dst i with
    | none => exact keepsReg_refl c g
    | some d => exact write_keepsReg g d c v fun e => h (by rw [hd, e])
  cases isShort i with
  | false => exact hw
  | true => exact keepsReg_trans hw (pushLatch_keepsReg _ c v)

/-- A group as another is, but for its lanes and its slices. -/
def Group.alike (g h : Group) : Prop := h = { g with lanes := h.lanes, slices := h.slices }

theorem alike_kept {g h : Group} (a : g.alike h) : h.sp = g.sp ∧ h.x = g.x ∧ h.m = g.m ∧ h.codeCap = g.codeCap :=
  ⟨(congrArg Group.sp a).trans rfl, (congrArg Group.x a).trans rfl, (congrArg Group.m a).trans rfl, (congrArg Group.codeCap a).trans rfl⟩

theorem alike_trans {g h k : Group} (h1 : g.alike h) (h2 : h.alike k) : g.alike k :=
  Eq.trans h2 (congrArg (fun x : Group => { x with lanes := k.lanes, slices := k.slices }) h1)

theorem write_alike (g : Group) (d : BitVec 6) (v : List (Nat × Val)) : g.alike (g.write d v) := by
  unfold Group.alike Group.write
  cases g.banked d <;> rfl

theorem pushLatch_alike (g : Group) (v : List (Nat × Val)) : g.alike (g.pushLatch v) := rfl

theorem raise_alike (g : Group) (fl : List (Nat × Flags)) : g.alike (g.raise fl) := rfl

/-- Of a group that takes results, only its lanes and its slices may change. -/
theorem gets_alike (g : Group) (i : Instr) (v : List (Nat × Val)) (fl : List (Nat × Flags)) : g.alike (g.gets i v fl) := by
  unfold Group.gets
  have hw : g.alike (match dst i with | some d => g.write d v | none => g) := by
    cases dst i with
    | none => rfl
    | some d => exact write_alike g d v
  cases isShort i with
  | false => exact alike_trans hw (raise_alike _ fl)
  | true => exact alike_trans (alike_trans hw (pushLatch_alike _ v)) (raise_alike _ fl)

/-! ### What comes of a form that names registers only -/

/-- The state past an instruction that gave the group results and made it forfeit `n` issue turns in all. -/
def State.gave (s : State) (i : Instr) (vals : List (Nat × Val)) (fl : List (Nat × Flags)) (n : Nat) : State :=
  State.past { s with g := { s.g.gets i vals fl with forfeit := n } } i s

/-- An instruction goes past itself with results, flags and forfeited turns, whatever they are. -/
def Gives (i : Instr) (s : State) (o : Host.Outcome State Fault Refusal) : Prop := ∃ vals fl n, o = .next (s.gave i vals fl n)

section Forms
variable (i : Instr) (s : State) (h : s.clear i (srcs i))
include h

/-- No stream is bound to a register of an instruction that nothing stands in the way of. -/
theorem clear_stream : ∀ c ∈ srcs i ++ dsts i, s.g.stream c = none := by
  obtain ⟨⟨-, -, -, -, -, -, -, -, -, -, -, -, hst⟩, -, -⟩ := h
  exact hst

theorem clear_dst_stream : ∀ c ∈ dsts i, s.g.stream c = none := fun c hc => clear_stream i s h c (by simp [hc])

theorem clear_held : s.g.held = [] := by
  obtain ⟨⟨-, hheld, -⟩, -, -⟩ := h
  exact hheld

theorem clear_known : ∀ l ∈ s.g.acts, ∀ c ∈ srcs i, (s.g.read l c).known = true := by
  obtain ⟨-, hk, -⟩ := h
  exact hk

theorem gives_of_done (m : Mode) (blk : Group → Bool) (body : State → Act) (v : List (Nat × Val)) (fl : List (Nat × Flags)) (n : Nat)
    (hblk : blk s.g = false) (hb : body s = .done { s with g := { s.g.gets i v fl with forfeit := n } }) :
    Gives i s (issueBlk (srcs i) i m blk (fun _ => none) body s) :=
  ⟨v, fl, n, issueBlk_done i m (srcs i) blk _ body s _ h rfl hblk hb ((gets_held s.g i v fl).trans (clear_held i s h))⟩

/-- A form whose body is the results of its lanes, with or without turns to pay for. -/
theorem issueBlk_gives (m : Mode) (blk : Group → Bool) (f : Group → Lane → Option (Val × Flags)) (body : State → Act)
    (hblk : blk s.g = false) (hf : ∀ l ∈ s.g.acts, (f s.g l).isSome)
    (hb : ∀ s1, laneAct i f s = .done s1 → body s = .done s1 ∨ body s = .done { s1 with g := s1.g.pay }) :
    Gives i s (issueBlk (srcs i) i m blk (fun _ => none) body s) := by
  have hst := clear_dst_stream i s h
  have hr : ∀ l ∈ s.g.acts, f s.g l = some ((f s.g l).getD (Val.zero, Flags.zero)) := by
    intro l hl
    obtain ⟨v, hv⟩ := Option.isSome_iff_exists.1 (hf l hl)
    rw [hv]
    rfl
  rcases hb _ (laneAct_done i f (fun l => (f s.g l).getD (Val.zero, Flags.zero)) s hst hr) with hdone | hdone
  · exact gives_of_done i s h m blk body _ _ _ hblk hdone
  · exact gives_of_done i s h m blk body _ _ _ hblk hdone

theorem lanewise_gives (m : Mode) (f : Group → Lane → Option (Val × Flags)) (hf : ∀ l ∈ s.g.acts, (f s.g l).isSome) :
    Gives i s (lanewise i m f s) := by
  refine issueBlk_gives i s h m _ f _ ?_ hf fun s1 h1 => .inl h1
  exact lanesBlock_false i f s.g (clear_dst_stream i s h) fun l hl => Option.isSome_iff_exists.1 (hf l hl)

/-- A form that computes on whatever its operands hold. -/
theorem strict_gives (m : Mode) (f : Group → Lane → Val) : Gives i s (lanewise i m (fun g l => some (f g l, Flags.zero)) s) :=
  lanewise_gives i s h m _ fun _ _ => rfl

theorem linTwo_gives (a b : BitVec 6) (f : Val → Val → Option Val) (hs : srcs i = [a, b])
    (hf : ∀ x y : Val, x.known = true → y.known = true → (f x y).isSome) : Gives i s (linTwo i a b f s) := by
  refine lanewise_gives i s h _ _ fun l hl => ?_
  have hk := clear_known _ s h l hl
  rw [Option.isSome_map]
  exact hf _ _ (hk a (by simp [hs])) (hk b (by simp [hs]))

theorem linImm_gives (a : BitVec 6) (f : Val → Option Val) (hs : srcs i = [a]) (hf : ∀ x : Val, x.known = true → (f x).isSome) :
    Gives i s (linImm i a f s) := by
  refine lanewise_gives i s h _ _ fun l hl => ?_
  rw [Option.isSome_map]
  exact hf _ (clear_known i s h l hl a (by simp [hs]))

theorem fpAct_gives (f : FpLane) (hf : ∀ l ∈ s.g.acts, (f s.g l).isSome) : Gives i s (fpAct i f s) := by
  have hr : ∀ l ∈ s.g.acts, ((f s.g l).map fun p => (p.1, p.2.1)).isSome := fun l hl => by simpa using hf l hl
  refine issueBlk_gives i s h affine _ (fun g l => (f g l).map fun p => (p.1, p.2.1)) _
    (lanesBlock_false i _ s.g (clear_dst_stream i s h) fun l hl => Option.isSome_iff_exists.1 (hr l hl)) hr fun s1 h1 => ?_
  dsimp only
  rw [h1]
  dsimp only
  split
  · exact .inr rfl
  · exact .inl rfl

theorem fpBlocking_gives (f : Group → Lane → FpRes × Bool) : Gives i s (fpBlocking i f s) := by
  refine issueBlk_gives i s h strict _ (fun g l => some (fpVal (f g l).1, (f g l).1.flags)) _ rfl (fun _ _ => rfl) fun s1 h1 => ?_
  dsimp only
  rw [h1]
  dsimp only
  split
  · exact .inr rfl
  · exact .inl rfl

theorem fpStepTwo_gives (op t : BitVec 2) (a b : BitVec 6) (hs : srcs i = [a, b]) : Gives i s (fpAct i (fpStepTwo op t a b) s) := by
  refine fpAct_gives i s h _ fun l hl => ?_
  have hk := clear_known _ s h l hl
  have ha := known_record _ (hk a (by simp [hs]))
  have hb := known_record _ (hk b (by simp [hs]))
  simp only [fpStepTwo, ha, hb, Option.isSome_some]

theorem fpStepFma_gives (t : BitVec 2) (a b d : BitVec 6) (hs : srcs i = [a, b, d]) : Gives i s (fpAct i (fpStepFma t a b d) s) := by
  refine fpAct_gives i s h _ fun l hl => ?_
  have hk := clear_known _ s h l hl
  have ha := known_record _ (hk a (by simp [hs]))
  have hb := known_record _ (hk b (by simp [hs]))
  have hd := known_record _ (hk d (by simp [hs]))
  simp only [fpStepFma, ha, hb, hd, Option.isSome_some]

end Forms

/-! ### Operands that have arrived -/

theorem linear_known (x : Val) (h : x.known = true) : x.linear = some (none, 0, x.word) := by
  rcases (Val.known_iff x).1 h with e | e <;> simp [Val.linear, e]

theorem dataWord_known (w : Word) : (dataWord w).known = true := rfl

theorem linAdd_known (x y : Val) (hx : x.known = true) (hy : y.known = true) : (linAdd x y).isSome := by
  simp [linAdd, linear_known x hx, linear_known y hy]

theorem linSub_known (x y : Val) (hx : x.known = true) (hy : y.known = true) : (linSub x y).isSome := by
  simp [linSub, linear_known x hx, linear_known y hy]

theorem linMul_known (x y : Val) (hx : x.known = true) (hy : y.known = true) : (linMul x y).isSome := by
  simp [linMul, linear_known x hx, linear_known y hy]

theorem linShl_known (x : Val) (n : Word) (hx : x.known = true) : (linShl x n).isSome := linMul_known x _ hx (dataWord_known _)

theorem symCinc_known (x : Val) (w : Word) (hx : x.known = true) : (symCinc x w).isSome := by
  rcases (Val.known_iff x).1 hx with e | e <;> simp [symCinc, e]

/-- A left shift by a register, which blocks on a symbolic amount (03 R64). -/
def linShlBy (x y : Val) : Option Val := if y.isSym then none else linShl x y.word

theorem linShlBy_known (x y : Val) (hx : x.known = true) (hy : y.known = true) : (linShlBy x y).isSome := by
  rw [linShlBy, known_isSym y hy]
  exact linShl_known x _ hx

/-! ### The tables -/

theorem integerForm_gives (i : Instr) (s : State) (hi : (integerResult i).isSome) (h : s.clear i (srcs i)) : Gives i s (exec i s) := by
  cases i with
  | add | compactAdd => exact linTwo_gives _ s h _ _ linAdd rfl linAdd_known
  | sub | compactSub => exact linTwo_gives _ s h _ _ linSub rfl linSub_known
  | mul => exact linTwo_gives _ s h _ _ linMul rfl linMul_known
  | shl => exact linTwo_gives _ s h _ _ linShlBy rfl linShlBy_known
  | addi imm => exact linImm_gives _ s h _ (fun x => linAdd x (dataWord (simm imm))) rfl fun x hx => linAdd_known x _ hx (dataWord_known _)
  | compactAddi imm =>
    exact linImm_gives _ s h _ (fun x => linAdd x (dataWord (simm5 imm))) rfl fun x hx => linAdd_known x _ hx (dataWord_known _)
  | nop => exact linImm_gives _ s h _ (fun x => linAdd x (dataWord 0)) rfl fun x hx => linAdd_known x _ hx (dataWord_known _)
  | muli imm => exact linImm_gives _ s h _ (fun x => linMul x (dataWord (simm imm))) rfl fun x hx => linMul_known x _ hx (dataWord_known _)
  | shli sc | compactShli sc => exact linImm_gives _ s h _ (fun x => linShl x (sc.setWidth 64)) rfl fun x hx => linShl_known x _ hx
  | mulhI | mulhN | and | or | xor | andn | shr | sar | rol | ror | minI | maxI | minN | maxN | seq | sne | sltI | sltN | rng | compactAnd
  | compactOr | compactXor => exact strict_gives _ s h _ _
  | clz | ctz | popc | sext | zext | andi | ori | xori | shri | sari | sltiI | sltiN | compactShri | compactSari => exact strict_gives _ s h _ _
  | sel | bfx | bfi => exact strict_gives _ s h _ _
  | ldi | compactLdi => exact strict_gives _ s h _ _
  | _ => cases hi

theorem capabilityForm_gives (i : Instr) (s : State) (hi : (capabilityResult i).isSome) (h : s.clear i (srcs i)) :
    Gives i s (exec i s) := by
  cases i with
  | cinc b a n d u =>
    refine lanewise_gives _ s h affine (fun g l => (if (g.read l b).isSym then none else symCinc (g.read l a) (g.read l b).word).map
      fun v => (v, Flags.zero)) fun l hl => ?_
    have hk := clear_known _ s h l hl
    rw [known_isSym _ (hk b (by simp [srcs])), Option.isSome_map]
    exact symCinc_known _ _ (hk a (by simp [srcs]))
  | cinci imm => exact linImm_gives _ s h _ (fun x => symCinc x (simm imm)) rfl fun x hx => symCinc_known x _ hx
  | compactCinci q => exact linImm_gives _ s h _ (fun x => symCinc x (BitVec.ofNat 64 (8 * q.toNat))) rfl fun x hx => symCinc_known x _ hx
  | cbase | ctop | clen | cperm | cwalk | ctag | ccoord | cand | cset | cclr | cdiff | cwithin | cbound | cwset =>
    exact strict_gives _ s h _ _
  | mov | compactMov => exact strict_gives _ s h _ _
  | _ => cases hi

theorem floatForm_gives (i : Instr) (s : State) (hi : (floatResult i).isSome) (h : s.clear i (srcs i)) : Gives i s (exec i s) := by
  cases i with
  | fadd | fsub | fmul | compactFaddF32 | compactFmulF32 => exact fpStepTwo_gives _ s h _ _ _ _ rfl
  | fma => exact fpStepFma_gives _ s h _ _ _ _ rfl
  | fms | fnma | fmin | fmax | fceq | fclt | fcle | fcun | fabs | fneg | fsgn | fclass | fround | fcvtFf | fcvtFi =>
    exact fpBlocking_gives _ s h _
  | _ => cases hi

/-- No form of the tables has a side effect (04 R89). -/
theorem registerForm_sideEffect (i : Instr) :
    (sideEffect i && ((integerResult i).isSome || (capabilityResult i).isSome || (floatResult i).isSome)) = false := by
  cases i <;> rfl

/-! ### What such an instruction leaves -/

/-- An instruction without a side effect, to whose registers no stream is bound, ends no sr.done. -/
theorem effectOf_register (i : Instr) (s : State) (hs : sideEffect i = false) (h : s.clear i (srcs i)) : effectOf i s.g = false := by
  have hst := clear_stream i s h
  have hpop : s.g.popRegs (srcs i) = [] := popRegs_nil s.g _ fun c hc => hst c (by simp [hc])
  unfold effectOf
  rw [hs, hpop]
  cases hd : dst i with
  | none => rfl
  | some d => simp [hst d (by simp [dsts, hd])]

theorem past_sp_register (g : Group) (i : Instr) (g0 : Group) (now : Nat) (h : effectOf i g0 = false) :
    (g.past i g0 now).sp = { g.sp with lrun := (g.past i g0 now).sp.lrun } := by
  simp only [Group.past, h, Bool.false_eq_true, false_and, if_false]

theorem lane_reg_zero (l : Lane) : l.reg 0 = Val.zero := rfl

/-- Settles O18: a form of the tables only takes results, and results change nothing but lanes and slices. -/
theorem registerFormsTouchNoMemory : Obligations.RegisterFormsTouchNoMemory := by
  unfold Obligations.RegisterFormsTouchNoMemory
  intro i s hi h
  have hs : sideEffect i = false := by
    have := registerForm_sideEffect i
    rcases hi with hi | hi | hi <;> simpa [hi] using this
  have hg : Gives i s (exec i s) := by
    rcases hi with hi | hi | hi
    · exact integerForm_gives i s hi h
    · exact capabilityForm_gives i s hi h
    · exact floatForm_gives i s hi h
  obtain ⟨vals, fl, n, hg⟩ := hg
  obtain ⟨hsp, hx, hm, hcode⟩ := alike_kept (gets_alike s.g i vals fl)
  refine ⟨s.gave i vals fl n, hg, rfl, rfl, rfl, rfl, rfl, rfl, rfl, hx, hm, hcode, rfl, ?_, ?_, fun l _ => lane_reg_zero l⟩
  · have := past_sp_register { s.g.gets i vals fl with forfeit := n } i s.g s.clk (effectOf_register i s hs h)
    rw [← hsp]
    exact this
  · intro c _ hc
    exact gets_keepsReg s.g i vals fl c hc

end Sys2Proof.Machine
end

section
/-! Events that reach groups (01 R34; 04 R94; 07 R163; 18 R367, R377, R378; 19 R407). -/

namespace Sys2Proof.Machine

/-! ### A group by its number after a change -/

theorem group_gid (s : State) (gid : Nat) (g : Group) (h : s.group gid = some g) : g.gid = gid := by
  unfold State.group at h
  split at h
  next hs =>
    cases h
    exact hs
  next => simpa using List.find?_some h

theorem group_congr (s t : State) (gid : Nat) (hg : t.g = s.g) (hgs : t.groups = s.groups) : t.group gid = s.group gid := by
  unfold State.group
  rw [hg, hgs]

/-- A list's first element of a number, after a change of the elements of that number which keeps it. -/
theorem find_mapIf (gs : List Group) (gid : Nat) (f : Group → Group) (g : Group) (h : gs.find? (fun x => x.gid == gid) = some g)
    (hf : (f g).gid = gid) : (gs.map fun x => if x.gid = gid then f x else x).find? (fun x => x.gid == gid) = some (f g) := by
  induction gs with
  | nil => cases h
  | cons x t ih =>
    by_cases hx : x.gid = gid
    · have hxg : x = g := by simpa [hx] using h
      subst hxg
      simp [hx, hf]
    · simp only [List.map_cons, hx, if_false]
      rw [List.find?_cons_of_neg (by simpa using hx)] at h ⊢
      exact ih h

theorem group_mapGroup (s : State) (gid : Nat) (f : Group → Group) (g : Group) (h : s.group gid = some g) (hf : (f g).gid = gid) :
    (s.mapGroup gid f).group gid = some (f g) := by
  unfold State.group at h
  unfold State.mapGroup
  split at h
  next hs =>
    cases h
    rw [if_pos hs]
    exact if_pos hf
  next hs =>
    rw [if_neg hs]
    exact (if_neg hs).trans (find_mapIf s.groups gid f g h hf)

/-- A list in which the elements of one number are all another element, by that element's number. -/
theorem find_swapped (gs : List Group) (old gid : Nat) (v : Group) (hv : v.gid = gid) (hm : ∃ x ∈ gs, x.gid = old)
    (hgs : ∀ x ∈ gs, x.gid ≠ gid) :
    (gs.filterMap fun x => if x.gid = old then some v else some x).find? (fun x => x.gid == gid) = some v := by
  induction gs with
  | nil => simp at hm
  | cons x t ih =>
    by_cases hx : x.gid = old
    · simp [hx, hv]
    · have ht : ∃ y ∈ t, y.gid = old := by
        obtain ⟨y, hy, hyo⟩ := hm
        rcases List.mem_cons.1 hy with rfl | hy
        · exact absurd hyo hx
        · exact ⟨y, hy, hyo⟩
      have hxg := hgs x (by simp)
      simp only [List.filterMap_cons, hx, if_false]
      rw [List.find?_cons_of_neg (by simpa using hxg)]
      exact ih ht fun y hy => hgs y (by simp [hy])

/-- The state with the issuing group changed. -/
def State.mapG (s : State) (f : Group → Group) : State := { s with g := f s.g }

/-- What another group becomes where it issues for a while, and that nothing in memory changes. -/
theorem onGroup_mapG (s : State) (gid : Nat) (f : Group → Group) (g : Group) (h : s.group gid = some g) (hf : (f g).gid = gid)
    (hr : (f g).run ≠ .free) : (s.onGroup gid (·.mapG f)).group gid = some (f g) ∧ (s.onGroup gid (·.mapG f)).mem = s.mem := by
  unfold State.group at h
  unfold State.onGroup
  split at h
  next hs =>
    cases h
    rw [if_pos hs]
    exact ⟨if_pos hf, rfl⟩
  next hs =>
    have hmem : g ∈ s.groups := List.mem_of_find?_eq_some h
    have hg : g.gid = gid := by simpa using List.find?_some h
    rw [if_neg hs, h]
    dsimp only
    -- the issuing group waits in the other's place
    have hin : ∃ x ∈ (s.groups.map fun x => if x.gid = gid then s.g else x), x.gid = s.g.gid :=
      ⟨s.g, List.mem_map.2 ⟨g, hmem, if_pos hg⟩, rfl⟩
    have hout : ∀ x ∈ (s.groups.map fun x => if x.gid = gid then s.g else x), x.gid ≠ gid := by
      intro x hx
      obtain ⟨y, -, rfl⟩ := List.mem_map.1 hx
      split
      · exact hs
      · assumption
    obtain ⟨o, ho⟩ : ∃ o, (s.groups.map fun x => if x.gid = gid then s.g else x).find? (fun x => x.gid == s.g.gid) = some o := by
      obtain ⟨x, hx, hxg⟩ := hin
      exact Option.isSome_iff_exists.1 (List.find?_isSome.2 ⟨x, hx, by simp [hxg]⟩)
    have hog : o.gid ≠ gid := by
      have hog : o.gid = s.g.gid := by simpa using List.find?_some ho
      rw [hog]
      exact hs
    simp only [State.mapG, ho, hr, if_false]
    exact ⟨(if_neg hog).trans (find_swapped _ _ gid (f g) hf hin hout), trivial⟩

/-! ### Stops -/

theorem lrun_withDone (c : Prop) [Decidable c] (sp : Specials) (done : Word) : (if c then { sp with done := done } else sp).lrun = sp.lrun := by
  split <;> rfl

/-- A group whose wait at its instruction is withdrawn. -/
theorem withdraw_group (s : State) (gid : Nat) (g : Group) (h : s.group gid = some g) :
    ∃ w : Group, (s.withdraw gid).group gid = some w ∧ w.gid = g.gid ∧ w.pc = g.pc ∧ w.sp.lrun = g.sp.lrun := by
  have hg := group_gid s gid g h
  refine ⟨_, group_mapGroup _ gid _ g ?_ hg, rfl, rfl, ?_⟩
  · exact (group_congr s _ gid rfl rfl).trans h
  · exact lrun_withDone _ _ _

theorem withdraw_mem (s : State) (gid : Nat) : (s.withdraw gid).mem = s.mem := mapGroup_mem _ _ _

/-- A group stopped, back at the head of its run where the run is given up. -/
def Group.stopped (g : Group) (back parked : Bool) (wait : Option Wait) : Group :=
  let h := if back then g.discard else g
  { h.endRun with
    pc := if back then h.sp.lrun else h.pc
    run := .stopped parked wait
    stopReq := 0 }

theorem stopped_pc (g : Group) (back parked : Bool) (wait : Option Wait) :
    (g.stopped back parked wait).pc = if back then g.sp.lrun else g.pc := by
  cases back with
  | false => rfl
  | true => exact congrArg Specials.lrun (discard_sp g)

theorem stopped_gid (g : Group) (back parked : Bool) (wait : Option Wait) : (g.stopped back parked wait).gid = g.gid := by
  cases back with
  | false => rfl
  | true => exact discard_gid g

/-- A group that can stop stops. -/
theorem stopGroup_group (s : State) (gid : Nat) (g : Group) (h : s.group gid = some g) (hc : s.canStop g = true) :
    ∃ w : Group, (s.stopGroup gid).group gid = some (w.stopped (s.midRun g) (g.run == .parked) (s.namedFor g)) ∧ w.pc = g.pc ∧
      w.sp.lrun = g.sp.lrun ∧ (s.stopGroup gid).mem = s.mem := by
  obtain ⟨w, hw, hgid, hpc, hlrun⟩ := withdraw_group s gid g h
  have hs : s.stopGroup gid = (s.withdraw gid).onGroup gid (·.mapG (·.stopped (s.midRun g) (g.run == .parked) (s.namedFor g))) := by
    unfold State.stopGroup
    rw [h]
    simp only [hc, Bool.not_true, Bool.false_eq_true, if_false]
    rfl
  have hkeep := (stopped_gid w (s.midRun g) (g.run == .parked) (s.namedFor g)).trans (hgid.trans (group_gid s gid g h))
  obtain ⟨hg, hm⟩ := onGroup_mapG _ gid (·.stopped (s.midRun g) (g.run == .parked) (s.namedFor g)) w hw hkeep (by simp [Group.stopped])
  exact ⟨w, by rw [hs]; exact hg, hpc, hlrun, by rw [hs]; exact hm.trans (withdraw_mem s gid)⟩

/-! ### Paths -/

theorem setFmt_low (fmt : Word) (f : BitVec 6) : ((fmt &&& ~~~(63#64)) ||| f.setWidth 64).extractLsb' 0 6 = f := by
  ext k hk
  interval_cases k <;> simp

/-- Whether a lane goes on with an entry of the stack of the slice it is in. -/
def StackEntry.takes (e : StackEntry) (l : Lane) : Bool := l.live && e.lmask.getLsbD (l.no % 4)

/-- A group that waits for a line of the instruction cache. -/
def Group.misses (g : Group) (clk : Nat) : Group := { g with run := .waiting .icache clk }

/-- With no path waiting, an instruction-cache miss makes a group wait. -/
theorem pathSwitch_empty (s : State) (gid : Nat) (g : Group) (sl : Slice) (h : s.group gid = some g) (hr : g.run = .ready)
    (hs : g.slices = [sl]) (hst : sl.stack = []) : s.pathSwitch gid = s.mapGroup gid (·.misses s.clk) := by
  unfold State.pathSwitch
  rw [h]
  simp only [hr, hs, hst, Slice.pending, List.map_cons, List.map_nil, ne_eq, not_true, if_false, List.head?_cons, Option.bind_some, id]
  rfl

/-- The slice of a group that goes on with its innermost entry, from `pc` under `code` with `acts` active. -/
def Slice.switched (sl : Slice) (e : StackEntry) (rest : List StackEntry) (pc : Word) (code : Val) (acts : List Nat) : Slice :=
  { sl with
    stack := ⟨false, pc, code, lmaskOf sl.idx acts, sl.fmt.extractLsb' 0 6, sl.token⟩ :: rest
    fmt := (sl.fmt &&& ~~~(63#64)) ||| e.fmt.setWidth 64 }

/-- A group that goes on with an entry in its one slice, in the lanes of `on`. -/
def Group.switched (g : Group) (e : StackEntry) (on : Lane → Bool) (sk : Slice) : Group :=
  { g.endRun with
    lanes := g.endRun.lanes.map fun l => { l with active := on l }
    slices := [sk]
    pc := e.pc
    codeCap := e.code }

/-- With a path waiting in its one slice, a group goes on with it in the lanes that path names. -/
theorem pathSwitch_pending (s : State) (gid : Nat) (g : Group) (sl : Slice) (e : StackEntry) (rest : List StackEntry)
    (h : s.group gid = some g) (hr : g.run = .ready) (hs : g.slices = [sl]) (hst : sl.stack = e :: rest) (hj : e.isJoin = false)
    (hm : s.midRun g = false) (hin : ∀ l ∈ g.lanes, l.no / 4 = sl.idx) (hany : g.lanes.any e.takes = true) :
    ∃ (on : Lane → Bool) (m : Memory), (∀ l : Lane, l.no / 4 = sl.idx → on l = e.takes l) ∧ s.pathSwitch gid =
      ({ s with mem := m } : State).mapGroup gid
        (·.switched e on (sl.switched e rest g.pc g.codeCap (g.acts.map (·.no)))) := by
  let on (l : Lane) : Bool := l.live && (match (g.sliceOf l.no).bind (·.stack.head?) with
    | some x => x.lmask.getLsbD (l.no % 4)
    | none => false)
  have hon : ∀ l : Lane, l.no / 4 = sl.idx → on l = e.takes l := by
    intro l hl
    have hsl : g.sliceOf l.no = some sl := by simp [Group.sliceOf, hs, hl]
    simp only [on, hsl, Option.bind_some, hst, List.head?_cons]
    rfl
  have hany' : g.lanes.any on = true := by
    obtain ⟨l, hl, ht⟩ := List.any_eq_true.1 hany
    exact List.any_eq_true.2 ⟨l, hl, (hon l (hin l hl)).trans ht⟩
  let sk := sl.switched e rest g.pc g.codeCap (g.acts.map (·.no))
  refine ⟨on, spillWrites g.core sk.spillAt (sk.stack.length - 1) (sk.stack.take 1) s.mem, hon, ?_⟩
  unfold State.pathSwitch
  rw [h]
  have hp : sl.pending = some e := by simp [Slice.pending, hst, hj]
  simp only [hr, hs, hp, hst, List.map_cons, List.map_nil, ne_eq, not_true, if_false, List.head?_cons, Option.bind_some, id]
  refine (if_pos ⟨?_, hm, hany'⟩).trans rfl
  simp

theorem switched_lanes (g : Group) (e : StackEntry) (on : Lane → Bool) (sk : Slice) (h : ∀ l ∈ g.lanes, on { l with latch := [] } = e.takes l) :
    (g.switched e on sk).lanes.map (fun l => (l.no, l.active)) = g.lanes.map fun l => (l.no, e.takes l) := by
  simp only [Group.switched, Group.endRun, List.map_map]
  refine List.map_congr_left fun l hl => ?_
  exact congrArg (Prod.mk l.no) (h l hl)

/-! ### Samples -/

/-- A record for the Lamp port changes the package alone. -/
theorem lampPut_pkg (s : State) (die kind : Nat) (bits : Quad) : ∃ p, s.lampPut die kind bits = { s with pkg := p } := by
  unfold State.lampPut
  dsimp only
  split
  · exact ⟨s.pkg, rfl⟩
  · split <;> exact ⟨_, rfl⟩

/-- The state with the sample of a member emitted, unless it is of a group that waits for nothing and asks for waits only. -/
def State.emitSample (s : State) (g : Group) (sl : Slice) : State :=
  if sl.psamp.getLsbD 62 && s.reason g == 0 then s else s.lampPut (dieOf g.core) 1 (s.sampleBits g sl)

theorem emitSample_pkg (s : State) (g : Group) (sl : Slice) : ∃ p, s.emitSample g sl = { s with pkg := p } := by
  unfold State.emitSample
  split
  · exact ⟨s.pkg, rfl⟩
  · exact lampPut_pkg s _ 1 _

/-- A member's slice past the samples due at a clk. -/
def Slice.sampledAt (sl : Slice) (clk : Nat) : Slice :=
  if sl.sampleDue clk then { sl with sampled := sl.sampled + sl.period.getD 0 } else sl

/-- The sample of the one member of a group. -/
theorem sample_due (s : State) (gid : Nat) (g : Group) (sl : Slice) (h : s.group gid = some g) (hs : g.slices = [sl])
    (hd : sl.sampleDue s.clk = true) :
    s.sample gid = (s.emitSample g sl).mapGroup gid fun x => { x with slices := x.slices.map (·.sampledAt s.clk) } := by
  unfold State.sample
  rw [h]
  simp only [hs, List.filter_cons, hd, if_true, List.filter_nil, List.foldl_cons, List.foldl_nil]
  rfl

/-- Where a sample is emitted and its die's buffer has room, it joins that buffer. -/
theorem emitSample_room (s : State) (g : Group) (sl : Slice) (b : LampBuf) (hyes : ¬ (sl.psamp.getLsbD 62 = true ∧ s.reason g = 0))
    (hdie : s.pkg.lamp.ctl.getLsbD (dieOf g.core) = true) (hkind : s.pkg.lamp.ctl.getLsbD 9 = true)
    (hb : s.pkg.lamp.bufs.find? (fun b => b.die == dieOf g.core) = some b) (hroom : b.recs.length < 256) :
    (s.emitSample g sl).pkg.lamp.bufs.find? (fun b => b.die == dieOf g.core) = some { b with recs := b.recs ++ [s.sampleBits g sl] } := by
  have hput : s.emitSample g sl = s.lampPut (dieOf g.core) 1 (s.sampleBits g sl) := if_neg (by simpa using hyes)
  have hbd : b.die = dieOf g.core := by simpa using List.find?_some hb
  rw [hput, lampPut_room s _ 1 _ b hdie hkind hb hroom]
  exact List.find?_cons_of_pos (by simpa using hbd)

/-! ### System events and the watchdog -/

theorem asyncEntry_crew (s s1 : State) (gid : Nat) (e : SysEvent) (c : Crew) (he : s.sys.find? (fun e => e.gid == gid) = some e)
    (h1 : ({ s with sys := s.sys.erase e } : State).rouse e.core = s1) (hc : s1.crew e.crew = some c) :
    s.asyncEntry gid = s1.killCrew e.crew 0x0A e.code e.code c.core := by
  unfold State.asyncEntry
  simp only [he, h1, hc]

theorem asyncEntry_machineCheck (s s1 : State) (gid : Nat) (e : SysEvent) (he : s.sys.find? (fun e => e.gid == gid) = some e)
    (h1 : ({ s with sys := s.sys.erase e } : State).rouse e.core = s1) (hc : s1.crew e.crew = none) (hcode : e.code = 0x3F) :
    s.asyncEntry gid = s1.mapFn 0 fun f => { f with vectors := f.vectors ||| 8 } := by
  unfold State.asyncEntry
  simp only [he, h1, hc]
  exact if_pos hcode

theorem asyncEntry_stop (s : State) (gid : Nat) (g : Group) (he : s.sys.find? (fun e => e.gid == gid) = none) (hg : s.group gid = some g)
    (ha : s.stopAsked g = true) : s.asyncEntry gid = s.stopGroup gid := by
  unfold State.asyncEntry
  simp only [he, hg, ha, if_true]

theorem watchdog_fires (s : State) (crew k : Nat) (c : Crew) (g : Group) (hc : s.crew crew = some c) (h0 : c.wdog = 0)
    (hrel : c.reload ≠ 0) (hw : s.longestWaiting crew = some (g, k)) :
    s.watchdog crew = (s.withdraw g.gid).onGroup g.gid fun u => u.takeTrap (eventTrap 0x30 (BitVec.ofNat 64 k)) (s.midRun g) := by
  unfold State.watchdog
  simp only [hc, h0, hrel, hw, ne_eq, not_true, or_self, if_false]

theorem mapFn_vectors (s : State) (n : Nat) (m : BitVec 4) :
    (s.mapFn n fun f => { f with vectors := f.vectors ||| m }).pkg.functions.map (fun f => (f.no, f.vectors)) =
      s.pkg.functions.map fun f => (f.no, if f.no = n then f.vectors ||| m else f.vectors) := by
  simp only [State.mapFn, List.map_map]
  refine List.map_congr_left fun f _ => ?_
  dsimp only [Function.comp_apply]
  split <;> rfl

theorem next_tick {s t : State} (h : s = t) : (.next s.tick : Host.Outcome State Fault Refusal) = .next t.tick := by rw [h]

/-- Settles O53: each event by what its own operation does to the group it reaches. -/
theorem eventsReachTheirGroups : Obligations.EventsReachTheirGroups := by
  unfold Obligations.EventsReachTheirGroups
  refine ⟨?_, ?_, ?_, ?_, ?_, ?_, fun word n s => rfl⟩
  -- a system event
  · intro s gid e he s0 s1
    exact ⟨fun c hc => next_tick (asyncEntry_crew s s1 gid e c he rfl hc), fun hc hcode =>
      ⟨_, next_tick (asyncEntry_machineCheck s s1 gid e he rfl hc hcode), rfl, rfl, rfl, mapFn_vectors s1 0 8⟩⟩
  -- a stop
  · intro s gid g he hg ha hc
    obtain ⟨w, hw, hpc, hlrun, hmem⟩ := stopGroup_group s gid g hg hc
    refine ⟨_, _, next_tick (asyncEntry_stop s gid g he hg ha), hmem, hw, ?_, rfl, rfl⟩
    rw [stopped_pc, hpc, hlrun]
  -- a miss in the instruction cache
  · intro s gid g sl hg hr hs
    have hgid := group_gid s gid g hg
    refine ⟨fun hst => ?_, ?_⟩
    · exact ⟨_, next_tick (pathSwitch_empty s gid g sl hg hr hs hst), mapGroup_mem _ _ _, group_mapGroup s gid _ g hg hgid⟩
    · intro e rest hst hj hm on hin hany
      obtain ⟨on', m, hon, ht⟩ := pathSwitch_pending s gid g sl e rest hg hr hs hst hj hm hin hany
      refine ⟨_, _, _, next_tick ht, group_mapGroup { s with mem := m } gid _ g hg hgid, rfl, rfl, hr, ?_, rfl, rfl, setFmt_low _ _⟩
      exact switched_lanes g e on' _ fun l hl => hon _ (hin l hl)
  -- its line
  · intro s gid c g hg hr
    refine ⟨_, rfl, mapGroup_mem _ _ _, ?_⟩
    have hafter := group_mapGroup s gid (fun g => match g.run with | .waiting .icache _ => { g with run := .ready } | _ => g) g hg
      (by rw [hr]; exact group_gid s gid g hg)
    rw [hr] at hafter
    exact hafter
  -- the watchdog
  · intro s crew k c g hc h0 hrel hw
    exact next_tick (watchdog_fires s crew k c g hc h0 hrel hw)
  -- a sample
  · intro s gid p g sl hg hs hp hd
    have hdue : sl.sampleDue s.clk = true := by simp [Slice.sampleDue, hp, hd]
    have hnext : sl.sampledAt s.clk = { sl with sampled := sl.sampled + p } := by simp [Slice.sampledAt, hdue, hp]
    obtain ⟨pkg, hpkg⟩ := emitSample_pkg s g sl
    have hafter := group_mapGroup (s.emitSample g sl) gid (fun x => { x with slices := x.slices.map (·.sampledAt s.clk) }) g
      (by rw [hpkg]; exact hg) (group_gid s gid g hg)
    simp only [hs, List.map_cons, List.map_nil, hnext] at hafter
    refine ⟨_, next_tick (sample_due s gid g sl hg hs hdue), (mapGroup_mem _ _ _).trans (by rw [hpkg]), hafter,
      fun hno => (mapGroup_pkg _ _ _).trans (by simp [State.emitSample, hno]), fun hyes hdie hkind b hb hroom => ?_⟩
    exact (congrArg (fun p => p.lamp.bufs.find? fun b => b.die == dieOf g.core) (mapGroup_pkg _ _ _)).trans
      (emitSample_room s g sl b hyes hdie hkind hb hroom)

end Sys2Proof.Machine
end


section
/-! The quantisation forms and the format register (02 R51, R53, R54; 16 R324 to R327). -/

namespace Sys2Proof.Machine

/-! ### Codes and zero points -/

/-- What is held between 0 and 2^b − 1 is a code of b bits (02 R53, R54). -/
theorem clampInt_code_lt (b : Nat) (v : Int) : (clampInt 0 (2 ^ b - 1) v).toNat < 2 ^ b := by
  have hle : clampInt 0 (2 ^ b - 1) v < ((2 ^ b : Nat) : Int) := by
    have hpos : (0 : Int) < 2 ^ b := by positivity
    push_cast
    unfold clampInt
    split
    · exact hpos
    · split <;> omega
  have hpos : 0 < 2 ^ b := Nat.two_pow_pos b
  omega

theorem quantise_lt (x scale z b : Nat) (sf : Bool) (hz : z < 2 ^ b) : quantise x scale z b sf < 2 ^ b := by
  have hpos : 0 < 2 ^ b := Nat.two_pow_pos b
  unfold quantise
  dsimp only
  split
  -- the scale or the element has no value
  · exact hz
  · split
    -- an infinite element
    · split <;> omega
    · exact clampInt_code_lt b _

theorem qscale_zero_lt (mx mn b : Nat) (zp sf : Bool) (hb : 0 < b) : (qscale mx mn b zp sf).2 < 2 ^ b := by
  have hpos : 0 < 2 ^ b := Nat.two_pow_pos b
  have hhalf : 2 ^ (b - 1) < 2 ^ b := Nat.pow_lt_pow_right (by decide) (by omega)
  unfold qscale
  dsimp only
  split
  -- a bound that is no number
  · exact hpos
  · refine iteInduction (motive := (· < 2 ^ b)) (fun _ => ?_) fun _ => ?_
    -- a scale that is no positive number
    · exact iteInduction (motive := (· < 2 ^ b)) (fun _ => hpos) fun _ => hhalf
    · exact iteInduction (motive := (· < 2 ^ b)) (fun _ => clampInt_code_lt b _) fun _ => hhalf

/-! ### Fields of the operands -/

theorem lo32_read (g : Group) (l : Lane) (c : BitVec 6) : lo32 (g.read l c) = (g.words l c).toNat % 2 ^ 32 := by
  simp only [lo32, Group.words, BitVec.extractLsb'_toNat, Nat.shiftRight_zero]
  omega

theorem packScale_eq (w : Word) : packScale w = w.toNat % 2 ^ 16 := by
  simp [packScale, BitVec.extractLsb'_toNat]

theorem packZ_eq (w : Word) : packZ w = w.toNat / 2 ^ 16 % 2 ^ 8 := by
  simp [packZ, BitVec.extractLsb'_toNat, Nat.shiftRight_eq_div_pow]

/-! ### The forms lane by lane -/

/-- Each form of the table issues with its row, on both kinds of core and at every level. -/
theorem exec_quantResult (i : Instr) (s : State) (et : Bool) (f : Word → (BitVec 6 → Word) → Word) (h : quantResult i = some (et, f)) :
    exec i s = quantForm i et (fun g l => f (g.fmt l.no) (g.words l)) s ∧ kindTrap i = none ∧ minLevel i = 0 := by
  unfold quantResult at h
  split at h
  -- fmt.get
  · cases h
    exact ⟨rfl, rfl, rfl⟩
  -- qmax
  · cases h
    refine ⟨?_, rfl, rfl⟩
    simp only [← lo32_read]
    rfl
  -- qscale
  · cases h
    exact ⟨rfl, rfl, rfl⟩
  -- quant
  · cases h
    refine ⟨?_, rfl, rfl⟩
    simp only [← lo32_read, ← packScale_eq, ← packZ_eq]
    rfl
  -- dequant
  · cases h
    refine ⟨?_, rfl, rfl⟩
    simp only [← packScale_eq, ← packZ_eq]
    rfl
  -- salient
  · cases h
    exact ⟨rfl, rfl, rfl⟩
  · cases h

section Forms
variable (i : Instr) (et : Bool) (f : Group → Lane → Word) (s : State)

theorem etTrap_none (h : ∀ l ∈ s.g.execs (isUniform i), fmtET (s.g.fmt l.no) ≠ 0) : etTrap i s = none := by
  refine if_neg fun hany => ?_
  obtain ⟨l, hl, hz⟩ := List.any_eq_true.1 hany
  exact h l hl (beq_iff_eq.1 hz)

theorem etTrap_some (h : ∃ l ∈ s.g.execs (isUniform i), fmtET (s.g.fmt l.no) = 0) :
    etTrap i s = some (trapEnc i.word (s.g.encDist (readsLatch i))) := by
  obtain ⟨l, hl, hz⟩ := h
  refine if_pos ?_
  exact List.any_eq_true.2 ⟨l, hl, beq_iff_eq.2 hz⟩

/-- A form whose element types are known gives each lane its result, and no flag (16 R326). -/
theorem quantForm_computes (h : s.clear i (srcs i)) (he : et = true → ∀ l ∈ s.g.execs (isUniform i), fmtET (s.g.fmt l.no) ≠ 0) :
    quantForm i et f s = .next (s.computes i fun l => asData (f s.g l)) := by
  have hpre : (if et then etTrap i s else none) = none := by
    split
    next het => exact etTrap_none i s (he het)
    next => rfl
  have hbody := laneAct_done i (fun g l => some (dataWord (f g l), Flags.zero)) (fun l => (asData (f s.g l), Flags.zero)) s
    (clear_dst_stream i s h) fun _ _ => rfl
  rw [gets_zero _ _ _ _ _ fun _ => rfl] at hbody
  exact issueOn_done i strict (srcs i) _ _ s _ h hpre hbody ((gets_held _ _ _ _).trans (clear_held i s h))

/-- One that needs an element type takes an encoding trap where a lane has none (02 R51). -/
theorem quantForm_traps (hs : s.g.sent = false) (hk : kindTrap i = none) (hl : minLevel i = 0)
    (h : ∃ l ∈ s.g.execs (isUniform i), fmtET (s.g.fmt l.no) = 0) :
    quantForm i true f s = .next (s.takeTrap (trapEnc i.word (s.g.encDist (readsLatch i))) (readsLatch i)).tick :=
  issueOn_decodeTrap i strict (srcs i) _ _ s _ hs (decodeTrap_pre i _ s _ hk hl (etTrap_some i s h))

end Forms

/-! ### The format register -/

/-- The lowest active lane of a slice, if it has one. -/
def Group.lowestOf (g : Group) (sl : Slice) : Option Lane := g.acts.find? fun l => l.no / 4 == sl.idx

/-- A slice with the format register written by its lowest active lane (16 R324). -/
def Group.formatted (g : Group) (a : BitVec 6) (sl : Slice) : Slice :=
  match g.lowestOf sl with | some l => { sl with fmt := g.words l a } | none => sl

/-- The values that `fmt.set` writes, each with the lane that gives it for its slice (16 R324). -/
def Group.fmtValues (g : Group) (a : BitVec 6) : List (Nat × Word) := (g.slices.filterMap g.lowestOf).map fun l => (l.no, g.words l a)

/-- A slice with the first of some values that a lane of its own gives. -/
def Slice.fmtFrom (vals : List (Nat × Word)) (sl : Slice) : Slice :=
  match vals.find? fun p => p.1 / 4 == sl.idx with
  | some p => { sl with fmt := p.2 }
  | none => sl

section FmtSet
variable (g : Group) (a : BitVec 6)

theorem lowestOf_idx (sl : Slice) (l : Lane) (h : g.lowestOf sl = some l) : l.no / 4 = sl.idx := by
  simpa using List.find?_some h

/-- Of the lanes that write for their slices, the one found for a slice is that slice's lowest active lane. -/
theorem find_lowestOf (sl : Slice) (hsl : sl ∈ g.slices) :
    (g.slices.filterMap g.lowestOf).find? (fun l => l.no / 4 == sl.idx) = g.lowestOf sl := by
  cases hfind : (g.slices.filterMap g.lowestOf).find? (fun l => l.no / 4 == sl.idx) with
  | some l =>
    obtain ⟨sk, -, hsk⟩ := List.mem_filterMap.1 (List.mem_of_find?_eq_some hfind)
    have hidx : sk.idx = sl.idx := by simpa [lowestOf_idx g sk l hsk] using List.find?_some hfind
    rwa [Group.lowestOf, hidx, eq_comm] at hsk
  | none =>
    cases hlow : g.lowestOf sl with
    | none => rfl
    | some l => exact absurd (List.find?_some hlow) (List.find?_eq_none.1 hfind l (List.mem_filterMap.2 ⟨sl, hsl, hlow⟩))

theorem fmtFrom_fmtValues (sl : Slice) (hsl : sl ∈ g.slices) : sl.fmtFrom (g.fmtValues a) = g.formatted a sl := by
  unfold Slice.fmtFrom Group.fmtValues Group.formatted
  rw [List.find?_map, Function.comp_def, find_lowestOf g sl hsl]
  cases g.lowestOf sl <;> rfl

theorem fmtValues_reserved_iff : (g.fmtValues a).any (fun p => fmtReserved p.2) = true ↔
    ∃ sl ∈ g.slices, ∃ l, g.lowestOf sl = some l ∧ fmtReserved (g.words l a) = true := by
  simp only [Group.fmtValues, List.any_map, List.any_eq_true, List.mem_filterMap, Function.comp_apply]
  constructor
  · rintro ⟨l, ⟨sl, hsl, hlow⟩, hres⟩
    exact ⟨sl, hsl, l, hlow, hres⟩
  · rintro ⟨sl, hsl, l, hlow, hres⟩
    exact ⟨l, ⟨sl, hsl, hlow⟩, hres⟩

theorem fmtSetAct_eq (i : Instr) (s : State) : fmtSetAct i a s =
    if (s.g.fmtValues a).any fun p => fmtReserved p.2 then .trap s (trapEnc i.word (s.g.encDist (readsLatch i)))
    else withFollower i s fun t => .done { t with g := { t.g with slices := t.g.slices.map (·.fmtFrom (s.g.fmtValues a)) } } := rfl

/-- Where every value is allowed, every slice with an active lane is written (16 R324). -/
theorem fmtSetAct_done (i : Instr) (s : State) (hf : s.follower i = true) (hh : s.g.held = [])
    (h : ∀ sl ∈ s.g.slices, ∀ l, s.g.lowestOf sl = some l → fmtReserved (s.g.words l a) = false) :
    fmtSetAct i a s = .done { s with g := { s.g with slices := s.g.slices.map (s.g.formatted a) } } := by
  have hok : ¬ (s.g.fmtValues a).any (fun p => fmtReserved p.2) = true := by
    rw [fmtValues_reserved_iff]
    rintro ⟨sl, hsl, l, hlow, hres⟩
    exact Bool.false_ne_true ((h sl hsl l hlow).symm.trans hres)
  rw [fmtSetAct_eq, if_neg hok, withFollower_go i s _ hf hh, List.map_congr_left fun sl hsl => fmtFrom_fmtValues s.g a sl hsl]

/-- One value that sr.fmt may not hold is an encoding trap before any slice is written (02 R51). -/
theorem fmtSetAct_refused (i : Instr) (s : State)
    (h : ∃ sl ∈ s.g.slices, ∃ l, s.g.lowestOf sl = some l ∧ fmtReserved (s.g.words l a) = true) :
    fmtSetAct i a s = .trap s (trapEnc i.word (s.g.encDist (readsLatch i))) :=
  if_pos ((fmtValues_reserved_iff s.g a).2 h)

end FmtSet

/-- Settles O21: the forms from their rows, the ranges from the clamp, `fmt.set` from the lanes that write for their slices. -/
theorem quantisationForms : Obligations.QuantisationForms := by
  unfold Obligations.QuantisationForms
  refine ⟨?_, quantise_lt, qscale_zero_lt, ?_⟩
  -- the forms of the table
  · intro i s et f hrow hc
    obtain ⟨hexec, hkind, hlevel⟩ := exec_quantResult i s et f hrow
    rw [hexec]
    refine ⟨fun he => quantForm_computes i et _ s hc he, fun het hz => ?_⟩
    subst het
    obtain ⟨⟨hsent, -⟩, -, -⟩ := hc
    exact quantForm_traps i _ s hsent hkind hlevel hz
  -- fmt.set
  · intro a s hc
    have hheld : s.g.held = [] := clear_held (.fmtSet a) s hc
    refine ⟨fun hf hok _ => ?_, fun hres => ?_⟩
    · exact issueOn_done (.fmtSet a) strict [a] _ _ s _ hc rfl (fmtSetAct_done a _ s hf hheld hok) hheld
    · obtain ⟨hreach, hknown, -⟩ := hc
      exact issueOn_trap (.fmtSet a) strict [a] _ _ s _ hreach hknown rfl (fmtSetAct_refused a _ s hres)

end Sys2Proof.Machine
end

section
/-! SUPPORT. What the arrival of late values leaves in the lanes of a group: the data of a symbol in each of its holders (03 R70), and the
result of a long instruction or a local load in its register (04 R85; 05 R118). -/

namespace Sys2Proof.Machine

/-! ### The data of a symbol -/

theorem resolveRegs_getElem (id : BitVec 6) (v : Val) (k : Vector Val 56) (fl : Flags) (c : Nat) (hc : c < 56) (n : Nat) :
    (Lane.resolveRegs id v n k fl).1[c] = if c < n then (k[c].resolve id v).1 else k[c] := by
  induction n with
  | zero => rfl
  | succ n ih =>
    simp only [Lane.resolveRegs]
    split
    next hn =>
      by_cases hcn : c = n
      · subst hcn
        simp [ih]
      · rw [Vector.getElem_set_ne hn hc (Ne.symm hcn), ih]
        have : c < n ↔ c < n + 1 := by omega
        simp only [this]
    next hn =>
      rw [ih, if_pos (by omega), if_pos (by omega)]

theorem resolve_zero (id : BitVec 6) (v : Val) : (Val.zero.resolve id v).1 = Val.zero := rfl

theorem laneResolve_eq (l : Lane) (id : BitVec 6) (v : Val) :
    (l.resolve id v).1 = { l with k := (Lane.resolveRegs id v 56 l.k Flags.zero).1, latch := (resolveList id v l.latch).1 } := by
  unfold Lane.resolve
  generalize Lane.resolveRegs id v 56 l.k Flags.zero = p
  rfl

theorem laneResolve_no (l : Lane) (id : BitVec 6) (v : Val) : (l.resolve id v).1.no = l.no := by rw [laneResolve_eq]

/-- Each register of a lane becomes what the arrival makes of it. -/
theorem laneResolve_reg (l : Lane) (id : BitVec 6) (v : Val) (c : BitVec 6) (hc : c.toNat < 56) :
    (l.resolve id v).1.reg c = ((l.reg c).resolve id v).1 := by
  rw [laneResolve_eq]
  unfold Lane.reg
  rw [dif_pos hc, dif_pos hc]
  by_cases h0 : c.toNat = 0
  · rw [if_pos h0, if_pos h0, resolve_zero]
  · rw [if_neg h0, if_neg h0, resolveRegs_getElem id v l.k Flags.zero c.toNat hc 56, if_pos hc]

/-- A lane of the symbol's slice whose data has arrived is resolved with it. -/
theorem resolveLanes_mem (slice : Nat) (id : BitVec 6) (got : List (Nat × Val)) (l : Lane) (v : Val) (hs : l.no / 4 = slice)
    (hv : got.lookup l.no = some v) (ls : List Lane) (hl : l ∈ ls) : (l.resolve id v).1 ∈ (resolveLanes slice id got ls).1 := by
  induction ls with
  | nil => cases hl
  | cons x t ih =>
    rcases List.mem_cons.1 hl with rfl | ht
    · simp only [resolveLanes, hs, if_true, hv]
      exact List.mem_cons_self
    · simp only [resolveLanes]
      split <;> exact List.mem_cons_of_mem _ (ih ht)

/-- A group after the data of one of its symbols has reached the holders: the symbol is live no more. -/
def Group.arrived (g : Group) (y : Sym) : Group := { g.resolve y.slice y.id y.got with syms := g.syms.erase y }

theorem arrived_gid (g : Group) (y : Sym) : (g.arrived y).gid = g.gid := rfl

theorem arrived_pc (g : Group) (y : Sym) : (g.arrived y).pc = g.pc := rfl

theorem arrived_lanes (g : Group) (y : Sym) :
    (g.arrived y).lanes = (resolveLanes y.slice y.id y.got g.lanes).1 := rfl

/-- A symbol of no receive whose data has all arrived resolves in its group. -/
theorem symbolArrival_eq (s : State) (gid pool id : Nat) (g : Group) (y : Sym) (h : s.group gid = some g)
    (hy : g.syms.find? (fun y => y.slice == pool && y.id.toNat == id) = some y) (hw : ∀ n ∈ y.want, ∃ p ∈ y.got, p.1 = n)
    (ht : y.mtag = none) : s.symbolArrival gid pool id = s.mapGroup gid (·.arrived y) := by
  have hall : (y.want.all fun n => y.got.any fun p => p.1 == n) = true := by
    simp only [List.all_eq_true, List.any_eq_true, beq_iff_eq]
    exact hw
  unfold State.symbolArrival
  simp only [h, hy, hall, ht, Option.isSome_none, Bool.not_true, Bool.false_and, Bool.or_self, Bool.false_eq_true, if_false]
  rfl

/-! ### The result awaited through an interlock -/

theorem reg_setReg_same (l : Lane) (c : BitVec 6) (v : Val) (h0 : c ≠ 0) (hc : c.toNat < 56) : (l.setReg c v).reg c = v := by
  have hn : c.toNat ≠ 0 := fun e => h0 (BitVec.eq_of_toNat_eq e)
  unfold Lane.setReg Lane.reg
  simp [hc, hn]

/-- A lane with a register written where there is a value for it. -/
def Lane.takes (l : Lane) (c : BitVec 6) (vals : List (Nat × Val)) : Lane :=
  match vals.lookup l.no with | some v => l.setReg c v | none => l

theorem takes_no (l : Lane) (c : BitVec 6) (vals : List (Nat × Val)) : (l.takes c vals).no = l.no := by
  unfold Lane.takes
  split
  · exact setReg_no l c _
  · rfl

theorem takes_reg_same (l : Lane) (c : BitVec 6) (vals : List (Nat × Val)) (h0 : c ≠ 0) (hc : c.toNat < 56) :
    (l.takes c vals).reg c = (vals.lookup l.no).getD (l.reg c) := by
  unfold Lane.takes
  split
  next v hv => rw [hv, reg_setReg_same l c v h0 hc]; rfl
  next hv => rw [hv]; rfl

theorem takes_reg_other (l : Lane) (c d : BitVec 6) (vals : List (Nat × Val)) (h : d ≠ c) : (l.takes c vals).reg d = l.reg d := by
  unfold Lane.takes
  split
  · exact reg_setReg_other l c d _ (Ne.symm h)
  · rfl

/-- A result changes neither the number nor the pc of its group. -/
theorem land_kept (g : Group) (p : Pend) : (g.land p).gid = g.gid ∧ (g.land p).pc = g.pc := by
  unfold Group.land
  split
  · exact ⟨rfl, rfl⟩
  · split
    · exact ⟨rfl, rfl⟩
    · split <;> exact ⟨rfl, rfl⟩

/-- A result for a general register reaches each lane that it has a value for. -/
theorem land_lanes (g : Group) (p : Pend) (hd : p.discarded = false) (hb : p.banked = false) (h0 : p.dst ≠ 0) :
    (g.land p).lanes = g.lanes.map (·.takes p.dst p.vals) := by
  unfold Group.land
  rw [if_neg (by simp [hd])]
  dsimp only
  rw [if_neg h0, if_neg (by simp [hb])]
  rfl

/-- A group that a result it awaited has reached. -/
def Group.landed (g : Group) (p : Pend) : Group := { g.land p with pend := g.pend.erase p }

/-- The oldest result of its kind is written once its time has come. -/
theorem pendLands_eq (s : State) (gid : Nat) (long : Bool) (g : Group) (p : Pend) (h : s.group gid = some g)
    (hp : g.pend.find? (fun p => p.long == long) = some p) (hdue : p.due ≤ s.clk) :
    s.pendLands gid long = s.mapGroup gid (·.landed p) := by
  unfold State.pendLands
  simp only [h, hp]
  exact if_neg (Nat.not_lt.2 hdue)

theorem exec_pendLands (s : State) (gid : Nat) (long : Bool) :
    exec (if long then .longInstructionCompletion gid else .localLoadCompletion gid) s = .next (s.pendLands gid long).tick := by
  cases long <;> rfl

/-! ### The slot of an absent register -/

/-- A lane with its register taken from its slot, where it is absent. -/
def Lane.fills (l : Lane) (c : BitVec 6) (v : Val) : Lane := if (l.reg c).tag = .absent then l.setReg c v else l

/-- The slot of a general register of a lane arrives. -/
theorem missArrives_eq (s : State) (gid lane reg va : Nat) (g : Group) (hm : (gid, lane, reg) ∈ s.misses) (h : s.group gid = some g)
    (hva : g.slotVA lane reg = some va) (hreg : reg < 56) :
    s.missArrives gid lane reg = ({ s with misses := s.misses.filter (· != (gid, lane, reg)) } : State).mapGroup gid
      (·.mapLane lane (·.fills (BitVec.ofNat 6 reg) (s.getSlot g.sp.asid.toNat va))) := by
  have h1 : ({ s with misses := s.misses.filter (· != (gid, lane, reg)) } : State).group gid = some g := h
  unfold State.missArrives
  simp only [List.contains_iff_mem.2 hm, Bool.not_true, Bool.false_eq_true, if_false, h1, hva]
  exact if_neg (by omega)

theorem mapLane_lanes (g : Group) (n : Nat) (c : BitVec 6) (v : Val) :
    (g.mapLane n (·.fills c v)).lanes = g.lanes.map fun l => if l.no = n ∧ (l.reg c).tag = .absent then l.setReg c v else l := by
  refine List.map_congr_left fun l _ => ?_
  rw [ite_and]
  rfl

/-! ### The end of a wait -/

theorem wake_waiting (g : Group) (x : Wait) (c : Nat) (h : g.run = .waiting x c) : g.wake = { g with run := .ready } := by
  unfold Group.wake
  rw [h]

/-- An armed `wait` that a write has hit wakes its group. -/
theorem waitWakes_hit (s : State) (gid : Nat) (w : Armed) (hw : w ∈ s.armed) (hg : w.gid = gid) (hh : w.hit = true) :
    s.waitWakes gid = s.mapGroup gid Group.wake :=
  if_pos (List.any_eq_true.2 ⟨w, hw, by simp [hg, hh]⟩)

/-- An armed `wait` at its limit that nothing has hit wakes its group. -/
theorem waitEnds_due (s : State) (gid : Nat) (w : Armed) (hw : w ∈ s.armed) (hg : w.gid = gid) (hh : w.hit = false)
    (hd : w.deadline ≤ s.clk) : s.waitEnds gid = s.mapGroup gid Group.wake :=
  if_pos (List.any_eq_true.2 ⟨w, hw, by simp [hg, hh, hd]⟩)

/-- The two ends of a `wait` alike make its group ready. -/
theorem exec_waitOver (i : Instr) (s : State) (gid : Nat) (w : Armed) (hw : w ∈ s.armed) (hg : w.gid = gid)
    (hi : (i = .waitWake gid ∧ w.hit = true) ∨ (i = .waitTimeLimit gid ∧ w.hit = false ∧ w.deadline ≤ s.clk)) :
    exec i s = .next (s.mapGroup gid Group.wake).tick := by
  rcases hi with ⟨rfl, hh⟩ | ⟨rfl, hh, hd⟩
  · exact next_tick (waitWakes_hit s gid w hw hg hh)
  · exact next_tick (waitEnds_due s gid w hw hg hh hd)

/-- Settles O52: each arrival is a change of its group alone, told lane by lane. -/
theorem lateValuesReachTheirHolders : Obligations.LateValuesReachTheirHolders := by
  unfold Obligations.LateValuesReachTheirHolders
  refine ⟨?_, ?_, ?_, ?_⟩
  -- a symbol
  · intro s gid pool id g y hg hy hw ht
    refine ⟨_, _, next_tick (symbolArrival_eq s gid pool id g y hg hy hw ht), mapGroup_mem _ _ _,
      group_mapGroup s gid _ g hg (group_gid s gid g hg), rfl, rfl, ?_⟩
    intro l hl hs v hv
    exact ⟨_, resolveLanes_mem y.slice y.id y.got l v hs hv g.lanes hl, laneResolve_no l y.id v, laneResolve_reg l y.id v⟩
  -- a result awaited through an interlock
  · intro s gid g p long hg hp hdue hdis hb h0 hdst
    obtain ⟨hgid, hpc⟩ := land_kept g p
    have hlanes := land_lanes g p hdis hb h0
    refine ⟨_, _, (exec_pendLands s gid long).trans (next_tick (pendLands_eq s gid long g p hg hp hdue)), mapGroup_mem _ _ _,
      group_mapGroup s gid _ g hg (hgid.trans (group_gid s gid g hg)), rfl, hpc, ?_, ?_⟩
    · show (g.land p).lanes.map (·.no) = _
      rw [hlanes, List.map_map]
      exact List.map_congr_left fun l _ => takes_no l p.dst p.vals
    · intro l hl
      have hmem : l.takes p.dst p.vals ∈ (g.land p).lanes := by
        rw [hlanes]
        exact List.mem_map_of_mem hl
      exact ⟨_, hmem, takes_no _ _ _, fun c _ hne => takes_reg_other l p.dst c p.vals hne, takes_reg_same l p.dst p.vals h0 hdst⟩
  -- the slot of an absent register
  · intro s gid lane reg va g hm hg hva _ hreg
    refine ⟨_, _, next_tick (missArrives_eq s gid lane reg va g hm hg hva hreg), mapGroup_mem _ _ _, mapGroup_misses _ _ _,
      group_mapGroup { s with misses := _ } gid _ g hg (group_gid s gid g hg), rfl, mapLane_lanes g lane _ _⟩
  -- a wait
  · intro i s gid g w x c hw hwg hg hr hi
    refine ⟨_, exec_waitOver i s gid w hw hwg hi, mapGroup_mem _ _ _, mapGroup_armed _ _ _, ?_⟩
    have hwake := wake_waiting g x c hr
    rw [← hwake]
    exact group_mapGroup s gid Group.wake g hg (by rw [hwake]; exact group_gid s gid g hg)

end Sys2Proof.Machine
end

section
/-! SUPPORT. Linear arithmetic on a symbol (03 R64, R65, R70): what its record gives when the data arrives, and the instructions that
write such a record and go on. -/

namespace Sys2Proof.Machine

/-! ### Linear forms -/

theorem word_dataWord (w : Word) : (dataWord w).word = w := by
  unfold dataWord Val.word
  ext k hk
  simp only [BitVec.getElem_extractLsb', BitVec.getLsbD_setWidth, Nat.zero_add]
  simp [hk, hk.trans (show 64 < 128 by decide)]

/-- What a linear form over a symbol, or a known word, gives on the arrived word (03 R64). -/
def linearOn (p : Option (BitVec 6) × Word × Word) (v : Word) : Word :=
  match p with
  | (some _, a, b) => a * v + b
  | (none, _, b) => b

section Arrival
variable (id : BitVec 6) (arrived : Val) (ha : arrived.tag = .data)
include ha

/-- A value of the INT class resolves to what its linear form gives on the arrived word. -/
theorem linear_resolve (x : Val) (p : Option (BitVec 6) × Word × Word) (hx : x.linear = some p)
    (hid : ∀ q, x.record = some q → q.id = id) : (x.resolve id arrived).1.word = linearOn p arrived.word := by
  cases ht : x.tag with
  | sym q =>
    have hq : q.id = id := hid q (by simp [Val.record, ht])
    simp only [Val.linear, ht] at hx
    simp only [Val.resolve, ht, hq, if_true, SymForm.resolve, ha, reduceCtorEq, if_false]
    cases hf : q.form with
    | pure =>
      rw [hf] at hx
      cases hx
      simp [linearOn]
    | int a b =>
      rw [hf] at hx
      cases hx
      exact word_dataWord _
    | cap b => simp [hf] at hx
    | fp fmt steps => simp [hf] at hx
  | data | cap | absent | poison =>
    simp only [Val.linear, ht] at hx
    cases hx
    simp only [Val.resolve, ht, linearOn]

theorem ofLinear_resolve (i : Option (BitVec 6)) (a b : Word) (hi : ∀ j, i = some j → j = id) :
    ((ofLinear i a b).resolve id arrived).1.word = linearOn (i, a, b) arrived.word := by
  cases i with
  | none => exact word_dataWord b
  | some j =>
    rw [hi j rfl]
    simp only [ofLinear, symVal, Val.resolve, if_true, SymForm.resolve, ha, reduceCtorEq, if_false]
    exact word_dataWord _

end Arrival

/-- The symbol of a linear form is that of the value's record. -/
theorem linear_id (x : Val) (id : BitVec 6) (p : Option (BitVec 6) × Word × Word) (hx : x.linear = some p)
    (hid : ∀ q, x.record = some q → q.id = id) : ∀ j, p.1 = some j → j = id := by
  intro j hj
  unfold Val.linear at hx
  split at hx
  next q hq =>
    have hqi := hid q (by simp [Val.record, hq])
    split at hx
    · cases hx
      exact (Option.some.inj hj).symm.trans hqi
    · cases hx
      exact (Option.some.inj hj).symm.trans hqi
    · cases hx
  next =>
    cases hx
    cases hj

/-- A value that is made of a linear form: over no symbol but those of two others, and giving `f` of what they give. -/
def MadeLinear (p q : Option (BitVec 6) × Word × Word) (f : Word → Word → Word) (r : Val) : Prop :=
  ∃ i a b, r = ofLinear i a b ∧ (i = p.1 ∨ i = q.1) ∧ ∀ v, linearOn (i, a, b) v = f (linearOn p v) (linearOn q v)

theorem linAdd_made (x y r : Val) (p q : Option (BitVec 6) × Word × Word) (hx : x.linear = some p) (hy : y.linear = some q)
    (h : linAdd x y = some r) : MadeLinear p q (· + ·) r := by
  obtain ⟨_ | i, a1, b1⟩ := p <;> obtain ⟨_ | j, a2, b2⟩ := q <;> simp only [linAdd, hx, hy] at h
  · cases h
    exact ⟨none, 0, _, rfl, .inl rfl, fun v => rfl⟩
  · cases h
    exact ⟨_, _, _, rfl, .inr rfl, fun v => by simp only [linearOn]; ring⟩
  · cases h
    exact ⟨_, _, _, rfl, .inl rfl, fun v => by simp only [linearOn]; ring⟩
  · split at h
    · cases h
      exact ⟨_, _, _, rfl, .inl rfl, fun v => by simp only [linearOn]; ring⟩
    · cases h

theorem linSub_made (x y r : Val) (p q : Option (BitVec 6) × Word × Word) (hx : x.linear = some p) (hy : y.linear = some q)
    (h : linSub x y = some r) : MadeLinear p q (· - ·) r := by
  obtain ⟨_ | i, a1, b1⟩ := p <;> obtain ⟨_ | j, a2, b2⟩ := q <;> simp only [linSub, hx, hy] at h
  · cases h
    exact ⟨none, 0, _, rfl, .inl rfl, fun v => rfl⟩
  · cases h
    exact ⟨_, _, _, rfl, .inr rfl, fun v => by simp only [linearOn]; ring⟩
  · cases h
    exact ⟨_, _, _, rfl, .inl rfl, fun v => by simp only [linearOn]; ring⟩
  · split at h
    · cases h
      exact ⟨_, _, _, rfl, .inl rfl, fun v => by simp only [linearOn]; ring⟩
    · cases h

theorem linMul_made (x y r : Val) (p q : Option (BitVec 6) × Word × Word) (hx : x.linear = some p) (hy : y.linear = some q)
    (h : linMul x y = some r) : MadeLinear p q (· * ·) r := by
  obtain ⟨_ | i, a1, b1⟩ := p <;> obtain ⟨_ | j, a2, b2⟩ := q <;> simp only [linMul, hx, hy] at h
  · cases h
    exact ⟨none, 0, _, rfl, .inl rfl, fun v => rfl⟩
  · cases h
    exact ⟨_, _, _, rfl, .inr rfl, fun v => by simp only [linearOn]; ring⟩
  · cases h
    exact ⟨_, _, _, rfl, .inl rfl, fun v => by simp only [linearOn]; ring⟩
  · cases h

/-- A value made of a linear form of two others becomes, when the data of their symbol arrives, what the form gives on the two as they
are then. -/
theorem made_resolve (x y r : Val) (id : BitVec 6) (arrived : Val) (f : Word → Word → Word) (p q : Option (BitVec 6) × Word × Word)
    (hx : x.linear = some p) (hy : y.linear = some q) (ha : arrived.tag = .data) (hxi : ∀ k, x.record = some k → k.id = id)
    (hyi : ∀ k, y.record = some k → k.id = id) (h : MadeLinear p q f r) :
    (r.resolve id arrived).1.word = f (x.resolve id arrived).1.word (y.resolve id arrived).1.word := by
  obtain ⟨i, a, b, rfl, hi, hf⟩ := h
  have hid : ∀ j, i = some j → j = id := by
    rcases hi with rfl | rfl
    · exact linear_id x id p hx hxi
    · exact linear_id y id q hy hyi
  rw [ofLinear_resolve id arrived ha i a b hid, hf, linear_resolve id arrived ha x p hx hxi, linear_resolve id arrived ha y q hy hyi]

theorem mul_one_shl (x : Word) (n : Nat) : x * 1 <<< n = x <<< n := by
  rw [← BitVec.mul_twoPow_eq_shiftLeft, BitVec.twoPow]
  rfl

theorem linShl_resolve (x r : Val) (n : Word) (id : BitVec 6) (arrived : Val) (p : Option (BitVec 6) × Word × Word)
    (hx : x.linear = some p) (ha : arrived.tag = .data) (hxi : ∀ k, x.record = some k → k.id = id) (h : linShl x n = some r) :
    (r.resolve id arrived).1.word = (x.resolve id arrived).1.word <<< (n.toNat % 64) := by
  have hy := linear_known _ (dataWord_known (1 <<< (n.toNat % 64)))
  have hm := made_resolve x _ r id arrived (· * ·) p _ hx hy ha hxi (fun k hk => by cases hk) (linMul_made x _ r p _ hx hy h)
  rw [hm, ← mul_one_shl]
  exact congrArg _ (word_dataWord _)

/-! ### The instructions that transform a symbol -/

/-- A symbol in a source does not hold back an instruction that transforms symbols itself. -/
theorem block_affine (g : Group) (i : Instr) (cs : List (BitVec 6)) (blk : Group → Bool) (hu : isUniform i = false)
    (hst : ∀ c ∈ cs, g.stream c = none) (hd : g.boundDst (dst i) = false) (hb : blk g = false) : g.block i affine cs blk = none := by
  simp [Group.block, affine, hu, popsSym_false g cs hst, hd, hb]

theorem poisonSrc_none_of_ne (g : Group) (u : Bool) (cs : List (BitVec 6))
    (h : ∀ l ∈ g.acts, ∀ c ∈ cs, (g.read l c).tag ≠ .poison) :
    g.poisonSrc (g.execs u) cs = none := by
  simp only [Group.poisonSrc, List.findSome?_eq_none_iff, List.find?_eq_none, beq_iff_eq]
  exact fun l hl c hc => h l (execs_subset_acts g u l hl) c hc

theorem absent_false_of_ne (g : Group) (u : Bool) (cs : List (BitVec 6))
    (h : ∀ l ∈ g.acts, ∀ c ∈ cs, (g.read l c).tag ≠ .absent) :
    g.absent (g.execs u) cs = false := by
  simp only [Group.absent, List.any_eq_false, List.any_eq_true, not_exists, not_and, beq_iff_eq]
  exact fun l hl c hc => h l (execs_subset_acts g u l hl) c hc

section Transformed
variable (i : Instr) (s : State) (hu : isUniform i = false) (h : s.reaches i (srcs i))
  (hpres : s.present (srcs i)) (hpois : ∀ l ∈ s.g.acts, ∀ c ∈ srcs i, (s.g.read l c).tag ≠ .poison)
include hu h hpois

omit hu in
theorem lateTrap_affine : lateTrap i affine (srcs i) s = none := by
  obtain ⟨-, -, -, -, -, -, -, -, -, -, hrun, hrole, -⟩ := h
  have h1 : (readsLatch i && decide (16 ≤ s.g.runLen)) = false := by
    cases hb : readsLatch i
    · rfl
    · have := hrun hb
      simp
      omega
  have h2 : (s.g.isG && !roleAllows s.g.role (classOf i)) = false := by
    cases hb : s.g.isG
    · rfl
    · simp [hrole hb]
  unfold lateTrap
  rw [if_neg (by simp [h1]), if_neg (by simp [h2]), poisonSrc_none_of_ne s.g _ _ hpois]
  simp [affine]

include hpres

/-- An instruction that transforms symbols itself performs its body, whatever symbols its sources hold. -/
theorem issueAct_affine (blk : Group → Bool) (body : State → Act) (hb : blk s.g = false) :
    issueAct i affine (srcs i) blk (fun _ => none) body s = body s := by
  have hlate := lateTrap_affine i s h hpois
  obtain ⟨hs, hheld, hkind, hl, hm, hbp, ha, hr, hbd, hnw, -, -, hst⟩ := h
  have hstream : ∀ c ∈ srcs i, s.g.stream c = none := fun c hc => hst c (by simp [hc])
  have hall : (srcs i).all s.g.holds = true := by
    rw [List.all_eq_true]
    intro c hc
    simp [Group.holds, hstream c hc]
  have hpass : ∀ k : State → Act, passBlocks i affine (srcs i) blk k s = k s := by
    intro k
    simp only [passBlocks, block_affine s.g i (srcs i) blk hu hstream hbd hb, hlate]
  have hds : (dst i).toList = dsts i := by unfold dsts; cases dst i <;> rfl
  unfold issueAct
  simp only [hs, Bool.false_eq_true, if_false, decodeTrap_none i (fun _ => none) s hkind hl rfl hm, hbp,
    absent_false_of_ne _ _ _ hpres, hds, ha, hr, hnw, hpass, hall, if_true, popped, hheld, List.isEmpty_nil]

/-- A form that gives each lane a value, symbols among its operands and results, gives it and nothing else. -/
theorem lanewise_transforms (hstep : s.unstepped) (f : Group → Lane → Option (Val × Flags)) (r : Lane → Val)
    (hf : ∀ l ∈ s.g.acts, f s.g l = some (r l, Flags.zero)) : lanewise i affine f s = .next (s.computes i r) := by
  have hact := issueAct_affine i s hu h hpres hpois
  obtain ⟨-, hheld, -, -, -, -, -, -, -, -, -, -, hst⟩ := h
  have hdst : ∀ c ∈ dsts i, s.g.stream c = none := fun c hc => hst c (by simp [hc])
  have hblk := lanesBlock_false i f s.g hdst fun l hl => ⟨_, hf l hl⟩
  have hb := laneAct_done i f (fun l => (r l, Flags.zero)) s hdst hf
  simp only at hb
  rw [gets_zero _ _ _ _ _ fun _ => rfl] at hb
  unfold lanewise issueBlk
  rw [hact _ _ hblk, hb]
  exact congrArg _ (finish_done i s _ hstep ((gets_held _ _ _ _).trans hheld))

end Transformed

/-- Every linear form computes its table's value lane by lane. -/
theorem exec_linearForm (i : Instr) (s : State) (f : (BitVec 6 → Val) → Option Val) (h : linearForm i = some f) :
    exec i s = lanewise i affine (fun g l => (f (g.read l)).map fun v => (v, Flags.zero)) s := by
  unfold linearForm at h
  split at h
  iterate 14 · cases h; rfl
  · cases h

end Sys2Proof.Machine
end

section
/-! SUPPORT. A floating-point step on a symbol (03 R66, R70): the result of every operation lies in its format (02 R37, R41, R42), so a
recorded step meets, when the data arrives, the operand that the steps before it gave. -/

namespace Sys2Proof.Machine

theorem lt_two_pow_bitLen (m : Nat) : m < 2 ^ bitLen m := by
  unfold bitLen
  split
  next h => simp [h]
  next => exact Nat.lt_log2_self

/-- A magnitude below 2 to the n places that a shift keeps rounds to 2^n at most. -/
theorem roundShift_le (mode : BitVec 2) (s : Bool) (m sh n : Nat) (sticky : Bool) (h : m < 2 ^ (n + sh)) :
    roundShift mode s m sh sticky ≤ 2 ^ n := by
  have hq : m / 2 ^ sh < 2 ^ n := Nat.div_lt_of_lt_mul (by rwa [Nat.mul_comm, ← Nat.pow_add])
  have hb := Bool.toNat_le (roundsUp mode s (m / 2 ^ sh % 2 == 1) (dropped m sh sticky))
  unfold roundShift
  dsimp only
  omega

/-- A magnitude m·2^e taken at the exponent q: its integer part rounded, and what that drops. -/
def roundedAt (mode : BitVec 2) (s : Bool) (m : Nat) (e : Int) (sticky : Bool) (q : Int) : Nat × Nat :=
  if e ≤ q then (roundShift mode s m (q - e).toNat sticky, dropped m (q - e).toNat sticky) else (m * 2 ^ (e - q).toNat, 0)

/-- At an exponent that leaves n places at most, a magnitude rounds to 2^n at most. -/
theorem roundedAt_le (mode : BitVec 2) (s : Bool) (m : Nat) (e : Int) (sticky : Bool) (q : Int) (n : Nat)
    (h : (bitLen m : Int) + e ≤ q + n) : (roundedAt mode s m e sticky q).1 ≤ 2 ^ n := by
  have hm := lt_two_pow_bitLen m
  unfold roundedAt
  split
  next hq =>
    refine roundShift_le mode s m _ n sticky (hm.trans_le (Nat.pow_le_pow_right (by omega) ?_))
    omega
  next hq =>
    calc m * 2 ^ (e - q).toNat ≤ 2 ^ bitLen m * 2 ^ (e - q).toNat := Nat.mul_le_mul_right _ hm.le
      _ = 2 ^ (bitLen m + (e - q).toNat) := (Nat.pow_add _ _ _).symm
      _ ≤ 2 ^ n := Nat.pow_le_pow_right (by omega) (by omega)

namespace FpFmt

variable (f : FpFmt)

/-- The number of codes of a format: signs, exponents and fractions. -/
theorem two_pow_width : 2 ^ f.width = 2 * (2 ^ f.eb * 2 ^ f.fb) := by
  unfold FpFmt.width
  rw [Nat.pow_add, Nat.pow_add, Nat.pow_one, Nat.mul_assoc]

/-- The exponent field of the largest finite value and its fraction, below an infinity. -/
theorem emax_mul : f.emax * 2 ^ f.fb + 2 ^ f.fb = 2 ^ f.eb * 2 ^ f.fb := by
  have h : f.emax + 1 = 2 ^ f.eb := Nat.sub_add_cancel Nat.one_le_two_pow
  rw [← h, Nat.add_mul, Nat.one_mul]

/-- A sign over the codes of one sign. -/
theorem sign_add_lt (s : Bool) (x : Nat) (h : x < 2 ^ f.eb * 2 ^ f.fb) : s.toNat * 2 ^ (f.eb + f.fb) + x < 2 ^ f.width := by
  rw [two_pow_width, Nat.pow_add]
  cases s <;> simp <;> omega

theorem inf_lt (s : Bool) : f.inf s < 2 ^ f.width :=
  f.sign_add_lt s _ (by have := f.emax_mul; have := Nat.two_pow_pos f.fb; omega)

theorem maxFin_lt (s : Bool) : f.maxFin s < 2 ^ f.width := (Nat.sub_le _ 1).trans_lt (f.inf_lt s)

theorem zero_lt (s : Bool) : f.zero s < 2 ^ f.width := f.sign_add_lt s 0 (Nat.mul_pos (Nat.two_pow_pos _) (Nat.two_pow_pos _))

theorem overflow_lt (mode : BitVec 2) (s : Bool) : overflow f mode s < 2 ^ f.width := by
  have hi := f.inf_lt s
  have hm := f.maxFin_lt s
  unfold overflow
  split
  · exact hi
  · exact hm
  · split
    · exact hm
    · exact hi
  · split
    · exact hi
    · exact hm

/-- The quiet bit lies in the fraction. -/
theorem quietBit (h : 0 < f.fb) : 2 ^ (f.fb - 1) + 2 ^ (f.fb - 1) = 2 ^ f.fb := by
  rw [← Nat.two_mul, ← Nat.pow_succ', Nat.succ_eq_add_one, Nat.sub_add_cancel h]

theorem qnan_lt (h : 0 < f.fb) : f.qnan < 2 ^ f.width := by
  have hq := f.quietBit h
  have hp := Nat.two_pow_pos (f.fb - 1)
  have := f.sign_add_lt false f.qnan (by have := f.emax_mul; unfold FpFmt.qnan; omega)
  simpa using this

theorem quiet_lt (h : 0 < f.fb) (x : Nat) (hx : x < 2 ^ f.width) : f.quiet x < 2 ^ f.width := by
  unfold FpFmt.quiet
  split
  next hz =>
    have hq := f.quietBit h
    have hfrac : f.frac x < 2 ^ (f.fb - 1) := Nat.lt_of_div_eq_zero (Nat.two_pow_pos _) hz
    -- a fraction without its quiet bit has room for it
    have hd : x / 2 ^ f.fb < 2 * 2 ^ f.eb := Nat.div_lt_of_lt_mul (by rw [two_pow_width] at hx; linarith)
    have hx' : 2 ^ f.fb * (x / 2 ^ f.fb) + f.frac x = x := Nat.div_add_mod x _
    have hle : 2 ^ f.fb * (x / 2 ^ f.fb + 1) ≤ 2 ^ f.fb * (2 * 2 ^ f.eb) := Nat.mul_le_mul_left _ hd
    rw [two_pow_width]
    linarith
  next => exact hx

/-- The code of a magnitude of fewer than `fb + 2` bits at an exponent: subnormal, past the largest finite value, or normal (02 R42). -/
def settle (mode : BitVec 2) (s : Bool) (r : Nat) (q : Int) : Nat :=
  if r < 2 ^ f.fb then s.toNat * 2 ^ (f.eb + f.fb) + r
  else if q + f.fb + f.bias ≥ f.emax then overflow f mode s
  else s.toNat * 2 ^ (f.eb + f.fb) + (q + f.fb + f.bias).toNat * 2 ^ f.fb + (r - 2 ^ f.fb)

theorem settle_lt (mode : BitVec 2) (s : Bool) (r : Nat) (q : Int) (he : 0 < f.eb) (h : r < 2 ^ (f.fb + 1)) :
    f.settle mode s r q < 2 ^ f.width := by
  have hF := f.emax_mul
  have hE : 0 < f.emax := Nat.sub_pos_of_lt (Nat.one_lt_two_pow he.ne')
  unfold settle
  split
  next hr =>
    refine f.sign_add_lt s r (hr.trans_le ?_)
    exact Nat.le_mul_of_pos_left _ (Nat.two_pow_pos _)
  next hr =>
    split
    · exact overflow_lt f mode s
    next hq =>
      rw [Nat.add_assoc]
      refine f.sign_add_lt s _ ?_
      have hbe : ((q + f.fb + f.bias).toNat + 1) * 2 ^ f.fb ≤ f.emax * 2 ^ f.fb := Nat.mul_le_mul_right _ (by omega)
      rw [Nat.add_mul, Nat.one_mul] at hbe
      rw [Nat.pow_succ] at h
      omega

/-- The exponent of the last place kept of a magnitude m·2^e. -/
def lastPlace (m : Nat) (e : Int) : Int := max ((bitLen m : Int) - 1 + e - f.fb) (f.emin - f.fb)

/-- A rounded magnitude that has grown by a bit, taken one place higher. -/
def carried (r : Nat) (q : Int) : Nat × Int := if r = 2 ^ (f.fb + 1) then (2 ^ f.fb, q + 1) else (r, q)

theorem carried_lt (r : Nat) (q : Int) (h : r ≤ 2 ^ (f.fb + 1)) : (f.carried r q).1 < 2 ^ (f.fb + 1) := by
  unfold carried
  split
  · exact Nat.pow_lt_pow_right (by decide) (Nat.lt_succ_self _)
  next hr => exact Nat.lt_of_le_of_ne h hr

/-- The bits of a rounded value are those of its magnitude at its last place. -/
theorem roundNz_bits (mode : BitVec 2) (s : Bool) (m : Nat) (e : Int) (sticky : Bool) :
    (roundNz f mode s m e sticky).bits =
      let p := f.carried (roundedAt mode s m e sticky (f.lastPlace m e)).1 (f.lastPlace m e)
      f.settle mode s p.1 p.2 := by
  unfold roundNz settle
  dsimp only
  rw [apply_ite FpRes.bits, apply_ite FpRes.bits]
  rfl

theorem roundNz_lt (mode : BitVec 2) (s : Bool) (m : Nat) (e : Int) (sticky : Bool) (he : 0 < f.eb) :
    (roundNz f mode s m e sticky).bits < 2 ^ f.width := by
  rw [roundNz_bits]
  refine f.settle_lt mode s _ _ he (f.carried_lt _ _ (roundedAt_le mode s m e sticky _ _ ?_))
  unfold lastPlace
  omega

/-! ### The operations -/

/-- A bound on two results is one on whichever is taken. -/
theorem bits_ite_lt (c : Prop) [Decidable c] (r1 r2 : FpRes) (n : Nat) (h1 : r1.bits < n) (h2 : r2.bits < n) :
    (if c then r1 else r2).bits < n := by
  split <;> assumption

section Operations
variable (he : 0 < f.eb) (hf : 0 < f.fb) (mode : BitVec 2)
include he hf

omit hf in
theorem addExact_lt (s1 : Bool) (m1 : Nat) (e1 : Int) (s2 : Bool) (m2 : Nat) (e2 : Int) :
    (addExact f mode s1 m1 e1 s2 m2 e2).bits < 2 ^ f.width := by
  unfold addExact
  exact bits_ite_lt _ _ _ _ (f.zero_lt _) (f.roundNz_lt mode _ _ _ _ he)

theorem addTerms_lt (i1 s1 : Bool) (m1 : Nat) (e1 : Int) (i2 s2 : Bool) (m2 : Nat) (e2 : Int) :
    (addTerms f mode i1 s1 m1 e1 i2 s2 m2 e2).bits < 2 ^ f.width := by
  unfold addTerms
  split
  · split
    · exact f.inf_lt s1
    · exact f.qnan_lt hf
  · split
    · exact f.inf_lt s1
    · split
      · exact f.inf_lt s2
      · exact f.addExact_lt he mode s1 m1 e1 s2 m2 e2

omit he in
theorem propagate_lt (ops : List Nat) (r : FpRes) (hops : ∀ x ∈ ops, x < 2 ^ f.width) (h : propagate f ops = some r) :
    r.bits < 2 ^ f.width := by
  unfold propagate at h
  split at h
  next x hx =>
    cases h
    exact f.quiet_lt hf x (hops x (List.mem_of_find?_eq_some hx))
  next => cases h

variable (a b d : Nat) (ha : a < 2 ^ f.width) (hb : b < 2 ^ f.width) (hd : d < 2 ^ f.width)
include ha hb

theorem fpAdd_lt (neg : Bool) : (fpAdd f mode neg a b).bits < 2 ^ f.width := by
  unfold fpAdd
  split
  next r hr => exact f.propagate_lt hf [a, b] r (by simp [ha, hb]) hr
  next => exact f.addTerms_lt he hf mode _ _ _ _ _ _ _ _

theorem fpMul_lt : (fpMul f mode a b).bits < 2 ^ f.width := by
  unfold fpMul
  split
  next r hr => exact f.propagate_lt hf [a, b] r (by simp [ha, hb]) hr
  next =>
    dsimp only
    split
    · split
      · exact f.qnan_lt hf
      · exact f.inf_lt _
    · split
      · exact f.zero_lt _
      · exact f.roundNz_lt mode _ _ _ _ he

include hd in
theorem fpFma_lt (negD negP : Bool) : (fpFma f mode negD negP a b d).bits < 2 ^ f.width := by
  unfold fpFma
  dsimp only
  split
  next r hr => exact f.propagate_lt hf [a, b, d] r (by simp [ha, hb, hd]) hr
  next =>
    split
    · exact f.qnan_lt hf
    · exact f.addTerms_lt he hf mode _ _ _ _ _ _ _ _

end Operations

end FpFmt

/-! ### Recorded steps (03 R66) -/

/-- Each of the four formats has exponents and fractions and fits a word. -/
theorem fpFmt_sizes (t : BitVec 2) : 0 < (fpFmt t).eb ∧ 0 < (fpFmt t).fb ∧ (fpFmt t).width ≤ 64 := by
  revert t
  decide

theorem cut_lt (f : FpFmt) (x : Nat) : f.cut x < 2 ^ f.width := Nat.mod_lt _ (Nat.two_pow_pos _)

theorem cut_self (f : FpFmt) (x : Nat) (h : x < 2 ^ f.width) : f.cut x = x := Nat.mod_eq_of_lt h

/-- The bits of a format's value are kept by a register of 64 bits or more. -/
theorem toNat_ofNat_format (t : BitVec 2) (n x : Nat) (hn : 64 ≤ n) (h : x < 2 ^ (fpFmt t).width) : (BitVec.ofNat n x).toNat = x := by
  obtain ⟨-, -, hw⟩ := fpFmt_sizes t
  rw [BitVec.toNat_ofNat]
  exact Nat.mod_eq_of_lt (h.trans_le (Nat.pow_le_pow_right (by decide) (hw.trans hn)))

theorem stepApply_lt (t : BitVec 2) (st : FpStep) (x : Nat) (hx : x < 2 ^ (fpFmt t).width) : (st.apply t x).bits < 2 ^ (fpFmt t).width := by
  obtain ⟨he, hf, -⟩ := fpFmt_sizes t
  have h1 := cut_lt (fpFmt t) st.c1.toNat
  have h2 := cut_lt (fpFmt t) st.c2.toNat
  have ha : (if st.pos = 0 then x else (fpFmt t).cut st.c1.toNat) < 2 ^ (fpFmt t).width := by split <;> assumption
  have hb : (if st.pos = 1 then x else if st.pos = 0 then (fpFmt t).cut st.c1.toNat else (fpFmt t).cut st.c2.toNat) <
      2 ^ (fpFmt t).width := by
    split
    · exact hx
    · split <;> assumption
  have hd : (if st.pos = 2 then x else (fpFmt t).cut st.c2.toNat) < 2 ^ (fpFmt t).width := by split <;> assumption
  unfold FpStep.apply
  dsimp only
  split
  · exact FpFmt.fpAdd_lt _ he hf _ _ _ ha hb _
  · exact FpFmt.fpAdd_lt _ he hf _ _ _ ha hb _
  · exact FpFmt.fpMul_lt _ he hf _ _ _ ha hb
  · exact FpFmt.fpFma_lt _ he hf _ _ _ _ ha hb hd _ _

theorem fpSteps_lt (t : BitVec 2) (steps : List FpStep) (x : Nat) (fl : Flags) (hx : x < 2 ^ (fpFmt t).width) :
    (fpSteps t steps x fl).1 < 2 ^ (fpFmt t).width := by
  induction steps generalizing x fl with
  | nil => exact hx
  | cons st rest ih => exact ih _ _ (stepApply_lt t st x hx)

/-- The last of a record's steps is applied to what those before it give. -/
theorem fpSteps_concat (t : BitVec 2) (steps : List FpStep) (st : FpStep) (x : Nat) (fl : Flags) :
    (fpSteps t (steps ++ [st]) x fl).1 = (st.apply t (fpSteps t steps x fl).1).bits := by
  induction steps generalizing x fl with
  | nil => rfl
  | cons first rest ih => exact ih _ _

theorem fpResolve_bits (t : BitVec 2) (steps : List FpStep) (v : Val) (hv : v.tag = .data) :
    ((SymForm.fp t steps).resolve v).1.bits = BitVec.ofNat 128 (fpSteps t steps ((fpFmt t).cut v.bits.toNat) Flags.zero).1 := by
  simp only [SymForm.resolve, hv, reduceCtorEq, if_false]

/-- A record with one more step resolves to that step of what the record before it resolves to. -/
theorem addStep_resolve (q : SymRec) (t : BitVec 2) (st : FpStep) (r v : Val) (h : addStep q t st = some r) (hv : v.tag = .data) :
    (r.resolve q.id v).1.bits = BitVec.ofNat 128 (st.apply t ((fpFmt t).cut (q.form.resolve v).1.bits.toNat)).bits := by
  unfold addStep at h
  have hgo : ∀ steps : List FpStep, (if steps.length ≥ 2 ∨ stepBits t (steps ++ [st]) > 192 then none
      else some (symVal ⟨q.id, none, .fp t (steps ++ [st])⟩)) = some r → (r.resolve q.id v).1.bits =
        BitVec.ofNat 128 (st.apply t (fpSteps t steps ((fpFmt t).cut v.bits.toNat) Flags.zero).1).bits := by
    intro steps hs
    split at hs
    · cases hs
    · cases hs
      rw [← fpSteps_concat, ← fpResolve_bits t _ v hv]
      simp [Val.resolve, symVal]
  dsimp only at h
  split at h
  next hform =>
    rw [hgo [] h, hform]
    simp [SymForm.resolve, hv, fpSteps]
  next f steps hform =>
    split at h
    next hft =>
      subst hft
      have hx := fpSteps_lt f steps _ Flags.zero (cut_lt (fpFmt f) v.bits.toNat)
      rw [hgo steps h, hform, fpResolve_bits f steps v hv, toNat_ofNat_format f 128 _ (by decide) hx, cut_self _ _ hx]
    next => cases h
  next => cases h

theorem record_some (v : Val) (q : SymRec) (h : v.record = some q) : v.tag = .sym q := by
  unfold Val.record at h
  split at h
  next r hr => rw [hr, Option.some.inj h]
  next => cases h

theorem resolve_record (v arrived : Val) (q : SymRec) (h : v.record = some q) : v.resolve q.id arrived = q.form.resolve arrived := by
  simp [Val.resolve, record_some v q h]

/-- A step at the first position is its operation on the value it is applied to and its constant. -/
theorem stepApply_first (op t mode : BitVec 2) (c x no : Nat) (hop : op ≠ 3) (hc : c < 2 ^ (fpFmt t).width) :
    FpStep.apply t ⟨op, 0, BitVec.ofNat 64 c, 0, mode, no⟩ x =
      if op = 0 then fpAdd (fpFmt t) mode false x c else if op = 1 then fpAdd (fpFmt t) mode true x c else fpMul (fpFmt t) mode x c := by
  have hc1 : (fpFmt t).cut (BitVec.ofNat 64 c).toNat = c := by rw [toNat_ofNat_format t 64 c (by decide) hc, cut_self _ _ hc]
  unfold FpStep.apply
  dsimp only
  rw [hc1]
  have hops : op = 0 ∨ op = 1 ∨ op = 2 := by revert op; decide
  rcases hops with rfl | rfl | rfl <;> rfl

/-- A step on a symbol resolves to its operation on the value that has arrived, in the mode at its issue (03 R66). -/
theorem fpStepTwo_resolve (op t : BitVec 2) (a b : BitVec 6) (g : Group) (l : Lane) (q : SymRec) (r arrived : Val) (fl : Flags)
    (sub : Bool) (hop : op ≠ 3) (hx : (g.read l a).record = some q) (hy : (g.read l b).record = none) (ha : arrived.tag = .data)
    (h : fpStepTwo op t a b g l = some (r, fl, sub)) :
    let f := fpFmt t
    let x := f.cut (((g.read l a).resolve q.id arrived).1.bits.toNat)
    let y := f.cut (g.read l b).bits.toNat
    let m := (g.fmode l.no).extractLsb' 0 2
    (r.resolve q.id arrived).1.bits = BitVec.ofNat 128
      (if op = 0 then fpAdd f m false x y else if op = 1 then fpAdd f m true x y else fpMul f m x y).bits := by
  intro f x y m
  simp only [fpStepTwo, hx, hy, Option.map_eq_some_iff, Prod.mk.injEq] at h
  obtain ⟨v, hv, rfl, -, -⟩ := h
  rw [addStep_resolve q t _ v arrived hv ha, ← resolve_record _ _ q hx]
  exact congrArg (fun p => BitVec.ofNat 128 (FpRes.bits p)) (stepApply_first op t m y x _ hop (cut_lt f _))

end Sys2Proof.Machine
end

section
/-! Arithmetic on a symbol (03 R64 to R66, R70). -/

namespace Sys2Proof.Machine

/-- Settles O17: a linear form by the form its record is made of, a floating-point step by the steps recorded before it, and the forms that
complete by the one body that they share. -/
theorem symbolicArithmeticCommutesWithArrival : Obligations.SymbolicArithmeticCommutesWithArrival := by
  unfold Obligations.SymbolicArithmeticCommutesWithArrival
  refine ⟨?_, ?_, ?_⟩
  -- the linear forms
  · intro x y r id arrived hx hy ha hxi hyi now
    obtain ⟨p, hp⟩ := Option.isSome_iff_exists.1 hx
    obtain ⟨q, hq⟩ := Option.isSome_iff_exists.1 hy
    have hmade (f : Word → Word → Word) (h : MadeLinear p q f r) : now r = f (now x) (now y) :=
      made_resolve x y r id arrived f p q hp hq ha hxi hyi h
    exact ⟨fun h => hmade (· + ·) (linAdd_made x y r p q hp hq h), fun h => hmade (· - ·) (linSub_made x y r p q hp hq h),
      fun h => hmade (· * ·) (linMul_made x y r p q hp hq h), fun n h => linShl_resolve x r n id arrived p hp ha hxi h⟩
  -- a floating-point step
  · intro op t a b g l q r arrived fl sub hop hx hy ha h
    exact fpStepTwo_resolve op t a b g l q r arrived fl sub hop hx hy ha h
  -- the instructions
  · intro i s f r hf hu hr hstep hpres hpois hval
    rw [exec_linearForm i s f hf]
    exact lanewise_transforms i s hu hr hpres hpois hstep _ r fun l hl => by rw [hval l hl]; rfl

end Sys2Proof.Machine
end

section
/-! SUPPORT. An access of a lone lane to another core's place, as a load or a store sends it (03 R60, R68; 12 R246, R250; 18 R374). -/

namespace Sys2Proof.Machine

/-! ### Watchpoints and the follower -/

theorem watchpoint_unarmed (sl : Slice) (n : Nat) (h : (sl.wp.toList.any fun w => w.getLsbD 63) = false) :
    (sl.wp.toList.getD n 0).getLsbD 63 = false := by
  rw [List.getD_eq_getElem?_getD]
  cases hn : sl.wp.toList[n]? with
  | none => rfl
  | some w =>
    rw [List.any_eq_false] at h
    simpa using h w (List.mem_of_getElem? hn)

/-- Where no watchpoint is armed, no access traps on one. -/
theorem watchTrap_unwatched (g : Group) (acs : List Watched) (h : g.unwatched) : g.watchTrap acs = none := by
  unfold Group.watchTrap
  split
  · rfl
  · rw [List.findSome?_eq_none_iff]
    intro n _
    rw [List.findSome?_eq_none_iff]
    intro a _
    split
    · rfl
    next sl hsl =>
      have hu := watchpoint_unarmed sl n (h sl (List.mem_of_find?_eq_some hsl))
      simp only [hu, Bool.false_and, Bool.false_eq_true, if_false]

theorem watchedAct_unwatched (s : State) (acs : List Watched) (k : State → Act) (h : s.g.unwatched) : watchedAct s acs k = k s := by
  unfold watchedAct
  rw [watchTrap_unwatched s.g _ h]

/-- Past a follower that reads no latch, an access that is not watched goes on (04 R89; 19 R405). -/
theorem withWatch_unwatched (i : Instr) (acs : List Watched) (s : State) (k : State → Act) (hf : s.follower i = true)
    (hw : s.g.unwatched) : withWatch i acs s k = k s := by
  unfold withWatch
  unfold State.follower at hf
  split at hf
  next j w n hj =>
    simp only [hj]
    rw [if_neg (by simpa using hf), watchedAct_unwatched s acs k hw]
  next hj => simp only [hj, watchedAct_unwatched s acs k hw]
  next => cases hf

/-! ### A lone lane -/

theorem execs_lone (g : Group) (u : Bool) (l : Lane) (h : g.acts = [l]) : g.execs u = [l] := by
  cases u <;> simp [Group.execs, h]

theorem checkLanes_lone (f : Lane → Chk × Nat × MemOp) (l : Lane) (p : Place) (va : Nat) (op : MemOp) (h : f l = (.ok p, va, op)) :
    checkLanes f [l] = ([⟨l.no, p, va, op⟩], none) := by
  simp only [checkLanes, h]

theorem resultChk_unbound (s : State) (d : BitVec 6) (u : Bool) (ls : List Lane) (chk : Lane → Chk × Nat × MemOp)
    (h : s.g.stream d = none) : s.resultChk d u ls chk = chk := by
  funext l
  simp [State.resultChk, h]

theorem appendAccs_unbound (s : State) (d : BitVec 6) (lanes : List Nat) (h : s.g.stream d = none) : s.appendAccs d lanes = [] := by
  simp [State.appendAccs, h]

/-- An access to another core's place is not performed at its issue (05 R117). -/
theorem immediate_away (s : State) (a : Acc) (h : a.place.own = false) : s.immediate a = false := by
  simp [State.immediate, h]

theorem freshIds_one (s : State) (sl : Nat) (id : BitVec 6) (h : s.freshId sl = some id) : s.freshIds [sl] = some [(sl, id)] := by
  simp [State.freshIds, h]

/-! ### The load -/

/-- The state in which a lane's load is on its way: a fresh symbol awaits its data, and the destination holds that symbol (03 R60). -/
def State.awaitsLoad (s : State) (a : Acc) (d : BitVec 6) (id : BitVec 6) : State :=
  let s1 := (s.newSyms [(a.lane / 4, id)] [a.lane] []).send (s.reqOf a [a.lane] [(a.lane / 4, id)] none false)
  let g : Group := s1.g.write d [(a.lane, pureSym id)]
  { s1 with g := g }

/-- A load of a lone lane from another core's place sends its request and leaves a symbol. -/
theorem loadAct_away (i : Instr) (q : Ask) (d : BitVec 6) (s : State) (l : Lane) (p : Place) (va : Nat) (op : MemOp) (id : BitVec 6)
    (hsent : s.g.sent = false) (hsc : s.scPending = false) (hst : s.g.stream d = none) (hw : s.g.unwatched) (hl : s.g.acts = [l])
    (hq : q.chk s l = (.ok p, va, op)) (hp : p.own = false) (hd : d ≠ 0) (hid : s.freshId (l.no / 4) = some id) :
    loadAct i q d none false s = .done (s.awaitsLoad ⟨l.no, p, va, op⟩ d id) := by
  have hls := execs_lone s.g (isUniform i) l hl
  have hnow : ∀ t : State, t.immediate ⟨l.no, p, va, op⟩ = false := fun t => immediate_away t _ hp
  have hids : s.freshIds (slicesOf [l.no]) = some [(l.no / 4, id)] := freshIds_one s _ id hid
  have hrcv : (if isUniform i = true then s.g.acts.map (·.no) else [l].map (·.no)) = [l.no] := by
    rw [hl]
    exact ite_self _
  unfold loadAct
  simp only [hst, Option.isSome_none, Bool.false_eq_true, if_false, hsent, hsc, hls, hrcv, resultChk_unbound _ _ _ _ _ hst,
    checkLanes_lone _ _ _ _ _ hq, appendAccs_unbound _ _ _ hst, journalFull_nil, watchedAct_unwatched _ _ _ hw, hd, hids]
  simp [State.makeReads, hnow, mapGet, Group.bump, Group.bumped, State.awaitsLoad, State.newSyms, State.send]
  rfl

/-! ### The journal (18 R374) -/

theorem freeEntry_free (c : Core) (n : Nat) (h : c.freeEntry = some n) : n < 64 ∧ c.freeCount ≠ 0 := by
  unfold Core.freeEntry at h
  obtain ⟨m, -, hm⟩ := List.exists_of_findSome?_eq_some h
  split at hm
  next hnone =>
    have hn : m % 64 = n := Option.some.inj hm
    rw [hn] at hnone
    have hlt : n < 64 := hn ▸ Nat.mod_lt m (by decide)
    have hlen : n < c.journal.toList.length := by simpa using hlt
    refine ⟨hlt, ?_⟩
    -- the entry itself is among the free ones
    have hmem : c.journal.toList[n] ∈ c.journal.toList.filter (·.isNone) := by
      refine List.mem_filter.2 ⟨List.getElem_mem hlen, ?_⟩
      rwa [List.getD_eq_getElem _ _ hlen] at hnone
    exact (List.length_pos_of_mem hmem).ne'
  next => cases hm

/-- One operation fits a journal that has a free entry. -/
theorem journalFull_one (s : State) (a : Acc) (n : Nat) (h : (s.core s.g.core).freeEntry = some n) : s.journalFull [a] = false := by
  obtain ⟨-, hcount⟩ := freeEntry_free _ n h
  have hone : ([a].filter fun a => !a.place.own).length ≤ 1 := List.length_filter_le _ _
  unfold State.journalFull
  rw [decide_eq_false_iff_not]
  omega

/-- A core with an entry of its journal taken. -/
def Core.withEntry (c : Core) (n : Nat) (e : JEntry) : Core :=
  { c with journal := c.journal.setIfInBounds n (some e), next := (n + 1) % 64 }

theorem withEntry_journal (c : Core) (n : Nat) (e : JEntry) (h : n < 64) : (c.withEntry n e).journal.toList[n]? = some (some e) := by
  simp [Core.withEntry, h]

/-! ### The store -/

/-- The state in which a lane's store is on its way with a journal entry for its acknowledgement (12 R250). -/
def State.posts (s : State) (a : Acc) (n : Nat) (e : JEntry) : State :=
  (s.mapCore s.g.core (·.withEntry n e)).send (s.reqOf a [] [] (some n) false)

theorem post_away (s : State) (a : Acc) (data : Quad) (size opc n : Nat) (hp : a.place.own = false)
    (hn : (s.core s.g.core).freeEntry = some n) : s.post a data size opc = s.posts a n (s.entryOf a.lane a.va data size opc) := by
  unfold State.post State.takeEntry
  simp only [hp, Bool.false_eq_true, if_false, hn, State.access, immediate_away _ a hp]
  simp only [State.posts, State.reqOf, mapCore_g, mapCore_clk]
  rfl

theorem todo_lone (g : Group) (l : Lane) (h : g.priv = 0 → g.sp.done = 0) : g.todo [l] = [l] := by
  unfold Group.todo
  split
  next hp => simp [h hp]
  next => rfl

/-- A store of a lone lane to another core's place takes a journal entry and sends its request. -/
theorem postAct_away (i : Instr) (q : Ask) (data : Lane → Quad) (opc n : Nat) (s : State) (l : Lane) (p : Place) (va : Nat) (op : MemOp)
    (hsc : s.scPending = false) (hf : s.follower i = true) (hw : s.g.unwatched) (hdone : s.g.priv = 0 → s.g.sp.done = 0)
    (hl : s.g.acts = [l]) (hq : q.chk s l = (.ok p, va, op)) (hp : p.own = false) (hn : (s.core s.g.core).freeEntry = some n) :
    postAct i q data opc none s =
      .done (s.posts ⟨l.no, p, va, op⟩ n (s.entryOf l.no va (data l) (Nat.log2 q.size) opc)) := by
  have hpost := post_away s ⟨l.no, p, va, op⟩ (data l) (Nat.log2 q.size) opc n hp hn
  unfold postAct
  simp only [hsc, Bool.false_eq_true, if_false, execs_lone _ _ _ hl, todo_lone _ _ hdone, checkLanes_lone _ _ _ _ _ hq,
    journalFull_one _ _ _ hn, withWatch_unwatched _ _ _ _ hf hw, List.foldl_cons, List.foldl_nil, beq_self_eq_true, List.find?_cons_of_pos,
    hpost]
  rfl

/-! ### What a form asks for -/

theorem chk_ok (q : Ask) (s : State) (l : Lane) (p : Place)
    (h : q.more (spreadInt (capWalk (s.g.read l q.base).bits) (q.idx (s.g.read l q.base)))
      (checkAccess s s.g (s.g.read l q.base) q.base (q.idx (s.g.read l q.base)) q.size q.align q.perms (q.need l)) = .ok p) :
    q.chk s l =
      (.ok p, spreadInt (capWalk (s.g.read l q.base).bits) (q.idx (s.g.read l q.base)), q.op l (s.g.read l q.base) p.ct) := by
  unfold Ask.chk
  dsimp only
  rw [h]

/-- A place of another core is not refused for a locked region or poison at the own core (11 R236, R237). -/
theorem ownWrite_away (s : State) (va size : Nat) (p : Place) (h : p.own = false) : ownWrite s va size (.ok p) = .ok p := by
  simp [ownWrite, h]

section Form
variable (f : AccessForm) (s : State) (l : Lane) (p : Place) (h : f.check s l = .ok p)
include h

theorem AccessForm.ask_load (hs : f.store = false) : (f.ask s).chk s l =
    (.ok p, accessAddr s.g f.base f.disp l, .load f.size f.sx (f.cap && capHas (s.g.read l f.base).bits .lc && p.ct)) := by
  unfold AccessForm.check at h
  rw [hs] at h
  rw [AccessForm.ask, hs]
  exact chk_ok (loadAsk f.size f.sx f.cap f.disp false f.base) s l p h

theorem AccessForm.ask_store (hs : f.store = true) (hp : p.own = false) : (f.ask s).chk s l =
    (.ok p, accessAddr s.g f.base f.disp l,
      .store f.size (s.g.read l f.reg).bits (f.cap && (s.g.read l f.reg).tag == .cap)) := by
  unfold AccessForm.check at h
  rw [hs] at h
  rw [AccessForm.ask, hs]
  exact chk_ok (storeAsk s f.size f.cap f.disp false f.base f.reg) s l p
    ((congrArg (ownWrite s _ f.size) h).trans (ownWrite_away s _ f.size p hp))

end Form

/-! ### What such an instruction leaves of its group -/

theorem setReg_active_live (l : Lane) (d : BitVec 6) (v : Val) : (l.setReg d v).active = l.active ∧ (l.setReg d v).live = l.live := by
  unfold Lane.setReg
  split
  · split <;> exact ⟨rfl, rfl⟩
  · exact ⟨rfl, rfl⟩

theorem takes_active_live (l : Lane) (d : BitVec 6) (vals : List (Nat × Val)) :
    (l.takes d vals).active = l.active ∧ (l.takes d vals).live = l.live := by
  unfold Lane.takes
  split
  · exact setReg_active_live l d _
  · exact ⟨rfl, rfl⟩

theorem write_general (g : Group) (d : BitVec 6) (vals : List (Nat × Val)) (h : g.banked d = false) :
    g.write d vals = { g with lanes := g.lanes.map (·.takes d vals) } := by
  unfold Group.write
  rw [h]
  rfl

/-- A group whose general register is written, and symbols beside it, agrees with what it was but for that register. -/
theorem agrees_written (g : Group) (d : BitVec 6) (vals : List (Nat × Val)) (syms : List Sym) :
    g.agrees { g with lanes := g.lanes.map (·.takes d vals), syms := syms } [d] := by
  refine ⟨?_, fun c _ hc => ?_, rfl, rfl, rfl, rfl, rfl⟩
  · rw [List.map_map]
    refine List.map_congr_left fun l _ => ?_
    obtain ⟨ha, hl⟩ := takes_active_live l d vals
    simp only [Function.comp_apply, takes_no, ha, hl]
  · rw [List.map_map]
    exact List.map_congr_left fun l _ => takes_reg_other l d c vals (by simpa using hc)

/-- What every instruction counts is no part of what two groups agree in. -/
theorem agrees_past (g h : Group) (ds : List (BitVec 6)) (i : Instr) (g0 : Group) (now : Nat) (pc : Word) (ha : g.agrees h ds) :
    g.agrees { h.past i g0 now with pc := pc } ds := by
  obtain ⟨hl, hr, hx, hm, hc, hs, hsp⟩ := ha
  refine ⟨hl, hr, hx, hm, hc, hs, ?_⟩
  exact congrArg (fun p : Specials => { p with lrun := (h.past i g0 now).sp.lrun, done := (h.past i g0 now).sp.done }) hsp

theorem agrees_self (g : Group) : g.agrees g [] := ⟨rfl, fun _ _ _ => rfl, rfl, rfl, rfl, rfl, rfl⟩

end Sys2Proof.Machine
end

section
/-! Accesses to other cores (03 R60, R68; 12 R246, R250; 18 R374). -/

namespace Sys2Proof.Machine

theorem clear_sent (i : Instr) (s : State) (cs : List (BitVec 6)) (h : s.clear i cs) : s.g.sent = false := by
  obtain ⟨⟨hsent, -⟩, -, -⟩ := h
  exact hsent

section Away
variable (i : Instr) (s : State) (f : AccessForm) (l : Lane) (p : Place) (hf : accessForm i = some f) (hc : s.clear i (srcs i))
  (hsc : s.scPending = false) (hw : s.g.unwatched) (hl : s.g.acts = [l]) (hadv : f.advance = none) (hp : p.own = false)
  (h : f.check s l = .ok p)
include hf hc hsc hw hl hadv hp h

/-- A load from another core's place goes on with its request on its way. -/
theorem exec_load_away (hs : f.store = false) (hd : f.reg ≠ 0) (id : BitVec 6) (hid : s.freshId (l.no / 4) = some id) :
    exec i s = .next ((s.awaitsLoad ⟨l.no, p, accessAddr s.g f.base f.disp l,
      .load f.size f.sx (f.cap && capHas (s.g.read l f.base).bits .lc && p.ct)⟩ f.reg id).past i s) := by
  obtain ⟨opc, he⟩ := exec_accessForm i s f hf
  have hst := clear_dst_stream i s hc f.reg (by simp [dsts, dst_of_load i f hf hs])
  have hheld := clear_held i s hc
  have hb : f.body i opc s = loadAct i (f.ask s) f.reg none false s := by
    rw [AccessForm.body, if_neg (by simp [hs]), AccessForm.bump, hadv]
    rfl
  rw [he]
  refine issueOn_done i strict (srcs i) _ _ s _ hc rfl
    (hb.trans (loadAct_away i _ f.reg s l p _ _ id (clear_sent i s _ hc) hsc hst hw hl (f.ask_load s l p h hs) hp hd hid)) ?_
  exact (write_held _ _ _).trans hheld

/-- A store to another core's place goes on with a journal entry and its request on its way. -/
theorem exec_store_away (hs : f.store = true) (hfol : s.follower i = true) (hdone : s.g.priv = 0 → s.g.sp.done = 0) (n : Nat)
    (hn : (s.core s.g.core).freeEntry = some n) :
    ∃ size opc, exec i s = .next ((s.posts ⟨l.no, p, accessAddr s.g f.base f.disp l,
      .store f.size (s.g.read l f.reg).bits (f.cap && (s.g.read l f.reg).tag == .cap)⟩ n
      (s.entryOf l.no (accessAddr s.g f.base f.disp l) (s.g.read l f.reg).bits size opc)).past i s) := by
  obtain ⟨opc, he⟩ := exec_accessForm i s f hf
  have hheld := clear_held i s hc
  have hb : f.body i opc s = postAct i (f.ask s) (fun l => (s.g.read l f.reg).bits) opc none s := by
    rw [AccessForm.body, if_pos hs, AccessForm.bump, hadv]
    rfl
  rw [he]
  refine ⟨_, opc, issueOn_done i strict (srcs i) _ _ s _ hc rfl
    (hb.trans (postAct_away i _ _ opc n s l p _ _ hsc hfol hw hdone hl (f.ask_store s l p h hs hp) hp hn)) ?_⟩
  rw [State.posts, send_g, mapCore_g]
  exact hheld

end Away

/-- The group of a lane whose load is on its way. -/
theorem awaitsLoad_g (s : State) (a : Acc) (d id : BitVec 6) (h : s.g.banked d = false) :
    (s.awaitsLoad a d id).g =
      { s.g with
        lanes := s.g.lanes.map (·.takes d [(a.lane, pureSym id)])
        syms := s.g.syms ++ [⟨a.lane / 4, id, [a.lane], [], none, s.clk, false⟩] } := by
  refine (write_general (s.newSyms [(a.lane / 4, id)] [a.lane] []).g d _ h).trans ?_
  simp [State.newSyms]

/-- Settles O25: a load and a store of a lone lane each by the state that its body leaves. -/
theorem remoteAccessesTravelToTheirHome : Obligations.RemoteAccessesTravelToTheirHome := by
  unfold Obligations.RemoteAccessesTravelToTheirHome
  intro i s f l p hf hc hsc hw hl hadv va tag h hp
  refine ⟨fun hs hd hreg hbank id hid => ?_, fun hs hfol hdone n hn => ?_⟩
  · have hg := awaitsLoad_g s ⟨l.no, p, va, .load f.size f.sx (f.cap && capHas (s.g.read l f.base).bits .lc && p.ct)⟩ f.reg id hbank
    refine ⟨_, _, exec_load_away i s f l p hf hc hsc hw hl hadv hp h hs hd id hid,
      rfl, rfl, rfl, rfl, rfl, rfl, rfl, rfl, rfl, ?_, ?_, ?_⟩
    · refine agrees_past s.g _ _ i s.g _ _ ?_
      rw [hg]
      exact agrees_written s.g f.reg _ _
    · intro k hk hkn
      obtain ⟨x, -, rfl⟩ := List.mem_map.1 ((congrArg Group.lanes hg) ▸ hk)
      have hx : x.no = l.no := (takes_no x _ _).symm.trans hkn
      rw [takes_reg_same x f.reg _ hd hreg, hx]
      simp
    · exact congrArg Group.syms hg
  · obtain ⟨size, opc, he⟩ := exec_store_away i s f l p hf hc hsc hw hl hadv hp h hs hfol hdone n hn
    obtain ⟨hlt, -⟩ := freeEntry_free _ n hn
    let e : JEntry := s.entryOf l.no va (s.g.read l f.reg).bits size opc
    refine ⟨_, s.reqOf ⟨l.no, p, va, .store f.size (s.g.read l f.reg).bits tag⟩ [] [] (some n) false, e, he, mapCore_mem _ _ _, ?_,
      rfl, rfl, rfl, rfl, rfl, rfl, ?_, ?_, rfl, rfl, rfl, rfl, rfl, rfl⟩
    · exact congrArg (· ++ [_]) (mapCore_net _ _ _)
    · refine agrees_past s.g _ _ i s.g _ _ ?_
      rw [State.posts, send_g, mapCore_g]
      exact agrees_self s.g
    · have hcore := mapCore_core s s.g.core (·.withEntry n e) fun _ => rfl
      have hj := withEntry_journal (s.core s.g.core) n e hlt
      rw [← hcore] at hj
      exact hj

end Sys2Proof.Machine
end


section
/-! SUPPORT. The decoder undoes the encoder (04 R79 to R101). An instruction's word is a sum of its fields at their places, so that each
field the decoder reads is a quotient and a remainder of that sum. For each form of the formats there is one lemma: a word of the form
decodes to whatever constructor its row puts the fields in. The lemma's name tells the form by its fields, from the highest bits down. -/

namespace Sys2Proof

/-! ### What the decoder reads from a word -/

theorem toNat_fld (w lo n : Nat) : (fld w lo n).toNat = w / 2 ^ lo % 2 ^ n := BitVec.toNat_ofNat _ _

theorem fld_eq_iff (w lo n : Nat) (x : BitVec n) : fld w lo n = x ↔ w / 2 ^ lo % 2 ^ n = x.toNat := by
  rw [← BitVec.toNat_inj, toNat_fld]

theorem bit_eq_iff (w lo : Nat) (x : Bool) : bit w lo = x ↔ w / 2 ^ lo % 2 = x.toNat := by
  rcases Nat.mod_two_eq_zero_or_one (w / 2 ^ lo) with h | h <;> cases x <;> simp [bit, h]

theorem zero_eq_true_iff (w lo n : Nat) : zero w lo n = true ↔ w / 2 ^ lo % 2 ^ n = 0 := by rw [zero, beq_iff_eq]

theorem zero_eq_true_iff_fld (w lo n : Nat) : zero w lo n = true ↔ fld w lo n = 0 := by rw [zero_eq_true_iff, fld_eq_iff]; rfl

theorem findRow_of_bit {k : Nat} {f : Nat → Option Instr} {rows : List Row} (h0 : findRow k rows = some f)
    (h1 : findRow (k + 1) rows = some f) (t : Bool) : findRow (k + t.toNat) rows = some f := by
  cases t
  · exact h0
  · exact h1

theorem findRow_of_type {k : Nat} {f : Nat → Option Instr} {rows : List Row} (h0 : findRow k rows = some f)
    (h1 : findRow (k + 1) rows = some f) (h2 : findRow (k + 2) rows = some f) (h3 : findRow (k + 3) rows = some f) (t : BitVec 2) :
    findRow (k + t.toNat) rows = some f := by
  have ht : t.toNat = 0 ∨ t.toNat = 1 ∨ t.toNat = 2 ∨ t.toNat = 3 := by omega
  rcases ht with ht | ht | ht | ht <;> rw [ht] <;> assumption

theorem decode_halfword {w : Nat} (hw : w < 2 ^ 16) (h2 : w % 2 = 0) (rest : List Byte) :
    decode (natBytes 2 w ++ rest) = (decode16 w).elim (.error (.reserved w 2)) fun i => .ok (i, rest) := by
  have e : w % 2 ^ 8 + 256 * (w / 256 % 2 ^ 8) = w := by omega
  simp only [natBytes, List.cons_append, List.nil_append, decode, BitVec.toNat_ofNat, e, h2, Nat.zero_ne_one, if_false]
  cases decode16 w <;> rfl

theorem decode_word {w : Nat} (hw : w < 2 ^ 32) (h2 : w % 2 = 1) :
    decode (natBytes 4 w) = (decode32 w).elim (.error (.reserved w 4)) fun i => .ok (i, []) := by
  have e : (w % 2 ^ 8 + 256 * (w / 256 % 2 ^ 8)) % 2 = 1 := by omega
  have e4 : w % 2 ^ 8 + 256 * (w / 256 % 2 ^ 8) + 65536 * (w / 256 / 256 % 2 ^ 8) + 16777216 * (w / 256 / 256 / 256 % 2 ^ 8) = w := by omega
  simp only [natBytes, decode, BitVec.toNat_ofNat, e, e4, if_true]
  cases decode32 w <;> rfl

theorem decode_of_decode16 {w : Nat} {i : Instr} (hw : w < 2 ^ 16) (h2 : w % 2 = 0) (h : decode16 w = some i) :
    decode (natBytes 2 w) = .ok (i, []) := by
  rw [← List.append_nil (natBytes 2 w), decode_halfword hw h2, h]
  rfl

theorem decode_of_decode32 {w : Nat} {i : Instr} (hw : w < 2 ^ 32) (h2 : w % 2 = 1) (h : decode32 w = some i) :
    decode (natBytes 4 w) = .ok (i, []) := by
  rw [decode_word hw h2, h]
  rfl

theorem decode32_eq {w op : Nat} {rows : List Row} {f : Nat → Option Instr} {i : Instr}
    (hr : decode32 w = ((findRow op rows).bind fun f => f w).filter Instr.wf) (hf : findRow op rows = some f) (hi : f w = some i)
    (h : i.wf = true) : decode32 w = some i := by
  rw [hr, hf, Option.bind_some, hi, Option.filter_some, if_pos h]

theorem decode16_eq {w : Nat} {f : Nat → Option Instr} {i : Instr} (hf : findRow (w / 2 % 32) cRows = some f) (hi : f w = some i)
    (h : i.wf = true) : decode16 w = some i := by
  rw [decode16, hf, Option.bind_some, hi, Option.filter_some, if_pos h]

theorem decode32_rRows {w : Nat} (h : w / 4 % 4 = 0) :
    decode32 w = ((findRow (w / 16 % 512) rRows).bind fun f => f w).filter Instr.wf := by simp only [decode32, h]

theorem decode32_iRows {w : Nat} (h : w / 4 % 4 = 1) :
    decode32 w = ((findRow (w / 16 % 32) iRows).bind fun f => f w).filter Instr.wf := by simp only [decode32, h]

theorem decode32_mRows {w : Nat} (h : w / 4 % 4 = 2) :
    decode32 w = ((findRow (w / 16 % 16) mRows).bind fun f => f w).filter Instr.wf := by simp only [decode32, h]

theorem decode32_jRows {w : Nat} (h : w / 4 % 4 = 3) :
    decode32 w = ((findRow (w / 16 % 8) jRows).bind fun f => f w).filter Instr.wf := by simp only [decode32, h]

/-! ### The R format (04 R95) -/

/-- A word of format R decodes to what its opcode's row reads from it, if that is well formed. -/
theorem decode_rRow {w op : Nat} {f : Nat → Option Instr} {i : Instr} (hw : w < 2 ^ 32 ∧ w % 2 = 1 ∧ w / 4 % 4 = 0 ∧ w / 16 % 512 = op)
    (hf : findRow op rRows = some f) (hi : f w = some i) (h : i.wf = true) : decode (natBytes 4 w) = .ok (i, []) := by
  obtain ⟨hlt, hodd, hfmt, hop⟩ := hw
  exact decode_of_decode32 hlt hodd (decode32_eq (decode32_rRows hfmt) (hop ▸ hf) hi h)

/-- The word of format R whose opcode and format bits are `c`, with the type or width code `t` in the opcode's low bits. -/
def rWord (c : Nat) (b a : BitVec 6) (n : Bool) (d : BitVec 6) (t : Nat) (u : Bool) : Nat :=
  c + 67108864 * b.toNat + 1048576 * a.toNat + 524288 * n.toNat + 8192 * d.toNat + 16 * t + 2 * u.toNat

section RWord
variable {c : Nat} {b a d : BitVec 6} {n u : Bool} {t : Nat}

theorem decode_rWord (c : Nat) (b a : BitVec 6) (n : Bool) (d : BitVec 6) (t : Nat) (u : Bool) {w : Nat}
    {f : Nat → Option Instr} {i : Instr} (hw : w = rWord c b a n d t u) (hc : c % 16 = 1 ∧ c + 16 * t < 8192)
    (hf : findRow (c / 16 + t) rRows = some f) (hi : f (rWord c b a n d t u) = some i) (h : i.wf = true) :
    decode (natBytes 4 w) = .ok (i, []) := by
  have hn := n.toNat_lt
  have hu := u.toNat_lt
  obtain ⟨hfmt, hlt⟩ := hc
  rw [← hw] at hi
  rw [rWord] at hw
  exact decode_rRow (by omega) hf hi h

/-- What the decoder reads from an R word: its fields, and which of them are zero. -/
theorem rWord_reads (hc : c % 16 = 1 ∧ c + 16 * t < 8192) :
    (fld (rWord c b a n d t u) 26 6 = b ∧ fld (rWord c b a n d t u) 20 6 = a ∧ bit (rWord c b a n d t u) 19 = n ∧
      fld (rWord c b a n d t u) 13 6 = d ∧ bit (rWord c b a n d t u) 1 = u) ∧
    (zero (rWord c b a n d t u) 1 1 = true ↔ u = false) ∧ (zero (rWord c b a n d t u) 19 1 = true ↔ n = false) ∧
    (zero (rWord c b a n d t u) 26 6 = true ↔ b = 0) ∧ (zero (rWord c b a n d t u) 13 7 = true ↔ d = 0 ∧ n = false) ∧
    (zero (rWord c b a n d t u) 19 7 = true ↔ n = false ∧ a = 0) ∧
    (zero (rWord c b a n d t u) 19 13 = true ↔ n = false ∧ a = 0 ∧ b = 0) ∧
    (zero (rWord c b a n d t u) 13 19 = true ↔ d = 0 ∧ n = false ∧ a = 0 ∧ b = 0) := by
  have hn := n.toNat_lt
  have hu := u.toNat_lt
  have h0 : (0 : BitVec 6).toNat = 0 := rfl
  obtain ⟨hfmt, hlt⟩ := hc
  simp only [toNat_fld, bit_eq_iff, zero_eq_true_iff, ← Bool.toNat_eq_zero, ← BitVec.toNat_inj, h0, rWord]
  omega

end RWord

section RForms
variable {c : Nat} {b a d : BitVec 6} {n u : Bool} {t : BitVec 2} {x : Bool}

/-! An opcode of four, with the type code in its low bits, or of two, with the width bit. -/

theorem rOp_type (hc : c % 64 = 1 ∧ c < 8192) (t : BitVec 2) : c % 16 = 1 ∧ c + 16 * t.toNat < 8192 := by omega

theorem rOp_bit (hc : c % 32 = 1 ∧ c < 8192) (x : Bool) : c % 16 = 1 ∧ c + 16 * x.toNat < 8192 := by
  have hx := x.toNat_lt
  omega

theorem fld_rWord_type (hc : c % 64 = 1 ∧ c < 8192) (t : BitVec 2) : fld (rWord c b a n d t.toNat u) 4 2 = t := by
  have hn := n.toNat_lt
  have hu := u.toNat_lt
  rw [fld_eq_iff, rWord]
  omega

theorem bit_rWord_width (hc : c % 32 = 1 ∧ c < 8192) (x : Bool) : bit (rWord c b a n d x.toNat u) 4 = x := by
  have hn := n.toNat_lt
  have hu := u.toNat_lt
  have hx := x.toNat_lt
  rw [bit_eq_iff, rWord]
  omega

theorem decode_r_bandu {mk : BitVec 6 → BitVec 6 → Bool → BitVec 6 → Bool → Instr} (hc : c % 16 = 1 ∧ c < 8192)
    (hf : findRow (c / 16) rRows = some fun w => chk true (mk (fld w 26 6) (fld w 20 6) (bit w 19) (fld w 13 6) (bit w 1)))
    (h : (mk b a n d u).wf = true) :
    decode (natBytes 4 (c + 67108864 * b.toNat + 1048576 * a.toNat + 524288 * n.toNat + 8192 * d.toNat + 2 * u.toNat)) =
      .ok (mk b a n d u, []) :=
  decode_rWord c b a n d 0 u (by simp [rWord]) hc hf (by simp [chk, rWord_reads (t := 0) hc]) h

theorem decode_r_badu {mk : BitVec 6 → BitVec 6 → BitVec 6 → Bool → Instr} (hc : c % 16 = 1 ∧ c < 8192)
    (hf : findRow (c / 16) rRows = some fun w => chk (zero w 19 1) (mk (fld w 26 6) (fld w 20 6) (fld w 13 6) (bit w 1)))
    (h : (mk b a d u).wf = true) :
    decode (natBytes 4 (c + 67108864 * b.toNat + 1048576 * a.toNat + 8192 * d.toNat + 2 * u.toNat)) = .ok (mk b a d u, []) :=
  decode_rWord c b a false d 0 u (by simp [rWord]) hc hf (by simp [chk, rWord_reads (t := 0) hc]) h

theorem decode_r_andu {mk : BitVec 6 → Bool → BitVec 6 → Bool → Instr} (hc : c % 16 = 1 ∧ c < 8192)
    (hf : findRow (c / 16) rRows = some fun w => chk (zero w 26 6) (mk (fld w 20 6) (bit w 19) (fld w 13 6) (bit w 1)))
    (h : (mk a n d u).wf = true) :
    decode (natBytes 4 (c + 1048576 * a.toNat + 524288 * n.toNat + 8192 * d.toNat + 2 * u.toNat)) = .ok (mk a n d u, []) :=
  decode_rWord c 0 a n d 0 u (by simp [rWord]) hc hf (by simp [chk, rWord_reads (t := 0) hc]) h

theorem decode_r_au {mk : BitVec 6 → Bool → Instr} (hc : c % 16 = 1 ∧ c < 8192)
    (hf : findRow (c / 16) rRows = some fun w => chk (zero w 13 7 && zero w 26 6) (mk (fld w 20 6) (bit w 1)))
    (h : (mk a u).wf = true) :
    decode (natBytes 4 (c + 1048576 * a.toNat + 2 * u.toNat)) = .ok (mk a u, []) :=
  decode_rWord c 0 a false 0 0 u (by simp [rWord]) hc hf (by simp [chk, rWord_reads (t := 0) hc]) h

theorem decode_r_adu {mk : BitVec 6 → BitVec 6 → Bool → Instr} (hc : c % 16 = 1 ∧ c < 8192)
    (hf : findRow (c / 16) rRows = some fun w => chk (zero w 19 1 && zero w 26 6) (mk (fld w 20 6) (fld w 13 6) (bit w 1)))
    (h : (mk a d u).wf = true) :
    decode (natBytes 4 (c + 1048576 * a.toNat + 8192 * d.toNat + 2 * u.toNat)) = .ok (mk a d u, []) :=
  decode_rWord c 0 a false d 0 u (by simp [rWord]) hc hf (by simp [chk, rWord_reads (t := 0) hc]) h

theorem decode_r_ad {mk : BitVec 6 → BitVec 6 → Instr} (hc : c % 16 = 1 ∧ c < 8192)
    (hf : findRow (c / 16) rRows = some fun w => chk (zero w 1 1 && zero w 19 1 && zero w 26 6) (mk (fld w 20 6) (fld w 13 6)))
    (h : (mk a d).wf = true) :
    decode (natBytes 4 (c + 1048576 * a.toNat + 8192 * d.toNat)) = .ok (mk a d, []) :=
  decode_rWord c 0 a false d 0 false (by simp [rWord]) hc hf (by simp [chk, rWord_reads (t := 0) hc]) h

theorem decode_r_bandtu {mk : BitVec 6 → BitVec 6 → Bool → BitVec 6 → BitVec 2 → Bool → Instr} (hc : c % 64 = 1 ∧ c < 8192)
    (hf : ∀ t : BitVec 2, findRow (c / 16 + t.toNat) rRows =
      some fun w => chk true (mk (fld w 26 6) (fld w 20 6) (bit w 19) (fld w 13 6) (fld w 4 2) (bit w 1)))
    (h : (mk b a n d t u).wf = true) :
    decode (natBytes 4 (c + 67108864 * b.toNat + 1048576 * a.toNat + 524288 * n.toNat + 8192 * d.toNat + 16 * t.toNat + 2 * u.toNat)) =
      .ok (mk b a n d t u, []) :=
  have hc' := rOp_type hc t
  decode_rWord c b a n d t.toNat u (by simp [rWord]) hc' (hf t) (by simp [chk, rWord_reads (t := t.toNat) hc', fld_rWord_type hc]) h

theorem decode_r_badtu {mk : BitVec 6 → BitVec 6 → BitVec 6 → BitVec 2 → Bool → Instr} (hc : c % 64 = 1 ∧ c < 8192)
    (hf : ∀ t : BitVec 2, findRow (c / 16 + t.toNat) rRows =
      some fun w => chk (zero w 19 1) (mk (fld w 26 6) (fld w 20 6) (fld w 13 6) (fld w 4 2) (bit w 1)))
    (h : (mk b a d t u).wf = true) :
    decode (natBytes 4 (c + 67108864 * b.toNat + 1048576 * a.toNat + 8192 * d.toNat + 16 * t.toNat + 2 * u.toNat)) =
      .ok (mk b a d t u, []) :=
  have hc' := rOp_type hc t
  decode_rWord c b a false d t.toNat u (by simp [rWord]) hc' (hf t) (by simp [chk, rWord_reads (t := t.toNat) hc', fld_rWord_type hc]) h

theorem decode_r_adtu {mk : BitVec 6 → BitVec 6 → BitVec 2 → Bool → Instr} (hc : c % 64 = 1 ∧ c < 8192)
    (hf : ∀ t : BitVec 2, findRow (c / 16 + t.toNat) rRows =
      some fun w => chk (zero w 19 1 && zero w 26 6) (mk (fld w 20 6) (fld w 13 6) (fld w 4 2) (bit w 1)))
    (h : (mk a d t u).wf = true) :
    decode (natBytes 4 (c + 1048576 * a.toNat + 8192 * d.toNat + 16 * t.toNat + 2 * u.toNat)) = .ok (mk a d t u, []) :=
  have hc' := rOp_type hc t
  decode_rWord c 0 a false d t.toNat u (by simp [rWord]) hc' (hf t) (by simp [chk, rWord_reads (t := t.toNat) hc', fld_rWord_type hc]) h

theorem decode_r_andtu {mk : BitVec 6 → Bool → BitVec 6 → BitVec 2 → Bool → Instr} (hc : c % 64 = 1 ∧ c < 8192)
    (hf : ∀ t : BitVec 2, findRow (c / 16 + t.toNat) rRows =
      some fun w => chk (zero w 26 6) (mk (fld w 20 6) (bit w 19) (fld w 13 6) (fld w 4 2) (bit w 1)))
    (h : (mk a n d t u).wf = true) :
    decode (natBytes 4 (c + 1048576 * a.toNat + 524288 * n.toNat + 8192 * d.toNat + 16 * t.toNat + 2 * u.toNat)) =
      .ok (mk a n d t u, []) :=
  have hc' := rOp_type hc t
  decode_rWord c 0 a n d t.toNat u (by simp [rWord]) hc' (hf t) (by simp [chk, rWord_reads (t := t.toNat) hc', fld_rWord_type hc]) h

theorem decode_r_a {mk : BitVec 6 → Instr} (hc : c % 16 = 1 ∧ c < 8192)
    (hf : findRow (c / 16) rRows = some fun w => chk (zero w 1 1 && zero w 13 7 && zero w 26 6) (mk (fld w 20 6)))
    (h : (mk a).wf = true) :
    decode (natBytes 4 (c + 1048576 * a.toNat)) = .ok (mk a, []) :=
  decode_rWord c 0 a false 0 0 false (by simp [rWord]) hc hf (by simp [chk, rWord_reads (t := 0) hc]) h

theorem decode_r_du {mk : BitVec 6 → Bool → Instr} (hc : c % 16 = 1 ∧ c < 8192)
    (hf : findRow (c / 16) rRows = some fun w => chk (zero w 19 13) (mk (fld w 13 6) (bit w 1)))
    (h : (mk d u).wf = true) :
    decode (natBytes 4 (c + 8192 * d.toNat + 2 * u.toNat)) = .ok (mk d u, []) :=
  decode_rWord c 0 0 false d 0 u (by simp [rWord]) hc hf (by simp [chk, rWord_reads (t := 0) hc]) h

theorem decode_r_d {mk : BitVec 6 → Instr} (hc : c % 16 = 1 ∧ c < 8192)
    (hf : findRow (c / 16) rRows = some fun w => chk (zero w 1 1 && zero w 19 13) (mk (fld w 13 6)))
    (h : (mk d).wf = true) :
    decode (natBytes 4 (c + 8192 * d.toNat)) = .ok (mk d, []) :=
  decode_rWord c 0 0 false d 0 false (by simp [rWord]) hc hf (by simp [chk, rWord_reads (t := 0) hc]) h

theorem decode_r_bad {mk : BitVec 6 → BitVec 6 → BitVec 6 → Instr} (hc : c % 16 = 1 ∧ c < 8192)
    (hf : findRow (c / 16) rRows = some fun w => chk (zero w 1 1 && zero w 19 1) (mk (fld w 26 6) (fld w 20 6) (fld w 13 6)))
    (h : (mk b a d).wf = true) :
    decode (natBytes 4 (c + 67108864 * b.toNat + 1048576 * a.toNat + 8192 * d.toNat)) = .ok (mk b a d, []) :=
  decode_rWord c b a false d 0 false (by simp [rWord]) hc hf (by simp [chk, rWord_reads (t := 0) hc]) h

theorem decode_r_none {i : Instr} (hc : c % 16 = 1 ∧ c < 8192)
    (hf : findRow (c / 16) rRows = some fun w => chk (zero w 1 1 && zero w 13 19) i) (h : i.wf = true) :
    decode (natBytes 4 c) = .ok (i, []) :=
  decode_rWord c 0 0 false 0 0 false (by simp [rWord]) hc hf (by simp [chk, rWord_reads (t := 0) hc]) h

theorem decode_r_ba {mk : BitVec 6 → BitVec 6 → Instr} (hc : c % 16 = 1 ∧ c < 8192)
    (hf : findRow (c / 16) rRows = some fun w => chk (zero w 1 1 && zero w 13 7) (mk (fld w 26 6) (fld w 20 6)))
    (h : (mk b a).wf = true) :
    decode (natBytes 4 (c + 67108864 * b.toNat + 1048576 * a.toNat)) = .ok (mk b a, []) :=
  decode_rWord c b a false 0 0 false (by simp [rWord]) hc hf (by simp [chk, rWord_reads (t := 0) hc]) h

theorem decode_r_bau {mk : BitVec 6 → BitVec 6 → Bool → Instr} (hc : c % 16 = 1 ∧ c < 8192)
    (hf : findRow (c / 16) rRows = some fun w => chk (zero w 13 7) (mk (fld w 26 6) (fld w 20 6) (bit w 1)))
    (h : (mk b a u).wf = true) :
    decode (natBytes 4 (c + 67108864 * b.toNat + 1048576 * a.toNat + 2 * u.toNat)) = .ok (mk b a u, []) :=
  decode_rWord c b a false 0 0 u (by simp [rWord]) hc hf (by simp [chk, rWord_reads (t := 0) hc]) h

theorem decode_r_badxu {mk : BitVec 6 → BitVec 6 → BitVec 6 → Bool → Bool → Instr} (hc : c % 32 = 1 ∧ c < 8192)
    (hf : ∀ x : Bool, findRow (c / 16 + x.toNat) rRows =
      some fun w => chk (zero w 19 1) (mk (fld w 26 6) (fld w 20 6) (fld w 13 6) (bit w 4) (bit w 1)))
    (h : (mk b a d x u).wf = true) :
    decode (natBytes 4 (c + 67108864 * b.toNat + 1048576 * a.toNat + 8192 * d.toNat + 16 * x.toNat + 2 * u.toNat)) =
      .ok (mk b a d x u, []) :=
  have hc' := rOp_bit hc x
  decode_rWord c b a false d x.toNat u (by simp [rWord]) hc' (hf x) (by simp [chk, rWord_reads (t := x.toNat) hc', bit_rWord_width hc]) h

theorem decode_r_bd {mk : BitVec 6 → BitVec 6 → Instr} (hc : c % 16 = 1 ∧ c < 8192)
    (hf : findRow (c / 16) rRows = some fun w => chk (zero w 1 1 && zero w 19 7) (mk (fld w 26 6) (fld w 13 6)))
    (h : (mk b d).wf = true) :
    decode (natBytes 4 (c + 67108864 * b.toNat + 8192 * d.toNat)) = .ok (mk b d, []) :=
  decode_rWord c b 0 false d 0 false (by simp [rWord]) hc hf (by simp [chk, rWord_reads (t := 0) hc]) h

end RForms

/-! ### The R forms that read parts of the field b or a (04 R95) -/

section Parts
variable {w : Nat} {a d : BitVec 6} {n u : Bool} {t : BitVec 2}

theorem decode_fcvtFf {sc : BitVec 2} (h : (Instr.fcvtFf sc a n d t u).wf = true)
    (hw : w = 3393 + 67108864 * sc.toNat + 1048576 * a.toNat + 524288 * n.toNat + 8192 * d.toNat + 16 * t.toNat + 2 * u.toNat) :
    decode (natBytes 4 w) = .ok (.fcvtFf sc a n d t u, []) := by
  have hn := n.toNat_lt
  have hu := u.toNat_lt
  have hr : zero w 28 4 = true ∧ fld w 26 2 = sc ∧ fld w 20 6 = a ∧ bit w 19 = n ∧ fld w 13 6 = d ∧ fld w 4 2 = t ∧ bit w 1 = u := by
    simp only [fld_eq_iff, bit_eq_iff, zero_eq_true_iff]
    omega
  exact decode_rRow (op := 0xD4 + t.toNat) (by omega) (findRow_of_type rfl rfl rfl rfl t) (by simp only [rowFcvtFf, chk, hr, if_true]) h

theorem decode_fcvtFi {rr imm : BitVec 3} (h : (Instr.fcvtFi rr imm a n d t u).wf = true)
    (hw : w = 3457 + 536870912 * rr.toNat + 67108864 * imm.toNat + 1048576 * a.toNat + 524288 * n.toNat + 8192 * d.toNat + 16 * t.toNat +
      2 * u.toNat) :
    decode (natBytes 4 w) = .ok (.fcvtFi rr imm a n d t u, []) := by
  have hn := n.toNat_lt
  have hu := u.toNat_lt
  have hr : fld w 29 3 = rr ∧ fld w 26 3 = imm ∧ fld w 20 6 = a ∧ bit w 19 = n ∧ fld w 13 6 = d ∧ fld w 4 2 = t ∧ bit w 1 = u := by
    simp only [fld_eq_iff, bit_eq_iff]
    omega
  exact decode_rRow (op := 0xD8 + t.toNat) (by omega) (findRow_of_type rfl rfl rfl rfl t) (by simp only [rowFcvtFi, chk, hr, if_true]) h

theorem decode_fcvtIf {imm : BitVec 3} (h : (Instr.fcvtIf imm a n d t u).wf = true)
    (hw : w = 3521 + 67108864 * imm.toNat + 1048576 * a.toNat + 524288 * n.toNat + 8192 * d.toNat + 16 * t.toNat + 2 * u.toNat) :
    decode (natBytes 4 w) = .ok (.fcvtIf imm a n d t u, []) := by
  have hn := n.toNat_lt
  have hu := u.toNat_lt
  have hr : zero w 29 3 = true ∧ fld w 26 3 = imm ∧ fld w 20 6 = a ∧ bit w 19 = n ∧ fld w 13 6 = d ∧ fld w 4 2 = t ∧ bit w 1 = u := by
    simp only [fld_eq_iff, bit_eq_iff, zero_eq_true_iff]
    omega
  exact decode_rRow (op := 0xDC + t.toNat) (by omega) (findRow_of_type rfl rfl rfl rfl t) (by simp only [rowFcvtIf, chk, hr, if_true]) h

set_option maxRecDepth 4000 in
theorem decode_ringArrive {rr : BitVec 2} {sc : BitVec 3} (hw : w = 5201 + 8388608 * rr.toNat + 1048576 * sc.toNat) :
    decode (natBytes 4 w) = .ok (.ringArrive rr sc, []) := by
  have hr : zero w 1 1 = true ∧ zero w 13 7 = true ∧ zero w 25 7 = true ∧ fld w 23 2 = rr ∧ fld w 20 3 = sc := by
    simp only [fld_eq_iff, zero_eq_true_iff]
    omega
  exact decode_rRow (op := 0x145) (by omega) rfl (by simp only [rowRingArrive, chk, hr, Bool.and_self, if_true]) rfl

set_option maxRecDepth 4000 in
theorem decode_ringWait {p : Bool} {rr : BitVec 2} {sc : BitVec 3}
    (hw : w = 5217 + 33554432 * p.toNat + 8388608 * rr.toNat + 1048576 * sc.toNat) :
    decode (natBytes 4 w) = .ok (.ringWait p rr sc, []) := by
  have hp := p.toNat_lt
  have hr : zero w 1 1 = true ∧ zero w 13 7 = true ∧ zero w 26 6 = true ∧ bit w 25 = p ∧ fld w 23 2 = rr ∧ fld w 20 3 = sc := by
    simp only [fld_eq_iff, bit_eq_iff, zero_eq_true_iff]
    omega
  exact decode_rRow (op := 0x146) (by omega) rfl (by simp only [rowRingWait, chk, hr, Bool.and_self, if_true]) rfl

/-! `m.mov`: one opcode, whose field b tells its four forms (09 R196). -/

set_option maxRecDepth 4000 in
theorem decode_mMov {b : BitVec 6} {i : Instr} (hw : w = 4417 + 67108864 * b.toNat + 1048576 * a.toNat + 8192 * d.toNat)
    (hi : (if b = 0 then some (.mMov a d) else if b = 1 then some (.mMovFromK a d) else if b = 2 then some (.mMovToK a d)
      else if b = 3 ∧ a = 0 then some (.mMovActive d) else none) = some i) (h : i.wf = true) :
    decode (natBytes 4 w) = .ok (i, []) := by
  have hr : zero w 1 1 = true ∧ zero w 19 1 = true ∧ fld w 26 6 = b ∧ fld w 20 6 = a ∧ fld w 13 6 = d := by
    simp only [fld_eq_iff, zero_eq_true_iff]
    omega
  have hz : zero w 26 6 = true ↔ b = 0 := by simp only [zero_eq_true_iff_fld, hr]
  have h13 : fld w 19 13 = 384 ↔ b = 3 ∧ a = 0 := by
    rw [fld_eq_iff, ← BitVec.toNat_inj, ← BitVec.toNat_inj]
    change w / 2 ^ 19 % 2 ^ 13 = 384 ↔ b.toNat = 3 ∧ a.toNat = 0
    omega
  refine decode_rRow (op := 0x114) (by omega) rfl ?_ h
  rw [← hi]
  simp only [rowMMov, chk, hr, hz, h13, Bool.and_eq_true, beq_iff_eq, true_and]
  split_ifs <;> rfl

end Parts

/-! ### The I format (04 R98) -/

/-- The word of format I whose opcode and format bits are `c`. -/
def iWord (c : Nat) (imm : BitVec 10) (a : BitVec 6) (n : Bool) (d : BitVec 6) (u : Bool) : Nat :=
  c + 4194304 * imm.toNat + 65536 * a.toNat + 32768 * n.toNat + 512 * d.toNat + 2 * u.toNat

section IForms
variable {c : Nat} {imm : BitVec 10} {a d : BitVec 6} {n u : Bool}

/-- An I word decodes to what its opcode's row reads from it, if that is well formed. -/
theorem decode_iWord (c : Nat) (imm : BitVec 10) (a : BitVec 6) (n : Bool) (d : BitVec 6) (u : Bool) {w : Nat}
    {f : Nat → Option Instr} {i : Instr} (hw : w = iWord c imm a n d u) (hc : c % 16 = 5 ∧ c < 512)
    (hf : findRow (c / 16) iRows = some f) (hi : f (iWord c imm a n d u) = some i) (h : i.wf = true) :
    decode (natBytes 4 w) = .ok (i, []) := by
  have hn := n.toNat_lt
  have hu := u.toNat_lt
  obtain ⟨hfmt, hlt⟩ := hc
  have hop : w / 16 % 32 = c / 16 := by rw [hw, iWord]; omega
  rw [← hw] at hi
  rw [iWord] at hw
  exact decode_of_decode32 (by omega) (by omega) (decode32_eq (decode32_iRows (by omega)) (hop ▸ hf) hi h)

/-- What the decoder reads from an I word: its fields, and which of them are zero. -/
theorem iWord_reads (hc : c % 16 = 5 ∧ c < 512) :
    (fld (iWord c imm a n d u) 22 10 = imm ∧ fld (iWord c imm a n d u) 16 6 = a ∧ bit (iWord c imm a n d u) 15 = n ∧
      fld (iWord c imm a n d u) 9 6 = d ∧ bit (iWord c imm a n d u) 1 = u) ∧
    (zero (iWord c imm a n d u) 1 1 = true ↔ u = false) ∧ (zero (iWord c imm a n d u) 15 1 = true ↔ n = false) ∧
    (zero (iWord c imm a n d u) 16 6 = true ↔ a = 0) ∧ (zero (iWord c imm a n d u) 9 13 = true ↔ d = 0 ∧ n = false ∧ a = 0) := by
  have hn := n.toNat_lt
  have hu := u.toNat_lt
  have h0 : (0 : BitVec 6).toNat = 0 := rfl
  obtain ⟨hfmt, hlt⟩ := hc
  simp only [toNat_fld, bit_eq_iff, zero_eq_true_iff, ← Bool.toNat_eq_zero, ← BitVec.toNat_inj, h0, iWord]
  omega

theorem decode_i_immandu {mk : BitVec 10 → BitVec 6 → Bool → BitVec 6 → Bool → Instr} (hc : c % 16 = 5 ∧ c < 512)
    (hf : findRow (c / 16) iRows = some fun w => chk true (mk (fld w 22 10) (fld w 16 6) (bit w 15) (fld w 9 6) (bit w 1)))
    (h : (mk imm a n d u).wf = true) :
    decode (natBytes 4 (c + 4194304 * imm.toNat + 65536 * a.toNat + 32768 * n.toNat + 512 * d.toNat + 2 * u.toNat)) =
      .ok (mk imm a n d u, []) :=
  decode_iWord c imm a n d u (by simp [iWord]) hc hf (by simp [chk, iWord_reads hc]) h

theorem decode_i_immadu {mk : BitVec 10 → BitVec 6 → BitVec 6 → Bool → Instr} (hc : c % 16 = 5 ∧ c < 512)
    (hf : findRow (c / 16) iRows = some fun w => chk (zero w 15 1) (mk (fld w 22 10) (fld w 16 6) (fld w 9 6) (bit w 1)))
    (h : (mk imm a d u).wf = true) :
    decode (natBytes 4 (c + 4194304 * imm.toNat + 65536 * a.toNat + 512 * d.toNat + 2 * u.toNat)) = .ok (mk imm a d u, []) :=
  decode_iWord c imm a false d u (by simp [iWord]) hc hf (by simp [chk, iWord_reads hc]) h

theorem decode_i_immndu {mk : BitVec 10 → Bool → BitVec 6 → Bool → Instr} (hc : c % 16 = 5 ∧ c < 512)
    (hf : findRow (c / 16) iRows = some fun w => chk (zero w 16 6) (mk (fld w 22 10) (bit w 15) (fld w 9 6) (bit w 1)))
    (h : (mk imm n d u).wf = true) :
    decode (natBytes 4 (c + 4194304 * imm.toNat + 32768 * n.toNat + 512 * d.toNat + 2 * u.toNat)) = .ok (mk imm n d u, []) :=
  decode_iWord c imm 0 n d u (by simp [iWord]) hc hf (by simp [chk, iWord_reads hc]) h

theorem decode_i_imm {mk : BitVec 10 → Instr} (hc : c % 16 = 5 ∧ c < 512)
    (hf : findRow (c / 16) iRows = some fun w => chk (zero w 1 1 && zero w 9 13) (mk (fld w 22 10))) (h : (mk imm).wf = true) :
    decode (natBytes 4 (c + 4194304 * imm.toNat)) = .ok (mk imm, []) :=
  decode_iWord c imm 0 false 0 false (by simp [iWord]) hc hf (by simp [chk, iWord_reads hc]) h

theorem decode_i_scandu {sc : BitVec 6} {mk : BitVec 6 → BitVec 6 → Bool → BitVec 6 → Bool → Instr} (hc : c % 16 = 5 ∧ c < 512)
    (hf : findRow (c / 16) iRows = some fun w => chk (zero w 28 4) (mk (fld w 22 6) (fld w 16 6) (bit w 15) (fld w 9 6) (bit w 1)))
    (h : (mk sc a n d u).wf = true) :
    decode (natBytes 4 (c + 4194304 * sc.toNat + 65536 * a.toNat + 32768 * n.toNat + 512 * d.toNat + 2 * u.toNat)) =
      .ok (mk sc a n d u, []) := by
  have hn := n.toNat_lt
  have hu := u.toNat_lt
  have hr : fld (iWord c (sc.setWidth 10) a n d u) 22 6 = sc ∧ zero (iWord c (sc.setWidth 10) a n d u) 28 4 = true := by
    simp only [fld_eq_iff, zero_eq_true_iff, iWord, BitVec.toNat_setWidth]
    omega
  exact decode_iWord c (sc.setWidth 10) a n d u (by rw [iWord, BitVec.toNat_setWidth]; omega) hc hf (by simp [chk, iWord_reads hc, hr]) h

theorem decode_i_immsc {im : BitVec 4} {sc : BitVec 3} {mk : BitVec 4 → BitVec 3 → Instr} (hc : c % 16 = 5 ∧ c < 512)
    (hf : findRow (c / 16) iRows = some fun w => chk (zero w 1 1 && zero w 9 13 && zero w 29 3) (mk (fld w 25 4) (fld w 22 3)))
    (h : (mk im sc).wf = true) : decode (natBytes 4 (c + 33554432 * im.toNat + 4194304 * sc.toNat)) = .ok (mk im sc, []) := by
  generalize hw : c + 33554432 * im.toNat + 4194304 * sc.toNat = w
  have hop : w / 16 % 32 = c / 16 := by omega
  have hr : zero w 1 1 = true ∧ zero w 9 13 = true ∧ zero w 29 3 = true ∧ fld w 25 4 = im ∧ fld w 22 3 = sc := by
    simp only [fld_eq_iff, zero_eq_true_iff]
    omega
  exact decode_of_decode32 (by omega) (by omega) (decode32_eq (decode32_iRows (by omega)) (hop ▸ hf)
    (by simp only [chk, hr, Bool.and_self, if_true]) h)

end IForms

/-! ### The M and J formats (04 R99, R100) -/

section MForms
variable {c : Nat} {d : BitVec 6} {u : Bool}

theorem decode_m_immpadu {imm : BitVec 11} {p : Bool} {a : BitVec 6} {mk : BitVec 11 → Bool → BitVec 6 → BitVec 6 → Bool → Instr}
    (hc : c % 16 = 9 ∧ c < 256)
    (hf : findRow (c / 16) mRows = some fun w => chk true (mk (fld w 21 11) (bit w 20) (fld w 14 6) (fld w 8 6) (bit w 1)))
    (h : (mk imm p a d u).wf = true) :
    decode (natBytes 4 (c + 2097152 * imm.toNat + 1048576 * p.toNat + 16384 * a.toNat + 256 * d.toNat + 2 * u.toNat)) =
      .ok (mk imm p a d u, []) := by
  have hp := p.toNat_lt
  have hu := u.toNat_lt
  generalize hw : c + 2097152 * imm.toNat + 1048576 * p.toNat + 16384 * a.toNat + 256 * d.toNat + 2 * u.toNat = w
  have hop : w / 16 % 16 = c / 16 := by omega
  have hr : fld w 21 11 = imm ∧ bit w 20 = p ∧ fld w 14 6 = a ∧ fld w 8 6 = d ∧ bit w 1 = u := by
    simp only [fld_eq_iff, bit_eq_iff]
    omega
  exact decode_of_decode32 (by omega) (by omega) (decode32_eq (decode32_mRows (by omega)) (hop ▸ hf) (by simp only [chk, hr, if_true]) h)

theorem decode_j_imm {imm : BitVec 25} {mk : BitVec 25 → Instr} (hc : c % 16 = 13 ∧ c < 128)
    (hf : findRow (c / 16) jRows = some fun w => chk (zero w 1 1) (mk (fld w 7 25))) (h : (mk imm).wf = true) :
    decode (natBytes 4 (c + 128 * imm.toNat)) = .ok (mk imm, []) := by
  generalize hw : c + 128 * imm.toNat = w
  have hop : w / 16 % 8 = c / 16 := by omega
  have hr : zero w 1 1 = true ∧ fld w 7 25 = imm := by
    simp only [fld_eq_iff, zero_eq_true_iff]
    omega
  exact decode_of_decode32 (by omega) (by omega) (decode32_eq (decode32_jRows (by omega)) (hop ▸ hf) (by simp only [chk, hr, if_true]) h)

theorem decode_j_immxi {imm : BitVec 22} {xi : BitVec 3} {mk : BitVec 22 → BitVec 3 → Instr} (hc : c % 16 = 13 ∧ c < 128)
    (hf : findRow (c / 16) jRows = some fun w => chk (zero w 1 1) (mk (fld w 10 22) (fld w 7 3))) (h : (mk imm xi).wf = true) :
    decode (natBytes 4 (c + 1024 * imm.toNat + 128 * xi.toNat)) = .ok (mk imm xi, []) := by
  generalize hw : c + 1024 * imm.toNat + 128 * xi.toNat = w
  have hop : w / 16 % 8 = c / 16 := by omega
  have hr : zero w 1 1 = true ∧ fld w 10 22 = imm ∧ fld w 7 3 = xi := by
    simp only [fld_eq_iff, zero_eq_true_iff]
    omega
  exact decode_of_decode32 (by omega) (by omega) (decode32_eq (decode32_jRows (by omega)) (hop ▸ hf) (by simp only [chk, hr, if_true]) h)

end MForms

/-! ### The compact forms (04 R101) -/

section CForms
variable {c : Nat} {q p : BitVec 5}

theorem decode_cWord {w : Nat} {f : Nat → Option Instr} {i : Instr} (hw : c + 2048 * q.toNat + 64 * p.toNat = w)
    (hc : c % 2 = 0 ∧ c < 64) (hf : findRow (c / 2) cRows = some f) (hi : f w = some i) (h : i.wf = true) :
    decode (natBytes 2 w) = .ok (i, []) := by
  have hop : w / 2 % 32 = c / 2 := by omega
  exact decode_of_decode16 (by omega) (by omega) (decode16_eq (hop ▸ hf) hi h)

theorem decode_c_qp {mk : BitVec 5 → BitVec 5 → Instr} (hc : c % 2 = 0 ∧ c < 64)
    (hf : findRow (c / 2) cRows = some fun w => chk true (mk (fld w 11 5) (fld w 6 5))) (h : (mk q p).wf = true) :
    decode (natBytes 2 (c + 2048 * q.toNat + 64 * p.toNat)) = .ok (mk q p, []) := by
  generalize hw : c + 2048 * q.toNat + 64 * p.toNat = w
  have hr : fld w 11 5 = q ∧ fld w 6 5 = p := by
    simp only [fld_eq_iff]
    omega
  exact decode_cWord hw hc hf (by simp only [chk, hr, if_true]) h

theorem decode_c_p {mk : BitVec 5 → Instr} (hc : c % 2 = 0 ∧ c < 64)
    (hf : findRow (c / 2) cRows = some fun w => chk (zero w 11 5) (mk (fld w 6 5))) (h : (mk p).wf = true) :
    decode (natBytes 2 (c + 64 * p.toNat)) = .ok (mk p, []) := by
  generalize hw : c + 64 * p.toNat = w
  have hr : zero w 11 5 = true ∧ fld w 6 5 = p := by
    simp only [fld_eq_iff, zero_eq_true_iff]
    omega
  exact decode_cWord (q := 0) (p := p) hw hc hf (by simp only [chk, hr, if_true]) h

theorem decode_c {i : Instr} (hc : c % 2 = 0 ∧ c < 64) (hf : findRow (c / 2) cRows = some fun w => chk (zero w 6 10) i)
    (h : i.wf = true) : decode (natBytes 2 c) = .ok (i, []) := by
  have hz : zero c 6 10 = true := by
    rw [zero_eq_true_iff]
    omega
  exact decode_cWord (q := 0) (p := 0) rfl hc hf (by simp only [chk, hz, if_true]) h

end CForms

set_option maxRecDepth 4000 in
/-- The split is by form: the instructions of one case have their fields in the same places of the word. -/
theorem decode_encode (i : Instr) (h : i.wf = true) (hl : i.len ≠ 0) : decode (encode i) = .ok (i, []) := by
  cases i
  case add | sub | mul | mulhI | mulhN | and | or | xor | andn | shl | shr | sar | rol | ror | minI | maxI | minN | maxN | seq | sne |
      sltI | sltN | sel | sext | zext | bfx | bfi | rng | cbound | cand | cwset | cset | cinc | cdiff | cwithin =>
    exact decode_r_bandu (by decide) rfl h
  case divI | divN | remI | remN | qmax | quant | dequant | salient | amoFaddF32 | amoFaddBf16 =>
    exact decode_r_badu (by decide) rfl h
  case clz | ctz | popc | mov | cbase | ctop | clen | cperm | cwalk | ctag | cclr | ccoord =>
    exact decode_r_andu (by decide) rfl h
  case jr | callr | ret | symWait | ccClean | ccInval | ccZero | pf => exact decode_r_au (by decide) rfl h
  case symTest | fexp2 | flog2 | qscale | ldFe | ldFf | ldSc | recv | poll => exact decode_r_adu (by decide) rfl h
  case xput | xget | laneAny | laneAll | laneBits | redAddI | redAddF32 | redMaxF32 | redMinF32 | scanAddI | mNot | sregRd | bankSumF32
      | agPos | spawn | rsPos | btCommit | migrate | crewPeek =>
    exact decode_r_ad (by decide) rfl h
  case fadd | fsub | fmul | fma | fms | fnma | fmin | fmax | fsgn | fceq | fclt | fcle | fcun =>
    exact decode_r_bandtu (by decide) (findRow_of_type rfl rfl rfl rfl) h
  case fdiv => exact decode_r_badtu (by decide) (findRow_of_type rfl rfl rfl rfl) h
  case fsqrt => exact decode_r_adtu (by decide) (findRow_of_type rfl rfl rfl rfl) h
  case fabs | fneg | fclass | fround => exact decode_r_andtu (by decide) (findRow_of_type rfl rfl rfl rfl) h
  case fmtSet | gret | gflush | semP | semV | fence | agUnbind | agDrain | mma | mmaPair | mmaPack | mmaWait | accZero | cpyWait |
      taskDec | taskCtr | rsDrop | crewKill =>
    exact decode_r_a (by decide) rfl h
  case fmtGet => exact decode_r_du (by decide) rfl h
  case laneId | evqRd | evqWait => exact decode_r_d (by decide) rfl h
  case laneGet | laneRise | laneFall | laneFlip | intersect | mAnd | mOr | barMax | wait | rsOpen | rsFork | btPrep | ptTrunc =>
    exact decode_r_bad (by decide) rfl h
  case join | regang | step | cpy | coll | engFence | rett | brk | halt => exact decode_r_none (by decide) rfl h
  case gcall | sregWr | bankAddF32 | bankAddBf16 | bankMaxF32 | bankAxpyF32 | agBind | accLd | accSt | accOut | mskLd | pfkLd | pfkArm |
      rsRd | rsWr | rsSnap | rsRoll | trap | srWr | crewPoke | crewResume | tlbInval =>
    exact decode_r_ba (by decide) rfl h
  case stEf | stFf | feSet | stSc | send | sendR => exact decode_r_bau (by decide) rfl h
  case amoAdd | amoMinI | amoMaxI | amoMinN | amoMaxN | amoAnd | amoOr | amoXor | amoSwap | amoCas =>
    exact decode_r_badxu (by decide) (findRow_of_bit rfl rfl) h
  case srRd => exact decode_r_bd (by decide) rfl h
  case fcvtFf => exact decode_fcvtFf h rfl
  case fcvtFi => exact decode_fcvtFi h rfl
  case fcvtIf => exact decode_fcvtIf h rfl
  case ringArrive => exact decode_ringArrive rfl
  case ringWait => exact decode_ringWait rfl
  case mMov => exact decode_mMov (b := 0) rfl rfl h
  case mMovFromK => exact decode_mMov (b := 1) rfl rfl h
  case mMovToK => exact decode_mMov (b := 2) rfl rfl h
  case mMovActive => exact decode_mMov (b := 3) (a := 0) rfl rfl h
  case addi | andi | ori | xori | sltiI | sltiN | muli | cinci => exact decode_i_immandu (by decide) rfl h
  case shli | shri | sari => exact decode_i_scandu (by decide) rfl h
  case ldi => exact decode_i_immndu (by decide) rfl h
  case bEq | bNe | bLt | bGe | bLtn | bGen => exact decode_i_immadu (by decide) rfl h
  case split => exact decode_i_imm (by decide) rfl h
  case bar | barArrive | barWait => exact decode_i_immsc (by decide) rfl h
  case ldI8 | ldN8 | ldI16 | ldN16 | ldI32 | ldN32 | ld64 | ld128 | st8 | st16 | st32 | st64 | st128 | ldCap | stCap =>
    exact decode_m_immpadu (by decide) rfl h
  case j | call => exact decode_j_imm (by decide) rfl h
  case xset | xcat => exact decode_j_immxi (by decide) rfl h
  case nop | compactRet => exact decode_c (by decide) rfl h
  case compactMov | compactAdd | compactSub | compactAnd | compactOr | compactXor | compactAddi | compactShli | compactShri |
      compactSari | compactLdi | compactLd64 | compactSt64 | compactLdI32 | compactSt32 | compactCinci | bZ | bNz | jS | compactFaddF32
      | compactFmulF32 =>
    exact decode_c_qp (by decide) rfl h
  case compactSymWait | compactJr => exact decode_c_p (by decide) rfl h
  all_goals exact absurd rfl hl

end Sys2Proof

namespace Sys2Proof.Machine

/-- Settles O3, by the form of the instruction. -/
theorem decodeOfEncode : Obligations.DecodeOfEncode := decode_encode

/-- Settles O4: the decoder evaluated at the words. -/
theorem exampleWordsDecode : Obligations.ExampleWordsDecode := by
  unfold Obligations.ExampleWordsDecode
  decide +kernel

end Sys2Proof.Machine
end

section
/-! SUPPORT. The registers that a gang shares: the operand-extension registers (04 R88, R93; 05 R125) and the mask registers (09 R196). A
form writes its own part's and marks the register; the parts of the gang have it when the run ends. -/

namespace Sys2Proof.Machine

/-! ### Vectors of eight -/

theorem setIfInBounds_eq_set {α : Type} (v : Vector α 8) (n : Nat) (a : α) (h : n < 8) : v.setIfInBounds n a = v.set n a := by
  ext k hk
  rw [Vector.getElem_setIfInBounds, Vector.getElem_set]

theorem putSome_getElem {α : Type} (w : BitVec 8) (v old : Vector α 8) (n : Nat) (h : n < 8) :
    (putSome w v old)[n] = if w.getLsbD n = true then v[n] else old[n] :=
  Vector.getElem_ofFn h

/-! ### Writes of the operand-extension registers -/

theorem setX_eq (s : State) (n : Nat) (v : Word) (h : n < 8) :
    s.setX n v = { s with g := { s.g with x := s.g.x.set n v, wx := s.g.wx ||| BitVec.ofNat 8 (2 ^ n) } } := by
  rw [State.setX, setIfInBounds_eq_set _ _ _ h]

theorem xr_eq (g : Group) (n : Nat) (h : n < 8) : g.xr n = g.x[n] := by simp [Group.xr, h]

/-- Shifting a constant in is a shift and an OR (04 R93). -/
theorem shiftedIn_eq (x : Word) (imm : BitVec 22) : (x.extractLsb' 0 42 ++ imm : BitVec (42 + 22)) = x <<< 22 ||| imm.setWidth 64 := by
  refine BitVec.eq_of_getLsbD_eq fun k hk => ?_
  rw [BitVec.getLsbD_append, BitVec.getLsbD_or, BitVec.getLsbD_shiftLeft, BitVec.getLsbD_setWidth, BitVec.getLsbD_extractLsb']
  by_cases h : k < 22
  · simp [h, hk]
  · simp [h, hk, BitVec.getLsbD_of_ge imm k (by omega), show k - 22 < 42 by omega]

theorem exec_xset (imm : BitVec 22) (xi : BitVec 3) (s : State) (hc : s.clear (.xset imm xi) []) :
    exec (.xset imm xi) s = .next ((s.setX xi.toNat (imm.signExtend 64)).past (.xset imm xi) s) :=
  issueOn_done _ strict [] _ _ s _ hc rfl rfl (clear_held _ s hc)

theorem exec_xcat (imm : BitVec 22) (xi : BitVec 3) (s : State) (hc : s.clear (.xcat imm xi) []) :
    exec (.xcat imm xi) s = .next ((s.setX xi.toNat ((s.g.xr xi.toNat).extractLsb' 0 42 ++ imm)).past (.xcat imm xi) s) :=
  issueOn_done _ strict [] _ _ s _ hc rfl rfl (clear_held _ s hc)

theorem exec_xput (a xi : BitVec 6) (s : State) (l : Lane) (t : List Lane) (hc : s.clear (.xput a xi) [a]) (hl : s.g.acts = l :: t) :
    exec (.xput a xi) s = .next ((s.setX xi.toNat (s.g.words l a)).past (.xput a xi) s) :=
  issueOn_done _ elected [a] _ _ s _ hc rfl (by rw [hl]; rfl) (clear_held _ s hc)

/-- `xget` gives every active lane the register. -/
theorem exec_xget (xi d : BitVec 6) (s : State) (hc : s.clear (.xget xi d) []) :
    exec (.xget xi d) s = .next (s.computes (.xget xi d) fun _ => dataWord (s.g.xr xi.toNat)) :=
  issueOn_done _ strict [] _ _ s _ hc rfl (deliver_done _ _ _ s (clear_dst_stream _ s hc)) ((gets_held _ _ _ _).trans (clear_held _ s hc))

/-- Settles O12: each form by what its body leaves. -/
theorem operandExtensionRegisters : Obligations.OperandExtensionRegisters := by
  unfold Obligations.OperandExtensionRegisters
  refine ⟨fun imm xi s hc => ?_, fun imm xi s hc => ?_, fun a xi s l t h hc hl => ?_, fun xi d s h hc => ?_⟩
  · rw [exec_xset imm xi s hc, setX_eq _ _ _ xi.isLt]
  · rw [exec_xcat imm xi s hc, setX_eq _ _ _ xi.isLt, xr_eq _ _ xi.isLt, shiftedIn_eq]
  · rw [exec_xput a xi s l t hc hl, setX_eq _ _ _ h]
  · rw [exec_xget xi d s hc, xr_eq _ _ h]
    rfl

/-! ### Writes of the mask registers -/

theorem setM_eq (s : State) (n : Nat) (v : BitVec 32) (h : n < 8) :
    s.setM n v = { s with g := { s.g with m := s.g.m.set n v, wm := s.g.wm ||| BitVec.ofNat 8 (2 ^ n) } } := by
  rw [State.setM, setIfInBounds_eq_set _ _ _ h]

theorem maskForm_done (i : Instr) (d : BitVec 6) (f : Group → BitVec 32) (s : State) (hc : s.clear i (srcs i)) :
    maskForm i d f s = .next ((s.setM d.toNat (f s.g)).past i s) :=
  issueOn_done i strict (srcs i) _ _ s _ hc rfl rfl (clear_held i s hc)

/-- Every form of the table of mask registers is a mask operation. -/
theorem exec_maskResult (i : Instr) (s : State) (d : BitVec 6) (f : Group → BitVec 32) (h : maskResult i = some (d, f)) :
    exec i s = maskForm i d f s ∧ srcs i = [] := by
  cases i with
  | mAnd | mOr | mNot | mMov | mMovActive =>
    cases h
    exact ⟨rfl, rfl⟩
  | _ => cases h

theorem exec_mMovFromK (a d : BitVec 6) (s : State) (l : Lane) (t : List Lane) (hc : s.clear (.mMovFromK a d) [a])
    (hl : s.g.acts = l :: t) :
    exec (.mMovFromK a d) s = .next ((s.setM d.toNat ((s.g.read l a).bits.extractLsb' 0 32)).past (.mMovFromK a d) s) :=
  issueOn_done _ strict [a] _ _ s _ hc rfl (by rw [hl]) (clear_held _ s hc)

/-! ### The end of a run -/

theorem heeds_x (h : Group) (wx wm : BitVec 8) (x : Vector Word 8) (m : Vector (BitVec 32) 8) (n : Nat) (hn : n < 8) :
    (h.heeds wx wm x m).x[n] = if wx.getLsbD n = true ∧ h.wx.getLsbD n = false then x[n] else h.x[n] := by
  simp [Group.heeds, putSome_getElem, hn]

theorem heeds_m (h : Group) (wx wm : BitVec 8) (x : Vector Word 8) (m : Vector (BitVec 32) 8) (n : Nat) (hn : n < 8) :
    (h.heeds wx wm x m).m[n] = if wm.getLsbD n = true ∧ h.wm.getLsbD n = false then m[n] else h.m[n] := by
  simp [Group.heeds, putSome_getElem, hn]

theorem closeRun_midRun (s : State) (h : s.midRun s.g = true) : s.closeRun = s := if_pos h

theorem closeRun_groups (s : State) (h : s.midRun s.g = false) : s.closeRun.groups = s.shareXM.groups := by
  rw [State.closeRun, h]
  rfl

/-- When the run of a part ends, each other part of its gang heeds what the run has written. -/
theorem heeds_mem_closeRun (s : State) (h : Group) (hg : s.g.isG = true) (hm : s.midRun s.g = false) (hh : h ∈ s.groups)
    (hi : h.isG = true) (hgang : h.gang = s.g.gang) : h.heeds s.g.wx s.g.wm s.g.x s.g.m ∈ s.closeRun.groups := by
  rw [closeRun_groups s hm]
  refine List.mem_map.2 ⟨h, hh, if_pos ?_⟩
  simp [hg, hi, hgang]

/-- Settles O20: each mask form by what its body leaves, and the end of a run by what the other parts heed. -/
theorem maskRegistersBelongToTheGang : Obligations.MaskRegistersBelongToTheGang := by
  unfold Obligations.MaskRegistersBelongToTheGang
  refine ⟨fun i s d f h hi hc => ?_, fun a d s l t h hc hl => ?_, fun s hg hm h hh hi hgang => ?_, closeRun_midRun⟩
  · obtain ⟨hx, hs⟩ := exec_maskResult i s d f hi
    rw [hx, maskForm_done i d f s (hs ▸ hc), setM_eq _ _ _ h]
  · rw [exec_mMovFromK a d s l t hc hl, setM_eq _ _ _ h]
  · exact ⟨_, heeds_mem_closeRun s h hg hm hh hi hgang, rfl, fun n hn => ⟨heeds_x h _ _ _ _ n hn, heeds_m h _ _ _ _ n hn⟩⟩

end Sys2Proof.Machine
end

section
/-! SUPPORT. A step as its move, and the instruction of a turn as what the bytes at the pc decode to (04 R79; 07 R150). -/

namespace Sys2Proof.Machine

/-! ### Halfwords of code -/

theorem leNat_two_lt (a b : Byte) : leNat [a, b] < 65536 := by
  have ha := a.isLt
  have hb := b.isLt
  simp only [leNat]
  omega

theorem codeHalf_lt (s : State) (pa : Nat) (key : Option Nat) (k : Option (BitVec 8)) (h : Nat) (hk : s.codeHalf pa key k = some h) :
    h < 65536 := by
  cases k with
  | none =>
    simp only [State.codeHalf, Option.ite_none_left_eq_some, Option.some.injEq] at hk
    obtain ⟨-, rfl⟩ := hk
    exact leNat_two_lt (s.mem.byte pa) (s.mem.byte (pa + 1))
  | some k =>
    simp only [State.codeHalf, Option.ite_none_left_eq_some, Option.some.injEq] at hk
    obtain ⟨-, rfl⟩ := hk
    exact leNat_two_lt _ _

theorem fetchHalf_lt (s : State) (g : Group) (pc at_ : Word) (h : Nat) (hf : fetchHalf s g pc at_ = .inl h) : h < 65536 := by
  unfold fetchHalf at hf
  split at hf
  · cases hf
  split at hf
  · cases hf
  · cases hf
  split at hf
  next hk =>
    cases hf
    exact codeHalf_lt s _ _ _ h hk
  next => cases hf

/-! ### The instruction at a pc -/

theorem natBytes_halves (h h2 : Nat) (hl : h < 65536) : natBytes 2 h ++ natBytes 2 h2 = natBytes 4 (h + 65536 * h2) := by
  have hb (x y : Nat) (e : x % 2 ^ 8 = y % 2 ^ 8) : BitVec.ofNat 8 x = BitVec.ofNat 8 y := by
    rw [← BitVec.toNat_inj, BitVec.toNat_ofNat, BitVec.toNat_ofNat, e]
  simp only [natBytes, List.cons_append, List.nil_append, List.cons.injEq, and_true]
  exact ⟨hb _ _ (by omega), hb _ _ (by omega), hb _ _ (by omega), hb _ _ (by omega)⟩

theorem fetch_even (s : State) (g : Group) (pc : Word) (h : Nat) (hf : fetchHalf s g pc pc = .inl h) (h0 : h % 2 = 0) :
    fetch s g pc = (decode16 h).elim (.reserved h 2) fun i => .instr i h 2 := by
  simp only [fetch, hf, h0, if_true]
  cases decode16 h <;> rfl

theorem fetch_odd (s : State) (g : Group) (pc : Word) (h h2 : Nat) (hf : fetchHalf s g pc pc = .inl h) (h1 : h % 2 = 1)
    (hf2 : fetchHalf s g pc (pc + 2) = .inl h2) :
    fetch s g pc = (decode32 (h + 65536 * h2)).elim (.reserved (h + 65536 * h2) 4) fun i => .instr i (h + 65536 * h2) 4 := by
  simp only [fetch, hf, hf2, h1, Nat.one_ne_zero, if_false]
  cases decode32 (h + 65536 * h2) <;> rfl

section Fetch
variable (s : State) (g : Group) (pc : Word) (h h2 : Nat) (hf : fetchHalf s g pc pc = .inl h)
  (hf2 : h % 2 = 1 → fetchHalf s g pc (pc + 2) = .inl h2)
include hf hf2

/-- A fetch gives what the bytes at the pc decode to: an instruction, or a reserved word. -/
theorem fetch_decode (r : Except DecodeError (Instr × List Byte)) (hr : decode (natBytes 2 h ++ natBytes 2 h2) = r) :
    (∃ i rest w n, r = .ok (i, rest) ∧ fetch s g pc = .instr i w n) ∨
      (∃ w n, r = .error (.reserved w n) ∧ fetch s g pc = .reserved w n) := by
  have hl := fetchHalf_lt s g pc pc h hf
  rcases Nat.mod_two_eq_zero_or_one h with h0 | h1
  · rw [decode_halfword hl h0] at hr
    rw [fetch_even s g pc h hf h0, ← hr]
    cases decode16 h with
    | none => exact .inr ⟨_, _, rfl, rfl⟩
    | some i => exact .inl ⟨_, _, _, _, rfl, rfl⟩
  · have hl2 := fetchHalf_lt s g pc _ h2 (hf2 h1)
    rw [natBytes_halves h h2 hl, decode_word (by omega) (by omega)] at hr
    rw [fetch_odd s g pc h h2 hf h1 (hf2 h1), ← hr]
    cases decode32 (h + 65536 * h2) with
    | none => exact .inr ⟨_, _, rfl, rfl⟩
    | some i => exact .inl ⟨_, _, _, _, rfl, rfl⟩

theorem fetch_of_decode_ok (i : Instr) (rest : List Byte) (hd : decode (natBytes 2 h ++ natBytes 2 h2) = .ok (i, rest)) :
    ∃ w n, fetch s g pc = .instr i w n := by
  rcases fetch_decode s g pc h h2 hf hf2 _ hd with ⟨_, _, w, n, he, hx⟩ | ⟨_, _, he, -⟩
  · cases he
    exact ⟨w, n, hx⟩
  · cases he

theorem fetch_of_decode_reserved (w n : Nat) (hd : decode (natBytes 2 h ++ natBytes 2 h2) = .error (.reserved w n)) :
    fetch s g pc = .reserved w n := by
  rcases fetch_decode s g pc h h2 hf hf2 _ hd with ⟨_, _, _, _, he, -⟩ | ⟨_, _, he, hx⟩
  · cases he
  · cases he
    exact hx

end Fetch

/-! ### Turns and moves -/

theorem run1_instr (s : State) (i : Instr) (w n : Nat) (h : fetch s s.g s.g.pc = .instr i w n) : s.run1 = exec i s := by
  simp only [State.run1, h]

theorem run1_reserved (s : State) (w n : Nat) (h : fetch s s.g s.g.pc = .reserved w n) :
    s.run1 = exec (.reservedEncoding (BitVec.ofNat 32 w) n) s := by
  simp only [State.run1, h]

/-- The turn of the group at hand, where it may issue and owes no step trap and no forfeited turn, is its instruction. -/
theorem turn_issues (s t : State) (hi : s.mayIssue s.g = true) (hd : s.g.stepDue = none)
    (hp : s.passes s.g = true → (s.attempt s.g.gid).wentOn s.g.gid = false) (hr : s.run1 = .next t) :
    s.turn s.g.gid = .next (if t.wentOn s.g.gid then s.afterIssue t else t) := by
  have hsw : s.switchTo s.g.gid = s := if_pos rfl
  have hpass : ¬(s.passes s.g = true ∧ (s.attempt s.g.gid).wentOn s.g.gid = true) := fun ⟨h1, h2⟩ => by simp [hp h1] at h2
  simp only [State.turn, hsw, hi, hd, if_neg hpass, hr, ne_eq, not_true_eq_false, Bool.true_eq_false, or_self, if_false]

theorem move_turn (s : State) (gid : Nat) (ha : s.agenda = []) (hd : s.due = none) (ho : s.offDuty = false) (hc : s.choose = some gid) :
    s.move = s.turn gid := by
  simp only [State.move, ha, hd, ho, hc, Bool.false_eq_true, if_false]

theorem move_due (s : State) (i : Instr) (ha : s.agenda = []) (hd : s.due = some i) : s.move = exec i s := by
  simp only [State.move, ha, hd]

theorem move_event (s : State) (i : Instr) (t : List Turn) (ha : s.agenda = .event i :: t) (hi : isEvent i = true) :
    s.move = exec i { s with agenda := t } := by
  simp only [State.move, ha, hi, if_true]

theorem move_offDuty (s : State) (ho : s.offDuty = true) (h : s.agenda = [] ∧ s.due = none ∨ ∃ gid t, s.agenda = .issue gid :: t) :
    s.move = .next s.tick := by
  rcases h with ⟨ha, hd⟩ | ⟨gid, t, ha⟩
  · simp only [State.move, ha, hd, ho, if_true]
  · simp only [State.move, ha, ho, if_true]

/-- Settles O5: a step is the move of the marked state, and a turn there is what its fetch decodes to. -/
theorem aStepRunsTheDecodedInstruction : Obligations.AStepRunsTheDecodedInstruction := by
  unfold Obligations.AStepRunsTheDecodedInstruction
  refine ⟨?_, fun s i => move_due _ i, fun s i t => move_event _ i t, fun s => move_offDuty _⟩
  intro s s1 ha hd ho hc hi hs hp h h2 hf hf2
  have issues (t : State) (hr : s1.run1 = .next t) : step s = .next (if t.wentOn s1.g.gid then s1.afterIssue t else t) :=
    (move_turn s1 _ ha hd ho hc).trans (turn_issues s1 t hi hs hp hr)
  refine ⟨fun i rest t hdec hx => ?_, fun w n t hdec hx => ?_⟩
  · obtain ⟨w, n, hfe⟩ := fetch_of_decode_ok s1 s1.g s1.g.pc h h2 hf hf2 i rest hdec
    exact issues t ((run1_instr s1 i w n hfe).trans hx)
  · have hfe := fetch_of_decode_reserved s1 s1.g s1.g.pc h h2 hf hf2 w n hdec
    exact issues t ((run1_reserved s1 w n hfe).trans hx)

end Sys2Proof.Machine
end

section
/-! SUPPORT. Linear indices and the bits of a capability (01 R12 to R14, R18, R19; 05 R108): an index is that of the address it is spread
to, and a moved capability keeps its bounds and its permissions. -/

namespace Sys2Proof.Machine

/-! ### Fields of a word -/

/-- The value of a field given as (place, width). -/
def fieldAt (w : Nat) (f : Nat × Nat) : Nat := w / 2 ^ f.1 % 2 ^ f.2

/-- Two fields share no bit. -/
def Apart (f h : Nat × Nat) : Prop := f.1 + f.2 ≤ h.1 ∨ h.1 + h.2 ≤ f.1

/-- How many bits some fields have in all. -/
def fieldBits (fs : List (Nat × Nat)) : Nat := (fs.map (·.2)).sum

theorem fieldAt_add_same (w v : Nat) (f : Nat × Nat) (h : fieldAt w f = 0) : fieldAt (w + v % 2 ^ f.2 * 2 ^ f.1) f = v % 2 ^ f.2 := by
  unfold fieldAt at *
  rw [Nat.add_mul_div_right _ _ (Nat.two_pow_pos _), Nat.add_mod, h, Nat.zero_add, Nat.mod_mod, Nat.mod_mod]

/-- A value put into an empty field carries into no other one. -/
theorem fieldAt_add_apart (w v : Nat) (f h : Nat × Nat) (h0 : fieldAt w f = 0) (ha : Apart f h) :
    fieldAt (w + v % 2 ^ f.2 * 2 ^ f.1) h = fieldAt w h := by
  obtain ⟨lo, n⟩ := f
  obtain ⟨lo', n'⟩ := h
  simp only [fieldAt, Apart] at *
  rcases ha with ha | ha
  · -- the other field lies above: the sum stays within the bits below it
    have hq : ∀ x, x / 2 ^ lo' = x / 2 ^ (lo + n) / 2 ^ (lo' - (lo + n)) := by
      intro x
      rw [Nat.div_div_eq_div_mul, ← Nat.pow_add, Nat.add_sub_cancel' ha]
    have hs : (w + v % 2 ^ n * 2 ^ lo) / 2 ^ (lo + n) = w / 2 ^ (lo + n) := by
      rw [Nat.pow_add, ← Nat.div_div_eq_div_mul, ← Nat.div_div_eq_div_mul, Nat.add_mul_div_right _ _ (Nat.two_pow_pos _)]
      have hd := Nat.div_add_mod (w / 2 ^ lo) (2 ^ n)
      rw [h0, Nat.add_zero] at hd
      rw [← hd, Nat.mul_add_div (Nat.two_pow_pos _), Nat.mul_div_cancel_left _ (Nat.two_pow_pos _),
        Nat.div_eq_of_lt (Nat.mod_lt v (Nat.two_pow_pos n)), Nat.add_zero]
    rw [hq, hs, ← hq]
  · -- the other field lies below
    have hd : v % 2 ^ n * 2 ^ lo = v % 2 ^ n * 2 ^ (lo - (lo' + n')) * 2 ^ n' * 2 ^ lo' := by
      rw [Nat.mul_assoc, Nat.mul_assoc, ← Nat.pow_add, ← Nat.pow_add]
      congr 2
      omega
    rw [hd, Nat.add_mul_div_right _ _ (Nat.two_pow_pos _), Nat.add_mul_mod_self_right]

/-- Scattering over fields that share no bit, added to a word that is zero there, leaves every field apart from them and is undone by
gathering. -/
theorem gather_scatter (fs : List (Nat × Nat)) (hp : fs.Pairwise Apart) (w i p : Nat) (hw : ∀ f ∈ fs, fieldAt w f = 0) :
    gather (w + scatter i fs) fs p = i % 2 ^ fieldBits fs * p ∧
      ∀ h, (∀ f ∈ fs, Apart f h) → fieldAt (w + scatter i fs) h = fieldAt w h := by
  induction fs generalizing w i p with
  | nil => exact ⟨by simp [gather, fieldBits, Nat.mod_one], fun _ _ => rfl⟩
  | cons f fs ih =>
    rw [List.pairwise_cons] at hp
    have h0 : fieldAt w f = 0 := hw f (by simp)
    have hput : ∀ k ∈ fs, fieldAt (w + i % 2 ^ f.2 * 2 ^ f.1) k = 0 := by
      intro k hk
      rw [fieldAt_add_apart w i f k h0 (hp.1 k hk)]
      exact hw k (by simp [hk])
    obtain ⟨hg, hf⟩ := ih hp.2 (w + i % 2 ^ f.2 * 2 ^ f.1) (i / 2 ^ f.2) (p * 2 ^ f.2) hput
    have hsplit : w + scatter i (f :: fs) = w + i % 2 ^ f.2 * 2 ^ f.1 + scatter (i / 2 ^ f.2) fs := by
      simp only [scatter, Nat.add_assoc]
    rw [hsplit]
    refine ⟨?_, fun h ha => ?_⟩
    · have hhead : (w + i % 2 ^ f.2 * 2 ^ f.1 + scatter (i / 2 ^ f.2) fs) / 2 ^ f.1 % 2 ^ f.2 = i % 2 ^ f.2 :=
        (hf f fun k hk => (hp.1 k hk).symm).trans (fieldAt_add_same w i f h0)
      have hbits : fieldBits (f :: fs) = f.2 + fieldBits fs := by simp [fieldBits]
      rw [gather, hhead, hg, hbits, Nat.pow_add, Nat.mod_mul]
      ring
    · rw [hf h fun k hk => ha k (by simp [hk]), fieldAt_add_apart w i f h h0 (ha f (by simp))]

/-! ### Indices -/

theorem walkOrder_lt (w : BitVec 7) : walkOrder w < 8 := (w.extractLsb' 4 3).isLt

/-- The fields of a walk with an order share no bit, lie below bit 32 and fill the 32 bits (01 R19). -/
theorem walkLayout_partition (w : BitVec 7) (h : walkOrder w ≠ 0) :
    (walkLayout w).Pairwise Apart ∧ fieldBits (walkLayout w) = 32 ∧ ∀ f ∈ walkLayout w, f.1 + f.2 ≤ 32 := by
  have hlt := walkOrder_lt w
  have hc : min (6 + walkGran w) 19 ≤ 19 := Nat.min_le_right _ _
  unfold walkLayout
  generalize min (6 + walkGran w) 19 = c at hc
  generalize walkOrder w = o at h hlt
  interval_cases o
  · exact absurd rfl h
  all_goals
    simp only [walkFields, List.cons_append, List.nil_append, List.pairwise_cons, List.mem_cons, List.not_mem_nil, or_false,
      forall_eq_or_imp, forall_eq, Apart, fieldBits, List.map_cons, List.map_nil, List.sum_cons, List.sum_nil]
    simp
    omega

/-- A layout below bit 32 scatters to less than 2^32. -/
theorem scatter_lt (fs : List (Nat × Nat)) (hp : fs.Pairwise Apart) (hb : ∀ f ∈ fs, f.1 + f.2 ≤ 32) (i : Nat) : scatter i fs < 2 ^ 32 := by
  obtain ⟨-, hf⟩ := gather_scatter fs hp 0 i 1 fun _ _ => by simp [fieldAt]
  have h := hf (32, scatter i fs) fun f hm => .inl (hb f hm)
  simp only [fieldAt, Nat.zero_add, Nat.zero_div, Nat.zero_mod] at h
  have hlt : scatter i fs / 2 ^ 32 < 2 ^ scatter i fs := (Nat.div_le_self _ _).trans_lt Nat.lt_two_pow_self
  rw [Nat.mod_eq_of_lt hlt] at h
  exact (Nat.div_eq_zero_iff.1 h).resolve_left (by decide)

/-- The index of the address that an index is spread to is that index (05 R108). -/
theorem indexOfAddr_spreadIndex (w : BitVec 7) (i : Nat) : indexOfAddr w (spreadIndex w i) = i := by
  unfold indexOfAddr spreadIndex
  by_cases h : walkOrder w = 0
  · rw [if_pos h, if_pos h]
  · obtain ⟨hp, hbits, hb⟩ := walkLayout_partition w h
    obtain ⟨hg, -⟩ := gather_scatter (walkLayout w) hp 0 (i % 2 ^ 32) 1 fun _ _ => by simp [fieldAt]
    rw [Nat.zero_add, hbits, Nat.mod_mod, Nat.mul_one] at hg
    have hs := scatter_lt (walkLayout w) hp hb (i % 2 ^ 32)
    rw [if_neg h, if_neg h, Nat.mul_comm (i / 2 ^ 32), Nat.mul_add_div (by decide), Nat.mul_add_mod, Nat.mod_eq_of_lt hs, hg,
      Nat.div_eq_of_lt hs, Nat.add_zero]
    omega

theorem spreadIndex_lt (w : BitVec 7) (i : Nat) (hi : i < 2 ^ 56) : spreadIndex w i < 2 ^ 56 := by
  unfold spreadIndex
  by_cases h : walkOrder w = 0
  · rwa [if_pos h]
  · obtain ⟨hp, -, hb⟩ := walkLayout_partition w h
    have hs := scatter_lt (walkLayout w) hp hb (i % 2 ^ 32)
    rw [if_neg h]
    omega

/-! ### The fields of capability bits -/

section Fields
variable (walk : BitVec 7) (perm : BitVec 8) (l s e cursor : Nat)

theorem getLsbD_capBits (k : Nat) : (capBits walk perm l s e cursor).getLsbD k =
    if k < 56 then (BitVec.ofNat 56 cursor).getLsbD k
    else if k < 64 then false
    else if k < 69 then (BitVec.ofNat 5 e).getLsbD (k - 64)
    else if k < 91 then (BitVec.ofNat 22 s).getLsbD (k - 69)
    else if k < 113 then (BitVec.ofNat 22 l).getLsbD (k - 91)
    else if k < 121 then perm.getLsbD (k - 113)
    else walk.getLsbD (k - 121) := by
  unfold capBits
  change BitVec.getLsbD (w := 7 + 8 + 22 + 22 + 5 + 8 + 56) _ k = _
  simp only [BitVec.getLsbD_append, BitVec.getLsbD_zero]
  grind

@[simp] theorem capCursor_capBits : capCursor (capBits walk perm l s e cursor) = BitVec.ofNat 56 cursor := by
  ext k hk
  rw [capCursor, BitVec.getElem_extractLsb', getLsbD_capBits, if_pos (by omega), Nat.zero_add, BitVec.getLsbD_eq_getElem hk]

@[simp] theorem capE_capBits : capE (capBits walk perm l s e cursor) = e % 32 := by
  have h : (capBits walk perm l s e cursor).extractLsb' 64 5 = BitVec.ofNat 5 e := by
    ext k hk
    rw [BitVec.getElem_extractLsb', getLsbD_capBits, if_neg (by omega), if_neg (by omega), if_pos (by omega), Nat.add_sub_cancel_left,
      BitVec.getLsbD_eq_getElem hk]
  rw [capE, h, BitVec.toNat_ofNat]

@[simp] theorem capS_capBits : capS (capBits walk perm l s e cursor) = s % 2 ^ 22 := by
  have h : (capBits walk perm l s e cursor).extractLsb' 69 22 = BitVec.ofNat 22 s := by
    ext k hk
    rw [BitVec.getElem_extractLsb', getLsbD_capBits, if_neg (by omega), if_neg (by omega), if_neg (by omega), if_pos (by omega),
      Nat.add_sub_cancel_left, BitVec.getLsbD_eq_getElem hk]
  rw [capS, h, BitVec.toNat_ofNat]

@[simp] theorem capL_capBits : capL (capBits walk perm l s e cursor) = l % 2 ^ 22 := by
  have h : (capBits walk perm l s e cursor).extractLsb' 91 22 = BitVec.ofNat 22 l := by
    ext k hk
    rw [BitVec.getElem_extractLsb', getLsbD_capBits, if_neg (by omega), if_neg (by omega), if_neg (by omega), if_neg (by omega),
      if_pos (by omega), Nat.add_sub_cancel_left, BitVec.getLsbD_eq_getElem hk]
  rw [capL, h, BitVec.toNat_ofNat]

@[simp] theorem capPerm_capBits : capPerm (capBits walk perm l s e cursor) = perm := by
  ext k hk
  rw [capPerm, BitVec.getElem_extractLsb', getLsbD_capBits, if_neg (by omega), if_neg (by omega), if_neg (by omega), if_neg (by omega),
    if_neg (by omega), if_pos (by omega), Nat.add_sub_cancel_left, BitVec.getLsbD_eq_getElem hk]

@[simp] theorem capWalk_capBits : capWalk (capBits walk perm l s e cursor) = walk := by
  ext k hk
  rw [capWalk, BitVec.getElem_extractLsb', getLsbD_capBits, if_neg (by omega), if_neg (by omega), if_neg (by omega), if_neg (by omega),
    if_neg (by omega), if_neg (by omega), Nat.add_sub_cancel_left, BitVec.getLsbD_eq_getElem hk]

/-- The index that bounds are computed from, of capability bits put together around a cursor. -/
theorem bitsIndex_capBits : bitsIndex (capBits walk perm l s e cursor) = indexOfAddr walk (cursor % 2 ^ 56) := by
  simp [bitsIndex]

end Fields

/-! ### What the derivations keep -/

theorem alignDown_dvd (i : Int) (e : Nat) : ((2 ^ e : Nat) : Int) ∣ alignDown i e := Int.dvd_self_sub_emod

/-- The bounds and permissions of `w` lie within those of `v`. -/
def CapWithin (v w : Quad) : Prop := capBase v ≤ capBase w ∧ capTop w ≤ capTop v ∧ capPerm w &&& ~~~capPerm v = 0

theorem within_of_eq (v w : Quad) (hb : capBase w = capBase v) (ht : capTop w = capTop v) (hp : capPerm w = capPerm v) : CapWithin v w := by
  refine ⟨hb.ge, ht.le, ?_⟩
  rw [hp, BitVec.and_not_self]

/-- A moved capability has its bounds and its permissions (01 R14). -/
theorem moveTo_within (v : Val) (i : Int) (hv : v.tag = .cap) (h : (moveTo v i).tag = .cap) : CapWithin v.bits (moveTo v i).bits := by
  unfold moveTo at h ⊢
  rw [if_pos hv] at h ⊢
  dsimp only at h ⊢
  split at h
  next hc =>
    rw [if_pos hc]
    obtain ⟨hs0, hs1, hi0, hi1⟩ := hc
    have he : capE v.bits % 32 = capE v.bits := Nat.mod_eq_of_lt (v.bits.extractLsb' 64 5).isLt
    have hl : capL v.bits % 2 ^ 22 = capL v.bits := Nat.mod_eq_of_lt (v.bits.extractLsb' 91 22).isLt
    have hidx : ((indexOfAddr (capWalk v.bits) (spreadIndex (capWalk v.bits) i.toNat % 2 ^ 56) : Nat) : Int) = i := by
      rw [Nat.mod_eq_of_lt (spreadIndex_lt _ _ (by omega)), indexOfAddr_spreadIndex]
      omega
    have hdvd := Int.dvd_sub (alignDown_dvd i (capE v.bits)) (alignDown_dvd (bitsIndex v.bits) (capE v.bits))
    have hbase : capBase (capBits (capWalk v.bits) (capPerm v.bits) (capL v.bits)
        ((capS v.bits : Int) + (alignDown i (capE v.bits) - alignDown (bitsIndex v.bits) (capE v.bits)) / (2 ^ capE v.bits : Nat)).toNat
        (capE v.bits) (spreadIndex (capWalk v.bits) i.toNat)) = capBase v.bits := by
      rw [capBase, bitsIndex_capBits, capE_capBits, capS_capBits, he, hidx, Nat.mod_eq_of_lt (by omega), Nat.cast_mul,
        Int.toNat_of_nonneg hs0, Int.add_mul, Int.ediv_mul_cancel hdvd, capBase, Nat.cast_mul]
      ring
    refine within_of_eq _ _ hbase ?_ (capPerm_capBits ..)
    simp only [capTop, hbase, capLen, capL_capBits, capE_capBits, he, hl]
  next => cases h

theorem getLsbD_cand (v : Val) (mask : BitVec 8) (k : Nat) : (cand v mask).bits.getLsbD k =
    if 113 ≤ k ∧ k < 121 then v.bits.getLsbD k && mask.getLsbD (k - 113) else v.bits.getLsbD k := by
  have hb : (cand v mask).bits = (v.bits.extractLsb' 121 7 ++ (capPerm v.bits &&& mask) ++ v.bits.extractLsb' 0 113 : BitVec 128) := by
    unfold cand
    split <;> rfl
  rw [hb]
  change BitVec.getLsbD (w := 7 + 8 + 113) _ k = _
  simp only [BitVec.getLsbD_append, BitVec.getLsbD_extractLsb', BitVec.getLsbD_and, capPerm]
  have hout : 128 ≤ k → v.bits.getLsbD k = false := BitVec.getLsbD_of_ge v.bits k
  grind

/-- Clearing permissions changes no bit outside PERM. -/
theorem extract_cand (v : Val) (mask : BitVec 8) (lo n : Nat) (h : lo + n ≤ 113 ∨ 121 ≤ lo) :
    (cand v mask).bits.extractLsb' lo n = v.bits.extractLsb' lo n := by
  ext k hk
  rw [BitVec.getElem_extractLsb', BitVec.getElem_extractLsb', getLsbD_cand, if_neg (by omega)]

theorem capPerm_cand (v : Val) (mask : BitVec 8) : capPerm (cand v mask).bits = capPerm v.bits &&& mask := by
  ext k hk
  rw [capPerm, BitVec.getElem_extractLsb', getLsbD_cand, if_pos (by omega), BitVec.getElem_and, capPerm, BitVec.getElem_extractLsb',
    Nat.add_sub_cancel_left, BitVec.getLsbD_eq_getElem hk]

/-- Clearing permissions leaves the bounds and adds no permission (05 R110). -/
theorem cand_within (v : Val) (mask : BitVec 8) : CapWithin v.bits (cand v mask).bits := by
  have hcur : capCursor (cand v mask).bits = capCursor v.bits := extract_cand v mask 0 56 (.inl (by decide))
  have he : capE (cand v mask).bits = capE v.bits := congrArg BitVec.toNat (extract_cand v mask 64 5 (.inl (by decide)))
  have hs : capS (cand v mask).bits = capS v.bits := congrArg BitVec.toNat (extract_cand v mask 69 22 (.inl (by decide)))
  have hl : capL (cand v mask).bits = capL v.bits := congrArg BitVec.toNat (extract_cand v mask 91 22 (.inl (by decide)))
  have hw : capWalk (cand v mask).bits = capWalk v.bits := extract_cand v mask 121 7 (.inr (by decide))
  have hb : capBase (cand v mask).bits = capBase v.bits := by simp only [capBase, bitsIndex, hcur, he, hs, hw]
  refine ⟨hb.ge, ?_, ?_⟩
  · simp only [capTop, hb, capLen, he, hl, le_refl]
  · rw [capPerm_cand, BitVec.and_comm (capPerm v.bits), BitVec.and_assoc, BitVec.and_not_self]
    exact BitVec.and_zero

theorem boundExp_le (n e len : Nat) : capE' n e len ≤ e + n := by
  induction n generalizing e with
  | zero => exact Nat.le_refl e
  | succ n ih =>
    unfold capE'
    split
    · omega
    · exact (ih (e + 1)).trans (by omega)

/-- Bounds set anew lie within the bounds that were (05 R111). -/
theorem cbound_within (v : Val) (len : Nat) (h : (cbound v len).tag = .cap) : CapWithin v.bits (cbound v len).bits := by
  unfold cbound at h ⊢
  split at h
  next => cases h
  next hc =>
    obtain ⟨hv, -⟩ := not_or.1 hc
    rw [if_neg hc]
    dsimp only at h ⊢
    split at h
    next => cases h
    next hin =>
      rw [if_neg hin]
      obtain ⟨hlo, hhi⟩ := not_or.1 hin
      have he : boundExp len % 32 = boundExp len := Nat.mod_eq_of_lt (Nat.lt_succ_of_le (boundExp_le 31 0 len))
      have hbase : capBase (capBits (capWalk v.bits) (capPerm v.bits) (ceilDiv len (2 ^ boundExp len)) 0 (boundExp len) (cursorAddr v)) =
          alignDown (index v) (boundExp len) := by
        rw [capBase, bitsIndex_capBits, capE_capBits, capS_capBits, he, index, if_pos (not_not.1 hv), cursorAddr,
          Nat.mod_eq_of_lt (capCursor v.bits).isLt]
        simp
      refine ⟨?_, ?_, ?_⟩
      · rw [hbase]
        exact not_lt.1 hlo
      · have hle : ceilDiv len (2 ^ boundExp len) % 2 ^ 22 * 2 ^ boundExp len ≤ ceilDiv len (2 ^ boundExp len) * 2 ^ boundExp len :=
          Nat.mul_le_mul_right _ (Nat.mod_le _ _)
        rw [capTop, hbase, capLen, capL_capBits, capE_capBits, he]
        exact (add_le_add_right (Int.ofNat_le.2 hle) _).trans (not_lt.1 hhi)
      · rw [capPerm_capBits, BitVec.and_not_self]

theorem cset_within (v : Val) (x : Word) (hv : v.tag = .cap) (h : (cset v x).tag = .cap) : CapWithin v.bits (cset v x).bits := by
  unfold cset at h ⊢
  split at h
  next => cases h
  next hc =>
    rw [if_neg hc]
    exact moveTo_within v _ hv h

/-- Settles O15: each derivation keeps the bounds and PERM, or narrows one of them. -/
theorem derivationsNeverWidenAuthority : Obligations.DerivationsNeverWidenAuthority := by
  unfold Obligations.DerivationsNeverWidenAuthority
  intro v w hv hw hcap
  rcases hw with ⟨m, rfl⟩ | ⟨n, rfl⟩ | ⟨x, rfl⟩ | ⟨x, rfl⟩
  · exact cand_within v m
  · exact cbound_within v n hcap
  · exact cset_within v x hv hcap
  · exact moveTo_within v _ hv hcap

end Sys2Proof.Machine
end

section
/-! SUPPORT. The arithmetic of the integer forms (05 R102 to R107): each function of the model is the one of its row. -/

namespace Sys2Proof.Machine

/-! ### Words from conditions and wide products -/

theorem boolWord_decide (p : Prop) [Decidable p] : boolWord (decide p) = oneIf p := by
  unfold boolWord oneIf
  exact if_congr decide_eq_true_iff rfl rfl

theorem boolWord_bne (x y : Word) : boolWord (x != y) = oneIf (x ≠ y) := by
  by_cases h : x = y <;> simp [boolWord, oneIf, h]

theorem mulhI_eq (x y : Word) : mulhI x y = BitVec.ofInt 64 (x.toInt * y.toInt / 2 ^ 64) := by
  simp [mulhI, intWord]

/-! ### Counting bits -/

theorem clzGo_eq (x : Word) (n : Nat) : clzGo x n = ((List.range n).find? fun k => x.getLsbD (n - 1 - k)).getD n := by
  induction n with
  | zero => rfl
  | succ n ih =>
    rw [clzGo, List.range_succ_eq_map, List.find?_cons]
    cases h : x.getLsbD n with
    | true => simp [h]
    | false =>
      have hstep : (fun k => x.getLsbD (n - k)) ∘ Nat.succ = fun k => x.getLsbD (n - 1 - k) := by
        funext k
        simp only [Function.comp_apply, Nat.succ_eq_add_one, Nat.add_comm k, Nat.sub_sub]
      simp only [Nat.add_sub_cancel, Nat.sub_zero, h, Bool.false_eq_true, if_false]
      rw [List.find?_map, hstep, ih]
      cases (List.range n).find? fun k => x.getLsbD (n - 1 - k) <;> simp [Nat.add_comm]

theorem ctzGo_eq (x : Word) (n k : Nat) : ctzGo x n k = ((List.range n).find? fun j => x.getLsbD (k + j)).getD n := by
  induction n generalizing k with
  | zero => rfl
  | succ n ih =>
    rw [ctzGo, List.range_succ_eq_map, List.find?_cons]
    cases x.getLsbD k with
    | true => simp
    | false =>
      have hstep : (fun j => x.getLsbD (k + j)) ∘ Nat.succ = fun j => x.getLsbD (k + 1 + j) := by
        funext j
        simp only [Function.comp_apply]
        congr 1
        omega
      simp only [Bool.false_eq_true, if_false]
      rw [List.find?_map, hstep, ih]
      cases (List.range n).find? fun j => x.getLsbD (k + 1 + j) <;> simp [Nat.add_comm]

theorem ctzGo_zero (x : Word) (n : Nat) : ctzGo x n 0 = ((List.range n).find? fun k => x.getLsbD k).getD n := by
  simpa only [Nat.zero_add] using ctzGo_eq x n 0

theorem popGo_eq (x : Word) (n : Nat) : popGo x n = (List.range n).countP fun k => x.getLsbD k := by
  induction n with
  | zero => rfl
  | succ n ih =>
    rw [popGo, ih, List.range_succ, List.countP_append, List.countP_singleton]
    cases x.getLsbD n <;> simp [Nat.add_comm]

/-! ### Extension of literal widths -/

theorem signed_toInt (n : Nat) (h : 0 < n) (x : Word) : signed n x.toNat = (x.setWidth n).toInt := by
  have hp : 2 ^ n = 2 * 2 ^ (n - 1) := by rw [← Nat.pow_succ', Nat.succ_eq_add_one, Nat.sub_add_cancel h]
  unfold signed
  rw [BitVec.toInt_eq_toNat_cond, BitVec.toNat_setWidth]
  exact if_congr (by omega) rfl rfl

theorem sextW_eq (x : Word) (n : Nat) (h : 0 < n) : sextW x n = (x.setWidth n).signExtend 64 := by
  rw [sextW, signed_toInt n h]
  rfl

theorem zextW_eq (x : Word) (n : Nat) : zextW x n = (x.setWidth n).setWidth 64 := by
  apply BitVec.eq_of_toNat_eq
  simp [zextW]

theorem literalWidth_codeWidth (w : BitVec 6) (n : Nat) (h : literalWidth w = some n) : codeWidth w = n ∧ 0 < n := by
  unfold literalWidth at h
  split at h
  next hw => cases h; subst hw; decide
  next =>
    split at h
    next hw => cases h; subst hw; decide
    next =>
      split at h
      next hw => cases h; subst hw; decide
      next => cases h

/-! ### Bit fields -/

theorem toNat_onesW (w : Nat) (h : w ≤ 64) : (onesW w).toNat = 2 ^ w - 1 := by
  have : 2 ^ w ≤ 2 ^ 64 := Nat.pow_le_pow_right (by decide) h
  rw [onesW, BitVec.toNat_ofNat]
  exact Nat.mod_eq_of_lt (by have := Nat.two_pow_pos w; omega)

theorem getLsbD_onesW (w k : Nat) (h : w ≤ 64) : (onesW w).getLsbD k = decide (k < w) := by
  rw [BitVec.getLsbD, toNat_onesW w h, Nat.testBit_two_pow_sub_one]

/-- The width of a field cut at bit 63 cuts nothing that is there. -/
theorem mod_cut_width (x : Word) (p w : Nat) : x.toNat / 2 ^ p % 2 ^ min w (64 - p) = x.toNat / 2 ^ p % 2 ^ w := by
  rcases Nat.le_total w (64 - p) with h | h
  · rw [Nat.min_eq_left h]
  · have hlt : x.toNat / 2 ^ p < 2 ^ (64 - p) := by
      apply Nat.div_lt_of_lt_mul
      rw [← Nat.pow_add]
      exact x.isLt.trans_le (Nat.pow_le_pow_right (by decide) (by omega))
    rw [Nat.min_eq_right h, Nat.mod_eq_of_lt hlt, Nat.mod_eq_of_lt (hlt.trans_le (Nat.pow_le_pow_right (by decide) h))]

theorem bfx_eq (x y : Word) : bfx x y = (x >>> (y.toNat % 64)) &&& onesW (y.toNat / 64 % 64 + 1) := by
  apply BitVec.eq_of_toNat_eq
  have hw : y.toNat / 64 % 64 + 1 ≤ 64 := by omega
  have hlt : x.toNat / 2 ^ (y.toNat % 64) % 2 ^ (y.toNat / 64 % 64 + 1) < 2 ^ 64 :=
    (Nat.mod_le _ _).trans_lt ((Nat.div_le_self _ _).trans_lt x.isLt)
  rw [bfx, fieldOf, mod_cut_width, BitVec.toNat_ofNat, Nat.mod_eq_of_lt hlt, BitVec.toNat_and, toNat_onesW _ hw,
    Nat.and_two_pow_sub_one_eq_mod, BitVec.toNat_ushiftRight, Nat.shiftRight_eq_div_pow]

/-- The bits of a number put together from three parts. -/
theorem testBit_three_parts (a b c p w k : Nat) (ha : a < 2 ^ p) (hb : b < 2 ^ w) : (a + b * 2 ^ p + c * 2 ^ (p + w)).testBit k =
    if k < p then a.testBit k else if k < p + w then b.testBit (k - p) else c.testBit (k - (p + w)) := by
  have hsum : a + b * 2 ^ p + c * 2 ^ (p + w) = 2 ^ p * (2 ^ w * c + b) + a := by
    rw [Nat.pow_add]
    ring
  rw [hsum, Nat.testBit_two_pow_mul_add _ ha, Nat.testBit_two_pow_mul_add _ hb]
  by_cases hk : k < p
  · rw [if_pos hk, if_pos hk]
  · rw [if_neg hk, if_neg hk, Nat.sub_sub]
    exact if_congr (by omega) rfl rfl

theorem bfi_eq (x y z : Word) : bfi x y z =
    (z &&& ~~~(onesW (y.toNat / 64 % 64 + 1) <<< (y.toNat % 64))) |||
      ((x <<< (y.toNat % 64)) &&& (onesW (y.toNat / 64 % 64 + 1) <<< (y.toNat % 64))) := by
  have hw : y.toNat / 64 % 64 + 1 ≤ 64 := by omega
  have hp : y.toNat % 64 < 64 := Nat.mod_lt _ (by decide)
  rw [bfi, fieldOf]
  dsimp only
  generalize y.toNat / 64 % 64 + 1 = w at hw
  generalize y.toNat % 64 = p at hp
  apply BitVec.eq_of_getLsbD_eq
  intro k hk
  rw [BitVec.getLsbD_ofNat, testBit_three_parts _ _ _ _ _ _ (Nat.mod_lt _ (Nat.two_pow_pos _)) (Nat.mod_lt _ (Nat.two_pow_pos _))]
  simp only [BitVec.getLsbD_or, BitVec.getLsbD_and, BitVec.getLsbD_not, BitVec.getLsbD_shiftLeft, getLsbD_onesW w _ hw, hk,
    Nat.testBit_mod_two_pow, Nat.testBit_div_two_pow, BitVec.testBit_toNat]
  grind

/-! ### Mix -/

/-- A round of Mix on the word so far, under a key and with the number of the round (05 R106). -/
def mixRound (key x : Word) (n : Nat) : Word :=
  let x := x + (key + BitVec.ofNat 64 n * 0x8F3C1B97E2A65D49)
  (x ^^^ (x >>> 31)) * 0xA4D96E3B5C27F18D

/-- One round of the model's Mix. Written by `delta`: the kernel would compare the two calls' last arguments first, and evaluate the
constant there bit by bit. -/
theorem mixGo_succ (n : Nat) (x y : Word) : mixGo (n + 1) x y =
    mixGo n (((x + y) ^^^ ((x + y) >>> 31)) * 0xA4D96E3B5C27F18D) (y + 0x8F3C1B97E2A65D49) := by
  delta mixGo Nat.brecOn Nat.brecOn.go
  dsimp only

/-- The constant of Mix is added once for each round that has passed. -/
theorem mixGo_eq (n k : Nat) (x key : Word) : mixGo n x (key + BitVec.ofNat 64 k * 0x8F3C1B97E2A65D49) =
    (List.range' k n).foldl (mixRound key) x ^^^ ((List.range' k n).foldl (mixRound key) x >>> 29) := by
  induction n generalizing k x with
  | zero => rfl
  | succ n ih =>
    have hk : key + BitVec.ofNat 64 k * 0x8F3C1B97E2A65D49 + 0x8F3C1B97E2A65D49 =
        key + BitVec.ofNat 64 (k + 1) * 0x8F3C1B97E2A65D49 := by
      rw [BitVec.ofNat_add, add_mul, ← add_assoc, BitVec.one_mul]
    rw [mixGo_succ, hk, ih (k + 1), List.range'_succ, List.foldl_cons, mixRound]

theorem mix_eq (key ctr : Word) : mix key ctr = mixRounds key ctr := by
  have h := mixGo_eq 6 0 ctr key
  rw [BitVec.ofNat_eq_ofNat, BitVec.zero_mul, BitVec.add_zero, ← List.range_eq_range'] at h
  exact h

/-! ### Division -/

theorem remI_eq (x y : Word) : remI x y = if y = 0 then x else BitVec.ofInt 64 (x.toInt - y.toInt * x.toInt.tdiv y.toInt) := by
  rw [remI, Int.tmod_def]
  rfl

theorem remN_eq (x y : Word) : remN x y = if y = 0 then x else BitVec.ofNat 64 (x.toNat - y.toNat * (x.toNat / y.toNat)) := by
  rw [remN, Nat.mod_eq_sub]

end Sys2Proof.Machine
end

section
/-! SUPPORT. The forms that compute a value lane by lane from operands that have arrived (05 R102 to R113). -/

namespace Sys2Proof.Machine

/-! ### Lane by lane -/

/-- A form that gives each lane a value whatever its operands hold. -/
theorem value_computes (i : Instr) (s : State) (h : s.clear i (srcs i)) (m : Mode) (f : Group → Lane → Val) :
    lanewise i m (fun g l => some (f g l, Flags.zero)) s = .next (s.computes i (f s.g)) :=
  lanewise_computes i m _ _ s h fun _ _ => rfl

/-- The same values make the same outcome. -/
theorem next_computes_congr (i : Instr) (s : State) {f r : Lane → Val} (h : ∀ l, f l = r l) :
    (.next (s.computes i f) : Host.Outcome State Fault Refusal) = .next (s.computes i r) := by
  rw [funext h]

/-! ### Linear forms on words -/

theorem linAdd_words (x y : Val) (hx : x.known = true) (hy : y.known = true) : linAdd x y = some (asData (x.word + y.word)) := by
  rw [linAdd, linear_known x hx, linear_known y hy]
  rfl

theorem linSub_words (x y : Val) (hx : x.known = true) (hy : y.known = true) : linSub x y = some (asData (x.word - y.word)) := by
  rw [linSub, linear_known x hx, linear_known y hy]
  rfl

theorem linMul_words (x y : Val) (hx : x.known = true) (hy : y.known = true) : linMul x y = some (asData (x.word * y.word)) := by
  rw [linMul, linear_known x hx, linear_known y hy]
  rfl

theorem linShl_words (x : Val) (n : Word) (hx : x.known = true) : linShl x n = some (asData (x.word <<< (n.toNat % 64))) := by
  rw [linShl, linMul_words x _ hx (dataWord_known _), word_dataWord, mul_one_shl]

theorem linAdd_const (x : Val) (w : Word) (hx : x.known = true) : linAdd x (dataWord w) = some (asData (x.word + w)) := by
  rw [linAdd_words x _ hx (dataWord_known w), word_dataWord]

theorem linMul_const (x : Val) (w : Word) (hx : x.known = true) : linMul x (dataWord w) = some (asData (x.word * w)) := by
  rw [linMul_words x _ hx (dataWord_known w), word_dataWord]

/-- A shift by an amount of at most six bits. -/
theorem linShl_const (x : Val) {n : Nat} (sc : BitVec n) (hn : n ≤ 6) (hx : x.known = true) :
    linShl x (sc.setWidth 64) = some (asData (x.word <<< sc.toNat)) := by
  have hlt : sc.toNat < 2 ^ 6 := sc.isLt.trans_le (Nat.pow_le_pow_right (by decide) hn)
  rw [linShl_words x _ hx, BitVec.toNat_setWidth, Nat.mod_eq_of_lt (hlt.trans (by decide)), Nat.mod_eq_of_lt (b := 64) hlt]

/-! ### The integer forms -/

/-- A linear form gives, on operands that have arrived, the word of its row. -/
theorem linearForm_words (i : Instr) (f : (BitVec 6 → Val) → Option Val) (r : (BitVec 6 → Word) → Word) (hl : linearForm i = some f)
    (hi : integerResult i = some r) (v : BitVec 6 → Val) (hv : ∀ c ∈ srcs i, (v c).known = true) :
    f v = some (asData (r fun c => (v c).word)) := by
  cases i with
  | add b a | compactAdd b a => cases hl; cases hi; exact linAdd_words _ _ (hv _ (by simp [srcs])) (hv _ (by simp [srcs]))
  | sub b a | compactSub b a => cases hl; cases hi; exact linSub_words _ _ (hv _ (by simp [srcs])) (hv _ (by simp [srcs]))
  | mul b a => cases hl; cases hi; exact linMul_words _ _ (hv _ (by simp [srcs])) (hv _ (by simp [srcs]))
  | shl b a =>
    cases hl
    cases hi
    dsimp only
    rw [known_isSym _ (hv b (by simp [srcs]))]
    exact linShl_words _ _ (hv a (by simp [srcs]))
  | addi imm a | compactAddi imm a => cases hl; cases hi; exact linAdd_const _ _ (hv _ (by simp [srcs]))
  | muli imm a => cases hl; cases hi; exact linMul_const _ _ (hv _ (by simp [srcs]))
  | shli sc a | compactShli sc a => cases hl; cases hi; exact linShl_const _ sc (by decide) (hv _ (by simp [srcs]))
  | cinc | cinci | compactCinci => cases hi
  | _ => cases hl

/-- The integer forms that transform no symbol, but for `nop`. -/
theorem strictForm_computes (i : Instr) (s : State) (f : (BitVec 6 → Word) → Word) (hl : linearForm i = none) (hn : i ≠ .nop)
    (hi : integerResult i = some f) (h : s.clear i (srcs i)) : exec i s = .next (s.computes i fun l => asData (f (s.g.words l))) := by
  cases i with
  -- rows that the model writes as the table does
  | mulhN | and | or | xor | andn | shr | sar | rol | ror | minI | maxI | minN | maxN | compactAnd | compactOr | compactXor =>
    cases hi; exact value_computes _ s h _ _
  | andi | ori | xori | shri | sari | compactShri | compactSari => cases hi; exact value_computes _ s h _ _
  | ldi | compactLdi => cases hi; exact value_computes _ s h _ _
  -- rows that the model computes by a function of its own
  | mulhI => cases hi; exact (value_computes _ s h _ _).trans (next_computes_congr _ s fun _ => congrArg asData (mulhI_eq _ _))
  | bfx => cases hi; exact (value_computes _ s h _ _).trans (next_computes_congr _ s fun _ => congrArg asData (bfx_eq _ _))
  | rng => cases hi; exact (value_computes _ s h _ _).trans (next_computes_congr _ s fun _ => congrArg asData (mix_eq _ _))
  | seq | sltI | sltN => cases hi; exact (value_computes _ s h _ _).trans (next_computes_congr _ s fun _ => congrArg asData (boolWord_decide _))
  | sne => cases hi; exact (value_computes _ s h _ _).trans (next_computes_congr _ s fun _ => congrArg asData (boolWord_bne _ _))
  | sltiI | sltiN => cases hi; exact (value_computes _ s h _ _).trans (next_computes_congr _ s fun _ => congrArg asData (boolWord_decide _))
  | sel => cases hi; exact (value_computes _ s h _ _).trans (next_computes_congr _ s fun _ => congrArg asData (ite_not _ _ _))
  | bfi => cases hi; exact (value_computes _ s h _ _).trans (next_computes_congr _ s fun _ => congrArg asData (bfi_eq _ _ _))
  | clz => cases hi; exact (value_computes _ s h _ _).trans (next_computes_congr _ s fun _ => congrArg dataNat (clzGo_eq _ 64))
  | ctz => cases hi; exact (value_computes _ s h _ _).trans (next_computes_congr _ s fun _ => congrArg dataNat (ctzGo_zero _ 64))
  | popc => cases hi; exact (value_computes _ s h _ _).trans (next_computes_congr _ s fun _ => congrArg dataNat (popGo_eq _ 64))
  | sext w =>
    obtain ⟨n, hn, rfl⟩ := Option.map_eq_some_iff.1 hi
    obtain ⟨rfl, h0⟩ := literalWidth_codeWidth w n hn
    exact (value_computes _ s h _ _).trans (next_computes_congr _ s fun _ => congrArg asData (sextW_eq _ _ h0))
  | zext w =>
    obtain ⟨n, hn, rfl⟩ := Option.map_eq_some_iff.1 hi
    obtain ⟨rfl, -⟩ := literalWidth_codeWidth w n hn
    exact (value_computes _ s h _ _).trans (next_computes_congr _ s fun _ => congrArg asData (zextW_eq _ _))
  | nop => exact absurd rfl hn
  | add | sub | mul | shl | addi | muli | shli | compactAdd | compactSub | compactAddi | compactShli => cases hl
  | _ => cases hi

theorem nop_computes (s : State) (h : s.clear .nop (srcs .nop)) :
    exec .nop s = .next (s.computes .nop fun l => asData (s.g.words l 0 + 0)) := by
  refine lanewise_computes .nop affine (fun g l => (linAdd (g.read l 0) (dataWord 0)).map fun v => (v, Flags.zero)) _ s h fun l hl => ?_
  rw [linAdd_const _ _ (clear_known .nop s h l hl 0 (by simp [srcs]))]
  rfl

/-- Every short integer form computes its row. -/
theorem integerForm_computes (i : Instr) (s : State) (f : (BitVec 6 → Word) → Word) (hi : integerResult i = some f)
    (h : s.clear i (srcs i)) : exec i s = .next (s.computes i fun l => asData (f (s.g.words l))) := by
  cases hl : linearForm i with
  | some r =>
    rw [exec_linearForm i s r hl]
    refine lanewise_computes i affine _ _ s h fun l hm => ?_
    rw [linearForm_words i r f hl hi _ (clear_known i s h l hm)]
    rfl
  | none =>
    by_cases hn : i = .nop
    · subst hn
      cases hi
      exact nop_computes s h
    · exact strictForm_computes i s f hl hn hi h

/-! ### Divisions -/

/-- A long form on two words goes past itself with its result awaited for 20 clk (04 R85). -/
theorem intLong_awaits (i : Instr) (s : State) (a b d : BitVec 6) (f : Word → Word → Word) (hd : dst i = some d) (h : s.clear i (srcs i)) :
    intLong i a b d f s =
      (let p : Pend := ⟨s.clk + 20, true, d, s.g.banked d, s.g.results (isUniform i) fun l => asData (f (s.g.words l a) (s.g.words l b)),
        s.g.results (isUniform i) fun _ => Flags.zero, [], true, false⟩
       let g : Group := { s.g with pend := s.g.pend ++ [p] }
       .next (State.past { s with g := g } i s)) := by
  refine issueOn_done i strict (srcs i) _ _ s _ h rfl ?_ (clear_held i s h)
  have hst : s.g.stream d = none := clear_dst_stream i s h d (by simp [dsts, hd])
  unfold longAct
  simp only [hst, List.map_map, Function.comp_def]
  rw [spread_results s.g (isUniform i) fun l => dataWord (f (s.g.read l a).word (s.g.read l b).word),
    spread_results s.g (isUniform i) fun _ => Flags.zero]
  rfl

/-- Settles O13: every short form computes its row, and every division awaits it. -/
theorem integerFormsWriteTheirResults : Obligations.IntegerFormsWriteTheirResults := by
  unfold Obligations.IntegerFormsWriteTheirResults
  refine ⟨integerForm_computes, fun i s a b d f hi h => ?_⟩
  cases i with
  | divI => cases hi; exact intLong_awaits _ s _ _ _ divI rfl h
  | divN => cases hi; exact intLong_awaits _ s _ _ _ divN rfl h
  | remI => cases hi; rw [← funext₂ remI_eq]; exact intLong_awaits _ s _ _ _ remI rfl h
  | remN => cases hi; rw [← funext₂ remN_eq]; exact intLong_awaits _ s _ _ _ remN rfl h
  | _ => cases hi

/-! ### The capability forms -/

theorem symCinc_words (v : Val) (w : Word) (h : v.known = true) : symCinc v w = some (cinc v w) := by
  rcases (Val.known_iff v).1 h with e | e <;> simp [symCinc, e]

theorem copyVal_known (v : Val) (h : v.known = true) : copyVal v = v := by
  rcases (Val.known_iff v).1 h with e | e <;> simp [copyVal, e]

/-- Clearing permissions is a mask over PERM (05 R110). -/
theorem cand_bits (v : Val) (w : Word) :
    (cand v (w.extractLsb' 0 8)).bits = v.bits &&& ~~~((~~~w &&& 0xFF).setWidth 128 <<< 113) := by
  have hff : (0xFF : Word) = onesW 8 := rfl
  apply BitVec.eq_of_getLsbD_eq
  intro k hk
  simp only [getLsbD_cand, BitVec.getLsbD_and, BitVec.getLsbD_not, BitVec.getLsbD_shiftLeft, BitVec.getLsbD_setWidth, hff,
    getLsbD_onesW 8 _ (by decide), BitVec.getLsbD_extractLsb', hk]
  grind

theorem cand_eq (v : Val) (w : Word) : cand v (w.extractLsb' 0 8) =
    ⟨v.bits &&& ~~~((~~~w &&& 0xFF).setWidth 128 <<< 113), if v.tag = .cap then .cap else .data⟩ := by
  rw [← cand_bits]
  unfold cand
  split <;> rfl

theorem cset_eq (v : Val) (w : Word) : cset v w =
    if w.toNat / 2 ^ 56 ≠ 0 ∨ v.tag ≠ .cap then asData w else moveTo v (indexOfAddr (capWalk v.bits) w.toNat) := by
  have hw : w.extractLsb' 56 8 = 0 ↔ w.toNat / 2 ^ 56 = 0 := by
    rw [← BitVec.toNat_inj, BitVec.extractLsb'_toNat, Nat.shiftRight_eq_div_pow]
    have := w.isLt
    simp
    omega
  exact if_congr (or_congr (not_congr hw) Iff.rfl) rfl rfl

theorem cwithin_eq (v : Val) (w : Word) : boolWord (cwithin v w) =
    oneIf (v.tag = .cap ∧ capBase v.bits ≤ index v ∧ (index v : Int) + w.toNat ≤ capTop v.bits) := by
  rw [cwithin, ← Bool.decide_and, boolWord_decide]

/-- A compact `cinci` moves by eight bytes for each unit of q (04 R101). -/
theorem toInt_eightfold (q : BitVec 5) : (BitVec.ofNat 64 (8 * q.toNat)).toInt = (8 * q.toNat : Nat) := by
  have := q.isLt
  rw [BitVec.toInt_eq_toNat_of_lt] <;> rw [BitVec.toNat_ofNat, Nat.mod_eq_of_lt] <;> omega

/-- Settles O14: each form gives the value of its row on operands that have arrived. -/
theorem capabilityFormsWriteTheirResults : Obligations.CapabilityFormsWriteTheirResults := by
  unfold Obligations.CapabilityFormsWriteTheirResults
  intro i s f hi h
  cases i with
  -- rows that the model writes as the table does
  | cbase | ctop | clen | cperm | cwalk | cclr | cdiff | cbound | cwset => cases hi; exact value_computes _ s h _ _
  -- rows that the model writes in other words
  | ctag => cases hi; exact (value_computes _ s h _ _).trans (next_computes_congr _ s fun _ => congrArg asData (boolWord_decide _))
  | ccoord => cases hi; exact value_computes _ s h _ _
  | cand => cases hi; exact (value_computes _ s h _ _).trans (next_computes_congr _ s fun _ => cand_eq _ _)
  | cset => cases hi; exact (value_computes _ s h _ _).trans (next_computes_congr _ s fun _ => cset_eq _ _)
  | cwithin => cases hi; exact (value_computes _ s h _ _).trans (next_computes_congr _ s fun _ => congrArg asData (cwithin_eq _ _))
  -- rows that transform or copy a symbol
  | cinc b a =>
    cases hi
    refine lanewise_computes _ affine (fun g l => (if (g.read l b).isSym then none else symCinc (g.read l a) (g.read l b).word).map
      fun v => (v, Flags.zero)) _ s h fun l hl => ?_
    have hk := clear_known _ s h l hl
    rw [known_isSym _ (hk b (by simp [srcs]))]
    exact congrArg (Option.map _) (symCinc_words _ _ (hk a (by simp [srcs])))
  | cinci imm a =>
    cases hi
    exact lanewise_computes _ affine (fun g l => (symCinc (g.read l a) (simm imm)).map fun v => (v, Flags.zero)) _ s h fun l hl =>
      congrArg (Option.map _) (symCinc_words _ _ (clear_known _ s h l hl a (by simp [srcs])))
  | compactCinci q p =>
    cases hi
    refine lanewise_computes _ affine (fun g l => (symCinc (g.read l (kc p)) (BitVec.ofNat 64 (8 * q.toNat))).map
      fun v => (v, Flags.zero)) _ s h fun l hl => ?_
    rw [symCinc_words _ _ (clear_known _ s h l hl (kc p) (by simp [srcs])), cinc, toInt_eightfold]
    rfl
  | mov a =>
    cases hi
    exact lanewise_computes _ _ (fun g l => some (copyVal (g.read l a), Flags.zero)) _ s h fun l hl =>
      congrArg (fun v => some (v, Flags.zero)) (copyVal_known _ (clear_known _ s h l hl a (by simp [srcs])))
  | compactMov q =>
    cases hi
    exact lanewise_computes _ _ (fun g l => some (copyVal (g.read l (kc q)), Flags.zero)) _ s h fun l hl =>
      congrArg (fun v => some (v, Flags.zero)) (copyVal_known _ (clear_known _ s h l hl (kc q) (by simp [srcs])))
  | _ => cases hi

end Sys2Proof.Machine
end

section
/-! SUPPORT. Instructions that go on whatever their operands hold (03 R64, R71; 05 R105, R124), and those that a symbol holds back (03 R67). -/

namespace Sys2Proof.Machine

section Reached
variable (i : Instr) (m : Mode) (cs : List (BitVec 6)) (s : State) (h : s.reaches i cs) (hpres : s.present cs)
include h hpres

/-- An instruction that is about to issue does what its blocks and the checks after them let it. -/
theorem issueAct_passBlocks (blk : Group → Bool) (pre : State → Option Trap) (body : State → Act) (hp : pre s = none) :
    issueAct i m cs blk pre body s = passBlocks i m cs blk body s := by
  obtain ⟨hs, hheld, hkind, hl, hm, hbp, ha, hr, -, hnw, -, -, hst⟩ := h
  have hall : cs.all s.g.holds = true := by
    rw [List.all_eq_true]
    intro c hc
    simp [Group.holds, hst c (by simp [hc])]
  have hds : (dst i).toList = dsts i := by unfold dsts; cases dst i <;> rfl
  have hpop : popped i body s = body s := by simp [popped, hheld]
  unfold issueAct
  simp only [hs, Bool.false_eq_true, if_false, decodeTrap_none i pre s hkind hl hp hm, hbp, absent_false_of_ne _ _ _ hpres, hds, ha, hr, hnw]
  unfold passBlocks
  simp only [hall, if_true, hpop]

/-- A live symbol in a source of an executing lane holds back an instruction that takes no symbol (03 R67). -/
theorem issueOn_symbol (pre : State → Option Trap) (body : State → Act) (hp : pre s = none)
    (hsym : ∃ l ∈ s.g.execs (isUniform i), ∃ c ∈ cs, (s.g.read l c).isSym = true) :
    issueOn cs i strict pre body s = .next (s.waits .symbol) := by
  obtain ⟨l, hl, c, hc, hlc⟩ := hsym
  have hany : s.g.anySym false (isUniform i) cs = true := by
    refine List.any_eq_true.2 ⟨l, ?_, List.any_eq_true.2 ⟨c, hc, hlc⟩⟩
    rw [if_neg (by decide)]
    split
    · exact execs_subset_acts _ _ l hl
    · exact hl
  have hb : s.g.block i strict cs noBlock = some .symbol := by simp [Group.block, strict, hany]
  unfold issueOn issueBlk
  rw [issueAct_passBlocks i strict cs s h hpres noBlock pre body hp, passBlocks, hb, finish_wait]

end Reached

theorem lateTrap_poisonOk (i : Instr) (m : Mode) (cs : List (BitVec 6)) (s : State) (h : s.reaches i cs) (hm : m.poisonOk = true) :
    lateTrap i m cs s = none := by
  obtain ⟨-, -, -, -, -, -, -, -, -, -, hrun, hrole, -⟩ := h
  have h1 : (readsLatch i && decide (16 ≤ s.g.runLen)) = false := by
    cases hb : readsLatch i
    · rfl
    · exact decide_eq_false (Nat.not_le.2 (hrun hb))
  have h2 : (s.g.isG && !roleAllows s.g.role (classOf i)) = false := by
    cases hb : s.g.isG
    · rfl
    · simp [hrole hb]
  unfold lateTrap
  rw [if_neg (by simp [h1]), if_neg (by simp [h2]), if_pos hm]

/-- A form that takes symbols and poison as they are: one that only looks at its operands, or that copies them lane by lane. -/
theorem lanewise_accepts (i : Instr) (m : Mode) (f : Group → Lane → Val) (s : State) (h : s.reaches i (srcs i))
    (hpres : s.present (srcs i)) (hstep : s.unstepped) (hm : m.poisonOk = true) (hu : m.affine = true → isUniform i = false) :
    lanewise i m (fun g l => some (f g l, Flags.zero)) s = .next (s.computes i (f s.g)) := by
  have hlate := lateTrap_poisonOk i m (srcs i) s h hm
  have hact := issueAct_passBlocks i m (srcs i) s h hpres
  obtain ⟨-, hheld, -, -, -, -, -, -, hbd, -, -, -, hst⟩ := h
  have hdst : ∀ c ∈ dsts i, s.g.stream c = none := fun c hc => hst c (by simp [hc])
  have hpop := popsSym_false s.g (srcs i) fun c hc => hst c (by simp [hc])
  have hblk := lanesBlock_false i (fun g l => some (f g l, Flags.zero)) s.g hdst fun l _ => ⟨_, rfl⟩
  have hblock : s.g.block i m (srcs i) (lanesBlock i fun g l => some (f g l, Flags.zero)) = none := by
    cases ha : m.affine with
    | true => simp [Group.block, ha, hu ha, hpop, hblk, hbd]
    | false => simp [Group.block, ha, hm, hblk, hbd]
  have hb := laneAct_done i (fun g l => some (f g l, Flags.zero)) (fun l => (f s.g l, Flags.zero)) s hdst fun _ _ => rfl
  simp only at hb
  rw [gets_zero _ _ _ _ _ fun _ => rfl] at hb
  unfold lanewise issueBlk
  rw [hact _ _ _ rfl, passBlocks, hblock]
  dsimp only
  rw [hlate]
  dsimp only
  rw [hb]
  exact congrArg _ (finish_done i s _ hstep ((gets_held _ _ _ _).trans hheld))

theorem symState_eq (v : Val) : symState v = asData (if v.isSym then 1 else if v.tag = .poison then 2 else 0) := by
  unfold symState Val.isSym Val.record
  cases v.tag <;> rfl

theorem copyVal_eq (v : Val) : copyVal v = match v.tag with
    | .sym r => ⟨v.bits, .sym ⟨r.id, none, r.form⟩⟩
    | _ => v := by
  unfold copyVal
  cases v.tag <;> rfl

/-- Settles O11: `sym.wait` passes or is held back, `sym.test` and `mov` take symbols and poison as they are. -/
theorem symbolsAreTestedAndCopied : Obligations.SymbolsAreTestedAndCopied := by
  unfold Obligations.SymbolsAreTestedAndCopied
  refine ⟨fun i s hi => ?_, fun a d u s h hpres hstep => ?_, fun a d n s h hpres hstep => ?_⟩
  · have hexec : exec i s = issue i strict (fun _ => none) .done s := by
      rcases hi with ⟨a, u, rfl⟩ | ⟨p, rfl⟩ <;> rfl
    rw [hexec]
    refine ⟨fun hc => ?_, fun hr hpres hsym => ?_⟩
    · exact issueOn_done i strict (srcs i) _ _ s s hc rfl rfl (clear_held i s hc)
    · exact issueOn_symbol i (srcs i) s hr hpres _ _ rfl hsym
  · refine (lanewise_accepts (.symTest a d u) ⟨false, true, false⟩ (fun g l => symState (g.read l a)) s h hpres hstep rfl nofun).trans ?_
    exact next_computes_congr _ s fun l => symState_eq _
  · refine (lanewise_accepts (.mov a n d false) ⟨true, true, false⟩ (fun g l => copyVal (g.read l a)) s h hpres hstep rfl fun _ => rfl).trans ?_
    exact next_computes_congr _ s fun l => copyVal_eq _

end Sys2Proof.Machine
end

section
/-! SUPPORT. Branches and jumps (05 R119 to R123; 04 R101): where the lanes that execute agree, and the checks of a jump's target. -/

namespace Sys2Proof.Machine

/-! ### The forms -/

/-- What executes a branch of the table. -/
theorem exec_branchForm (i : Instr) (s : State) (a d : BitVec 6) (off : Int) (c : Word → Word → Bool)
    (h : branchForm i = some (a, d, off, c)) : exec i s = branch i a d (BitVec.ofInt 64 off) c s := by
  have hge : (fun x y : Word => !(x.slt y)) = fun x y => decide (y.toInt ≤ x.toInt) := by
    funext x y
    simp [BitVec.slt, ← decide_not]
  have hgen : (fun x y : Word => !(x.ult y)) = fun x y => decide (y.toNat ≤ x.toNat) := by
    funext x y
    simp [BitVec.ult, ← decide_not]
  have hshort (o : BitVec 5) : BitVec.ofNat 64 (2 * o.toNat) = BitVec.ofInt 64 (2 * (o.toNat : Int)) :=
    (BitVec.ofInt_natCast 64 (2 * o.toNat)).symm
  unfold branchForm at h
  split at h <;> cases h
  case h_4 imm u => exact (show exec _ s = execBGe imm a d u s from rfl).trans (by rw [execBGe, hge]; rfl)
  case h_6 imm u => exact (show exec _ s = execBGen imm a d u s from rfl).trans (by rw [execBGen, hgen]; rfl)
  case h_7 o p => exact (show exec _ s = execBZ o p s from rfl).trans (by rw [execBZ, hshort])
  case h_8 o p => exact (show exec _ s = execBNz o p s from rfl).trans (by rw [execBNz, hshort])
  all_goals rfl

/-- What executes a jump of the table. -/
theorem exec_jumpReg (i : Instr) (s : State) (a : BitVec 6) (link exits : Bool) (h : jumpReg i = some (a, link, exits)) :
    exec i s = jumpForm i a link exits s := by
  unfold jumpReg at h
  split at h <;> cases h <;> rfl

/-- A jump that links writes k55 (05 R120, R121). -/
theorem dsts_link (i : Instr) (a : BitVec 6) (exits : Bool) (h : jumpReg i = some (a, true, exits)) : 55 ∈ dsts i := by
  unfold jumpReg at h
  split at h <;> cases h
  exact List.mem_singleton_self 55

/-- Settles O6: lanes that agree on the condition agree on the target. -/
theorem branchesGoWhereTheirConditionSays : Obligations.BranchesGoWhereTheirConditionSays := by
  unfold Obligations.BranchesGoWhereTheirConditionSays
  intro i s a d off c b hform hs hacts hagree
  rw [exec_branchForm i s a d off c hform]
  exact branch_agree i a d _ c b s hs hacts hagree

/-! ### Jumps and calls -/

/-- The link of a call: k55 holds the return point in every active lane. -/
theorem putReg_link (i : Instr) (s : State) (k : State → Act) (h : s.g.stream 55 = none) :
    putReg i 55 (s.g.acts.map fun l => (l.no, withCursor s.g.codeCap (s.g.pc + BitVec.ofNat 64 i.len))) s k = k (s.linked i) := by
  simp only [putReg, h]
  rfl

theorem linked_held (s : State) (i : Instr) : (s.linked i).g.held = s.g.held := write_held _ _ _

/-- Settles O7: `j` and `call` know their target without an operand. -/
theorem jumpsAndCallsAreRelative : Obligations.JumpsAndCallsAreRelative := by
  unfold Obligations.JumpsAndCallsAreRelative
  refine ⟨fun imm s h => ?_, fun lo hi s h => ?_, fun imm s h => ?_⟩
  · exact issueOn_jump (.j imm) strict [] _ _ s s _ h rfl rfl (clear_held _ s h)
  · exact issueOn_jump (.jS lo hi) strict [] _ _ s s _ h rfl rfl (clear_held _ s h)
  · have hst : s.g.stream 55 = none := clear_dst_stream (.call imm) s h 55 (List.mem_singleton_self 55)
    exact issueOn_jump (.call imm) strict [] _ _ s (s.linked (.call imm)) _ h rfl (putReg_link (.call imm) s _ hst)
      ((linked_held _ _).trans (clear_held _ s h))

/-! ### Jumps through a capability -/

theorem strays_agree (ts : List (Nat × Target)) (t : Target) (h : ∀ p ∈ ts, p.2 = t) : strays ts = [] := by
  cases ts with
  | nil => rfl
  | cons p r =>
    refine List.filter_eq_nil_iff.2 fun q hq => ?_
    simp [h q hq, show p.2 = t from h p (by simp)]

theorem transferTrap_agree (s : State) (ts : List (Nat × Target)) (t : Target) (h : ∀ p ∈ ts, p.2 = t) : s.transferTrap ts = none := by
  simp [State.transferTrap, strays_agree ts t h]

/-- A flat executable capability with an even cursor passes the checks of a jump. -/
theorem jumpTrap_none (g : Group) (a : BitVec 6) (l : Lane) (ht : (g.read l a).tag = .cap) (hx : capHas (g.read l a).bits .x = true)
    (hw : capWalk (g.read l a).bits = 0) (he : (capCursor (g.read l a).bits).getLsbD 0 = false) : jumpTrap g a l = none := by
  unfold jumpTrap
  rw [if_neg (by simp [ht]), if_neg (by simp [hx, hw]), if_neg (by simp only [he, Bool.false_eq_true, not_false_eq_true])]

/-- The targets of a jump whose capabilities agree. -/
def jumpTargets (caps : List (Nat × Val)) : List (Nat × Target) :=
  caps.map fun p => (p.1, ⟨p.2, (capCursor p.2.bits).setWidth 64⟩)

theorem jumpTargets_agree (caps : List (Nat × Val)) (v : Val) (h : ∀ p ∈ caps, p.2 = v) :
    ∀ p ∈ jumpTargets caps, p.2 = ⟨v, (capCursor v.bits).setWidth 64⟩ := by
  intro p hp
  obtain ⟨q, hq, rfl⟩ := List.mem_map.1 hp
  simp [h q hq]

/-- A jump that no lane ends goes through the capability its lanes agree on, after the link (05 R121). -/
theorem jumpAct_agree (i : Instr) (a : BitVec 6) (link exits : Bool) (v : Val) (s : State) (hn : s.g.acts ≠ [])
    (hst : link = true → s.g.stream 55 = none) (hv : ∀ l ∈ s.g.execs (isUniform i), s.g.read l a = v) (ht : v.tag = .cap)
    (hx : capHas v.bits .x = true) (hw : capWalk v.bits = 0) (he : (capCursor v.bits).getLsbD 0 = false)
    (hexit : exits = true → isExit v = false) :
    jumpAct i a link exits s =
      (let s1 := if link then s.linked i else s
       .jump { s1 with g := { s1.g with codeCap := v } } ((capCursor v.bits).setWidth 64)) := by
  have hno : (s.g.execs (isUniform i)).findSome? (jumpTrap s.g a) = none := by
    refine List.findSome?_eq_none_iff.2 fun l hl => ?_
    have := hv l hl
    exact jumpTrap_none s.g a l (by rw [this, ht]) (by rw [this, hx]) (by rw [this, hw]) (by rw [this, he])
  have hcaps := results_eq s.g (isUniform i) (fun l => s.g.read l a) v hv
  have hne := results_ne_nil s.g (isUniform i) (fun l => s.g.read l a) hn
  rw [← spread_results] at hcaps hne
  unfold jumpAct
  simp only [hno]
  generalize s.g.spread (isUniform i) ((s.g.execs (isUniform i)).map fun l => (l.no, s.g.read l a)) = caps at hcaps hne ⊢
  have hend : (if exits then (caps.filter fun p => isExit p.2).map (·.1) else []) = [] := by
    cases exits with
    | false => rfl
    | true => 
      have hnone : caps.filter (fun p => isExit p.2) = [] := List.filter_eq_nil_iff.2 fun p hp => by simp [hcaps p hp, hexit rfl]
      simp [hnone]
  have hgo := jumpTargets_agree caps v hcaps
  have htr (s1 : State) := transferAct_agree i (jumpTargets caps) s s1 _ (by simpa [jumpTargets] using hne) hgo
  have hfilter : caps.filter (fun _ => true) = caps := List.filter_true caps
  simp only [hend, List.contains_nil, Bool.not_false, hfilter, List.isEmpty_nil, if_true]
  cases link with
  | false => exact htr s
  | true =>
    have hnot := transferTrap_agree s (jumpTargets caps) _ hgo
    simp only [jumpTargets] at hnot
    simp only [if_true, hnot, putReg_link i s _ (hst rfl)]
    exact htr (s.linked i)

/-- A jump traps on the first check that the capability of its lowest executing lane fails. -/
theorem jumpAct_trap (i : Instr) (a : BitVec 6) (link exits : Bool) (s : State) (l : Lane) (r : List Lane) (t : Trap)
    (hl : s.g.execs (isUniform i) = l :: r) (h : jumpTrap s.g a l = some t) : jumpAct i a link exits s = .trap s t := by
  unfold jumpAct
  simp [hl, h]

theorem results_fst {α : Type} (g : Group) (u : Bool) (f : Lane → α) : (g.results u f).map (·.1) = g.acts.map (·.no) := by
  unfold Group.results
  cases u with
  | false => simp
  | true => cases g.acts <;> simp

/-- An exit capability with an even cursor passes the checks of a jump. -/
theorem jumpTrap_exit (g : Group) (a : BitVec 6) (l : Lane) (h : isExit (g.read l a) = true)
    (he : (capCursor (g.read l a).bits).getLsbD 0 = false) : jumpTrap g a l = none := by
  simp only [isExit, Bool.and_eq_true, decide_eq_true_eq, beq_iff_eq] at h
  obtain ⟨⟨⟨htag, hperm⟩, -⟩, hwalk⟩ := h
  exact jumpTrap_none g a l htag (by rw [capHas, hperm]; decide) hwalk he

/-- A `ret` whose lanes all hold an exit capability ends them once what they await has arrived (05 R122, R123). -/
theorem jumpAct_exit (i : Instr) (a : BitVec 6) (v : Val) (s : State) (hn : s.g.acts ≠ [])
    (hv : ∀ l ∈ s.g.execs (isUniform i), s.g.read l a = v) (he : isExit v = true) (hev : (capCursor v.bits).getLsbD 0 = false) :
    jumpAct i a false true s =
      if s.settled (s.g.acts.map (·.no)) then
        let s1 := s.endLanes (s.g.acts.map (·.no)) []
        if s1.g.gid ≠ s.g.gid then .over s1 else .jump s1 s1.g.pc
      else .wait s .fence := by
  have hno : (s.g.execs (isUniform i)).findSome? (jumpTrap s.g a) = none := by
    refine List.findSome?_eq_none_iff.2 fun l hl => jumpTrap_exit s.g a l ?_ ?_
    · rw [hv l hl, he]
    · rw [hv l hl, hev]
  have hcaps := results_eq s.g (isUniform i) (fun l => s.g.read l a) v hv
  have hfst := results_fst s.g (isUniform i) (fun l => s.g.read l a)
  rw [← spread_results] at hcaps hfst
  unfold jumpAct
  simp only [hno]
  generalize s.g.spread (isUniform i) ((s.g.execs (isUniform i)).map fun l => (l.no, s.g.read l a)) = caps at hcaps hfst ⊢
  have hend : (caps.filter fun p => isExit p.2).map (·.1) = s.g.acts.map (·.no) := by
    rw [List.filter_eq_self.2 fun p hp => by rw [hcaps p hp, he], hfst]
  have hgo : (caps.filter fun p => !(s.g.acts.map (·.no)).contains p.1) = [] := by
    refine List.filter_eq_nil_iff.2 fun p hp => ?_
    have : p.1 ∈ s.g.acts.map (·.no) := hfst ▸ List.mem_map_of_mem hp
    simpa using this
  have hne : (s.g.acts.map (·.no)).isEmpty = false := by simpa using hn
  simp only [if_true, hend, hgo, hne, Bool.false_eq_true, if_false, List.map_nil, List.isEmpty_nil]
  cases s.settled (s.g.acts.map (·.no)) <;> rfl

/-- Settles O8: the jump that the lanes agree on, its checks in their order, and the end of the lanes at an exit capability. -/
theorem jumpsThroughACapability : Obligations.JumpsThroughACapability := by
  unfold Obligations.JumpsThroughACapability
  refine ⟨?_, ?_, ?_⟩
  · intro i s a link exits v hform h hn hv ht hx hw he hexit
    have hst : link = true → s.g.stream 55 = none := fun hl =>
      clear_dst_stream i s h 55 (dsts_link i a exits (hl ▸ hform))
    rw [exec_jumpReg i s a link exits hform]
    refine issueOn_jump i strict (srcs i) _ _ s _ _ h rfl (jumpAct_agree i a link exits v s hn hst hv ht hx hw he hexit) ?_
    cases link with
    | false => exact clear_held i s h
    | true => exact (linked_held s i).trans (clear_held i s h)
  · intro i s a link exits l r hform h hk hl
    have traps (t : Trap) (ht : jumpTrap s.g a l = some t) : exec i s = .next (s.takeTrap t (readsLatch i)).tick := by
      rw [exec_jumpReg i s a link exits hform]
      exact issueOn_trap i strict (srcs i) _ _ s t h hk rfl (jumpAct_trap i a link exits s l r t hl ht)
    refine ⟨fun ht => traps _ ?_, fun ht hx => traps _ ?_, fun ht hx hw ho => traps _ ?_⟩
    · exact if_pos ht
    · exact (if_neg (not_not_intro ht)).trans (if_pos (by simpa using hx))
    · exact (if_neg (not_not_intro ht)).trans ((if_neg (by simp [hx, hw])).trans (if_pos ho))
  · intro i s a v hform h hn hv he hev
    have hact := jumpAct_exit i a v s hn hv he hev
    rw [exec_jumpReg i s a false true hform]
    refine ⟨fun hs => ?_, fun hs hgid => ?_⟩
    · exact issueOn_wait i strict (srcs i) _ _ s .fence h.1 h.2.1 rfl (hact.trans (by simp [hs]))
    · exact issueOn_over i strict (srcs i) _ _ s _ h.1 h.2.1 rfl (hact.trans (by simp [hs, hgid]))

end Sys2Proof.Machine
end

section
/-! SUPPORT. A branch whose lanes disagree (05 R123; 07 R160, R162): with two targets the lanes that leave the lowest one's all go to the
other, which waits on each slice's stack. -/

namespace Sys2Proof.Machine

/-! ### Targets lane by lane -/

/-- The targets of some lanes under one code capability. -/
def targetsOf (code : Val) (ls : List Lane) (tgt : Lane → Word) : List (Nat × Target) := ls.map fun l => (l.no, ⟨code, tgt l⟩)

theorem target_bne (code : Val) (x y : Word) : ((⟨code, x⟩ : Target) != ⟨code, y⟩) = (x != y) := by
  rw [Bool.eq_iff_iff]
  simp

theorem target_beq (code : Val) (x y : Word) : ((⟨code, x⟩ : Target) == ⟨code, y⟩) = (x == y) := by
  rw [Bool.eq_iff_iff]
  simp

theorem strays_targetsOf (code : Val) (l0 : Lane) (t : List Lane) (tgt : Lane → Word) :
    strays (targetsOf code (l0 :: t) tgt) = targetsOf code ((l0 :: t).filter fun l => tgt l != tgt l0) tgt := by
  have h : strays (targetsOf code (l0 :: t) tgt) =
      (targetsOf code (l0 :: t) tgt).filter fun p => p.2 != (⟨code, tgt l0⟩ : Target) := rfl
  rw [h, targetsOf, List.filter_map]
  simp only [Function.comp_def, target_bne]
  rfl

theorem eraseDups_constant {α : Type} [DecidableEq α] (v : α) (l : List α) (hn : l ≠ []) (h : ∀ x ∈ l, x = v) : l.eraseDups = [v] := by
  cases l with
  | nil => exact absurd rfl hn
  | cons x t =>
    have hx : x = v := h x (by simp)
    have ht : t.filter (fun y => !y == x) = [] := List.filter_eq_nil_iff.2 fun y hy => by simp [hx, h y (by simp [hy])]
    rw [List.eraseDups_cons, ht, hx]
    rfl

/-- The path that waits while the lowest lane's runs, where the lanes have two targets (07 R160). -/
theorem pathsOf_two (code : Val) (l0 m : Lane) (t : List Lane) (tgt : Lane → Word) (sl : Slice) (hm : m ∈ t) (hne : tgt m ≠ tgt l0)
    (h2 : ∀ l, tgt l ≠ tgt l0 → tgt l = tgt m) :
    pathsOf (targetsOf code (l0 :: t) tgt) sl =
      [⟨false, tgt m, code, lmaskOf sl.idx (((l0 :: t).filter fun l => tgt l != tgt l0).map (·.no)), sl.fmt.extractLsb' 0 6, sl.token⟩] := by
  have hone : ((strays (targetsOf code (l0 :: t) tgt)).map (·.2)).eraseDups = [⟨code, tgt m⟩] := by
    rw [strays_targetsOf]
    refine eraseDups_constant _ _ ?_ ?_
    · have : m ∈ (l0 :: t).filter fun l => tgt l != tgt l0 := List.mem_filter.2 ⟨by simp [hm], by simpa using hne⟩
      simp only [targetsOf, ne_eq, List.map_eq_nil_iff]
      exact List.ne_nil_of_mem this
    · intro x hx
      simp only [targetsOf, List.map_map, List.mem_map, List.mem_filter, bne_iff_ne, Function.comp_apply] at hx
      obtain ⟨l, ⟨-, hl⟩, rfl⟩ := hx
      rw [h2 l hl]
  have hmask : ((targetsOf code (l0 :: t) tgt).filter fun p => p.2 == (⟨code, tgt m⟩ : Target)).map (·.1) =
      ((l0 :: t).filter fun l => tgt l != tgt l0).map (·.no) := by
    rw [targetsOf, List.filter_map, List.map_map]
    refine congrArg _ (List.filter_congr fun l _ => ?_)
    rw [Function.comp_apply, target_beq, Bool.eq_iff_iff, beq_iff_eq, bne_iff_ne]
    exact ⟨fun h => h ▸ hne, h2 l⟩
  unfold pathsOf
  rw [hone]
  exact congrArg (fun ns => [(⟨false, tgt m, code, lmaskOf sl.idx ns, sl.fmt.extractLsb' 0 6, sl.token⟩ : StackEntry)]) hmask

/-- A push of one entry per slice within the limit and above the spill region (07 R162). -/
theorem push_one (s : State) (per : Slice → List StackEntry) (e : Slice → StackEntry) (he : ∀ sl, per sl = [e sl])
    (h : ∀ sl ∈ s.g.slices, sl.stack.length < s.g.limit ∧ sl.stack.length < 16) :
    s.push per = some { s with g := { s.g with slices := s.g.slices.map fun sl => { sl with stack := e sl :: sl.stack } } } := by
  obtain rfl : per = fun sl => [e sl] := funext he
  have hover : (s.g.slices.any fun sl => decide (s.g.limit < sl.stack.length + [e sl].length)) = false := by
    rw [List.any_eq_false]
    intro sl hsl
    have := (h sl hsl).1
    simp only [List.length_singleton, decide_eq_true_eq]
    omega
  have hmem : ∀ (sls : List Slice) (m : Memory), (∀ sl ∈ sls, sl.stack.length < 16) →
      sls.foldl (fun m sl => spillWrites s.g.core sl.spillAt sl.stack.length [e sl] m) m = m := by
    intro sls
    induction sls with
    | nil => exact fun _ _ => rfl
    | cons sl r ih =>
      intro m hs
      have : ¬16 ≤ sl.stack.length := Nat.not_le.2 (hs sl (by simp))
      simp only [List.foldl_cons, spillWrites, this, if_false]
      exact ih m fun x hx => hs x (by simp [hx])
  unfold State.push
  simp only [hover, Bool.false_eq_true, if_false]
  rw [hmem _ _ fun sl hsl => (h sl hsl).2]
  rfl

/-! ### The transfer -/

theorem slicesAgree_false (code : Val) (ls : List Lane) (tgt : Lane → Word)
    (h : ∃ x ∈ ls, ∃ y ∈ ls, x.no / 4 = y.no / 4 ∧ tgt x ≠ tgt y) : slicesAgree (targetsOf code ls tgt) = false := by
  obtain ⟨x, hx, y, hy, hno, hne⟩ := h
  refine List.all_eq_false.2 ⟨(x.no, ⟨code, tgt x⟩), List.mem_map.2 ⟨x, hx, rfl⟩, fun hall => ?_⟩
  have := List.all_eq_true.1 hall (y.no, ⟨code, tgt y⟩) (List.mem_map.2 ⟨y, hy, rfl⟩)
  simp [hno, hne] at this

/-- Outside an open split a divergence traps with the mask of the lanes that leave the lowest one's target (05 R123). -/
theorem transferAct_outside (i : Instr) (code : Val) (l0 m : Lane) (t : List Lane) (tgt : Lane → Word) (s0 s : State) (hm : m ∈ t)
    (hne : tgt m ≠ tgt l0) (ho : s.g.openSplit = false) :
    transferAct i (targetsOf code (l0 :: t) tgt) s0 s =
      .trap s (trap 0x20 (BitVec.ofNat 64 (((l0 :: t).filter fun l => tgt l != tgt l0).foldl (fun n l => n ||| 2 ^ l.no) 0))) := by
  have hmem : m ∈ (l0 :: t).filter fun l => tgt l != tgt l0 := List.mem_filter.2 ⟨by simp [hm], by simpa using hne⟩
  have hst : (strays (targetsOf code (l0 :: t) tgt)).isEmpty = false := by
    rw [strays_targetsOf, targetsOf, List.isEmpty_eq_false_iff]
    simpa only [ne_eq, List.map_eq_nil_iff] using List.ne_nil_of_mem hmem
  have htrap : s.transferTrap (targetsOf code (l0 :: t) tgt) =
      some (trap 0x20 (BitVec.ofNat 64 (((l0 :: t).filter fun l => tgt l != tgt l0).foldl (fun n l => n ||| 2 ^ l.no) 0))) := by
    unfold State.transferTrap
    rw [hst, ho, strays_targetsOf, targetsOf, List.foldl_map]
    rfl
  unfold transferAct
  rw [htrap]
  rfl

/-- The group that follows its lowest lane, with the other path on each slice's stack. -/
def Group.follows (g : Group) (tgt : Lane → Word) (l0 m : Lane) : Group :=
  { g with
    lanes := g.lanes.map fun l => { l with active := l.active && tgt l == tgt l0 }
    slices := g.slices.map fun sl => { sl with stack :=
      ⟨false, tgt m, g.codeCap, lmaskOf sl.idx ((g.acts.filter fun l => tgt l != tgt l0).map (·.no)), sl.fmt.extractLsb' 0 6,
        sl.token⟩ :: sl.stack } }

/-- The lanes of a group that stay active are those of its active ones that go to the target. -/
theorem stays_active (g : Group) (tgt : Lane → Word) (pc : Word) (hnd : (g.lanes.map (·.no)).Nodup) (l : Lane) (hl : l ∈ g.lanes) :
    (l.active && (targetsOf g.codeCap g.acts tgt).any fun p => p.1 == l.no && p.2 == (⟨g.codeCap, pc⟩ : Target)) =
      (l.active && tgt l == pc) := by
  cases ha : l.active with
  | false => rfl
  | true =>
    have hacts : l ∈ g.acts := List.mem_filter.2 ⟨hl, ha⟩
    rw [Bool.eq_iff_iff]
    simp only [targetsOf, List.any_map, Bool.true_and, List.any_eq_true, Function.comp_apply, Bool.and_eq_true, beq_iff_eq,
      Target.mk.injEq, true_and]
    refine ⟨fun ⟨x, hx, hno, ht⟩ => ?_, fun ht => ⟨l, hacts, rfl, ht⟩⟩
    have : x = l := List.inj_on_of_nodup_map hnd (List.mem_filter.1 hx).1 hl hno
    exact this ▸ ht

/-- A divergence within a slice whose paths there is room for goes on at the first target. -/
theorem transferAct_paths (i : Instr) (ts : List (Nat × Target)) (n : Nat) (t0 : Target) (r : List (Nat × Target)) (s0 s s1 : State)
    (hts : ts = (n, t0) :: r) (htrap : s.transferTrap ts = none) (hst : (strays ts).isEmpty = false) (hsl : slicesAgree ts = false)
    (hpush : s.push (pathsOf ts) = some s1) :
    transferAct i ts s0 s =
      .jump { s1 with g := { s1.g with
        lanes := s1.g.lanes.map fun l => { l with active := l.active && (ts.any fun p => p.1 == l.no && p.2 == t0) }
        codeCap := t0.code } } t0.pc := by
  subst hts
  unfold transferAct
  simp only [htrap, hst, hsl, hpush, Bool.false_eq_true, if_false]

/-- Inside an open split a divergence within a slice goes on at the lowest lane's target, and the other path waits (07 R160). -/
theorem transferAct_inside (i : Instr) (l0 m : Lane) (t : List Lane) (tgt : Lane → Word) (s0 s : State) (hacts : s.g.acts = l0 :: t)
    (hm : m ∈ t) (hne : tgt m ≠ tgt l0) (h2 : ∀ l, tgt l ≠ tgt l0 → tgt l = tgt m) (ho : s.g.openSplit = true)
    (hs : ∃ x ∈ s.g.acts, ∃ y ∈ s.g.acts, x.no / 4 = y.no / 4 ∧ tgt x ≠ tgt y)
    (hlim : ∀ sl ∈ s.g.slices, sl.stack.length < s.g.limit ∧ sl.stack.length < 16) (hnd : (s.g.lanes.map (·.no)).Nodup) :
    transferAct i (targetsOf s.g.codeCap s.g.acts tgt) s0 s = .jump { s with g := s.g.follows tgt l0 m } (tgt l0) := by
  have hmem : m ∈ s.g.acts.filter fun l => tgt l != tgt l0 := List.mem_filter.2 ⟨by simp [hacts, hm], by simpa using hne⟩
  have hst : (strays (targetsOf s.g.codeCap s.g.acts tgt)).isEmpty = false := by
    rw [hacts, strays_targetsOf, targetsOf, List.isEmpty_eq_false_iff, ← hacts]
    simpa only [ne_eq, List.map_eq_nil_iff] using List.ne_nil_of_mem hmem
  have hsl := slicesAgree_false s.g.codeCap s.g.acts tgt hs
  have hpush := push_one s (pathsOf (targetsOf s.g.codeCap s.g.acts tgt)) _
    (fun sl => by rw [hacts]; exact pathsOf_two s.g.codeCap l0 m t tgt sl hm hne h2) hlim
  have htrap : s.transferTrap (targetsOf s.g.codeCap s.g.acts tgt) = none := by
    unfold State.transferTrap
    rw [hst, ho, hsl, hpush]
    rfl
  have hcons : targetsOf s.g.codeCap s.g.acts tgt = (l0.no, ⟨s.g.codeCap, tgt l0⟩) :: targetsOf s.g.codeCap t tgt := by rw [hacts]; rfl
  have hlanes : (s.g.lanes.map fun l => ({ l with active := l.active &&
        ((targetsOf s.g.codeCap s.g.acts tgt).any fun p => p.1 == l.no && p.2 == (⟨s.g.codeCap, tgt l0⟩ : Target)) } : Lane)) =
      s.g.lanes.map fun l => { l with active := l.active && tgt l == tgt l0 } :=
    List.map_congr_left fun l hl => by rw [stays_active s.g tgt (tgt l0) hnd l hl]
  refine (transferAct_paths i _ _ _ _ s0 s _ hcons htrap hst hsl hpush).trans ?_
  simp only [hlanes, ← hacts]
  rfl

/-- The two targets of a branch. -/
theorem branchTarget_two (i : Instr) (g : Group) (a d : BitVec 6) (off : Int) (c : Word → Word → Bool) (l0 m l : Lane)
    (hm : branchTarget i g a d off c m ≠ branchTarget i g a d off c l0) (hl : branchTarget i g a d off c l ≠ branchTarget i g a d off c l0) :
    branchTarget i g a d off c l = branchTarget i g a d off c m := by
  unfold branchTarget at hm hl ⊢
  grind

/-- A branch is the transfer of its active lanes to its targets. -/
theorem branch_transfer (i : Instr) (s : State) (a d : BitVec 6) (off : Int) (c : Word → Word → Bool) (hu : isUniform i = false) :
    branch i a d (BitVec.ofInt 64 off) c s =
      issue i strict (fun _ => none) (fun s => transferAct i (targetsOf s.g.codeCap s.g.acts (branchTarget i s.g a d off c)) s s) s := by
  unfold branch
  refine congrArg (fun body => issue i strict (fun _ => none) body s) (funext fun s => ?_)
  simp only [hu, Group.spread, Group.execs, Bool.false_eq_true, if_false]
  rfl

/-- Settles O9: a branch has two targets, so the lanes that leave the lowest one's all take the other. -/
theorem divergenceFollowsTheLowestLane : Obligations.DivergenceFollowsTheLowestLane := by
  unfold Obligations.DivergenceFollowsTheLowestLane
  intro i s a d off c l0 m t hform h hu hacts hm tgt hne
  rw [exec_branchForm i s a d off c hform, branch_transfer i s a d off c hu]
  refine ⟨fun ho => ?_, fun ho hs hlim hnd => ?_⟩
  · refine issueOn_trap i strict (srcs i) _ _ s _ h.1 h.2.1 rfl ?_
    rw [hacts]
    exact transferAct_outside i s.g.codeCap l0 m t tgt s s hm hne ho
  · have hact := transferAct_inside i l0 m t tgt s s hacts hm hne
      (fun l => branchTarget_two i s.g a d off c l0 m l hne) ho hs hlim hnd
    refine ⟨_, issueOn_jump i strict (srcs i) _ _ s _ _ h rfl hact (clear_held i s h), rfl, rfl, rfl, ?_, ?_⟩
    · simp [State.went, Group.past, Group.endRun, Group.follows]
    · simp [State.went, Group.past, Group.endRun, Group.follows]

end Sys2Proof.Machine
end

section
/-! SUPPORT. An access of the executing core's own local memory (05 R114, R117; 11 R221; 13 R260): its place, the checks it passes and its
performance at its issue. -/

namespace Sys2Proof.Machine

/-! ### Addresses of a core's local memory (11 R221, R224) -/

theorem coreOfPA_localPA (core off : Nat) (h : off < 2 ^ 19) : coreOfPA (localPA core off) = core := by
  unfold coreOfPA localPA
  omega

theorem isLocalPA_localPA (core off : Nat) : isLocalPA (localPA core off) = true := by
  unfold isLocalPA localPA
  rw [decide_eq_true_eq]
  omega

theorem isSharedPA_localPA (core off : Nat) : isSharedPA (localPA core off) = false := by
  unfold isSharedPA localPA
  rw [decide_eq_false_iff_not]
  omega

theorem ddrSize_le_localPA (core off : Nat) : Config.ddrSize ≤ localPA core off :=
  Nat.le_trans (show Config.ddrSize ≤ Config.localBase by decide) (by unfold localPA; omega)

/-- An offset in the part of the mesh window of one core. -/
theorem offset_lt (x : Nat) : x % 2 ^ 19 < 2 ^ 19 := Nat.mod_lt _ (by decide)

/-- A group's own part of the mesh window is its core's local memory (11 R221). -/
theorem resolveAddr_own (s : State) (g : Group) (addr size : Nat) (n : Need) (ho : ownAddr g addr = true) (hc : g.core < 6144)
    (hs : (addr - g.sp.mwb.toNat) % 2 ^ 19 + size ≤ localSize g.core) :
    resolveAddr s g addr size n = .ok ⟨localPA g.core ((addr - g.sp.mwb.toNat) % 2 ^ 19), true, none, none, true⟩ := by
  obtain ⟨hlo, hhi, hcore⟩ := of_decide_eq_true ho
  have hdie : ¬g.core / 1024 ≥ 6 := by omega
  unfold resolveAddr
  simp only [hlo, hhi, and_self, if_true, hcore, hdie, if_false, Nat.not_lt.2 hs, beq_self_eq_true]

/-! ### The checks -/

theorem checkAccess_passes (s : State) (g : Group) (v : Val) (c : BitVec 6) (ix : Int) (size align : Nat) (ps : List Perm) (n : Need)
    (ht : v.tag = .cap)
    (hp : (lacks v.bits ps || (n.cap && !capHas v.bits .sc) || (!ownAddr g (spreadInt (capWalk v.bits) ix) && !capHas v.bits .m)) = false)
    (hb : inBounds v.bits ix size = true) (ha : spreadInt (capWalk v.bits) ix % align = 0) :
    checkAccess s g v c ix size align ps n = resolveAddr s g (spreadInt (capWalk v.bits) ix) size n := by
  unfold checkAccess
  rw [if_neg (not_not_intro ht)]
  dsimp only
  rw [hp, hb]
  exact if_neg (not_not_intro ha)

/-- The place of a lane's access of its own local memory. -/
def ownPlace (f : AccessForm) (g : Group) (l : Lane) : Place := ⟨ownPA g f.base f.disp l, true, none, none, true⟩

/-- Whether a lane stores a CAP with its tag (05 R116). -/
def AccessForm.tagged (f : AccessForm) (g : Group) (l : Lane) : Bool := f.cap && (g.read l f.reg).tag == .cap

/-- The permissions that a lane's access needs of its base (05 R114, R116). -/
def AccessForm.perms (f : AccessForm) (g : Group) (l : Lane) : List Perm :=
  if f.store then (if f.tagged g l then [.w, .sc] else [.w]) else [.r]

/-- A lane that may access its own local memory passes the checks of 13 R260. -/
theorem AccessForm.check_own (f : AccessForm) (s : State) (l : Lane) (h : s.g.mayAccess f.base f.disp f.size (f.perms s.g l) l) :
    f.check s l = .ok (ownPlace f s.g l) := by
  obtain ⟨htag, hperm, hin, halign, hown, hcore, -, hsize⟩ := h
  have hlack : ¬f.lacking s.g l := by
    rintro (hl | ⟨hs, hc, ht, hl⟩ | ⟨hl, -⟩)
    · have := hperm (if f.store then .w else .r) (by unfold AccessForm.perms; split <;> [split; skip] <;> simp)
      rw [this] at hl
      cases hl
    · have := hperm .sc (by simp [AccessForm.perms, AccessForm.tagged, hs, hc, ht])
      rw [this] at hl
      cases hl
    · rw [hown] at hl
      cases hl
  have hno := Bool.eq_false_iff.2 (mt (f.lacking_iff s.g l).1 hlack)
  exact (checkAccess_passes s s.g _ _ _ _ _ _ _ htag hno hin halign).trans (resolveAddr_own s s.g _ _ _ hown hcore hsize)

/-! ### The performance at issue (05 R117; 12 R246) -/

/-- What a lane's access of its own local memory does there. -/
def AccessForm.op (f : AccessForm) (g : Group) (l : Lane) : MemOp :=
  if f.store then .store f.size (g.read l f.reg).bits (f.tagged g l)
  else .load f.size f.sx (f.cap && capHas (g.read l f.base).bits .lc)

/-- A lane's access of its own local memory. -/
def AccessForm.ownAcc (f : AccessForm) (g : Group) (l : Lane) : Acc :=
  ⟨l.no, ownPlace f g l, accessAddr g f.base f.disp l, f.op g l⟩

theorem checkLanes_all (f : Lane → Chk × Nat × MemOp) (a : Lane → Acc) (ls : List Lane)
    (h : ∀ l ∈ ls, f l = (.ok (a l).place, (a l).va, (a l).op) ∧ (a l).lane = l.no) : checkLanes f ls = (ls.map a, none) := by
  induction ls with
  | nil => rfl
  | cons l t ih =>
    obtain ⟨hf, hn⟩ := h l (by simp)
    simp only [checkLanes, hf, ih fun k hk => h k (by simp [hk]), List.map_cons, ← hn]

/-- An operation that its home does not refuse is performed. -/
theorem atHome_performed (s : State) (op : MemOp) (pa : Nat) (key : Option Nat) (h : s.refusal op pa = none) :
    s.atHome op pa key = perform op pa key s.mem := by
  rw [State.atHome, h]

section AtOnce
variable (s : State) (l : Lane) (a : BitVec 6) (disp : Int) (size : Nat) (h : s.atOnce l (ownPA s.g a disp l) size)
include h

/-- Its home refuses nothing that may be performed at once (11 R237; 22 R427; 23 R445). -/
theorem refusal_own (op : MemOp) (hop : op.size = size) : s.refusal op (ownPA s.g a disp l) = none := by
  obtain ⟨-, -, -, -, -, hdie, hfence, hlock, hrep⟩ := h
  have hcore : coreOfPA (ownPA s.g a disp l) = s.g.core := coreOfPA_localPA _ _ (offset_lt _)
  have hlocal : isLocalPA (ownPA s.g a disp l) = true := isLocalPA_localPA _ _
  have hshared : isSharedPA (ownPA s.g a disp l) = false := isSharedPA_localPA _ _
  have hd : dieOfPA (ownPA s.g a disp l) = s.g.core / 1024 := by rw [dieOfPA, hlocal, if_pos rfl, hcore]
  unfold State.refusal
  simp only [hd, hdie, hop, hlock, hrep, hcore, hfence, hshared, Bool.or_false, Bool.and_false, Bool.false_and, Bool.false_eq_true, if_false]

theorem mismatch_own (key : Option Nat) : s.mem.mismatch (ownPA s.g a disp l) key = false := by
  obtain ⟨-, -, -, hchk, -⟩ := h
  exact mismatch_false _ _ _ hchk (ddrSize_le_localPA _ _)

/-- An access that may be performed at once is (05 R117; 07 R151; 12 R247). -/
theorem immediate_own (x : Acc) (hlane : x.lane = l.no) (hown : x.place.own = true) (hpa : x.place.pa = ownPA s.g a disp l) :
    s.immediate x = true := by
  obtain ⟨howned, hdisp, hsc, -, hnet, -⟩ := h
  have hway : (s.net.any fun r => (r.src == s.g.srcOf x.lane || (r.gid == s.g.gid && r.since == s.clk)) &&
      r.home == homeOf x.place.pa) = false := by
    rw [List.any_eq_false, hpa, hlane]
    intro r hr
    simpa using hnet r hr
  rw [State.immediate, hway, hown, hpa, howned, hdisp, hsc]
  rfl

end AtOnce

end Sys2Proof.Machine
end

section
/-! SUPPORT. Loads from the executing core's own local memory (05 R114, R115, R117, R118; 13 R260): nothing but the value read at issue, the
pending write of the destination and the advance of the base. -/

namespace Sys2Proof.Machine

/-! ### The table of the loads and stores -/

/-- Capabilities are loaded and stored whole, without extension (05 R115, R116). -/
theorem accessForm_cap (i : Instr) (f : AccessForm) (h : accessForm i = some f) (hc : f.cap = true) : f.size = 16 ∧ f.sx = false := by
  unfold accessForm at h
  split at h <;> cases h <;> cases hc <;> exact ⟨rfl, rfl⟩

theorem intWord_toInt (n : Int) (hlo : -(2 ^ 63) ≤ n) (hhi : n < 2 ^ 63) : (intWord n).toInt = n := by
  rw [intWord, BitVec.toInt_ofInt]
  exact Int.bmod_eq_of_le (by omega) (by omega)

theorem mForm_advance (imm : BitVec 11) (p : Bool) (a d : BitVec 6) (size : Nat) (st sx cap : Bool) (f : AccessForm) (n : Int)
    (hsize : size ≤ 16) (h : mForm imm p a d size st sx cap = some f) (hn : f.advance = some n) : (intWord n).toInt = n := by
  cases h
  cases p <;> cases hn
  have hlo : (-1024 : Int) ≤ imm.toInt := BitVec.le_toInt imm
  have hhi : imm.toInt ≤ (1024 : Int) := Int.le_of_lt (BitVec.toInt_lt (x := imm))
  have hpos : (size : Int) ≤ 16 := by exact_mod_cast hsize
  have h0 : (0 : Int) ≤ size := Int.natCast_nonneg size
  have hmin := Int.mul_le_mul_of_nonneg_right hlo h0
  have hmax := Int.mul_le_mul_of_nonneg_right hhi h0
  exact intWord_toInt _ (by linarith) (by linarith)

/-- A post-increment is a displacement of 11 bits scaled by at most 16 (04 R99). -/
theorem accessForm_advance (i : Instr) (f : AccessForm) (n : Int) (h : accessForm i = some f) (hn : f.advance = some n) :
    (intWord n).toInt = n := by
  unfold accessForm at h
  split at h
  iterate 15 · exact mForm_advance _ _ _ _ _ _ _ _ f n (by decide) h hn
  iterate 4 · cases h; cases hn
  · cases h

/-- The base of a load or store advances in every active lane (05 R114). -/
theorem bump_advanced (i : Instr) (f : AccessForm) (g : Group) (u : Bool) (h : accessForm i = some f) :
    g.bump u f.bump (g.execs u) = g.advanced u f.base f.advance := by
  cases hadv : f.advance with
  | none => simp only [Group.bump, Group.bumped, AccessForm.bump, hadv, Option.map_none, List.foldl_nil, Group.advanced]
  | some n =>
    simp only [Group.bump, Group.bumped, AccessForm.bump, hadv, Option.map_some, List.foldl_cons, List.foldl_nil, Group.advanced,
      cinc, accessForm_advance i f n h hadv, spread_results g u fun l => moveTo (g.read l f.base) (index (g.read l f.base) + n)]

theorem advanced_held (g : Group) (u : Bool) (a : BitVec 6) (n : Option Int) : (g.advanced u a n).held = g.held := by
  cases n with
  | none => rfl
  | some n => exact write_held _ _ _

/-! ### Reads at once -/

theorem give_nil (g : Group) (lanes : List Nat) (v : Val) : g.give [] lanes v = g := by
  simp [Group.give]

/-- Reads performed at their issue leave the state as it is. -/
theorem makeReads_now (u : Bool) (rcv : List Nat) (a : Lane → Acc) (v : Lane → Val) (s : State) (ls : List Lane)
    (h : ∀ l ∈ ls, s.immediate (a l) = true ∧ s.performOwn (a l) = (s, v l)) :
    State.makeReads u rcv [] false (ls.map a) s =
      (s, ls.flatMap fun l => (if u then rcv else [(a l).lane]).map fun n => (n, v l)) := by
  induction ls with
  | nil => rfl
  | cons l t ih =>
    obtain ⟨himm, hperf⟩ := h l (by simp)
    simp only [List.map_cons, State.makeReads, himm, hperf, if_true, give_nil, Bool.false_eq_true, if_false, ih fun k hk => h k (by simp [hk]),
      List.flatMap_cons]

/-- What the executing lanes read, given to the lanes that receive it, are the results of the instruction (04 R83). -/
theorem reads_results (g : Group) (u : Bool) (v : Lane → Val) :
    ((g.execs u).flatMap fun l => (if u then g.acts.map (·.no) else [l.no]).map fun n => (n, v l)) = g.results u v := by
  cases u with
  | false => simp [Group.execs, Group.results, List.map_eq_flatMap]
  | true => cases h : g.acts <;> simp [Group.execs, Group.results, h]

theorem slicesOf_ne_nil (ns : List Nat) (h : ns ≠ []) : slicesOf ns ≠ [] := by
  cases ns with
  | nil => exact absurd rfl h
  | cons n t =>
    unfold slicesOf
    cases slicesOf t with
    | nil => simp [setIns]
    | cons x r =>
      unfold setIns
      split
      · simp
      · split <;> simp

theorem freshIds_ne_nil (s : State) (ns : List Nat) (ids : List (Nat × BitVec 6)) (h : s.freshIds ns = some ids) (hn : ns ≠ []) : ids ≠ [] := by
  cases ns with
  | nil => exact absurd rfl hn
  | cons n t =>
    rintro rfl
    simp [State.freshIds, Option.bind_eq_some_iff] at h

/-- No symbol is made where nothing is late. -/
theorem newSyms_nil (s : State) (want : List Nat) (got : List (Nat × Val)) : s.newSyms [] want got = s := by
  simp [State.newSyms]

section Load
variable (i : Instr) (q : Ask) (d : BitVec 6) (b : Bump) (s : State) (a : Lane → Acc) (v : Lane → Val)
  (hsent : s.g.sent = false) (hsc : s.scPending = false) (hst : s.g.stream d = none) (hw : s.g.unwatched)
  (hchk : ∀ l ∈ s.g.execs (isUniform i), q.chk s l = (.ok (a l).place, (a l).va, (a l).op) ∧ (a l).lane = l.no)
  (hnow : ∀ l ∈ s.g.execs (isUniform i), s.immediate (a l) = true ∧ s.performOwn (a l) = (s, v l))
include hsent hsc hst hw hchk hnow

/-- A load of lanes that read at once into k0 advances its base. -/
theorem loadAct_own_zero (hd : d = 0) :
    loadAct i q d b false s = .done { s with g := s.g.bump (isUniform i) b (s.g.execs (isUniform i)) } := by
  have hall := checkLanes_all (q.chk s) a (s.g.execs (isUniform i)) hchk
  have hreads := makeReads_now (isUniform i) [] a v s (s.g.execs (isUniform i)) hnow
  unfold loadAct
  simp only [hsent, hsc, hst, Option.isSome_none, Bool.false_eq_true, if_false, resultChk_unbound _ _ _ _ _ hst, hall,
    appendAccs_unbound _ _ _ hst, journalFull_nil, watchedAct_unwatched _ _ _ hw, hreads]
  rw [if_pos hd]

/-- A load of lanes that read at once leaves its destination awaited (05 R117). -/
theorem loadAct_own (hd : d ≠ 0) (hacts : s.g.acts ≠ []) (ids : List (Nat × BitVec 6))
    (hids : s.freshIds (slicesOf (s.g.acts.map (·.no))) = some ids) :
    loadAct i q d b false s =
      (let g : Group := s.g.bump (isUniform i) b (s.g.execs (isUniform i))
       let p : Pend := ⟨s.clk + (if s.g.isG then 4 else 3), false, d, s.g.banked d, s.g.results (isUniform i) v, [], ids, true, false⟩
       .done { s with g := { g with pend := g.pend ++ [p] } }) := by
  have hall := checkLanes_all (q.chk s) a (s.g.execs (isUniform i)) hchk
  have hreads := makeReads_now (isUniform i) (s.g.acts.map (·.no)) a v s (s.g.execs (isUniform i)) hnow
  have hvals : ((s.g.execs (isUniform i)).flatMap fun l =>
      (if isUniform i = true then s.g.acts.map (·.no) else [(a l).lane]).map fun n => (n, v l)) = s.g.results (isUniform i) v := by
    rw [← reads_results]
    exact List.flatMap_congr fun l hl => by rw [(hchk l hl).2]
  have hrcv : (if isUniform i = true then s.g.acts.map (·.no) else (s.g.execs (isUniform i)).map (·.no)) = s.g.acts.map (·.no) := by
    cases isUniform i <;> rfl
  have hlate (p : Nat × BitVec 6) : (((s.g.execs (isUniform i)).map a).any fun x =>
      !s.immediate x && (isUniform i || x.lane / 4 == p.1)) = false := by
    simp only [List.any_map, List.any_eq_false, Function.comp_apply]
    intro l hl
    simp [(hnow l hl).1]
  have hne : ids.isEmpty = false := by
    simpa using freshIds_ne_nil s _ ids hids (slicesOf_ne_nil _ (by simpa using hacts))
  unfold loadAct
  simp only [hsent, hsc, hst, Option.isSome_none, Bool.false_eq_true, if_false, resultChk_unbound _ _ _ _ _ hst, hall, hrcv,
    appendAccs_unbound _ _ _ hst, journalFull_nil, watchedAct_unwatched _ _ _ hw, hids, hlate, Bool.false_or, List.filter_false,
    List.any_nil, List.map_nil, newSyms_nil, hreads, hvals, write_nil, Bool.not_false, List.filter_true, hne]
  rw [if_neg hd]

end Load

/-! ### The value of a row -/

/-- What a load brings from a line whose check value is that of its bytes is the value of its row (05 R114, R115). -/
theorem perform_load (f : AccessForm) (v : Val) (pa : Nat) (key : Option Nat) (m : Memory) (hm : m.mismatch pa key = false)
    (hcap : f.cap = true → f.size = 16 ∧ f.sx = false) :
    perform (.load f.size f.sx (f.cap && capHas v.bits .lc)) pa key m = ⟨m, loadedValue m f v pa, none, none⟩ := by
  unfold perform loadedValue
  simp only [checked_self m pa key hm]
  cases hp : m.poisoned pa f.size with
  | true => rfl
  | false =>
    cases hc : f.cap with
    | false => cases f.sx <;> rfl
    | true =>
      obtain ⟨hsize, hsx⟩ := hcap hc
      cases hlc : capHas v.bits .lc <;> simp [hsize, hsx]

/-- An operation that its home performs without a change. -/
theorem performOwn_read (s : State) (a : Acc) (v : Val) (hp : s.atHome a.op a.place.pa a.place.key = ⟨s.mem, v, none, none⟩)
    (hi : s.inspected a.op a.place.pa a.place.key = s) : s.performOwn a = (s, v) := by
  simp only [State.performOwn, hp, hi]

/-- A load at its issue changes nothing and brings the value of its row (05 R117). -/
theorem performOwn_load (f : AccessForm) (s : State) (l : Lane) (hs : f.store = false) (hcap : f.cap = true → f.size = 16 ∧ f.sx = false)
    (h : s.atOnce l (ownPA s.g f.base f.disp l) f.size) :
    s.performOwn (f.ownAcc s.g l) = (s, loadedValue s.mem f (s.g.read l f.base) (ownPA s.g f.base f.disp l)) := by
  have hm := mismatch_own s l f.base f.disp f.size h none
  have href := refusal_own s l f.base f.disp f.size h (.load f.size f.sx (f.cap && capHas (s.g.read l f.base).bits .lc)) rfl
  have hop : f.op s.g l = .load f.size f.sx (f.cap && capHas (s.g.read l f.base).bits .lc) := by rw [AccessForm.op, if_neg (by simp [hs])]
  have hhome : s.atHome (f.op s.g l) (ownPA s.g f.base f.disp l) none =
      ⟨s.mem, loadedValue s.mem f (s.g.read l f.base) (ownPA s.g f.base f.disp l), none, none⟩ := by
    rw [hop]
    exact (atHome_performed s _ _ none href).trans (perform_load f _ _ none s.mem hm hcap)
  exact performOwn_read s (f.ownAcc s.g l) _ hhome (inspected_self s _ _ none hm)

/-- Settles O22: the checks pass, the bytes are read at the issue, and the destination is awaited. -/
theorem localLoadsReadTheirBytes : Obligations.LocalLoadsReadTheirBytes := by
  unfold Obligations.LocalLoadsReadTheirBytes
  intro i s f ids hf hs hc hsc hw hlanes value g
  obtain ⟨opc, he⟩ := exec_accessForm i s f hf
  have hst := clear_dst_stream i s hc f.reg (by simp [dsts, dst_of_load i f hf hs])
  have hbody : f.body i opc s = loadAct i (f.ask s) f.reg f.bump false s := by rw [AccessForm.body, if_neg (by simp [hs])]
  have hbump : s.g.bump (isUniform i) f.bump (s.g.execs (isUniform i)) = g := bump_advanced i f s.g (isUniform i) hf
  have hheld : g.held = [] := (advanced_held _ _ _ _).trans (clear_held i s hc)
  have hchk : ∀ l ∈ s.g.execs (isUniform i),
      (f.ask s).chk s l = (.ok (f.ownAcc s.g l).place, (f.ownAcc s.g l).va, (f.ownAcc s.g l).op) ∧ (f.ownAcc s.g l).lane = l.no := by
    intro l hl
    have hcheck := f.check_own s l (by simpa [AccessForm.perms, hs] using (hlanes l hl).1)
    refine ⟨(f.ask_load s l _ hcheck hs).trans ?_, rfl⟩
    simp [AccessForm.ownAcc, AccessForm.op, ownPlace, hs]
  have hnow : ∀ l ∈ s.g.execs (isUniform i), s.immediate (f.ownAcc s.g l) = true ∧ s.performOwn (f.ownAcc s.g l) = (s, value l) := by
    intro l hl
    have hat := (hlanes l hl).2
    exact ⟨immediate_own s l f.base f.disp f.size hat _ rfl rfl rfl, performOwn_load f s l hs (accessForm_cap i f hf) hat⟩
  rw [he]
  refine ⟨fun hd => ?_, fun hd hacts hids => ?_⟩
  · refine issueOn_done i strict (srcs i) _ _ s _ hc rfl (hbody.trans ?_) hheld
    rw [loadAct_own_zero i _ f.reg f.bump s _ value (clear_sent i s _ hc) hsc hst hw hchk hnow hd, hbump]
  · refine issueOn_done i strict (srcs i) _ _ s _ hc rfl (hbody.trans ?_) hheld
    rw [loadAct_own i _ f.reg f.bump s _ value (clear_sent i s _ hc) hsc hst hw hchk hnow hd hacts ids hids, hbump]

end Sys2Proof.Machine
end

section
/-! SUPPORT. Stores to the executing core's own local memory (05 R114, R116, R117; 01 R11; 09 R210): the lanes' bytes in their order, and what
they leave as it was. -/

namespace Sys2Proof.Machine

/-! ### One store -/

/-- The state after a lane's store. -/
def State.afterStore (s : State) (size pa : Nat) (data : Quad) (tag : Bool) : State :=
  let m := s.mem.store pa size data.toNat
  State.noticed { s with mem := if tag then m.setTag pa else m } s.g.gid pa size

theorem afterStores_cons (s : State) (size : Nat) (pa : Lane → Nat) (data : Lane → Quad) (tag : Lane → Bool) (l : Lane) (t : List Lane) :
    s.afterStores size pa data tag (l :: t) = (s.afterStore size (pa l) (data l) (tag l)).afterStores size pa data tag t := rfl

theorem store_kept (m : Memory) (a n v : Nat) :
    (m.store a n v).empties = m.empties ∧ (m.store a n v).poison = m.poison ∧ (m.store a n v).checks = m.checks := by
  have hbytes (bs : List Byte) : ∀ (m : Memory) (a : Nat),
      (m.setBytes a bs).empties = m.empties ∧ (m.setBytes a bs).poison = m.poison ∧ (m.setBytes a bs).checks = m.checks := by
    induction bs with
    | nil => exact fun _ _ => ⟨rfl, rfl, rfl⟩
    | cons b t ih => exact fun m a => ih (m.setByte a b) (a + 1)
  exact hbytes _ m a

section AfterStore
variable (s : State) (size pa : Nat) (data : Quad) (tag : Bool)

/-- A store changes the bytes and the tags, and no other part of memory. -/
theorem afterStore_kept :
    let m := (s.afterStore size pa data tag).mem
    m.empties = s.mem.empties ∧ m.poison = s.mem.poison ∧ m.checks = s.mem.checks := by
  have h := store_kept s.mem pa size data.toNat
  cases tag <;> exact h

theorem afterStore_wf (h : s.mem.wf = true) : (s.afterStore size pa data tag).mem.wf = true := by
  have hw := store_wf s.mem pa size data.toNat h
  cases tag
  · exact hw
  · exact setTag_wf _ pa hw

theorem afterStore_byte (x : Nat) : (s.afterStore size pa data tag).mem.byte x = (s.mem.store pa size data.toNat).byte x := by
  cases tag <;> rfl

/-- What may be performed at once may be after a store. -/
theorem afterStore_atOnce (l : Lane) (a n : Nat) (h : s.atOnce l a n) : (s.afterStore size pa data tag).atOnce l a n := by
  obtain ⟨howned, hdisp, hsc, hchk, hrest⟩ := h
  obtain ⟨-, -, hc⟩ := afterStore_kept s size pa data tag
  exact ⟨howned, hdisp, hsc, by rw [hc, hchk], hrest⟩

theorem afterStore_poisoned (a n : Nat) : (s.afterStore size pa data tag).mem.poisoned a n = s.mem.poisoned a n := by
  obtain ⟨-, hp, -⟩ := afterStore_kept s size pa data tag
  unfold Memory.poisoned
  rw [hp]

end AfterStore

/-! ### A posted store at its issue (05 R117) -/

/-- What a store does to a sound line outside LP-DDR-5X. -/
theorem perform_store (size : Nat) (data : Quad) (tag : Bool) (pa : Nat) (key : Option Nat) (m : Memory) (hm : m.mismatch pa key = false)
    (hp : m.poisoned pa size = false) (hd : Config.ddrSize ≤ pa) :
    perform (.store size data tag) pa key m =
      ⟨if tag then (m.store pa size data.toNat).setTag pa else m.store pa size data.toNat, Val.zero, some (pa, size), none⟩ := by
  unfold perform
  simp only [checked_self m pa key hm, hp, Memory.underKey, if_neg (Nat.not_lt.2 hd), Bool.false_eq_true, if_false]

theorem performOwn_write (s : State) (a : Acc) (m : Memory) (v : Val) (b n : Nat)
    (hp : s.atHome a.op a.place.pa a.place.key = ⟨m, v, some (b, n), none⟩) (hi : s.inspected a.op a.place.pa a.place.key = s) :
    s.performOwn a = (State.noticed { s with mem := m } s.g.gid b n, v) := by
  simp only [State.performOwn, hp, hi]

/-- A posted operation performed at its issue leaves what its performance does. -/
theorem post_now (s s1 : State) (a : Acc) (v : Val) (data : Quad) (size opc : Nat) (hown : a.place.own = true)
    (himm : s.immediate a = true) (h : s.performOwn a = (s1, v)) : s.post a data size opc = s1 := by
  simp only [State.post, hown, if_true, State.access, himm, h, give_nil, Bool.false_eq_true, if_false]

section Store
variable (f : AccessForm) (hs : f.store = true)
include hs

theorem AccessForm.op_store (g : Group) (l : Lane) : f.op g l = .store f.size (g.read l f.reg).bits (f.tagged g l) := by
  rw [AccessForm.op, if_pos hs]

/-- A store at its issue writes its bytes, and what waits for them notices. -/
theorem post_own (s : State) (l : Lane) (data : Quad) (size opc : Nat) (h : s.atOnce l (ownPA s.g f.base f.disp l) f.size)
    (hp : s.mem.poisoned (ownPA s.g f.base f.disp l) f.size = false) :
    s.post (f.ownAcc s.g l) data size opc = s.afterStore f.size (ownPA s.g f.base f.disp l) (s.g.read l f.reg).bits (f.tagged s.g l) := by
  have hm := mismatch_own s l f.base f.disp f.size h none
  have href := refusal_own s l f.base f.disp f.size h (.store f.size (s.g.read l f.reg).bits (f.tagged s.g l)) rfl
  have hhome := (atHome_performed s _ _ none href).trans
    (perform_store f.size (s.g.read l f.reg).bits (f.tagged s.g l) _ none s.mem hm hp (ddrSize_le_localPA _ _))
  rw [← f.op_store hs s.g l] at hhome
  exact post_now s _ (f.ownAcc s.g l) _ data size opc rfl (immediate_own s l f.base f.disp f.size h _ rfl rfl rfl)
    (performOwn_write s (f.ownAcc s.g l) _ _ _ _ hhome (inspected_self s _ _ none hm))

/-- The lanes' stores in their order. -/
theorem posts_own (g : Group) (dat : Acc → Quad) (size opc : Nat) (ls : List Lane) (s : State) (hg : s.g = g)
    (h : ∀ l ∈ ls, s.atOnce l (ownPA g f.base f.disp l) f.size ∧ s.mem.poisoned (ownPA g f.base f.disp l) f.size = false) :
    (ls.map (f.ownAcc g)).foldl (fun s a => s.post a (dat a) size opc) s =
      s.afterStores f.size (ownPA g f.base f.disp) (fun l => (g.read l f.reg).bits) (f.tagged g) ls := by
  induction ls generalizing s with
  | nil => rfl
  | cons l t ih =>
    subst hg
    obtain ⟨hat, hp⟩ := h l (by simp)
    rw [List.map_cons, List.foldl_cons, afterStores_cons, post_own f hs s l _ size opc hat hp]
    refine ih _ rfl fun k hk => ?_
    obtain ⟨hatk, hpk⟩ := h k (by simp [hk])
    exact ⟨afterStore_atOnce _ _ _ _ _ k _ _ hatk, (afterStore_poisoned _ _ _ _ _ _ _).trans hpk⟩

end Store

/-! ### The body of a store -/

theorem todo_undone (g : Group) (ls : List Lane) (h : g.priv = 0 → g.sp.done = 0) : g.todo ls = ls := by
  unfold Group.todo
  split
  next hp => simp [h hp]
  next => rfl

/-- Accesses of the own local memory need no journal entry (12 R250). -/
theorem journalFull_own (s : State) (as : List Acc) (h : ∀ a ∈ as, a.place.own = true) : s.journalFull as = false := by
  have hnone : as.filter (fun a => !a.place.own) = [] := List.filter_eq_nil_iff.2 fun a ha => by simp [h a ha]
  simp [State.journalFull, hnone]

/-- Where no page, line or lock stands in its way, a store to the own local memory passes (11 R236, R237). -/
theorem ownWrite_own (s : State) (va size : Nat) (p : Place) (hl : s.locked p.pa size = false) (hp : s.mem.poisoned p.pa size = false)
    (hm : s.mem.mismatch p.pa none = false) : ownWrite s va size (.ok p) = .ok p := by
  simp [ownWrite, hl, hp, hm]

/-- A store whose lanes all pass and are performed at once. -/
theorem postAct_own (i : Instr) (q : Ask) (data : Lane → Quad) (opc : Nat) (b : Bump) (s s1 : State) (a : Lane → Acc)
    (hsc : s.scPending = false) (hf : s.follower i = true) (hw : s.g.unwatched) (hdone : s.g.priv = 0 → s.g.sp.done = 0)
    (hchk : ∀ l ∈ s.g.execs (isUniform i), q.chk s l = (.ok (a l).place, (a l).va, (a l).op) ∧ (a l).lane = l.no)
    (hown : ∀ l, (a l).place.own = true)
    (hput : ∀ dat : Acc → Quad, ((s.g.execs (isUniform i)).map a).foldl (fun s x => s.post x (dat x) (Nat.log2 q.size) opc) s = s1) :
    postAct i q data opc b s = .done { s1 with g := s1.g.bump (isUniform i) b (s.g.execs (isUniform i)) } := by
  have hall := checkLanes_all (q.chk s) a (s.g.execs (isUniform i)) hchk
  have hjournal : s.journalFull ((s.g.execs (isUniform i)).map a) = false := by
    refine journalFull_own s _ fun x hx => ?_
    obtain ⟨l, -, rfl⟩ := List.mem_map.1 hx
    exact hown l
  have hwent : ((s.g.execs (isUniform i)).filter fun l => ((s.g.execs (isUniform i)).map a).any fun x => x.lane == l.no) =
      s.g.execs (isUniform i) := by
    refine List.filter_eq_self.2 fun l hl => List.any_eq_true.2 ⟨a l, List.mem_map_of_mem hl, ?_⟩
    simp [(hchk l hl).2]
  unfold postAct
  simp only [hsc, Bool.false_eq_true, if_false, todo_undone _ _ hdone, hall, hjournal, withWatch_unwatched _ _ _ _ hf hw, hwent, hput]

/-! ### What stores leave as it was -/

theorem afterStores_kept (s : State) (size : Nat) (pa : Lane → Nat) (data : Lane → Quad) (tag : Lane → Bool) (ls : List Lane) :
    let t := s.afterStores size pa data tag ls
    t.g = s.g ∧ t.groups = s.groups ∧ t.cores = s.cores ∧ t.crews = s.crews ∧ t.net = s.net ∧ t.mem.empties = s.mem.empties ∧
      t.mem.poison = s.mem.poison := by
  induction ls generalizing s with
  | nil => exact ⟨rfl, rfl, rfl, rfl, rfl, rfl, rfl⟩
  | cons l r ih =>
    obtain ⟨hg, hgroups, hcores, hcrews, hnet, hempties, hpoison⟩ := ih (s.afterStore size (pa l) (data l) (tag l))
    obtain ⟨he, hp, -⟩ := afterStore_kept s size (pa l) (data l) (tag l)
    exact ⟨hg, hgroups, hcores, hcrews, hnet, hempties.trans he, hpoison.trans hp⟩

/-- A byte that no lane stores to reads as before. -/
theorem afterStores_byte_out (s : State) (size : Nat) (pa : Lane → Nat) (data : Lane → Quad) (tag : Lane → Bool) (ls : List Lane) (x : Nat)
    (hw : s.mem.wf = true) (h : ∀ l ∈ ls, x < pa l ∨ pa l + size ≤ x) : (s.afterStores size pa data tag ls).mem.byte x = s.mem.byte x := by
  induction ls generalizing s with
  | nil => rfl
  | cons l r ih =>
    rw [afterStores_cons, ih _ (afterStore_wf s size _ _ _ hw) fun k hk => h k (by simp [hk]), afterStore_byte]
    exact byte_store_out s.mem _ _ _ _ hw (h l (by simp))

theorem natBytes_getD (n v k : Nat) (h : k < n) : (natBytes n v).getD k 0 = BitVec.ofNat 8 (v / 2 ^ (8 * k)) := by
  induction n generalizing v k with
  | zero => cases h
  | succ n ih =>
    cases k with
    | zero => simp [natBytes]
    | succ k =>
      have hpow : 2 ^ (8 * (k + 1)) = 256 * 2 ^ (8 * k) := by rw [Nat.mul_succ, Nat.pow_add, Nat.mul_comm]
      rw [natBytes, List.getD_cons_succ, ih _ _ (by omega), Nat.div_div_eq_div_mul, hpow]

/-- A byte that a lane's store covers reads as that byte of its data. -/
theorem afterStore_byte_in (s : State) (size pa : Nat) (data : Quad) (tag : Bool) (n : Nat) (hw : s.mem.wf = true) (hn : n < size) :
    (s.afterStore size pa data tag).mem.byte (pa + n) = data.extractLsb' (8 * n) 8 := by
  rw [afterStore_byte, byte_store_in s.mem pa size _ _ hw (Nat.le_add_right _ _) (by omega), Nat.add_sub_cancel_left,
    natBytes_getD _ _ _ hn]
  refine BitVec.eq_of_toNat_eq ?_
  rw [BitVec.toNat_ofNat, BitVec.extractLsb'_toNat, Nat.shiftRight_eq_div_pow]

/-- A group whose register is written, banked or not, agrees with what it was but for that register. -/
theorem agrees_write (g : Group) (d : BitVec 6) (vals : List (Nat × Val)) : g.agrees (g.write d vals) [d] := by
  cases hb : g.banked d with
  | false =>
    rw [write_general g d vals hb]
    exact agrees_written g d vals g.syms
  | true =>
    unfold Group.write
    rw [if_pos hb]
    exact ⟨rfl, fun _ _ _ => rfl, rfl, rfl, rfl, by simp, rfl⟩

theorem agrees_advanced (g : Group) (u : Bool) (a : BitVec 6) (n : Option Int) :
    g.agrees (g.advanced u a n) (if n.isSome then [a] else []) := by
  cases n with
  | none => exact agrees_self g
  | some n => exact agrees_write g a _

/-! ### The stores -/

/-- A store whose lane passes the checks of 13 R260 and those of its line. -/
theorem AccessForm.ask_store_passes (f : AccessForm) (s : State) (l : Lane) (p : Place) (h : f.check s l = .ok p) (hs : f.store = true)
    (hp : ownWrite s (accessAddr s.g f.base f.disp l) f.size (.ok p) = .ok p) : (f.ask s).chk s l =
      (.ok p, accessAddr s.g f.base f.disp l, .store f.size (s.g.read l f.reg).bits (f.tagged s.g l)) := by
  unfold AccessForm.check at h
  rw [hs] at h
  rw [AccessForm.ask, if_pos hs]
  exact chk_ok (storeAsk s f.size f.cap f.disp false f.base f.reg) s l p ((congrArg (ownWrite s _ f.size) h).trans hp)

/-- What the lanes of a store leave. -/
def AccessForm.storesIn (f : AccessForm) (s : State) (ls : List Lane) : State :=
  s.afterStores f.size (ownPA s.g f.base f.disp) (fun l => (s.g.read l f.reg).bits) (f.tagged s.g) ls

/-- A store to the own local memory goes past itself with the lanes' bytes stored and the base advanced. -/
theorem exec_store_own (i : Instr) (s : State) (f : AccessForm) (hf : accessForm i = some f) (hs : f.store = true)
    (hc : s.clear i (srcs i)) (hsc : s.scPending = false) (hw : s.g.unwatched) (hfol : s.follower i = true)
    (hdone : s.g.priv = 0 → s.g.sp.done = 0)
    (h : ∀ l ∈ s.g.execs (isUniform i), s.g.mayAccess f.base f.disp f.size (if f.tagged s.g l then [.w, .sc] else [.w]) l ∧
      s.atOnce l (ownPA s.g f.base f.disp l) f.size ∧ s.mem.poisoned (ownPA s.g f.base f.disp l) f.size = false) :
    exec i s = .next (State.past { f.storesIn s (s.g.execs (isUniform i)) with
      g := s.g.advanced (isUniform i) f.base f.advance } i s) := by
  obtain ⟨opc, he⟩ := exec_accessForm i s f hf
  have hbody : f.body i opc s = postAct i (f.ask s) (fun l => (s.g.read l f.reg).bits) opc f.bump s := by rw [AccessForm.body, if_pos hs]
  have hchk : ∀ l ∈ s.g.execs (isUniform i),
      (f.ask s).chk s l = (.ok (f.ownAcc s.g l).place, (f.ownAcc s.g l).va, (f.ownAcc s.g l).op) ∧ (f.ownAcc s.g l).lane = l.no := by
    intro l hl
    obtain ⟨hmay, hat, hp⟩ := h l hl
    have hcheck := f.check_own s l (by simpa [AccessForm.perms, hs] using hmay)
    have hpass : ownWrite s (accessAddr s.g f.base f.disp l) f.size (.ok (ownPlace f s.g l)) = .ok (ownPlace f s.g l) := by
      obtain ⟨-, -, -, -, -, -, -, hlock, -⟩ := id hat
      exact ownWrite_own s _ _ _ hlock hp (mismatch_own s l f.base f.disp f.size hat none)
    exact ⟨(f.ask_store_passes s l _ hcheck hs hpass).trans (by rw [← f.op_store hs]; rfl), rfl⟩
  have hput (dat : Acc → Quad) := posts_own f hs s.g dat (Nat.log2 (f.ask s).size) opc (s.g.execs (isUniform i)) s rfl
    fun l hl => (h l hl).2
  obtain ⟨hg, -⟩ := afterStores_kept s f.size (ownPA s.g f.base f.disp) (fun l => (s.g.read l f.reg).bits) (f.tagged s.g)
    (s.g.execs (isUniform i))
  have hact := postAct_own i (f.ask s) (fun l => (s.g.read l f.reg).bits) opc f.bump s _ (f.ownAcc s.g) hsc hfol hw hdone hchk
    (fun _ => rfl) hput
  rw [hg, bump_advanced i f s.g (isUniform i) hf] at hact
  rw [he]
  exact issueOn_done i strict (srcs i) _ _ s _ hc rfl (hbody.trans hact) ((advanced_held _ _ _ _).trans (clear_held i s hc))

/-- Settles O23: each lane's access passes, is performed at its issue, and changes its bytes, their tags and the armed waits alone. -/
theorem localStoresWriteTheirBytes : Obligations.LocalStoresWriteTheirBytes := by
  unfold Obligations.LocalStoresWriteTheirBytes
  refine ⟨?_, ?_⟩
  · intro i s f hf hs hc hsc hw hfol hdone tag h
    exact exec_store_own i s f hf hs hc hsc hw hfol hdone h
  · intro i s f t hinv hf hs hc hsc hw hfol hdone h ht
    rw [exec_store_own i s f hf hs hc hsc hw hfol hdone h] at ht
    obtain rfl := Host.Outcome.next.inj ht
    obtain ⟨-, hgroups, hcores, hcrews, hnet, hempties, hpoison⟩ := afterStores_kept s f.size (ownPA s.g f.base f.disp)
      (fun l => (s.g.read l f.reg).bits) (f.tagged s.g) (s.g.execs (isUniform i))
    refine ⟨fun x hx => ?_, fun l hl n hn => ?_, ?_, hgroups, hcores, hcrews, hnet, hempties, hpoison⟩
    · exact afterStores_byte_out s _ _ _ _ _ x hinv hx
    · rw [hl]
      exact afterStore_byte_in s f.size _ _ _ n hinv hn
    · exact agrees_past s.g _ _ i s.g _ _ (agrees_advanced s.g (isUniform i) f.base f.advance)

end Sys2Proof.Machine
end

section
/-! SUPPORT. A floating-point form lane by lane (06 R127; 02 R44, R49): the result of each lane with whether the lane meets a subnormal, and
the group that takes the results and pays for the subnormals. -/

namespace Sys2Proof.Machine

/-! ### Paying for subnormals -/

/-- The model's choice between a group that has paid and one that has not. -/
theorem pay_if (s : State) (g : Group) (b : Bool) :
    (if b then { s with g := g.pay } else { s with g := g } : State) = { s with g := g.paysIf b } := by
  cases b
  · rfl
  · rw [if_pos rfl, Group.pay, Group.pays, Nat.one_mul]
    rfl

theorem gets_paysIf_held (g : Group) (i : Instr) (v : List (Nat × Val)) (fl : List (Nat × Flags)) (b : Bool) (h : g.held = []) :
    ((g.gets i v fl).paysIf b).held = [] := (gets_held g i v fl).trans h

/-- Conditions that agree on the lanes of a list hold of one of them alike. -/
theorem any_congr_mem (ls : List Lane) (p q : Lane → Bool) (h : ∀ l ∈ ls, p l = q l) : ls.any p = ls.any q := by
  rw [Bool.eq_iff_iff, List.any_eq_true, List.any_eq_true]
  exact exists_congr fun l => and_congr_right fun hl => by rw [h l hl]

/-! ### Results with their flags and subnormals -/

/-- The state past a short form that gave each lane a result `r`, with whether the lane meets a subnormal. -/
def State.floats (s : State) (i : Instr) (r : Lane → FpRes × Bool) : State :=
  let vals := s.g.results (isUniform i) fun l => fpVal (r l).1
  let fl := s.g.results (isUniform i) fun l => (r l).1.flags
  let g : Group := (s.g.gets i vals fl).paysIf ((s.g.execs (isUniform i)).any fun l => (r l).2)
  State.past { s with g := g } i s

/-- The state past a long form that has each lane await a result `r` for `n` clk in the register `d`. -/
def State.awaitsFloat (s : State) (i : Instr) (n : Nat) (d : BitVec 6) (r : Lane → FpRes × Bool) : State :=
  let p : Pend := ⟨s.clk + n, true, d, s.g.banked d, s.g.results (isUniform i) fun l => fpVal (r l).1,
    s.g.results (isUniform i) fun l => (r l).1.flags, [], true, false⟩
  let g : Group := { s.g with pend := s.g.pend ++ [p] }
  State.past { s with g := g.paysIf ((s.g.execs (isUniform i)).any fun l => (r l).2) } i s

/-- A long body whose destination takes no stream has its results awaited. -/
theorem longAct_done (i : Instr) (n : Nat) (f : Group → Lane → Val × Flags) (d : BitVec 6) (s : State) (hst : s.g.stream d = none) :
    longAct i n f d s =
      (let p : Pend := ⟨s.clk + n, true, d, s.g.banked d, s.g.results (isUniform i) fun l => (f s.g l).1,
        s.g.results (isUniform i) fun l => (f s.g l).2, [], true, false⟩
       let g : Group := { s.g with pend := s.g.pend ++ [p] }
       .done { s with g := g }) := by
  unfold longAct
  simp only [hst, List.map_map, Function.comp_def]
  rw [spread_results s.g (isUniform i) fun l => (f s.g l).1, spread_results s.g (isUniform i) fun l => (f s.g l).2]

/-- A lane's result in the shape of a form that steps symbols. -/
def laneOutcome (p : FpRes × Bool) : Val × Flags × Bool := (fpVal p.1, p.1.flags, p.2)

section Forms
variable (i : Instr) (s : State) (h : s.clear i (srcs i))
include h

/-- A form that blocks on symbols gives the results of its lanes. -/
theorem fpBlocking_floats (f : Group → Lane → FpRes × Bool) : fpBlocking i f s = .next (s.floats i (f s.g)) := by
  refine issueOn_done i strict (srcs i) _ _ s _ h rfl ?_ (gets_paysIf_held _ _ _ _ _ (clear_held i s h))
  dsimp only
  rw [laneAct_done i _ (fun l => (fpVal (f s.g l).1, (f s.g l).1.flags)) s (clear_dst_stream i s h) fun _ _ => rfl]
  dsimp only
  rw [pay_if]

/-- A form that steps symbols gives the results of its lanes where each lane has one. -/
theorem fpAct_floats (f : FpLane) (r : Lane → FpRes × Bool) (hf : ∀ l ∈ s.g.acts, f s.g l = some (laneOutcome (r l))) :
    fpAct i f s = .next (s.floats i r) := by
  have hst := clear_dst_stream i s h
  have hres : ∀ l ∈ s.g.acts, ((f s.g l).map fun p => (p.1, p.2.1)) = some (fpVal (r l).1, (r l).1.flags) := fun l hl => by
    rw [hf l hl]
    rfl
  refine issueBlk_done i affine (srcs i) _ _ _ s _ h rfl (lanesBlock_false i _ s.g hst fun l hl => ⟨_, hres l hl⟩) ?_
    (gets_paysIf_held _ _ _ _ _ (clear_held i s h))
  dsimp only
  rw [laneAct_done i (fun g l => (f g l).map fun p => (p.1, p.2.1)) _ s hst hres]
  dsimp only
  rw [pay_if, any_congr_mem _ _ fun l => (r l).2]
  intro l hl
  rw [hf l (execs_subset_acts _ _ l hl)]
  rfl

/-- A long form has each lane await its result. -/
theorem fpLong_awaits (n : Nat) (f : Group → Lane → FpRes × Bool) (d : BitVec 6) (hd : dst i = some d) :
    fpLong i n f d s = .next (s.awaitsFloat i n d (f s.g)) := by
  refine issueOn_done i strict (srcs i) _ _ s _ h rfl ?_ (clear_held i s h)
  dsimp only
  rw [longAct_done i n _ d s (clear_dst_stream i s h d (by simp [dsts, hd]))]
  dsimp only
  rw [pay_if]

end Forms

/-! ### The forms of the tables -/

/-- What a form of the tables gives in a lane: its result, and whether the lane meets a subnormal. -/
def FloatForm.row (f : FloatForm) (g : Group) (l : Lane) : FpRes × Bool := (f.in g l, f.subnormal g l)

/-- What `fadd`, `fsub` and `fmul` compute in a lane, by the operation's number in a step. -/
def twoResult (op t : BitVec 2) (a b : BitVec 6) (g : Group) (l : Lane) : FpRes :=
  if op = 0 then fpAdd (fpFmt t) (rm g l) false (opnd t g l a) (opnd t g l b)
  else if op = 1 then fpAdd (fpFmt t) (rm g l) true (opnd t g l a) (opnd t g l b)
  else fpMul (fpFmt t) (rm g l) (opnd t g l a) (opnd t g l b)

/-- On operands that have arrived, `fadd`, `fsub` and `fmul` compute. -/
theorem fpStepTwo_known (op t : BitVec 2) (a b : BitVec 6) (g : Group) (l : Lane) (ha : (g.read l a).known = true)
    (hb : (g.read l b).known = true) : fpStepTwo op t a b g l =
      some (laneOutcome (withSub t [opnd t g l a, opnd t g l b] (twoResult op t a b g l))) := by
  simp only [fpStepTwo, known_record _ ha, known_record _ hb]
  rfl

/-- On operands that have arrived, `fma` computes. -/
theorem fpStepFma_known (t : BitVec 2) (a b d : BitVec 6) (g : Group) (l : Lane) (ha : (g.read l a).known = true)
    (hb : (g.read l b).known = true) (hd : (g.read l d).known = true) : fpStepFma t a b d g l =
      some (laneOutcome (withSub t [opnd t g l a, opnd t g l b, opnd t g l d]
        (fpFma (fpFmt t) (rm g l) false false (opnd t g l a) (opnd t g l b) (opnd t g l d)))) := by
  simp only [fpStepFma, known_record _ ha, known_record _ hb, known_record _ hd]
  rfl

end Sys2Proof.Machine
end

section
/-! Floating-point forms (06 R127 to R138). -/

namespace Sys2Proof.Machine

/-- A form with a step on symbols, on two operands that have arrived, that is written as its row. -/
theorem fpStepTwo_row (i : Instr) (s : State) (h : s.clear i (srcs i)) (op t : BitVec 2) (a b : BitVec 6) (hs : srcs i = [a, b])
    (f : FloatForm) (hf : ∀ l, withSub t [opnd t s.g l a, opnd t s.g l b] (twoResult op t a b s.g l) = f.row s.g l) :
    fpAct i (fpStepTwo op t a b) s = .next (s.floats i (f.row s.g)) := by
  refine fpAct_floats i s h _ _ fun l hl => ?_
  have hk := clear_known i s h l hl
  rw [fpStepTwo_known op t a b s.g l (hk a (by simp [hs])) (hk b (by simp [hs])), hf]

/-- A form that blocks on symbols and is written as its row. -/
theorem fpBlocking_row (i : Instr) (s : State) (h : s.clear i (srcs i)) (f : FloatForm) (k : Group → Lane → FpRes × Bool)
    (hk : ∀ l, k s.g l = f.row s.g l) : fpBlocking i k s = .next (s.floats i (f.row s.g)) := by
  rw [fpBlocking_floats i s h, funext hk]

/-- A long form that is written as its row. -/
theorem fpLong_row (i : Instr) (s : State) (h : s.clear i (srcs i)) (n : Nat) (d : BitVec 6) (hd : dst i = some d) (f : FloatForm)
    (k : Group → Lane → FpRes × Bool) (hk : ∀ l, k s.g l = f.row s.g l) :
    fpLong i n k d s = .next (s.awaitsFloat i n d (f.row s.g)) := by
  rw [fpLong_awaits i s h n k d hd, funext hk]

/-- Every short form gives the results of its row. -/
theorem floatForm_floats (i : Instr) (s : State) (f : FloatForm) (hi : floatResult i = some f) (h : s.clear i (srcs i)) :
    exec i s = .next (s.floats i (f.row s.g)) := by
  cases i with
  -- forms that step a symbol
  | fadd | fsub | fmul | compactFaddF32 | compactFmulF32 =>
    cases hi; exact fpStepTwo_row _ s h _ _ _ _ rfl _ fun _ => rfl
  | fma b a n d t =>
    cases hi
    refine fpAct_floats _ s h _ _ fun l hl => ?_
    have hk := clear_known _ s h l hl
    exact fpStepFma_known t a b d s.g l (hk a (by simp [srcs])) (hk b (by simp [srcs])) (hk d (by simp [srcs]))
  -- forms that a symbol holds back
  | fms | fnma | fmin | fmax | fceq | fclt | fcle | fcun | fround | fcvtFf | fcvtFi => cases hi; exact fpBlocking_row _ s h _ _ fun _ => rfl
  -- forms to which subnormals cost nothing
  | fabs | fneg | fsgn | fclass => cases hi; exact fpBlocking_row _ s h _ _ fun _ => rfl
  | _ => cases hi

/-- Every long form has the results of its row awaited. -/
theorem longFloatForm_awaits (i : Instr) (s : State) (f : FloatForm) (d : BitVec 6) (n : Nat) (hi : longFloatResult i = some (f, d, n))
    (h : s.clear i (srcs i)) : exec i s = .next (s.awaitsFloat i n d (f.row s.g)) := by
  cases i with
  | fdiv | fsqrt | fexp2 | flog2 => cases hi; exact fpLong_row _ s h _ _ rfl _ _ fun _ => rfl
  | _ => cases hi

/-- Settles O16: each form by its row, and `fcvt.if` by the integer it rounds. -/
theorem floatFormsWriteTheirResults : Obligations.FloatFormsWriteTheirResults := by
  unfold Obligations.FloatFormsWriteTheirResults
  refine ⟨floatForm_floats, fun imm a d n t u s h => ?_, longFloatForm_awaits⟩
  exact fpBlocking_floats _ s h fun g l => withSub t [] (fpOfInt (fpFmt t) (rm g l) (intOperand imm (g.read l a).word))

end Sys2Proof.Machine
end

section
/-! SUPPORT. The completion of an instruction that another group sleeps at (07 R153, R158): what it leaves of that group, and what the
issuing group has of the end of the other's run (04 R88). -/

namespace Sys2Proof.Machine

/-! ### What a state keeps while another group issues -/

/-- The other groups are as they were but for what belongs to a gang as a whole: a strand's are the same. -/
def State.sharesInto (s t : State) : Prop :=
  ∃ φ : Group → Group, t.groups = s.groups.map φ ∧ ∀ x, (φ x).gid = x.gid ∧ (x.isG = false → φ x = x)

theorem sharesInto_of_groups (s t : State) (h : t.groups = s.groups) : s.sharesInto t :=
  ⟨id, by rw [h, List.map_id], fun _ => ⟨rfl, fun _ => rfl⟩⟩

theorem sharesInto_trans (s t u : State) (hst : s.sharesInto t) (htu : t.sharesInto u) : s.sharesInto u := by
  obtain ⟨φ, ht, hφ⟩ := hst
  obtain ⟨ψ, hu, hψ⟩ := htu
  refine ⟨ψ ∘ φ, by rw [hu, ht, List.map_map], fun x => ⟨(hψ _).1.trans (hφ x).1, fun hx => ?_⟩⟩
  rw [Function.comp_apply, (hφ x).2 hx, (hψ x).2 hx]

theorem sharesInto_shareStreams (s : State) (v : Vector (Option Stream) 8) : s.sharesInto (s.shareStreams v) := by
  refine ⟨_, rfl, fun x => ⟨?_, fun hx => ?_⟩⟩
  · split <;> rfl
  · simp [hx]

theorem sharesInto_shareXM (s : State) : s.sharesInto s.shareXM := by
  refine ⟨_, rfl, fun x => ⟨?_, fun hx => ?_⟩⟩
  · split <;> rfl
  · simp [hx]

/-- What the end of an instruction leaves as it was: the group's number, pc and run, memory, the cores, and the other groups but for
what belongs to their gang. -/
def State.settlesInto (s t : State) : Prop :=
  t.g.gid = s.g.gid ∧ t.g.pc = s.g.pc ∧ t.g.run = s.g.run ∧ t.mem = s.mem ∧ t.cores = s.cores ∧ s.sharesInto t

theorem disarmOn_foldl (hs : List (Nat × Nat × List (Nat × Val))) (s : State) :
    ∃ ps, hs.foldl (fun s h => s.disarmOn s.g.gang h.1) s = { s with punits := ps } := by
  induction hs generalizing s with
  | nil => exact ⟨s.punits, rfl⟩
  | cons h t ih =>
    obtain ⟨ps, hps⟩ := ih (s.disarmOn s.g.gang h.1)
    exact ⟨ps, hps⟩

theorem settlesInto_consume (s : State) : s.settlesInto s.consume := by
  unfold State.consume
  split
  next => exact ⟨rfl, rfl, rfl, rfl, rfl, sharesInto_of_groups s s rfl⟩
  next =>
    dsimp only
    generalize s.g.held.filter _ = hs
    obtain ⟨ps, hps⟩ := disarmOn_foldl hs s
    rw [hps]
    exact ⟨rfl, rfl, rfl, rfl, rfl, sharesInto_shareStreams s _⟩

theorem settlesInto_closeRun (s : State) : s.settlesInto s.closeRun := by
  unfold State.closeRun
  split
  next => exact ⟨rfl, rfl, rfl, rfl, rfl, sharesInto_of_groups s s rfl⟩
  next => exact ⟨rfl, rfl, rfl, rfl, rfl, sharesInto_shareXM s⟩

/-! ### The completion -/

/-- The state in which an instruction that has been performed has ended with its run. -/
noncomputable def State.ended (s : State) (i : Instr) : State := { (finish i true s (.done s)).closeRun with clk := s.clk }

theorem complete_eq (s : State) (gid : Nat) (i : Instr) : s.complete gid i = s.onGroup gid (·.ended i) := rfl

/-- The group goes on past its instruction. -/
theorem ended_past (s : State) (i : Instr) (hu : s.unstepped) :
    (s.ended i).g.gid = s.g.gid ∧ (s.ended i).g.pc = s.g.pc + BitVec.ofNat 64 i.len ∧ (s.ended i).g.run = .ready ∧
      (s.ended i).mem = s.mem ∧ (s.ended i).cores = s.cores ∧ s.sharesInto (s.ended i) := by
  obtain ⟨hgid, -, hrun, hmem, hcores, hsh⟩ := settlesInto_consume (State.retire s s i true)
  have hfin : finish i true s (.done s) =
      State.tick { (State.retire s s i true).consume with
        g := { (State.retire s s i true).consume.g with pc := s.g.pc + BitVec.ofNat 64 i.len } } := by
    simp only [finish, stepTrap_none _ _ _ hu]
  obtain ⟨hgid', hpc', hrun', hmem', hcores', hsh'⟩ := settlesInto_closeRun (finish i true s (.done s))
  have hg : (finish i true s (.done s)).g =
      { (State.retire s s i true).consume.g with pc := s.g.pc + BitVec.ofNat 64 i.len } := congrArg State.g hfin
  refine ⟨hgid'.trans ?_, hpc'.trans ?_, hrun'.trans ?_, hmem'.trans ?_, hcores'.trans ?_, sharesInto_trans _ _ _ ?_ hsh'⟩
  · rw [hg]
    exact hgid
  · rw [hg]
  · rw [hg]
    exact hrun
  · rw [hfin]
    exact hmem
  · rw [hfin]
    exact hcores
  · rw [hfin]
    exact hsh

/-- The state with another group as the issuing one, which waits in that group's place. -/
def State.issuingAs (s : State) (h : Group) : State := { s with g := h, groups := s.groups.map fun x => if x.gid = h.gid then s.g else x }

/-- What an operation on another group leaves, where it leaves a strand that issues. -/
theorem onGroup_other (s : State) (gid : Nat) (f : State → State) (h : Group) (hs : s.g.gid ≠ gid) (hg : s.g.isG = false)
    (hfind : s.groups.find? (fun o => o.gid == gid) = some h) (hout : ∀ o ∈ s.groups, o.gid ≠ s.g.gid)
    (hgid : (f (s.issuingAs h)).g.gid = gid) (hrun : (f (s.issuingAs h)).g.run ≠ .free) (hsh : (s.issuingAs h).sharesInto (f (s.issuingAs h))) :
    (s.onGroup gid f).g = s.g ∧ (s.onGroup gid f).group gid = some (f (s.issuingAs h)).g ∧
      (s.onGroup gid f).mem = (f (s.issuingAs h)).mem ∧ (s.onGroup gid f).cores = (f (s.issuingAs h)).cores := by
  have hh : h.gid = gid := by simpa using List.find?_some hfind
  have hmem : h ∈ s.groups := List.mem_of_find?_eq_some hfind
  have has : ({ s with g := h, groups := s.groups.map fun x => if x.gid = gid then s.g else x } : State) = s.issuingAs h := by
    rw [State.issuingAs, hh]
  obtain ⟨φ, hgroups, hφ⟩ := hsh
  -- the issuing group is the one of its number, and none is of the other's
  have hold : ∀ x ∈ (f (s.issuingAs h)).groups, x.gid ≠ gid ∧ (x.gid = s.g.gid → x = s.g) := by
    intro x hx
    rw [hgroups] at hx
    obtain ⟨y, hy, rfl⟩ := List.mem_map.1 hx
    obtain ⟨o, ho, rfl⟩ := List.mem_map.1 hy
    rw [hh, (hφ _).1]
    split
    · exact ⟨hs, fun _ => (hφ _).2 hg⟩
    · exact ⟨‹_›, fun e => absurd e (hout o ho)⟩
  have hin : s.g ∈ (f (s.issuingAs h)).groups := by
    rw [hgroups]
    exact List.mem_map.2 ⟨s.g, List.mem_map.2 ⟨h, hmem, if_pos rfl⟩, (hφ _).2 hg⟩
  have hfound : (f (s.issuingAs h)).groups.find? (fun x => x.gid == s.g.gid) = some s.g := by
    obtain ⟨o, ho⟩ := Option.isSome_iff_exists.1
      (List.find?_isSome (p := fun x : Group => x.gid == s.g.gid).2 ⟨s.g, hin, beq_self_eq_true _⟩)
    rw [ho, (hold o (List.mem_of_find?_eq_some ho)).2 (by simpa using List.find?_some ho)]
  unfold State.onGroup
  rw [if_neg hs, hfind]
  simp only [has, hfound, hrun, if_false]
  exact ⟨trivial, (if_neg hs).trans (find_swapped _ _ gid _ hgid ⟨s.g, hin, rfl⟩ fun x hx => (hold x hx).1), trivial, trivial⟩

/-- A sleeper goes on past its instruction, and the strand that wakes it is as it was. -/
theorem complete_sleeper (s : State) (gid : Nat) (i : Instr) (h : Group) (hs : s.g.gid ≠ gid) (hg : s.g.isG = false)
    (hfind : s.groups.find? (fun o => o.gid == gid) = some h) (hout : ∀ o ∈ s.groups, o.gid ≠ s.g.gid)
    (hu : statusSStep h.sp.status = false ∨ h.priv ≠ 0) :
    (s.complete gid i).g = s.g ∧ (s.complete gid i).mem = s.mem ∧ (s.complete gid i).cores = s.cores ∧
      ∃ k, (s.complete gid i).group gid = some k ∧ k.pc = h.pc + BitVec.ofNat 64 i.len ∧ k.run = .ready := by
  have hh : h.gid = gid := by simpa using List.find?_some hfind
  obtain ⟨hgid, hpc, hrun, hmem, hcores, hsh⟩ := ended_past (s.issuingAs h) i hu
  obtain ⟨hg', hk, hmem', hcores'⟩ := onGroup_other s gid (·.ended i) h hs hg hfind hout
    (hgid.trans hh) (by rw [hrun]; decide) hsh
  exact ⟨hg', hmem'.trans hmem, hcores'.trans hcores, _, hk, hpc, hrun⟩

end Sys2Proof.Machine
end

section
/-! Semaphores and shared registers (07 R153, R154; 09 R200, R201, R208). -/

namespace Sys2Proof.Machine

/-- An instruction that begins to wait in a state that it has changed. -/
theorem issueOn_waits (i : Instr) (m : Mode) (cs : List (BitVec 6)) (pre : State → Option Trap) (body : State → Act) (s s1 : State)
    (w : Wait) (h : s.clear i cs) (hp : pre s = none) (hb : body s = .wait s1 w) (hrun : s1.g.run = s.g.run) (hclk : s1.clk = s.clk) :
    issueOn cs i m pre body s = .next (s1.waits w) := by
  obtain ⟨hr, hk, -⟩ := h
  unfold issueOn issueBlk
  rw [issueAct_clear i m cs pre body s hr hk hp, hb]
  simp only [finish, State.waits, hrun, hclk]
  rfl

/-- Only the group changes, and its number stays, past an instruction. -/
theorem past_group (s : State) (i : Instr) (s0 : State) (gid : Nat) (h : s.g.gid ≠ gid) : (s.past i s0).group gid = s.group gid :=
  (if_neg h).trans (if_neg h).symm

/-- A semaphore of the issuing group's core set. -/
def State.semSet (s : State) (n : Nat) (x : Sem) : State := s.mapCore s.g.core fun c => c.setSem n x

@[simp] theorem semSet_g (s : State) (n : Nat) (x : Sem) : (s.semSet n x).g = s.g := mapCore_g _ _ _
@[simp] theorem semSet_groups (s : State) (n : Nat) (x : Sem) : (s.semSet n x).groups = s.groups := mapCore_groups _ _ _
@[simp] theorem semSet_mem (s : State) (n : Nat) (x : Sem) : (s.semSet n x).mem = s.mem := mapCore_mem _ _ _
@[simp] theorem semSet_clk (s : State) (n : Nat) (x : Sem) : (s.semSet n x).clk = s.clk := mapCore_clk _ _ _

/-- A semaphore and the issuing group change beside each other. -/
theorem semSet_withSent (s : State) (n : Nat) (x : Sem) :
    ({ s with g := { s.g with sent := true } } : State).semSet n x = { s.semSet n x with g := { (s.semSet n x).g with sent := true } } := by
  unfold State.semSet State.mapCore
  dsimp only
  split <;> rfl

theorem core_congr (s t : State) (n : Nat) (h : t.cores = s.cores) : t.core n = s.core n := by simp only [State.core, h]

theorem semSet_sem (s : State) (n : Nat) (x : Sem) (h : n < 16) : ((s.semSet n x).core s.g.core).sem n = x := by
  rw [State.semSet, mapCore_core s s.g.core (fun c => c.setSem n x) fun _ => rfl]
  simp [Core.sem, Core.setSem, h]

/-! ### `sem.p` -/

/-- `sem.p` in the issue in which it has not begun to sleep. -/
theorem semTake_first (i : Instr) (n : Nat) (s : State) (hs : s.g.sent = false) (hf : s.follower i = true) (hh : s.g.held = []) :
    semTake i n s =
      if ((s.core s.g.core).sem n).count ≠ 0 then
        .done (s.semSet n ⟨((s.core s.g.core).sem n).count - 1, ((s.core s.g.core).sem n).sleepers⟩)
      else
        .wait (({ s with g := { s.g with sent := true } } : State).semSet n
          ⟨((s.core s.g.core).sem n).count, ((s.core s.g.core).sem n).sleepers ++ [s.g.gid]⟩) (.sem n) := by
  unfold semTake
  rw [if_neg (by simp [hs]), withFollower_go i s _ hf hh]
  rfl

section SemP
variable (n : BitVec 6) (s : State) (hc : s.clear (.semP n) []) (hf : s.follower (.semP n) = true)
include hc hf

theorem exec_semP_takes (hx : ((s.core s.g.core).sem n.toNat).count ≠ 0) :
    exec (.semP n) s = .next ((s.semSet n.toNat
      ⟨((s.core s.g.core).sem n.toNat).count - 1, ((s.core s.g.core).sem n.toNat).sleepers⟩).past (.semP n) s) := by
  have hh := clear_held _ s hc
  exact issueOn_done _ strict [] _ _ s _ hc rfl ((semTake_first _ _ s (clear_sent _ s _ hc) hf hh).trans (if_pos hx))
    (by rw [semSet_g]; exact hh)

theorem exec_semP_sleeps (hx : ((s.core s.g.core).sem n.toNat).count = 0) :
    exec (.semP n) s =
      (let s1 := s.semSet n.toNat ⟨0, ((s.core s.g.core).sem n.toNat).sleepers ++ [s.g.gid]⟩
       let s2 : State := { s1 with g := { s1.g with sent := true } }
       .next (s2.waits (.sem n.toNat))) := by
  refine issueOn_waits _ strict [] _ _ s _ _ hc rfl
    ((semTake_first _ _ s (clear_sent _ s _ hc) hf (clear_held _ s hc)).trans ?_) (by rw [semSet_g]) (semSet_clk _ _ _)
  rw [if_neg (not_not.2 hx), hx, semSet_withSent]

end SemP

/-! ### `sem.v` -/

theorem kindOk_semV (n : BitVec 6) (isG : Bool) : kindOk (.semV n) isG = !isG := by cases isG <;> rfl

/-- A group that may issue `sem.v` is a strand (09 R187). -/
theorem semV_strand (n : BitVec 6) (s : State) (hc : s.clear (.semV n) []) : s.g.isG = false := by
  obtain ⟨⟨-, -, hkind, -⟩, -⟩ := hc
  rw [kindOk_semV] at hkind
  simpa using hkind

section SemV
variable (n : BitVec 6) (s : State) (hc : s.clear (.semV n) []) (hf : s.follower (.semV n) = true)
include hc hf

theorem exec_semV_waits (hq : s.quiet false = false) : exec (.semV n) s = .next (s.waits .fence) := by
  refine issueOn_wait _ strict [] _ _ s _ hc.1 hc.2.1 rfl ?_
  unfold semGive
  rw [withFollower_go _ s _ hf (clear_held _ s hc)]
  simp [withFence, hq]

theorem semGive_quiet (hq : s.quiet false = true) :
    semGive (.semV n) n.toNat s = match ((s.core s.g.core).sem n.toNat).sleepers with
      | [] => .done (s.semSet n.toNat
          ⟨min (((s.core s.g.core).sem n.toNat).count + 1) 65535, ((s.core s.g.core).sem n.toNat).sleepers⟩)
      | gid :: t => .done ((s.semSet n.toNat ⟨((s.core s.g.core).sem n.toNat).count, t⟩).complete gid (.semP n)) := by
  unfold semGive
  rw [withFollower_go _ s _ hf (clear_held _ s hc)]
  simp only [withFence, hq, if_true, BitVec.ofNat_toNat, BitVec.setWidth_eq]
  rfl

theorem exec_semV_counts (hq : s.quiet false = true) (hx : ((s.core s.g.core).sem n.toNat).sleepers = []) :
    exec (.semV n) s = .next ((s.semSet n.toNat ⟨min (((s.core s.g.core).sem n.toNat).count + 1) 65535, []⟩).past (.semV n) s) := by
  refine issueOn_done _ strict [] _ _ s _ hc rfl ((semGive_quiet n s hc hf hq).trans ?_) (by rw [semSet_g]; exact clear_held _ s hc)
  rw [hx]

/-- The oldest sleeper takes the unit and goes on past its `sem.p`; the strand that gives it is as it was. -/
theorem exec_semV_wakes (hq : s.quiet false = true) (gid : Nat) (rest : List Nat) (h : Group)
    (hx : ((s.core s.g.core).sem n.toNat).sleepers = gid :: rest) (hne : gid ≠ s.g.gid)
    (hfind : s.groups.find? (fun o => o.gid == gid) = some h) (hout : ∀ o ∈ s.groups, o.gid ≠ s.g.gid)
    (hu : statusSStep h.sp.status = false ∨ h.priv ≠ 0) :
    ∃ (u : State) (k : Group), exec (.semV n) s = .next (u.past (.semV n) s) ∧ u.g = s.g ∧ u.mem = s.mem ∧
      u.cores = (s.semSet n.toNat ⟨((s.core s.g.core).sem n.toNat).count, rest⟩).cores ∧
      u.group gid = some k ∧ k.pc = h.pc + 4 ∧ k.run = .ready := by
  obtain ⟨hg, hmem, hcores, k, hk, hpc, hrun⟩ := complete_sleeper
    (s.semSet n.toNat ⟨((s.core s.g.core).sem n.toNat).count, rest⟩) gid (.semP n) h
    (by rw [semSet_g]; exact hne.symm) (by rw [semSet_g]; exact semV_strand n s hc) (by rw [semSet_groups]; exact hfind)
    (by rw [semSet_groups, semSet_g]; exact hout) hu
  rw [semSet_g] at hg
  rw [semSet_mem] at hmem
  refine ⟨_, k, issueOn_done _ strict [] _ _ s _ hc rfl ((semGive_quiet n s hc hf hq).trans ?_) ?_, hg, hmem, hcores, hk, hpc, hrun⟩
  · rw [hx]
  · rw [hg]
    exact clear_held _ s hc

end SemV

/-! ### Shared registers -/

theorem exec_sregRd (n d : BitVec 6) (s : State) (hc : s.clear (.sregRd n d) []) :
    exec (.sregRd n d) s = .next (s.computes (.sregRd n d) fun _ => dataWord ((s.core s.g.core).s.toList.getD n.toNat 0)) :=
  issueOn_done _ strict [] _ _ s _ hc rfl (deliver_done _ _ _ s (clear_dst_stream _ s hc)) ((gets_held _ _ _ _).trans (clear_held _ s hc))

theorem exec_sregWr (n a : BitVec 6) (s : State) (l : Lane) (t : List Lane) (hc : s.clear (.sregWr n a) [a])
    (hf : s.follower (.sregWr n a) = true) (hl : s.g.acts = l :: t) :
    exec (.sregWr n a) s =
      .next ((s.mapCore s.g.core fun c => { c with s := c.s.setIfInBounds n.toNat (s.g.words l a) }).past (.sregWr n a) s) := by
  have hh := clear_held _ s hc
  refine issueOn_done _ elected [a] _ _ s _ hc rfl ((withFollower_go _ s _ hf hh).trans ?_) (by rw [mapCore_g]; exact hh)
  rw [hl]
  rfl

/-- Settles O31: each form by what its body leaves; a sleeper that takes the unit goes on past its `sem.p` while the strand that gives it
is as it was. -/
theorem semaphoresAndSharedRegisters : Obligations.SemaphoresAndSharedRegisters := by
  unfold Obligations.SemaphoresAndSharedRegisters
  refine ⟨fun n s hc hf => ⟨exec_semP_takes n s hc hf, exec_semP_sleeps n s hc hf⟩, fun n s hc hf => ⟨exec_semV_waits n s hc hf,
    exec_semV_counts n s hc hf, fun gid rest h hq hx hn hne hfind _ hout hu => ?_⟩, exec_sregRd, exec_sregWr⟩
  obtain ⟨u, k, ht, hg, hmem, hcores, hk, hpc, hrun⟩ := exec_semV_wakes n s hc hf hq gid rest h hx hne hfind hout hu
  refine ⟨_, k, ht, rfl, hmem, agrees_past _ _ _ _ _ _ _ (by rw [hg]; exact agrees_self s.g), ?_, ?_, hpc, hrun⟩
  · exact (congrArg (Core.sem · n.toNat) (core_congr _ (u.past (.semV n) s) _ hcores)).trans (semSet_sem s _ _ hn)
  · rw [past_group _ _ _ _ (by rw [hg]; exact hne.symm)]
    exact hk

end Sys2Proof.Machine
end

section
/-! SUPPORT. Regions: a push on the stacks of a group, the innermost entry of a group of one slice, and parts of a gang made one (07 R159 to
R164; 09 R194, R195). -/

namespace Sys2Proof.Machine

/-! ### The state after a transfer -/

/-- A transfer empties the latches and changes nothing else of the lanes. -/
theorem went_lanes {α : Type} (f : Lane → α) (hf : ∀ l : Lane, f { l with latch := [] } = f l) (s : State) (i : Instr) (s0 : State) (pc : Word) :
    (s.went i s0 pc).g.lanes.map f = s.g.lanes.map f := by
  have : (s.went i s0 pc).g.lanes = s.g.lanes.map fun l => { l with latch := [] } := rfl
  rw [this, List.map_map]
  exact List.map_congr_left fun l _ => hf l

theorem went_mem (s : State) (i : Instr) (s0 : State) (pc : Word) : (s.went i s0 pc).mem = s.mem := rfl
theorem went_groups (s : State) (i : Instr) (s0 : State) (pc : Word) : (s.went i s0 pc).groups = s.groups := rfl
theorem went_slices (s : State) (i : Instr) (s0 : State) (pc : Word) : (s.went i s0 pc).g.slices = s.g.slices := rfl

/-! ### One entry on every slice (07 R162) -/

/-- An entry written in the spill region if the stack holds sixteen. -/
def spilled (core : Nat) (e : Slice → StackEntry) (m : Memory) (sl : Slice) : Memory :=
  if 16 ≤ sl.stack.length then m.store (localPA core (sl.spillAt + 8 * (sl.stack.length - 16))) 8 (e sl).bits.toNat else m

/-- The state with an entry on the stack of every slice of the group. -/
def State.pushed (s : State) (e : Slice → StackEntry) : State :=
  { s with
    mem := s.g.slices.foldl (spilled s.g.core e) s.mem
    g := { s.g with slices := s.g.slices.map fun sl => { sl with stack := e sl :: sl.stack } } }

theorem push_entry (s : State) (e : Slice → StackEntry) (h : ∀ sl ∈ s.g.slices, sl.stack.length < s.g.limit) :
    s.push (fun sl => [e sl]) = some (s.pushed e) := by
  have hover : (s.g.slices.any fun sl => decide (s.g.limit < sl.stack.length + [e sl].length)) = false := by
    rw [List.any_eq_false]
    intro sl hsl
    simpa using h sl hsl
  unfold State.push
  rw [hover]
  rfl

theorem push_entry_full (s : State) (e : Slice → StackEntry) (h : ∃ sl ∈ s.g.slices, s.g.limit ≤ sl.stack.length) :
    s.push (fun sl => [e sl]) = none := by
  obtain ⟨sl, hsl, hlen⟩ := h
  refine if_pos (List.any_eq_true.2 ⟨sl, hsl, ?_⟩)
  simpa using Nat.lt_succ_of_le hlen

/-! ### `split` -/

/-- The JOIN entry that `split` pushes on a slice. -/
def Group.joinEntry (g : Group) (joinPc : Word) (t : Nat) (sl : Slice) : StackEntry :=
  ⟨true, joinPc, g.codeCap, lmaskOf sl.idx (g.acts.map (·.no)), sl.fmt.extractLsb' 0 6, BitVec.ofNat 12 t⟩

theorem splitAct_pushes (joinPc : Word) (s : State) (t : Nat) (ht : s.freshToken = some t)
    (h : ∀ sl ∈ s.g.slices, sl.stack.length < s.g.limit) :
    splitAct joinPc s = .jump (s.pushed (s.g.joinEntry joinPc t)) (s.g.pc + 4) := by
  have hp := push_entry s (s.g.joinEntry joinPc t) h
  unfold Group.joinEntry at hp ⊢
  simp only [splitAct, ht, hp]

theorem splitAct_full (joinPc : Word) (s : State) (h : ∃ sl ∈ s.g.slices, s.g.limit ≤ sl.stack.length) :
    splitAct joinPc s = .trap s s.g.overflow := by
  cases ht : s.freshToken with
  | none => simp only [splitAct, ht]
  | some t =>
    have hp := push_entry_full s (s.g.joinEntry joinPc t) h
    unfold Group.joinEntry at hp
    simp only [splitAct, ht, hp]

/-! ### `join` of a group of one slice -/

/-- The lanes of a group that an entry names, without those that have ended (07 R161). -/
def Group.namedBy (g : Group) (e : StackEntry) : List Lane := g.lanes.map fun l => { l with active := l.live && e.lmask.getLsbD (l.no % 4) }

/-- The group on the path of an entry of its only slice. -/
def Group.onPath (g : Group) (sl : Slice) (e : StackEntry) : Group :=
  { g with lanes := g.namedBy e, pc := e.pc, codeCap := e.code, slices := [sl.pop] }

/-- The group past its region, whose entry its only slice has popped. -/
def Group.pastRegion (g : Group) (sl : Slice) (e : StackEntry) : Group :=
  { g with lanes := g.namedBy e, slices := [sl.pop], arrivals := g.arrivals.eraseDups }

theorem pop_cons (sl : Slice) (e : StackEntry) (rest : List StackEntry) (h : sl.stack = e :: rest) :
    sl.pop = { sl with stack := rest, fmt := (sl.fmt &&& ~~~63#64) ||| e.fmt.setWidth 64 } := by
  unfold Slice.pop
  rw [h]

theorem pending_cons (sl : Slice) (e : StackEntry) (rest : List StackEntry) (h : sl.stack = e :: rest) :
    sl.pending = if e.isJoin then none else some e := by
  unfold Slice.pending
  rw [h]

theorem merge_nil (g : Group) : g.merge [] = { g with arrivals := g.arrivals.eraseDups } := by
  simp [Group.merge]

theorem rehome_nil (s : State) : s.rehome [] = s := rfl

section OneSliceGroup
variable (g : Group) (sl : Slice) (hs : g.slices = [sl]) (hl : ∀ l ∈ g.lanes, l.no / 4 = sl.idx)
include hs hl

theorem sliceOf_one (l : Lane) (h : l ∈ g.lanes) : g.sliceOf l.no = some sl := by simp [Group.sliceOf, hs, hl l h]

theorem nextPath_pending (p : StackEntry) (rest : List StackEntry) (n : Nat) (hst : sl.stack = p :: rest) (hj : p.isJoin = false)
    (hon : ∃ l ∈ g.lanes, l.live = true ∧ p.lmask.getLsbD (l.no % 4) = true) : g.nextPath (n + 1) = g.onPath sl p := by
  have hp : sl.pending = some p := by rw [pending_cons sl p rest hst, hj]; rfl
  have hlanes : (g.lanes.map fun l => ({ l with active := l.live && match (g.sliceOf l.no).bind fun x =>
        (match x.pending with | some x => if x.pc = p.pc ∧ x.code = p.code then some x else none | none => none) with
        | some x => x.lmask.getLsbD (l.no % 4) | none => false } : Lane)) = g.namedBy p :=
    List.map_congr_left fun l h => by simp [sliceOf_one g sl hs hl l h, hp]
  have hslices : (g.slices.map fun sl => if (match sl.pending with
        | some x => if x.pc = p.pc ∧ x.code = p.code then some x else none | none => none).isSome then sl.pop else sl) = [sl.pop] := by
    simp [hs, hp]
  have hany : (g.namedBy p).any (·.active) = true := by
    obtain ⟨l, h, hlive, hmask⟩ := hon
    exact List.any_eq_true.2 ⟨_, List.mem_map.2 ⟨l, h, rfl⟩, by simp [hlive, hmask]⟩
  have hfirst : g.slices.findSome? Slice.pending = some p := by simp [hs, hp]
  unfold Group.nextPath
  simp only [hfirst]
  refine (if_pos ((congrArg (List.any · (·.active)) hlanes).trans hany)).trans ?_
  exact congrArg₂ (fun ls sls => ({ g with lanes := ls, pc := p.pc, codeCap := p.code, slices := sls } : Group)) hlanes hslices

theorem afterJoin_one (e : StackEntry) (rest : List StackEntry) (hst : sl.stack = e :: rest) :
    g.afterJoin = { g with lanes := g.namedBy e, slices := [sl.pop] } := by
  have hlanes : (g.lanes.map fun l => ({ l with active := l.live && (match (g.sliceOf l.no).bind (·.stack.head?) with
      | some e => e.lmask.getLsbD (l.no % 4) | none => false) } : Lane)) = g.namedBy e :=
    List.map_congr_left fun l h => by simp [sliceOf_one g sl hs hl l h, hst]
  have hslices : g.slices.map Slice.pop = [sl.pop] := by rw [hs]; rfl
  exact congrArg₂ (fun ls sls => ({ g with lanes := ls, slices := sls } : Group)) hlanes hslices

end OneSliceGroup

section OneSlice
variable (s : State) (sl : Slice) (hs : s.g.slices = [sl])
include hs

theorem innerJoin_one : s.g.innerJoin = sl.stack.find? (·.isJoin) := by simp [Group.innerJoin, hs]

theorem joinAct_outside (h : sl.stack.find? (·.isJoin) = none) : joinAct s = .trap s (trap 0x20 0) := by
  simp only [joinAct, innerJoin_one s sl hs, h]

theorem joinAct_elsewhere (e : StackEntry) (h : sl.stack.find? (·.isJoin) = some e) (hpc : e.pc ≠ s.g.pc) :
    joinAct s = .trap s (trap 0x20 e.pc) := by
  simp only [joinAct, innerJoin_one s sl hs, h, if_pos hpc]

/-- On a PENDING entry the group goes on with its path. -/
theorem joinAct_pending (e p : StackEntry) (rest : List StackEntry) (he : sl.stack.find? (·.isJoin) = some e) (hpc : e.pc = s.g.pc)
    (hst : sl.stack = p :: rest) (hj : p.isJoin = false) (hl : ∀ l ∈ s.g.lanes, l.no / 4 = sl.idx)
    (hon : ∃ l ∈ s.g.lanes, l.live = true ∧ p.lmask.getLsbD (l.no % 4) = true) :
    joinAct s = .jump { s with g := s.g.onPath sl p } p.pc := by
  have hp : sl.pending = some p := by rw [pending_cons sl p rest hst, hj]; rfl
  have hany : (s.g.onPath sl p).lanes.any (·.active) = true := by
    obtain ⟨l, h, hlive, hmask⟩ := hon
    exact List.any_eq_true.2 ⟨_, List.mem_map.2 ⟨l, h, rfl⟩, by simp [hlive, hmask]⟩
  have hw : (s.g.slices.any fun sl => sl.pending.isSome) = true := by simp [hs, hp]
  unfold joinAct
  simp only [innerJoin_one s sl hs, he, ne_eq, hpc, not_true_eq_false, if_false, hw, if_true,
    nextPath_pending s.g sl hs hl p rest 2047 hst hj hon, hany, Bool.and_self]
  rfl

section AtJoin
variable (e : StackEntry) (rest : List StackEntry) (hst : sl.stack = e :: rest) (hj : e.isJoin = true) (hpc : e.pc = s.g.pc)
include hst hj hpc

/-- On a JOIN entry the group waits for the slices of its region, or goes on with them. -/
theorem joinAct_entry : joinAct s =
    let parts : List Group := s.otherParts.filter fun h => h.slices.any fun sl => sl.stack.any fun x => x.isJoin && x.token == e.token
    if parts.all fun (h : Group) => h.atJoin e.pc e.token then
      .jump (({ s with
          g := (s.g.merge parts).afterJoin
          groups := s.groups.filter fun (h : Group) => !(parts.any fun (p : Group) => p.gid == h.gid) } : State).rehome parts) (e.pc + 4)
    else .wait s .join := by
  have hfind : sl.stack.find? (·.isJoin) = some e := by rw [hst, List.find?_cons_of_pos hj]
  have hw : (s.g.slices.any fun sl => sl.pending.isSome) = false := by simp [hs, pending_cons sl e rest hst, hj]
  unfold joinAct
  simp only [innerJoin_one s sl hs, hfind, ne_eq, hpc, not_true_eq_false, if_false, hw, Bool.false_and, Bool.false_eq_true]

theorem joinAct_alone (ho : s.otherParts = []) (hl : ∀ l ∈ s.g.lanes, l.no / 4 = sl.idx) :
    joinAct s = .jump { s with g := s.g.pastRegion sl e } (s.g.pc + 4) := by
  have hg : (s.g.merge []).afterJoin = s.g.pastRegion sl e := by
    rw [merge_nil]
    exact afterJoin_one { s.g with arrivals := s.g.arrivals.eraseDups } sl hs hl e rest hst
  rw [joinAct_entry s sl hs e rest hst hj hpc, ho, hpc]
  simp only [List.filter_nil, List.all_nil, if_true, hg, List.any_nil, Bool.not_false, List.filter_true, rehome_nil]

theorem joinAct_waits (h : Group) (hmem : h ∈ s.otherParts) (hin : ∃ x ∈ h.slices, ∃ y ∈ x.stack, y.isJoin = true ∧ y.token = e.token)
    (hat : h.atJoin e.pc e.token = false) : joinAct s = .wait s .join := by
  obtain ⟨x, hx, y, hy, hyj, hyt⟩ := hin
  rw [joinAct_entry s sl hs e rest hst hj hpc]
  refine if_neg fun hall => ?_
  have hpart : h ∈ s.otherParts.filter fun h => h.slices.any fun sl => sl.stack.any fun x => x.isJoin && x.token == e.token := by
    refine List.mem_filter.2 ⟨hmem, List.any_eq_true.2 ⟨x, hx, List.any_eq_true.2 ⟨y, hy, ?_⟩⟩⟩
    simp [hyj, hyt]
  have := List.all_eq_true.1 hall h hpart
  simp [hat] at this

end AtJoin

end OneSlice

/-! ### `regang` -/

/-- Elements put in one by one are those there before and themselves, in some order. -/
theorem perm_foldl_insert {α : Type} (ins : α → List α → List α) (h : ∀ a l, (ins a l).Perm (a :: l)) (xs l : List α) :
    (xs.foldl (fun l a => ins a l) l).Perm (l ++ xs) := by
  induction xs generalizing l with
  | nil => simp
  | cons x t ih => exact (ih (ins x l)).trans (((h x l).append_right t).trans List.perm_middle.symm)

theorem insSlice_perm (a : Slice) (l : List Slice) : (insSlice a l).Perm (a :: l) := by
  induction l with
  | nil => exact .rfl
  | cons x t ih =>
    unfold insSlice
    split
    · exact .rfl
    · exact (ih.cons x).trans (.swap a x t)

theorem insLane_perm (a : Lane) (l : List Lane) : (insLane a l).Perm (a :: l) := by
  induction l with
  | nil => exact .rfl
  | cons x t ih =>
    unfold insLane
    split
    · exact .rfl
    · exact (ih.cons x).trans (.swap a x t)

theorem merge_one_slices (g h : Group) : (g.merge [h]).slices.Perm (g.slices ++ h.slices) := by
  have := perm_foldl_insert insSlice insSlice_perm h.slices g.slices
  simpa [Group.merge] using this

theorem merge_one_lanes (g h : Group) : (g.merge [h]).lanes.Perm (g.lanes ++ h.lanes) := by
  have := perm_foldl_insert insLane insLane_perm h.lanes g.lanes
  simpa [Group.merge] using this

/-- What merged groups take over is under way: the groups and memory are as they were. -/
theorem rehome_kept (s : State) (parts : List Group) :
    (s.rehome parts).g = s.g ∧ (s.rehome parts).groups = s.groups ∧ (s.rehome parts).mem = s.mem := by
  unfold State.rehome
  refine List.foldlRecOn parts _ (motive := fun t : State => t.g = s.g ∧ t.groups = s.groups ∧ t.mem = s.mem) ⟨rfl, rfl, rfl⟩ ?_
  intro t ht h _
  split
  · exact ht
  · exact ht

theorem regangAct_alone (s : State) (ho : s.otherParts = []) :
    regangAct s = .jump { s with g := { s.g with arrivals := s.g.arrivals.eraseDups } } (s.g.pc + 4) := by
  unfold regangAct
  simp only [ho, List.all_nil, Bool.not_true, Bool.false_eq_true, if_false, List.filter_nil, List.any_nil, Bool.not_false,
    List.filter_true, List.length_nil, mergeClasses, List.append_nil, List.foldl_nil, rehome_nil, merge_nil]

/-- Whether a part of a gang has stopped at a `regang` or a `join`. -/
def Group.atStop (h : Group) : Bool := match h.run with | .waiting .regang _ => true | .waiting .join _ => true | _ => false

theorem regangAct_waits (s : State) (h : ∃ h ∈ s.otherParts, h.atStop = false) : regangAct s = .wait s .regang := by
  obtain ⟨h, hmem, hrun⟩ := h
  unfold regangAct
  refine if_pos ?_
  rw [Bool.not_eq_true', List.all_eq_false]
  refine ⟨h, hmem, ?_⟩
  unfold Group.atStop at hrun
  split at hrun
  next => cases hrun
  next => cases hrun
  next hr hj => split <;> simp_all

/-- The state in which another part has joined the issuing group. -/
def State.merged (s : State) (h : Group) : State := { s with g := s.g.merge [h], groups := s.groups.filter fun x => !(h.gid == x.gid) }

theorem merge_held (g : Group) (hs : List Group) : (g.merge hs).held = g.held := rfl

/-- Two parts at one pc and token become one group. -/
theorem regangAct_two (s : State) (h : Group) (c : Nat) (ho : s.otherParts = [h]) (hr : h.run = .waiting .regang c) (hpc : h.pc = s.g.pc)
    (ht : h.topToken = s.g.topToken) :
    regangAct s = .jump ((s.merged h).rehome [h]) (s.g.pc + 4) := by
  unfold regangAct State.merged
  simp [ho, hr, hpc, ht, mergeClasses]

end Sys2Proof.Machine
end

section
/-! `split`, `join` and `regang` (07 R159 to R164; 09 R194, R195). -/

namespace Sys2Proof.Machine

/-- Settles O10: each form by what its body leaves. -/
theorem splitJoinAndRegang : Obligations.SplitJoinAndRegang := by
  unfold Obligations.SplitJoinAndRegang
  refine ⟨fun imm s hc => ⟨fun n hn hlim => ?_, fun hfull => ?_⟩,
    fun s sl hc hs => ⟨fun h => ?_, fun e he hpc => ?_, fun e p rest he hpc hst hj hl hon => ?_, fun e rest hst hj hpc ho hl => ?_,
      fun e rest h hst hj hpc hmem hin hat => ?_⟩,
    fun s hc => ⟨fun ho => ?_, fun h => ?_, fun h c ho hr hpc ht => ?_⟩⟩
  -- `split`
  · exact issueOn_jump _ strict [] _ _ s _ _ hc rfl (splitAct_pushes _ s n hn hlim) (clear_held _ s hc)
  · exact issueOn_trap _ strict [] _ _ s _ hc.1 hc.2.1 rfl (splitAct_full _ s hfull)
  -- `join`
  · exact issueOn_trap _ strict [] _ _ s _ hc.1 hc.2.1 rfl (joinAct_outside s sl hs h)
  · exact issueOn_trap _ strict [] _ _ s _ hc.1 hc.2.1 rfl (joinAct_elsewhere s sl hs e he hpc)
  · refine ⟨_, issueOn_jump _ strict [] _ _ s _ _ hc rfl (joinAct_pending s sl hs e p rest he hpc hst hj hl hon) (clear_held _ s hc),
      rfl, rfl, rfl, rfl, ?_, ?_⟩
    · refine (went_lanes _ (fun _ => rfl) _ _ _ _).trans ?_
      exact List.map_map
    · exact congrArg (fun x : Slice => [(x.stack, x.fmt)]) (pop_cons sl p rest hst)
  · refine ⟨_, issueOn_jump _ strict [] _ _ s _ _ hc rfl (joinAct_alone s sl hs e rest hst hj hpc ho hl) (clear_held _ s hc),
      rfl, rfl, rfl, ?_, ?_⟩
    · refine (went_lanes _ (fun _ => rfl) _ _ _ _).trans ?_
      exact List.map_map
    · exact congrArg (fun x : Slice => [(x.stack, x.fmt)]) (pop_cons sl e rest hst)
  · exact issueOn_wait _ strict [] _ _ s _ hc.1 hc.2.1 rfl (joinAct_waits s sl hs e rest hst hj hpc h hmem hin hat)
  -- `regang`
  · exact ⟨_, issueOn_jump _ strict [] _ _ s _ _ hc rfl (regangAct_alone s ho) (clear_held _ s hc), rfl, rfl, rfl,
      went_lanes _ (fun _ => rfl) _ _ _ _, rfl⟩
  · exact issueOn_wait _ strict [] _ _ s _ hc.1 hc.2.1 rfl (regangAct_waits s h)
  · obtain ⟨hg, hgroups, hmem⟩ := rehome_kept (s.merged h) [h]
    have hheld : ((s.merged h).rehome [h]).g.held = [] := by
      rw [hg]
      exact (merge_held s.g [h]).trans (clear_held _ s hc)
    refine ⟨_, issueOn_jump _ strict [] _ _ s _ _ hc rfl (regangAct_two s h c ho hr hpc ht) hheld, rfl, (went_mem _ _ _ _).trans hmem,
      ?_, ?_, ?_⟩
    · rw [went_slices, hg, ← List.map_append]
      exact (merge_one_slices s.g h).map _
    · rw [went_lanes _ (fun _ => rfl), hg]
      exact (merge_one_lanes s.g h).map _
    · rw [went_groups, hgroups]
      intro x hx
      have hne : ¬ h.gid = x.gid := by simpa using (List.mem_filter.1 hx).2
      exact fun he => hne he.symm

end Sys2Proof.Machine
end

section
/-! Stage rings (07 R158; 09 R207): what `ring.arrive` does where one group sleeps, and two parts of a gang of which the one that sleeps
has written an operand-extension register in its run. -/

namespace Sys2Proof.Machine

/-- The state with the phase of a stage of the issuing group's crew inverted. -/
def State.inverted (s : State) (r st : Nat) : State :=
  s.mapCrew s.g.sp.crew fun c => { c with rings := c.rings.setIfInBounds r ((c.rings.toList.getD r 0) ^^^ BitVec.ofNat 8 (2 ^ st)) }

/-- `ring.arrive` completes the `ring.wait` of the one group that sleeps for the phase that begins. -/
theorem exec_ringArrive_wakes (r : BitVec 2) (st : BitVec 3) (s : State) (gid : Nat) (hc : s.clear (.ringArrive r st) [])
    (hf : s.follower (.ringArrive r st) = true) (hq : s.quiet false = true) (hr : r.toNat < s.ringLimit)
    (hsl : s.ringSleepers s.g.sp.crew r.toNat st.toNat (!s.phase r.toNat st.toNat) = [gid])
    (hh : ((s.inverted r.toNat st.toNat).complete gid (.ringWait (!s.phase r.toNat st.toNat) r st)).g.held = []) :
    exec (.ringArrive r st) s =
      .next (((s.inverted r.toNat st.toNat).complete gid (.ringWait (!s.phase r.toNat st.toNat) r st)).past (.ringArrive r st) s) := by
  refine issueOn_done _ strict [] _ _ s _ hc rfl ?_ hh
  unfold ringArriveAct
  rw [if_neg (Nat.not_le.2 hr), withFollower_go _ s _ hf (clear_held _ s hc)]
  simp only [withFence, hq, if_true, hsl, List.foldl_cons, List.foldl_nil, BitVec.ofNat_toNat, BitVec.setWidth_eq]
  rfl

/-! ### Two parts of a gang -/

/-- A part of a gang at a `ring.arrive`. -/
def arrivingPart : Group := { Group.probe true with sp := { (Group.probe true).sp with crew := 1 } }

/-- Another part of the gang, asleep until stage 2 of ring 1 holds phase 1, which has written X[0] in its run. -/
def sleepingPart : Group :=
  { arrivingPart with
    gid := 2
    first := 1
    lanes := (upFrom 4 4).map fun n => startLane n []
    slices := [startSlice 1 1 0 Val.zero]
    run := .waiting (.ring 1 2 true) 0
    x := arrivingPart.x.set 0 7
    wx := 1 }

/-- The two parts, with code at the pc that reads no latch. -/
def ringGang : State :=
  { State.reset with g := arrivingPart, groups := [sleepingPart], nextId := 3, mem := State.reset.mem.store (localPA 2 0x1000) 8 0x2D0000002D }

theorem ringGang_clear : ringGang.clear (.ringArrive 1 2) [] := by decide +kernel

theorem ringGang_follower : ringGang.follower (.ringArrive 1 2) = true := by decide +kernel

theorem ringGang_sleepers : ringGang.ringSleepers 1 1 2 (!ringGang.phase 1 2) = [2] := by decide +kernel

/-- The end of the sleeper's run gives X[0] to the part that arrives (04 R88, R93). -/
theorem ringGang_shares : ((ringGang.inverted 1 2).complete 2 (.ringWait (!ringGang.phase 1 2) 1 2)).g.x = sleepingPart.x := by
  decide +kernel

/-- Refutes O33: a sleeper that goes on past its `ring.wait` ends its run there, and what the run has written in the operand-extension
registers reaches every part of the gang. The statement keeps those of the group that executes `ring.arrive`, of whatever gang the sleeper
is; where the sleeper is another part of its own gang with X[0] written in its run, they change. -/
theorem not_ringsStepsAndWaits : ¬ Obligations.RingsStepsAndWaits := by
  unfold Obligations.RingsStepsAndWaits
  rintro ⟨harrive, -⟩
  have hquiet : ringGang.quiet false = true := by decide +kernel
  have hlimit : 1 < ringGang.ringLimit := by decide +kernel
  have hheld : ((ringGang.inverted 1 2).complete 2 (.ringWait (!ringGang.phase 1 2) 1 2)).g.held = [] := by decide +kernel
  obtain ⟨-, hwake⟩ := harrive 1 2 ringGang ringGang_clear ringGang_follower hquiet hlimit
  obtain ⟨t, k, ht, -, -, hagree, -⟩ := hwake 2 sleepingPart ringGang_sleepers (by decide) rfl (by decide) (by decide) (.inl (by decide))
  rw [exec_ringArrive_wakes 1 2 ringGang 2 ringGang_clear ringGang_follower hquiet hlimit ringGang_sleepers hheld] at ht
  cases ht
  obtain ⟨-, -, hx, -⟩ := hagree
  exact absurd (ringGang_shares.symm.trans hx) (by decide)

end Sys2Proof.Machine
end

section
/-! The tender walk (15 R319 to R321): a walk that ends at its bearing quad with no place anywhere to wait. -/

namespace Sys2Proof.Machine

theorem exec_tenderWalkOffer (n : Nat) (s : State) : exec (.tenderWalkOffer n) s = .next (s.offer n).tick := rfl

theorem evqWR_congr (s t : State) (pa : Nat) (h : t.mem = s.mem) : t.evqWR pa = s.evqWR pa := by simp only [State.evqWR, h]

/-! ### A full ready queue and a full overflow list -/

/-- The event queue of the launching crew. -/
def launcherQueue : Nat := localPA 0 0x3000

/-- The crew whose member launched the task. -/
def launchingCrew : Crew :=
  { id := 1, task := 1, core := 0, isG := false, ctx := 1, lo := 0x1000, len := 0x2000, total := 0x2410, evq := some launcherQueue, limit := 16,
    members := 1, matrix := false, rings := Vector.replicate 4 0, wdog := 0, seen := 0, reload := 0, spillBytes := 0, spillHead := 0, spilled := [],
    preempt := false, atStep := false, since := 0, saved := false, withdrawn := false, switching := 0, area := 0, callers := [], pins := [] }

/-- A task of one strand on die 0 (CREWN, COUNT, DMIN and DMAX are 1). -/
def launchedTask : Task :=
  { id := 2, record := ⟨2 ^ 12 + 2 ^ 20 + 2 ^ 80 + 2 ^ 83, Val.zero, Val.zero⟩, addr := 0, asid := 1, mwb := 0, swb := 0, tvec := Val.zero, ctx := 1,
    fn := 0, launcher := some 1, light := none, dies := 1, epoch := 0, asked := 1, acked := 0, refused := 0, decided := false, aborted := false,
    start := 0, relaunches := 0, added := 0, src := 0, core := 0, killed := false, change := none, done := none, reply := false, status := 0,
    await := false, group := 0, pkgs := 0 }

/-- The task's walk at its bearing quad, with RADIUS 0. -/
def lastWalk : Tender :=
  { who := .share 2 0, die := 0, qx := 0, qy := 0, bx := 0, by_ := 0, radius := 0, left := 1, next := 0, stage := .route }

/-- A record that waits, in the queue of quad 0 or in the overflow list. -/
def waitingRecord (overflow : Bool) : QEntry :=
  { who := .share 3 0, quad := 0, pri := 0, left := 1, next := 0, since := 0, passed := none, blocking := false, overflow := overflow, freed := false }

/-- The walk where the queue of its bearing quad holds 32 records and the overflow list 1,024, and no core takes a crew. -/
def crowded : State :=
  { State.reset with
    crews := [launchingCrew]
    tasks := [launchedTask]
    tenders := [lastWalk]
    queues := List.replicate 32 (waitingRecord false) ++ List.replicate 1024 (waitingRecord true)
    nextId := 4 }

theorem crowded_fit : crowded.firstFit launchedTask.spec 1 (quadCores (quadAt 0 0 0) launchedTask.spec.isG) = none := by decide +kernel

/-- The record of the refusal is in the launching crew's event queue, whose WR counts it (15 R314, R315, R320). -/
theorem crowded_offer : (crowded.offer 0).tick.evqWR launcherQueue = 1 := by decide +kernel

/-- Refutes O47: where no core of its bearing quad takes the crew, the statement has a walk leave memory as it was. One with RADIUS 0 that
finds the quad's ready queue and the die's overflow list full is refused there, and the record of the refusal is written in the event queue
of the crew that launched the task. -/
theorem not_taskRecordsAreLaunchedAndPlaced : ¬ Obligations.TaskRecordsAreLaunchedAndPlaced := by
  unfold Obligations.TaskRecordsAreLaunchedAndPlaced
  rintro ⟨-, -, hroute, -⟩
  obtain ⟨-, hwithin, -⟩ := hroute crowded 0 lastWalk rfl rfl (by decide +kernel)
  obtain ⟨hnone, -⟩ := hwithin (by decide) (by decide) launchedTask.spec rfl
  obtain ⟨t, ht, hmem, -⟩ := hnone crowded_fit
  have hoffer : (crowded.offer 0).tick = t := Host.Outcome.next.inj ((exec_tenderWalkOffer 0 crowded).symm.trans ht)
  have hwr := evqWR_congr crowded t launcherQueue hmem
  rw [← hoffer, crowded_offer] at hwr
  exact absurd hwr (by decide +kernel)

end Sys2Proof.Machine
end

section
/-! SUPPORT. The end of lanes and the returns on their way (08 R180 to R182): the callers of the lanes that end are answered, and what else
ends with them leaves every return on its way. -/

namespace Sys2Proof.Machine

theorem foldl_returns {α : Type} (f : State → α → State) (h : ∀ s a, (f s a).returns = s.returns) (l : List α) (s : State) :
    (l.foldl f s).returns = s.returns := by
  induction l generalizing s with
  | nil => rfl
  | cons a l ih => rw [List.foldl_cons, ih, h]

/-! ### Records, flits and refusals -/

theorem evqWrite_returns (s : State) (pa : Nat) (bits : Quad) : (s.evqWrite pa bits).returns = s.returns := by
  simp [State.evqWrite, State.poke]

theorem emit_returns (s : State) (u : EngineUnit) (d : RecDest) (bits : Quad) : (s.emit u d bits).returns = s.returns := by
  unfold State.emit State.emitBy
  split
  · rfl
  · split
    · exact evqWrite_returns _ _ _
    · rfl

theorem tellPeers_returns (s : State) (t : Task) (k : BarKey) (gen : Nat) (v : Word) (gone : Bool) :
    (s.tellPeers t k gen v gone).returns = s.returns := by
  refine foldl_returns _ (fun s n => ?_) _ s
  unfold State.sendFlit
  dsimp only
  split <;> rfl

theorem lampPut_returns (s : State) (die kind : Nat) (bits : Quad) : (s.lampPut die kind bits).returns = s.returns := by
  unfold State.lampPut
  dsimp only
  split
  · rfl
  · split <;> rfl

theorem freeEntries_returns (s : State) (core : Nat) (ns : List Nat) : (s.freeEntries core ns).returns = s.returns :=
  mapCore_returns s core _

theorem dropRefusals_returns (s : State) (core : Nat) (mine : JEntry → Bool) (dest : JEntry → RecDest) :
    (s.dropRefusals core mine dest).returns = s.returns := by
  refine foldl_returns _ (fun s p => ?_) _ s
  split
  · split
    · rfl
    · split
      · exact freeEntries_returns _ _ _
      · exact (emit_returns _ _ _ _).trans (freeEntries_returns _ _ _)
  · rfl

/-! ### Barriers, groups, crews and tasks -/

theorem release_returns (s : State) (b : Barrier) : (s.release b).returns = s.returns := by
  unfold State.release
  extract_lets ms pod s0 of_ far s1 core id
  have h0 : s0.returns = s.returns := by
    simp only [s0]
    clear_value pod
    cases pod with
    | none => rfl
    | some t =>
      dsimp only
      split
      · rfl
      · exact tellPeers_returns _ _ _ _ _ _
  split
  · rfl
  · split
    · exact h0
    · exact (lampPut_returns _ _ _ _).trans h0

theorem releaseAll_returns (s : State) (task : Nat) : (s.releaseAll task).returns = s.returns :=
  foldl_returns _ (fun s _ => release_returns s _) _ s

theorem dropGroup_returns (s : State) (gid : Nat) : (s.dropGroup gid).returns = s.returns := by
  unfold State.dropGroup
  extract_lets s1 sem s2
  have h1 : s1.returns = s.returns := by
    simp only [s1]
    split
    · exact dropRefusals_returns _ _ _ _
    · rfl
  split <;> exact h1

theorem leavePeers_returns (s : State) (t : Task) : (s.leavePeers t).returns = s.returns := by
  unfold State.leavePeers
  split
  · rfl
  · exact tellPeers_returns _ _ _ _ _ _

theorem lightEnds_returns (s : State) (t : Task) : (s.lightEnds t).returns = s.returns := by
  unfold State.lightEnds
  split <;> rfl

theorem taskEnds_returns (s : State) (id core : Nat) (drives : Bool) : (s.taskEnds id core drives).returns = s.returns := by
  unfold State.taskEnds
  split
  · rfl
  next t _ =>
    have h1 : ((s.lightEnds t).leavePeers t).returns = s.returns := (leavePeers_returns _ _).trans (lightEnds_returns _ _)
    split
    · rfl
    · split <;> exact h1

theorem crewEnds_returns (s : State) (crew : Nat) (drives : Bool) : (s.crewEnds crew drives).returns = s.returns := by
  unfold State.crewEnds
  split
  · rfl
  next c _ =>
    split
    · rfl
    · rw [taskEnds_returns]
      show (if c.withdrawn then s.rollCrew c else s).returns = s.returns
      split <;> rfl

theorem groupEnds_returns (s : State) (gid crew task : Nat) : (s.groupEnds gid crew task).returns = s.returns :=
  (crewEnds_returns _ _ _).trans ((releaseAll_returns _ _).trans (dropGroup_returns _ _))

/-! ### Lanes -/

/-- What a caller is sent when the lane that runs for it ends: the lane's values, or STATUS 0x01 without any (08 R180, R182). -/
def CallerRef.answer (vals : List (Nat × List Val)) (r : CallerRef) : GangRet :=
  match vals.lookup r.lane with
  | some v => ⟨r.gid, r.lane, v, 0, 0⟩
  | none => ⟨r.gid, r.lane, [], 1, 0⟩

theorem answerLanes_returns (s : State) (crew : Nat) (ns : List Nat) (vals : List (Nat × List Val)) (c : Crew) (h : s.crew crew = some c) :
    (s.answerLanes crew ns vals).returns = s.returns ++ (c.callers.filter fun r => ns.contains r.lane).map (·.answer vals) := by
  unfold State.answerLanes
  simp only [h, mapCrew_returns]
  clear h
  generalize (c.callers.filter fun r => ns.contains r.lane) = due
  induction due generalizing s with
  | nil => simp
  | cons r due ih =>
    rw [List.foldl_cons, ih, List.map_cons]
    cases hv : vals.lookup r.lane <;> simp [CallerRef.answer, State.returnTo, hv]

/-- Lanes that end send nothing but the answers to their callers. -/
theorem endLanes_returns (s : State) (ns : List Nat) (vals : List (Nat × List Val)) :
    (s.endLanes ns vals).returns = (s.answerLanes s.g.sp.crew ns vals).returns := by
  unfold State.endLanes
  extract_lets s0 lanes slices old g1 s1
  have h1 : s1.returns = s0.returns := releaseAll_returns _ _
  split
  · exact groupEnds_returns _ _ _ _
  · split <;> exact h1

/-- The values of a lane that ends are on their way to the lane's caller. -/
theorem mem_returns_endLanes (s : State) (ns : List Nat) (vals : List (Nat × List Val)) (c : Crew) (h : s.crew s.g.sp.crew = some c)
    (r : CallerRef) (hr : r ∈ c.callers) (hns : r.lane ∈ ns) (v : List Val) (hv : vals.lookup r.lane = some v) :
    (⟨r.gid, r.lane, v, 0, 0⟩ : GangRet) ∈ (s.endLanes ns vals).returns := by
  have ha : r.answer vals = ⟨r.gid, r.lane, v, 0, 0⟩ := by simp [CallerRef.answer, hv]
  rw [endLanes_returns, answerLanes_returns s _ ns vals c h, ← ha]
  exact List.mem_append_right _ (List.mem_map_of_mem (List.mem_filter.2 ⟨hr, by simpa using hns⟩))

end Sys2Proof.Machine
end

section
/-! SUPPORT. Calls and returns at the Mooring (08 R170 to R175, R180, R181; 09 R197 to R199): how a call parks or stalls, and what each
event of an entry and of a return does. -/

namespace Sys2Proof.Machine

/-! ### The entries that fill -/

theorem fills_iff (e : MoorEntry) (quad : Nat) (asid : Word) (target : Val) :
    e.fills quad asid target = true ↔ e.quad = quad ∧ e.state = .filling ∧ e.asid = asid ∧ e.target.bits = target.bits := by
  simp [MoorEntry.fills, and_assoc]

theorem mem_filling (s : State) (quad : Nat) (asid : Word) (target : Val) (e : MoorEntry) :
    e ∈ s.filling quad asid target ↔ e ∈ s.moor ∧ e.quad = quad ∧ e.state = .filling ∧ e.asid = asid ∧ e.target.bits = target.bits := by
  rw [State.filling, List.mem_filter, fills_iff]

/-- The issuing strand as a caller in an entry, with its k1 to kn (08 R172). -/
def State.caller (s : State) (l : Lane) (n : Nat) : Caller :=
  ⟨s.g.gid, s.g.core, s.g.srcOf l.no % 64, s.g.sp.task, (upFrom 1 n).map fun j => s.g.kn l j⟩

/-- The entry with one caller more. -/
def MoorEntry.joined (e : MoorEntry) (c : Caller) : MoorEntry := { e with callers := e.callers ++ [c] }

section Park
variable (s : State) (quad : Nat) (target : Val) (n : Nat) (c : Caller)

/-- A caller joins an entry of its key that has room. -/
theorem park_joins (h : ∃ e ∈ s.filling quad s.g.sp.asid target, e.callers.length < 32) :
    ∃ e ∈ s.filling quad s.g.sp.asid target, s.park quad target n c = some (s.mapMoor quad e.idx (·.joined c)) := by
  obtain ⟨e, he⟩ := Option.isSome_iff_exists.1
    (List.find?_isSome (p := fun e : MoorEntry => decide (e.callers.length < 32)).2 (by simpa using h))
  refine ⟨e, List.mem_of_find?_eq_some he, ?_⟩
  unfold State.park
  rw [he]
  rfl

/-- Where every entry of its key is full, a caller opens the lowest free entry, or finds none that it may open. -/
theorem park_full (h : ∀ e ∈ s.filling quad s.g.sp.asid target, 32 ≤ e.callers.length) (first : Bool)
    (hfirst : first = true ↔ ∀ p ∈ (s.stalls.filter fun p => p.1 == quad).head?, p.2 = s.g.gid) :
    s.park quad target n c =
      ((upFrom 0 16).find? fun i => !(s.moor.any fun e => e.quad == quad && e.idx == i)).bind fun i =>
        if first then some { s with moor := s.moor ++ [s.openEntry quad i target n c] } else none := by
  have hnone : ((s.filling quad s.g.sp.asid target).find? fun e => decide (e.callers.length < 32)) = none := by
    rw [List.find?_eq_none]
    intro e he
    simpa using h e he
  have hahead : (match s.stalls.filter fun p => p.1 == quad with | [] => true | p :: _ => p.2 == s.g.gid) = first := by
    rw [Bool.eq_iff_iff, hfirst]
    cases s.stalls.filter fun p => p.1 == quad <;> simp
  unfold State.park
  rw [hnone]
  dsimp only
  rw [← hahead]
  cases (upFrom 0 16).find? fun i => !(s.moor.any fun e => e.quad == quad && e.idx == i) <;> rfl

/-- A caller with no stalled call ahead of it opens an entry where one is free. -/
theorem park_opens (h : ∀ e ∈ s.filling quad s.g.sp.asid target, 32 ≤ e.callers.length)
    (hfree : ∃ i < 16, ∀ e ∈ s.moor, e.quad = quad → e.idx ≠ i)
    (hfirst : ∀ p ∈ (s.stalls.filter fun p => p.1 == quad).head?, p.2 = s.g.gid) :
    ∃ i, s.park quad target n c = some { s with moor := s.moor ++ [s.openEntry quad i target n c] } := by
  obtain ⟨j, hj, hfree⟩ := hfree
  obtain ⟨i, hi⟩ := Option.isSome_iff_exists.1
    (List.find?_isSome (p := fun i => !(s.moor.any fun e => e.quad == quad && e.idx == i)).2
      ⟨j, (mem_upFrom_iff 0 16 j).2 ⟨Nat.zero_le j, by omega⟩, by simpa using hfree⟩)
  exact ⟨i, by rw [park_full s quad target n c h true (by simpa using hfirst), hi]; rfl⟩

/-- A caller does not park where no entry is free, or another stalled call is ahead of it. -/
theorem park_none (h : ∀ e ∈ s.filling quad s.g.sp.asid target, 32 ≤ e.callers.length)
    (hno : (∀ i < 16, ∃ e ∈ s.moor, e.quad = quad ∧ e.idx = i) ∨
      ∃ p ∈ (s.stalls.filter fun p => p.1 == quad).head?, p.2 ≠ s.g.gid) :
    s.park quad target n c = none := by
  rcases hno with hused | ⟨p, hp, hne⟩
  · have hnone : ((upFrom 0 16).find? fun i => !(s.moor.any fun e => e.quad == quad && e.idx == i)) = none := by
      rw [List.find?_eq_none]
      intro i hi
      simpa using hused i (by simpa using ((mem_upFrom_iff 0 16 i).1 hi).2)
    rw [park_full s quad target n c h _ decide_eq_true_iff, hnone]
    rfl
  · rw [park_full s quad target n c h false ⟨nofun, fun hall => absurd (hall p hp) hne⟩]
    cases (upFrom 0 16).find? fun i => !(s.moor.any fun e => e.quad == quad && e.idx == i) <;> rfl

end Park

/-! ### `gcall` (09 R197) -/

/-- The state of a strand that has parked at its call, which has taken it into `s1`. -/
def State.parked (s s1 : State) (i : Instr) : State :=
  let s2 := (State.retire s s1.unstall i true).consume
  { s2 with g := { s2.g with run := .parked, pc := s.g.pc + BitVec.ofNat 64 i.len } }

/-- The state with the issuing group's call among those stalled at its quad. -/
def State.stalled (s : State) : State :=
  if s.stalls.any fun p => p.2 == s.g.gid then s else { s with stalls := s.stalls ++ [(quadOf s.g.core, s.g.gid)] }

theorem stalled_mem (s : State) : ∃ p ∈ s.stalled.stalls, p.2 = s.g.gid := by
  unfold State.stalled
  split
  next h => simpa using h
  · exact ⟨(quadOf s.g.core, s.g.gid), by simp, rfl⟩

theorem stalled_frame (s : State) : s.stalled.g = s.g ∧ s.stalled.moor = s.moor ∧ s.stalled.mem = s.mem ∧ s.stalled.clk = s.clk := by
  unfold State.stalled
  split <;> exact ⟨rfl, rfl, rfl, rfl⟩

/-- What a parked strand keeps: all that it holds, its pc past the call. -/
theorem parked_frame (s s1 : State) (i : Instr) (hg : s1.g = s.g) (hh : s.g.held = []) :
    (s.parked s1 i).g.run = .parked ∧ (s.parked s1 i).g.pc = s.g.pc + BitVec.ofNat 64 i.len ∧ (s.parked s1 i).mem = s1.mem ∧
      (s.parked s1 i).groups = s1.groups ∧ (s.parked s1 i).moor = s1.moor ∧ s.g.agrees (s.parked s1 i).g [] := by
  have hheld : (State.retire s s1.unstall i true).g.held = [] := (congrArg Group.held hg).trans hh
  unfold State.parked
  rw [consume_nil _ hheld]
  have hu : s1.unstall.g = s.g := hg
  refine ⟨rfl, rfl, rfl, rfl, rfl, ?_⟩
  simp only [State.retire, hu]
  exact ⟨rfl, fun _ _ _ => rfl, rfl, rfl, rfl, rfl, rfl⟩

/-- A call that nothing stops: it parks, or stalls at its instruction (08 R172, R173). -/
def State.called (s : State) (i : Instr) (target : Val) (l : Lane) (n : Nat) : Act :=
  match s.park (quadOf s.g.core) target n (s.caller l n) with
  | some s1 => .over (s.parked s1 i)
  | none => .wait s.stalled .stalledCall

section Gcall
variable (a b : BitVec 6) (s : State) (l : Lane) (rest : List Lane) (n : Nat) (hl : s.g.acts = l :: rest) (hn : (s.g.words l b).toNat = n)
  (h1 : 1 ≤ n) (h8 : n ≤ 8) (hargs : s.g.argsTrap l n = none) (htag : (s.g.read l a).tag = .cap) (hx : capHas (s.g.read l a).bits .x = true)
  (hg : capHas (s.g.read l a).bits .g = true) (hw : capWalk (s.g.read l a).bits = 0)
  (he : (capCursor (s.g.read l a).bits).getLsbD 0 = false)
include hl hn h1 h8 hargs htag hx hg hw he

/-- A call that no check of its own stops parks or stalls where the entries that fill under its key have its n. -/
theorem gcallAct_called (hf : s.follower (.gcall b a) = true) (hq : s.quiet false = true) (hh : s.g.held = [])
    (hfill : ∀ e ∈ s.filling (quadOf s.g.core) s.g.sp.asid (s.g.read l a), e.n = n) :
    gcallAct (.gcall b a) a b s = s.called (.gcall b a) (s.g.read l a) l n := by
  have hn' : (s.g.read l b).word.toNat = n := hn
  have hm : ¬ n = 0 := by omega
  have hno : ((s.filling (quadOf s.g.core) s.g.sp.asid (s.g.read l a)).findSome? fun e => if e.n = n then none else some e.n) = none := by
    rw [List.findSome?_eq_none_iff]
    exact fun e he => if_pos (hfill e he)
  unfold gcallAct
  simp only [hl, hn', htag, hx, hg, hw, he, h1, h8, hm, hargs, hno, and_self, ne_eq, not_true_eq_false, Bool.not_true, Bool.or_self,
    bne_self_eq_false, Bool.false_eq_true, if_true, if_false, withFollower_go _ s _ hf hh, withFence, hq]
  rfl

/-- The first entry that fills under a call's key stops one with another n (08 R170). -/
theorem gcallAct_otherCount (e : MoorEntry) (es : List MoorEntry)
    (hfill : s.filling (quadOf s.g.core) s.g.sp.asid (s.g.read l a) = e :: es) (hne : e.n ≠ n) :
    gcallAct (.gcall b a) a b s = .trap s (trap 0x21 (BitVec.ofNat 64 e.n)) := by
  have hn' : (s.g.read l b).word.toNat = n := hn
  have hm : ¬ n = 0 := by omega
  have hsome : ((e :: es).findSome? fun e => if e.n = n then none else some e.n) = some e.n := by
    rw [List.findSome?_cons, if_neg hne]
  unfold gcallAct
  simp only [hl, hn', htag, hx, hg, hw, he, h1, h8, hm, hargs, hfill, hsome, and_self, ne_eq, not_true_eq_false, Bool.not_true,
    Bool.or_self, bne_self_eq_false, Bool.false_eq_true, if_true, if_false]

end Gcall

/-- A call that an entry takes parks in it. -/
theorem exec_gcall_parks (a b : BitVec 6) (s s1 : State) (l : Lane) (n : Nat) (hc : s.clear (.gcall b a) [a, b])
    (hact : gcallAct (.gcall b a) a b s = s.called (.gcall b a) (s.g.read l a) l n)
    (hp : s.park (quadOf s.g.core) (s.g.read l a) n (s.caller l n) = some s1) :
    exec (.gcall b a) s = .next (s.parked s1 (.gcall b a)).tick :=
  issueOn_over _ strict [a, b] _ _ s _ hc.1 hc.2.1 rfl (hact.trans (by rw [State.called, hp]))

/-- A call that no entry takes stalls at its instruction. -/
theorem exec_gcall_stalls (a b : BitVec 6) (s : State) (l : Lane) (n : Nat) (hc : s.clear (.gcall b a) [a, b])
    (hact : gcallAct (.gcall b a) a b s = s.called (.gcall b a) (s.g.read l a) l n)
    (hp : s.park (quadOf s.g.core) (s.g.read l a) n (s.caller l n) = none) :
    exec (.gcall b a) s = .next (s.stalled.waits .stalledCall) := by
  obtain ⟨hg, -, -, hclk⟩ := stalled_frame s
  exact issueOn_waits _ strict [a, b] _ _ s _ _ hc rfl (hact.trans (by rw [State.called, hp])) (congrArg Group.run hg) hclk

/-! ### `gret` and `gflush` (09 R198, R199) -/

/-- What a lane's `gret` returns (08 R180). -/
def Group.retVals (g : Group) (a : BitVec 6) : List (Nat × List Val) :=
  g.acts.map fun l => (l.no, (upFrom 1 (g.words l a).toNat).map fun j => g.read l (BitVec.ofNat 6 j))

/-- A lane that returns values is active. -/
theorem mem_acts_of_lookup (g : Group) (a : BitVec 6) (no : Nat) (v : List Val) (h : (g.retVals a).lookup no = some v) :
    no ∈ g.acts.map (·.no) := by
  obtain ⟨before, after, heq, -⟩ := List.lookup_eq_some_iff.1 h
  have hmem : (no, v) ∈ g.retVals a := by simp [heq]
  obtain ⟨l, hl, hno⟩ := List.mem_map.1 hmem
  exact List.mem_map.2 ⟨l, hl, congrArg Prod.fst hno⟩

/-- A `gret` whose lanes pass their checks and await nothing ends them with the values on their way. -/
theorem exec_gret_ends (a : BitVec 6) (s : State) (hc : s.clear (.gret a) [a]) (hf : s.follower (.gret a) = true)
    (hq : s.quiet false = true) (hm : s.g.mooring = true) (hstop : ∀ l ∈ s.g.acts, gretStop s.g a l = none)
    (hset : s.settled (s.g.acts.map (·.no)) = true) (hgid : (s.endLanes (s.g.acts.map (·.no)) (s.g.retVals a)).g.gid ≠ s.g.gid) :
    exec (.gret a) s = .next (s.endLanes (s.g.acts.map (·.no)) (s.g.retVals a)).tick := by
  refine issueOn_over _ strict [a] _ _ s _ hc.1 hc.2.1 (if_pos hm) ?_
  have hno : s.g.acts.findSome? (gretStop s.g a) = none := List.findSome?_eq_none_iff.2 hstop
  unfold gretAct
  rw [hno]
  dsimp only
  rw [withFollower_go _ s _ hf (clear_held _ s hc)]
  simp only [withFence, hq, if_true, hset, Bool.not_true, Bool.false_eq_true, if_false]
  exact if_pos hgid

/-- A `gflush` marks the entry that fills under its key. -/
theorem exec_gflush (a : BitVec 6) (s : State) (l : Lane) (rest : List Lane) (hc : s.clear (.gflush a) [a])
    (hf : s.follower (.gflush a) = true) (hl : s.g.acts = l :: rest) :
    exec (.gflush a) s =
      (let moor := s.moor.map fun x =>
        if x.fills (s.g.core / 4) s.g.sp.asid (s.g.read l a) = true then { x with flushed := true } else x
       .next (State.past { s with moor := moor } (.gflush a) s)) := by
  have hh := clear_held _ s hc
  refine issueOn_done _ strict [a] _ _ s _ hc rfl ((withFollower_go _ s _ hf hh).trans ?_) hh
  rw [hl]
  rfl

/-! ### The launch of an entry (08 R174 to R177) -/

theorem triggered_iff (s : State) (e : MoorEntry) :
    s.triggered e = true ↔
      e.opened + e.mtime ≤ s.clk ∨ e.mthr ≤ e.callers.length ∨ 32 ≤ e.callers.length ∨ e.flushed = true := by
  simp only [State.triggered, Bool.or_eq_true, decide_eq_true_eq]
  tauto

/-- An entry whose trigger has come, and no other, is to be placed. -/
theorem launchEntry_moor (s : State) (e : MoorEntry) (hs : e.state = .filling) (ht : s.triggered e = true)
    (huniq : ∀ x ∈ s.moor, x.quad = e.quad → x.idx = e.idx → x = e) :
    (s.launchEntry e.quad e.idx).moor = s.moor.map fun x => if x = e then { e with state := .placing } else x := by
  refine List.map_congr_left fun x hx => ?_
  by_cases hxe : x = e
  · subst hxe
    simp [hs, ht]
  · rw [if_neg fun h => hxe (huniq x hx h.1 h.2), if_neg hxe]

/-- The gang of a Mooring entry runs on a G-core. -/
theorem specOf_gang_isG (s : State) (quad idx : Nat) (c : CrewSpec) (h : s.specOf (.gang quad idx) = some c) : c.isG = true := by
  obtain ⟨e, -, rfl⟩ := Option.map_eq_some_iff.1 h
  rfl

/-- A core that takes a crew takes at least one strand or gang of it. -/
theorem fit_pos (s : State) (c : CrewSpec) (core left : Nat) (f : Fit) (h : s.fit c core left = some f) : 0 < f.n := by
  unfold State.fit at h
  extract_lets k free part n slots members matrix bound at h
  split at h
  split at h
  next => cases h
  next hno =>
    have hpos : 0 < n := by
      rcases Nat.eq_zero_or_pos n with h0 | h0
      · exact absurd (by simp [h0]) hno
      · exact h0
    dsimp only at h
    split at h
    · obtain ⟨area, -, rfl⟩ := Option.map_eq_some_iff.1 h
      exact hpos
    · cases h

theorem firstFit_pos (s : State) (c : CrewSpec) (left core : Nat) (f : Fit) (ks : List Nat) (h : s.firstFit c left ks = some (core, f)) :
    0 < f.n := by
  induction ks with
  | nil => cases h
  | cons k ks ih =>
    unfold State.firstFit at h
    split at h
    next hf =>
      cases h
      exact fit_pos _ _ _ _ _ hf
    · exact ih h

/-- The walk of a gang that its own quad does not take: its bearing is the quad, its radius 1 (08 R177). -/
def gangWalk (quad idx : Nat) : Tender :=
  { who := .gang quad idx, die := quad / 256, qx := quad % 16, qy := quad / 16 % 16, bx := quad % 16, by_ := quad / 16 % 16, radius := 1,
    left := 1, next := 0, stage := .start }

section Placing
variable (s : State) (e : MoorEntry) (c : CrewSpec)
  (hfind : s.moor.find? (fun x => x.quad == e.quad && x.idx == e.idx) = some e) (hst : e.state = .placing)
  (ht : ∀ t ∈ s.tenders, t.who ≠ .gang e.quad e.idx) (hq : ∀ q ∈ s.queues, q.who ≠ .gang e.quad e.idx)
  (hc : s.specOf (.gang e.quad e.idx) = some c)
include hfind hst ht hq

/-- A gang that neither walks nor waits in a queue is offered to its quad, and walks if that does not take it. -/
theorem placeGang_offers (u : State) (left next : Nat) (htake : s.take (.gang e.quad e.idx) e.quad 1 1 0 = (u, left, next)) :
    s.placeGang e.quad e.idx = if left = 0 then u else { u with tenders := u.tenders ++ [gangWalk e.quad e.idx] } := by
  have ht' : s.tenders.any (fun t => t.who == .gang e.quad e.idx) = false := by simpa using ht
  have hq' : s.queues.any (fun q => q.who == .gang e.quad e.idx) = false := by simpa using hq
  unfold State.placeGang
  rw [hfind]
  dsimp only
  rw [if_neg (by simp [hst, ht', hq']), htake]
  rfl

include hc

/-- The gang is placed on the first G-core of its quad that takes it. -/
theorem placeGang_placed (core : Nat) (f : Fit) (hfit : s.firstFit c 1 [e.quad * 4 + 2, e.quad * 4 + 3] = some (core, f)) :
    s.placeGang e.quad e.idx = (s.placeCrew c core 0 f).placedGang (.gang e.quad e.idx) (s.nextId + 1) := by
  have hn : 1 - f.n = 0 := by have := firstFit_pos _ _ _ _ _ _ hfit; omega
  have htake : s.take (.gang e.quad e.idx) e.quad 1 1 0 =
      ((s.placeCrew c core 0 f).placedGang (.gang e.quad e.idx) (s.nextId + 1), 1 - f.n, 0 + f.n) := by
    simp only [State.take, Nat.one_ne_zero, if_false, hc, quadCores, specOf_gang_isG s _ _ c hc, if_true, hfit]
  rw [placeGang_offers s e hfind hst ht hq _ _ _ htake, if_pos hn]

/-- The gang begins to walk where no G-core of its quad takes it. -/
theorem placeGang_walks (hfit : s.firstFit c 1 [e.quad * 4 + 2, e.quad * 4 + 3] = none) :
    s.placeGang e.quad e.idx = { s with tenders := s.tenders ++ [gangWalk e.quad e.idx] } := by
  have htake : s.take (.gang e.quad e.idx) e.quad 1 1 0 = (s, 1, 0) := by
    simp only [State.take, Nat.one_ne_zero, if_false, hc, quadCores, specOf_gang_isG s _ _ c hc, if_true, hfit]
  rw [placeGang_offers s e hfind hst ht hq _ _ _ htake, if_neg Nat.one_ne_zero]

end Placing

/-! ### Loading (08 R175) -/

theorem inArea_parked (g : Group) (h : g.run = .parked) : g.inArea = false := by rw [Group.inArea, h]

theorem unparked_parked (g : Group) (h : g.run = .parked) : g.run.unparked = .ready := by rw [h]; rfl

/-- A gang whose arguments are loaded issues, and its entry is free. -/
theorem loaded_issues (s : State) (quad idx : Nat) (e : MoorEntry) (h : Group)
    (hfind : s.moor.find? (fun x => x.quad == quad && x.idx == idx && x.state == .loading) = some e)
    (hg : s.group e.gang = some h) (hrun : h.run = .parked) :
    (s.loaded quad idx).mem = s.mem ∧ (s.loaded quad idx).group e.gang = some { h with run := .ready } ∧
      (s.loaded quad idx).moor = s.moor.filter fun x => !(x.quad == quad && x.idx == idx) := by
  let s1 : State := { s with moor := s.moor.filter fun x => !(x.quad == quad && x.idx == idx) }
  have hg1 : s1.group e.gang = some h := hg
  have heq : s.loaded quad idx = s1.mapGroup e.gang fun g => { g with run := g.run.unparked } := by
    unfold State.loaded
    rw [hfind]
    show State.mapGroup (match s1.group e.gang with | some g => if g.inArea then s1.unpark g else s1 | none => s1) e.gang _ = _
    rw [hg1]
    simp only [inArea_parked h hrun, Bool.false_eq_true, if_false]
  have hk := group_mapGroup s1 e.gang (fun g => { g with run := g.run.unparked }) h hg1 (group_gid s e.gang h hg)
  rw [heq]
  exact ⟨mapGroup_mem _ _ _, hk.trans (by rw [unparked_parked h hrun]), mapGroup_moor _ _ _⟩

/-! ### The delivery of a return (08 R180, R181) -/

/-- A lane with values in its registers from k + 1 on. -/
def Lane.setFrom (l : Lane) (k : Nat) (vals : List Val) : Lane :=
  (vals.zipIdx k).foldl (fun l p => l.setReg (BitVec.ofNat 6 (p.2 + 1)) p.1) l

theorem setFrom_cons (l : Lane) (k : Nat) (v : Val) (vals : List Val) :
    l.setFrom k (v :: vals) = (l.setReg (BitVec.ofNat 6 (k + 1)) v).setFrom (k + 1) vals := rfl

theorem toNat_regCode (n : Nat) (h : n < 56) : (BitVec.ofNat 6 n).toNat = n := by
  rw [BitVec.toNat_ofNat]
  exact Nat.mod_eq_of_lt (by omega)

theorem setFrom_no (l : Lane) (k : Nat) (vals : List Val) : (l.setFrom k vals).no = l.no := by
  induction vals generalizing l k with
  | nil => rfl
  | cons v vals ih => rw [setFrom_cons, ih, setReg_no]

/-- The registers below and above those set are as they were. -/
theorem reg_setFrom_other (l : Lane) (k : Nat) (vals : List Val) (c : BitVec 6) (hk : k + vals.length < 56)
    (hc : c.toNat ≤ k ∨ k + vals.length < c.toNat) : (l.setFrom k vals).reg c = l.reg c := by
  induction vals generalizing l k with
  | nil => rfl
  | cons v vals ih =>
    rw [List.length_cons] at hk hc
    rw [setFrom_cons, ih _ _ (by omega) (by omega), reg_setReg_other]
    rintro rfl
    rw [toNat_regCode _ (by omega)] at hc
    omega

/-- A register that is set holds its value. -/
theorem reg_setFrom_same (l : Lane) (k : Nat) (vals : List Val) (j : Nat) (v : Val) (hk : k + vals.length < 56) (hj : vals[j]? = some v) :
    (l.setFrom k vals).reg (BitVec.ofNat 6 (k + j + 1)) = v := by
  induction vals generalizing l k j with
  | nil => cases hj
  | cons w vals ih =>
    rw [List.length_cons] at hk
    rw [setFrom_cons]
    cases j with
    | zero =>
      have hcode := toNat_regCode (k + 1) (by omega)
      rw [reg_setFrom_other _ _ _ _ (by omega) (.inl (by rw [Nat.add_zero, hcode])), Nat.add_zero,
        reg_setReg_same _ _ _ (fun h0 => by simp [h0] at hcode) (by omega)]
      simpa using hj
    | succ j =>
      have := ih (l.setReg (BitVec.ofNat 6 (k + 1)) w) (k + 1) j (by omega) hj
      rwa [Nat.add_right_comm k 1 j] at this

/-- A caller at level U that does not step, or one above it, owes no step trap for its call (01 R26). -/
theorem stepCall_self (s : State) (h : s.unstepped) : s.stepCall = s := by
  have hno : ¬ (s.g.priv = 0 ∧ statusSStep s.g.sp.status = true) := by
    rintro ⟨hp, hs⟩
    rcases h with h | h
    · rw [h] at hs; cases hs
    · exact h hp
  unfold State.stepCall
  dsimp only
  rw [if_neg fun hx => hno ⟨hx.1, hx.2.1⟩]
  exact if_neg fun hx => hno ⟨hx.1, hx.2.1⟩

/-- An operation that leaves another group as it is leaves it, memory and the returns. -/
theorem onGroup_fixed (s : State) (gid : Nat) (f : State → State) (g : Group) (h : s.group gid = some g)
    (hf : ∀ u : State, u.g = g → f u = u) (hr : g.run ≠ .free) :
    (s.onGroup gid f).group gid = some g ∧ (s.onGroup gid f).mem = s.mem ∧ (s.onGroup gid f).returns = s.returns := by
  have heq : s.onGroup gid f = s.onGroup gid (·.mapG id) := by
    unfold State.group at h
    unfold State.onGroup
    split at h
    next hs =>
      cases h
      rw [if_pos hs, if_pos hs]
      exact hf s rfl
    next hs =>
      rw [if_neg hs, if_neg hs, h]
      dsimp only
      rw [hf _ rfl]
      rfl
  obtain ⟨hg, hm⟩ := onGroup_mapG s gid id g h (group_gid s gid g h) hr
  rw [heq]
  refine ⟨hg, hm, ?_⟩
  unfold State.onGroup
  split
  · rfl
  · split
    · rfl
    · dsimp only
      split <;> rfl

theorem returned_lanes (g : Group) (r : GangRet) : (g.returned' r).lanes = g.lanes.map (·.setFrom 0 r.vals) := rfl

section Returned
variable (g : Group) (r : GangRet) (hlen : r.vals.length ≤ 4)
include hlen

/-- A caller's k1 on hold the values of its return. -/
theorem returned_reg (j : Nat) (v : Val) (hj : r.vals[j]? = some v) (l : Lane) (hl : l ∈ (g.returned' r).lanes) :
    l.reg (BitVec.ofNat 6 (j + 1)) = v := by
  rw [returned_lanes] at hl
  obtain ⟨l, -, rfl⟩ := List.mem_map.1 hl
  simpa using reg_setFrom_same l 0 r.vals j v (by omega) hj

/-- A caller's other registers are as they were. -/
theorem returned_reg_other (c : BitVec 6) (hc : c = 0 ∨ r.vals.length < c.toNat) :
    (g.returned' r).lanes.map (fun l => (l.no, l.reg c)) = g.lanes.map fun l => (l.no, l.reg c) := by
  have hout : c.toNat ≤ 0 ∨ 0 + r.vals.length < c.toNat := by
    rcases hc with rfl | h
    · exact .inl (Nat.le_refl 0)
    · exact .inr (by omega)
  rw [returned_lanes, List.map_map]
  refine List.map_congr_left fun l _ => ?_
  rw [Function.comp_apply, setFrom_no, reg_setFrom_other l 0 r.vals c (by omega) hout]

end Returned

/-- A return reaches its parked caller. -/
theorem deliverReturn_parked (s : State) (n : Nat) (r : GangRet) (h : Group) (hr : s.returns[n]? = some r) (hg : s.group r.caller = some h)
    (hrun : h.run = .parked) (hu : statusSStep h.sp.status = false ∨ h.priv ≠ 0) :
    (s.deliverReturn n).mem = s.mem ∧ (s.deliverReturn n).returns = s.returns.eraseIdx n ∧
      (s.deliverReturn n).group r.caller = some (h.returned' r) := by
  let s1 : State := { s with returns := s.returns.eraseIdx n }
  have hg1 : s1.group r.caller = some h := hg
  have heq : s.deliverReturn n = (s1.mapGroup r.caller fun g => g.returned' r).onGroup r.caller State.stepCall := by
    have hcaller : h.isCaller = true := by rw [Group.isCaller, hrun]
    unfold State.deliverReturn
    simp only [hr]
    show (match s1.group r.caller with
      | none => s1
      | some g => if g.inArea then (s1.returnSaved g r).onGroup r.caller State.stepCall
        else if g.isCaller then (s1.mapGroup r.caller fun g => g.returned' r).onGroup r.caller State.stepCall else s1) = _
    rw [hg1]
    simp only [inArea_parked h hrun, hcaller, Bool.false_eq_true, if_false, if_true]
  have hready : (h.returned' r).run = .ready := unparked_parked h hrun
  have hk := group_mapGroup s1 r.caller (fun g => g.returned' r) h hg1 (group_gid s r.caller h hg)
  obtain ⟨hgrp, hmem, hret⟩ := onGroup_fixed _ r.caller State.stepCall (h.returned' r) hk
    (fun u hug => stepCall_self u (by rw [State.unstepped, hug]; exact hu)) (by rw [hready]; decide)
  rw [heq]
  exact ⟨hmem.trans (mapGroup_mem _ _ _), hret.trans (mapGroup_returns _ _ _), hgrp⟩

end Sys2Proof.Machine
end

section
/-! The Mooring (08 R170 to R175, R180, R181; 09 R197 to R199). -/

namespace Sys2Proof.Machine

/-- A call that an entry takes parks its strand, past the call and otherwise as it was, with its arguments in the entry. -/
theorem gcall_parks (a b : BitVec 6) (s s1 : State) (l : Lane) (n : Nat) (x : MoorEntry) (hc : s.clear (.gcall b a) [a, b])
    (hact : gcallAct (.gcall b a) a b s = s.called (.gcall b a) (s.g.read l a) l n)
    (hp : s.park (quadOf s.g.core) (s.g.read l a) n (s.caller l n) = some s1)
    (hs1 : s1.g = s.g ∧ s1.mem = s.mem ∧ s1.groups = s.groups) (hx : x ∈ s1.moor) (hquad : x.quad = quadOf s.g.core)
    (hasid : x.asid = s.g.sp.asid) (htarget : x.target.bits = (s.g.read l a).bits) (hn : x.n = n) (hin : s.caller l n ∈ x.callers) :
    ∃ (t : State) (x : MoorEntry) (c : Caller), exec (.gcall b a) s = .next t ∧ t.g.run = .parked ∧ t.g.pc = s.g.pc + 4 ∧ t.mem = s.mem ∧
      t.groups = s.groups ∧ s.g.agrees t.g [] ∧ x ∈ t.moor ∧ x.quad = quadOf s.g.core ∧ x.asid = s.g.sp.asid ∧
      x.target.bits = (s.g.read l a).bits ∧ x.n = n ∧ c ∈ x.callers ∧ c.gid = s.g.gid ∧ c.core = s.g.core ∧
      c.args = (upFrom 1 n).map fun j => s.g.read l (BitVec.ofNat 6 j) := by
  obtain ⟨hg, hmem, hgroups⟩ := hs1
  obtain ⟨hrun, hpc, hmem', hgroups', hmoor, hagree⟩ := parked_frame s s1 (.gcall b a) hg (clear_held _ s hc)
  exact ⟨_, x, s.caller l n, exec_gcall_parks a b s s1 l n hc hact hp, hrun, hpc, hmem'.trans hmem, hgroups'.trans hgroups, hagree,
    hmoor ▸ hx, hquad, hasid, htarget, hn, hin, rfl, rfl, rfl⟩

/-- Settles O41: a call by the entry that takes it, the rest by what each operation leaves. -/
theorem theMooringParksLaunchesAndReturns : Obligations.TheMooringParksLaunchesAndReturns := by
  unfold Obligations.TheMooringParksLaunchesAndReturns
  refine ⟨?_, ?_, ?_, ?_, ?_, ?_, ?_⟩
  -- `gcall`
  · intro a b s l rest n hc hf hq hl hn h1 h8 hargs htag hx hg hw he hh quad args parks filling
    have hcalled := gcallAct_called a b s l rest n hl hn h1 h8 hargs htag hx hg hw he hf hq hh
    refine ⟨fun hall hroom => ?_, fun hfull hfree hfirst => ?_, fun hfull hno => ?_, fun e es hfill hne => ?_⟩
    · obtain ⟨e, hefill, hp⟩ := park_joins s quad (s.g.read l a) n (s.caller l n) hroom
      obtain ⟨hemoor, hquad, -, hasid, htarget⟩ := (mem_filling s quad _ _ e).1 hefill
      have hjoined : e.joined (s.caller l n) ∈ (s.mapMoor quad e.idx (·.joined (s.caller l n))).moor :=
        List.mem_map.2 ⟨e, hemoor, if_pos ⟨hquad, rfl⟩⟩
      exact gcall_parks a b s _ l n _ hc (hcalled hall) hp ⟨rfl, rfl, rfl⟩ hjoined hquad hasid htarget (hall e hefill)
        (List.mem_append_right _ (List.mem_singleton_self _))
    · obtain ⟨i, hp⟩ := park_opens s quad (s.g.read l a) n (s.caller l n) (fun e he => (hfull e he).2) hfree hfirst
      exact gcall_parks a b s _ l n (s.openEntry quad i (s.g.read l a) n (s.caller l n)) hc (hcalled fun e he => (hfull e he).1) hp
        ⟨rfl, rfl, rfl⟩ (List.mem_append_right _ (List.mem_singleton_self _)) rfl rfl rfl rfl (List.mem_singleton_self _)
    · have hp := park_none s quad (s.g.read l a) n (s.caller l n) (fun e he => (hfull e he).2) hno
      obtain ⟨hg', hmoor, hmem, -⟩ := stalled_frame s
      exact ⟨_, exec_gcall_stalls a b s l n hc (hcalled fun e he => (hfull e he).1) hp, show s.stalled.g.pc = s.g.pc by rw [hg'], ⟨_, rfl⟩, hmoor, hmem,
        stalled_mem s⟩
    · exact issueOn_trap _ strict [a, b] _ _ s _ hc.1 hc.2.1 rfl
        (gcallAct_otherCount a b s l rest n hl hn h1 h8 hargs htag hx hg hw he e es hfill hne)
  -- `gret`
  · intro a s c hc hf hq hm hstop hset hcrew vals s1 hgid
    refine ⟨exec_gret_ends a s hc hf hq hm hstop hset hgid, fun r hr v hv => ?_⟩
    exact mem_returns_endLanes s _ vals c hcrew r hr (mem_acts_of_lookup s.g a _ v hv) v hv
  -- `gflush`
  · intro a s l rest hc hf hl
    simpa only [fills_iff] using exec_gflush a s l rest hc hf hl
  -- the trigger of an entry
  · intro s e he hst htrig huniq
    exact ⟨_, rfl, rfl, rfl, rfl, launchEntry_moor s e hst ((triggered_iff s e).2 htrig) huniq⟩
  -- the placement of its gang
  · intro s e hfind hst ht hq c hc
    refine ⟨fun core f hfit => ?_, fun hfit => ?_⟩
    · exact congrArg (fun u : State => Host.Outcome.next u.tick) (placeGang_placed s e c hfind hst ht hq hc core f hfit)
    · refine ⟨_, gangWalk e.quad e.idx, rfl, ?_⟩
      rw [placeGang_walks s e c hfind hst ht hq hc hfit]
      exact ⟨rfl, rfl, rfl, rfl, rfl, rfl, rfl⟩
  -- the end of its loading
  · intro s e h hfind hg hrun
    obtain ⟨hmem, hgroup, hmoor⟩ := loaded_issues s e.quad e.idx e h hfind hg hrun
    exact ⟨_, rfl, hmem, hgroup, hmoor⟩
  -- the delivery of a return
  · intro s n r h hr hg hrun hlen _ _ hu
    obtain ⟨hmem, hret, hgroup⟩ := deliverReturn_parked s n r h hr hg hrun hu
    exact ⟨_, h.returned' r, rfl, hmem, hret, hgroup, unparked_parked h hrun, rfl, rfl,
      fun j v hj _ l hl => returned_reg h r hlen j v hj l hl, fun c _ hc => returned_reg_other h r hlen c hc⟩

end Sys2Proof.Machine
end

section
/-! SUPPORT. The fixed tree over the 32 places of the lanes (09 R191): folded level by level, it combines at each node the lower half with
the upper half, and leaves out a half without a present lane. -/

namespace Sys2Proof.Machine

/-! ### A level and its halves -/

theorem treeLevel_pair {α : Type} (f : α → α → α) (x y : Option α) (t : List (Option α)) :
    treeLevel f (x :: y :: t) = Option.merge f x y :: treeLevel f t := by
  cases x <;> cases y <;> rfl

theorem treeLevel_append {α : Type} (f : α → α → α) (n : Nat) (xs ys : List (Option α)) (h : xs.length = 2 * n) :
    treeLevel f (xs ++ ys) = treeLevel f xs ++ treeLevel f ys := by
  induction n generalizing xs with
  | zero => rw [List.eq_nil_of_length_eq_zero h]; rfl
  | succ n ih =>
    match xs, h with
    | x :: y :: t, h =>
      simp only [List.cons_append, treeLevel_pair]
      rw [ih t (by simpa [Nat.mul_succ] using h)]

theorem length_treeLevel {α : Type} (f : α → α → α) (n : Nat) (xs : List (Option α)) (h : xs.length = 2 * n) :
    (treeLevel f xs).length = n := by
  induction n generalizing xs with
  | zero => rw [List.eq_nil_of_length_eq_zero h]; rfl
  | succ n ih =>
    match xs, h with
    | x :: y :: t, h => rw [treeLevel_pair, List.length_cons, ih t (by simpa [Nat.mul_succ] using h)]

/-- The top of a tree combines the tops of its halves. -/
theorem treeFold_append {α : Type} (f : α → α → α) (n : Nat) (xs ys : List (Option α)) (hx : xs.length = 2 ^ n)
    (hy : ys.length = 2 ^ n) : treeFold f (n + 1) (xs ++ ys) = Option.merge f (treeFold f n xs) (treeFold f n ys) := by
  induction n generalizing xs ys with
  | zero =>
    obtain ⟨x, rfl⟩ := List.length_eq_one_iff.1 hx
    obtain ⟨y, rfl⟩ := List.length_eq_one_iff.1 hy
    simp only [treeFold, List.cons_append, List.nil_append, treeLevel_pair]
    rfl
  | succ n ih =>
    rw [Nat.pow_succ, Nat.mul_comm] at hx hy
    calc treeFold f (n + 1 + 1) (xs ++ ys) = treeFold f (n + 1) (treeLevel f xs ++ treeLevel f ys) :=
          congrArg (treeFold f (n + 1)) (treeLevel_append f _ xs ys hx)
      _ = _ := ih _ _ (length_treeLevel f _ xs hx) (length_treeLevel f _ ys hy)

/-! ### Places -/

theorem upFrom_eq_range' (a n : Nat) : upFrom a n = List.range' a n := by
  induction n generalizing a with
  | zero => rfl
  | succ n ih => rw [upFrom, ih, List.range'_succ]

theorem length_upFrom (a n : Nat) : (upFrom a n).length = n := by rw [upFrom_eq_range', List.length_range']

theorem nodup_upFrom (a n : Nat) : (upFrom a n).Nodup := upFrom_eq_range' a n ▸ List.nodup_range'

/-- The places of a tree are those of its lower half and those of its upper half. -/
theorem upFrom_halves (a n : Nat) : upFrom a (2 ^ (n + 1)) = upFrom a (2 ^ n) ++ upFrom (a + 2 ^ n) (2 ^ n) := by
  simp only [upFrom_eq_range', Nat.pow_succ, Nat.mul_two]
  simp

/-- A tree over the places from `a` on, by its halves. -/
theorem treeFold_halves {α : Type} (f : α → α → α) (leaf : Nat → Option α) (n a : Nat) :
    treeFold f (n + 1) ((upFrom a (2 ^ (n + 1))).map leaf) =
      Option.merge f (treeFold f n ((upFrom a (2 ^ n)).map leaf)) (treeFold f n ((upFrom (a + 2 ^ n) (2 ^ n)).map leaf)) := by
  rw [upFrom_halves, List.map_append]
  exact treeFold_append f n _ _ (by simp [length_upFrom]) (by simp [length_upFrom])

/-! ### Sums -/

/-- A tree of sums gives the sum of the present places. -/
theorem treeFold_sum (leaf : Nat → Option Word) (n a : Nat) :
    (treeFold (· + ·) n ((upFrom a (2 ^ n)).map leaf)).getD 0 = ((upFrom a (2 ^ n)).filterMap leaf).sum := by
  induction n generalizing a with
  | zero =>
    simp only [Nat.pow_zero, upFrom, List.map_cons, treeFold, List.headD_cons, List.filterMap_cons, List.filterMap_nil]
    cases leaf a <;> simp
  | succ n ih =>
    rw [treeFold_halves, upFrom_halves, List.filterMap_append, List.sum_append, ← ih, ← ih]
    generalize treeFold _ n _ = x
    generalize treeFold _ n _ = y
    cases x <;> cases y <;> simp

/-- A tree with a present place has a top. -/
theorem treeFold_isSome {α : Type} (f : α → α → α) (leaf : Nat → Option α) (n a : Nat) :
    (treeFold f n ((upFrom a (2 ^ n)).map leaf)).isSome = (upFrom a (2 ^ n)).any fun k => (leaf k).isSome := by
  induction n generalizing a with
  | zero => simp [upFrom, treeFold]
  | succ n ih => rw [treeFold_halves, Option.isSome_merge, ih, ih, upFrom_halves, List.any_append]

/-! ### Floating-point trees -/

/-- A present lane's value as a node. -/
def redLeaf (x : Nat) : RedNode := (x, Flags.zero, (fpFmt f32).isSub x)

theorem reduceTree_halves (op : Nat → Nat → FpRes) (leaf : Nat → Option Nat) (n a : Nat) :
    reduceTree op leaf (n + 1) a = Option.merge (redNode op) (reduceTree op leaf n a) (reduceTree op leaf n (a + 2 ^ n)) := by
  rw [reduceTree]
  generalize reduceTree op leaf n a = x
  generalize reduceTree op leaf n (a + 2 ^ n) = y
  cases x <;> cases y <;> simp [redNode, meetsSub, Bool.or_assoc]

/-- The tree that the model folds is the one of the rule. -/
theorem treeFold_reduceTree (op : Nat → Nat → FpRes) (leaf : Nat → Option Nat) (n a : Nat) :
    treeFold (redNode op) n ((upFrom a (2 ^ n)).map fun k => (leaf k).map redLeaf) = reduceTree op leaf n a := by
  induction n generalizing a with
  | zero => rfl
  | succ n ih => rw [treeFold_halves, ih, ih, reduceTree_halves]

end Sys2Proof.Machine
end

section
/-! Lane forms and floating-point reductions (09 R188 to R193, R196). -/

namespace Sys2Proof.Machine

/-! ### Values by lane number -/

/-- The value at a lane number is that of the lane of the number. -/
theorem lookup_lanes {α : Type} (ls : List Lane) (f : Lane → α) (n : Nat) :
    (ls.map fun l => (l.no, f l)).lookup n = (ls.find? fun l => l.no == n).map f := by
  induction ls with
  | nil => rfl
  | cons l t ih =>
    rw [List.map_cons, List.lookup_cons, List.find?_cons, BEq.comm, ih]
    cases l.no == n <;> rfl

/-- A shuffle gives each lane the a of its source lane, or its own (09 R189). -/
theorem shuffle_eq (g : Group) (a b : BitVec 6) (src : Nat → Nat → Option Nat) :
    shuffle g a b src = g.everyLane fun l => g.fromLane a l (src l.no ((g.words l b).toNat % 32)) := by
  unfold shuffle Group.everyLane
  refine List.map_congr_left fun l _ => congrArg (Prod.mk l.no) ?_
  dsimp only [Group.fromLane, Group.col, Group.words, Val.word]
  cases src l.no (((g.read l b).bits.extractLsb' 0 64).toNat % 32) with
  | none => rfl
  | some j =>
    dsimp only
    rw [lookup_lanes, Option.bind_some]
    cases g.acts.find? fun l => l.no == j <;> rfl

/-! ### Votes -/

theorem boolWord_oneIf (b : Bool) (p : Prop) [Decidable p] (h : b = true ↔ p) : boolWord b = oneIf p := by
  unfold boolWord oneIf
  exact if_congr h rfl rfl

theorem vote_any (g : Group) (a : BitVec 6) : boolWord (!(votes g a).isEmpty) = oneIf (∃ k ∈ g.acts, g.words k a ≠ 0) :=
  boolWord_oneIf _ _ (by simp [votes, Group.words, Val.word])

theorem vote_all (g : Group) (a : BitVec 6) :
    boolWord ((votes g a).length == g.acts.length) = oneIf (∀ k ∈ g.acts, g.words k a ≠ 0) := by
  refine boolWord_oneIf _ _ ?_
  rw [beq_iff_eq, votes, List.length_filter_eq_length_iff]
  simp [Group.words, Val.word]

/-- The bits of lanes as a word. -/
theorem dataNat_toNat (w : BitVec 32) : dataNat w.toNat = asData (w.setWidth 64) := by
  unfold dataNat dataWord asData
  rw [BitVec.ofNat_toNat]

/-! ### Sums -/

/-- The lanes found at the 32 places are the active ones. -/
theorem places_perm (g : Group) (hn : (g.acts.map (·.no)).Nodup) (hlt : ∀ l ∈ g.acts, l.no < 32) :
    ((upFrom 0 32).filterMap fun n => g.acts.find? fun l => l.no == n).Perm g.acts := by
  refine (List.perm_ext_iff_of_nodup (List.Nodup.filterMap ?_ (nodup_upFrom 0 32)) hn.of_map).2 fun l => ?_
  · intro n m l hl hm
    have h1 : l.no = n := by simpa using List.find?_some hl
    have h2 : l.no = m := by simpa using List.find?_some hm
    exact h1.symm.trans h2
  · rw [List.mem_filterMap]
    constructor
    · rintro ⟨n, -, h⟩
      exact List.mem_of_find?_eq_some h
    · intro h
      obtain ⟨k, hk⟩ := Option.isSome_iff_exists.1
        (List.find?_isSome (p := fun k : Lane => k.no == l.no).2 ⟨l, h, beq_self_eq_true _⟩)
      have hno : k.no = l.no := by simpa using List.find?_some hk
      refine ⟨l.no, (mem_upFrom_iff 0 32 _).2 ⟨Nat.zero_le _, by simpa using hlt l h⟩, ?_⟩
      rw [hk, List.inj_on_of_nodup_map hn (List.mem_of_find?_eq_some hk) h hno]

/-- The tree of integer sums over the present lanes (09 R191). -/
theorem treeFold_leaves_sum (g : Group) (f : Lane → Word) (hne : g.acts ≠ []) (hn : (g.acts.map (·.no)).Nodup)
    (hlt : ∀ l ∈ g.acts, l.no < 32) : treeFold (· + ·) 5 (g.leaves f) = some (g.acts.map f).sum := by
  have hp := places_perm g hn hlt
  have hsome : (treeFold (· + ·) 5 (g.leaves f)).isSome = true := by
    obtain ⟨l, hl⟩ := List.exists_mem_of_ne_nil _ hne
    obtain ⟨n, hmem, hfind⟩ := List.mem_filterMap.1 (hp.mem_iff.2 hl)
    exact (treeFold_isSome _ _ 5 0).trans (List.any_eq_true.2 ⟨n, hmem, by simp [hfind]⟩)
  have hsum : (treeFold (· + ·) 5 (g.leaves f)).getD 0 = (g.acts.map f).sum := by
    refine (treeFold_sum _ 5 0).trans ?_
    rw [← (hp.map f).sum_eq, List.map_filterMap]
    rfl
  obtain ⟨w, hw⟩ := Option.isSome_iff_exists.1 hsome
  rw [hw] at hsum ⊢
  exact congrArg some hsum

/-- The running sums are the sums of the lanes up to each (09 R192). -/
theorem runningSums_eq (g : Group) (a : BitVec 6) (ls : List Lane) (acc : Word) :
    runningSums acc (ls.map fun l => (l.no, g.read l a)) =
      ls.mapIdx fun n l => (l.no, asData (acc + ((ls.take (n + 1)).map fun k => g.words k a).sum)) := by
  induction ls generalizing acc with
  | nil => rfl
  | cons l t ih =>
    have hrest : ∀ n, acc + (((l :: t).take (n + 1 + 1)).map fun k => g.words k a).sum =
        acc + g.words l a + ((t.take (n + 1)).map fun k => g.words k a).sum := fun n => by simp [BitVec.add_assoc]
    rw [List.map_cons, runningSums, List.mapIdx_cons]
    simp only [hrest]
    rw [← ih (acc + g.words l a)]
    simp [asData, dataWord, Group.words, Val.word]

/-! ### Intersections -/

theorem low_and (x : Quad) : x.extractLsb' 0 64 &&& (0xFFFFFFFF : Word) = (x.extractLsb' 0 32).setWidth 64 := by
  refine BitVec.eq_of_toNat_eq ?_
  simp only [BitVec.toNat_and, BitVec.extractLsb'_toNat, BitVec.toNat_setWidth, Nat.shiftRight_zero]
  rw [show (0xFFFFFFFF : Word).toNat = 2 ^ 32 - 1 from rfl, Nat.and_two_pow_sub_one_eq_mod]
  omega

theorem setWidth_inj (x y : BitVec 32) : x.setWidth 64 = y.setWidth 64 ↔ x = y :=
  ⟨fun h => by simpa using congrArg (BitVec.setWidth 32) h, congrArg _⟩

/-- The list across the lanes up to the sentinel, its elements as words (09 R193). -/
theorem sentinelList_eq (g : Group) (a : BitVec 6) :
    g.upToSentinel a = (sentinelList (g.col a)).map fun p => (p.1, p.2.setWidth 64) := by
  unfold Group.upToSentinel Group.col
  induction g.acts with
  | nil => rfl
  | cons l t ih =>
    have hs : ((g.words l a) &&& 0xFFFFFFFF != 0xFFFFFFFF) = !decide ((g.read l a).bits.extractLsb' 0 32 = 0xFFFFFFFF) := by
      rw [Group.words, low_and, Bool.eq_iff_iff, bne_iff_ne, Bool.not_eq_true', decide_eq_false_iff_not]
      exact not_congr (setWidth_inj _ 0xFFFFFFFF)
    simp only [List.map_cons, List.takeWhile_cons, sentinelList, hs]
    by_cases h : (g.read l a).bits.extractLsb' 0 32 = 0xFFFFFFFF
    · simp [h]
    · simp only [h, decide_false, Bool.not_false, if_true, if_false, List.map_cons, ih]
      rw [Group.words, low_and]

theorem lookup_map_snd {α β : Type} (l : List (Nat × α)) (f : α → β) (n : Nat) :
    (l.map fun p => (p.1, f p.2)).lookup n = (l.lookup n).map f := by
  induction l with
  | nil => rfl
  | cons p t ih =>
    rw [List.map_cons, List.lookup_cons, List.lookup_cons, ih]
    cases n == p.1 <;> rfl

/-- The place of an element in a list of words is its place in the list of its elements. -/
theorem find_setWidth (l : List (Nat × BitVec 32)) (x : BitVec 32) :
    ((l.map fun p => (p.1, p.2.setWidth 64)).find? fun p => p.2 == x.setWidth 64) =
      (l.find? fun p => p.2 == x).map fun p => (p.1, (p.2.setWidth 64 : Word)) := by
  rw [List.find?_map]
  congr 2
  funext p
  simp only [Function.comp_apply]
  rw [Bool.eq_iff_iff, beq_iff_eq, beq_iff_eq, setWidth_inj]

theorem intersectVals_row (b a d : BitVec 6) (f : Group → List (Nat × Val)) (h : laneResult (.intersect b a d) = some f) (g : Group) :
    intersectVals g a b = f g := by
  cases h
  unfold intersectVals Group.everyLane
  refine List.map_congr_left fun l _ => congrArg (Prod.mk l.no) ?_
  dsimp only
  rw [sentinelList_eq, sentinelList_eq, lookup_map_snd]
  cases (sentinelList (g.col a)).lookup l.no with
  | none => rfl
  | some x =>
    dsimp only [Option.map_some]
    rw [find_setWidth]
    cases (sentinelList (g.col b)).find? fun p => p.2 == x <;> rfl

/-! ### The lane forms -/

/-- A lane form gives the active lanes its results and does nothing else. -/
theorem laneForm_gets (i : Instr) (f : Group → List (Nat × Val)) (s : State) (hc : s.clear i (srcs i)) :
    laneForm i f s = .next (let g : Group := s.g.gets i (f s.g) []; State.past { s with g := g } i s) :=
  issueOn_done i strict (srcs i) _ _ s _ hc rfl (deliver_done i _ _ s (clear_dst_stream i s hc))
    ((gets_held _ _ _ _).trans (clear_held i s hc))

/-- A lane form whose results are those of its row. -/
theorem laneForm_row (i : Instr) (f : Group → List (Nat × Val)) (vals : List (Nat × Val)) (s : State) (hc : s.clear i (srcs i))
    (h : f s.g = vals) : laneForm i f s = .next (let g : Group := s.g.gets i vals []; State.past { s with g := g } i s) :=
  h ▸ laneForm_gets i f s hc

theorem shuffle_row (i : Instr) (a b : BitVec 6) (src : Nat → Nat → Option Nat) (s : State) (hc : s.clear i (srcs i)) :
    laneForm i (fun g => shuffle g a b src) s =
      .next (let g : Group := s.g.gets i (s.g.everyLane fun l => s.g.fromLane a l (src l.no ((s.g.words l b).toNat % 32))) []
             State.past { s with g := g } i s) := laneForm_row i _ _ s hc (shuffle_eq s.g a b src)

theorem exec_laneResult (i : Instr) (s : State) (f : Group → List (Nat × Val)) (hi : laneResult i = some f) (hc : s.clear i (srcs i))
    (hne : s.g.acts ≠ []) (hn : (s.g.acts.map (·.no)).Nodup) (hlt : ∀ l ∈ s.g.acts, l.no < 32) :
    exec i s = .next (let g : Group := s.g.gets i (f s.g) []; State.past { s with g := g } i s) := by
  cases i with
  | laneId d => cases hi; change execLaneId d s = _; exact laneForm_gets _ _ s hc
  | laneGet b a d => cases hi; change execLaneGet b a d s = _; exact shuffle_row _ a b _ s hc
  | laneRise b a d => cases hi; change execLaneRise b a d s = _; exact shuffle_row _ a b _ s hc
  | laneFall b a d => cases hi; change execLaneFall b a d s = _; exact shuffle_row _ a b _ s hc
  | laneFlip b a d => cases hi; change execLaneFlip b a d s = _; exact shuffle_row _ a b _ s hc
  | laneAny a d =>
    cases hi
    change execLaneAny a d s = _
    refine laneForm_row _ _ _ s hc ?_
    exact congrArg (fun w => s.g.all (dataWord w)) (vote_any s.g a)
  | laneAll a d =>
    cases hi
    change execLaneAll a d s = _
    refine laneForm_row _ _ _ s hc ?_
    exact congrArg (fun w => s.g.all (dataWord w)) (vote_all s.g a)
  | laneBits a d =>
    cases hi
    change execLaneBits a d s = _
    refine laneForm_row _ _ _ s hc ?_
    exact congrArg s.g.all (dataNat_toNat _)
  | mMovToK a d =>
    cases hi
    change execMMovToK a d s = _
    refine laneForm_row _ _ _ s hc ?_
    exact congrArg s.g.all (dataNat_toNat _)
  | redAddI a d =>
    cases hi
    change execRedAddI a d s = _
    refine laneForm_row _ _ _ s hc ?_
    dsimp only
    rw [treeFold_leaves_sum s.g _ hne hn hlt]
    rfl
  | scanAddI a d =>
    cases hi
    change execScanAddI a d s = _
    refine laneForm_row _ _ _ s hc ?_
    refine (runningSums_eq s.g a s.g.acts 0).trans ?_
    simp only [zero_add]
    rfl
  | intersect b a d =>
    change execIntersect b a d s = _
    exact laneForm_row _ _ _ s hc (intersectVals_row b a d f hi s.g)
  | _ => cases hi

/-! ### Floating-point reductions -/

/-- The leaves of a reduction are the FP32 values of the active lanes. -/
theorem leaves_redLeaf (g : Group) (a : BitVec 6) :
    (g.leaves fun l => redLeaf ((fpFmt f32).cut (g.read l a).bits.toNat)) =
      (upFrom 0 (2 ^ 5)).map fun n => ((g.acts.find? fun l => l.no == n).map fun l => (g.read l a).bits.toNat % 2 ^ 32).map redLeaf := by
  refine List.map_congr_left fun n _ => ?_
  rw [Option.map_map]
  rfl

/-- A reduction gives every active lane the value at the top of the tree, and every active slice the flags (09 R191). -/
theorem redFloat_row (i : Instr) (s : State) (a : BitVec 6) (op : BitVec 2 → Nat → Nat → FpRes) (v : Nat) (fl : Flags) (sub : Bool)
    (hs : srcs i = [a]) (hc : s.clear i [a])
    (h : reduceTree (op ((s.g.fmode s.g.lead).extractLsb' 0 2))
      (fun n => (s.g.acts.find? fun l => l.no == n).map fun l => (s.g.read l a).bits.toNat % 2 ^ 32) 5 0 = some (v, fl, sub)) :
    redFloat i a op s =
      (let vals := s.g.acts.map fun l => (l.no, asData (BitVec.ofNat 64 v))
       let g : Group := (s.g.gets i vals (s.g.acts.map fun l => (l.no, fl))).paysIf sub
       .next (State.past { s with g := g } i s)) := by
  have hc' : s.clear i (srcs i) := hs ▸ hc
  refine issueOn_done i strict (srcs i) _ _ s _ hc' rfl ?_ (gets_paysIf_held _ _ _ _ _ (clear_held i s hc'))
  have htree : treeFold (redNode (op (fmodeRM (s.g.fmode s.g.lead)))) 5
      (s.g.leaves fun l => redLeaf ((fpFmt f32).cut (s.g.read l a).bits.toNat)) = some (v, fl, sub) := by
    rw [leaves_redLeaf, treeFold_reduceTree]
    exact h
  simp only [redLeaf] at htree
  simp only [htree, deliver_done i _ _ s (clear_dst_stream i s hc')]
  rw [pay_if]
  rfl

/-- Settles O19: the lane forms by their rows, and the reductions by the halves of their tree. -/
theorem laneFormsCombineTheActiveLanes : Obligations.LaneFormsCombineTheActiveLanes := by
  unfold Obligations.LaneFormsCombineTheActiveLanes
  refine ⟨exec_laneResult, fun i s a op v fl sub hi hc h => ?_⟩
  cases i with
  | redAddF32 a d => cases hi; change execRedAddF32 a d s = _; exact redFloat_row _ s _ _ v fl sub rfl hc h
  | redMaxF32 a d => cases hi; change execRedMaxF32 a d s = _; exact redFloat_row _ s _ _ v fl sub rfl hc h
  | redMinF32 a d => cases hi; change execRedMinF32 a d s = _; exact redFloat_row _ s _ _ v fl sub rfl hc h
  | _ => cases hi

end Sys2Proof.Machine
end

section
/-! SUPPORT. Barriers (09 R203 to R205; 22 R442, R444; log 87): what an arrival leaves where it is the last and where it is not, and the
maxima of contributions. -/

namespace Sys2Proof.Machine

/-! ### Maxima of halves (09 R205; 02 R55) -/

theorem maxHalves_high (a b : Word) :
    ((maxHalves a b).extractLsb' 32 32).toNat = max (a.extractLsb' 32 32).toNat (b.extractLsb' 32 32).toNat := by
  unfold maxHalves
  rw [BitVec.extractLsb'_append_eq_left]
  split <;> omega

theorem maxHalves_low (a b : Word) :
    ((maxHalves a b).extractLsb' 0 32).toNat = max (a.extractLsb' 0 32).toNat (b.extractLsb' 0 32).toNat := by
  unfold maxHalves
  rw [BitVec.extractLsb'_append_eq_right]
  split <;> omega

theorem word_ext_halves (a b : Word) (hh : (a.extractLsb' 32 32).toNat = (b.extractLsb' 32 32).toNat)
    (hl : (a.extractLsb' 0 32).toNat = (b.extractLsb' 0 32).toNat) : a = b := by
  refine BitVec.eq_of_toNat_eq ?_
  rw [BitVec.extractLsb'_toNat, BitVec.extractLsb'_toNat, Nat.shiftRight_eq_div_pow, Nat.shiftRight_eq_div_pow] at hh hl
  have := a.isLt
  have := b.isLt
  omega

theorem maxHalves_comm (a b : Word) : maxHalves a b = maxHalves b a := by
  refine word_ext_halves _ _ ?_ ?_ <;> simp only [maxHalves_high, maxHalves_low, Nat.max_comm]

theorem maxHalves_assoc (a b c : Word) : maxHalves (maxHalves a b) c = maxHalves a (maxHalves b c) := by
  refine word_ext_halves _ _ ?_ ?_ <;> simp only [maxHalves_high, maxHalves_low, Nat.max_assoc]

theorem maxHalves_self (a : Word) : maxHalves a a = a := by
  refine word_ext_halves _ _ ?_ ?_ <;> simp only [maxHalves_high, maxHalves_low, Nat.max_self]

theorem maxHalves_zero (a : Word) : maxHalves a 0 = a := by
  refine word_ext_halves _ _ ?_ ?_
  · rw [maxHalves_high]; simp
  · rw [maxHalves_low]; simp

theorem maxHalves_left_comm (a b c : Word) : maxHalves a (maxHalves b c) = maxHalves b (maxHalves a c) := by
  rw [← maxHalves_assoc, maxHalves_comm a b, maxHalves_assoc]

/-- The maxima of the contributions of gangs. -/
def gangMaxima (vs : List (Nat × Word)) : Word := vs.foldl (fun w p => maxHalves w p.2) 0

theorem foldl_maxHalves (vs : List (Nat × Word)) (w : Word) : vs.foldl (fun w p => maxHalves w p.2) w = maxHalves w (gangMaxima vs) := by
  unfold gangMaxima
  induction vs generalizing w with
  | nil => exact (maxHalves_zero w).symm
  | cons p t ih => rw [List.foldl_cons, List.foldl_cons, ih, ih (maxHalves 0 p.2), maxHalves_comm 0, maxHalves_zero, maxHalves_assoc]

theorem gangMaxima_cons (p : Nat × Word) (vs : List (Nat × Word)) : gangMaxima (p :: vs) = maxHalves p.2 (gangMaxima vs) := by
  rw [gangMaxima, List.foldl_cons, foldl_maxHalves, maxHalves_comm 0, maxHalves_zero]

/-- A gang's own contribution is below the maxima. -/
theorem maxHalves_mapGet (gang : Nat) (vs : List (Nat × Word)) :
    maxHalves ((mapGet gang vs).getD 0) (gangMaxima vs) = gangMaxima vs := by
  induction vs with
  | nil => rw [mapGet, Option.getD_none, maxHalves_comm, maxHalves_zero]
  | cons p t ih =>
    rw [gangMaxima_cons, mapGet]
    split
    · rw [Option.getD_some, ← maxHalves_assoc, maxHalves_self]
    · rw [maxHalves_left_comm, ih]

/-- A contribution that joins a gang's own joins the maxima. -/
theorem gangMaxima_mapSet (gang : Nat) (v : Word) (vs : List (Nat × Word)) :
    gangMaxima (mapSet gang (maxHalves v ((mapGet gang vs).getD 0)) vs) = maxHalves v (gangMaxima vs) := by
  induction vs with
  | nil => rw [mapSet, gangMaxima_cons, mapGet, Option.getD_none, maxHalves_zero]
  | cons p t ih =>
    rw [mapSet, mapGet]
    split
    next hlt =>
      rw [if_neg hlt.ne, gangMaxima_cons, gangMaxima_cons, maxHalves_assoc, maxHalves_left_comm _ p.2, maxHalves_mapGet]
    next =>
      split
      · rw [gangMaxima_cons, gangMaxima_cons, Option.getD_some, maxHalves_assoc]
      · rw [gangMaxima_cons, gangMaxima_cons, ih, maxHalves_left_comm]

/-! ### The package alone changes with a record or a flit -/

/-- The state with its package as `p`. -/
def State.withPkg (s : State) (p : Package) : State := { s with pkg := p }

theorem tellPeers_pkg (s : State) (t : Task) (k : BarKey) (gen : Nat) (v : Word) (gone : Bool) :
    ∃ p, s.tellPeers t k gen v gone = s.withPkg p := by
  unfold State.tellPeers
  generalize s.peers t = ns
  induction ns generalizing s with
  | nil => exact ⟨s.pkg, rfl⟩
  | cons n ns ih =>
    obtain ⟨q, hq⟩ : ∃ q, s.sendFlit 10 (BitVec.ofNat 8 n) 0 0 0 0 (barOpf t.group t.slot k gen v gone) [] = s.withPkg q := by
      unfold State.sendFlit
      dsimp only
      split
      · exact ⟨s.pkg, rfl⟩
      · exact ⟨_, rfl⟩
    rw [List.foldl_cons, hq]
    exact ih (s.withPkg q)

/-! ### Packages -/

/-- The launch whose packages a barrier at pod scope waits for. -/
def State.podTask (s : State) (k : BarKey) : Option Task := if k.scope = 4 then s.task k.task else none

/-- What a package has said of a barrier's generation. -/
def Barrier.said (b : Barrier) (n : Nat) : Option Word := (b.away.find? fun q => q.1 == n && q.2.1 == b.gen % 2 ^ 32).map (·.2.2)

/-- What the packages of a launch have said of a barrier's generation. -/
def State.heard (s : State) (b : Barrier) : List (Option Word) := (match s.podTask b.key with | some t => s.peers t | none => []).map b.said

theorem said_none (b : Barrier) (n : Nat) : b.said n = none ↔ ∀ q ∈ b.away, q.1 = n → q.2.1 ≠ b.gen % 2 ^ 32 := by
  simp [Barrier.said]

theorem awaitsPackages_iff (s : State) (b : Barrier) :
    s.awaitsPackages b ↔ (s.podTask b.key).any (·.await) = true ∨ (s.heard b).any (·.isNone) = true := by
  unfold State.heard State.podTask State.awaitsPackages
  by_cases h4 : b.key.scope = 4
  · simp only [h4, if_true, true_and]
    cases s.task b.key.task with
    | none => simp
    | some t => simp [said_none]
  · simp [h4]

theorem heard_fromPackages (s : State) (b : Barrier) : (s.heard b).filterMap id = s.fromPackages b := by
  unfold State.heard State.fromPackages State.podTask
  rw [List.filterMap_map, Function.id_comp]
  generalize (if b.key.scope = 4 then s.task b.key.task else none) = t
  cases t <;> rfl

/-! ### Release (09 R203) -/

/-- A barrier that has been released. -/
def State.freed (s : State) (b : Barrier) : Barrier :=
  { b with
    gen := b.gen + 1, arrived := [], values := [], last := (s.fromPackages b).foldl maxHalves b.combined
    away := b.away.filter fun q => q.2.1 != b.gen % 2 ^ 32, told := false }

/-- Why a barrier is not released: a member has not arrived, or is still to be placed, or other packages have not said that theirs have. -/
abbrev State.holdsBack (s : State) (b : Barrier) : Prop :=
  (∃ h ∈ s.members b.key, ∃ p ∈ h.parts, p ∉ b.arrived) ∨ s.joining b.key = true ∨ s.awaitsPackages b

/-- The model's test of what is known before the other packages are asked. -/
def State.stays (s : State) (b : Barrier) : Bool :=
  b.arrived.isEmpty || !((s.members b.key).all fun g => g.parts.all fun p => b.arrived.contains p) || s.joining b.key ||
    (s.podTask b.key).any (·.await)

theorem holdsBack_of_stays (s : State) (b : Barrier) (hne : b.arrived ≠ []) (h : s.stays b = true) : s.holdsBack b := by
  rw [State.stays, Bool.or_eq_true, Bool.or_eq_true, Bool.or_eq_true, List.isEmpty_iff, Bool.not_eq_true'] at h
  obtain ((hnil | hmem) | hj) | haw := h
  · exact absurd hnil hne
  · exact .inl (by simpa using hmem)
  · exact .inr (.inl hj)
  · exact .inr (.inr ((awaitsPackages_iff s b).2 (.inl haw)))

theorem not_holdsBack (s : State) (b : Barrier) (h : ¬ s.stays b = true) (hfar : ¬ ((s.heard b).any (·.isNone)) = true) :
    ¬ s.holdsBack b := by
  rw [State.stays, Bool.or_eq_true, Bool.or_eq_true, Bool.or_eq_true, not_or, not_or, not_or, Bool.not_eq_true', Bool.not_eq_false] at h
  obtain ⟨⟨⟨-, hmem⟩, hj⟩, haw⟩ := h
  rw [State.holdsBack, awaitsPackages_iff]
  rintro (hb | hb | hb | hb)
  · simp only [List.all_eq_true, List.contains_iff_mem] at hmem
    obtain ⟨g, hg, p, hp, hn⟩ := hb
    exact hn (hmem g hg p hp)
  · exact hj hb
  · exact haw hb
  · exact hfar hb

/-- A barrier that has been reached and is looked at is released, or held back as it was. -/
theorem release_cases (s : State) (b : Barrier) (hne : b.arrived ≠ []) :
    (s.holdsBack b ∧ ∃ p told, s.release b = (s.setBarrier { b with told := told }).withPkg p) ∨
      (¬ s.holdsBack b ∧ ∃ p, s.release b = (s.setBarrier (s.freed b)).withPkg p) := by
  have hlast := heard_fromPackages s b
  unfold State.release
  extract_lets ms pod s0 of_ far s1 core num
  obtain ⟨q, hq⟩ : ∃ q, s0 = s.withPkg q := by
    simp only [s0]
    clear_value pod
    cases pod with
    | none => exact ⟨s.pkg, rfl⟩
    | some t =>
      dsimp only
      split
      · exact ⟨s.pkg, rfl⟩
      · exact tellPeers_pkg s t _ _ _ _
  have hs1 : s1 = (s.withPkg q).setBarrier (s.freed b) := by
    simp only [s1, hq, State.freed, ← hlast]
    rfl
  split
  next h => exact .inl ⟨holdsBack_of_stays s b hne h, s.pkg, b.told, rfl⟩
  next h =>
    split
    next hfar => exact .inl ⟨.inr (.inr ((awaitsPackages_iff s b).2 (.inr hfar))), q, true, by rw [hq]; rfl⟩
    next hfar =>
      refine .inr ⟨not_holdsBack s b h hfar, ?_⟩
      rw [hs1]
      exact lampPut_pkg ((s.withPkg q).setBarrier (s.freed b)) _ _ _

/-! ### A barrier looked up -/

@[simp] theorem barrier_key (s : State) (k : BarKey) : (s.barrier k).key = k := by
  unfold State.barrier
  cases h : s.barriers.find? fun b => b.key == k with
  | none => rfl
  | some b => simpa using List.find?_some h

theorem setBarrier_barrier (s : State) (b : Barrier) (p : Package) : ((s.setBarrier b).withPkg p).barrier b.key = b := by
  simp [State.withPkg, State.setBarrier, State.barrier]

/-! ### Outstanding arrivals (09 R204) -/

/-- The state in which the group's arrival at a barrier is outstanding, for the generation that the barrier has. -/
def State.arriving (s : State) (k : BarKey) (at_ : Option Word) : State :=
  { s with g := { s.g with arrivals := ⟨k, (s.barrier k).gen, at_⟩ :: s.g.arrivals.filter fun a => a.key != k } }

theorem arriving_arrival (s : State) (k : BarKey) (at_ : Option Word) :
    (s.arriving k at_).g.arrival k = some ⟨k, (s.barrier k).gen, at_⟩ := by
  simp [State.arriving, Group.arrival]

theorem passed_arrival (s : State) (k : BarKey) : (s.passed k).g.arrival k = none := by
  simp [State.passed, Group.arrival]

/-- A group without an arrival passes as it is. -/
theorem passed_of_none (s : State) (k : BarKey) (h : s.g.arrival k = none) : s.passed k = s := by
  have hf : (s.g.arrivals.filter fun x => x.key != k) = s.g.arrivals := by
    rw [List.filter_eq_self]
    simpa [Group.arrival] using h
  unfold State.passed
  rw [hf]

/-- A barrier that the issuing group has reached, with its gang's contribution. -/
def State.reached (s : State) (k : BarKey) (value : Option Word) : Barrier :=
  { s.barrier k with
    arrived := ((s.barrier k).arrived ++ s.g.parts).eraseDups
    values := match value with
      | some v => mapSet s.g.gang (maxHalves v ((mapGet s.g.gang (s.barrier k).values).getD 0)) (s.barrier k).values
      | none => (s.barrier k).values }

theorem arrive_eq (s : State) (k : BarKey) (value at_ : Option Word) :
    s.arrive k value at_ = (s.arriving k at_).release (s.reached k value) := rfl

/-- The members of a barrier are those of before an arrival, with the same slices. -/
theorem arriving_members (s : State) (k : BarKey) (at_ : Option Word) (P : Nat × Nat → Prop) :
    (∃ h ∈ (s.arriving k at_).members k, ∃ p ∈ h.parts, P p) ↔ ∃ h ∈ s.members k, ∃ p ∈ h.parts, P p := by
  simp only [State.members, State.all, List.mem_filter, List.mem_cons]
  constructor
  · rintro ⟨h, ⟨⟨rfl | h1, h2⟩, h3⟩, hp⟩
    · exact ⟨s.g, ⟨⟨.inl rfl, h2⟩, h3⟩, hp⟩
    · exact ⟨h, ⟨⟨.inr h1, h2⟩, h3⟩, hp⟩
  · rintro ⟨h, ⟨⟨rfl | h1, h2⟩, h3⟩, hp⟩
    · exact ⟨(s.arriving k at_).g, ⟨⟨.inl rfl, h2⟩, h3⟩, hp⟩
    · exact ⟨h, ⟨⟨.inr h1, h2⟩, h3⟩, hp⟩

/-- What holds a barrier back when the issuing group arrives. -/
abbrev State.stillHeld (s : State) (k : BarKey) : Prop :=
  (∃ h ∈ s.members k, ∃ p ∈ h.parts, p ∉ ((s.barrier k).arrived ++ s.g.parts).eraseDups) ∨ s.joining k = true ∨
    s.awaitsPackages (s.barrier k)

theorem arriving_holdsBack (s : State) (k : BarKey) (value at_ : Option Word) :
    (s.arriving k at_).holdsBack (s.reached k value) ↔ s.stillHeld k := by
  unfold State.holdsBack State.stillHeld
  rw [show (s.reached k value).key = k from barrier_key s k, arriving_members]
  rfl

/-- The state that an arrival leaves, with the barrier as `b`. -/
def State.arrivesIn (s t : State) (k : BarKey) (at_ : Option Word) (b : Barrier) : Prop :=
  ∃ p, t = ((s.arriving k at_).setBarrier b).withPkg p

section Arrival
variable (s : State) (k : BarKey) (value at_ : Option Word) (hnew : (s.g.parts.all fun p => (s.barrier k).arrived.contains p) = false)
include hnew

theorem reached_arrived_ne_nil : (s.reached k value).arrived ≠ [] := by
  obtain ⟨p, hp, -⟩ := List.all_eq_false.1 hnew
  exact List.ne_nil_of_mem (List.mem_eraseDups.2 (List.mem_append_right _ hp))

/-- The last arrival releases the barrier (09 R203). -/
theorem arrive_last (h : ¬ s.stillHeld k) :
    s.arrivesIn (s.arrive k value at_) k at_ ((s.arriving k at_).freed (s.reached k value)) := by
  rw [arrive_eq]
  obtain ⟨hb, -⟩ | ⟨-, hp⟩ := release_cases (s.arriving k at_) _ (reached_arrived_ne_nil s k value hnew)
  · exact absurd ((arriving_holdsBack s k value at_).1 hb) h
  · exact hp

/-- Another arrival is recorded with the barrier's generation (09 R203, R204). -/
theorem arrive_early (h : s.stillHeld k) :
    ∃ told, s.arrivesIn (s.arrive k value at_) k at_ { s.reached k value with told := told } := by
  rw [arrive_eq]
  obtain ⟨-, p, told, hp⟩ | ⟨hb, -⟩ := release_cases (s.arriving k at_) _ (reached_arrived_ne_nil s k value hnew)
  · exact ⟨told, p, hp⟩
  · exact absurd ((arriving_holdsBack s k value at_).2 h) hb

/-- Whatever becomes of the barrier, the arrival changes of its group the outstanding arrivals alone. -/
theorem arrive_g : (s.arrive k value at_).g = (s.arriving k at_).g := by
  by_cases h : s.stillHeld k
  · obtain ⟨told, p, hp⟩ := arrive_early s k value at_ hnew h
    rw [hp]
    rfl
  · obtain ⟨p, hp⟩ := arrive_last s k value at_ hnew h
    rw [hp]
    rfl

theorem arrive_acts : (s.arrive k value at_).g.acts = s.g.acts := by
  rw [arrive_g s k value at_ hnew]
  rfl

end Arrival

theorem arrivesIn_barrier (s t : State) (k : BarKey) (at_ : Option Word) (b : Barrier) (h : s.arrivesIn t k at_ b) (hk : b.key = k) :
    t.barrier k = b := by
  obtain ⟨p, rfl⟩ := h
  rw [← hk]
  exact setBarrier_barrier _ b p

/-- The maxima that a released barrier gives (09 R205; 22 R444). -/
theorem freed_last (s : State) (k : BarKey) (v : Word) (at_ : Option Word) :
    ((s.arriving k at_).freed (s.reached k (some v))).last =
      (s.fromPackages (s.barrier k)).foldl maxHalves ((s.barrier k).values.foldl (fun m p => maxHalves m p.2) v) := by
  have hc : (s.reached k (some v)).combined = (s.barrier k).values.foldl (fun m p => maxHalves m p.2) v :=
    (gangMaxima_mapSet _ _ _).trans (foldl_maxHalves _ _).symm
  exact congrArg (List.foldl maxHalves · (s.fromPackages (s.barrier k))) hc

end Sys2Proof.Machine
end

section
/-! SUPPORT. The barrier forms (09 R203 to R205; 18 R389): the checks of an arrival, the wait for its generation, and what each form
leaves. -/

namespace Sys2Proof.Machine

/-! ### Fewer sources -/

theorem awaited_subset (g : Group) (cs ds : List (BitVec 6)) (h : cs ⊆ ds) (hd : g.awaited ds = none) : g.awaited cs = none := by
  unfold Group.awaited at hd ⊢
  split at hd
  · cases hd
  next hnone =>
    have : g.pend.find? (fun p => !p.discarded && p.dst != 0 && p.banked == g.banked p.dst && cs.contains p.dst) = none := by
      rw [List.find?_eq_none] at hnone ⊢
      intro p hp hc
      simp only [Bool.and_eq_true, List.contains_iff_mem] at hc
      refine hnone p hp ?_
      simp only [Bool.and_eq_true, List.contains_iff_mem]
      exact ⟨hc.1, h hc.2⟩
    rw [this]

theorem resolving_subset (g : Group) (cs ds : List (BitVec 6)) (h : cs ⊆ ds) (hd : g.resolving ds = false) : g.resolving cs = false := by
  rw [Bool.eq_false_iff] at hd ⊢
  refine fun hc => hd ?_
  unfold Group.resolving at hc ⊢
  simp only [List.any_eq_true, Bool.and_eq_true] at hc ⊢
  obtain ⟨y, hy, hall, l, hl, hsl, c, hcm, hrec⟩ := hc
  exact ⟨y, hy, hall, l, hl, hsl, c, h hcm, hrec⟩

/-- What lets an instruction act with some sources lets it act with fewer. -/
theorem clear_subset (s : State) (i : Instr) (cs ds : List (BitVec 6)) (h : cs ⊆ ds) (hc : s.clear i ds) : s.clear i cs := by
  obtain ⟨⟨h1, h2, h3, h4, h5, h6, haw, hres, h9, h10, h11, h12, hst⟩, hk, hu⟩ := hc
  have hsub : cs ++ dsts i ⊆ ds ++ dsts i := fun c hc => by
    rw [List.mem_append] at hc ⊢
    exact hc.imp_left fun hc => h hc
  exact ⟨⟨h1, h2, h3, h4, h5, h6, awaited_subset _ _ _ hsub haw, resolving_subset _ _ _ hsub hres, h9, h10, h11, h12,
    fun c hc => hst c (hsub hc)⟩, fun l hl c hc => hk l hl c (h hc), hu⟩

/-! ### The checks of an arrival -/

/-- The group may arrive at a barrier: the partitions allow its number and a slice of the group has not arrived (09 R204; 18 R389). -/
abbrev State.mayArrive (s : State) (k : BarKey) : Prop :=
  k.id < s.barLimit k ∧ (s.g.parts.all fun p => (s.barrier k).arrived.contains p) = false

theorem parts_not_arrived (s : State) (k : BarKey) :
    (s.g.parts.all fun p => (s.barrier k).arrived.contains p) = false ↔ ∃ p ∈ s.g.parts, p ∉ (s.barrier k).arrived := by
  simp [List.all_eq_false]

theorem arriveTrap_none (s : State) (k : BarKey) (h : s.mayArrive k) : s.arriveTrap k = none := by
  obtain ⟨hlim, hnew⟩ := h
  simp only [State.arriveTrap, if_neg (Nat.not_le.2 hlim), hnew, Bool.false_eq_true, if_false]

/-- A number that the partitions do not allow traps (18 R389). -/
theorem arriveTrap_limit (s : State) (k : BarKey) (ht : k.top = false) (h : s.barLimit k ≤ k.id) :
    s.arriveTrap k = some (trap 0x20 (BitVec.ofNat 64 (0x600 + k.scope * 16 + k.id))) := by
  simp only [State.arriveTrap, if_pos h, ht, Bool.false_eq_true, if_false, Nat.add_assoc]

/-- A second arrival traps (09 R204). -/
theorem arriveTrap_twice (s : State) (k : BarKey) (hlim : k.id < s.barLimit k)
    (h : (s.g.parts.all fun p => (s.barrier k).arrived.contains p) = true) :
    s.arriveTrap k = some (trap 0x20 (BitVec.ofNat 64 (0x300 + k.scope * 16 + k.id))) := by
  simp only [State.arriveTrap, if_neg (Nat.not_le.2 hlim), h, if_true, Nat.add_assoc]

/-- The group has no arrival of its own at its pc: this issue of the instruction makes it. -/
abbrev State.notYet (s : State) (k : BarKey) : Prop := ∀ a, s.g.arrival k = some a → a.at_ ≠ some s.g.pc

theorem notYet_of_none (s : State) (k : BarKey) (h : s.g.arrival k = none) : s.notYet k := fun a ha => by
  rw [h] at ha
  cases ha

theorem barAct_fresh (i : Instr) (k : BarKey) (value : Option Word) (cont : State → Act) (s : State) (h : s.notYet k) :
    barAct i k value cont s = barAct.fresh i k value cont s := by
  unfold barAct
  split
  next a ha => exact if_neg (h a ha)
  next => rfl

theorem barAct_made (i : Instr) (k : BarKey) (value : Option Word) (cont : State → Act) (s : State) (a : Arrival)
    (ha : s.g.arrival k = some a) (hat : a.at_ = some s.g.pc) : barAct i k value cont s = s.await k cont := by
  unfold barAct
  rw [ha]
  exact if_pos hat

/-- An arrival that a trap refuses. -/
theorem barAct_trap (i : Instr) (k : BarKey) (value : Option Word) (cont : State → Act) (s : State) (t : Trap) (h : s.notYet k)
    (ht : s.arriveTrap k = some t) : barAct i k value cont s = .trap s t := by
  rw [barAct_fresh i k value cont s h]
  unfold barAct.fresh
  rw [ht]

theorem stream_zero (g : Group) : g.stream 0 = none := rfl

/-- An arrival that is made is awaited. -/
theorem barAct_arrives (i : Instr) (k : BarKey) (value : Option Word) (cont : State → Act) (s : State) (cs : List (BitVec 6))
    (hc : s.clear i cs) (hf : s.follower i = true) (hq : s.quiet false = true) (h : s.notYet k) (hm : s.mayArrive k) :
    barAct i k value cont s = (s.arrive k value (some s.g.pc)).await k cont := by
  obtain ⟨⟨-, hheld, -, -, -, -, -, -, -, -, -, -, hst⟩, -⟩ := hc
  have hd : s.g.stream ((dst i).getD 0) = none := by
    cases hd : dst i with
    | none => rfl
    | some d => exact hst d (by simp [dsts, hd])
  rw [barAct_fresh i k value cont s h]
  unfold barAct.fresh withAppend withAppendOn
  rw [arriveTrap_none s k hm]
  simp only [hd]
  refine (withFollower_go i s _ hf hheld).trans ?_
  exact if_pos hq

/-- A group whose arrival, if one is outstanding, is at a released generation goes on. -/
theorem await_goesOn (s : State) (k : BarKey) (cont : State → Act) (h : ∀ a, s.g.arrival k = some a → a.gen < (s.barrier k).gen) :
    s.await k cont = cont s := by
  unfold State.await
  split
  next => rfl
  next a ha => exact if_pos (h a ha)

theorem await_released (s : State) (k : BarKey) (cont : State → Act) (a : Arrival) (ha : s.g.arrival k = some a)
    (h : a.gen < (s.barrier k).gen) : s.await k cont = cont s :=
  await_goesOn s k cont fun _ hx => Option.some.inj (ha.symm.trans hx) ▸ h

theorem await_waits (s : State) (k : BarKey) (cont : State → Act) (a : Arrival) (ha : s.g.arrival k = some a)
    (h : (s.barrier k).gen ≤ a.gen) : s.await k cont = .wait s (.barrier k.scope k.id k.top) := by
  unfold State.await
  rw [ha]
  exact if_neg (Nat.not_lt.2 h)

section Arrived
variable (s : State) (k : BarKey) (value at_ : Option Word) (cont : State → Act)
  (hnew : (s.g.parts.all fun p => (s.barrier k).arrived.contains p) = false)
include hnew

theorem arrive_arrival : (s.arrive k value at_).g.arrival k = some ⟨k, (s.barrier k).gen, at_⟩ := by
  rw [arrive_g s k value at_ hnew]
  exact arriving_arrival s k at_

/-- The last to arrive goes on. -/
theorem await_last (h : ¬ s.stillHeld k) : (s.arrive k value at_).await k cont = cont (s.arrive k value at_) := by
  refine await_released _ k cont _ (arrive_arrival s k value at_ hnew) ?_
  rw [arrivesIn_barrier s _ k at_ _ (arrive_last s k value at_ hnew h) (barrier_key s k)]
  exact Nat.lt_succ_self _

/-- One that arrives while others are awaited waits. -/
theorem await_early (h : s.stillHeld k) :
    (s.arrive k value at_).await k cont = .wait (s.arrive k value at_) (.barrier k.scope k.id k.top) := by
  obtain ⟨told, ht⟩ := arrive_early s k value at_ hnew h
  refine await_waits _ k cont _ (arrive_arrival s k value at_ hnew) ?_
  rw [arrivesIn_barrier s _ k at_ _ ht (barrier_key s k)]
  exact Nat.le_refl _

end Arrived

/-! ### `bar` and `bar.arrive` (09 R204) -/

/-- The barrier that `bar`, `bar.arrive` and `bar.wait` name. -/
abbrev Group.plainKey (g : Group) (sc : BitVec 3) (n : BitVec 4) : BarKey := g.barKey sc.toNat n.toNat false

section Bar
variable (s : State) (n : BitVec 4) (sc : BitVec 3)

/-- `bar.arrive` records its arrival and goes on. -/
theorem exec_barArrive (hc : s.clear (.barArrive n sc) []) (hf : s.follower (.barArrive n sc) = true) (hq : s.quiet false = true)
    (hm : s.mayArrive (s.g.plainKey sc n)) :
    exec (.barArrive n sc) s =
      .next ((s.arrive (s.g.plainKey sc n) none none).past (.barArrive n sc) s) := by
  have hh := clear_held _ s hc
  refine issueOn_done _ strict [] _ _ s _ hc rfl ?_ ((congrArg Group.held (arrive_g s _ none none hm.2)).trans hh)
  unfold barArriveAct
  rw [arriveTrap_none s _ hm]
  exact (withFollower_go _ s _ hf hh).trans (if_pos hq)

section First
variable (hc : s.clear (.bar n sc) []) (hf : s.follower (.bar n sc) = true) (hq : s.quiet false = true)
  (hm : s.mayArrive (s.g.plainKey sc n)) (hn : s.notYet (s.g.plainKey sc n))
include hc hf hq hm hn

/-- `bar` goes on past the barrier where its arrival is the last. -/
theorem exec_bar_last (h : ¬ s.stillHeld (s.g.plainKey sc n)) :
    exec (.bar n sc) s =
      .next (((s.arrive (s.g.plainKey sc n) none (some s.g.pc)).passed (s.g.plainKey sc n)).past
        (.bar n sc) s) := by
  refine issueOn_done _ strict [] _ _ s _ hc rfl ?_ ((congrArg Group.held (arrive_g s _ none _ hm.2)).trans (clear_held _ s hc))
  exact (barAct_arrives _ _ none _ s [] hc hf hq hn hm).trans (await_last s _ none _ _ hm.2 h)

/-- `bar` waits where others are awaited. -/
theorem exec_bar_early (h : s.stillHeld (s.g.plainKey sc n)) :
    exec (.bar n sc) s =
      .next ((s.arrive (s.g.plainKey sc n) none (some s.g.pc)).waits (.barrier sc.toNat n.toNat false)) := by
  obtain ⟨told, p, hp⟩ := arrive_early s (s.g.plainKey sc n) none (some s.g.pc) hm.2 h
  refine issueOn_waits _ strict [] _ _ s _ _ hc rfl
    ((barAct_arrives _ _ none _ s [] hc hf hq hn hm).trans (await_early s _ none _ _ hm.2 h)) ?_ ?_
  · rw [hp]; rfl
  · rw [hp]; rfl

end First

section Again
variable (a : Arrival) (hc : s.clear (.bar n sc) []) (ha : s.g.arrival (s.g.plainKey sc n) = some a)
  (hat : a.at_ = some s.g.pc)
include hc ha hat

/-- `bar` that has arrived goes on once its generation is released. -/
theorem exec_bar_released (h : a.gen < (s.barrier (s.g.plainKey sc n)).gen) :
    exec (.bar n sc) s = .next ((s.passed (s.g.plainKey sc n)).past (.bar n sc) s) :=
  issueOn_done _ strict [] _ _ s _ hc rfl ((barAct_made _ _ none _ s a ha hat).trans (await_released s _ _ a ha h)) (clear_held _ s hc)

theorem exec_bar_waits (h : (s.barrier (s.g.plainKey sc n)).gen ≤ a.gen) :
    exec (.bar n sc) s = .next (s.waits (.barrier sc.toNat n.toNat false)) :=
  issueOn_wait _ strict [] _ _ s _ hc.1 hc.2.1 rfl ((barAct_made _ _ none _ s a ha hat).trans (await_waits s _ _ a ha h))

end Again

/-- `bar` and `bar.arrive` that may not arrive trap. -/
theorem exec_bar_trap (i : Instr) (t : Trap) (hi : i = .bar n sc ∨ i = .barArrive n sc) (hc : s.clear i [])
    (hn : s.notYet (s.g.plainKey sc n)) (ht : s.arriveTrap (s.g.plainKey sc n) = some t) :
    exec i s = .next (s.takeTrap t false).tick := by
  obtain ⟨hr, hk, -⟩ := hc
  obtain rfl | rfl := hi
  · exact issueOn_trap _ strict [] _ _ s t hr hk rfl (barAct_trap _ _ none _ s t hn ht)
  · refine issueOn_trap _ strict [] _ _ s t hr hk rfl ?_
    unfold barArriveAct
    rw [ht]

/-! ### `bar.wait` (09 R204) -/

section BarWait
variable (hc : s.clear (.barWait n sc) []) (hf : s.follower (.barWait n sc) = true)
  (hlim : n.toNat < s.barLimit (s.g.plainKey sc n))
include hc hf hlim

theorem barWaitAct_awaits :
    barWaitAct (.barWait n sc) (s.g.plainKey sc n) s =
      s.await (s.g.plainKey sc n) fun s1 => .done (s1.passed (s.g.plainKey sc n)) := by
  unfold barWaitAct
  exact (if_neg (Nat.not_le.2 hlim)).trans (withFollower_go _ s _ hf (clear_held _ s hc))

theorem exec_barWait_goesOn (h : ∀ a, s.g.arrival (s.g.plainKey sc n) = some a → a.gen < (s.barrier (s.g.plainKey sc n)).gen) :
    exec (.barWait n sc) s = .next ((s.passed (s.g.plainKey sc n)).past (.barWait n sc) s) :=
  issueOn_done _ strict [] _ _ s _ hc rfl ((barWaitAct_awaits s n sc hc hf hlim).trans (await_goesOn s _ _ h)) (clear_held _ s hc)

theorem exec_barWait_waits (a : Arrival) (ha : s.g.arrival (s.g.plainKey sc n) = some a)
    (h : (s.barrier (s.g.plainKey sc n)).gen ≤ a.gen) :
    exec (.barWait n sc) s = .next (s.waits (.barrier sc.toNat n.toNat false)) :=
  issueOn_wait _ strict [] _ _ s _ hc.1 hc.2.1 rfl ((barWaitAct_awaits s n sc hc hf hlim).trans (await_waits s _ _ a ha h))

end BarWait

end Bar

/-! ### `bar.max` (09 R205) -/

/-- The barrier that `bar.max` names by the word of its lowest active lane. -/
def Group.maxKey (g : Group) (w : Word) : BarKey := g.barKey (w.extractLsb' 0 3).toNat (w.extractLsb' 3 4).toNat true

/-- The maxima of the contributions of a group's active lanes. -/
def Group.contribution (g : Group) (a : BitVec 6) : Word := g.acts.foldl (fun m l => maxHalves m (g.words l a)) 0

/-- The state of a group of which some lanes take a barrier's maxima, and that goes on past it. -/
def State.takesMaxima (s : State) (k : BarKey) (d : BitVec 6) (ls : List Lane) : State :=
  State.passed { s with g := s.g.write d (ls.map fun y => (y.no, asData (s.barrier k).last)) } k

/-- What `bar.max` does when it goes on. -/
noncomputable def takeMaximaAct (i : Instr) (k : BarKey) (d : BitVec 6) (s : State) : Act :=
  putReg i d (s.g.acts.map fun l => (l.no, dataWord (s.barrier k).last)) s fun s => .done (s.passed k)

theorem takeMaximaAct_done (i : Instr) (k : BarKey) (d : BitVec 6) (s : State) (h : s.g.stream d = none) :
    takeMaximaAct i k d s = .done (s.takesMaxima k d s.g.acts) := by
  unfold takeMaximaAct putReg
  simp only [h]
  rfl

theorem withLead_known (c : BitVec 6) (s : State) (f : Val → State → Act) (l : Lane) (t : List Lane) (hl : s.g.acts = l :: t)
    (hst : s.g.stream c = none) (hk : (s.g.read l c).known = true) : withLead c s f = f (s.g.read l c) s := by
  have hp : (s.g.read l c).tag ≠ .poison := by
    rcases (Val.known_iff _).1 hk with e | e <;> simp [e]
  unfold withLead
  simp only [Group.holds, hst, Option.isNone_none, Bool.true_or, if_true, hl, known_isSym _ hk, Bool.false_eq_true, if_false, if_neg hp]

section BarMax
variable (s : State) (b a d : BitVec 6) (l : Lane) (rest : List Lane) (hc : s.clear (.barMax b a d) [a, b]) (hl : s.g.acts = l :: rest)
  (hsc : ((s.g.words l b).extractLsb' 0 3).toNat ≤ 4)
include hc hl hsc

/-- `bar.max` arrives with its contribution, and takes the maxima when it goes on. -/
theorem barMaxAct_eq :
    barMaxAct (.barMax b a d) a b d s =
      barAct (.barMax b a d) (s.g.maxKey (s.g.words l b)) (some (s.g.contribution a))
        (takeMaximaAct (.barMax b a d) (s.g.maxKey (s.g.words l b)) d) s := by
  obtain ⟨⟨-, -, -, -, -, -, -, -, -, -, -, -, hst⟩, hk, -⟩ := hc
  unfold barMaxAct
  rw [withLead_known b s _ l rest hl (hst b (by simp)) (hk l (by simp [hl]) b (by simp))]
  exact if_neg (Nat.not_lt.2 hsc)

/-- `bar.max` goes on past the barrier where its arrival is the last. -/
theorem exec_barMax_last (hf : s.follower (.barMax b a d) = true) (hq : s.quiet false = true)
    (hm : s.mayArrive (s.g.maxKey (s.g.words l b))) (hn : s.notYet (s.g.maxKey (s.g.words l b)))
    (h : ¬ s.stillHeld (s.g.maxKey (s.g.words l b))) :
    exec (.barMax b a d) s =
      .next (((s.arrive (s.g.maxKey (s.g.words l b)) (some (s.g.contribution a)) (some s.g.pc)).takesMaxima
        (s.g.maxKey (s.g.words l b)) d s.g.acts).past (.barMax b a d) s) := by
  have hg := arrive_g s (s.g.maxKey (s.g.words l b)) (some (s.g.contribution a)) (some s.g.pc) hm.2
  have hca : s.clear (.barMax b a d) [a] := clear_subset s _ [a] [a, b] (by simp) hc
  have hst : s.g.stream d = none := reaches_dst_stream _ s [a] d hca.1 rfl
  refine issueOn_done _ strict [a] _ _ s _ hca rfl ?_ ?_
  · rw [barMaxAct_eq s b a d l rest hc hl hsc, barAct_arrives _ _ _ _ s [a] hca hf hq hn hm, await_last s _ _ _ _ hm.2 h]
    rw [takeMaximaAct_done _ _ d _ (by rw [hg]; exact hst), arrive_acts s _ _ _ hm.2]
  · refine (write_held _ _ _).trans ?_
    rw [hg]
    exact clear_held _ s hc

/-- `bar.max` that has arrived goes on with the maxima once its generation is released. -/
theorem exec_barMax_released (x : Arrival) (hx : s.g.arrival (s.g.maxKey (s.g.words l b)) = some x) (hat : x.at_ = some s.g.pc)
    (h : x.gen < (s.barrier (s.g.maxKey (s.g.words l b))).gen) :
    exec (.barMax b a d) s = .next ((s.takesMaxima (s.g.maxKey (s.g.words l b)) d s.g.acts).past (.barMax b a d) s) := by
  have hca : s.clear (.barMax b a d) [a] := clear_subset s _ [a] [a, b] (by simp) hc
  refine issueOn_done _ strict [a] _ _ s _ hca rfl ?_ ((write_held _ _ _).trans (clear_held _ s hc))
  rw [barMaxAct_eq s b a d l rest hc hl hsc, barAct_made _ _ _ _ s x hx hat, await_released s _ _ x hx h]
  exact takeMaximaAct_done _ _ d s (reaches_dst_stream _ s [a] d hca.1 rfl)

end BarMax

end Sys2Proof.Machine
end

section
/-! Barriers (09 R203 to R206; 18 R389; 22 R442, R444). -/

namespace Sys2Proof.Machine

/-! ### What an arrival leaves -/

theorem not_stillHeld (s : State) (k : BarKey)
    (hall : ∀ h ∈ s.members k, ∀ p ∈ h.parts, p ∈ ((s.barrier k).arrived ++ s.g.parts).eraseDups) (hj : s.joining k = false)
    (haw : ¬ s.awaitsPackages (s.barrier k)) : ¬ s.stillHeld k := by
  rintro (⟨h, hh, p, hp, hn⟩ | hb | hb)
  · exact hn (hall h hh p hp)
  · rw [hj] at hb
    cases hb
  · exact haw hb

theorem barrier_congr (s t : State) (k : BarKey) (h : t.barriers = s.barriers) : t.barrier k = s.barrier k := by
  simp only [State.barrier, h]

/-- Beside its group and the clk the machine is as it was. -/
def State.beside (s t : State) : Prop := t.mem = s.mem ∧ t.groups = s.groups ∧ t.cores = s.cores ∧ t.barriers = s.barriers

theorem beside_trans (s t u : State) (hst : s.beside t) (htu : t.beside u) : s.beside u := by
  obtain ⟨h1, h2, h3, h4⟩ := hst
  obtain ⟨h5, h6, h7, h8⟩ := htu
  exact ⟨h5.trans h1, h6.trans h2, h7.trans h3, h8.trans h4⟩

theorem beside_past (s : State) (i : Instr) (s0 : State) : s.beside (s.past i s0) := ⟨rfl, rfl, rfl, rfl⟩

theorem beside_waits (s : State) (w : Wait) : s.beside (s.waits w) := ⟨rfl, rfl, rfl, rfl⟩

theorem beside_passed (s : State) (k : BarKey) : s.beside (s.passed k) := ⟨rfl, rfl, rfl, rfl⟩

theorem beside_takesMaxima (s : State) (k : BarKey) (d : BitVec 6) (ls : List Lane) : s.beside (s.takesMaxima k d ls) :=
  ⟨rfl, rfl, rfl, rfl⟩

/-- What is as it was after an arrival of which the group has, or has not yet, gone on, and how the barrier is left. -/
def State.arrivalLeaves (s t : State) (k : BarKey) (ds : List (BitVec 6)) (b : Barrier) : Prop :=
  t.mem = s.mem ∧ t.groups = s.groups ∧ t.cores = s.cores ∧ s.g.agrees t.g ds ∧ t.barrier k = b

/-- The outstanding arrivals are no part of what two groups agree in. -/
theorem agrees_arrivals (g h : Group) (ds : List (BitVec 6)) (as : List Arrival) (ha : g.agrees h ds) :
    g.agrees { h with arrivals := as } ds := ha

section Leaves
variable (s u : State) (k : BarKey) (at_ : Option Word) (b : Barrier) (h : s.arrivesIn u k at_ b)
include h

theorem arrivesIn_g : u.g = (s.arriving k at_).g := by
  obtain ⟨p, rfl⟩ := h
  exact setBarrier_g _ b

theorem agrees_arrivesIn : s.g.agrees u.g [] := by
  rw [arrivesIn_g s u k at_ b h]
  exact agrees_arrivals s.g s.g [] _ (agrees_self s.g)

theorem arrivesIn_frame : u.mem = s.mem ∧ u.groups = s.groups ∧ u.cores = s.cores := by
  obtain ⟨p, rfl⟩ := h
  exact ⟨setBarrier_mem _ b, setBarrier_groups _ b, setBarrier_cores _ b⟩

variable (hk : b.key = k)
include hk

/-- A state that differs from an arrival's in its group alone. -/
theorem arrivalLeaves_beside (t : State) (ds : List (BitVec 6)) (ht : u.beside t) (ha : s.g.agrees t.g ds) : s.arrivalLeaves t k ds b := by
  obtain ⟨hmem, hgroups, hcores⟩ := arrivesIn_frame s u k at_ b h
  obtain ⟨h1, h2, h3, h4⟩ := ht
  exact ⟨h1.trans hmem, h2.trans hgroups, h3.trans hcores, ha, (barrier_congr u t k h4).trans (arrivesIn_barrier s u k at_ b h hk)⟩

theorem arrivalLeaves_past (i : Instr) : s.arrivalLeaves (u.past i s) k [] b :=
  arrivalLeaves_beside s u k at_ b h hk _ [] (beside_past u i s)
    (agrees_past s.g u.g [] i s.g _ _ (agrees_arrivesIn s u k at_ b h))

theorem arrivalLeaves_passed (i : Instr) : s.arrivalLeaves ((u.passed k).past i s) k [] b :=
  arrivalLeaves_beside s u k at_ b h hk _ [] (beside_trans _ _ _ (beside_passed u k) (beside_past _ i s))
    (agrees_past s.g (u.passed k).g [] i s.g _ _ (agrees_arrivals s.g u.g [] _ (agrees_arrivesIn s u k at_ b h)))

theorem arrivalLeaves_waits (w : Wait) : s.arrivalLeaves (u.waits w) k [] b :=
  arrivalLeaves_beside s u k at_ b h hk _ [] (beside_waits u w) (agrees_arrivesIn s u k at_ b h)

end Leaves

/-! ### `bar` and `bar.arrive` -/

theorem past_arrival (s : State) (i : Instr) (s0 : State) (k : BarKey) : (s.past i s0).g.arrival k = s.g.arrival k := rfl

theorem waits_arrival (s : State) (w : Wait) (k : BarKey) : (s.waits w).g.arrival k = s.g.arrival k := rfl

section Arrive
variable (i : Instr) (s : State) (n : BitVec 4) (sc : BitVec 3) (hi : i = .bar n sc ∨ i = .barArrive n sc) (hc : s.clear i [])
  (hf : s.follower i = true) (hq : s.quiet false = true) (hm : s.mayArrive (s.g.plainKey sc n))
  (hn : s.notYet (s.g.plainKey sc n))
include hi hc hf hq hm hn

/-- The last arrival goes on, and its barrier is released. -/
theorem bar_releases (h : ¬ s.stillHeld (s.g.plainKey sc n)) :
    ∃ t b, exec i s = .next t ∧ t.g.pc = s.g.pc + 4 ∧ s.arrivalLeaves t (s.g.plainKey sc n) [] b ∧
      b.gen = (s.barrier (s.g.plainKey sc n)).gen + 1 ∧ b.arrived = [] := by
  obtain rfl | rfl := hi
  · exact ⟨_, _, exec_bar_last s n sc hc hf hq hm hn h, rfl,
      arrivalLeaves_passed s _ _ _ _ (arrive_last s _ none _ hm.2 h) (barrier_key _ _) _, rfl, rfl⟩
  · exact ⟨_, _, exec_barArrive s n sc hc hf hq hm, rfl,
      arrivalLeaves_past s _ _ _ _ (arrive_last s _ none _ hm.2 h) (barrier_key _ _) _, rfl, rfl⟩

/-- Another arrival is recorded, and `bar` waits. -/
theorem bar_records (h : s.stillHeld (s.g.plainKey sc n)) :
    ∃ t b, exec i s = .next t ∧ s.arrivalLeaves t (s.g.plainKey sc n) [] b ∧
      b.gen = (s.barrier (s.g.plainKey sc n)).gen ∧
      b.arrived = ((s.barrier (s.g.plainKey sc n)).arrived ++ s.g.parts).eraseDups ∧
      (i = .barArrive n sc → t.g.pc = s.g.pc + 4 ∧ t.g.arrival (s.g.plainKey sc n) =
        some ⟨s.g.plainKey sc n, (s.barrier (s.g.plainKey sc n)).gen, none⟩) ∧
      (i = .bar n sc → t.g.pc = s.g.pc ∧ (∃ c, t.g.run = .waiting (.barrier sc.toNat n.toNat false) c) ∧
        t.g.arrival (s.g.plainKey sc n) =
          some ⟨s.g.plainKey sc n, (s.barrier (s.g.plainKey sc n)).gen, some s.g.pc⟩) := by
  obtain rfl | rfl := hi
  · obtain ⟨told, ht⟩ := arrive_early s _ none (some s.g.pc) hm.2 h
    have hg := arrive_g s (s.g.plainKey sc n) none (some s.g.pc) hm.2
    refine ⟨_, _, exec_bar_early s n sc hc hf hq hm hn h, arrivalLeaves_waits s _ _ _ _ ht (barrier_key _ _) _, rfl, rfl,
      (by rintro ⟨⟩), fun _ => ⟨?_, ⟨_, rfl⟩, ?_⟩⟩
    · change (s.arrive _ none (some s.g.pc)).g.pc = s.g.pc
      rw [hg]
      rfl
    · exact (waits_arrival _ _ _).trans (arrive_arrival s _ none _ hm.2)
  · obtain ⟨told, ht⟩ := arrive_early s _ none none hm.2 h
    exact ⟨_, _, exec_barArrive s n sc hc hf hq hm, arrivalLeaves_past s _ _ _ _ ht (barrier_key _ _) _, rfl, rfl,
      fun _ => ⟨rfl, (past_arrival _ _ s _).trans (arrive_arrival s _ none _ hm.2)⟩, by rintro ⟨⟩⟩

end Arrive

/-- What a group that goes on past a barrier leaves. -/
theorem passed_past_frame (s : State) (k : BarKey) (i : Instr) :
    let t := (s.passed k).past i s
    t.mem = s.mem ∧ t.groups = s.groups ∧ t.barriers = s.barriers ∧ s.g.agrees t.g [] ∧ t.g.arrival k = none := by
  obtain ⟨hmem, hgroups, -, hbarriers⟩ := beside_trans _ _ _ (beside_passed s k) (beside_past (s.passed k) i s)
  exact ⟨hmem, hgroups, hbarriers, agrees_past s.g (s.passed k).g [] i s.g _ _ (agrees_arrivals s.g s.g [] _ (agrees_self s.g)),
    (past_arrival (s.passed k) i s k).trans (passed_arrival s k)⟩

/-! ### `bar.max` -/

/-- The group that takes a value in every active lane holds it there. -/
theorem reg_write_acts (g : Group) (d : BitVec 6) (v : Val) (hd : d ≠ 0) (hreg : d.toNat < 56) (hb : g.banked d = false) :
    ∀ y ∈ (g.write d (g.acts.map fun l => (l.no, v))).lanes, y.active = true → y.reg d = v := by
  intro y hy hact
  rw [write_general g d _ hb] at hy
  obtain ⟨x, hx, rfl⟩ := List.mem_map.1 hy
  rw [(takes_active_live x d _).1] at hact
  obtain ⟨z, hz⟩ := Option.isSome_iff_exists.1
    (List.find?_isSome (p := fun l : Lane => l.no == x.no).2 ⟨x, List.mem_filter.2 ⟨hx, hact⟩, beq_self_eq_true _⟩)
  rw [takes_reg_same x d _ hd hreg, lookup_lanes g.acts (fun _ => v)]
  rw [show (g.acts.find? fun l => l.no == x.no) = some z from hz]
  rfl

theorem past_lanes (s : State) (i : Instr) (s0 : State) : (s.past i s0).g.lanes = s.g.lanes := rfl

theorem takesMaxima_lanes (s : State) (k : BarKey) (d : BitVec 6) (ls : List Lane) :
    (s.takesMaxima k d ls).g.lanes = (s.g.write d (ls.map fun y => (y.no, asData (s.barrier k).last))).lanes := rfl

section Maxima
variable (s u : State) (k : BarKey) (at_ : Option Word) (b : Barrier) (d : BitVec 6) (i : Instr)
  (h : s.arrivesIn u k at_ b) (hk : b.key = k)
include h hk

/-- What a group that takes a barrier's maxima leaves. -/
theorem arrivalLeaves_takesMaxima : s.arrivalLeaves ((u.takesMaxima k d s.g.acts).past i s) k [d] b := by
  refine arrivalLeaves_beside s u k at_ b h hk _ [d] (beside_trans _ _ _ (beside_takesMaxima u k d s.g.acts) (beside_past _ i s))
    (agrees_past s.g (u.takesMaxima k d s.g.acts).g [d] i s.g _ _ (agrees_arrivals s.g (u.g.write d _) [d] _ ?_))
  rw [arrivesIn_g s u k at_ b h]
  exact agrees_write (s.arriving k at_).g d _

theorem takesMaxima_reg (hd : d ≠ 0) (hreg : d.toNat < 56) (hbank : s.g.banked d = false) :
    ∀ y ∈ ((u.takesMaxima k d s.g.acts).past i s).g.lanes, y.active = true → y.reg d = asData b.last := by
  rw [past_lanes, takesMaxima_lanes, ← arrivesIn_barrier s u k at_ b h hk, arrivesIn_g s u k at_ b h]
  exact reg_write_acts (s.arriving k at_).g d _ hd hreg hbank

end Maxima

/-- Settles O32: each form by what its arrival leaves, and the wait by the generation awaited. -/
theorem barriersReleaseByGeneration : Obligations.BarriersReleaseByGeneration := by
  unfold Obligations.BarriersReleaseByGeneration
  refine ⟨fun i s n sc hi hc => ⟨fun hlim hn => ?_, fun hlim htwice hn => ?_,
      fun hlim hnew hf hq hn => ⟨fun hall hj haw => ?_, fun h => ?_⟩⟩,
    fun s n sc a hc ha hat => ⟨fun h => ?_, fun h => exec_bar_waits s n sc a hc ha hat h⟩,
    fun s n sc hc hf hlim => ⟨fun ha => ?_, fun a ha h => ?_, fun a ha h => exec_barWait_waits s n sc hc hf hlim a ha h⟩,
    fun s b a d l rest hc hf hq hl hsc hlim hnew hn hbank hd hreg hall hj haw => ?_⟩
  · exact exec_bar_trap s n sc i _ hi hc hn (arriveTrap_limit s _ rfl hlim)
  · exact exec_bar_trap s n sc i _ hi hc hn (arriveTrap_twice s _ hlim htwice)
  · obtain ⟨t, b, ht, hpc, ⟨hmem, hgroups, hcores, hagree, hb⟩, hgen, harr⟩ :=
      bar_releases i s n sc hi hc hf hq ⟨hlim, hnew⟩ hn (not_stillHeld s _ hall hj haw)
    exact ⟨t, ht, hpc, hmem, hgroups, hcores, hagree, by rw [hb, hgen], by rw [hb, harr]⟩
  · obtain ⟨t, b, ht, ⟨hmem, hgroups, hcores, hagree, hb⟩, hgen, harr, hgo, hwait⟩ :=
      bar_records i s n sc hi hc hf hq ⟨hlim, hnew⟩ hn h
    exact ⟨t, ht, hmem, hgroups, hcores, hagree, by rw [hb, hgen], by rw [hb, harr], hgo, hwait⟩
  · exact ⟨_, exec_bar_released s n sc a hc ha hat h, rfl, passed_past_frame s _ _⟩
  · rw [exec_barWait_goesOn s n sc hc hf hlim fun a hx => (by rw [ha] at hx; cases hx), passed_of_none s _ ha]
  · exact ⟨_, exec_barWait_goesOn s n sc hc hf hlim fun x hx => Option.some.inj (ha.symm.trans hx) ▸ h, rfl, passed_past_frame s _ _⟩
  · have hfree := not_stillHeld s _ hall hj haw
    have harr := arrive_last s (s.g.maxKey (s.g.words l b)) (some (s.g.contribution a)) (some s.g.pc) hnew hfree
    obtain ⟨hmem, hgroups, -, hagree, hb⟩ := arrivalLeaves_takesMaxima s _ _ _ _ d (.barMax b a d) harr (barrier_key _ _)
    have hregs := takesMaxima_reg s _ _ _ _ d (.barMax b a d) harr (barrier_key _ _) hd hreg hbank
    rw [freed_last] at hregs
    exact ⟨_, exec_barMax_last s b a d l rest hc hl hsc hf hq ⟨hlim, hnew⟩ hn hfree, rfl, hmem, hgroups, hagree,
      congrArg Barrier.gen hb, congrArg Barrier.arrived hb, hregs⟩

end Sys2Proof.Machine
end

section
/-! Barrier forms and state-store instructions complete (09 R203 to R205; 17 R354 to R362). -/

namespace Sys2Proof.Machine

/-! ### The state store's answers (17 R354) -/

/-- An instruction that has sent what it waits for goes on in its body, and past itself when that is done. -/
theorem issueOn_sent (i : Instr) (m : Mode) (cs : List (BitVec 6)) (pre : State → Option Trap) (body : State → Act) (s s1 : State)
    (hs : s.g.sent = true) (hu : s.unstepped) (hb : body s = .done s1) (hh : s1.g.held = []) :
    issueOn cs i m pre body s = .next (s1.past i s) := by
  unfold issueOn issueBlk issueAct
  rw [if_pos hs, hb, finish_done i s s1 hu hh]

/-- The state in which an answer is in a register of the active lanes, or in none. -/
def State.answered (s : State) (c : BitVec 6) (v : Val) : State :=
  { s with g := if c = 0 then s.g else s.g.write c (s.g.acts.map fun y => (y.no, v)) }

theorem answered_zero (s : State) (v : Val) : s.answered 0 v = s := rfl

theorem answered_held (s : State) (c : BitVec 6) (v : Val) : (s.answered c v).g.held = s.g.held := by
  unfold State.answered
  dsimp only
  split
  · rfl
  · exact write_held _ _ _

section Answered
variable (s : State) (l : Lane) (rest : List Lane) (n : Nat) (v : Val) (as : List (Nat × Answer)) (hs : s.g.sent = true)
  (hl : s.g.acts = l :: rest) (ha : s.g.answers = (n, .ok v) :: as)
include hs hl ha

theorem ssAct_answered (i : Instr) (d : BitVec 6) (ask : State → Act) (hd : s.g.stream d = none) :
    ssAct i d ask s = .done (s.answered d v) := by
  have he : s.g.execs true = [l] := by simp [Group.execs, hl]
  unfold ssAct
  simp only [he, hs, if_true, ha]
  by_cases h0 : d = 0
  · rw [if_pos h0, h0, answered_zero]
  · rw [if_neg h0]
    unfold putReg State.answered
    simp only [hd, if_neg h0]

/-- A state-store instruction completes with its unit's answer. -/
theorem issue_ssAct (hh : s.g.held = []) (hu : s.unstepped) (i : Instr) (pre : State → Option Trap) (d : BitVec 6) (ask : State → Act)
    (hd : s.g.stream d = none) : issue i elected pre (ssAct i d ask) s = .next ((s.answered d v).past i s) :=
  issueOn_sent i elected _ pre _ s _ hs hu (ssAct_answered s l rest n v as hs hl ha i d ask hd) ((answered_held s d v).trans hh)

end Answered

/-- Settles O60: the barrier forms by their completions, and the state-store instructions by the answer that each has. -/
theorem barrierAndStateStoreFormsComplete : Obligations.BarrierAndStateStoreFormsComplete := by
  unfold Obligations.BarrierAndStateStoreFormsComplete
  refine ⟨fun s n sc hc hf hq hlim hnew => exec_barArrive s n sc hc hf hq ⟨hlim, (parts_not_arrived s _).2 hnew⟩,
    fun s n sc hc => ⟨fun hf hq hlim hnew hnone hall hj haw => ?_, fun x hx hat h => exec_bar_released s n sc x hc hx hat h⟩,
    fun s b a d l rest hc hl hsc => ⟨fun hf hq hlim hnew hnone hall hj haw => ?_, fun x hx hat h => ?_⟩,
    fun s l rest n v as b a d hs hh hu hl ha => ?_⟩
  · refine exec_bar_last s n sc hc hf hq ⟨hlim, (parts_not_arrived s _).2 hnew⟩ (notYet_of_none s _ hnone)
      (not_stillHeld s _ (fun h hh p hp => ?_) hj haw)
    rw [List.mem_eraseDups, List.mem_append]
    exact hall h hh p hp
  · refine exec_barMax_last s b a d l rest hc hl hsc hf hq ⟨hlim, (parts_not_arrived s _).2 hnew⟩ (notYet_of_none s _ hnone)
      (not_stillHeld s _ (fun h hh p hp => ?_) hj haw)
    rw [List.mem_eraseDups, List.mem_append]
    exact hall h hh p hp
  · exact exec_barMax_released s b a d l rest hc hl hsc x hx hat h
  · have hanswer := issue_ssAct s l rest n v as hs hl ha hh hu
    have hnone (i : Instr) (pre : State → Option Trap) (ask : State → Act) :
        issue i elected pre (ssAct i 0 ask) s = .next (s.past i s) :=
      hanswer i pre 0 ask (stream_zero s.g)
    exact ⟨fun hd => ⟨hanswer (.rsOpen b a d) _ d _ hd, hanswer (.rsFork b a d) _ d _ hd, hanswer (.rsPos a d) _ d _ hd⟩,
      hnone (.rsRd b a) _ _, hnone (.rsWr b a) _ _, hnone (.rsSnap b a) _ _, hnone (.rsRoll b a) _ _, hnone (.rsDrop a) _ _⟩

end Sys2Proof.Machine
end
